-- ==== Sys2Proof/Word.lean ====
section
/-!
DEFINITION. The word types of the device and its numbered places.
Bit ranges and numbers are those of R3 and R4; every width is fixed by the spec.
-/

namespace Sys2Proof

/-- A byte of memory. -/
abbrev Byte := BitVec 8
/-- A 32-bit word: an element of an accumulator, a fetch-line word, a log operand. -/
abbrev W32 := BitVec 32
/-- The IMM field of an instruction word (R186). -/
abbrev W48 := BitVec 48
/-- A scalar register, a system register, a generic address (R161, R166, R24). -/
abbrev W64 := BitVec 64
/-- An instruction word (R186). -/
abbrev W96 := BitVec 96
/-- A vector register, and the 128 bytes of a line (R161, R30). -/
abbrev W1024 := BitVec 1024

end Sys2Proof
end

