-- ==== Sys2Proof/Syntax.lean ====
section
/-!
DEFINITION. The instructions of the device (R186 to R197 and the instruction chapters) and the steps of its other
agents (95_what_each_step_holds.md): one constructor of `Instr` for each row of spec/opcode_table.json.
-/

namespace Sys2Proof

/-- Element formats and their codes (R118). -/
inductive ETy where
  | bf16 | fp16 | fp32 | i8 | i16 | i32 | ui8 | ui16 | ui32 | rn8 | rn4 | ra | i64 | ui64
  deriving DecidableEq, Repr

/-- An operand specifier (R187). `none` is a specifier the instruction does not use, encoded 0x00. -/
inductive Opd where
  | none
  | g (n : Fin 64)
  | v (n : Fin 32)
  | k (n : Fin 8)
  | acc (n : Fin 8)
  | zero
  | imm
  deriving DecidableEq, Repr

/-- The predicate fields PM and PI (R186, R189). -/
structure Pred where
  pm : Fin 8
  pi : Bool
  deriving DecidableEq, Repr

/-- Conditions of CMP, BRC, FCMP and VCMP (R240). -/
inductive Cond where
  | eq | ne | lt | le | gt | ge | un | or
  deriving DecidableEq, Repr

/-- Ordering of a memory access (R208, R302). `sc` is for AMO only, `p` (posted) for stores only. -/
inductive MOrd where
  | none | acq | rel | p | sc
  deriving DecidableEq, Repr

/-- Scopes (R208, R311). -/
inductive Scope where
  | core | clu | dom | dev | sys
  deriving DecidableEq, Repr

/-- Operations of VREDUCE and VSCAN (R276). -/
inductive RedOp where
  | add | min | max | and | or | xor
  deriving DecidableEq, Repr

/-- Operations of AMO and RED (R303). -/
inductive AmoOp where
  | add | and | or | xor | min | max | swap | cas | fadd | fmax
  deriving DecidableEq, Repr

/-- Operations of a logged update (R128). -/
inductive LogOp where
  | add | min | max | store
  deriving DecidableEq, Repr

/-- d, a and an immediate. -/
structure R1 where
  d : Opd
  a : Opd
  imm : W48
  p : Pred
  deriving DecidableEq, Repr

/-- d, a, b and an immediate. -/
structure R2 where
  d : Opd
  a : Opd
  b : Opd
  imm : W48
  p : Pred
  deriving DecidableEq, Repr

/-- A type, d, a and an immediate. -/
structure T1 where
  ty : ETy
  d : Opd
  a : Opd
  imm : W48
  p : Pred
  deriving DecidableEq, Repr

/-- A type, d, a, b and an immediate. -/
structure T2 where
  ty : ETy
  d : Opd
  a : Opd
  b : Opd
  imm : W48
  p : Pred
  deriving DecidableEq, Repr

/-- A type, d, a, b, c and an immediate. -/
structure T3 where
  ty : ETy
  d : Opd
  a : Opd
  b : Opd
  c : Opd
  imm : W48
  p : Pred
  deriving DecidableEq, Repr

/-- SEL: d, a, b, c and an immediate (R249). -/
structure R3 where
  d : Opd
  a : Opd
  b : Opd
  c : Opd
  imm : W48
  p : Pred
  deriving DecidableEq, Repr

/-- A condition, a type, d, a, b and an immediate or target (R240). -/
structure C2 where
  cond : Cond
  ty : ETy
  d : Opd
  a : Opd
  b : Opd
  imm : W48
  p : Pred
  deriving DecidableEq, Repr

/-- A conversion from `src` to `dst` (R255, R274). -/
structure Cv where
  dst : ETy
  src : ETy
  d : Opd
  a : Opd
  imm : W48
  p : Pred
  deriving DecidableEq, Repr

/-- VREDUCE and VSCAN (R276, R277). -/
structure Rd where
  op : RedOp
  ty : ETy
  d : Opd
  a : Opd
  p : Pred
  deriving DecidableEq, Repr

/-- EXT and INS: a field of `len1 + 1` bits at `pos` (R251). `sgn` is the FN type of EXT. -/
structure Bf where
  sgn : Bool
  d : Opd
  a : Opd
  len1 : Fin 64
  pos : Fin 64
  p : Pred
  deriving DecidableEq, Repr

/-- The loads, stores and queue operations (R208, R209). `sz` is FN[2:0]. -/
structure MemA where
  ord : MOrd
  scope : Scope
  sz : Fin 8
  d : Opd
  a : Opd
  b : Opd
  c : Opd
  off : W48
  p : Pred
  deriving DecidableEq, Repr

/-- An address operand [gA + off]. -/
structure Ad where
  a : Opd
  off : W48
  p : Pred
  deriving DecidableEq, Repr

/-- CPY (R231). -/
structure Cp where
  dst : Opd
  src : Opd
  shp : Opd
  midx : BitVec 10
  grp : Fin 16
  id : Fin 64
  p : Pred
  deriving DecidableEq, Repr

/-- TUPD and TUPDV (R228). -/
structure Up where
  op : LogOp
  a : Opd
  b : Opd
  c : Opd
  p : Pred
  deriving DecidableEq, Repr

/-- AMO and RED (R302). -/
structure Am where
  ord : MOrd
  scope : Scope
  tagged : Bool
  d : Opd
  a : Opd
  b : Opd
  c : Opd
  op : AmoOp
  ty : ETy
  off : W32
  p : Pred
  deriving DecidableEq, Repr

/-- MMA and MMU (R291). `f16` is FN[0] of MMA. -/
structure Mm where
  f16 : Bool
  d : Opd
  sa : Fin 16
  sb : Fin 16
  kn : Fin 64
  p : Pred
  deriving DecidableEq, Repr

/-- An error that a link slot meets in one network cycle (R49). -/
inductive LinkErr where
  | none | single | double | doubleCtl
  deriving DecidableEq, Repr

/-- An access of a peer to this device's memory that a frame of an optical link brings: bytes to write, or a line to read (R85). -/
inductive PeerOp where
  | write (pa : Nat) (data : List (BitVec 8))
  | read (pa : Nat)
  deriving DecidableEq, Repr

/-- A frame of an optical link: the peer's timecode (R402), and an access that it brings. -/
structure PeerFrame where
  tc : BitVec 64
  op : Option PeerOp
  deriving DecidableEq, Repr

/-- The instructions of the strands and the steps of the other agents, one constructor for each row of the table. -/
inductive Instr where
  -- class S (R240)
  | nop
  | movi (d : Opd) (val : W48) (p : Pred)
  | movhi (d : Opd) (val : BitVec 16) (p : Pred)
  | add (x : T2) | sub (x : T2) | mul (x : T2) | mulh (x : T2) | div (x : T2) | rem (x : T2)
  | and (x : T2) | or (x : T2) | xor (x : T2) | andn (x : T2)
  | shl (x : T2) | shr (x : T2) | sar (x : T2) | rot (x : T2) | min (x : T2) | max (x : T2)
  | cmp (x : C2)
  | sel (x : R3)
  | clz (x : T1) | popc (x : T1) | brev (x : T1)
  | ext (x : Bf) | ins (x : Bf)
  | fadd (x : T2) | fsub (x : T2) | fmul (x : T2) | fma (x : T3) | fdiv (x : T2) | fsqrt (x : T1)
  | fmin (x : T2) | fmax (x : T2)
  | fcmp (x : C2)
  | cvt (x : Cv)
  | br (tgt : W48) (p : Pred)
  | brc (x : C2)
  | call (tgt : W48) (p : Pred)
  | ret (p : Pred)
  | jmp (a : Opd) (p : Pred) | jmpL (a : Opd) (p : Pred)
  | loop (a : Opd) (tgt : W48) (p : Pred)
  | nexti (tgt : W48) (p : Pred)
  | fmt (desc : W32)
  -- class V (R266)
  | vadd (x : T2) | vsub (x : T2) | vmul (x : T2) | vmulH (x : T2) | vfma (x : T3)
  | vmin (x : T2) | vmax (x : T2) | vabs (x : T1) | vneg (x : T1)
  | vand (x : T2) | vandN (x : T2) | vor (x : T2) | vxor (x : T2)
  | vshl (x : T2) | vshr (x : T2) | vsar (x : T2)
  | vcmp (x : C2)
  | vsel (x : T3)
  | vcvt (x : Cv)
  | vrcp (x : R1) | vrsq (x : R1) | vsqrt (x : R1) | vexp2 (x : R1) | vlog2 (x : R1) | vtanh (x : R1)
  | vreduce (x : Rd) | vscan (x : Rd)
  | vperm (x : T2) | vrot (x : T2) | vbcast (x : T2) | vextr (x : T2) | vinsl (x : T2)
  | viota (x : T1) | vmov (x : T1) | vcompress (x : T1) | vexpand (x : T1)
  | vrns (x : R1) | vcrt (x : R1) | vradd (x : R2) | vraddSub (x : R2) | vrmul (x : R2)
  | kopAnd (x : R2) | kopOr (x : R2) | kopXor (x : R2) | kopAndn (x : R2) | kopNot (x : R1)
  | kmov (x : R1)
  | kpop (x : T1)
  -- class M (R209)
  | ld (x : MemA) | st (x : MemA) | stP (x : MemA)
  | ldv (x : MemA) | stv (x : MemA) | ldvs (x : MemA) | stvs (x : MemA) | gather (x : MemA) | scatter (x : MemA)
  | pref (x : Ad) | prefPx (x : Ad)
  | cinv (x : Ad) | cinvData (p : Pred) | cinvInstr (p : Pred) | cinvAll (p : Pred)
  | cwb (x : Ad)
  | bmode (mode : Fin 3) (bank : Fin 64) (p : Pred)
  | qpush (x : MemA) | qpop (x : MemA)
  | qfree (d : Opd) (p : Pred) | qfreeAddr (d : Opd) (p : Pred)
  | tdef (t : Fin 64) (a : Opd) (off : W32) (p : Pred)
  | tfill (t : Fin 64) (p : Pred) | tdrain (t : Fin 64) (p : Pred) | trel (t : Fin 64) (p : Pred)
  | tstat (d : Opd) (t : Fin 64) (p : Pred) | tstatTime (d : Opd) (t : Fin 64) (p : Pred)
  | tldv (d row col : Opd) (t : Fin 64) (p : Pred)
  | tstv (row col data : Opd) (t : Fin 64) (p : Pred)
  | tupd (x : Up) | tupdv (x : Up)
  | logt (d : Opd) (x : Ad) | logtRet (a : Opd) (p : Pred)
  | tlogQuery (d a : Opd) (p : Pred) | tlogCompact (d a : Opd) (p : Pred) | tlogSync (d a : Opd) (p : Pred)
  | cpyG2l (x : Cp) | cpyL2g (x : Cp) | cpyL2r (x : Cp) | cpyMcast (x : Cp) | cpyRedc (x : Cp)
  | cpyq (d : Opd) (clr : Bool) (word : Fin 4) (id : Fin 64) (p : Pred)
  | oclaim (o : Fin 16) (t : Fin 64) (p : Pred)
  | ofill (t src : Fin 64) (p : Pred)
  | orels (o : Fin 16) (p : Pred)
  | subs (base shp : Opd) (t : Fin 64) (rn1 : Fin 16) (sid : Fin 4) (p : Pred)
  | unsubs (sid : Fin 4) (p : Pred)
  | grpset (n : Fin 16) (a : Opd) (p : Pred)
  | wait (l s c t : BitVec 7) (p : Pred)
  | fence (scope : Scope) (later earlier : BitVec 7) (p : Pred)
  | amo (x : Am) | red (x : Am)
  -- class X, matrix (R291)
  | mma (x : Mm)
  | mmz (d : Opd) (fill : W32) (p : Pred)
  | amov (d a : Opd) (p : Pred)
  | amovV (d a : Opd) (r : Fin 8) (p : Pred) | amovA (d a : Opd) (r : Fin 8) (p : Pred)
  | ald (d : Opd) (x : Ad)
  | adrn (clr : Bool) (a b c : Opd) (ssa ssb : Fin 16) (off : W32) (p : Pred)
  | aclaim (d : Opd) (p : Pred) | arels (d : Opd) (p : Pred)
  | uprog (i32 : Bool) (a b : Opd) (ns : Fin 4) (p : Pred)
  | mmu (x : Mm)
  -- class X, synchronisation, tasks, power, system (R339)
  | arv (scope : Scope) (other : Bool) (m : Fin 8) (ch : Fin 16) (p : Pred)
  | wtb (scope : Scope) (ch : Fin 16) (p : Pred)
  | btst (sel : Fin 5) (d : Opd) (ch : Fin 16) (p : Pred)
  | bcfg (a : Opd) (ch : Fin 16) (p : Pred)
  | bcfgGrp (a b : Opd) (ch : Fin 16) (p : Pred)
  | spawn (a : Opd) (p : Pred)
  | take (d : Opd) (p : Pred)
  | suspend (a : Opd) (tgt : W48) (p : Pred)
  | done (p : Pred)
  | yield (tgt : W48) (p : Pred)
  | sprint (d a : Opd) (p : Pred)
  | lease (d : Opd) (p : Pred) | leaseExp (d : Opd) (p : Pred) | leaseRel (d : Opd) (p : Pred)
  | trap (code : BitVec 16) (p : Pred)
  | eret (p : Pred)
  | sysr (d : Opd) (reg : BitVec 12) (p : Pred)
  | sysw (a : Opd) (reg : BitVec 12) (p : Pred)
  | tlbinv (a : Opd) (p : Pred) | tlbinvPg (a b : Opd) (p : Pred)
  | brk (code : BitVec 16) (p : Pred)
  | timec (d : Opd) (p : Pred) | timecWait (d a : Opd) (p : Pred)
  | halt (p : Pred)
  -- steps of the device's other agents. c core, s strand, uid message, ln line, h HBM controller
  | coreReset (c : Nat)
  | boot
  | instructionLineFill (c s : Nat)
  | routerCycle (c : Nat) (errs : List LinkErr)
  | injectionStarvation (c : Nat)
  | messageDelivery (uid : Nat)
  | netGovernorWindow (r : Nat)
  | netStepChange (r : Nat)
  | ticketRetryResend (uid : Nat)
  | freshResend (uid : Nat)
  | ticketCancel (uid : Nat)
  | ticketAbandon (res : Nat)
  | nackRetryReceived (uid : Nat)
  | homeRead (uid : Nat) | homeWrite (uid : Nat) | homeRed (uid : Nat)
  | uGrantRequest (uid : Nat)
  | hbmLineFill (ln : Nat)
  | victimWritebackDone (ln : Nat)
  | invalidationAck (uid : Nat)
  | recallFold (ln : Nat)
  | partialFlush (uid : Nat)
  | proxyLoad (uid : Nat) | proxyStore (uid : Nat) | proxyRed (uid : Nat) | proxyAmo (uid : Nat)
  | proxyFillAnswer (uid : Nat) | proxyGrantAnswer (uid : Nat)
  | proxyInvalidation (uid : Nat) | proxyRecall (uid : Nat)
  | hostWrite (pa : Nat) (data : List (BitVec 8)) (stream : Nat)
  | hostRead (pa n : Nat)
  | windowAccess (uid : Nat)
  | loadResponse (uid : Nat) | storeAnswer (uid : Nat) | amoAnswer (uid : Nat)
  | postedAck (uid : Nat) | postedFinalRefusal (uid : Nat)
  | qpushArrival (uid : Nat) | qpushAck (uid : Nat)
  | bmodeComplete (c bank : Nat)
  | tlbWalkProbe (wid : Nat)
  | faultMailboxPush (uid : Nat)
  | faultReply (c idx : Nat)
  | tlbBump (bid c : Nat) | bumpAck (bid c : Nat)
  | copyDestWrite (uid : Nat) | copyWriteAck (uid : Nat)
  | redcContribution (uid : Nat)
  | fillDataMessage (uid : Nat)
  | drainComplete (c t : Nat)
  | loaderPushStart (c sid : Nat)
  | grpsetTimeout (c s : Nat)
  | matrixOpStart (c pipe : Nat)
  | matrixOpEnd (c op : Nat)
  | scTicketGrant (seqr : Nat)
  | clusterSequencerIntake (cl : Nat)
  | logtIdRequest (c s : Nat)
  | logUpdate (uid : Nat)
  | logmark (uid : Nat) | logclear (uid : Nat)
  | pull (uid : Nat) | pullResponse (uid : Nat) | unpull (uid : Nat)
  | logOpen (uid : Nat) | logClose (uid : Nat)
  | forwardedEntry (uid : Nat)
  | lockingRead (uid : Nat)
  | storerApplyWrite (rec : Nat)
  | storerDone (rec : Nat)
  | barrierArrival (c s : Nat)
  | groupRelease (ch gix : Nat)
  | nodeRelease (c ch : Nat)
  | cocoonPickup (c s : Nat)
  | parkedDispatch (q : Nat)
  | spawnAccept (c s : Nat)
  | splitApply (c s : Nat)
  | queueHeaderNotify (q : Nat)
  | launchTake (q : Nat) | launchStart (q : Nat) | launchEnd (q : Nat)
  | contextLevelIncrement (ctx : Nat)
  | timeSliceExpiry (ctx : Nat)
  | energyMeterWindow (r uj : Nat)
  | resizeRequest (ctx : Nat) | resizeMove (ctx : Nat)
  | watchdogW1 (q : Nat) | watchdogW2 (q : Nat) | watchdogW3 (q : Nat)
  | asyncDelivery (c s : Nat)
  | preemption (ctx c : Nat)
  | resumeRestore (ctx c : Nat)
  | clusterGovernorWindow (cl cyc stl : Nat)
  | clusterStepChange (cl : Nat)
  | phaseLoss (r lost : Nat)
  | fallbackFailure (cl : Nat)
  | regionSwitchOn (r : Nat) (heavy : List Nat)
  | rampEnd (r : Nat)
  | meltPublish (melt : BitVec 16)
  | leaseEnergyWindow (cl nj : Nat)
  | leaseExpiry (cl : Nat)
  | killctx (ctx : Nat)
  | resync (adr : BitVec 64)
  | restart (c s : Nat)
  | mgmtRegisterWrite (off : Nat) (val : BitVec 64)
  | peerFrame (h : Nat) (frame : PeerFrame)
  | timecodeCorrection (ofs : Option Int) (slew : Int)
  | transferRecord (h : Nat)
  | completionWordWrite (h : Nat)
  | coreTimeCharge (c : Nat)
  | timecodeWaitExpiry (c s : Nat)
  | rangeStopTimeout (c s : Nat)
  | sprintRequest (c s : Nat)
  | ofillComplete (c t : Nat)
  | openGrant (uid : Nat)
  | logmarkAck (uid : Nat)
  | lineHomeLogEntry (uid : Nat)
  | forwardedEntryAck (uid : Nat)
  | hostCompletion (c s : Nat)
  deriving DecidableEq, Repr

end Sys2Proof
end

