-- ==== Sys2Proof/Decode.lean ====
section
/-!
DEFINITION. The decoder of instruction words, total and rejecting by name, and after it the encoder.
Both are written from the encoding tables R186 to R196, R208, R209, R240, R266, R291, R302 and R339.
The operand kinds and the field readers that the tables share stand first.
-/

namespace Sys2Proof

/-! ## Fields of a word (R186) -/

/-- The fields of a 96-bit word (R186). `op` is CLASS and OPC together. -/
structure Raw where
  op : BitVec 8
  fn : BitVec 8
  d : BitVec 7
  a : BitVec 7
  b : BitVec 7
  c : BitVec 7
  pm : BitVec 3
  pi : BitVec 1
  imm : W48
  deriving DecidableEq, Repr

/-- The fields of a word (R186). -/
def Raw.ofWord (w : W96) : Raw where
  op := w.extractLsb' 88 8
  fn := w.extractLsb' 80 8
  d := w.extractLsb' 73 7
  a := w.extractLsb' 66 7
  b := w.extractLsb' 59 7
  c := w.extractLsb' 52 7
  pm := w.extractLsb' 49 3
  pi := w.extractLsb' 48 1
  imm := w.extractLsb' 0 48

/-- The word with given fields (R186). -/
def Raw.toWord (r : Raw) : W96 :=
  r.op ++ r.fn ++ r.d ++ r.a ++ r.b ++ r.c ++ r.pm ++ r.pi ++ r.imm

/-- A word whose only field is its opcode. -/
def Raw.mk0 (op : BitVec 8) : Raw :=
  { op := op, fn := 0, d := 0, a := 0, b := 0, c := 0, pm := 0, pi := 0, imm := 0 }

/-- Why a word is no instruction (R194 steps 1 and 2). -/
inductive DecErr where
  | illegalOpcode
  | illegalEncoding
  deriving DecidableEq, Repr

/-- An immediate field of value `n` at bit `p` of IMM. -/
def fld (p n : Nat) : W48 := BitVec.ofNat 48 n <<< p

/-! ## Codes -/

/-- The code of a format (R118). -/
def ETy.code : ETy → BitVec 4
  | .bf16 => 0 | .fp16 => 1 | .fp32 => 2 | .i8 => 3 | .i16 => 4 | .i32 => 5 | .ui8 => 6 | .ui16 => 7
  | .ui32 => 8 | .rn8 => 9 | .rn4 => 10 | .ra => 11 | .i64 => 12 | .ui64 => 13

/-- The format of a code; 14 and 15 are none (R118). -/
def ETy.ofCode (c : BitVec 4) : Option ETy :=
  match c.toNat with
  | 0 => some .bf16 | 1 => some .fp16 | 2 => some .fp32 | 3 => some .i8 | 4 => some .i16 | 5 => some .i32
  | 6 => some .ui8 | 7 => some .ui16 | 8 => some .ui32 | 9 => some .rn8 | 10 => some .rn4 | 11 => some .ra
  | 12 => some .i64 | 13 => some .ui64 | _ => none

/-- The codes that the tables call int (R240). -/
def ETy.isInt : ETy → Bool
  | .i16 | .i32 | .ui16 | .ui32 | .i64 | .ui64 => true
  | _ => false

/-- The codes that the tables call flt (R240). -/
def ETy.isFlt : ETy → Bool
  | .bf16 | .fp16 | .fp32 => true
  | _ => false

/-- The type codes allowed in FN (R191). -/
def ETy.inFn (t : ETy) : Bool := t.isInt || t.isFlt

/-- Condition codes (R240). -/
def Cond.code : Cond → BitVec 4
  | .eq => 0 | .ne => 1 | .lt => 2 | .le => 3 | .gt => 4 | .ge => 5 | .un => 6 | .or => 7

/-- The condition of a code for a type: integer types take 0 to 5, float types 0 to 7 (R240). -/
def Cond.ofCode (c : BitVec 4) : Option Cond :=
  match c.toNat with
  | 0 => some .eq | 1 => some .ne | 2 => some .lt | 3 => some .le | 4 => some .gt | 5 => some .ge
  | 6 => some .un | 7 => some .or | _ => none

/-- Whether a comparison of type `t` may use the condition (R240). -/
def Cond.okFor (t : ETy) : Cond → Bool
  | .un | .or => t.isFlt
  | _ => true

/-- Ordering codes of R208. -/
def MOrd.code : MOrd → BitVec 2
  | .none => 0 | .acq => 1 | .rel => 2 | .p => 3 | .sc => 3

/-- The ordering of a code in the layout of R208. -/
def MOrd.ofCode (c : BitVec 2) : MOrd :=
  match c.toNat with
  | 0 => .none | 1 => .acq | 2 => .rel | _ => .p

/-- The ordering of a code in the layout of AMO (R302). -/
def MOrd.ofCodeAmo (c : BitVec 2) : MOrd :=
  match c.toNat with
  | 0 => .none | 1 => .acq | 2 => .rel | _ => .sc

/-- Scope codes (R208). -/
def Scope.code : Scope → BitVec 3
  | .core => 0 | .clu => 1 | .dom => 2 | .dev => 3 | .sys => 4

/-- The scope of a code; 5 to 7 are reserved (R208). -/
def Scope.ofCode (c : BitVec 3) : Option Scope :=
  match c.toNat with
  | 0 => some .core | 1 => some .clu | 2 => some .dom | 3 => some .dev | 4 => some .sys | _ => none

/-- Codes of the lane reductions (R276). -/
def RedOp.code : RedOp → BitVec 4
  | .add => 0 | .min => 1 | .max => 2 | .and => 3 | .or => 4 | .xor => 5

/-- The lane reduction of a code (R276). -/
def RedOp.ofCode (c : BitVec 4) : Option RedOp :=
  match c.toNat with
  | 0 => some .add | 1 => some .min | 2 => some .max | 3 => some .and | 4 => some .or | 5 => some .xor | _ => none

/-- Float types reduce by ADD, MIN and MAX only (R276). -/
def RedOp.okFor (t : ETy) : RedOp → Bool
  | .and | .or | .xor => t.isInt
  | _ => true

/-- Codes of the atomic operations (R303). -/
def AmoOp.code : AmoOp → BitVec 4
  | .add => 0 | .and => 1 | .or => 2 | .xor => 3 | .min => 4 | .max => 5 | .swap => 6 | .cas => 7 | .fadd => 8
  | .fmax => 9

/-- The atomic operation of a code (R303). -/
def AmoOp.ofCode (c : BitVec 4) : Option AmoOp :=
  match c.toNat with
  | 0 => some .add | 1 => some .and | 2 => some .or | 3 => some .xor | 4 => some .min | 5 => some .max
  | 6 => some .swap | 7 => some .cas | 8 => some .fadd | 9 => some .fmax | _ => none

/-- The types of an atomic operation (R302, R303). -/
def AmoOp.okFor (t : ETy) : AmoOp → Bool
  | .add | .and | .or | .xor | .min | .max => t == .i32 || t == .ui32 || t == .i64 || t == .ui64
  | .swap | .cas => t == .fp32 || t == .i32 || t == .ui32 || t == .i64 || t == .ui64
  | .fadd | .fmax => t == .fp32

/-- Codes of the logged updates (R128, R228). -/
def LogOp.code : LogOp → BitVec 8
  | .add => 0 | .min => 1 | .max => 2 | .store => 3

/-- The logged update of FN[7:0]; other values are illegal (R228). -/
def LogOp.ofCode (c : BitVec 8) : Option LogOp :=
  match c.toNat with
  | 0 => some .add | 1 => some .min | 2 => some .max | 3 => some .store | _ => none

/-! ## Operand specifiers (R187) -/

/-- The specifier value of an operand. An unused operand is 0x00 (R187). -/
def Opd.bits : Opd → BitVec 7
  | .none => 0
  | .g n => BitVec.ofNat 7 n.val
  | .v n => BitVec.ofNat 7 (0x40 + n.val)
  | .k n => BitVec.ofNat 7 (0x60 + n.val)
  | .acc n => BitVec.ofNat 7 (0x68 + n.val)
  | .zero => 0x70
  | .imm => 0x71

/-- The operand a specifier value names; 0x72 to 0x7F are reserved (R187). -/
def Opd.ofBits (b : BitVec 7) : Option Opd :=
  let n := b.toNat
  if n < 0x40 then some (.g (Fin.ofNat 64 n))
  else if n < 0x60 then some (.v (Fin.ofNat 32 (n - 0x40)))
  else if n < 0x68 then some (.k (Fin.ofNat 8 (n - 0x60)))
  else if n < 0x70 then some (.acc (Fin.ofNat 8 (n - 0x68)))
  else if n = 0x70 then some .zero
  else if n = 0x71 then some .imm
  else none

/-- The register kinds a specifier accepts, as the encoding tables name them. -/
inductive Kind where
  /-- Not used: must be 0x00. -/
  | dash
  | g
  | gz
  | gzi
  /-- g, k or 0x70: the "g/k" of R240. -/
  | gkz
  /-- g or k: the "g/k" of R266. -/
  | gk
  | gkzi
  | v
  /-- v, g, 0x70 or 0x71: the "vs" of R266. -/
  | vs
  | k
  | kz
  | accs
  deriving DecidableEq, Repr

/-- Whether a kind accepts an operand. -/
def Kind.ok : Kind → Opd → Bool
  | .dash, .none => true
  | .g, .g _ => true
  | .gz, .g _ | .gz, .zero => true
  | .gzi, .g _ | .gzi, .zero | .gzi, .imm => true
  | .gkz, .g _ | .gkz, .k _ | .gkz, .zero => true
  | .gk, .g _ | .gk, .k _ => true
  | .gkzi, .g _ | .gkzi, .k _ | .gkzi, .zero | .gkzi, .imm => true
  | .v, .v _ => true
  | .vs, .v _ | .vs, .g _ | .vs, .zero | .vs, .imm => true
  | .k, .k _ => true
  | .kz, .k _ | .kz, .zero => true
  | .accs, .acc _ => true
  | _, _ => false

/-- Reads a specifier of a kind; none where the kind does not accept it (R187). -/
def Kind.read (κ : Kind) (b : BitVec 7) : Option Opd :=
  if κ = .dash then (if b = 0 then some .none else none)
  else match Opd.ofBits b with
    | some o => if κ.ok o then some o else none
    | none => none

/-- A field that an instruction does not use must be zero (R187). -/
def need (c : Bool) : Option Unit := if c then some () else none

/-- IMM holds the immediate when some specifier is 0x71 and is zero otherwise (R240, R266). -/
def immUse (imm : W48) (os : List Opd) : Bool := os.contains .imm || imm == 0

/-- PM = 0 with PI = 1 is illegal (R189). -/
def Pred.ok (p : Pred) : Bool := !(p.pm == 0 && p.pi)

/-- The predicate fields of a word (R189). -/
def Raw.pred (r : Raw) : Option Pred :=
  let p : Pred := ⟨r.pm.toFin, r.pi == 1⟩
  if p.ok then some p else none

def Raw.fnHi (r : Raw) : BitVec 4 := r.fn.extractLsb' 4 4
def Raw.fnLo (r : Raw) : BitVec 4 := r.fn.extractLsb' 0 4
/-- An IMM field of `n` bits at bit `p`. -/
def Raw.f (r : Raw) (p n : Nat) : BitVec n := r.imm.extractLsb' p n
/-- Whether IMM is zero outside the given mask. -/
def Raw.only (r : Raw) (mask : W48) : Bool := r.imm &&& ~~~mask == 0

/-- The word with predicate `p`. -/
def Raw.withP (r : Raw) (p : Pred) : Raw := { r with pm := .ofFin p.pm, pi := if p.pi then 1 else 0 }

/-! ## Readers of the families of words -/

def decT1 (mk : T1 → Instr) (ok : ETy → Bool) (kd ka : Kind) (r : Raw) : Option Instr := do
  let ty ← ETy.ofCode r.fnLo
  need (ok ty && r.fnHi == 0 && r.b == 0 && r.c == 0)
  let d ← kd.read r.d
  let a ← ka.read r.a
  need (immUse r.imm [a])
  let p ← r.pred
  some (mk ⟨ty, d, a, r.imm, p⟩)

def decT2 (mk : T2 → Instr) (ok : ETy → Bool) (kd ka kb : Kind) (hi : BitVec 4) (r : Raw) : Option Instr := do
  let ty ← ETy.ofCode r.fnLo
  need (ok ty && r.fnHi == hi && r.c == 0)
  let d ← kd.read r.d
  let a ← ka.read r.a
  let b ← kb.read r.b
  need (immUse r.imm [a, b])
  let p ← r.pred
  some (mk ⟨ty, d, a, b, r.imm, p⟩)

def decT3 (mk : T3 → Instr) (ok : ETy → Bool) (kd ka kb kc : Kind) (r : Raw) : Option Instr := do
  let ty ← ETy.ofCode r.fnLo
  need (ok ty && r.fnHi == 0)
  let d ← kd.read r.d
  let a ← ka.read r.a
  let b ← kb.read r.b
  let c ← kc.read r.c
  need (immUse r.imm [a, b, c])
  let p ← r.pred
  some (mk ⟨ty, d, a, b, c, r.imm, p⟩)

def decR1 (mk : R1 → Instr) (fn : BitVec 8) (kd ka : Kind) (r : Raw) : Option Instr := do
  need (r.fn == fn && r.b == 0 && r.c == 0)
  let d ← kd.read r.d
  let a ← ka.read r.a
  need (immUse r.imm [a])
  let p ← r.pred
  some (mk ⟨d, a, r.imm, p⟩)

def decR2 (mk : R2 → Instr) (fn : BitVec 8) (kd ka kb : Kind) (r : Raw) : Option Instr := do
  need (r.fn == fn && r.c == 0)
  let d ← kd.read r.d
  let a ← ka.read r.a
  let b ← kb.read r.b
  need (immUse r.imm [a, b])
  let p ← r.pred
  some (mk ⟨d, a, b, r.imm, p⟩)

def decR3 (mk : R3 → Instr) (kd ka kb kc : Kind) (r : Raw) : Option Instr := do
  need (r.fn == 0)
  let d ← kd.read r.d
  let a ← ka.read r.a
  let b ← kb.read r.b
  let c ← kc.read r.c
  need (immUse r.imm [a, b, c])
  let p ← r.pred
  some (mk ⟨d, a, b, c, r.imm, p⟩)

def decC2 (mk : C2 → Instr) (ok : ETy → Bool) (kd ka kb : Kind) (r : Raw) : Option Instr := do
  let ty ← ETy.ofCode r.fnLo
  let cond ← Cond.ofCode r.fnHi
  need (ok ty && cond.okFor ty && r.c == 0)
  let d ← kd.read r.d
  let a ← ka.read r.a
  let b ← kb.read r.b
  need (immUse r.imm [a, b])
  let p ← r.pred
  some (mk ⟨cond, ty, d, a, b, r.imm, p⟩)

/-- BRC: its IMM is a branch target (R240). -/
def decBrc (r : Raw) : Option Instr := do
  let ty ← ETy.ofCode r.fnLo
  let cond ← Cond.ofCode r.fnHi
  need (ty.isInt && cond.okFor ty && r.d == 0 && r.c == 0)
  let a ← Kind.gz.read r.a
  let b ← Kind.gz.read r.b
  let p ← r.pred
  some (.brc ⟨cond, ty, .none, a, b, r.imm, p⟩)

def decCv (mk : Cv → Instr) (kd ka : Kind) (r : Raw) : Option Instr := do
  let dst ← ETy.ofCode r.fnLo
  let src ← ETy.ofCode r.fnHi
  need (dst.inFn && src.inFn && r.b == 0 && r.c == 0)
  let d ← kd.read r.d
  let a ← ka.read r.a
  need (immUse r.imm [a])
  let p ← r.pred
  some (mk ⟨dst, src, d, a, r.imm, p⟩)

def decRd (mk : Rd → Instr) (kd : Kind) (r : Raw) : Option Instr := do
  let ty ← ETy.ofCode r.fnLo
  let op ← RedOp.ofCode r.fnHi
  need (ty.inFn && op.okFor ty && r.b == 0 && r.c == 0 && r.imm == 0)
  let d ← kd.read r.d
  let a ← Kind.v.read r.a
  let p ← r.pred
  some (mk ⟨op, ty, d, a, p⟩)

def decNop (r : Raw) : Option Instr :=
  if r = Raw.mk0 0 then some .nop else none

def decFmt (r : Raw) : Option Instr := do
  need (r.fn == 0 && r.d == 0 && r.a == 0 && r.b == 0 && r.c == 0 && r.pm == 0 && r.pi == 0 && r.f 32 16 == 0)
  some (.fmt (r.f 0 32))

/-- FN, all specifiers and IMM fixed. -/
def decP (mk : Pred → Instr) (fn : BitVec 8) (r : Raw) : Option Instr := do
  need (r.fn == fn && r.d == 0 && r.a == 0 && r.b == 0 && r.c == 0 && r.imm == 0)
  let p ← r.pred
  some (mk p)

/-- Only IMM, of any value. -/
def decTgt (mk : W48 → Pred → Instr) (r : Raw) : Option Instr := do
  need (r.fn == 0 && r.d == 0 && r.a == 0 && r.b == 0 && r.c == 0)
  let p ← r.pred
  some (mk r.imm p)

/-- D and the 48 bits of IMM. -/
def decDI (mk : Opd → W48 → Pred → Instr) (kd : Kind) (r : Raw) : Option Instr := do
  need (r.fn == 0 && r.a == 0 && r.b == 0 && r.c == 0)
  let d ← kd.read r.d
  let p ← r.pred
  some (mk d r.imm p)

def decMovhi (r : Raw) : Option Instr := do
  need (r.fn == 0 && r.a == 0 && r.b == 0 && r.c == 0 && r.f 16 32 == 0)
  let d ← Kind.gkz.read r.d
  let p ← r.pred
  some (.movhi d (r.f 0 16) p)

/-- Only D. -/
def decD (mk : Opd → Pred → Instr) (fn : BitVec 8) (kd : Kind) (r : Raw) : Option Instr := do
  need (r.fn == fn && r.a == 0 && r.b == 0 && r.c == 0 && r.imm == 0)
  let d ← kd.read r.d
  let p ← r.pred
  some (mk d p)

/-- Only A. -/
def decA (mk : Opd → Pred → Instr) (fn : BitVec 8) (ka : Kind) (r : Raw) : Option Instr := do
  need (r.fn == fn && r.d == 0 && r.b == 0 && r.c == 0 && r.imm == 0)
  let a ← ka.read r.a
  let p ← r.pred
  some (mk a p)

/-- A and B. -/
def decAB (mk : Opd → Opd → Pred → Instr) (fn : BitVec 8) (ka kb : Kind) (r : Raw) : Option Instr := do
  need (r.fn == fn && r.d == 0 && r.c == 0 && r.imm == 0)
  let a ← ka.read r.a
  let b ← kb.read r.b
  let p ← r.pred
  some (mk a b p)

/-- D and A. -/
def decDA (mk : Opd → Opd → Pred → Instr) (fn : BitVec 8) (kd ka : Kind) (r : Raw) : Option Instr := do
  need (r.fn == fn && r.b == 0 && r.c == 0 && r.imm == 0)
  let d ← kd.read r.d
  let a ← ka.read r.a
  let p ← r.pred
  some (mk d a p)

/-- A and a branch target. -/
def decATgt (mk : Opd → W48 → Pred → Instr) (ka : Kind) (r : Raw) : Option Instr := do
  need (r.fn == 0 && r.d == 0 && r.b == 0 && r.c == 0)
  let a ← ka.read r.a
  let p ← r.pred
  some (mk a r.imm p)

/-- An address operand with the 48-bit OFF (R209). -/
def decAd (mk : Ad → Instr) (fn : BitVec 8) (r : Raw) : Option Instr := do
  need (r.fn == fn && r.d == 0 && r.b == 0 && r.c == 0)
  let a ← Kind.gz.read r.a
  let p ← r.pred
  some (mk ⟨a, r.imm, p⟩)

/-- EXT takes FN types 12 and 13; pos + len above 64 is illegal (R240). -/
def decExt (r : Raw) : Option Instr := do
  need ((r.fn == 12 || r.fn == 13) && r.b == 0 && r.c == 0 && r.only 0x3F3F)
  need (decide ((r.f 0 6).toNat + (r.f 8 6).toNat + 1 ≤ 64))
  let d ← Kind.gz.read r.d
  let a ← Kind.gz.read r.a
  let p ← r.pred
  some (.ext ⟨r.fn == 12, d, a, (r.f 8 6).toFin, (r.f 0 6).toFin, p⟩)

def decIns (r : Raw) : Option Instr := do
  need (r.fn == 0 && r.b == 0 && r.c == 0 && r.only 0x3F3F)
  need (decide ((r.f 0 6).toNat + (r.f 8 6).toNat + 1 ≤ 64))
  let d ← Kind.g.read r.d
  let a ← Kind.gz.read r.a
  let p ← r.pred
  some (.ins ⟨false, d, a, (r.f 8 6).toFin, (r.f 0 6).toFin, p⟩)

/-- What R208 and R209 accept for one load, store or queue operation. -/
structure MemSig where
  ords : List MOrd
  szLo : Nat
  szHi : Nat
  kd : Kind
  ka : Kind
  kb : Kind
  kc : Kind
  deriving DecidableEq, Repr

/-- LD (R208, R209). -/
def sigLd : MemSig := ⟨[.none, .acq], 0, 6, .gz, .gz, .dash, .dash⟩
/-- ST (R208, R209). -/
def sigSt : MemSig := ⟨[.none, .rel], 0, 3, .dash, .gz, .gz, .dash⟩
/-- ST.P (R208, R209). -/
def sigStP : MemSig := ⟨[.p], 0, 3, .dash, .gz, .gz, .dash⟩
/-- LDV (R208, R209). -/
def sigLdv : MemSig := ⟨[.none, .acq], 0, 3, .v, .gz, .dash, .dash⟩
/-- STV (R208, R209). -/
def sigStv : MemSig := ⟨[.none, .rel, .p], 0, 3, .dash, .gz, .v, .dash⟩
/-- LDVS (R208, R209). -/
def sigLdvs : MemSig := ⟨[.none, .acq], 0, 3, .v, .gz, .gz, .dash⟩
/-- STVS (R208, R209). -/
def sigStvs : MemSig := ⟨[.none, .rel, .p], 0, 3, .dash, .gz, .v, .gz⟩
/-- GATHER (R208, R209). -/
def sigGather : MemSig := ⟨[.none, .acq], 2, 3, .v, .gz, .v, .dash⟩
/-- SCATTER (R208, R209). -/
def sigScatter : MemSig := ⟨[.none, .rel, .p], 2, 3, .dash, .gz, .v, .v⟩
/-- QPUSH (R208, R209). -/
def sigQpush : MemSig := ⟨[.none, .rel], 0, 0, .dash, .gz, .v, .dash⟩
/-- QPOP (R208, R209). -/
def sigQpop : MemSig := ⟨[.none, .acq], 0, 0, .v, .gz, .dash, .dash⟩
/-- SCOPE must be 0 when ORD is 0 or 3 (R208). -/
def scopeOk (o : MOrd) (s : Scope) : Bool :=
  match o with
  | .none | .p => s == .core
  | _ => true

def decMem (mk : MemA → Instr) (g : MemSig) (r : Raw) : Option Instr := do
  let scope ← Scope.ofCode (r.fn.extractLsb' 3 3)
  let ord := MOrd.ofCode (r.fn.extractLsb' 6 2)
  let sz := (r.fn.extractLsb' 0 3).toFin
  need (g.ords.contains ord && scopeOk ord scope && decide (g.szLo ≤ sz.val) && decide (sz.val ≤ g.szHi))
  let d ← g.kd.read r.d
  let a ← g.ka.read r.a
  let b ← g.kb.read r.b
  let c ← g.kc.read r.c
  let p ← r.pred
  some (mk ⟨ord, scope, sz, d, a, b, c, r.imm, p⟩)

/-- Mode 0b11 is illegal (R220). -/
def decBmode (r : Raw) : Option Instr := do
  need (r.fn == 0 && r.d == 0 && r.a == 0 && r.b == 0 && r.c == 0 && r.only 0x33F)
  let p ← r.pred
  match (r.f 8 2).toNat with
  | 0 => some (.bmode 0 (r.f 0 6).toFin p)
  | 1 => some (.bmode 1 (r.f 0 6).toFin p)
  | 2 => some (.bmode 2 (r.f 0 6).toFin p)
  | _ => none

def decTdef (r : Raw) : Option Instr := do
  need (r.fn == 0 && r.d == 0 && r.b == 0 && r.c == 0 && r.f 32 10 == 0)
  let a ← Kind.gz.read r.a
  let p ← r.pred
  some (.tdef (r.f 42 6).toFin a (r.f 0 32) p)

def decTile (mk : Fin 64 → Pred → Instr) (r : Raw) : Option Instr := do
  need (r.fn == 0 && r.d == 0 && r.a == 0 && r.b == 0 && r.c == 0 && r.f 0 42 == 0)
  let p ← r.pred
  some (mk (r.f 42 6).toFin p)

def decTstat (mk : Opd → Fin 64 → Pred → Instr) (fn : BitVec 8) (r : Raw) : Option Instr := do
  need (r.fn == fn && r.a == 0 && r.b == 0 && r.c == 0 && r.f 0 42 == 0)
  let d ← Kind.g.read r.d
  let p ← r.pred
  some (mk d (r.f 42 6).toFin p)

def decTldv (r : Raw) : Option Instr := do
  need (r.fn == 0 && r.c == 0 && r.f 0 42 == 0)
  let d ← Kind.v.read r.d
  let a ← Kind.gz.read r.a
  let b ← Kind.gz.read r.b
  let p ← r.pred
  some (.tldv d a b (r.f 42 6).toFin p)

def decTstv (r : Raw) : Option Instr := do
  need (r.fn == 0 && r.d == 0 && r.f 0 42 == 0)
  let a ← Kind.gz.read r.a
  let b ← Kind.gz.read r.b
  let c ← Kind.v.read r.c
  let p ← r.pred
  some (.tstv a b c (r.f 42 6).toFin p)

def decUp (mk : Up → Instr) (kb kc : Kind) (r : Raw) : Option Instr := do
  let op ← LogOp.ofCode r.fn
  need (r.d == 0 && r.imm == 0)
  let a ← Kind.g.read r.a
  let b ← kb.read r.b
  let c ← kc.read r.c
  let p ← r.pred
  some (mk ⟨op, a, b, c, p⟩)

def decLogt (r : Raw) : Option Instr := do
  need (r.fn == 0 && r.b == 0 && r.c == 0)
  let d ← Kind.g.read r.d
  let a ← Kind.gz.read r.a
  let p ← r.pred
  some (.logt d ⟨a, r.imm, p⟩)

/-- The fields of IMM that a copy of the given kind uses (R231). -/
def cpyMask (kind : BitVec 8) : W48 :=
  if kind = 6 then 0x3FFF3F else if kind = 5 then 0xF3F else 0x3F

def decCp (mk : Cp → Instr) (kind : BitVec 8) (r : Raw) : Option Instr := do
  need (r.fn == kind && r.d == 0 && r.only (cpyMask kind))
  let a ← Kind.g.read r.a
  let b ← Kind.g.read r.b
  let c ← Kind.g.read r.c
  let p ← r.pred
  some (mk ⟨a, b, c, r.f 12 10, (r.f 8 4).toFin, (r.f 0 6).toFin, p⟩)

def decCpyq (r : Raw) : Option Instr := do
  need (r.fn.extractLsb' 3 5 == 0 && r.a == 0 && r.b == 0 && r.c == 0 && r.only 0x3F)
  let d ← Kind.g.read r.d
  let p ← r.pred
  some (.cpyq d (r.fn.extractLsb' 2 1 == 1) (r.fn.extractLsb' 0 2).toFin (r.f 0 6).toFin p)

/-- Whether FN and every specifier are zero. -/
def Raw.bare (r : Raw) : Bool := r.fn == 0 && r.d == 0 && r.a == 0 && r.b == 0 && r.c == 0

def decOclaim (r : Raw) : Option Instr := do
  need (r.bare && r.only 0xFC0F00000000)
  let p ← r.pred
  some (.oclaim (r.f 32 4).toFin (r.f 42 6).toFin p)

def decOfill (r : Raw) : Option Instr := do
  need (r.bare && r.only 0xFFF000000000)
  let p ← r.pred
  some (.ofill (r.f 42 6).toFin (r.f 36 6).toFin p)

def decOrels (r : Raw) : Option Instr := do
  need (r.bare && r.only 0xF00000000)
  let p ← r.pred
  some (.orels (r.f 32 4).toFin p)

def decSubs (r : Raw) : Option Instr := do
  need (r.fn == 0 && r.d == 0 && r.c == 0 && r.only 0xFC0F00000003)
  let a ← Kind.g.read r.a
  let b ← Kind.g.read r.b
  let p ← r.pred
  some (.subs a b (r.f 42 6).toFin (r.f 32 4).toFin (r.f 0 2).toFin p)

def decUnsubs (r : Raw) : Option Instr := do
  need (r.bare && r.only 3)
  let p ← r.pred
  some (.unsubs (r.f 0 2).toFin p)

def decGrpset (r : Raw) : Option Instr := do
  need (r.fn == 0 && r.d == 0 && r.b == 0 && r.c == 0 && r.only 0xF)
  let a ← Kind.g.read r.a
  let p ← r.pred
  some (.grpset (r.f 0 4).toFin a p)

def decWait (r : Raw) : Option Instr := do
  need (r.bare && r.only 0xFFFFFFF)
  let p ← r.pred
  some (.wait (r.f 21 7) (r.f 14 7) (r.f 7 7) (r.f 0 7) p)

/-- Both sets empty is illegal (R237). -/
def decFence (r : Raw) : Option Instr := do
  let scope ← Scope.ofCode (r.fn.extractLsb' 3 3)
  need (r.fn &&& 0xC7 == 0 && r.d == 0 && r.a == 0 && r.b == 0 && r.c == 0 && r.only 0x7F7F && r.imm != 0)
  let p ← r.pred
  some (.fence scope (r.f 8 7) (r.f 0 7) p)

/-- AMO (R302, R303). -/
def decAmo (r : Raw) : Option Instr := do
  let scope ← Scope.ofCode (r.fn.extractLsb' 3 3)
  let ord := MOrd.ofCodeAmo (r.fn.extractLsb' 6 2)
  let op ← AmoOp.ofCode (r.f 44 4)
  let ty ← ETy.ofCode (r.f 40 4)
  let tg := r.fn.extractLsb' 0 1 == 1
  need (scopeOk ord scope && r.fn.extractLsb' 1 2 == 0 && op.okFor ty && r.f 32 8 == 0)
  need (!(tg && (ty == .i64 || ty == .ui64)))
  let d ← Kind.gz.read r.d
  let a ← Kind.gz.read r.a
  let b ← Kind.gz.read r.b
  let c ← (if op = .cas then Kind.gz else Kind.dash).read r.c
  let p ← r.pred
  some (.amo ⟨ord, scope, tg, d, a, b, c, op, ty, r.f 0 32, p⟩)

/-- RED (R302, R303). -/
def decRed (r : Raw) : Option Instr := do
  let scope ← Scope.ofCode (r.fn.extractLsb' 3 3)
  let ord := MOrd.ofCodeAmo (r.fn.extractLsb' 6 2)
  let op ← AmoOp.ofCode (r.f 44 4)
  let ty ← ETy.ofCode (r.f 40 4)
  need ((ord == .none || ord == .rel) && scopeOk ord scope && r.fn.extractLsb' 0 3 == 0)
  need (op.okFor ty && op != .swap && op != .cas && r.f 32 8 == 0 && r.d == 0 && r.c == 0)
  let a ← Kind.gz.read r.a
  let b ← Kind.gz.read r.b
  let p ← r.pred
  some (.red ⟨ord, scope, false, .none, a, b, .none, op, ty, r.f 0 32, p⟩)

/-- KN from 33 to 63 is illegal (R291). -/
def decMm (mk : Mm → Instr) (f16 : Bool) (r : Raw) : Option Instr := do
  need (r.a == 0 && r.b == 0 && r.c == 0 && r.only 0xFF03F && decide ((r.f 0 6).toNat ≤ 32))
  let d ← Kind.accs.read r.d
  let p ← r.pred
  some (mk ⟨f16, d, (r.f 16 4).toFin, (r.f 12 4).toFin, (r.f 0 6).toFin, p⟩)

def decMma (r : Raw) : Option Instr :=
  if r.fn = 0 then decMm .mma false r else if r.fn = 1 then decMm .mma true r else none

def decMmu (r : Raw) : Option Instr :=
  if r.fn = 0 then decMm .mmu false r else none

def decMmz (r : Raw) : Option Instr := do
  need (r.fn == 0 && r.a == 0 && r.b == 0 && r.c == 0 && r.f 32 16 == 0)
  let d ← Kind.accs.read r.d
  let p ← r.pred
  some (.mmz d (r.f 0 32) p)

def decAmovR (mk : Opd → Opd → Fin 8 → Pred → Instr) (fn : BitVec 8) (kd ka : Kind) (r : Raw) : Option Instr := do
  need (r.fn == fn && r.b == 0 && r.c == 0 && r.only 7)
  let d ← kd.read r.d
  let a ← ka.read r.a
  let p ← r.pred
  some (mk d a (r.f 0 3).toFin p)

def decAld (r : Raw) : Option Instr := do
  need (r.fn == 0 && r.b == 0 && r.c == 0)
  let d ← Kind.accs.read r.d
  let a ← Kind.gz.read r.a
  let p ← r.pred
  some (.ald d ⟨a, r.imm, p⟩)

def decAdrn (r : Raw) : Option Instr := do
  need ((r.fn == 0 || r.fn == 1) && r.d == 0 && r.f 40 8 == 0)
  let a ← Kind.accs.read r.a
  let b ← Kind.gz.read r.b
  let c ← Kind.g.read r.c
  let p ← r.pred
  some (.adrn (r.fn == 1) a b c (r.f 36 4).toFin (r.f 32 4).toFin (r.f 0 32) p)

def decUprog (r : Raw) : Option Instr := do
  need ((r.fn == 2 || r.fn == 5) && r.d == 0 && r.c == 0 && r.only 3)
  let a ← Kind.g.read r.a
  let b ← Kind.gz.read r.b
  let p ← r.pred
  some (.uprog (r.fn == 5) a b (r.f 0 2).toFin p)

/-- With OTHER = 0 the member field must be 0 (R340). -/
def decArv (r : Raw) : Option Instr := do
  let scope ← Scope.ofCode (r.fn.extractLsb' 3 3)
  let other := r.f 7 1 == 1
  let m : Fin 8 := (r.f 4 3).toFin
  need (r.fn &&& 0xC7 == 0 && r.d == 0 && r.a == 0 && r.b == 0 && r.c == 0 && r.only 0xFF)
  need (other || m == 0)
  let p ← r.pred
  some (.arv scope other m (r.f 0 4).toFin p)

def decWtb (r : Raw) : Option Instr := do
  let scope ← Scope.ofCode (r.fn.extractLsb' 3 3)
  need (r.fn &&& 0xC7 == 0 && r.d == 0 && r.a == 0 && r.b == 0 && r.c == 0 && r.only 0xF)
  let p ← r.pred
  some (.wtb scope (r.f 0 4).toFin p)

/-- SEL 5 to 7 are illegal (R342). -/
def decBtst (r : Raw) : Option Instr := do
  need (r.a == 0 && r.b == 0 && r.c == 0 && r.only 0xF)
  let d ← Kind.gz.read r.d
  let p ← r.pred
  if h : r.fn.toNat < 5 then some (.btst ⟨r.fn.toNat, h⟩ d (r.f 0 4).toFin p) else none

def decBcfg (r : Raw) : Option Instr := do
  need (r.fn == 0 && r.d == 0 && r.b == 0 && r.c == 0 && r.only 0xF)
  let a ← Kind.g.read r.a
  let p ← r.pred
  some (.bcfg a (r.f 0 4).toFin p)

def decBcfgGrp (r : Raw) : Option Instr := do
  need (r.fn == 1 && r.d == 0 && r.c == 0 && r.only 0xF)
  let a ← Kind.g.read r.a
  let b ← Kind.g.read r.b
  let p ← r.pred
  some (.bcfgGrp a b (r.f 0 4).toFin p)

def decCode (mk : BitVec 16 → Pred → Instr) (r : Raw) : Option Instr := do
  need (r.bare && r.f 16 32 == 0)
  let p ← r.pred
  some (mk (r.f 0 16) p)

def decSysr (r : Raw) : Option Instr := do
  need (r.fn == 0 && r.a == 0 && r.b == 0 && r.c == 0 && r.f 12 36 == 0)
  let d ← Kind.gz.read r.d
  let p ← r.pred
  some (.sysr d (r.f 0 12) p)

def decSysw (r : Raw) : Option Instr := do
  need (r.fn == 0 && r.d == 0 && r.b == 0 && r.c == 0 && r.f 12 36 == 0)
  let a ← Kind.gz.read r.a
  let p ← r.pred
  some (.sysw a (r.f 0 12) p)

/-! ## The opcode maps (R195): none is an unassigned opcode, some none an illegal encoding -/

/-- Class S (R195, R240, R196). -/
def decodeS (o : Nat) (r : Raw) : Option (Option Instr) :=
  match o with
  | 0x00 => some (decNop r)
  | 0x01 => some (decDI .movi .gkz r)
  | 0x02 => some (decMovhi r)
  | 0x03 => some (decT2 .add ETy.isInt .gz .gz .gzi 0 r)
  | 0x04 => some (decT2 .sub ETy.isInt .gz .gz .gzi 0 r)
  | 0x05 => some (decT2 .mul ETy.isInt .gz .gz .gzi 0 r)
  | 0x06 => some (decT2 .mulh ETy.isInt .gz .gz .gzi 0 r)
  | 0x07 => some (decT2 .div ETy.isInt .gz .gz .gzi 0 r)
  | 0x08 => some (decT2 .rem ETy.isInt .gz .gz .gzi 0 r)
  | 0x09 => some (decT2 .and ETy.isInt .gz .gz .gzi 0 r)
  | 0x0A => some (decT2 .or ETy.isInt .gz .gz .gzi 0 r)
  | 0x0B => some (decT2 .xor ETy.isInt .gz .gz .gzi 0 r)
  | 0x0C => some (decT2 .andn ETy.isInt .gz .gz .gzi 0 r)
  | 0x0D => some (decT2 .shl ETy.isInt .gz .gz .gzi 0 r)
  | 0x0E => some (decT2 .shr ETy.isInt .gz .gz .gzi 0 r)
  | 0x0F => some (decT2 .sar ETy.isInt .gz .gz .gzi 0 r)
  | 0x10 => some (decT2 .rot ETy.isInt .gz .gz .gzi 0 r)
  | 0x11 => some (decT2 .min ETy.isInt .gz .gz .gzi 0 r)
  | 0x12 => some (decT2 .max ETy.isInt .gz .gz .gzi 0 r)
  | 0x13 => some (decC2 .cmp ETy.isInt .gkz .gz .gzi r)
  | 0x14 => some (decR3 .sel .gz .gkz .gzi .gz r)
  | 0x15 => some (decT1 .clz ETy.isInt .gz .gzi r)
  | 0x16 => some (decT1 .popc ETy.isInt .gz .gzi r)
  | 0x17 => some (decT1 .brev ETy.isInt .gz .gzi r)
  | 0x18 => some (decExt r)
  | 0x19 => some (decIns r)
  | 0x20 => some (decT2 .fadd ETy.isFlt .gz .gz .gzi 0 r)
  | 0x21 => some (decT2 .fsub ETy.isFlt .gz .gz .gzi 0 r)
  | 0x22 => some (decT2 .fmul ETy.isFlt .gz .gz .gzi 0 r)
  | 0x23 => some (decT3 .fma ETy.isFlt .gz .gz .gz .gzi r)
  | 0x24 => some (decT2 .fdiv ETy.isFlt .gz .gz .gzi 0 r)
  | 0x25 => some (decT1 .fsqrt ETy.isFlt .gz .gzi r)
  | 0x26 => some (decT2 .fmin ETy.isFlt .gz .gz .gzi 0 r)
  | 0x27 => some (decT2 .fmax ETy.isFlt .gz .gz .gzi 0 r)
  | 0x28 => some (decC2 .fcmp ETy.isFlt .gkz .gz .gzi r)
  | 0x29 => some (decCv .cvt .gz .gzi r)
  | 0x30 => some (decTgt .br r)
  | 0x31 => some (decBrc r)
  | 0x32 => some (decTgt .call r)
  | 0x33 => some (decP .ret 0 r)
  | 0x34 => some (decA .jmp 0 .g r <|> decA .jmpL 1 .g r)
  | 0x35 => some (decATgt .loop .g r)
  | 0x36 => some (decTgt .nexti r)
  | 0x38 => some (decFmt r)
  | _ => none

/-- Class V (R195, R266). -/
def decodeV (o : Nat) (r : Raw) : Option (Option Instr) :=
  match o with
  | 0x00 => some (decT2 .vadd ETy.inFn .v .vs .vs 0 r)
  | 0x01 => some (decT2 .vsub ETy.inFn .v .vs .vs 0 r)
  | 0x02 => some (decT2 .vmul ETy.inFn .v .vs .vs 0 r <|> decT2 .vmulH ETy.isInt .v .vs .vs 1 r)
  | 0x03 => some (decT3 .vfma ETy.inFn .v .vs .vs .vs r)
  | 0x04 => some (decT2 .vmin ETy.inFn .v .vs .vs 0 r)
  | 0x05 => some (decT2 .vmax ETy.inFn .v .vs .vs 0 r)
  | 0x06 => some (decT1 .vabs ETy.inFn .v .vs r)
  | 0x07 => some (decT1 .vneg ETy.inFn .v .vs r)
  | 0x08 => some (decT2 .vand ETy.isInt .v .vs .vs 0 r <|> decT2 .vandN ETy.isInt .v .vs .vs 1 r)
  | 0x09 => some (decT2 .vor ETy.isInt .v .vs .vs 0 r)
  | 0x0A => some (decT2 .vxor ETy.isInt .v .vs .vs 0 r)
  | 0x0B => some (decT2 .vshl ETy.isInt .v .vs .vs 0 r)
  | 0x0C => some (decT2 .vshr ETy.isInt .v .vs .vs 0 r)
  | 0x0D => some (decT2 .vsar ETy.isInt .v .vs .vs 0 r)
  | 0x0E => some (decC2 .vcmp ETy.inFn .kz .vs .vs r)
  | 0x0F => some (decT3 .vsel ETy.inFn .v .kz .vs .vs r)
  | 0x10 => some (decCv .vcvt .v .vs r)
  | 0x11 => some (decR1 .vrcp 2 .v .vs r)
  | 0x12 => some (decR1 .vrsq 2 .v .vs r)
  | 0x13 => some (decR1 .vsqrt 2 .v .vs r)
  | 0x14 => some (decR1 .vexp2 2 .v .vs r)
  | 0x15 => some (decR1 .vlog2 2 .v .vs r)
  | 0x16 => some (decR1 .vtanh 2 .v .vs r)
  | 0x18 => some (decRd .vreduce .gz r)
  | 0x19 => some (decRd .vscan .v r)
  | 0x1A => some (decT2 .vperm ETy.inFn .v .v .v 0 r)
  | 0x1B => some (decT2 .vrot ETy.inFn .v .v .gzi 0 r)
  | 0x1C => some (decT2 .vbcast ETy.inFn .v .v .gzi 0 r)
  | 0x1D => some (decT2 .vextr ETy.inFn .gz .v .gzi 0 r)
  | 0x1E => some (decT2 .vinsl ETy.inFn .v .gzi .gzi 0 r)
  | 0x1F => some (decT1 .viota ETy.isInt .v .gzi r)
  | 0x20 => some (decT1 .vcompress ETy.inFn .v .v r)
  | 0x21 => some (decT1 .vexpand ETy.inFn .v .v r)
  | 0x22 => some (decT1 .vmov ETy.inFn .v .vs r)
  | 0x28 => some (decR1 .vrns 0 .v .vs r)
  | 0x29 => some (decR1 .vcrt 0 .v .v r)
  | 0x2A => some (decR2 .vradd 0 .v .vs .vs r <|> decR2 .vraddSub 16 .v .vs .vs r)
  | 0x2B => some (decR2 .vrmul 0 .v .vs .vs r)
  | 0x30 => some (decR2 .kopAnd 0 .k .kz .kz r <|> decR2 .kopOr 1 .k .kz .kz r <|> decR2 .kopXor 2 .k .kz .kz r <|> decR2 .kopAndn 3 .k .kz .kz r <|> decR1 .kopNot 4 .k .kz r)
  | 0x31 => some (decR1 .kmov 0 .gk .gkzi r)
  | 0x32 => some (decT1 .kpop ETy.inFn .gz .kz r)
  | _ => none

/-- Class M (R195, R209, R302). -/
def decodeM (o : Nat) (r : Raw) : Option (Option Instr) :=
  match o with
  | 0x00 => some (decMem .ld sigLd r)
  | 0x01 => some (decMem .st sigSt r <|> decMem .stP sigStP r)
  | 0x02 => some (decMem .ldv sigLdv r)
  | 0x03 => some (decMem .stv sigStv r)
  | 0x04 => some (decMem .ldvs sigLdvs r)
  | 0x05 => some (decMem .stvs sigStvs r)
  | 0x06 => some (decMem .gather sigGather r)
  | 0x07 => some (decMem .scatter sigScatter r)
  | 0x08 => some (decAd .pref 0 r <|> decAd .prefPx 1 r)
  | 0x09 => some (decAd .cinv 0 r <|> decP .cinvData 1 r <|> decP .cinvInstr 2 r <|> decP .cinvAll 3 r)
  | 0x0A => some (decAd .cwb 0 r)
  | 0x0B => some (decBmode r)
  | 0x0C => some (decMem .qpush sigQpush r)
  | 0x0D => some (decMem .qpop sigQpop r)
  | 0x0E => some (decD .qfree 0 .g r <|> decD .qfreeAddr 1 .g r)
  | 0x10 => some (decTdef r)
  | 0x11 => some (decTile .tfill r)
  | 0x12 => some (decTile .tdrain r)
  | 0x13 => some (decTile .trel r)
  | 0x14 => some (decTstat .tstat 0 r <|> decTstat .tstatTime 1 r)
  | 0x15 => some (decTldv r)
  | 0x16 => some (decTstv r)
  | 0x18 => some (decUp .tupd .gz .gz r)
  | 0x19 => some (decUp .tupdv .v .v r)
  | 0x1A => some (decLogt r <|> decA .logtRet 1 .gz r)
  | 0x1B => some (decDA .tlogQuery 0 .gz .g r <|> decDA .tlogCompact 1 .gz .g r <|> decDA .tlogSync 2 .gz .g r)
  | 0x20 => some (decCp .cpyG2l 0 r <|> decCp .cpyL2g 1 r <|> decCp .cpyL2r 2 r <|> decCp .cpyMcast 5 r <|> decCp .cpyRedc 6 r)
  | 0x21 => some (decCpyq r)
  | 0x22 => some (decOclaim r)
  | 0x23 => some (decOfill r)
  | 0x24 => some (decOrels r)
  | 0x25 => some (decSubs r)
  | 0x26 => some (decUnsubs r)
  | 0x27 => some (decGrpset r)
  | 0x28 => some (decWait r)
  | 0x29 => some (decFence r)
  | 0x2A => some (decAmo r)
  | 0x2B => some (decRed r)
  | _ => none

/-- Class X (R195, R291, R339). -/
def decodeX (o : Nat) (r : Raw) : Option (Option Instr) :=
  match o with
  | 0x00 => some (decMma r)
  | 0x01 => some (decMmz r)
  | 0x02 => some (decDA .amov 0 .accs .accs r <|> decAmovR .amovV 1 .v .accs r <|> decAmovR .amovA 2 .accs .v r)
  | 0x03 => some (decAld r)
  | 0x04 => some (decAdrn r)
  | 0x05 => some (decD .aclaim 0 .accs r)
  | 0x06 => some (decD .arels 0 .accs r)
  | 0x08 => some (decUprog r)
  | 0x09 => some (decMmu r)
  | 0x10 => some (decArv r)
  | 0x11 => some (decWtb r)
  | 0x12 => some (decBtst r)
  | 0x13 => some (decBcfg r <|> decBcfgGrp r)
  | 0x18 => some (decA .spawn 0 .g r)
  | 0x19 => some (decD .take 0 .gz r)
  | 0x1A => some (decATgt .suspend .g r)
  | 0x1B => some (decP .done 0 r)
  | 0x1C => some (decTgt .yield r)
  | 0x20 => some (decDA .sprint 0 .gz .g r)
  | 0x21 => some (decD .lease 0 .gz r <|> decD .leaseExp 1 .gz r <|> decD .leaseRel 2 .gz r)
  | 0x28 => some (decCode .trap r)
  | 0x29 => some (decP .eret 0 r)
  | 0x2A => some (decSysr r)
  | 0x2B => some (decSysw r)
  | 0x2C => some (decA .tlbinv 0 .g r <|> decAB .tlbinvPg 1 .g .g r)
  | 0x2D => some (decCode .brk r)
  | 0x2E => some (decD .timec 0 .gz r <|> decDA .timecWait 1 .gz .g r)
  | 0x2F => some (decP .halt 0 r)
  | _ => none

/-- The instruction with the given fields (R186, R194 steps 1 and 2). -/
def decodeRaw (r : Raw) : Except DecErr Instr :=
  let o := r.op.toNat % 64
  let x := match r.op.toNat / 64 with
    | 0 => decodeS o r
    | 1 => decodeV o r
    | 2 => decodeM o r
    | _ => decodeX o r
  match x with
  | none => .error .illegalOpcode
  | some none => .error .illegalEncoding
  | some (some i) => .ok i

/-- The instruction of a word, or the cause that it raises. -/
def decode (w : W96) : Except DecErr Instr := decodeRaw (.ofWord w)

/-- A little-endian number of bytes, the first at the lowest address. -/
def leNat : List Byte → Nat
  | [] => 0
  | b :: bs => b.toNat + 256 * leNat bs

/-- The little-endian bytes of a number. -/
def leBytes : Nat → Nat → List Byte
  | 0, _ => []
  | k + 1, n => BitVec.ofNat 8 n :: leBytes k (n / 256)

/-- The instruction in a slot's twelve bytes (R175) and the bytes after it; fewer bytes hold no word. -/
def decodeBytes (bs : List Byte) : Except DecErr (Instr × List Byte) :=
  if bs.length < 12 then .error .illegalEncoding
  else match decode (BitVec.ofNat 96 (leNat (bs.take 12))) with
    | .ok i => .ok (i, bs.drop 12)
    | .error e => .error e

/-- The instruction that the decoder reads from a word numbered as the opcode table numbers it: an instruction is one
word of 96 bits, and the bits above `nbits` are zero. -/
def decodeTableWord (nbits w : Nat) : Option Instr :=
  match decodeBytes (leBytes 12 (w % 2 ^ nbits)) with
  | .ok (i, _) => some i
  | .error _ => none

/-! ## The encoder -/

def encT1 (op : BitVec 8) (x : T1) : Raw :=
  { Raw.mk0 op with fn := (0 : BitVec 4) ++ x.ty.code, d := x.d.bits, a := x.a.bits, imm := x.imm }.withP x.p

def encT2 (op : BitVec 8) (hi : BitVec 4) (x : T2) : Raw :=
  { Raw.mk0 op with fn := hi ++ x.ty.code, d := x.d.bits, a := x.a.bits, b := x.b.bits, imm := x.imm }.withP x.p

def encT3 (op : BitVec 8) (x : T3) : Raw :=
  { Raw.mk0 op with fn := (0 : BitVec 4) ++ x.ty.code, d := x.d.bits, a := x.a.bits, b := x.b.bits, c := x.c.bits, imm := x.imm }.withP x.p

def encR1 (op fn : BitVec 8) (x : R1) : Raw :=
  { Raw.mk0 op with fn := fn, d := x.d.bits, a := x.a.bits, imm := x.imm }.withP x.p

def encR2 (op fn : BitVec 8) (x : R2) : Raw :=
  { Raw.mk0 op with fn := fn, d := x.d.bits, a := x.a.bits, b := x.b.bits, imm := x.imm }.withP x.p

def encR3 (op : BitVec 8) (x : R3) : Raw :=
  { Raw.mk0 op with d := x.d.bits, a := x.a.bits, b := x.b.bits, c := x.c.bits, imm := x.imm }.withP x.p

def encC2 (op : BitVec 8) (x : C2) : Raw :=
  { Raw.mk0 op with fn := x.cond.code ++ x.ty.code, d := x.d.bits, a := x.a.bits, b := x.b.bits, imm := x.imm }.withP x.p

def encCv (op : BitVec 8) (x : Cv) : Raw :=
  { Raw.mk0 op with fn := x.src.code ++ x.dst.code, d := x.d.bits, a := x.a.bits, imm := x.imm }.withP x.p

def encRd (op : BitVec 8) (x : Rd) : Raw :=
  { Raw.mk0 op with fn := x.op.code ++ x.ty.code, d := x.d.bits, a := x.a.bits }.withP x.p

def encBf (op fn : BitVec 8) (x : Bf) : Raw :=
  { Raw.mk0 op with fn := fn, d := x.d.bits, a := x.a.bits, imm := fld 8 x.len1.val + fld 0 x.pos.val }.withP x.p

def encI (op fn : BitVec 8) (imm : W48) (p : Pred) : Raw :=
  { Raw.mk0 op with fn := fn, imm := imm }.withP p

def encD (op fn : BitVec 8) (d : Opd) (imm : W48) (p : Pred) : Raw :=
  { Raw.mk0 op with fn := fn, d := d.bits, imm := imm }.withP p

def encAI (op fn : BitVec 8) (a : Opd) (imm : W48) (p : Pred) : Raw :=
  { Raw.mk0 op with fn := fn, a := a.bits, imm := imm }.withP p

def encA (op fn : BitVec 8) (a : Opd) (p : Pred) : Raw := encAI op fn a 0 p

def encDA (op fn : BitVec 8) (d a : Opd) (p : Pred) : Raw :=
  { Raw.mk0 op with fn := fn, d := d.bits, a := a.bits }.withP p

def encAd (op fn : BitVec 8) (x : Ad) : Raw := encAI op fn x.a x.off x.p

def encMem (op : BitVec 8) (x : MemA) : Raw :=
  { Raw.mk0 op with
    fn := x.ord.code ++ x.scope.code ++ (BitVec.ofFin x.sz : BitVec 3), d := x.d.bits, a := x.a.bits, b := x.b.bits,
    c := x.c.bits, imm := x.off }.withP x.p

def encUp (op : BitVec 8) (x : Up) : Raw :=
  { Raw.mk0 op with fn := x.op.code, a := x.a.bits, b := x.b.bits, c := x.c.bits }.withP x.p

def encCp (kind : BitVec 8) (x : Cp) : Raw :=
  { Raw.mk0 0xA0 with
    fn := kind, a := x.dst.bits, b := x.src.bits, c := x.shp.bits,
    imm := fld 12 x.midx.toNat + fld 8 x.grp.val + fld 0 x.id.val }.withP x.p

def encAm (op : BitVec 8) (x : Am) : Raw :=
  { Raw.mk0 op with
    fn := x.ord.code ++ x.scope.code ++ (0 : BitVec 2) ++ (if x.tagged then 1 else 0 : BitVec 1),
    d := x.d.bits, a := x.a.bits, b := x.b.bits, c := x.c.bits,
    imm := x.op.code ++ x.ty.code ++ (0 : BitVec 8) ++ x.off }.withP x.p

def encMm (op : BitVec 8) (x : Mm) : Raw :=
  { Raw.mk0 op with
    fn := if x.f16 then 1 else 0, d := x.d.bits,
    imm := fld 16 x.sa.val + fld 12 x.sb.val + fld 0 x.kn.val }.withP x.p

/-- The fields of an instruction's word; the steps of the other agents have none. -/
def encodeRaw : Instr → Option Raw
  | .nop => some (Raw.mk0 0x00)
  | .movi d val p => some (encD 0x01 0 d val p)
  | .movhi d val p => some (encD 0x02 0 d (val.zeroExtend 48) p)
  | .add x => some (encT2 0x03 0 x)
  | .sub x => some (encT2 0x04 0 x)
  | .mul x => some (encT2 0x05 0 x)
  | .mulh x => some (encT2 0x06 0 x)
  | .div x => some (encT2 0x07 0 x)
  | .rem x => some (encT2 0x08 0 x)
  | .and x => some (encT2 0x09 0 x)
  | .or x => some (encT2 0x0A 0 x)
  | .xor x => some (encT2 0x0B 0 x)
  | .andn x => some (encT2 0x0C 0 x)
  | .shl x => some (encT2 0x0D 0 x)
  | .shr x => some (encT2 0x0E 0 x)
  | .sar x => some (encT2 0x0F 0 x)
  | .rot x => some (encT2 0x10 0 x)
  | .min x => some (encT2 0x11 0 x)
  | .max x => some (encT2 0x12 0 x)
  | .cmp x => some (encC2 0x13 x)
  | .sel x => some (encR3 0x14 x)
  | .clz x => some (encT1 0x15 x)
  | .popc x => some (encT1 0x16 x)
  | .brev x => some (encT1 0x17 x)
  | .ext x => some (encBf 0x18 (if x.sgn then 12 else 13) x)
  | .ins x => some (encBf 0x19 0 x)
  | .fadd x => some (encT2 0x20 0 x)
  | .fsub x => some (encT2 0x21 0 x)
  | .fmul x => some (encT2 0x22 0 x)
  | .fma x => some (encT3 0x23 x)
  | .fdiv x => some (encT2 0x24 0 x)
  | .fsqrt x => some (encT1 0x25 x)
  | .fmin x => some (encT2 0x26 0 x)
  | .fmax x => some (encT2 0x27 0 x)
  | .fcmp x => some (encC2 0x28 x)
  | .cvt x => some (encCv 0x29 x)
  | .br tgt p => some (encI 0x30 0 tgt p)
  | .brc x => some (encC2 0x31 x)
  | .call tgt p => some (encI 0x32 0 tgt p)
  | .ret p => some (encI 0x33 0 0 p)
  | .jmp a p => some (encA 0x34 0 a p)
  | .jmpL a p => some (encA 0x34 1 a p)
  | .loop a tgt p => some (encAI 0x35 0 a tgt p)
  | .nexti tgt p => some (encI 0x36 0 tgt p)
  | .fmt desc => some ({ Raw.mk0 0x38 with imm := desc.zeroExtend 48 })
  | .vadd x => some (encT2 0x40 0 x)
  | .vsub x => some (encT2 0x41 0 x)
  | .vmul x => some (encT2 0x42 0 x)
  | .vmulH x => some (encT2 0x42 1 x)
  | .vfma x => some (encT3 0x43 x)
  | .vmin x => some (encT2 0x44 0 x)
  | .vmax x => some (encT2 0x45 0 x)
  | .vabs x => some (encT1 0x46 x)
  | .vneg x => some (encT1 0x47 x)
  | .vand x => some (encT2 0x48 0 x)
  | .vandN x => some (encT2 0x48 1 x)
  | .vor x => some (encT2 0x49 0 x)
  | .vxor x => some (encT2 0x4A 0 x)
  | .vshl x => some (encT2 0x4B 0 x)
  | .vshr x => some (encT2 0x4C 0 x)
  | .vsar x => some (encT2 0x4D 0 x)
  | .vcmp x => some (encC2 0x4E x)
  | .vsel x => some (encT3 0x4F x)
  | .vcvt x => some (encCv 0x50 x)
  | .vrcp x => some (encR1 0x51 2 x)
  | .vrsq x => some (encR1 0x52 2 x)
  | .vsqrt x => some (encR1 0x53 2 x)
  | .vexp2 x => some (encR1 0x54 2 x)
  | .vlog2 x => some (encR1 0x55 2 x)
  | .vtanh x => some (encR1 0x56 2 x)
  | .vreduce x => some (encRd 0x58 x)
  | .vscan x => some (encRd 0x59 x)
  | .vperm x => some (encT2 0x5A 0 x)
  | .vrot x => some (encT2 0x5B 0 x)
  | .vbcast x => some (encT2 0x5C 0 x)
  | .vextr x => some (encT2 0x5D 0 x)
  | .vinsl x => some (encT2 0x5E 0 x)
  | .viota x => some (encT1 0x5F x)
  | .vmov x => some (encT1 0x62 x)
  | .vcompress x => some (encT1 0x60 x)
  | .vexpand x => some (encT1 0x61 x)
  | .vrns x => some (encR1 0x68 0 x)
  | .vcrt x => some (encR1 0x69 0 x)
  | .vradd x => some (encR2 0x6A 0 x)
  | .vraddSub x => some (encR2 0x6A 16 x)
  | .vrmul x => some (encR2 0x6B 0 x)
  | .kopAnd x => some (encR2 0x70 0 x)
  | .kopOr x => some (encR2 0x70 1 x)
  | .kopXor x => some (encR2 0x70 2 x)
  | .kopAndn x => some (encR2 0x70 3 x)
  | .kopNot x => some (encR1 0x70 4 x)
  | .kmov x => some (encR1 0x71 0 x)
  | .kpop x => some (encT1 0x72 x)
  | .ld x => some (encMem 0x80 x)
  | .st x => some (encMem 0x81 x)
  | .stP x => some (encMem 0x81 x)
  | .ldv x => some (encMem 0x82 x)
  | .stv x => some (encMem 0x83 x)
  | .ldvs x => some (encMem 0x84 x)
  | .stvs x => some (encMem 0x85 x)
  | .gather x => some (encMem 0x86 x)
  | .scatter x => some (encMem 0x87 x)
  | .pref x => some (encAd 0x88 0 x)
  | .prefPx x => some (encAd 0x88 1 x)
  | .cinv x => some (encAd 0x89 0 x)
  | .cinvData p => some (encI 0x89 1 0 p)
  | .cinvInstr p => some (encI 0x89 2 0 p)
  | .cinvAll p => some (encI 0x89 3 0 p)
  | .cwb x => some (encAd 0x8A 0 x)
  | .bmode mode bank p => some (encI 0x8B 0 (fld 8 mode.val + fld 0 bank.val) p)
  | .qpush x => some (encMem 0x8C x)
  | .qpop x => some (encMem 0x8D x)
  | .qfree d p => some (encD 0x8E 0 d 0 p)
  | .qfreeAddr d p => some (encD 0x8E 1 d 0 p)
  | .tdef t a off p => some (encAI 0x90 0 a (fld 42 t.val + off.zeroExtend 48) p)
  | .tfill t p => some (encI 0x91 0 (fld 42 t.val) p)
  | .tdrain t p => some (encI 0x92 0 (fld 42 t.val) p)
  | .trel t p => some (encI 0x93 0 (fld 42 t.val) p)
  | .tstat d t p => some (encD 0x94 0 d (fld 42 t.val) p)
  | .tstatTime d t p => some (encD 0x94 1 d (fld 42 t.val) p)
  | .tldv d row col t p => some ({ encD 0x95 0 d (fld 42 t.val) p with a := row.bits, b := col.bits })
  | .tstv row col data t p => some ({ encAI 0x96 0 row (fld 42 t.val) p with b := col.bits, c := data.bits })
  | .tupd x => some (encUp 0x98 x)
  | .tupdv x => some (encUp 0x99 x)
  | .logt d x => some ({ encAd 0x9A 0 x with d := d.bits })
  | .logtRet a p => some (encA 0x9A 1 a p)
  | .tlogQuery d a p => some (encDA 0x9B 0 d a p)
  | .tlogCompact d a p => some (encDA 0x9B 1 d a p)
  | .tlogSync d a p => some (encDA 0x9B 2 d a p)
  | .cpyG2l x => some (encCp 0 x)
  | .cpyL2g x => some (encCp 1 x)
  | .cpyL2r x => some (encCp 2 x)
  | .cpyMcast x => some (encCp 5 x)
  | .cpyRedc x => some (encCp 6 x)
  | .cpyq d clr word id p => some (encD 0xA1 (BitVec.ofNat 8 (clr.toNat * 4 + word.val)) d (fld 0 id.val) p)
  | .oclaim o t p => some (encI 0xA2 0 (fld 42 t.val + fld 32 o.val) p)
  | .ofill t src p => some (encI 0xA3 0 (fld 42 t.val + fld 36 src.val) p)
  | .orels o p => some (encI 0xA4 0 (fld 32 o.val) p)
  | .subs base shp t rn1 sid p => some ({ encAI 0xA5 0 base (fld 42 t.val + fld 32 rn1.val + fld 0 sid.val) p with b := shp.bits })
  | .unsubs sid p => some (encI 0xA6 0 (fld 0 sid.val) p)
  | .grpset n a p => some (encAI 0xA7 0 a (fld 0 n.val) p)
  | .wait l s c t p => some (encI 0xA8 0 (fld 21 l.toNat + fld 14 s.toNat + fld 7 c.toNat + fld 0 t.toNat) p)
  | .fence scope later earlier p => some (encI 0xA9 (scope.code.zeroExtend 8 <<< 3) (fld 8 later.toNat + fld 0 earlier.toNat) p)
  | .amo x => some (encAm 0xAA x)
  | .red x => some (encAm 0xAB x)
  | .mma x => some (encMm 0xC0 x)
  | .mmz d fill p => some (encD 0xC1 0 d (fill.zeroExtend 48) p)
  | .amov d a p => some (encDA 0xC2 0 d a p)
  | .amovV d a r p => some ({ encDA 0xC2 1 d a p with imm := fld 0 r.val })
  | .amovA d a r p => some ({ encDA 0xC2 2 d a p with imm := fld 0 r.val })
  | .ald d x => some ({ encAd 0xC3 0 x with d := d.bits })
  | .adrn clr a b c ssa ssb off p => some ({ encAI 0xC4 (if clr then 1 else 0) a (fld 36 ssa.val + fld 32 ssb.val + off.zeroExtend 48) p with b := b.bits, c := c.bits })
  | .aclaim d p => some (encD 0xC5 0 d 0 p)
  | .arels d p => some (encD 0xC6 0 d 0 p)
  | .uprog i32 a b ns p => some ({ encAI 0xC8 (if i32 then 5 else 2) a (fld 0 ns.val) p with b := b.bits })
  | .mmu x => some (encMm 0xC9 x)
  | .arv scope other m ch p => some (encI 0xD0 (scope.code.zeroExtend 8 <<< 3) (fld 7 other.toNat + fld 4 m.val + fld 0 ch.val) p)
  | .wtb scope ch p => some (encI 0xD1 (scope.code.zeroExtend 8 <<< 3) (fld 0 ch.val) p)
  | .btst sel d ch p => some (encD 0xD2 (BitVec.ofNat 8 sel.val) d (fld 0 ch.val) p)
  | .bcfg a ch p => some (encAI 0xD3 0 a (fld 0 ch.val) p)
  | .bcfgGrp a b ch p => some ({ encAI 0xD3 1 a (fld 0 ch.val) p with b := b.bits })
  | .spawn a p => some (encA 0xD8 0 a p)
  | .take d p => some (encD 0xD9 0 d 0 p)
  | .suspend a tgt p => some (encAI 0xDA 0 a tgt p)
  | .done p => some (encI 0xDB 0 0 p)
  | .yield tgt p => some (encI 0xDC 0 tgt p)
  | .sprint d a p => some (encDA 0xE0 0 d a p)
  | .lease d p => some (encD 0xE1 0 d 0 p)
  | .leaseExp d p => some (encD 0xE1 1 d 0 p)
  | .leaseRel d p => some (encD 0xE1 2 d 0 p)
  | .trap code p => some (encI 0xE8 0 (code.zeroExtend 48) p)
  | .eret p => some (encI 0xE9 0 0 p)
  | .sysr d reg p => some (encD 0xEA 0 d (reg.zeroExtend 48) p)
  | .sysw a reg p => some (encAI 0xEB 0 a (reg.zeroExtend 48) p)
  | .tlbinv a p => some (encA 0xEC 0 a p)
  | .tlbinvPg a b p => some ({ encA 0xEC 1 a p with b := b.bits })
  | .brk code p => some (encI 0xED 0 (code.zeroExtend 48) p)
  | .timec d p => some (encD 0xEE 0 d 0 p)
  | .timecWait d a p => some (encDA 0xEE 1 d a p)
  | .halt p => some (encI 0xEF 0 0 p)
  | .coreReset _ => none
  | .boot => none
  | .instructionLineFill _ _ => none
  | .routerCycle _ _ => none
  | .injectionStarvation _ => none
  | .messageDelivery _ => none
  | .netGovernorWindow _ => none
  | .netStepChange _ => none
  | .ticketRetryResend _ => none
  | .freshResend _ => none
  | .ticketCancel _ => none
  | .ticketAbandon _ => none
  | .nackRetryReceived _ => none
  | .homeRead _ => none
  | .homeWrite _ => none
  | .homeRed _ => none
  | .uGrantRequest _ => none
  | .hbmLineFill _ => none
  | .victimWritebackDone _ => none
  | .invalidationAck _ => none
  | .recallFold _ => none
  | .partialFlush _ => none
  | .proxyLoad _ => none
  | .proxyStore _ => none
  | .proxyRed _ => none
  | .proxyAmo _ => none
  | .proxyFillAnswer _ => none
  | .proxyGrantAnswer _ => none
  | .proxyInvalidation _ => none
  | .proxyRecall _ => none
  | .hostWrite _ _ _ => none
  | .hostRead _ _ => none
  | .windowAccess _ => none
  | .loadResponse _ => none
  | .storeAnswer _ => none
  | .amoAnswer _ => none
  | .postedAck _ => none
  | .postedFinalRefusal _ => none
  | .qpushArrival _ => none
  | .qpushAck _ => none
  | .bmodeComplete _ _ => none
  | .tlbWalkProbe _ => none
  | .faultMailboxPush _ => none
  | .faultReply _ _ => none
  | .tlbBump _ _ => none
  | .bumpAck _ _ => none
  | .copyDestWrite _ => none
  | .copyWriteAck _ => none
  | .redcContribution _ => none
  | .fillDataMessage _ => none
  | .drainComplete _ _ => none
  | .loaderPushStart _ _ => none
  | .grpsetTimeout _ _ => none
  | .matrixOpStart _ _ => none
  | .matrixOpEnd _ _ => none
  | .scTicketGrant _ => none
  | .clusterSequencerIntake _ => none
  | .logtIdRequest _ _ => none
  | .logUpdate _ => none
  | .logmark _ => none
  | .logclear _ => none
  | .pull _ => none
  | .pullResponse _ => none
  | .unpull _ => none
  | .logOpen _ => none
  | .logClose _ => none
  | .forwardedEntry _ => none
  | .lockingRead _ => none
  | .storerApplyWrite _ => none
  | .storerDone _ => none
  | .barrierArrival _ _ => none
  | .groupRelease _ _ => none
  | .nodeRelease _ _ => none
  | .cocoonPickup _ _ => none
  | .parkedDispatch _ => none
  | .spawnAccept _ _ => none
  | .splitApply _ _ => none
  | .queueHeaderNotify _ => none
  | .launchTake _ => none
  | .launchStart _ => none
  | .launchEnd _ => none
  | .contextLevelIncrement _ => none
  | .timeSliceExpiry _ => none
  | .energyMeterWindow _ _ => none
  | .resizeRequest _ => none
  | .resizeMove _ => none
  | .watchdogW1 _ => none
  | .watchdogW2 _ => none
  | .watchdogW3 _ => none
  | .asyncDelivery _ _ => none
  | .preemption _ _ => none
  | .resumeRestore _ _ => none
  | .clusterGovernorWindow _ _ _ => none
  | .clusterStepChange _ => none
  | .phaseLoss _ _ => none
  | .fallbackFailure _ => none
  | .regionSwitchOn _ _ => none
  | .rampEnd _ => none
  | .meltPublish _ => none
  | .leaseEnergyWindow _ _ => none
  | .leaseExpiry _ => none
  | .killctx _ => none
  | .resync _ => none
  | .restart _ _ => none
  | .mgmtRegisterWrite _ _ => none
  | .peerFrame _ _ => none
  | .timecodeCorrection _ _ => none
  | .transferRecord _ => none
  | .completionWordWrite _ => none
  | .coreTimeCharge _ => none
  | .timecodeWaitExpiry _ _ => none
  | .rangeStopTimeout _ _ => none
  | .sprintRequest _ _ => none
  | .ofillComplete _ _ => none
  | .openGrant _ => none
  | .logmarkAck _ => none
  | .lineHomeLogEntry _ => none
  | .forwardedEntryAck _ => none
  | .hostCompletion _ _ => none
/-- The word of an instruction. -/
def encode (i : Instr) : Option W96 := (encodeRaw i).map Raw.toWord

end Sys2Proof
end

