-- ==== Sys2Proof/Config.lean ====
section
/-!
DEFINITION. What one implementation or one run fixes and the spec leaves open.
Every value here is opaque: no proof can see it, so a statement that mentions one holds whatever it is.
-/

namespace Sys2Proof

/-- R91: an element of a copy that reads a byte which the same copy also writes receives either the value the byte
held at issue or a value the copy has already written to it, and either outcome is allowed.
The n-th such choice of a run: true for the value at issue (DESIGN CHOICE, assumption log 7). -/
opaque Config.overlapReadsOld (n : Nat) : Bool

/-- R177: the outcome of an instruction-cache read is data the array returns; a failure is an event of the environment.
The seed of the choices that the replacement of a TLB makes, which is not visible to programs (R40, DESIGN CHOICE, assumption log 8). -/
opaque Config.tlbVictim (n : Nat) : Nat

/-- R31: what an engine of the base die takes for a line of its own control structures when its read returns the poison indication;
the spec does not say what the engine does then (DESIGN CHOICE, assumption log 9). -/
opaque Config.poisonLine (ln : Nat) : BitVec 1024

/-- R380: a line of spilled messages, whose form in memory the spec does not give, and a line that the save engine could not read.
The n-th such line of a run (DESIGN CHOICE, assumption log 36, 37). -/
opaque Config.spillLine (n : Nat) : BitVec 1024

end Sys2Proof
end

