-- ==== Sys2Proof/Machine/State.lean ====
section
/-!
DEFINITION. The state of the device as plain data: its strands, cores, network, slices, base die and the outside inputs
that wait to be met, and the state after reset (INVENTORY.md lists every piece with its rule and its reset value).
Readings: DESIGN CHOICE, assumption log 2, 10, 17, 18, 43.
-/

namespace Sys2Proof.Machine

/-- Data by number, sorted by it; an absent number has the default its reader names. -/
abbrev SMap (α : Type) := List (Nat × α)

/-- Bytes by address in canonical form: addresses rising, no zero byte listed (DESIGN CHOICE, assumption log 3). -/
abbrev Memory := List Host.Cell

/-! ## Strands -/

/-- What a strand does (R333, R347, R356, R384). -/
inductive RunState where
  | idle | running | halted | fenced
  deriving DecidableEq, Repr

/-- Who asked for an access, so that its answer finds the way back. -/
inductive Who where
  | strand (c s : Nat)
  | journal (c j : Nat)
  | copy (c id : Nat)
  | tile (c t sseq lidx : Nat)
  | walk (c wid i : Nat)
  | fetch (c s n : Nat)
  /-- A prefetch of a strand, by its number, and whether its answer may enter the first-level cache. -/
  | pref (c i n : Nat) (keep : Bool)
  | proxy (sl : Nat)
  | host (stream : Nat)
  | peer (h : Nat)
  | xfer (h : Nat)
  | storer (rec : Nat)
  /-- An engine that keeps copies of lines: its endpoint, and whether the line is one of host memory. -/
  | dev (ep : Nat) (loc : Bool)
  | device
  deriving DecidableEq, Repr

/-- One access that a load, store or atomic makes to a line or a window (R211, R214). -/
structure Piece where
  /-- Physical line for GLOBAL and STACK, core number for WINDOW. -/
  place : Nat
  win : Bool
  /-- LOC = 1: host memory (R36). -/
  host : Bool
  /-- CP = 0b00: may be held by proxies and the first-level cache (R36). -/
  cached : Bool
  /-- First byte within the line or the local store. -/
  off : Nat
  n : Nat
  mask : BitVec 128
  data : W1024
  /-- Lanes served, each with the byte of `data` at which it lies. -/
  lanes : List (Nat × Nat)
  addr : W64
  deriving DecidableEq, Repr

/-- What an access does with its answer (R211, R214, R305). -/
inductive AccEnd where
  | load (d : Opd) (sz : Nat) (acq : Option Scope)
  | vload (d : Opd) (w : Nat) (acq : Option Scope)
  | store
  | amo (d : Opd) (tagged : Bool) (acq : Option Scope) (seqr : Option Nat)
  /-- The image of a declaration, read at pickup (R332). -/
  | decl
  /-- The cocoon that SPAWN reads, at an address (R345), and the record that SUSPEND writes (R333). -/
  | spawn (a : W64)
  | suspend
  deriving DecidableEq, Repr

/-- The operation of an atomic or a reduction (R303). -/
structure AmoReq where
  op : AmoOp
  ty : ETy
  v : W64
  c : W64
  deriving DecidableEq, Repr

/-- A non-posted access in flight: its pieces go out one at a time. -/
structure Access where
  last : AccEnd
  amo : Option AmoReq
  cur : Option Piece
  todo : List Piece
  /-- The lanes gathered so far over the old destination. -/
  acc : W1024
  deriving DecidableEq, Repr

/-- A logged entry (R129). -/
structure LogEntry where
  tcode : W64
  elem : Nat
  op : LogOp
  val : W32
  deriving DecidableEq, Repr

/-- The forms of TLOG (R230). -/
inductive TlogForm where
  | query | compact | sync
  deriving DecidableEq, Repr

/-- What a strand is blocked in, where the end of the block is a step of another agent. -/
inductive Wait where
  | no
  /-- Its translation or its fault message is outstanding (R41); the access restarts. -/
  | walk
  /-- Its instruction waits and may not be interrupted (R379); it is issued again on a later turn. -/
  | hold
  | access (a : Access)
  /-- Pieces of a posted operation that still need a journal entry (R174). -/
  | posting (ps : List Piece) (amo : Option AmoReq)
  /-- An instruction line is being fetched (R176), by the request numbered `n`. -/
  | fetch (line : W64) (n : Nat)
  /-- FENCE and TLOG sync: the forwarded entries, by record, that they wait for (R141, R237); issued again on a later turn. -/
  | forwards (need : List (Nat × LogEntry))
  /-- A TLOG form on a record is at the log home (R230). -/
  | tlog (d : Opd) (rec : Nat) (form : TlogForm)
  /-- A TLOG sync whose log home has answered: the entries that the core holds in the log of its FILLING entry are still to be
  applied (R133, R141). -/
  | sync (d : Opd) (rec : Nat) (word : W64)
  | bmode (bank mode : Nat)
  | grpset (n : Nat) (d : W64)
  /-- An SC ticket is requested, or granted (R306). -/
  | sc (seqr : Nat) (granted : Bool)
  /-- A declaration, or a retire, is at the device sequencer (R127). -/
  | logt (d : Opd)
  | logtRet (id : Nat)
  | tlbinv (bid : Nat)
  /-- A cocoon is on its way to its pool (R114, R345), and whether the strand leaves it (YIELD, R347). -/
  | spawn (img : Vector W64 8) (leave : Bool)
  /-- SPAWN has read its cocoon, or SUSPEND has written its record; issued again on a later turn (R345, R347). -/
  | record (img : Vector W64 8)
  | arrival (node ch : Nat)
  | sprint (d : Opd) (req : W64)
  | timec (d : Opd) (till : W64)
  /-- TAKE is at the task sequencer (R346). -/
  | take (d : Opd)
  deriving DecidableEq, Repr

/-- A cocoon as it was picked up (R331, R332). -/
structure Cocoon where
  img : Vector W64 8
  queue : Option Nat
  ctx : Option Nat
  deriving DecidableEq, Repr

/-- The inner-loop buffer of a strand (R299). -/
structure Uprog where
  i32 : Bool
  const : W32
  steps : List (BitVec 16)
  deriving DecidableEq, Repr

/-- A fault message whose answer is outstanding (R377). -/
structure FaultOut where
  tag : BitVec 8
  kind : Nat
  addr : W64
  /-- The generic address of the access, for BADADDR. -/
  bad : W64
  /-- What faulted: 0 the strand's own access, 1 a copy id, 2 a tile-table entry, 3 a slice spill, 4 the save engine. -/
  src : Nat
  idx : Nat
  deriving DecidableEq, Repr

/-- Steps 3 and 4 of a pickup (R332): the entry PC, the declarations still to apply (entry t, F, IMG), and the words of the
first one's image once they are read. -/
structure Entry where
  pc : W64
  decls : List (Nat × Bool × Nat)
  words : Option (Vector W64 3)
  deriving DecidableEq, Repr

/-- A strand (R161, R166). -/
structure Strand where
  g : Vector W64 64
  v : Vector W1024 32
  k : Vector W64 8
  pc : W64
  status : W64
  cause : W64
  epc : W64
  badaddr : W64
  pxv : W64
  fstat : W64
  svcXyz : W64
  asid : W64
  stkb : W64
  rnglo : W64
  rnghi : W64
  dfCause : W64
  pend : W64
  /-- Which of bits 3 to 7 of PENDING_ASYNC an event stands behind (R374). -/
  behind : BitVec 8
  /-- PRE of PENDING_ASYNC stands for RESUME (R374). -/
  preResume : Bool
  merrlg : Vector W64 8
  /-- The counters of R173. -/
  ldc : Nat
  stc : Nat
  cpc : Nat
  tlc : Nat
  rsc : Nat
  join : Vector (BitVec 16) 16
  /-- FREE and queue address of the last QPUSH acknowledgement (R116). -/
  qfree : W64
  qaddr : W64
  uprog : Uprog
  /-- Causes and PCs of the RETRYs that have not retired (R381). -/
  retry : List (Nat × W64)
  /-- The handler window of R384: open, and whether CAUSE and BADADDR have been read. -/
  window : Bool
  sawCause : Bool
  sawBad : Bool
  run : RunState
  cocoon : Option Cocoon
  wait : Wait
  /-- Translation generation (R43). -/
  gen : BitVec 8
  fault : Option FaultOut
  /-- Pre-emption of the context is in progress on this strand, and whether its image is saved (R379). -/
  preempting : Bool
  saved : Bool
  /-- The last group of the line just left by sequential flow, when it joins the next line (R183): class, and whether the
  member may only be the last. -/
  join4 : List (Nat × Bool)
  /-- The PC was entered by a trap: its TGT bit is to be checked (R180). -/
  entered : Bool
  /-- The number of its request at the device sequencer, until it has reported the ticket's end (R306). -/
  scNo : Option Nat
  /-- A cocoon's entry that is not made yet (R332). -/
  entry : Option Entry
  /-- Its present instruction has been issued and waits: the strand is between no two retired instructions (R262). -/
  midway : Bool
  /-- The cocoon that it ran last, with the STATE it ended in (R333). -/
  left : Option (Vector W64 8)
  /-- A stop at the next NEXTI is requested (R369). -/
  rangeStop : Bool
  /-- Its work was ended by a kill while it was halted: a restart leaves it idle (R356, R381). -/
  ended : Bool
  /-- The address at which its PREF, CINV or CWB, which waited for a walk, found no translation (R217 to R219). -/
  noPage : Option Nat
  deriving DecidableEq, Repr

/-! ## Cores -/

/-- State of a FIFO bank (R111, R114). -/
structure Fifo where
  head : Nat
  tail : Nat
  count : Nat
  next : Nat
  serve : Nat
  deriving DecidableEq, Repr

/-- A line of the first-level cache (R107). -/
structure L1Line where
  way : Nat
  set : Nat
  line : Nat
  data : W1024
  stamp : Nat
  deriving DecidableEq, Repr

/-- A line of the instruction cache (R182), tagged with its line address and ASID. `bad` is 0 while its parity holds; with 1 a copy of it
has failed, and it is fetched once more; with 2 + i the second copy that strand i fetched has failed too, and the strand raises
IFETCH_PARITY, which for every other read is a first failure (R177). -/
structure ILine where
  line : W64
  asid : BitVec 16
  bytes : BitVec 512
  bad : Nat
  deriving DecidableEq, Repr

/-- The work in progress on a tile-table entry (R120, R124). -/
inductive TileJob where
  | none
  /-- Waiting for residency of a logged tile (R133). -/
  | opening (sid : Option Nat) (origin : Nat) (priv : Bool)
  /-- Home lines still to read and answers outstanding; `sid` for a stream push; `origin` and privilege (R429). -/
  | fill (todo : List Nat) (out : Nat) (sid : Option Nat) (origin : Nat) (priv : Bool)
  /-- Rows still to write and acknowledgements outstanding; `ring` for a storer write-back; `close` sends CLOSE. -/
  | drain (todo : List Nat) (out : Nat) (ring : Bool) (origin : Nat) (priv : Bool)
  /-- An OFILL with its source as it was at issue: offset, row pitch, rows, bytes of a row and whether scales follow (R124). -/
  | ofill (off lpitch rows rowBytes : Nat) (residue : Bool) (origin : Nat)
  /-- Ended early or killed: waits for `out` answers and then takes state `next` (R94, R95, R120). -/
  | ending (out next origin : Nat) (killed : Bool)
  deriving DecidableEq, Repr

/-- A tile-table entry (R117): words 0 to 4 and what the engines keep with it (R430, R133). -/
structure Tile where
  w0 : W64
  w1 : W64
  w2 : W64
  w3 : W64
  w4 : W64
  failAddr : W64
  /-- COPY_FAULT, and SCALE_MISMATCH, not yet reported for this entry, and the strand concerned (R374). -/
  unreported : Option Nat
  mismatch : Option Nat
  /-- Logged tensor and tile that the entry holds resident or opens (R133). -/
  logged : Option (Nat × Nat)
  logDirty : Bool
  log : List LogEntry
  /-- Tickets of the entry's log (R136). -/
  next : Nat
  serve : Nat
  /-- STRM is to be cleared when the entry next reaches EMPTY (R234). -/
  unsub : Bool
  /-- PC of the instruction whose work the entry's job is, and the ASID it runs under (R377, R429). -/
  pc : W64
  asid : BitVec 16
  job : TileJob
  /-- The scale vector of a fill as far as its reader has read it, as one number (R96). -/
  sbuf : Nat
  /-- The fill's remaining line reads go ahead of every other copy of the core (R136). -/
  promoted : Bool
  /-- The fill restores a READY entry that the save drained: an instruction that names the entry waits for its end (R139). -/
  refilling : Bool
  deriving DecidableEq, Repr

/-- An operand slot with its scale store (R122, R124). -/
structure Slot where
  data : BitVec 32768
  scales : Vector W32 128
  bound : Option Nat
  deriving DecidableEq, Repr

/-- An accumulator (R164, R288). -/
structure Acc where
  words : Vector W32 256
  owner : Option Nat
  deriving DecidableEq, Repr

/-- A matrix operation (R286). -/
inductive MxKind where
  | mma (acc sa sb groups : Nat) (ty : ETy)
  | mmu (acc sa sb groups : Nat) (prog : Uprog)
  | mmz (acc : Nat) (fill : W32)
  | amov (dst src : Nat)
  | amovV (v acc r : Nat)
  | amovA (acc r : Nat) (data : W1024)
  | ald (acc : Nat) (off : Nat)
  | adrn (acc : Nat) (clr : Bool) (off pitch : Nat) (ra : Bool) (dty : ETy) (scl : Nat) (sat : Bool) (ssa ssb : Nat)
  deriving DecidableEq, Repr

/-- Where a matrix operation stands (R285 to R287): in the queue, in its pipe, or past its last pipe cycle. -/
inductive MxPhase where
  | queued | running | past
  deriving DecidableEq, Repr

/-- An operation in the matrix queue or in a pipe (R286). -/
structure MxOp where
  id : Nat
  strand : Nat
  kind : MxKind
  phase : MxPhase
  /-- Bytes of the local store that a started ADRN writes, in its order (R298). -/
  bytes : List (Nat × Nat)
  deriving DecidableEq, Repr

/-- A shape record (R90): element size and, for each dimension, extent, source and destination stride. -/
structure Shape where
  esz : Nat
  dims : List (Nat × Int × Int)
  deriving DecidableEq, Repr

/-- A copy in progress (R91). -/
structure Copy where
  kind : Nat
  strand : Nat
  priv : Bool
  asid : BitVec 16
  stkb : W64
  pc : W64
  src : W64
  dst : W64
  shape : Shape
  /-- The next element to read, and the acknowledgements still outstanding for the present element. -/
  elem : Nat
  out : Nat
  /-- Multicast box and members, or reduction entry and member index (R99, R100). -/
  box : W64
  grp : Nat
  midx : Nat
  /-- The copy waits for a translation (R94). -/
  walking : Bool
  /-- No more elements are issued: killed, or ended early with writes outstanding. -/
  stopped : Bool
  /-- A kill has stopped it: it becomes FREE with no trap (R95). -/
  killed : Bool
  /-- Why it ends early, once what is outstanding is answered: cause and failing address (R94). -/
  failed : Option (Nat × W64)
  /-- The first acknowledgement, whose GEN the record keeps, has arrived (R100). -/
  acked : Bool
  /-- The local store at issue, for a copy whose destination lies in its own core (R91). -/
  old : Memory
  deriving DecidableEq, Repr

/-- A copy id: its completion record (R89) and its copy while ACTIVE. -/
structure CopyId where
  w0 : W64
  w1 : W64
  w2 : W64
  w3 : W64
  reported : Bool
  copy : Option Copy
  deriving DecidableEq, Repr

/-- A group entry (R97, R98, R100). -/
structure Group where
  desc : W64
  gen : BitVec 8
  /-- Messages a multicast entry has in flight. -/
  drain : Nat
  /-- Counter of each destination line of a reduction entry that is not 0. -/
  lines : SMap Nat
  deriving DecidableEq, Repr

/-- A stream of a core (R101, R102). -/
structure Stream where
  tf : Nat
  rn : Nat
  base : W64
  shape : Shape
  next : Nat
  origin : Nat
  priv : Bool
  asid : BitVec 16
  /-- No new push starts (UNSUBS, a fault, or after the last tile). -/
  ending : Bool
  pushing : Bool
  deriving DecidableEq, Repr

/-- Posted-store journal entry states (R375). -/
inductive JState where
  | free | sent | refused
  deriving DecidableEq, Repr

/-- A journal entry (R375). -/
structure Journal where
  st : JState
  strand : Nat
  addr : W64
  opk : Nat
  reason : Nat
  /-- Physical line or window place and bytes, for the overlap rules of R212 and R308. -/
  piece : Option Piece
  /-- The message, while it waits behind an earlier RED of the strand to the line (R309). -/
  heldRed : Option AmoReq
  /-- Rises from entry to entry of a core in the order of issue. -/
  order : Nat
  deriving DecidableEq, Repr

/-- A page-table entry's translation (R36). -/
structure Page where
  sz : Nat
  ppn : Nat
  rd : Bool
  wr : Bool
  ex : Bool
  usr : Bool
  loc : Bool
  cp : Nat
  deriving DecidableEq, Repr

/-- A TLB entry (R40). -/
structure TlbEntry where
  asid : BitVec 16
  vpn : Nat
  page : Page
  deriving DecidableEq, Repr

/-- Kinds of access a translation is for (R377). -/
inductive AccTy where
  | load | store | atomic | fetch | copy | loader | storer | spill
  deriving DecidableEq, Repr

/-- What a walk is for. -/
inductive WalkFor where
  | strand (s : Nat)
  | copy (id : Nat)
  | tile (t : Nat)
  /-- The save engine of the core, and a spill of a record whose log home the core attaches (R131, R379). -/
  | save
  | spill (r : Nat)
  deriving DecidableEq, Repr

/-- What a probe of the page table returned: a bucket, or poison (R38). -/
inductive ProbeAns where
  | none | poison | bucket (d : W1024)
  deriving DecidableEq, Repr

/-- A walk in progress (R38, R43, R44). -/
structure Walk where
  wid : Nat
  who : WalkFor
  strand : Nat
  gen : BitVec 8
  asid : BitVec 16
  va : Nat
  bad : W64
  acc : AccTy
  /-- The permissions that the access needs, and its privilege (R36, R38, R429). -/
  rd : Bool
  wr : Bool
  ex : Bool
  priv : Bool
  pc : W64
  /-- The walk of an instruction that never faults on its address (R217 to R219). -/
  quiet : Bool
  deriving DecidableEq, Repr

/-- A fill on its way that may allocate its line in the first-level cache (R107, R217): of a strand's load, or of the prefetch of a
number. -/
structure Fill where
  who : Option Nat
  line : Nat
  id : Nat
  deriving DecidableEq, Repr

/-- A core (R103 to R125, R164, R324, R375). -/
structure Core where
  strands : Vector Strand 4
  ls : Memory
  /-- BKMD0 and BKMD1 (R104). -/
  bkmd0 : W64
  bkmd1 : W64
  res : Bool
  fifos : SMap Fifo
  l1 : List L1Line
  icache : List ILine
  tiles : SMap Tile
  slots : SMap Slot
  accs : SMap Acc
  mxq : List MxOp
  copies : SMap CopyId
  groups : SMap Group
  streams : SMap Stream
  journal : SMap Journal
  tlb1 : List TlbEntry
  tlb2 : List TlbEntry
  walks : List Walk
  /-- Node words of the 16 channels (R324), and arrivals stalled at them: core and strand, in order (R327). -/
  nodes : Vector W64 16
  stalled : SMap (List (Nat × Nat))
  /-- Blocked claimants of slots and of accumulators, in the order they blocked (R124, R288). -/
  slotWait : List (Nat × Nat)
  accWait : List (Nat × Nat)
  /-- The service core's mailbox pressure count (R378). -/
  faultOvf : W64
  faultTag : BitVec 8
  /-- Fault messages that wait for the source's earlier one (R377). -/
  sliceFault : Option FaultOut
  /-- Stores to reply words not yet looked at, oldest first: strands 0 to 3, and 4 for the slice (R377). -/
  replies : List (Nat × W64)
  /-- The corrected errors counted (R158). -/
  errors : Nat
  dark : Bool
  fenced : Bool
  /-- Held YIELDed placed cocoons (R347), and placed cocoons not yet picked up (R334): of one context at most one each. -/
  heldPlaced : List Cocoon
  placed : List Cocoon
  /-- Bumps applied and not acknowledged, each with the walks that began before it and have not ended (R45). -/
  bumps : List (Nat × List Nat)
  /-- Pre-emption of a context is in progress on the core, and the READY logged entries drained for it (R139, R379). -/
  preempt : Option Nat
  refill : List Nat
  /-- The context that holds the core, for the emptied state and images (R125). -/
  ctx : Option Nat
  /-- Requests at the core's own SC sequencer (R306). -/
  scq : List (Nat × Nat)
  fills : List Fill
  stamp : Nat
  deriving DecidableEq, Repr

/-! ## Messages and the network -/

/-- What a slice gives up of a U copy: its partials, which elements they touch, its error mark, and the ASID of its last RED (R72, R82,
R83, R367). -/
structure UPart where
  sl : Nat
  touched : BitVec 32
  part : W1024
  poison : Bool
  asid : Option (BitVec 16)
  deriving DecidableEq, Repr

/-- Operations that a request asks of a slice (R80, R81). -/
inductive MemOp where
  | read
  | write
  | red (a : AmoReq)
  | amo (a : AmoReq)
  | grant (op : AmoOp) (ty : ETy)
  | entry (rec : Nat) (e : LogEntry)
  | lock (rec : Nat)
  | evict
  | flush (u : AmoOp × ETy) (p : UPart)
  /-- The storer's write of a line it has locked, after it has applied `n` entries (R137). -/
  | unlock (rec n : Nat)
  deriving DecidableEq, Repr

/-- A request to a slice (R63). `px` is the proxy slice it came through, for the grants of R77. -/
structure MemReq where
  op : MemOp
  line : Nat
  off : Nat
  mask : BitVec 128
  data : W1024
  who : Who
  asid : Option (BitVec 16)
  px : Option Nat
  deriving DecidableEq, Repr

/-- A strand's request for a ticket of the device sequencer, by its number (R306). -/
structure ScTicket where
  core : Nat
  strand : Nat
  no : Nat
  deriving DecidableEq, Repr

/-- States of a logged tensor (R127). -/
inductive TensorSt where
  | free | active | retiring | failed
  deriving DecidableEq, Repr

/-- A logged tensor (R126, R127). -/
structure Tensor where
  desc : Vector W64 8
  pbase : Nat
  asid : BitVec 16
  svc : W64
  priv : Bool
  core : Nat
  st : TensorSt
  /-- It has become FAILED, which a retire does not undo (R127, R131). -/
  failed : Bool
  deriving DecidableEq, Repr

/-- What a message carries. KIND and TICKET are those of R74 and R112. -/
inductive Body where
  | mem (r : MemReq)
  | ans (who : Who) (kind : Nat) (seq : W32) (px : Bool) (data : Option W1024) (req : MemReq)
  | inval (line : Nat)
  | recall (line : Nat)
  | ack (line : Nat) (p : UPart)
  | win (who : Who) (p : Piece) (amo : Option AmoReq) (store priv : Bool)
  | winAns (who : Who) (reason : Nat) (data : W1024)
  | qpush (who : Who) (core bank : Nat) (payload : BitVec 512) (priv : Bool)
  | qack (who : Who) (kind free : Nat) (addr : W64)
  | faultMsg (svc : Nat) (bytes : BitVec 512)
  | faultAck (kind : Nat)
  | copyWr (who : Who) (core off : Nat) (mask : BitVec 128) (data : W1024)
  | redc (who : Who) (core grp midx off : Nat) (mask : BitVec 128) (data : W1024)
  | copyAck (who : Who) (gen : Option (BitVec 8)) (cause : Nat) (bad : W64)
  | logUpd (who : Who) (rec : Nat) (es : List LogEntry)
  | logAns (who : Who) (kind : Nat) (seq : Nat)
  | logMark (line rec : Nat) | logMarkAck (rec line : Nat)
  | logClear (line rec : Nat) | logClearAck (rec line : Nat)
  /-- The entries of a line that the log home gives up, as many as a message holds (R51), and whether it has more; `bad` where they
  were poisoned on their way (R50). -/
  | pull (line rec : Nat) | pullAns (line rec : Nat) (es : List LogEntry) (more bad : Bool)
  | unpull (line rec : Nat) | unpullAck (line rec : Nat)
  | open_ (rec core tile : Nat) | openAns (rec core tile : Nat)
  /-- One of the messages of a CLOSE: its number among `parts` of them, for entries that one message does not hold (R51, R138). -/
  | close (rec core part parts : Nat) (es : List LogEntry)
  /-- A TLOG form of a strand at a log home, and its answer: LSEQ and the number of entries (R230). -/
  | tlog (c i rec : Nat) (form : TlogForm) | tlogAns (c i : Nat) (word : W64)
  /-- A declaration or a retire of a strand at the device sequencer, and its answer: the id, none for SHAPE_FORMAT (R127). -/
  | logt (c i : Nat) (t : Tensor) | logtRet (c i id : Nat) | logtAns (c i : Nat) (res : Option W64)
  /-- A cocoon of SPAWN or YIELD for the pool of its PRIO, and its acceptance (R345, R347); a TAKE, and the cocoon that it obtains (R346). -/
  | spawn (c i : Nat) (img : Vector W64 8) | spawnAck (c i : Nat)
  | take (c i : Nat) | takeAns (c i : Nat) (k : Option Cocoon)
  /-- A header line was written at its home: of queue `k`, or of optical engine `k - 64` (R359, R403). -/
  | hdrNote (k : Nat)
  | fwd (rec core tile : Nat) (e : LogEntry) | fwdAck (rec line : Nat)
  | lockAns (rec line : Nat) (data : Option W1024)
  /-- A data message of a fill or a push, from its copy engine or loader to the core, and its acknowledgement (R96). -/
  | fillData (core tile lidx : Nat) (mask : BitVec 128) (data : W1024)
  | fillAck (core tile sseq lidx : Nat) (poison : Bool)
  /-- A home's read of a line from its HBM controller, and its write of a victim, with SEQ and P (R14, R71, R73). -/
  | hbmRd (line : Nat) | hbmData (line : Nat) (data : W1024) (seq : W32) (poison : Bool)
  | hbmWr (line : Nat) (data : W1024) (seq : W32) (poison : Bool) | hbmWrote (line : Nat)
  /-- A request for an SC ticket of the device sequencer, its grant, and the ticket's end (R306). -/
  | scReq (k : ScTicket) | scGrant (k : ScTicket) | scDone (k : ScTicket)
  /-- NACK_RETRY, and OK_CANCEL, for a message (R114, R115). -/
  | retry (orig : Body)
  /-- The negative acknowledgement of reason POISON for a message that no access of a strand waits for (R50). -/
  | nack (orig : Body)
  /-- An acknowledgement that its receiver only counts as received, with the SEQ of its header (R74). -/
  | ok (seq : Nat)
  | okCancel (orig : Body)
  deriving DecidableEq, Repr

/-- A message (R51, R53, R63). `ticket` is 0 for a fresh one (R114); `via` is the endpoint that sent it on, which for a
request that a proxy forwards is not its SRC (R76); `hdr` is the operation header, the first 8 bytes of flit 0's DATA (R51, R74,
R96, R112); `sb` is the SB words of its flits in FIDX order, where they are not all zero (R54, R96). `kept` is no part of the message:
the SB words of a refused message, which its sender keeps for resending (R115). -/
structure Msg where
  uid : Nat
  src : Nat
  via : Nat
  dest : Nat
  cls : Nat
  tag : Nat
  nf : Nat
  ticket : Nat
  cancel : Bool
  poison : Bool
  body : Body
  hdr : W64 := 0
  sb : List W32 := []
  kept : List W32 := []
  deriving DecidableEq, Repr

/-- A flit (R51). Its message is known by `uid`, which stands for the identity word (R53); the message holds its DATA. -/
structure Flit where
  uid : Nat
  fidx : Nat
  nf : Nat
  dest : Nat
  cls : Nat
  age : BitVec 16
  sb : W32
  poison : Bool
  deriving DecidableEq, Repr

/-- A router and its interface (R48, R58, R60, R67, R70). -/
structure Router where
  /-- Network cycles that the router has made (R48). -/
  cycle : Nat
  /-- Arrivals of its next cycle, and of the one after that, which a neighbour one cycle ahead has sent: input slot and
  flit. -/
  arr : List (Nat × Flit)
  later : List (Nat × Flit)
  /-- Border FIFOs leading into this router, by input port (R67). -/
  border : SMap (List Flit)
  /-- Flits that the base die sends up by the BASE port, and flits deflected out by it, which come back (R15, R58). -/
  up : List Flit
  back : List Flit
  /-- Injection queue (R70); flits of the core's interface and of the slice that wait for room in it; whether the slice's turn
  is next (R59). -/
  inj : List Flit
  outCore : List Flit
  outSlice : List Flit
  turnSlice : Bool
  /-- Cycles for which the head of the injection queue has waited (R60). -/
  waited : Nat
  starving : Bool
  /-- Cycles for which injection is held because another router of the region starves (R60). -/
  hold : Nat
  deriving DecidableEq, Repr

/-- A reassembly buffer (R62): its message and class, whether it is one of the shared buffers, and the FIDX received. -/
structure Buf where
  uid : Nat
  cls : Nat
  shared : Bool
  got : List Nat
  deriving DecidableEq, Repr

/-- Reassembly at an endpoint (R62, R70). -/
structure Reasm where
  bufs : List Buf
  /-- Messages whose flits are all there, in the order they completed. -/
  done : List Nat
  /-- A core's ejection FIFO, oldest first. -/
  fifo : List Flit
  /-- The message for which the next free buffer is kept, with its class, and the most senior refused message with AGE and
  SRC. -/
  reserved : Option (Nat × Nat)
  refused : Option (BitVec 16 × Nat × Nat)
  deriving DecidableEq, Repr

/-- A message refused with a ticket, kept for resending (R115). -/
structure Held where
  msg : Msg
  /-- The context was pre-empted or killed: the ticket is to be cancelled. -/
  cancel : Bool
  deriving DecidableEq, Repr

/-- A network region (R66 to R69) and its part of the power block (R390, R391, R393). -/
structure Region where
  ngcfg : W64
  nstep : Nat
  wantStep : Option Nat
  lcorr : Nat
  lpois : Nat
  ldrop : Nat
  /-- Flits routed and deflected, deepest queue and fullest border FIFO of the present window (R68). -/
  routed : Nat
  defl : Nat
  qmax : Nat
  fmax : Nat
  /-- Rail voltage and target in mV (R388, R390). -/
  vrail : Nat
  vtgt : Nat
  plive : Nat
  mode : Nat
  on : Bool
  ramp : Bool
  rampEnd : Nat
  /-- The neighbours that drew 90 % or more of their rated current when the ramp began (R393). -/
  heavy : List Nat
  /-- Core time of each context in the present energy window (R367). -/
  coreNs : SMap Nat
  deriving DecidableEq, Repr

/-! ## Slices -/

/-- Home line states (R79); I is absence. -/
inductive LineSt where
  | S | M | L
  deriving DecidableEq, Repr

/-- What a home line waits for before it goes on (R71, R78, R80, R134, R137). -/
inductive HBusy where
  | no
  /-- The read from HBM is outstanding. -/
  | fill
  /-- Invalidations outstanding, and the answer that is held until they are acknowledged. -/
  | inval (need : Nat) (held : List Msg)
  | recall (need : Nat) (parts : List UPart)
  | pull
  | locked (rec : Nat)
  /-- The victim's write-back is on its way. -/
  | wb
  /-- The line has been written back, and its UNPULL is on its way (R134). -/
  | unpull
  deriving DecidableEq, Repr

/-- An operation waiting at a home line, with the endpoint and tag to answer (R75). -/
structure HomeOp where
  req : MemReq
  src : Nat
  tag : Nat
  deriving DecidableEq, Repr

/-- A line at its home (R71, R80). In state I with work waiting, `st` is none. -/
structure HomeLine where
  st : Option LineSt
  data : W1024
  v : BitVec 16
  /-- UOP while MODE = UP. -/
  up : Option (AmoOp × ETy)
  poison : Bool
  seq : W32
  logPend : Option Nat
  asid : Option (BitVec 16)
  busy : HBusy
  ops : List HomeOp
  stamp : Nat
  deriving DecidableEq, Repr

/-- A requester-side copy (R81, R82): a U copy holds partials and touched bits. -/
structure ProxyLine where
  u : Option (AmoOp × ETy)
  data : W1024
  touched : BitVec 32
  seq : W32
  poison : Bool
  stamp : Nat
  /-- The ASID of its last RED (R367). -/
  asid : Option (BitVec 16)
  deriving DecidableEq, Repr

/-- A proxy's request for a line, outstanding at the home, with what waits for it (R81). -/
structure ProxyReq where
  grant : Option (AmoOp × ETy)
  marked : Bool
  waiting : List Msg
  deriving DecidableEq, Repr

/-- A slice's counters and transaction-entry tickets (R75, R87, R114). -/
structure Slice where
  next : Nat
  serve : Nat
  corr : Nat
  uncorr : Nat
  uflush : Nat
  nretry : Nat
  poisn : Nat
  forced : Nat
  deriving DecidableEq, Repr

/-- Per-line state of HBM (R31, R73, R132): SEQ, poison, log-pending record. -/
structure LineMeta where
  seq : W32
  poison : Bool
  logPend : Option Nat
  deriving DecidableEq, Repr

/-! ## Logs -/

/-- States of a tile-log record (R132); IDLE is a record without entries kept for its tickets and LSEQ. -/
inductive LogSt where
  | idle | log | res (core tile : Nat) | force | spillWait
  deriving DecidableEq, Repr

/-- A tile-log record at its log home (R130 to R132). -/
structure LogRec where
  st : LogSt
  /-- Its entries on chip, the number that lie in the spill area behind them, and the TCODE of its last entry (R131). -/
  entries : List LogEntry
  spill : Nat
  newest : W64
  lseq : Nat
  applied : List Nat
  marks : Nat
  /-- Updates accepted and not acknowledged: until every LOGMARK is answered (R132), and until the entries that went to lines in the
  applied mask have been applied (R141, R322). -/
  firstAck : List (Msg × Nat)
  next : Nat
  serve : Nat
  openNext : Nat
  openServe : Nat
  /-- Lines with a forwarded entry in flight, and entries waiting to be forwarded, with their lines (R130), each with its LSEQ. -/
  fwdOut : List (Nat × Nat)
  fwdQ : List (Nat × Nat × LogEntry)
  /-- The message held in SPILL_WAIT, and the entries of it whose places in the spill area are not written yet (R426). -/
  spillMsg : Option Msg
  hold : List LogEntry
  /-- Messages of a CLOSE of which another has still to come (R51, R138), and TLOG syncs that wait for the entries accepted before
  them, with the LSEQ that each obtained (R141, R230). -/
  closing : List Msg
  syncs : List (Msg × Nat)
  /-- Every message of a CLOSE has come, and its entries for lines in the applied mask are on their way to the line homes: the residency
  ends with the last of them (R132, R141, R322). -/
  ending : Bool
  /-- LOGCLEARs not yet answered, and whether the storer has written every line of a forced apply (R137). -/
  clears : Nat
  wrote : Bool
  /-- Writes of the storer not yet acknowledged (R137). -/
  writes : Nat
  deriving DecidableEq, Repr

/-! ## Base die -/

/-- A barrier group of a channel (R325, R329, R330). -/
structure BarGroup where
  word : W64
  /-- Completion time of each member node, by core (R330). -/
  done : SMap Nat
  /-- Members whose release is scheduled: core and time (R329). -/
  rel : SMap Nat
  /-- Skew record of four words (R330). -/
  skew : Vector W64 4
  recorded : Bool
  epi : BitVec 16
  /-- The members of a complete episode, until its release is given (R327). -/
  due : List Nat
  /-- A resize holds the next compute release (R369). -/
  held : Bool
  deriving DecidableEq, Repr

/-- An SC sequencer (R306, R307): requests awaiting intake, the queue, and the holder. -/
structure Seqr where
  intake : List (Nat × Nat)
  queue : List (Nat × Nat)
  holder : Option (Nat × Nat)
  deriving DecidableEq, Repr

/-- The device sequencer (R306): its queue, the ticket in force, and requests withdrawn before they came. -/
structure DevSeqr where
  queue : List ScTicket
  holder : Option ScTicket
  gone : List ScTicket
  deriving DecidableEq, Repr

/-- Phases of a launch (R361, R364, R370): `closing` while its record is being written at its home. -/
inductive LPhase where
  | taken | running | preempting | killing | closing
  deriving DecidableEq, Repr

/-- The launch a queue runs (R360, R361). -/
structure Launch where
  num : Nat
  record : Vector W64 16
  phase : LPhase
  armed : Bool
  ctx : Nat
  /-- Scheduled time up to the last time the context left its cores (R370). -/
  sched : Nat
  /-- The timecode at which the present phase, or the context's present turn, began. -/
  phaseTicks : Nat
  /-- Cocoons ended. -/
  ended : Nat
  /-- Placed cocoons not yet ended. -/
  placedLeft : Nat
  stat : Nat
  cause : Nat
  /-- The strand whose cause is recorded, as 4 × core + strand; the launch is to be killed when the tick ends (R382). -/
  causeBy : Nat
  killDue : Bool
  deriving DecidableEq, Repr

/-- The device's own part of a queue (R359). -/
structure Queue where
  launch : Option Launch
  lastStat : Nat
  /-- Numbers of the launches that ended with a STAT other than OK (R361). -/
  failed : List Nat
  deriving DecidableEq, Repr

/-- The device's own part of a context (R357, R366, R367). -/
structure Context where
  /-- 0 idle, 1 running, 2 descheduled, 3 killing (R404). -/
  st : Nat
  /-- The timecode at which its turn began, and the number of the turn (R366). -/
  since : Nat
  turn : Nat
  onCores : Bool
  /-- 0 no resize, 1 accepted, 2 under way (R369). -/
  resize : Nat
  deriving DecidableEq, Repr

/-- A task pool's header (R335). -/
structure PoolHdr where
  base : Nat
  size : Nat
  head : Nat
  tail : Nat
  count : Nat
  prevw : Vector W64 8
  prevr : Vector W64 8
  deriving DecidableEq, Repr

/-- A pool at the task sequencer, which owns its header while the domain runs: its tickets (R336), whether its header has been read, and
the header, none where it has no place in memory or states no ring (R335). -/
structure Pool where
  next : Nat
  serve : Nat
  read : Bool
  hdr : Option PoolHdr
  deriving DecidableEq, Repr

/-- A sprint lease (R396). -/
structure Lease where
  core : Nat
  strand : Nat
  ctx : Option Nat
  lstep : Nat
  /-- Remaining energy in nJ (R395). -/
  energy : Nat
  /-- EXP, or while PAUSED the ticks that were left. -/
  exp : Nat
  deriving DecidableEq, Repr

/-- A cluster in the power block (R389, R390). -/
structure Cluster where
  clcfg : W64
  sr : Nat
  floordn : Nat
  vt : Int
  bias : Int
  /-- The barrier group that gave the bias (R330). -/
  biasBy : Option Nat
  step : Nat
  /-- A step change in progress, and a request that waits for its end (R388). -/
  want : Option Nat
  queued : Option Nat
  /-- The ticks of the last lease event, and of the governor's request that is in progress (R389, R397). -/
  leaseTick : Option Nat
  winTick : Option Nat
  /-- The row of R397 that decides how the ACTIVE lease ends when the tick ends. -/
  leaseRow : Option Nat
  fb : Bool
  dark : Bool
  lease : Option Lease
  paused : List Lease
  deriving DecidableEq, Repr

/-- What goes out to a peer: a write that it performs for this device, by address in the peer (R403), or the data of a read of the
peer's, by address here (R85), with the poison indication. -/
inductive PeerWrite where
  | line (pa : Nat) (data : W1024) (poison : Bool)
  | word (pa : Nat) (v : W64)
  | data (pa : Nat) (data : W1024) (poison : Bool)
  deriving DecidableEq, Repr

/-- An optical engine (R402, R403). -/
structure Optical where
  /-- Timecode of the last frame received. -/
  peerTc : Option W64
  /-- The transfer record in progress, and its lines already sent. -/
  transfer : Option (Vector W64 8)
  done : Nat
  /-- The stream sent to the peer, oldest first. -/
  sent : List PeerWrite
  /-- A line of the transfer record is being read at its home. -/
  reading : Bool
  /-- The peer's accesses that wait for the one before them, and whether one is being performed (R321). -/
  inq : List MemReq
  serving : Bool
  deriving DecidableEq, Repr

/-- A strand image kept for a pre-empted context (R379, R380): what the layout of R380 gives no place. The rest lies in memory. -/
structure StrandImage where
  ctx : Nat
  core : Nat
  slot : Nat
  strand : Strand
  /-- REFUSED entries that are not in the image itself, as they were saved with their core before the strand became migrated work. -/
  journal : List Journal
  /-- Spilled messages with their journal entries; one that still waited behind an earlier RED has no message (R309). -/
  spill : List (Journal × Option Msg)
  /-- It was saved as the image of a migrating strand, with its REFUSED entries (R380). -/
  migrated : Bool
  /-- The core and strand slot on which migrated work is being restored. -/
  dest : Option (Nat × Nat)
  deriving DecidableEq, Repr

/-- A core image (R379, R380): what the layout of R380 gives no place, with the REFUSED entries, which a later move hands to the strands
(R369). The rest lies in memory. -/
structure CoreImage where
  ctx : Nat
  core : Nat
  /-- STKB of strand 0, in whose backing the image lies. -/
  stkb : W64
  tiles : SMap Tile
  copies : SMap CopyId
  groups : SMap Group
  streams : SMap Stream
  journal : List Journal
  spill : List (Journal × Option Msg)
  /-- READY logged entries that were drained, to be refilled (R139). -/
  refill : List Nat
  /-- Reassembly buffers partly filled, or complete and not delivered (R62, R379). -/
  bufs : List Buf
  done : List Nat
  undelivered : List Msg
  deriving DecidableEq, Repr

/-- A save or a restore in progress on a core (R379). A line of an image is named by its unit, a strand slot or 4 for the core image, and its
number in the stack (R380). -/
structure Save where
  ctx : Nat
  /-- It restores; and the strand slot that takes migrated work, where it restores no more than that. -/
  back : Bool
  one : Option Nat
  /-- The lines still to be moved, and those that have been read. -/
  left : List (Nat × Nat)
  got : List ((Nat × Nat) × W1024)
  /-- What a save has taken from the core's interface and journal, and PENDING_ASYNC of each strand as it was written last. -/
  img : Option CoreImage
  pends : List (Nat × W64)
  deriving DecidableEq, Repr

/-- A fault region (R18). -/
structure FBox where
  x0 : Nat
  y0 : Nat
  z0 : Nat
  ex : Nat
  ey : Nat
  ez : Nat
  deriving DecidableEq, Repr

/-- The configuration record and firmware image on the package's flash, as the boot ROM finds them (R20, R405). The outcomes of the two
signature checks of each, RSA-3072 and SLH-DSA, and whether its body is well formed, are inputs. -/
structure Flash where
  recordRsa : Bool
  recordSlh : Bool
  recordFormed : Bool
  firmwareRsa : Bool
  firmwareSlh : Bool
  firmwareFormed : Bool
  memoryOk : Bool
  version : Nat
  /-- Bytes of the live-map section's reserved fields that are not zero, by offset (R20). -/
  reserved : List (Nat × BitVec 8)
  liveCores : Nat
  liveSlices : Nat
  coreBad : List Nat
  bondBad : List Nat
  sliceBad : List Nat
  boxes : List FBox
  ptcfg : W64
  /-- VT of the clusters whose trim is not 0, in 5 mV units (R387). -/
  vt : List (Nat × Int)
  deriving DecidableEq, Repr

/-- What the environment has done that a later step meets (R31, R72, R158, R177). -/
inductive EnvErr where
  /-- A corrected, or an uncorrectable, error of an HBM line (R31). -/
  | hbmCorr (line : Nat) | hbmBad (line : Nat)
  /-- An uncorrectable error of a home line or of a proxy line (R72). -/
  | homeBad (line : Nat) | proxyBad (sl line : Nat)
  /-- A corrected error of a home line, of a copy, and of a slot, scale store or accumulator of a core (R87, R158). -/
  | homeCorr (line : Nat) | proxyCorr (sl line : Nat) | coreCorr (core : Nat)
  /-- An uncorrectable word of a slot, a scale store or an accumulator (R158). -/
  | slotBad (core slot word : Nat) | scaleBad (core slot word : Nat) | accBad (core acc word : Nat)
  /-- Copies of a fetched line that fail parity: one, or both (R177). -/
  | parity (core : Nat) (line : W64) (both : Bool)
  deriving DecidableEq, Repr

/-- A turn: which agent steps next. -/
inductive Turn where
  | strand (c s : Nat)
  | event (e : Instr)
  /-- The timecode advances by one tick. -/
  | tick
  deriving DecidableEq, Repr

/-- A line as an engine holds it (R14 to R16, R428): the queues, the task sequencer, an optical engine, the management plane, a slice's
spills or a core's save engine, which reach memory by messages to the line's home or to the host port. -/
structure DevLine where
  data : W1024
  /-- The last answer carried the poison indication (R31). -/
  poison : Bool
  /-- It has been read since the engine last acted on it. -/
  fresh : Bool
  /-- A read is to be made; an access is on its way; the bytes changed in the copy and not yet sent. -/
  want : Bool
  busy : Bool
  todo : BitVec 128
  asid : Option (BitVec 16)
  deriving DecidableEq, Repr

/-- The state of the device. -/
structure State where
  cores : SMap Core
  routers : SMap Router
  regions : SMap Region
  /-- Messages on their way, by uid, and messages delivered and not yet handled. -/
  transit : List Msg
  inbox : List Msg
  reasm : SMap Reasm
  held : List Held
  /-- Tags that a sender's outstanding requests hold (R53). -/
  tags : SMap (List Nat)
  netord : W64
  netdiam : Nat
  home : SMap HomeLine
  proxies : SMap ProxyLine
  preqs : SMap ProxyReq
  slices : SMap Slice
  hbm : Memory
  hmeta : SMap LineMeta
  hostMem : Memory
  /-- Lines held by engines, by (2 × endpoint + 1 for host memory) × 2^33 + line. -/
  dev : SMap DevLine
  /-- Stores to LOC = 1 pages that the host has not completed, by core and strand (R316). -/
  hostOut : SMap Nat
  hbmCorr : SMap Nat
  hbmUncorr : SMap Nat
  tensors : SMap Tensor
  logs : SMap LogRec
  barGroups : SMap BarGroup
  devSeqr : DevSeqr
  cluSeqrs : SMap Seqr
  queues : SMap Queue
  contexts : SMap Context
  pools : SMap Pool
  parked : List (Nat × Nat)
  migrated : List StrandImage
  strandImages : List StrandImage
  coreImages : List CoreImage
  /-- Saves and restores in progress, by core (R379). -/
  saves : SMap Save
  clusters : SMap Cluster
  /-- MELT and RFZ (R394). -/
  melt : BitVec 16
  rfz : Bool
  optical : SMap Optical
  bumps : SMap (List Nat)
  bumpReqs : SMap (BitVec 16 × Option Nat × Nat × Nat)
  timecode : W64
  /-- Registers of the management window (R400). -/
  qbase : W64
  cbase : W64
  tcMaster : Bool
  tcLock : Bool
  tcOfs : Int
  /-- The slew in force, in ppm (R402). -/
  tcSlew : Int
  resyncAddr : W64
  resyncSt : Nat
  resyncBuf : List (BitVec 8)
  /-- The snapshot of a RESYNC is to be taken at the end of the tick (R404). -/
  resyncDue : Bool
  killBusy : Bool
  killCtx : Nat
  msix : List Nat
  /-- Uncorrectable network errors, halts and other reports to the management plane (R49, R356, R370). -/
  reports : List (Nat × Nat)
  fencedCount : Nat
  /-- The cores whose time of this tick has been charged (R367), and the counter words of the management window as the tick began, where they
  are not 0 (R400). -/
  charged : List Nat
  counts : SMap W64
  flash : Flash
  booted : Bool
  bootstat : Nat
  ptcfg : W64
  env : List EnvErr
  /-- The model's own: the turns to take next, the strand whose turn it is, and counters. -/
  agenda : List Turn
  cur : Nat × Nat
  uid : Nat
  draws : Nat
  deriving DecidableEq, Repr

/-- Why a step stops. -/
inductive Fault where
  /-- Raised by `step` and the event meanings when the agenda names a core, strand or other place that the device does
  not have (R13). Safe: the device has no such place, so it does nothing there. -/
  | noSuchPlace
  deriving DecidableEq, Repr

/-- Why an instruction has no meaning in the model. -/
inductive Refusal where
  /-- Raised by `exec` for an instruction whose meaning is not written. Safe: the model stops where the hardware goes on. -/
  | notModelled (mnemonic : String)
  deriving DecidableEq, Repr

/-- The buffer of R299 at core reset and at pickup: t gets MUL(a, b), s gets ADD(s, t). -/
def Uprog.reset : Uprog := { i32 := false, const := 0, steps := [0x5040, 0x04C0] }

/-- A strand after core reset (R161, R166). PC 0 and idle are the model's choice (DESIGN CHOICE, assumption log 4). -/
def Strand.reset : Strand where
  g := Vector.replicate 64 0
  v := Vector.replicate 32 0
  k := (Vector.replicate 8 0).set 0 0xFFFFFFFFFFFFFFFF
  pc := 0
  status := 0x80
  cause := 0
  epc := 0
  badaddr := 0
  pxv := 0
  fstat := 0
  svcXyz := 0
  asid := 0
  stkb := 0
  rnglo := 0
  rnghi := 0
  dfCause := 0
  pend := 0
  behind := 0
  preResume := false
  merrlg := Vector.replicate 8 0
  ldc := 0
  stc := 0
  cpc := 0
  tlc := 0
  rsc := 0
  join := Vector.replicate 16 0
  qfree := 0
  qaddr := 0
  uprog := .reset
  retry := []
  window := false
  sawCause := false
  sawBad := false
  run := .idle
  cocoon := none
  wait := .no
  gen := 0
  fault := none
  preempting := false
  saved := false
  join4 := []
  entered := false
  scNo := none
  entry := none
  midway := false
  left := none
  rangeStop := false
  ended := false
  noPage := none

/-- A core after core reset (R104, R125, R161, R164, R324). -/
def Core.reset : Core where
  strands := Vector.replicate 4 .reset
  ls := []
  bkmd0 := 0
  bkmd1 := 0
  res := false
  fifos := []
  l1 := []
  icache := []
  tiles := []
  slots := []
  accs := []
  mxq := []
  copies := []
  groups := []
  streams := []
  journal := []
  tlb1 := []
  tlb2 := []
  walks := []
  nodes := Vector.replicate 16 0
  stalled := []
  slotWait := []
  accWait := []
  faultOvf := 0
  faultTag := 0
  sliceFault := none
  replies := []
  errors := 0
  dark := false
  fenced := false
  heldPlaced := []
  placed := []
  bumps := []
  preempt := none
  refill := []
  ctx := none
  scq := []
  fills := []
  stamp := 0

/-- A full part, all places live, with no page table (R10, R20; DESIGN CHOICE, assumption log 1). -/
def Flash.full : Flash where
  recordRsa := true
  recordSlh := true
  recordFormed := true
  firmwareRsa := true
  firmwareSlh := true
  firmwareFormed := true
  memoryOk := true
  version := 1
  reserved := []
  liveCores := 12288
  liveSlices := 768
  coreBad := []
  bondBad := []
  sliceBad := []
  boxes := []
  ptcfg := 0
  vt := []

/-- The device right after reset, before its boot ROM has run (R405): every core in reset, nothing in memory. -/
def State.reset : State where
  cores := []
  routers := []
  regions := []
  transit := []
  inbox := []
  reasm := []
  held := []
  tags := []
  netord := 0
  netdiam := 0
  home := []
  proxies := []
  preqs := []
  slices := []
  hbm := []
  hmeta := []
  hostMem := []
  dev := []
  hostOut := []
  hbmCorr := []
  hbmUncorr := []
  tensors := []
  logs := []
  barGroups := []
  devSeqr := { queue := [], holder := none, gone := [] }
  cluSeqrs := []
  queues := []
  contexts := []
  pools := []
  parked := []
  migrated := []
  strandImages := []
  coreImages := []
  saves := []
  clusters := []
  melt := 0
  rfz := false
  optical := []
  bumps := []
  bumpReqs := []
  timecode := 0
  qbase := 0
  cbase := 0
  tcMaster := false
  tcLock := false
  tcOfs := 0
  tcSlew := 0
  resyncAddr := 0
  resyncSt := 0
  resyncBuf := []
  resyncDue := false
  killBusy := false
  killCtx := 0
  msix := []
  reports := []
  fencedCount := 0
  charged := []
  counts := []
  flash := .full
  booted := false
  bootstat := 0
  ptcfg := 0
  env := []
  agenda := []
  cur := (0, 0)
  uid := 0
  draws := 0

end Sys2Proof.Machine
end

