-- ==== Sys2Proof/Machine/Base.lean ====
section
/-!
DEFINITION. The named operations over the state's containers: sparse maps, memory, the accessors of cores and strands,
the numbering of places (R13, R14, R16), which of them are live (R17, R18) and the home mapping of lines (R32, R33).
-/

namespace Sys2Proof.Machine

/-- The result of an instruction or an event. -/
abbrev Res := Host.Outcome State Fault Refusal

/-! ## Sparse maps -/

/-- The entry of a number. -/
def SMap.get? {α : Type} : SMap α → Nat → Option α
  | [], _ => none
  | (j, x) :: m, k => if j = k then some x else SMap.get? m k

/-- The entry of a number, or a default. -/
def SMap.getD {α : Type} (m : SMap α) (k : Nat) (d : α) : α := (m.get? k).getD d

/-- The map with an entry set. -/
def SMap.set {α : Type} : SMap α → Nat → α → SMap α
  | [], k, x => [(k, x)]
  | (j, y) :: m, k, x =>
    if k < j then (k, x) :: (j, y) :: m else if k = j then (k, x) :: m else (j, y) :: SMap.set m k x

/-- The map without the entries of a number. -/
def SMap.erase {α : Type} (m : SMap α) (k : Nat) : SMap α := m.filter fun e => e.1 != k

/-! ## Memory: bytes, little-endian (R142, R175) -/

/-- The byte at an address; an unlisted one reads as 0 (R104, DESIGN CHOICE, assumption log 3). -/
def Memory.read (m : Memory) (a : Nat) : Byte := SMap.getD m a 0

/-- The memory without an address, in canonical form. -/
def Memory.drop : Memory → Nat → Memory
  | [], _ => []
  | (j, y) :: m, a => if j = a then m else if a < j then (j, y) :: m else (j, y) :: Memory.drop m a

/-- The memory with a byte written; a zero byte is not listed. -/
def Memory.write (m : Memory) (a : Nat) (b : Byte) : Memory :=
  if b = 0 then Memory.drop m a else SMap.set m a b

/-- Bytes from an address upward. -/
def Memory.bytes (m : Memory) (a : Nat) : Nat → List Byte
  | 0 => []
  | n + 1 => m.read a :: Memory.bytes m (a + 1) n

/-- The little-endian number in `n` bytes. -/
def Memory.num (m : Memory) (a n : Nat) : Nat := leNat (m.bytes a n)

/-- Writes bytes from an address upward. -/
def Memory.writeBytes : Memory → Nat → List Byte → Memory
  | m, _, [] => m
  | m, a, b :: bs => Memory.writeBytes (m.write a b) (a + 1) bs

/-- Writes a number as `n` little-endian bytes. -/
def Memory.writeNum (m : Memory) (a n x : Nat) : Memory := m.writeBytes a (leBytes n x)

/-- Sets the `n` bytes from an address to zero. -/
def Memory.zero (m : Memory) (a n : Nat) : Memory := m.filter fun e => !(a ≤ e.1 && e.1 < a + n)

/-- The canonical form: addresses strictly rising from `lo`, no zero byte. -/
def Memory.wfFrom : Nat → Memory → Bool
  | _, [] => true
  | lo, (j, y) :: m => decide (lo ≤ j) && y != 0 && Memory.wfFrom (j + 1) m

/-- Whether a memory is in canonical form. -/
def Memory.wf (m : Memory) : Bool := Memory.wfFrom 0 m

/-- Byte `i` of a line. -/
def lineByte (d : W1024) (i : Nat) : Byte := (d.extractLsb' (8 * i) 8)

/-- The number in `n` bytes of a line from byte `i`. -/
def lineNum (d : W1024) (i n : Nat) : Nat := (d >>> (8 * i)).toNat % 2 ^ (8 * n)

/-- The bits that a byte mask selects. -/
def maskBits (mask : BitVec 128) : W1024 :=
  (List.range 128).foldl (fun acc i => if mask.getLsbD i then acc ||| ((0xFF : W1024) <<< (8 * i)) else acc) 0

/-- The line with the masked bytes taken from `d`. -/
def merge (old d : W1024) (mask : BitVec 128) : W1024 :=
  let m := maskBits mask
  (old &&& ~~~m) ||| (d &&& m)

/-- The byte mask of bytes [i, i + n). -/
def byteMask (i n : Nat) : BitVec 128 := BitVec.ofNat 128 (2 ^ n - 1) <<< i

/-- The line with `n` bytes of value `x` from byte `i`. -/
def putNum (d : W1024) (i n x : Nat) : W1024 := merge d (BitVec.ofNat 1024 x <<< (8 * i)) (byteMask i n)

/-- The 128 bytes of a memory at `a`, as a line. -/
def Memory.line (m : Memory) (a : Nat) : W1024 := BitVec.ofNat 1024 (m.num a 128)

/-- Writes the masked bytes of a line at `a`. -/
def Memory.writeLine (m : Memory) (a : Nat) (d : W1024) (mask : BitVec 128) : Memory :=
  (List.range 128).foldl (fun m i => if mask.getLsbD i then m.write (a + i) (lineByte d i) else m) m

/-! ## Places (R13, R14) -/

def coreX (c : Nat) : Nat := c % 32
def coreY (c : Nat) : Nat := c / 32 % 24
def coreZ (c : Nat) : Nat := c / 768
/-- The number of core (x,y,z) (R13). -/
def coreNum (x y z : Nat) : Nat := x + 32 * y + 768 * z
/-- The cluster of a core (R13). -/
def clusterOf (c : Nat) : Nat := coreX c / 2 + 16 * (coreY c / 2) + 192 * (coreZ c / 2)
/-- The region of a core (R13). -/
def regionOf (c : Nat) : Nat := coreX c / 8 + 4 * (coreY c / 8) + 12 * (coreZ c / 2)
/-- The region of a cluster. -/
def regionOfCluster (cl : Nat) : Nat := cl % 16 / 4 + 4 * (cl / 16 % 12 / 4) + 12 * (cl / 192)
/-- The cores of a cluster, in ascending number. -/
def clusterCores (cl : Nat) : List Nat :=
  let x := 2 * (cl % 16)
  let y := 2 * (cl / 16 % 12)
  let z := 2 * (cl / 192)
  [coreNum x y z, coreNum (x + 1) y z, coreNum x (y + 1) z, coreNum (x + 1) (y + 1) z,
   coreNum x y (z + 1), coreNum (x + 1) y (z + 1), coreNum x (y + 1) (z + 1), coreNum (x + 1) (y + 1) (z + 1)]
/-- The attach core of a slice (R14). -/
def attachCore (sl : Nat) : Nat := coreNum (4 * (sl % 8) + 1) (4 * (sl / 8 % 6) + 1) (sl / 48)
/-- The slice whose footprint holds a core (R76). -/
def proxyOf (c : Nat) : Nat := coreX c / 4 + 8 * (coreY c / 4) + 48 * coreZ c
/-- The layer of a slice. -/
def sliceZ (sl : Nat) : Nat := sl / 48
/-- The base block of a core of layer 0 (R13). -/
def blockOf (c : Nat) : Nat := coreX c / 8 + 4 * (coreY c / 6)

/-- Endpoint numbers (R52). -/
def epSlice (sl : Nat) : Nat := 12288 + sl
def epHbm (h : Nat) : Nat := 13056 + h
def epOptical (h : Nat) : Nat := 13072 + h
def epHost : Nat := 13088
def epLaunch : Nat := 13089
def epSequencer : Nat := 13090
def epSlate : Nat := 13091
def epDevSeqr : Nat := 13092

/-- The HBM controller of a line (R30). -/
def hbmOf (ln : Nat) : Nat := (ln % 16) ^^^ (ln / 1024 % 16)

/-! ## Live places (R17, R18, R23) -/

def FBox.holds (b : FBox) (c : Nat) : Bool :=
  b.x0 ≤ coreX c && coreX c < b.x0 + b.ex && b.y0 ≤ coreY c && coreY c < b.y0 + b.ey &&
    b.z0 ≤ coreZ c && coreZ c < b.z0 + b.ez

/-- A core is live when it is not marked dead and lies in no fault region (R18). -/
def State.live (s : State) (c : Nat) : Bool :=
  decide (c < 12288) && !s.flash.coreBad.contains c && !s.flash.boxes.any (·.holds c)

/-- A slice is live unless its array failed or its attach core is not live (R17). -/
def State.sliceLive (s : State) (sl : Nat) : Bool :=
  decide (sl < 768) && !s.flash.sliceBad.contains sl && s.live (attachCore sl)

/-- The live slice numbers in ascending order (R32). -/
def State.sliceList (s : State) : List Nat :=
  if s.flash.sliceBad.isEmpty && s.flash.coreBad.isEmpty && s.flash.boxes.isEmpty then List.range 768
  else (List.range 768).filter s.sliceLive

/-- The fold hash (R32). -/
def foldHash (q : Nat) : Nat := (((q % 65536) ^^^ (q / 65536 % 65536)) * 40503) % 65536

/-- PTB and PTSH (R34). -/
def State.ptb (s : State) : Nat := (s.ptcfg >>> 24).toNat % 65536
def State.ptsh (s : State) : Nat := s.ptcfg.toNat % 32

/-- Whether a line lies in the page-table region (R33). -/
def State.inPt (s : State) (ln : Nat) : Bool :=
  s.ptsh != 0 && decide (s.ptb * 131072 ≤ ln) && decide (ln < s.ptb * 131072 + 1536 * 2 ^ s.ptsh)

/-- The first live slice at or after a number, wrapping (R33). -/
def State.liveFrom (s : State) (n : Nat) : Nat → Nat
  | 0 => n % 768
  | k + 1 => if s.sliceLive (n % 768) then n % 768 else State.liveFrom s (n + 1) k

/-- The owning slice of a shard (R33). -/
def State.shardHome (s : State) (shard : Nat) : Nat :=
  let n := shard % 16 / 2 + 8 * (shard / 16 % 12 / 2) + 96 * (shard / 192)
  if s.sliceLive n then n else if s.sliceLive (n + 48) then n + 48 else s.liveFrom (n + 1) 768

/-- The home slice of a line (R32, R33). -/
def State.homeOf (s : State) (ln : Nat) : Nat :=
  if s.inPt ln then s.shardHome ((ln - s.ptb * 131072) / 2 ^ s.ptsh)
  else
    let list := s.sliceList
    let S := list.length
    let F := 2 ^ 33 / S
    let r := 2 ^ 33 % S
    if ln < F * S then list.getD ((ln + foldHash (ln / S)) % S) 0
    else list.getD ((ln - F * S) * (S / r)) 0

/-- The set of a line among the home ways (R71). -/
def State.homeSet (s : State) (ln : Nat) : Nat :=
  let S := s.sliceList.length
  if s.inPt ln || decide (2 ^ 33 / S * S ≤ ln) then ln % 1024 else ln / S % 1024

/-! ## Cores and strands -/

def State.core (s : State) (c : Nat) : Core := SMap.getD s.cores c .reset
def State.setCore (s : State) (c : Nat) (x : Core) : State := { s with cores := SMap.set s.cores c x }
def State.modCore (s : State) (c : Nat) (f : Core → Core) : State := s.setCore c (f (s.core c))

def Core.strand (x : Core) (i : Nat) : Strand := x.strands[i]?.getD .reset
def Core.setStrand (x : Core) (i : Nat) (t : Strand) : Core := { x with strands := x.strands.setIfInBounds i t }

def State.strand (s : State) (c i : Nat) : Strand := (s.core c).strand i
def State.setStrand (s : State) (c i : Nat) (t : Strand) : State := s.modCore c (·.setStrand i t)
def State.modStrand (s : State) (c i : Nat) (f : Strand → Strand) : State := s.setStrand c i (f (s.strand c i))

/-- The strand whose turn it is. -/
def State.me (s : State) : Strand := s.strand s.cur.1 s.cur.2
def State.modMe (s : State) (f : Strand → Strand) : State := s.modStrand s.cur.1 s.cur.2 f
/-- The core whose turn it is. -/
def State.myCore (s : State) : Core := s.core s.cur.1
def State.modMyCore (s : State) (f : Core → Core) : State := s.modCore s.cur.1 f

/-- An image of the flash is taken as signed: both signatures verify, and the body is well formed (R20, R405). -/
def Flash.recordSigned (f : Flash) : Bool := f.recordRsa && f.recordSlh && f.recordFormed
def Flash.firmwareSigned (f : Flash) : Bool := f.firmwareRsa && f.firmwareSlh && f.firmwareFormed

/-- Whether the device runs: with any other BOOTSTAT nothing of the cube or of memory is used (R20, R21, R405). -/
def State.running (s : State) : Bool := s.booted && s.bootstat == 0

/-- Whether a core has left reset and its supply is there (R23, R405). -/
def State.coreUp (s : State) (c : Nat) : Bool := s.running && s.live c && !(s.core c).dark

/-! ## STATUS (R167) -/

def setBit (w : W64) (i : Nat) (b : Bool) : W64 := if b then w ||| ((1 : W64) <<< i) else w &&& ~~~((1 : W64) <<< i)

def Strand.px (t : Strand) : Bool := t.status.getLsbD 5
def Strand.spx (t : Strand) : Bool := t.status.getLsbD 6
def Strand.prv (t : Strand) : Bool := t.status.getLsbD 7
def Strand.sprv (t : Strand) : Bool := t.status.getLsbD 8
def Strand.sie (t : Strand) : Bool := t.status.getLsbD 9
def Strand.ie (t : Strand) : Bool := t.status.getLsbD 10
def Strand.sstep (t : Strand) : Bool := t.status.getLsbD 11

/-! ## Banks (R103, R104) -/

/-- The mode of a bank: 0 SCR, 1 CCH, 2 FIFO (R104). -/
def Core.mode (x : Core) (b : Nat) : Nat :=
  if b < 32 then (x.bkmd0 >>> (2 * b)).toNat % 4 else (x.bkmd1 >>> (2 * (b - 32))).toNat % 4

def putMode (w : W64) (i m : Nat) : W64 := (w &&& ~~~((3 : W64) <<< (2 * i))) ||| (BitVec.ofNat 64 m <<< (2 * i))

def Core.setMode (x : Core) (b m : Nat) : Core :=
  if b < 32 then { x with bkmd0 := putMode x.bkmd0 b m } else { x with bkmd1 := putMode x.bkmd1 (b - 32) m }

/-- The number of CCH banks: the ways of the first-level cache (R107). -/
def Core.ways (x : Core) : List Nat := (List.range 64).filter (x.mode · == 1)

def Fifo.reset : Fifo := { head := 0, tail := 0, count := 0, next := 1, serve := 1 }
def Core.fifo (x : Core) (b : Nat) : Fifo := SMap.getD x.fifos b .reset

/-! ## Defaults of the other containers -/

def Tile.reset : Tile :=
  { w0 := 0, w1 := 0, w2 := 0, w3 := 0, w4 := 0, failAddr := 0, unreported := none, mismatch := none, logged := none,
    logDirty := false, log := [], next := 1, serve := 1, unsub := false, pc := 0, asid := 0, job := .none, sbuf := 0, promoted := false, refilling := false }
def Slot.reset : Slot := { data := 0, scales := Vector.replicate 128 0, bound := none }
def Acc.reset : Acc := { words := Vector.replicate 256 0, owner := none }
def CopyId.reset : CopyId := { w0 := 0, w1 := 0, w2 := 0, w3 := 0, reported := false, copy := none }
def Group.reset : Group := { desc := 0, gen := 0, drain := 0, lines := [] }
def Journal.reset : Journal :=
  { st := .free, strand := 0, addr := 0, opk := 0, reason := 0, piece := none, heldRed := none, order := 0 }
def Router.reset : Router :=
  { cycle := 0, arr := [], later := [], border := [], up := [], back := [], inj := [], outCore := [], outSlice := [],
    turnSlice := false, waited := 0, starving := false, hold := 0 }
def Reasm.reset : Reasm := { bufs := [], done := [], fifo := [], reserved := none, refused := none }
def Slice.reset : Slice :=
  { next := 1, serve := 1, corr := 0, uncorr := 0, uflush := 0, nretry := 0, poisn := 0, forced := 0 }
def LineMeta.reset : LineMeta := { seq := 0, poison := false, logPend := none }
def LogRec.reset : LogRec :=
  { st := .idle, entries := [], spill := 0, newest := 0, lseq := 0, applied := [], marks := 0, firstAck := [], next := 1, serve := 1,
    openNext := 1, openServe := 1, fwdOut := [], fwdQ := [], spillMsg := none, hold := [], closing := [], syncs := [], ending := false
    clears := 0, wrote := false, writes := 0 }
def BarGroup.reset : BarGroup :=
  { word := 0, done := [], rel := [], skew := Vector.replicate 4 0, recorded := false, epi := 0, due := [], held := false }
def Seqr.reset : Seqr := { intake := [], queue := [], holder := none }
def Queue.reset : Queue := { launch := none, lastStat := 0, failed := [] }
def Context.reset : Context := { st := 0, since := 0, turn := 0, onCores := false, resize := 0 }
def Pool.reset : Pool := { next := 1, serve := 1, read := false, hdr := none }
def Optical.reset : Optical := 
  { peerTc := none, transfer := none, done := 0, sent := [], reading := false, inq := [], serving := false }

/-- NGCFG after reset (R68). -/
def ngcfgReset : W64 :=
  BitVec.ofNat 64 (64 * 2 ^ 36 + 16 * 2 ^ 28 + 8 * 2 ^ 23 + 1 * 2 ^ 18 + 6 * 2 ^ 14 + 1 * 2 ^ 10 + 7 * 2 ^ 7 + 1)

/-- CLCFG after reset (R390). -/
def clcfgReset : W64 := BitVec.ofNat 64 (192 * 2 ^ 24 + 64 * 2 ^ 16 + 4 * 2 ^ 10 + 1)

def Region.reset : Region :=
  { ngcfg := ngcfgReset, nstep := 3, wantStep := none, lcorr := 0, lpois := 0, ldrop := 0, routed := 0, defl := 0,
    qmax := 0, fmax := 0, vrail := 750, vtgt := 750, plive := 12, mode := 0, on := false, ramp := false, rampEnd := 0, heavy := [],
    coreNs := [] }

/-- The regions that share a face with a region in the torus. -/
def regionNeighbours (r : Nat) : List Nat :=
  let x := r % 4
  let y := r / 4 % 3
  let z := r / 12
  let num := fun x y z => x + 4 * y + 12 * z
  [num ((x + 1) % 4) y z, num ((x + 3) % 4) y z, num x ((y + 1) % 3) z, num x ((y + 2) % 3) z,
   num x y ((z + 1) % 8), num x y ((z + 7) % 8)]

/-- VT of a cluster, in 5 mV units (R387). -/
def State.vtOf (s : State) (cl : Nat) : Int := SMap.getD s.flash.vt cl 0

/-- The clusters of a region. -/
def regionClusters (r : Nat) : List Nat :=
  (List.range 16).map fun i => (r % 4 * 4 + i % 4) + 16 * (r / 4 % 3 * 4 + i / 4) + 192 * (r / 12)

/-- The rail at which a region leaves reset: 750 mV plus the largest trim (R390). -/
def State.railReset (s : State) (r : Nat) : Nat :=
  ((regionClusters r).foldl (fun m cl => max m (750 + 5 * s.vtOf cl)) 710).toNat

def State.region (s : State) (r : Nat) : Region :=
  SMap.getD s.regions r { Region.reset with vrail := s.railReset r, vtgt := s.railReset r }
def State.modRegion (s : State) (r : Nat) (f : Region → Region) : State :=
  { s with regions := SMap.set s.regions r (f (s.region r)) }

def Cluster.reset : Cluster :=
  { clcfg := clcfgReset, sr := 0, floordn := 0, vt := 0, bias := 0, biasBy := none, step := 4, want := none, queued := none, leaseTick := none,
    winTick := none, leaseRow := none, fb := false, dark := false, lease := none, paused := [] }
def State.cluster (s : State) (cl : Nat) : Cluster :=
  SMap.getD s.clusters cl { Cluster.reset with vt := s.vtOf cl }
def State.modCluster (s : State) (cl : Nat) (f : Cluster → Cluster) : State :=
  { s with clusters := SMap.set s.clusters cl (f (s.cluster cl)) }

def Core.tile (x : Core) (t : Nat) : Tile := SMap.getD x.tiles t .reset
def Core.setTile (x : Core) (t : Nat) (e : Tile) : Core := { x with tiles := SMap.set x.tiles t e }
def Core.modTile (x : Core) (t : Nat) (f : Tile → Tile) : Core := x.setTile t (f (x.tile t))
def Core.slot (x : Core) (o : Nat) : Slot := SMap.getD x.slots o .reset
def Core.setSlot (x : Core) (o : Nat) (e : Slot) : Core := { x with slots := SMap.set x.slots o e }
def Core.accOf (x : Core) (a : Nat) : Acc := SMap.getD x.accs a .reset
def Core.setAcc (x : Core) (a : Nat) (e : Acc) : Core := { x with accs := SMap.set x.accs a e }
def Core.copyId (x : Core) (i : Nat) : CopyId := SMap.getD x.copies i .reset
def Core.setCopyId (x : Core) (i : Nat) (e : CopyId) : Core := { x with copies := SMap.set x.copies i e }
def Core.group (x : Core) (n : Nat) : Group := SMap.getD x.groups n .reset
def Core.setGroup (x : Core) (n : Nat) (e : Group) : Core := { x with groups := SMap.set x.groups n e }
def Core.jent (x : Core) (j : Nat) : Journal := SMap.getD x.journal j .reset
def Core.setJent (x : Core) (j : Nat) (e : Journal) : Core := { x with journal := SMap.set x.journal j e }
/-- The place in the order of issue of the next journal entry. -/
def Core.nextOrder (x : Core) : Nat := x.journal.foldl (fun n e => max n (e.2.order + 1)) 0
/-- The lowest free journal entry (R375). -/
def Core.freeJent (x : Core) : Option Nat := (List.range 64).find? fun j => (x.jent j).st == .free
/-- The node word of a channel (R324). -/
def Core.node (x : Core) (ch : Nat) : W64 := x.nodes[ch]?.getD 0

def State.router (s : State) (c : Nat) : Router := SMap.getD s.routers c .reset
def State.modRouter (s : State) (c : Nat) (f : Router → Router) : State :=
  { s with routers := SMap.set s.routers c (f (s.router c)) }
def State.lineMeta (s : State) (ln : Nat) : LineMeta := SMap.getD s.hmeta ln .reset
def State.setLineMeta (s : State) (ln : Nat) (m : LineMeta) : State := { s with hmeta := SMap.set s.hmeta ln m }
def State.slice (s : State) (sl : Nat) : Slice := SMap.getD s.slices sl .reset
def State.modSlice (s : State) (sl : Nat) (f : Slice → Slice) : State :=
  { s with slices := SMap.set s.slices sl (f (s.slice sl)) }
def State.queue (s : State) (q : Nat) : Queue := SMap.getD s.queues q .reset
def State.modQueue (s : State) (q : Nat) (f : Queue → Queue) : State :=
  { s with queues := SMap.set s.queues q (f (s.queue q)) }
def State.context (s : State) (n : Nat) : Context := SMap.getD s.contexts n .reset
def State.modContext (s : State) (n : Nat) (f : Context → Context) : State :=
  { s with contexts := SMap.set s.contexts n (f (s.context n)) }
def State.barGroup (s : State) (ch gix : Nat) : BarGroup := SMap.getD s.barGroups (64 * ch + gix) .reset
def State.setBarGroup (s : State) (ch gix : Nat) (b : BarGroup) : State :=
  { s with barGroups := SMap.set s.barGroups (64 * ch + gix) b }
def State.logRec (s : State) (r : Nat) : LogRec := SMap.getD s.logs r .reset
def State.setLogRec (s : State) (r : Nat) (x : LogRec) : State := { s with logs := SMap.set s.logs r x }
def State.modLogRec (s : State) (r : Nat) (f : LogRec → LogRec) : State := s.setLogRec r (f (s.logRec r))

/-- A report: a code and a place (R49, R332, R356, R370). One to the management plane is a management event, for which MSI-X vector 64 fires;
with code 4 it is one to a service core (R399; DEDUCED, assumption log 41: the spec does not list the events). -/
def State.report (s : State) (code place : Nat) : State :=
  { s with reports := s.reports ++ [(code, place)], msix := if code = 4 then s.msix else s.msix ++ [64] }

/-- Bits [hi : lo] of a word, as a number. -/
def bits (w : W64) (lo n : Nat) : Nat := (w >>> lo).toNat % 2 ^ n

/-- The word with bits [lo, lo + n) set to a number. -/
def putBits (w : W64) (lo n x : Nat) : W64 :=
  (w &&& ~~~(BitVec.ofNat 64 (2 ^ n - 1) <<< lo)) ||| (BitVec.ofNat 64 (x % 2 ^ n) <<< lo)

end Sys2Proof.Machine
end

