-- ==== Sys2Proof/Machine/Float.lean ====
section
/-!
DEFINITION. Arithmetic on the float formats (R143 to R151): exact values as signed dyadics, one rounding, the flags, and
the transcendentals by fixed-point series wide enough to round correctly.
Readings: PRESUMED, assumption log 30.
-/

namespace Sys2Proof.Machine

/-- A binary interchange format (R143). -/
structure Fmt where
  ebits : Nat
  fbits : Nat
  deriving DecidableEq, Repr

def Fmt.fp32 : Fmt := ⟨8, 23⟩
def Fmt.fp16 : Fmt := ⟨5, 10⟩
def Fmt.bf16 : Fmt := ⟨8, 7⟩

def Fmt.bias (f : Fmt) : Nat := 2 ^ (f.ebits - 1) - 1
def Fmt.width (f : Fmt) : Nat := 1 + f.ebits + f.fbits
def Fmt.inf (f : Fmt) : Nat := (2 ^ f.ebits - 1) * 2 ^ f.fbits
def Fmt.nan (f : Fmt) : Nat := f.inf + 2 ^ (f.fbits - 1)
def Fmt.sign (f : Fmt) (neg : Bool) : Nat := if neg then 2 ^ (f.width - 1) else 0
/-- Exponent of the least significant bit of a subnormal. -/
def Fmt.qmin (f : Fmt) : Int := 1 - (f.bias : Int) - f.fbits

/-- The format of a float type; other types are read as FP32. -/
def etyFmt : ETy → Fmt
  | .bf16 => .bf16
  | .fp16 => .fp16
  | _ => .fp32

/-- A datum: `fin` is (−1)^neg × m × 2^e. -/
inductive FVal where
  | nan (sig : Bool)
  | inf (neg : Bool)
  | fin (neg : Bool) (m : Nat) (e : Int)
  deriving DecidableEq, Repr

/-- The flags NX UF OF DZ IV, in the bits of FSTAT (R146). -/
abbrev Flags := BitVec 5
def fIV : Flags := 1
def fDZ : Flags := 2
def fOF : Flags := 4
def fUF : Flags := 8
def fNX : Flags := 16

/-- A result with its flags. -/
structure FRes where
  bits : Nat
  fl : Flags
  deriving DecidableEq, Repr

/-- Rounding mode and flush of an operation (R145, R148). Mode: 0 RNE, 1 RTZ, 2 RUP, 3 RDN. -/
structure FEnv where
  mode : Nat
  ftz : Bool
  deriving DecidableEq, Repr

/-- The environment of the parties of R147: RNE, subnormals kept. -/
def FEnv.plain : FEnv := ⟨0, false⟩

/-- Reads an encoding (R143); under FTZ a subnormal is a zero of its sign (R148). -/
def readF (f : Fmt) (ftz : Bool) (b : Nat) : FVal :=
  let neg := b / 2 ^ (f.width - 1) % 2 == 1
  let ex := b / 2 ^ f.fbits % 2 ^ f.ebits
  let fr := b % 2 ^ f.fbits
  if ex = 2 ^ f.ebits - 1 then
    if fr = 0 then .inf neg else .nan (fr < 2 ^ (f.fbits - 1))
  else if ex = 0 then .fin neg (if ftz then 0 else fr) f.qmin
  else .fin neg (fr + 2 ^ f.fbits) (f.qmin + (ex - 1 : Nat))

/-- The number of bits of a number. -/
def bitLen (n : Nat) : Nat := if n = 0 then 0 else Nat.log2 n + 1

/-- Whether a magnitude rounds away from zero: `rem` of `2^sh` is cut off, `st` says that more lies below it. -/
def roundsUp (mode : Nat) (neg : Bool) (kept rem sh : Nat) (st : Bool) : Bool :=
  match mode with
  | 0 => decide (2 * rem > 2 ^ sh) || (decide (2 * rem = 2 ^ sh) && (st || kept % 2 == 1))
  | 1 => false
  | 2 => !neg && (rem != 0 || st)
  | _ => neg && (rem != 0 || st)

/-- The magnitude m × 2^e, with more below its last bit when `st`, cut to a multiple of 2^q. Where nothing is cut the
callers give `st` false. -/
def cut (mode : Nat) (neg : Bool) (m : Nat) (e q : Int) (st : Bool) : Nat × Bool :=
  if q ≤ e then (m * 2 ^ (e - q).toNat, st)
  else
    let sh := (q - e).toNat
    let kept := m / 2 ^ sh
    let r := m % 2 ^ sh
    (kept + (roundsUp mode neg kept r sh st).toNat, r != 0 || st)

/-- Delivers a result whose encoding is subnormal under the flush of R148. -/
def flushF (f : Fmt) (env : FEnv) (neg : Bool) (r : FRes) : FRes :=
  let mag := r.bits % 2 ^ (f.width - 1)
  if env.ftz && decide (0 < mag) && decide (mag < 2 ^ f.fbits) then ⟨f.sign neg, r.fl ||| fUF ||| fNX⟩ else r

/-- Round(x, mode) for a non-zero magnitude m × 2^e (R145), with the flags of R146. Outside RNE every magnitude above
max finite overflows (DEDUCED, assumption log 14). -/
def roundMag (f : Fmt) (env : FEnv) (neg : Bool) (m : Nat) (e : Int) (st : Bool) : FRes :=
  let E := e + (bitLen m : Int) - 1
  let emin := 1 - (f.bias : Int)
  let q := max (E - f.fbits) f.qmin
  let (mant, inx) := cut env.mode neg m e q st
  let mag := (q - f.qmin).toNat * 2 ^ f.fbits + mant
  let toInf := match env.mode with
    | 0 => true
    | 1 => false
    | 2 => !neg
    | _ => neg
  let above := decide (f.inf ≤ mag) || (!toInf && inx && decide (mag = f.inf - 1))
  let tiny :=
    if emin ≤ E then false
    else if E < emin - 1 then true
    else (cut env.mode neg m e (E - f.fbits) st).1 < 2 ^ (f.fbits + 1)
  if above then
    ⟨f.sign neg + (if toInf then f.inf else f.inf - 1), fOF ||| fNX⟩
  else
    flushF f env neg ⟨f.sign neg + mag, (if inx then fNX else 0) ||| (if tiny && inx then fUF else 0)⟩

/-- Round(x, mode) for a signed dyadic; a zero keeps the sign given. -/
def roundF (f : Fmt) (env : FEnv) (neg : Bool) (m : Nat) (e : Int) (st : Bool) : FRes :=
  if m = 0 then ⟨f.sign neg, 0⟩ else roundMag f env neg m e st

def nanRes (f : Fmt) (iv : Bool) : FRes := ⟨f.nan, if iv then fIV else 0⟩

def FVal.isNan : FVal → Bool
  | .nan _ => true
  | _ => false
def FVal.isSig : FVal → Bool
  | .nan s => s
  | _ => false
def FVal.isInf : FVal → Bool
  | .inf _ => true
  | _ => false
def FVal.neg : FVal → Bool
  | .nan _ => false
  | .inf n => n
  | .fin n _ _ => n
def FVal.isZero : FVal → Bool
  | .fin _ m _ => m == 0
  | _ => false
def FVal.flip : FVal → FVal
  | .nan s => .nan s
  | .inf n => .inf (!n)
  | .fin n m e => .fin (!n) m e

/-- The exact product of two data; none where it is 0 × ∞ (R146). -/
def mulV : FVal → FVal → Option FVal
  | .nan a, .nan b => some (.nan (a || b))
  | .nan a, _ => some (.nan a)
  | _, .nan b => some (.nan b)
  | .inf a, .inf b => some (.inf (a != b))
  | .inf a, .fin b m _ => if m = 0 then none else some (.inf (a != b))
  | .fin a m _, .inf b => if m = 0 then none else some (.inf (a != b))
  | .fin a m e, .fin b n g => some (.fin (a != b) (m * n) (e + g))

/-- The least exponent of finite terms. -/
def minExp : List FVal → Int → Int
  | [], d => d
  | .fin _ _ e :: l, d => minExp l (min d e)
  | _ :: l, d => minExp l d

/-- The exact sum of finite terms in units of 2^q. -/
def sumAt (q : Int) : List FVal → Int
  | [] => 0
  | .fin n m e :: l => (if n then -1 else 1) * ((m * 2 ^ (e - q).toNat : Nat) : Int) + sumAt q l
  | _ :: l => sumAt q l

/-- The rounded exact sum of terms (R145, R149, R152): any NaN, or infinities of both signs, give the canonical NaN. -/
def sumF (f : Fmt) (env : FEnv) (ts : List FVal) : FRes :=
  if ts.any FVal.isNan then nanRes f (ts.any FVal.isSig)
  else
    let pi := ts.any fun t => t.isInf && !t.neg
    let ni := ts.any fun t => t.isInf && t.neg
    if pi && ni then nanRes f true
    else if pi then ⟨f.inf, 0⟩
    else if ni then ⟨f.sign true + f.inf, 0⟩
    else
      let q := minExp ts 0
      let t := sumAt q ts
      if t = 0 then
        let zneg := if ts.all FVal.neg && ts.all FVal.isZero then true
          else if ts.all fun x => x.isZero && !x.neg then false
          else env.mode == 3
        ⟨f.sign zneg, 0⟩
      else roundF f env (t < 0) t.natAbs q false

/-- FADD, VADD (R252, R269). -/
def addF (f : Fmt) (env : FEnv) (a b : Nat) : FRes := sumF f env [readF f env.ftz a, readF f env.ftz b]
/-- FSUB, VSUB. -/
def subF (f : Fmt) (env : FEnv) (a b : Nat) : FRes := sumF f env [readF f env.ftz a, (readF f env.ftz b).flip]

/-- FMUL, VMUL. -/
def mulF (f : Fmt) (env : FEnv) (a b : Nat) : FRes :=
  let x := readF f env.ftz a
  let y := readF f env.ftz b
  match mulV x y with
  | none => nanRes f true
  | some (.nan s) => nanRes f s
  | some (.inf n) => ⟨f.sign n + f.inf, 0⟩
  | some (.fin n m e) => roundF f env n m e false

/-- FMA, VFMA: a × b + c with one rounding (R149). -/
def fmaF (f : Fmt) (env : FEnv) (a b c : Nat) : FRes :=
  let x := readF f env.ftz a
  let y := readF f env.ftz b
  let z := readF f env.ftz c
  match mulV x y with
  | none => nanRes f true
  | some p => sumF f env [p, z]

/-- The quotient of positive numbers with a sticky remainder, with at least `k` significant bits. -/
def quot (k m n : Nat) : Nat × Int × Bool :=
  let sh := k + bitLen n
  (m * 2 ^ sh / n, -(sh : Int), m * 2 ^ sh % n != 0)

/-- FDIV (R252). -/
def divF (f : Fmt) (env : FEnv) (a b : Nat) : FRes :=
  match readF f env.ftz a, readF f env.ftz b with
  | .nan s, y => nanRes f (s || y.isSig)
  | x, .nan s => nanRes f (s || x.isSig)
  | .inf _, .inf _ => nanRes f true
  | .inf n, .fin k _ _ => ⟨f.sign (n != k) + f.inf, 0⟩
  | .fin n _ _, .inf k => ⟨f.sign (n != k), 0⟩
  | .fin n m e, .fin k l g =>
    if l = 0 then if m = 0 then nanRes f true else ⟨f.sign (n != k) + f.inf, fDZ⟩
    else if m = 0 then ⟨f.sign (n != k), 0⟩
    else
      let (q, sh, st) := quot 40 m l
      roundF f env (n != k) q (e - g + sh) st

/-- The integer square root of a number below 4^k. -/
def isqrt (n : Nat) : Nat → Nat → Nat
  | 0, r => r
  | k + 1, r => isqrt n k (if (r + 2 ^ k) * (r + 2 ^ k) ≤ n then r + 2 ^ k else r)

/-- FSQRT, VSQRT (R252, R151). -/
def sqrtF (f : Fmt) (env : FEnv) (a : Nat) : FRes :=
  match readF f env.ftz a with
  | .nan s => nanRes f s
  | .inf n => if n then nanRes f true else ⟨f.inf, 0⟩
  | .fin n m e =>
    if m = 0 then ⟨f.sign n, 0⟩
    else if n then nanRes f true
    else
      let m := if e % 2 = 0 then m else 2 * m
      let e := if e % 2 = 0 then e else e - 1
      let w := m * 2 ^ 80
      let r := isqrt w (bitLen w / 2 + 1) 0
      roundF f env false r (e / 2 - 40) (r * r != w)

/-- An order key of an encoding that is no NaN, with −0 below +0. -/
def keyF (f : Fmt) (b : Nat) : Int :=
  let mag : Nat := b % 2 ^ (f.width - 1)
  if b / 2 ^ (f.width - 1) % 2 = 1 then -1 - (mag : Int) else mag

/-- The encoding as read under FTZ (R148, R149). -/
def asRead (f : Fmt) (ftz : Bool) (b : Nat) : Nat :=
  let b := b % 2 ^ f.width
  let mag := b % 2 ^ (f.width - 1)
  if ftz && decide (mag < 2 ^ f.fbits) then b - mag else b

/-- FMIN and FMAX (R149): the chosen operand as read. -/
def minmaxF (f : Fmt) (ftz : Bool) (mx : Bool) (a b : Nat) : FRes :=
  let x := readF f ftz a
  let y := readF f ftz b
  let fl : Flags := if x.isSig || y.isSig then fIV else 0
  let a := asRead f ftz a
  let b := asRead f ftz b
  if x.isNan && y.isNan then ⟨f.nan, fl⟩
  else if x.isNan then ⟨b, fl⟩
  else if y.isNan then ⟨a, fl⟩
  else if mx then ⟨if keyF f a < keyF f b then b else a, fl⟩
  else ⟨if keyF f b < keyF f a then b else a, fl⟩

/-- A comparison under R240 and R254. -/
def cmpF (f : Fmt) (ftz : Bool) (c : Cond) (a b : Nat) : Bool × Flags :=
  let x := readF f ftz a
  let y := readF f ftz b
  let un := x.isNan || y.isNan
  let ka := keyF f (asRead f ftz a)
  let kb := keyF f (asRead f ftz b)
  let z := x.isZero && y.isZero
  let eq := z || ka == kb
  let lt := !z && decide (ka < kb)
  let quiet := match c with
    | .lt | .le | .gt | .ge => true
    | _ => false
  let fl : Flags := if x.isSig || y.isSig || (un && quiet) then fIV else 0
  let r := match c with
    | .eq => !un && eq
    | .ne => un || !eq
    | .lt => !un && lt
    | .le => !un && (lt || eq)
    | .gt => !un && !(lt || eq)
    | .ge => !un && !lt
    | .un => un
    | .or => !un
  (r, fl)

/-! ## Conversions (R150) -/

/-- Float to float; equal formats leave the value unchanged but for NaN and FTZ (R255). -/
def cvtFF (src dst : Fmt) (env : FEnv) (a : Nat) : FRes :=
  match readF src env.ftz a with
  | .nan s => nanRes dst s
  | .inf n => ⟨dst.sign n + dst.inf, 0⟩
  | .fin n m e => roundF dst env n m e false

/-- Integer to float. -/
def cvtIF (dst : Fmt) (env : FEnv) (x : Int) : FRes := roundF dst env (x < 0) x.natAbs 0 false

/-- Float to integer: out of range gives the nearest bound and IV, NaN gives 0 and IV. -/
def cvtFI (src : Fmt) (env : FEnv) (lo hi : Int) (a : Nat) : Int × Flags :=
  match readF src env.ftz a with
  | .nan _ => (0, fIV)
  | .inf n => (if n then lo else hi, fIV)
  | .fin n m e =>
    let (k, inx) := cut env.mode n m e 0 false
    let v : Int := if n then -(k : Int) else k
    if v < lo then (lo, fIV) else if hi < v then (hi, fIV) else (v, if inx then fNX else 0)

/-! ## Transcendentals (R151): FP32, RNE -/

/-- Fraction bits of the fixed-point series. -/
def fixP : Nat := 320

/-- Σ z^(2k+1)/(2k+1), the series of atanh, in fixed point: `n` terms from the k-th. -/
def atanhSum (z2 : Nat) : Nat → Nat → Nat → Nat
  | 0, _, _ => 0
  | n + 1, k, zp => zp / (2 * k + 1) + atanhSum z2 n (k + 1) (zp * z2 / 2 ^ fixP)

/-- atanh of a fixed-point z below 1/3. -/
def atanhFix (z : Nat) : Nat := atanhSum (z * z / 2 ^ fixP) 110 0 z

/-- ln 2 in fixed point: 2 atanh(1/3). -/
def ln2Fix : Nat := 2 * atanhFix (2 ^ fixP / 3)

/-- Σ r^k/k! from the k-th term in fixed point. -/
def expSum (r : Nat) : Nat → Nat → Nat → Nat
  | 0, _, _ => 0
  | n + 1, k, t => t + expSum r n (k + 1) (t * r / 2 ^ fixP / (k + 1))

/-- e^r for a fixed-point r below 1. -/
def expFix (r : Nat) : Nat := expSum r 90 0 (2 ^ fixP)

/-- A fixed-point approximation that is not exact, as a magnitude with a sticky bit: its guard bits are dropped. -/
def sticky (f : Fmt) (env : FEnv) (neg : Bool) (y : Nat) (e : Int) : FRes :=
  roundF f env neg (y / 2 ^ 100) (e + 100) true

/-- x × 2^fixP of a dyadic, exact for every FP32 value and its multiples by small powers of two. -/
def toFix (m : Nat) (e : Int) : Nat :=
  if -(fixP : Int) ≤ e then m * 2 ^ (e + fixP).toNat else m / 2 ^ (-(e + fixP)).toNat

def rcpF (ftz : Bool) (a : Nat) : FRes := divF .fp32 ⟨0, ftz⟩ 0x3F800000 a

def rsqF (ftz : Bool) (a : Nat) : FRes :=
  match readF .fp32 ftz a with
  | .nan s => nanRes .fp32 s
  | .inf n => if n then nanRes .fp32 true else ⟨0, 0⟩
  | .fin n m e =>
    if m = 0 then ⟨Fmt.fp32.sign n + Fmt.fp32.inf, fDZ⟩
    else if n then nanRes .fp32 true
    else
      let m := if e % 2 = 0 then m else 2 * m
      let e := if e % 2 = 0 then e else e - 1
      let k := 40 + bitLen m
      let w := 2 ^ (2 * k) / m
      let r := isqrt w (bitLen w / 2 + 1) 0
      roundF .fp32 ⟨0, ftz⟩ false r (-(e / 2) - (k : Int)) (r * r * m != 2 ^ (2 * k))

def exp2F (ftz : Bool) (a : Nat) : FRes :=
  let env : FEnv := ⟨0, ftz⟩
  match readF .fp32 ftz a with
  | .nan s => nanRes .fp32 s
  | .inf n => if n then ⟨0, 0⟩ else ⟨Fmt.fp32.inf, 0⟩
  | .fin n m e =>
    if m = 0 then ⟨0x3F800000, 0⟩
    else
      let x := toFix m e
      if !n && decide (128 * 2 ^ fixP ≤ x) then ⟨Fmt.fp32.inf, fOF ||| fNX⟩
      else if n && decide (150 * 2 ^ fixP ≤ x) then ⟨0, fUF ||| fNX⟩
      else
        let fx : Int := if n then -(x : Int) else x
        let k := fx / (2 ^ fixP : Nat)
        let fr := (fx % (2 ^ fixP : Nat)).toNat
        if fr = 0 then roundF .fp32 env false 1 k false
        else sticky .fp32 env false (expFix (fr * ln2Fix / 2 ^ fixP)) (k - fixP)

def log2F (ftz : Bool) (a : Nat) : FRes :=
  let env : FEnv := ⟨0, ftz⟩
  match readF .fp32 ftz a with
  | .nan s => nanRes .fp32 s
  | .inf n => if n then nanRes .fp32 true else ⟨Fmt.fp32.inf, 0⟩
  | .fin n m e =>
    if m = 0 then ⟨Fmt.fp32.sign true + Fmt.fp32.inf, fDZ⟩
    else if n then nanRes .fp32 true
    else
      let L := bitLen m - 1
      let k : Int := e + L
      let t := m * 2 ^ fixP / 2 ^ L
      let one := 2 ^ fixP
      if t = one then roundF .fp32 env (k < 0) k.natAbs 0 false
      else
        let ln := 2 * atanhFix ((t - one) * one / (t + one))
        let r : Int := k * (one : Nat) + (ln * one / ln2Fix : Nat)
        sticky .fp32 env (r < 0) r.natAbs (-(fixP : Int))

def tanhF (ftz : Bool) (a : Nat) : FRes :=
  let env : FEnv := ⟨0, ftz⟩
  match readF .fp32 ftz a with
  | .nan s => nanRes .fp32 s
  | .inf n => ⟨Fmt.fp32.sign n + 0x3F800000, 0⟩
  | .fin n m e =>
    if m = 0 then ⟨Fmt.fp32.sign n, 0⟩
    else
      let x := toFix m e
      let one := 2 ^ fixP
      if x < 2 ^ (fixP - 13) then roundF .fp32 env n (m * 2 ^ 64 - 1) (e - 64) true
      else if 32 * one ≤ x then roundF .fp32 env n (2 ^ 64 - 1) (-64) true
      else
        let k := 2 * x / ln2Fix
        let r := 2 * x % ln2Fix
        let y := expFix r * 2 ^ k
        sticky .fp32 env n ((y - one) * one / (y + one)) (-(fixP : Int))

end Sys2Proof.Machine
end

