-- ==== Sys2Proof/Machine/Operands.lean ====
section
/-!
DEFINITION. Every operand form: element types, register sources and destinations, broadcast and lanes, predicates, and
the format descriptor of the FMT prefix (R155, R163, R187 to R190, R238, R263, R264).
-/

namespace Sys2Proof.Machine

/-! ## Types -/

/-- Width in bits (R118). -/
def etyWidth : ETy → Nat
  | .bf16 | .fp16 | .i16 | .ui16 => 16
  | .fp32 | .i32 | .ui32 | .ra => 32
  | .i8 | .ui8 | .rn8 => 8
  | .rn4 => 4
  | .i64 | .ui64 => 64

/-- Two's complement types. -/
def etySigned : ETy → Bool
  | .i8 | .i16 | .i32 | .i64 | .rn8 | .rn4 => true
  | _ => false

/-- The value of the low `w` bits of a number. -/
def asInt (signed : Bool) (w x : Nat) : Int :=
  let x := x % 2 ^ w
  if signed && decide (2 ^ (w - 1) ≤ x) then (x : Int) - 2 ^ w else x

/-- The `w` bits of an integer. -/
def ofInt (w : Nat) (x : Int) : Nat := (x % (2 ^ w : Nat)).toNat

/-- Least and greatest value of an integer type. -/
def tyLo (t : ETy) : Int := if etySigned t then -(2 ^ (etyWidth t - 1) : Nat) else 0
def tyHi (t : ETy) : Int := if etySigned t then (2 ^ (etyWidth t - 1) : Nat) - 1 else (2 ^ etyWidth t : Nat) - 1

def clampInt (lo hi x : Int) : Int := min (max x lo) hi

/-- A w-bit result extended to 64 bits by the type's signedness (R238). -/
def ext64 (signed : Bool) (w x : Nat) : W64 := BitVec.ofInt 64 (asInt signed w x)

/-! ## Registers -/

def Strand.readG (t : Strand) (n : Nat) : W64 := t.g[n]?.getD 0
def Strand.readV (t : Strand) (n : Nat) : W1024 := t.v[n]?.getD 0
/-- k0 reads as all ones (R163). -/
def Strand.readK (t : Strand) (n : Nat) : W64 := if n = 0 then 0xFFFFFFFFFFFFFFFF else t.k[n]?.getD 0
def Strand.setG (t : Strand) (n : Nat) (x : W64) : Strand := { t with g := t.g.setIfInBounds n x }
def Strand.setV (t : Strand) (n : Nat) (x : W1024) : Strand := { t with v := t.v.setIfInBounds n x }
/-- A write to k0 is discarded (R163). -/
def Strand.setK (t : Strand) (n : Nat) (x : W64) : Strand :=
  if n = 0 then t else { t with k := t.k.setIfInBounds n x }

/-- A 64-bit source: register, zero, or the sign-extended immediate (R187, R238). -/
def Strand.src (t : Strand) (imm : W48) : Opd → W64
  | .g n => t.readG n
  | .k n => t.readK n
  | .imm => imm.signExtend 64
  | _ => 0

/-- Writes a 64-bit destination; 0x70 discards (R187). -/
def Strand.write (t : Strand) (d : Opd) (x : W64) : Strand :=
  match d with
  | .g n => t.setG n x
  | .k n => t.setK n x
  | _ => t

/-- Writes a vector destination. -/
def Strand.writeV (t : Strand) (d : Opd) (x : W1024) : Strand :=
  match d with
  | .v n => t.setV n x
  | _ => t

/-- The number of an accumulator operand. -/
def accNo : Opd → Nat
  | .acc n => n
  | _ => 0

/-- The number of a v operand. -/
def vNo : Opd → Nat
  | .v n => n
  | _ => 0

/-! ## Lanes (R263, R264) -/

/-- Lane `i` of width `w`. -/
def lane (w : Nat) (x : W1024) (i : Nat) : Nat := (x >>> (w * i)).toNat % 2 ^ w

/-- The register with given lanes, lane 0 least significant. -/
def packNat (w : Nat) : List Nat → Nat
  | [] => 0
  | x :: l => x % 2 ^ w + 2 ^ w * packNat w l

def packLanes (w : Nat) (l : List Nat) : W1024 := BitVec.ofNat 1024 (packNat w l)

/-- Lanes [i, i + n) of a register, the number given in `x` shifted down to lane i. -/
def lanesFrom (w : Nat) (x : Nat) : Nat → List Nat
  | 0 => []
  | n + 1 => x % 2 ^ w :: lanesFrom w (x / 2 ^ w) n

/-- All lanes of a register. -/
def lanesOf (w : Nat) (x : W1024) : List Nat := lanesFrom w x.toNat (1024 / w)

/-- The low `w` bits of a value in every lane (R188). -/
def broadcast (w : Nat) (x : W64) : W1024 := packLanes w (List.replicate (1024 / w) (x.toNat % 2 ^ w))

/-- A vector source: a v register, or a broadcast value (R264). -/
def Strand.vsrc (t : Strand) (imm : W48) (w : Nat) (o : Opd) : W1024 :=
  match o with
  | .v n => t.readV n
  | o => broadcast w (t.src imm o)

/-- The predicate of a scalar, memory or matrix instruction (R189). -/
def Strand.predOn (t : Strand) (p : Pred) : Bool :=
  if p.pm = 0 then true else (t.readK p.pm).getLsbD 0 != p.pi

/-- Whether a lane of width `w` is active (R190). -/
def Strand.active (t : Strand) (p : Pred) (w i : Nat) : Bool :=
  if p.pm = 0 then true
  else
    let j := if w < 16 then i * w / 16 else i
    (t.readK p.pm).getLsbD j != p.pi

/-- The bit of a mask that a lane owns (R190). -/
def laneBit (w i : Nat) : Nat := if w < 16 then i * w / 16 else i

/-- The active lanes of a register, as a list of truth values. -/
def Strand.actives (t : Strand) (p : Pred) (w : Nat) : List Bool :=
  (List.range (1024 / w)).map (t.active p w)

/-- New lanes where active, old lanes elsewhere (R264). -/
def blend (w : Nat) (act : List Bool) (new : List Nat) (old : W1024) : W1024 :=
  packLanes w ((act.zip (new.zip (lanesOf w old))).map fun x => if x.1 then x.2.1 else x.2.2)

/-! ## The format descriptor (R155) -/

/-- The fields of a descriptor. -/
structure Desc where
  sen : Bool
  sfmt : Option ETy
  den : Bool
  dfmt : Option ETy
  scl : Nat
  sat : Bool
  ren : Bool
  rmo : Nat
  deriving DecidableEq, Repr

/-- The all-zero descriptor. -/
def Desc.zero : Desc :=
  { sen := false, sfmt := some .bf16, den := false, dfmt := some .bf16, scl := 0, sat := false, ren := false, rmo := 0 }

def Desc.ofWord (d : W32) : Desc where
  sen := d.getLsbD 27
  sfmt := ETy.ofCode (d.extractLsb' 23 4)
  den := d.getLsbD 22
  dfmt := ETy.ofCode (d.extractLsb' 18 4)
  scl := (d.extractLsb' 16 2).toNat
  sat := d.getLsbD 15
  ren := d.getLsbD 14
  rmo := (d.extractLsb' 12 2).toNat

/-- A non-zero reserved field, or a format of 14 or 15, enabled or not (R155). -/
def descReserved (d : W32) : Bool :=
  d.extractLsb' 28 4 != 0 || d.extractLsb' 0 12 != 0 || (Desc.ofWord d).sfmt.isNone || (Desc.ofWord d).dfmt.isNone

/-- Which prefixes an instruction takes: none at all, or what each enabled field may hold. -/
structure PxSpec where
  takes : Bool
  sf : List ETy
  df : List ETy
  scl : Bool
  sat : Bool
  ren : Bool
  deriving DecidableEq, Repr

def PxSpec.no : PxSpec := ⟨false, [], [], false, false, false⟩
/-- Takes a prefix that enables nothing. -/
def PxSpec.nothing : PxSpec := ⟨true, [], [], false, false, false⟩
/-- SEN with I8 or UI8. -/
def PxSpec.narrow : PxSpec := ⟨true, [.i8, .ui8], [], false, false, false⟩
/-- SEN with I8 or UI8, and SAT. -/
def PxSpec.narrowSat : PxSpec := ⟨true, [.i8, .ui8], [], false, true, false⟩
def PxSpec.round : PxSpec := ⟨true, [], [], false, false, true⟩

/-- Whether every enabled field is one the instruction accepts (R155). -/
def PxSpec.accepts (x : PxSpec) (d : Desc) : Bool :=
  (!d.sen || (match d.sfmt with | some t => x.sf.contains t | none => false)) &&
  (!d.den || (match d.dfmt with | some t => x.df.contains t | none => false)) &&
  (d.scl == 0 || x.scl) && (!d.sat || x.sat) && (!d.ren || x.ren)

/-- The descriptor an instruction runs under (R197). -/
def Strand.desc (t : Strand) : Desc := if t.px then .ofWord (t.pxv.setWidth 32) else .zero

/-- The type under SEN (R239, R265). -/
def Desc.srcTy (d : Desc) (ty : ETy) : ETy := if d.sen then d.sfmt.getD ty else ty
def Desc.dstTy (d : Desc) (ty : ETy) : ETy := if d.den then d.dfmt.getD ty else ty

end Sys2Proof.Machine
end

