-- ==== Sys2Proof/Machine/Flags.lean ====
section
/-!
DEFINITION. The flag computations: FSTAT and the rounding environment of an instruction (R146, R148, R252), the integer
and float comparisons (R240, R248, R254) and the element operations shared by the scalar and vector instructions.
-/

namespace Sys2Proof.Machine

/-- FTZ of FSTAT (R146). -/
def Strand.ftz (t : Strand) : Bool := t.fstat.getLsbD 11
/-- RM of FSTAT. -/
def Strand.rm (t : Strand) : Nat := bits t.fstat 9 2
/-- The flags are sticky (R146). -/
def Strand.addFlags (t : Strand) (f : Flags) : Strand := { t with fstat := t.fstat ||| f.setWidth 64 }
def Strand.setMerr (t : Strand) : Strand := { t with fstat := setBit t.fstat 5 true }

/-- Rounding mode and flush of an instruction (R252, R269). -/
def Strand.fenv (t : Strand) (d : Desc) : FEnv := ⟨if d.ren then d.rmo else t.rm, t.ftz⟩

/-- An integer comparison (R240). -/
def cmpI (c : Cond) (x y : Int) : Bool :=
  match c with
  | .eq => x == y
  | .ne => x != y
  | .lt => decide (x < y)
  | .le => decide (x ≤ y)
  | .gt => decide (y < x)
  | .ge => decide (y ≤ x)
  | .un | .or => false

/-- A comparison of a type's w-bit sources, with its flags (R248, R254). -/
def cmpTy (ty : ETy) (c : Cond) (ftz : Bool) (x y : Nat) : Bool × Flags :=
  if ty.isFlt then cmpF (etyFmt ty) ftz c x y
  else (cmpI c (asInt (etySigned ty) (etyWidth ty) x) (asInt (etySigned ty) (etyWidth ty) y), 0)

/-- The exact integer result, wrapped or clamped (R243, R268). -/
def narrow (ty : ETy) (sat : Bool) (e : Int) : Nat :=
  ofInt (etyWidth ty) (if sat then clampInt (tyLo ty) (tyHi ty) e else e)

/-- Operations on two integers of a type. -/
inductive IOp where
  | add | sub | mul | mulh | div | rem | and | or | xor | andn | shl | shr | sar | rot | min | max
  deriving DecidableEq, Repr

/-- The quotient and remainder of R244. -/
def divRem (ty : ETy) (x y : Int) : Int × Int :=
  let w := etyWidth ty
  if y = 0 then (if etySigned ty then -1 else (2 ^ w : Nat) - 1, x)
  else if etySigned ty && x == -(2 ^ (w - 1) : Nat) && y == -1 then (-(2 ^ (w - 1) : Nat), 0)
  else (Int.tdiv x y, x - Int.tdiv x y * y)

/-- The w-bit result of an integer operation on w-bit sources (R243 to R247). -/
def intOp (op : IOp) (ty : ETy) (sat : Bool) (a b : Nat) : Nat :=
  let w := etyWidth ty
  let a := a % 2 ^ w
  let b := b % 2 ^ w
  let x := asInt (etySigned ty) w a
  let y := asInt (etySigned ty) w b
  let sh := b % w
  match op with
  | .add => narrow ty sat (x + y)
  | .sub => narrow ty sat (x - y)
  | .mul => narrow ty sat (x * y)
  | .mulh => ofInt w (x * y / (2 ^ w : Nat))
  | .div => ofInt w (divRem ty x y).1
  | .rem => ofInt w (divRem ty x y).2
  | .and => a &&& b
  | .or => a ||| b
  | .xor => a ^^^ b
  | .andn => a &&& (2 ^ w - 1 - b)
  | .shl => a * 2 ^ sh % 2 ^ w
  | .shr => a / 2 ^ sh
  | .sar => ofInt w (asInt true w a / (2 ^ sh : Nat))
  | .rot => (a * 2 ^ sh + a / 2 ^ (w - sh)) % 2 ^ w
  | .min => if x ≤ y then a else b
  | .max => if x ≤ y then b else a

/-- Operations on two floats. -/
inductive FOp where
  | add | sub | mul | div | min | max
  deriving DecidableEq, Repr

/-- A float operation on encodings of a type (R252, R253). -/
def fltOp (op : FOp) (f : Fmt) (env : FEnv) (a b : Nat) : FRes :=
  match op with
  | .add => addF f env a b
  | .sub => subF f env a b
  | .mul => mulF f env a b
  | .div => divF f env a b
  | .min => minmaxF f env.ftz false a b
  | .max => minmaxF f env.ftz true a b

/-- The conversion of one element from a type to a type (R150, R255). -/
def cvtElem (env : FEnv) (sat : Bool) (src dst : ETy) (a : Nat) : FRes :=
  let ws := etyWidth src
  let wd := etyWidth dst
  let a := a % 2 ^ ws
  if src.isFlt then
    if dst.isFlt then cvtFF (etyFmt src) (etyFmt dst) env a
    else
      let (v, fl) := cvtFI (etyFmt src) env (tyLo dst) (tyHi dst) a
      ⟨ofInt wd v, fl⟩
  else
    let x := asInt (etySigned src) ws a
    if dst.isFlt then cvtIF (etyFmt dst) env x
    else ⟨ofInt wd (if sat then clampInt (tyLo dst) (tyHi dst) x else x), 0⟩

/-- Leading zeros of a w-bit number (R250). -/
def clzN (w x : Nat) : Nat := w - bitLen (x % 2 ^ w)

/-- The one bits of a number among its low `w` (R250). -/
def popcN : Nat → Nat → Nat
  | 0, _ => 0
  | w + 1, x => x % 2 + popcN w (x / 2)

/-- The low `w` bits in reverse (R250). -/
def brevN : Nat → Nat → Nat
  | 0, _ => 0
  | w + 1, x => x % 2 * 2 ^ w + brevN w (x / 2)

/-- The value an atomic or a reduction leaves (R303): FP32 parties round RNE and keep subnormals. -/
def amoNew (a : AmoReq) (old : Nat) : Nat :=
  let w := etyWidth a.ty
  let v := a.v.toNat % 2 ^ w
  let c := a.c.toNat % 2 ^ w
  match a.op with
  | .add => intOp .add a.ty false old v
  | .and => old &&& v
  | .or => old ||| v
  | .xor => old ^^^ v
  | .min => intOp .min a.ty false old v
  | .max => intOp .max a.ty false old v
  | .swap => v
  | .cas => if old = c then v else old
  | .fadd => (addF .fp32 .plain old v).bits
  | .fmax => (minmaxF .fp32 false true old v).bits

/-- A logged update of a 4-byte element (R128). -/
def logApply (ty : ETy) (op : LogOp) (old v : Nat) : Nat :=
  match op with
  | .store => v
  | .add => if ty.isFlt then (addF .fp32 .plain old v).bits else intOp .add ty false old v
  | .min => if ty.isFlt then (minmaxF .fp32 false false old v).bits else intOp .min ty false old v
  | .max => if ty.isFlt then (minmaxF .fp32 false true old v).bits else intOp .max ty false old v

/-! ## Residues (R153, R154) -/

/-- The residues of an RA word, each taken modulo its channel's modulus (R153). -/
def raRead (w : Nat) : Nat × Nat × Nat := (w % 1024 % 1023, w / 1024 % 1024, w / 1048576 % 2048 % 1025)

/-- The canonical RA word of three residues. -/
def raWord (r : Nat × Nat × Nat) : Nat := r.1 + 1024 * r.2.1 + 1048576 * r.2.2

/-- The RA word of an integer (R153). -/
def raOfInt (v : Int) : Nat := raWord ((v % 1023).toNat, (v % 1024).toNat, (v % 1025).toNat)

/-- The reconstruction of R154. -/
def raValue (w : Nat) : Int :=
  let (a, b, c) := raRead w
  let x : Nat := (a * 537395200 + b * 1072692225 + c * 537394176) % 1073740800
  if 536870400 ≤ x then (x : Int) - 1073740800 else x

/-- An RN8 or RN4 element; the most negative reads as one more (R153). -/
def rnValue (ty : ETy) (b : Nat) : Int :=
  match ty with
  | .rn8 => if b % 256 = 128 then -127 else asInt true 8 b
  | _ => if b % 16 = 8 then -7 else asInt true 4 b

end Sys2Proof.Machine
end

