-- ==== Sys2Proof/Machine/Net.lean ====
section
/-!
DEFINITION. Messages and the torus: sending (R51 to R54, R59, R428), ports and distances (R47, R55, R64), one cycle of a
router (R57, R58, R67), reassembly and delivery (R50, R62).
Readings: DEDUCED, assumption log 21; DESIGN CHOICE, assumption log 46.
-/

namespace Sys2Proof.Machine

/-! ## Ports (R47, R64): 0 +X, 1 −X, 2 +Y, 3 −Y, 4 +Z, 5 −Z, 7 BASE -/

/-- The neighbour a link port leads to. -/
def neighbour (c p : Nat) : Nat :=
  let x := coreX c
  let y := coreY c
  let z := coreZ c
  match p with
  | 0 => coreNum ((x + 1) % 32) y z
  | 1 => coreNum ((x + 31) % 32) y z
  | 2 => coreNum x ((y + 1) % 24) z
  | 3 => coreNum x ((y + 23) % 24) z
  | 4 => coreNum x y ((z + 1) % 16)
  | 5 => coreNum x y ((z + 15) % 16)
  | _ => c

/-- The port by which the neighbour sees this router. -/
def opposite (p : Nat) : Nat := if p = 7 then 7 else if p % 2 = 0 then p + 1 else p - 1

def lanes (p : Nat) : Nat := if p < 4 then 1 else 2

/-- The bond group of a port: the +z link of the lower core, or the base port (R13). -/
def bondOf (c p : Nat) : Option Nat :=
  match p with
  | 4 => some c
  | 5 => some (neighbour c 5)
  | 7 => some (12288 + coreX c + 32 * coreY c)
  | _ => none

/-- The detour-table state of a port: 0 LIVE, 1 DEAD_LINK, 2 FAULT, 3 ABSENT (R64). -/
def State.portState (s : State) (c p : Nat) : Nat :=
  if p = 6 then 0
  else if p = 7 && coreZ c != 0 then 3
  else if p != 7 && !s.live (neighbour c p) then 2
  else match bondOf c p with
    | some b => if s.flash.bondBad.contains b then 1 else 0
    | none => 0

/-- DTAB of a core's router (R64). -/
def State.dtab (s : State) (c : Nat) : W64 :=
  if s.booted then
    BitVec.ofNat 64 ((List.range 8).foldl (fun a p => a + s.portState c p * 4 ^ p) 0)
  else 0

/-- A torus distance along one dimension. -/
def ringDist (n a b : Nat) : Nat := min ((a + n - b) % n) ((b + n - a) % n)

def torusDist (a b : Nat) : Nat :=
  ringDist 32 (coreX a) (coreX b) + ringDist 24 (coreY a) (coreY b) + ringDist 16 (coreZ a) (coreZ b)

/-- Whether every place and link of the part is live. -/
def State.full (s : State) : Bool :=
  s.flash.coreBad.isEmpty && s.flash.boxes.isEmpty && s.flash.bondBad.isEmpty

/-- The cores one live edge away from a set and not yet seen. -/
def State.frontier (s : State) (seen front : List Nat) : List Nat :=
  front.foldl (fun acc c =>
    (List.range 6).foldl (fun acc p =>
      let n := neighbour c p
      if s.portState c p == 0 && s.portState n (opposite p) == 0 && s.live n && !seen.contains n && !acc.contains n
      then n :: acc else acc) acc) []

/-- Live-graph distance by rings around the targets (R55). -/
def State.ringSearch (s : State) (u : Nat) : Nat → Nat → List Nat → List Nat → Nat
  | 0, d, _, _ => d
  | k + 1, d, seen, front =>
    if front.contains u then d else State.ringSearch s u k (d + 1) (front ++ seen) (s.frontier (front ++ seen) front)

/-- The routers an endpoint hangs on (R52). -/
def State.targets (s : State) (dest : Nat) : List Nat :=
  if dest < 12288 then [dest]
  else if dest < 13056 then [attachCore (dest - 12288)]
  else
    let blocks := if dest < 13072 then [dest - 13056] else if dest < 13088 then [dest - 13072] else [5, 6, 9, 10]
    (List.range 768).filter fun c => blocks.contains (blockOf c) && s.live c && s.portState c 7 == 0

/-- The distance from a router to an endpoint (R55). -/
def State.dist (s : State) (u dest : Nat) : Nat :=
  let ts := s.targets dest
  if s.full then ts.foldl (fun m t => min m (torusDist u t)) 1000
  else s.ringSearch u 80 0 [] ts

def isBaseEp (dest : Nat) : Bool := decide (13056 ≤ dest)

/-- The router through which an endpoint of the cube sends and receives. -/
def epRouter (ep : Nat) : Nat := if ep < 12288 then ep else attachCore (ep - 12288)

/-- The base port by which a base-die engine enters the cube toward a core: the nearest, ties to the lower number (R16). -/
def State.basePort (s : State) (src dest : Nat) : Nat :=
  let t := epRouter dest
  let key := fun c => ringDist 32 (coreX c) (coreX t) + ringDist 24 (coreY c) (coreY t)
  ((s.targets src).foldl (fun (m : Option Nat) c =>
    match m with
    | none => some c
    | some b => if key c < key b then some c else m) none).getD 0

/-! ## Sending -/

/-- Whether a message uses no link: inside one LOCAL port (R59) or on the base die's fabric (R428). -/
def direct (src dest : Nat) : Bool :=
  (isBaseEp src && isBaseEp dest) || (!isBaseEp src && !isBaseEp dest && epRouter src == epRouter dest)

/-- Feeds the injection queue of 16 flits: core and slice take turns while both have flits waiting (R59, R70). -/
def Router.feed : Nat → Router → Router
  | 0, r => r
  | k + 1, r =>
    if 16 ≤ r.inj.length then r
    else match r.outCore, r.outSlice with
      | [], [] => r
      | f :: l, [] => Router.feed k { r with inj := r.inj ++ [f], outCore := l }
      | [], f :: l => Router.feed k { r with inj := r.inj ++ [f], outSlice := l }
      | f :: l, g :: m =>
        Router.feed k (if r.turnSlice then { r with inj := r.inj ++ [g], outSlice := m, turnSlice := false }
          else { r with inj := r.inj ++ [f], outCore := l, turnSlice := true })

/-- The flits of a message (R51, R54). -/
def Msg.flits (m : Msg) : List Flit :=
  (List.range m.nf).map fun i =>
    { uid := m.uid, fidx := i, nf := m.nf, dest := m.dest, cls := m.cls, age := 0, sb := m.sb.getD i 0, poison := false }

/-- The core and entry of the fill or drain that a message works for. -/
def Body.forTile : Body → Option (Nat × Nat)
  | .mem r => match r.who with | .tile c t _ _ => some (c, t) | _ => none
  | _ => none

/-- Whether a message is traffic of a copy, a fill or a drain. -/
def Body.copies : Body → Bool
  | .mem r => match r.who with | .tile _ _ _ _ | .copy _ _ => true | _ => false
  | .copyWr _ _ _ _ _ | .redc _ _ _ _ _ _ _ | .fillData _ _ _ _ _ => true
  | _ => false

/-- Puts the flits of a core's message behind those that wait; a line read of a promoted fill goes ahead of every other copy
(R136). -/
def State.queueFlits (s : State) (m : Msg) (out : List Flit) : List Flit :=
  let ahead := match m.body.forTile with | some (c, t) => ((s.core c).tile t).promoted | none => false
  let copy := fun (f : Flit) => s.transit.any fun x => x.uid == f.uid && x.body.copies
  if ahead then out.takeWhile (fun f => !copy f) ++ m.flits ++ out.dropWhile fun f => !copy f else out ++ m.flits

/-- Queues a message's flits for injection; their AGE is stamped when they leave (R57). -/
def State.inject (s : State) (m : Msg) : State :=
  if direct m.via m.dest then s
  else
    let fl := m.flits
    if isBaseEp m.via then s.modRouter (s.basePort m.via m.dest) fun r => { r with up := r.up ++ fl }
    else s.modRouter (epRouter m.via) fun r =>
      Router.feed 16 (if m.via < 12288 then { r with outCore := s.queueFlits m r.outCore } else { r with outSlice := r.outSlice ++ fl })

/-- The lowest tag a sender does not hold; 256 when all are outstanding (R53). -/
def State.freeTag (s : State) (src : Nat) : Nat :=
  let used := SMap.getD s.tags src []
  ((List.range 256).find? fun t => !used.contains t).getD 256

/-! ### Operation headers (R51, R74, R96, R112) -/

/-- The SEQ of a line as its home or its HBM holds it (R73). -/
def State.seqNow (s : State) (ln : Nat) : W32 :=
  match SMap.get? s.home ln with
  | some h => if h.st.isSome then h.seq else (s.lineMeta ln).seq
  | none => (s.lineMeta ln).seq

/-- The line that a message concerns. -/
def Body.line? : Body → Option Nat
  | .mem r => some r.line
  | .ans _ _ _ _ _ r => some r.line
  | .inval ln | .recall ln | .ack ln _ => some ln
  | .logMark ln _ | .logMarkAck _ ln | .logClear ln _ | .logClearAck _ ln => some ln
  | .fwdAck _ ln | .lockAns _ ln _ => some ln
  | .hbmRd ln | .hbmData ln _ _ _ | .hbmWr ln _ _ _ | .hbmWrote ln => some ln
  | .retry b | .nack b | .okCancel b => b.line?
  | _ => none

/-- The record that a message concerns which a log home answers, or with which it answers. -/
def Body.rec? : Body → Option Nat
  | .logUpd _ r _ | .open_ r _ _ | .openAns r _ _ | .close r _ _ _ _ | .pull _ r | .pullAns _ r _ _ _ | .unpull _ r | .unpullAck _ r => some r
  | .tlog _ _ r _ => some r
  | .retry b | .nack b | .okCancel b => b.rec?
  | _ => none

/-- KIND of an answer of a slice (R74). -/
def Body.ansKind : Body → Nat
  | .ans _ k _ _ _ _ => k
  | .logAns _ k _ => k
  | .retry _ => 3
  | .nack _ => 4
  | .lockAns _ _ none => 4
  | .okCancel _ => 7
  | _ => 0

/-- The header of an answer of a slice (R74). The answer to an invalidation or a recall of a slice that holds no copy carries SEQ 0, for
it had no grant (DESIGN CHOICE, assumption log 51); an answer of a log home carries the sequence of the record (DEDUCED, assumption
log 28). -/
def State.sliceHeader (s : State) (m : Msg) : W64 :=
  let (seq, px) := match m.body with
    | .ans _ _ q p _ _ => (q.toNat, p)
    | .logAns _ _ q | .ok q => (q, false)
    | .tlogAns _ _ w => (w.toNat / 2 ^ 32, false)
    | .ack ln p => (((SMap.get? s.proxies (p.sl * 2 ^ 33 + ln)).map fun (p : ProxyLine) => p.seq.toNat).getD 0, true)
    | b => match b.rec?, b.line? with
      | some r, _ => ((s.logRec r).lseq, false)
      | none, some ln => ((s.seqNow ln).toNat, false)
      | none, none => (0, false)
  BitVec.ofNat 64 (seq % 2 ^ 32 * 2 ^ 32 + m.body.ansKind * 2 ^ 28 + px.toNat * 2 ^ 27 + m.ticket)

/-- FREE of a FIFO bank (R111, R112). -/
def State.bankFree (s : State) (c b : Nat) : Nat := 127 - ((s.core c).fifo b).count

/-- The header of the answer to a push (R112). -/
def pushHeader (free kind ticket : Nat) : W64 := BitVec.ofNat 64 (free * 2 ^ 32 + kind * 2 ^ 28 + ticket)

/-- The header of a data message of a copy, a loader or a storer (R92, R96). -/
def dataHeader (sseq midx cid kind lidx off : Nat) : W64 :=
  BitVec.ofNat 64 (sseq % 2 ^ 12 * 2 ^ 52 + midx % 2 ^ 10 * 2 ^ 42 + cid % 64 * 2 ^ 35 + kind * 2 ^ 32 + lidx % 2 ^ 13 * 2 ^ 19 + off % 2 ^ 19)

/-- KIND and line index of a copy that has a message to send. -/
def State.copyKind (s : State) : Who → Nat × Nat × Nat
  | .copy c id => match ((s.core c).copyId id).copy with
    | some k => (id, k.kind, k.elem)
    | none => (id, 0, 0)
  | _ => (0, 0, 0)

/-- FSEQ of an entry (R117). -/
def Tile.seqNo (e : Tile) : Nat := (e.w3 >>> 8).toNat % 4096

/-- The operation header of a message. A fill and a drain, which have no copy id, carry the entry's number as CID, and a copy
whose destination is not local carries 0 as OFF (DEDUCED, assumption log 27). -/
def State.header (s : State) (m : Msg) : W64 :=
  match m.body with
  | .copyWr who _ off _ _ => let k := s.copyKind who; dataHeader 0 0 k.1 k.2.1 0 off
  | .redc who _ _ midx off _ _ => let k := s.copyKind who; dataHeader 0 midx k.1 6 k.2.2 off
  | .fillData _ _ _ _ _ => m.hdr
  | .mem r => match r.op, r.who with
    | .write, .tile _ t sseq lidx => dataHeader sseq 0 t 4 lidx 0
    | .write, .copy _ id => dataHeader 0 0 id 1 0 0
    | _, _ => 0
  | .qack _ kind free _ => pushHeader free kind 0
  | .retry (.qpush _ c b _ _) => pushHeader (s.bankFree c b) 3 m.ticket
  | .okCancel (.qpush _ c b _ _) => pushHeader (s.bankFree c b) 7 0
  | _ => if (m.cls = 1 || m.cls = 2) && decide (12288 ≤ m.src) && decide (m.src < 13056) then s.sliceHeader m else 0

/-- Whether an answer's header has a reserved KIND or a reserved field that is not zero (R74, R112). -/
def Msg.badHeader (m : Msg) : Bool :=
  let k := (m.hdr >>> 28).toNat % 16
  match m.body with
  | .qack _ _ _ _ | .retry (.qpush _ _ _ _ _) | .okCancel (.qpush _ _ _ _ _) =>
    k == 1 || k == 2 || decide (8 ≤ k) || (m.hdr >>> 16).toNat % 2 ^ 12 != 0
  | _ =>
    (m.cls == 1 || m.cls == 2) && decide (12288 ≤ m.src) && decide (m.src < 13056) &&
      (k == 6 || decide (8 ≤ k) || (m.hdr >>> 16).toNat % 2 ^ 11 != 0)

/-- Sends a message under a fresh uid, with its header; with tag 256 it waits for a tag (R53). -/
def State.sendMsg (s : State) (m : Msg) : State :=
  let m := { m with uid := s.uid, hdr := s.header m }
  let s := { s with uid := s.uid + 1, transit := s.transit ++ [m] }
  if m.tag = 256 then s else s.inject m

def State.sendVia (s : State) (src via dest cls nf tag ticket : Nat) (body : Body) : State :=
  s.sendMsg { uid := 0, src, via, dest, cls, tag, nf, ticket, cancel := false, poison := false, body }

def State.sendTag (s : State) (src dest cls nf tag ticket : Nat) (body : Body) : State :=
  s.sendVia src src dest cls nf tag ticket body

/-- Sends a request (class 0) or a log message (class 3) with a tag of its sender's, or has it wait for one (R53). -/
def State.requestMsg (s : State) (m : Msg) : State :=
  let t := s.freeTag m.src
  let s := if t = 256 then s else { s with tags := SMap.set s.tags m.src (t :: SMap.getD s.tags m.src []) }
  s.sendMsg { m with tag := t }

def State.request (s : State) (src dest cls nf ticket : Nat) (body : Body) : State :=
  s.requestMsg { uid := 0, src, via := src, dest, cls, tag := 0, nf, ticket, cancel := false, poison := false, body }

/-- Sends an answer with the tag of the message it answers (R53). -/
def State.answer (s : State) (src dest cls nf tag : Nat) (body : Body) : State := s.sendTag src dest cls nf tag 0 body

/-- A tag becomes free; a message of the sender that waited for one takes it and is injected (R53). -/
def State.releaseTag (s : State) (ep tag : Nat) : State :=
  let used := (SMap.getD s.tags ep []).erase tag
  match s.transit.find? fun m => m.src == ep && m.tag == 256 with
  | none => { s with tags := SMap.set s.tags ep used }
  | some m =>
    let m' := { m with tag }
    let s := { s with
      tags := SMap.set s.tags ep (tag :: used)
      transit := s.transit.map fun (x : Msg) => if x.uid = m.uid then m' else x }
    s.inject m'

/-- Takes a message out of the inbox. -/
def State.consume (s : State) (uid : Nat) : State := { s with inbox := s.inbox.filter fun m => m.uid != uid }

/-- A delivered message. -/
def State.msg? (s : State) (uid : Nat) : Option Msg := s.inbox.find? fun m => m.uid == uid

/-! ## Classes and sizes of messages (R63) -/

/-- Flits that hold `n` bytes of content, 51 to a flit (R51). -/
def dataFlits (n : Nat) : Nat := (n + 50) / 51

/-- Flits of an update of n entries, each a value, an element and an op in 8 bytes behind the 8 bytes of header, and of a CLOSE or the
answer to a PULL with n entries of 16 bytes (R51, R129; DESIGN CHOICE, assumption log 50: no rule lays these messages out). -/
def updFlits (n : Nat) : Nat := dataFlits (8 + 8 * n)
def entryFlits (n : Nat) : Nat := dataFlits (8 + 16 * n)

/-- Entries of 16 bytes that a message of nine flits holds (R51). -/
def entriesPerMsg : Nat := 28

/-- The class of a request or log message. The table of R63 does not name these: invalidations, recalls, PULL, and what strands ask of
the base die and of log homes, which are class 0; LOGMARK, LOGCLEAR, UNPULL, OPEN and CLOSE, which only an acknowledgement answers and
which are class 3 (DESIGN CHOICE, assumption log 50). -/
def Body.cls : Body → Nat
  | .mem r => match r.op with | .entry _ _ => 3 | _ => 0
  | .logUpd _ _ _ | .logMark _ _ | .logClear _ _ | .unpull _ _ | .open_ _ _ _ | .close _ _ _ _ _ | .fwd _ _ _ _ => 3
  | _ => 0

/-- The flits of a request or log message. -/
def Body.flits : Body → Nat
  | .mem r => match r.op with | .write | .flush _ _ | .unlock _ _ => 3 | _ => 1
  | .win _ _ _ store _ => if store then 3 else 1
  | .copyWr _ _ _ _ _ | .redc _ _ _ _ _ _ _ | .fillData _ _ _ _ _ | .hbmWr _ _ _ _ => 3
  | .qpush _ _ _ _ _ | .faultMsg _ _ | .spawn _ _ _ | .logt _ _ _ => 2
  | .logUpd _ _ es => updFlits es.length
  | .close _ _ _ _ es => entryFlits es.length
  | _ => 1

/-- Sends a request or log message of a body's class and size. -/
def State.ask (s : State) (src dest : Nat) (b : Body) : State := s.request src dest b.cls b.flits 0 b

/-! ## Poisoned messages (R50) -/

/-- The negative acknowledgement of reason POISON for a request or log message. -/
def State.poisonAnswer (s : State) : Body → Body
  | .mem r => match r.op with
    | .entry _ _ | .evict | .flush _ _ | .unlock _ _ => .nack (.mem r)
    | .lock rec => .lockAns rec r.line none
    | _ => .ans r.who 4 (s.seqNow r.line) false none r
  | .win who _ _ _ _ => .winAns who 4 0
  | .qpush who c b _ _ => .qack who 4 (s.bankFree c b) 0
  | .copyWr who _ _ _ _ | .redc who _ _ _ _ _ _ => .copyAck who none 12 0
  | .logUpd who r _ => .logAns who 4 (s.logRec r).lseq
  | .fillData c t lidx _ _ => .fillAck c t ((s.core c).tile t).seqNo lidx true
  | b => .nack b

/-- The answer that a NACK of reason POISON stands for, where its requester completes the access as one that received poison; none where
the requester sends the message again (R50; DEDUCED, assumption log 50). -/
def State.nackAnswer (s : State) : Body → Option Body
  | .hbmRd ln => some (.hbmData ln 0 (s.lineMeta ln).seq true)
  | .hbmWr ln _ _ _ => some (.hbmWrote ln)
  | .pull ln r => some (.pullAns ln r [] false true)
  | .open_ r c t => some (.openAns r c t)
  | .scReq k => some (.scGrant k)
  | .tlog c i _ _ => some (.tlogAns c i 0)
  | .logt c i _ | .logtRet c i _ => some (.logtAns c i none)
  | .spawn c i _ => some (.spawnAck c i)
  | .take c i => some (.takeAns c i none)
  | _ => none

/-- A poisoned response, acknowledgement or negative acknowledgement, as its requester meets it; the message keeps its mark. -/
def State.poisonBody (s : State) : Body → Body
  | .ans who _ seq px _ req => .ans who 4 seq px none req
  | .winAns who _ d => .winAns who 4 d
  | .qack who _ f a => .qack who 4 f a
  | .copyAck who g _ a => .copyAck who g 12 a
  | .logAns who _ q => .logAns who 4 q
  | .ack ln p => .ack ln { p with poison := true }
  | .lockAns r ln _ => .lockAns r ln none
  | .pullAns ln r es more _ => .pullAns ln r es more true
  | .fillAck c t q l _ => .fillAck c t q l true
  | .hbmData ln d q _ => .hbmData ln d q true
  | .retry b => s.poisonAnswer b
  | b => b

/-- Bodies whose receipt is all there is to them: answers that leave the device, and bare acknowledgements. -/
def Body.silent : Body → Bool
  | .ok _ => true
  | .okCancel _ => true
  | .faultAck 0 => true
  | .ans (.host _) _ _ _ _ _ => true
  | .ans .device _ _ _ _ _ => true
  | _ => false

/-! ## Reassembly (R62) -/

/-- Buffers kept for a class. -/
def keptBufs (cls : Nat) : Nat := if cls = 1 then 8 else if cls = 2 then 4 else if cls = 3 then 4 else 0

/-- Free buffers of a class's kept pool, and free shared ones. -/
def Reasm.room (r : Reasm) (cls : Nat) : Nat := keptBufs cls - (r.bufs.filter fun b => b.cls == cls && !b.shared).length
def Reasm.sharedRoom (r : Reasm) : Nat := 48 - (r.bufs.filter (·.shared)).length

/-- Whether a message may take a buffer: one it may use is free that is not kept for a refused message. -/
def Reasm.mayHold (r : Reasm) (uid cls : Nat) : Bool :=
  match r.reserved with
  | none => decide (0 < r.room cls) || decide (0 < r.sharedRoom)
  | some (u, k) =>
    if u = uid then decide (0 < r.room cls) || decide (0 < r.sharedRoom)
    else if 0 < r.room k then decide ((if cls = k then 1 else 0) < r.room cls) || decide (0 < r.sharedRoom)
    else decide (0 < r.room cls) || decide (1 < r.sharedRoom)

/-- A message takes a buffer, of its class's kept pool before a shared one; a refused message needs its reservation no longer. -/
def Reasm.hold (r : Reasm) (uid cls : Nat) : Reasm :=
  if r.bufs.any fun b => b.uid == uid then r
  else { r with
    bufs := r.bufs ++ [{ uid, cls, shared := decide (r.room cls = 0), got := [] }]
    reserved := if (r.reserved.map (·.1)) = some uid then none else r.reserved
    refused := if (r.refused.map (·.2.2)) = some uid then none else r.refused }

/-- A flit enters its message's buffer; the message completes with its last flit. -/
def Reasm.receive (r : Reasm) (f : Flit) : Reasm :=
  let bufs := r.bufs.map fun b => if b.uid = f.uid then { b with got := f.fidx :: b.got } else b
  { r with bufs, done := if bufs.any fun b => b.uid == f.uid && b.got.length == f.nf then r.done ++ [f.uid] else r.done }

/-- The ejection FIFO empties into the buffers (R70). -/
def Reasm.drain (r : Reasm) : Reasm := r.fifo.foldl Reasm.receive { r with fifo := [] }

/-- Every trace of a message leaves an endpoint's interface. -/
def Reasm.drop (r : Reasm) (uid : Nat) : Reasm :=
  { r with
    bufs := r.bufs.filter fun b => b.uid != uid
    done := r.done.filter fun u => u != uid
    fifo := r.fifo.filter fun f => f.uid != uid
    reserved := if (r.reserved.map (·.1)) = some uid then none else r.reserved
    refused := if (r.refused.map (·.2.2)) = some uid then none else r.refused }

/-- Whether an endpoint keeps a flit: NF and FIDX are ones a message has and DEST is no reserved endpoint (R51). -/
def Flit.wellFormed (f : Flit) : Bool :=
  decide (1 ≤ f.nf) && decide (f.nf ≤ 9) && decide (f.fidx < f.nf) && decide (f.dest < 13093)

/-- Whether an endpoint takes an offered flit off the network: one to be discarded, or one whose message holds a buffer or may
take one, while a core's ejection FIFO has two free entries (R51, R62, R70). -/
def accepts (r : Reasm) (f : Flit) : Bool :=
  !f.wellFormed ||
    ((r.bufs.any (fun b => b.uid == f.uid) || r.mayHold f.uid f.cls) && (decide (12288 ≤ f.dest) || decide (r.fifo.length ≤ 14)))

def State.reasmOf (s : State) (ep : Nat) : Reasm := SMap.getD s.reasm ep .reset
def State.modReasm (s : State) (ep : Nat) (f : Reasm → Reasm) : State :=
  { s with reasm := SMap.set s.reasm ep (f (s.reasmOf ep)) }

/-- A message is discarded with every flit of it that has come, and the event is reported (R51). Later flits of it are discarded
as they come. -/
def State.discard (s : State) (ep uid : Nat) : State :=
  ({ s with transit := s.transit.filter fun m => m.uid != uid }.modReasm ep (·.drop uid)).report 1 uid

/-- The endpoint takes a flit: into a core's ejection FIFO, or into its buffer. -/
def State.eject (s : State) (f : Flit) : State :=
  if !s.transit.any fun m => m.uid == f.uid then s
  else if !f.wellFormed then s.discard f.dest f.uid
  else
    let s := s.modReasm f.dest fun r =>
      let r := r.hold f.uid f.cls
      if f.dest < 12288 then { r with fifo := r.fifo ++ [f] } else r.receive f
    if f.poison then
      { s with transit := s.transit.map fun m => if m.uid = f.uid then { m with poison := true } else m }
    else s

/-- An endpoint refuses a flit: of requests and log messages it remembers the most senior one and keeps the next buffer to
become free for it. -/
def State.refuseFlit (s : State) (f : Flit) : State :=
  if f.cls = 1 || f.cls = 2 then s
  else
    let r := s.reasmOf f.dest
    let first := match r.refused with
      | none => true
      | some (a, _, _) => decide (1 ≤ (a - f.age).toNat) && decide ((a - f.age).toNat < 32768)
    if first then
      let src := ((s.transit.find? fun m => m.uid == f.uid).map (·.src)).getD 0
      { s with reasm := SMap.set s.reasm f.dest { r with refused := some (f.age, src, f.uid), reserved := some (f.uid, f.cls) } }
    else s

/-! ## One cycle of a router (R58, R67) -/

/-- f is senior to g (R57). -/
def senior (f g : Nat × Flit) : Bool :=
  let d := (g.2.age - f.2.age).toNat
  if d = 0 then
    if f.2.dest = g.2.dest then decide (f.1 ≤ g.1) else decide (f.2.dest < g.2.dest)
  else decide (d < 32768)

def insertSenior (f : Nat × Flit) : List (Nat × Flit) → List (Nat × Flit)
  | [] => [f]
  | g :: l => if senior f g then f :: g :: l else g :: insertSenior f l

/-- Arrivals in order of seniority. -/
def bySeniority (l : List (Nat × Flit)) : List (Nat × Flit) := l.foldr insertSenior []

/-- Whether a link crosses a region border (R67). -/
def crosses (c p : Nat) : Bool := p < 6 && regionOf c != regionOf (neighbour c p)

/-- The flits in the border FIFO that a port writes. -/
def State.outFifo (s : State) (c p : Nat) : List Flit :=
  SMap.getD (s.router (neighbour c p)).border (opposite p) []

/-- The input slot at which a port's lane arrives: +X, −X, +Y, −Y, +Z 0, +Z 1, −Z 0, −Z 1, BASE 0, BASE 1 (R58). -/
def inSlot (p lane : Nat) : Nat := if p < 4 then p else if p = 7 then 8 + lane else 4 + 2 * (p - 4) + lane

/-- The dimension order of a class (R56): the three dimensions, 0 x, 1 y, 2 z. -/
def dimOrder (code : Nat) : List Nat :=
  match code with
  | 1 => [0, 2, 1]
  | 2 => [1, 0, 2]
  | 3 => [1, 2, 0]
  | 4 => [2, 0, 1]
  | 5 => [2, 1, 0]
  | _ => [0, 1, 2]

/-- Ports in NETORD order for a class, the positive port of a dimension first (R55, R56). -/
def State.prefPorts (s : State) (cls : Nat) : List Nat :=
  let code := bits s.netord (3 * cls) 3
  (dimOrder code).foldr (fun d l => 2 * d :: (2 * d + 1) :: l) []

/-- Output slots taken so far in a router's cycle, by port. -/
abbrev Used := List Nat

def usedOn (u : Used) (p : Nat) : Nat := (u.filter (· == p)).length

/-- Whether a slot of a port is free for a flit: a lane is left and, at a border, its FIFO can accept it (R67). -/
def State.slotFree (s : State) (c p : Nat) (u : Used) (f : Flit) : Bool :=
  s.portState c p == 0 && decide (usedOn u p < lanes p) &&
    (if crosses c p then
      let q := s.outFifo c p
      decide (q.length < 7) || (decide (q.length < 8) && q.all fun g => senior (0, f) (1, g) && f.age != g.age)
    else true)

/-- Sends a flit out by a port: to the arrivals of the neighbour's cycle after this one (R48), to the border FIFO, or out of
the cube. -/
def State.sendOut (s : State) (c p : Nat) (u : Used) (f : Flit) : State :=
  if p = 7 then s.modRouter c fun r => { r with back := r.back ++ [f] }
  else
    let n := neighbour c p
    let at_ := (s.router c).cycle
    s.modRouter n fun r =>
      let a := (inSlot (opposite p) (usedOn u p), f)
      if crosses c p then
        { r with border := SMap.set r.border (opposite p) (SMap.getD r.border (opposite p) [] ++ [f]) }
      else if r.cycle ≤ at_ then { r with later := r.later ++ [a] }
      else { r with arr := r.arr ++ [a] }

/-- The productive ports of a flit at a router, in order of preference (R55, R58). -/
def State.productive (s : State) (c : Nat) (f : Flit) : List Nat :=
  let d := s.dist c f.dest
  (s.prefPorts f.cls).filter fun p => s.portState c p == 0 && decide (s.dist (neighbour c p) f.dest < d)

/-- Places one arrival (R58): ejection or BASE, a productive slot, or deflection. A flit that finds no slot stays. -/
def State.place (s : State) (c : Nat) (st : State × Used × Nat × List (Nat × Flit) × Nat) (a : Nat × Flit) :
    State × Used × Nat × List (Nat × Flit) × Nat :=
  let (t, u, ej, keep, defl) := st
  let f := a.2
  let here := (s.targets f.dest).contains c
  let r := t.reasmOf f.dest
  if here && !isBaseEp f.dest && decide (ej < 2) && accepts r f then (t.eject f, u, ej + 1, keep, defl)
  else if here && isBaseEp f.dest && decide (usedOn u 7 < 2) && accepts r f then (t.eject f, 7 :: u, ej, keep, defl)
  else
    let t := if here && !accepts r f then t.refuseFlit f else t
    match (s.productive c f).find? fun p => t.slotFree c p u f with
    | some p => (t.sendOut c p u f, p :: u, ej, keep, defl)
    | none =>
      match [0, 1, 2, 3, 4, 5, 7].find? fun p => t.slotFree c p u f with
      | some p => (t.sendOut c p u f, p :: u, ej, keep, defl + 1)
      | none => (t, u, ej, keep ++ [a], defl)

/-- The usable output slots of a router in a cycle (R67). -/
def State.usable (s : State) (c : Nat) : Nat :=
  [0, 1, 2, 3, 4, 5, 7].foldl (fun n p =>
    if s.portState c p != 0 then n
    else if crosses c p then n + min (lanes p) (7 - (s.outFifo c p).length)
    else n + lanes p) 0

/-- Takes ready heads out of the inbound border FIFOs, most senior first, up to the slots left (R67). A flit is ready in the
receiver's first cycle after it was written (DESIGN CHOICE, assumption log 49: the rule only bounds it by the 8th). -/
def State.takeBorder (s : State) (c : Nat) : Nat → List (Nat × Flit) → State × List (Nat × Flit)
  | 0, taken => (s, taken)
  | k + 1, taken =>
    let r := s.router c
    let heads := r.border.filterMap fun e =>
      match e.2 with
      | [] => none
      | f :: _ =>
        if (taken.filter fun t => t.1 / 16 == e.1).length < lanes e.1
        then some (e.1 * 16 + inSlot e.1 (taken.filter fun t => t.1 / 16 == e.1).length, f) else none
    match bySeniority heads with
    | [] => (s, taken)
    | h :: _ =>
      let p := h.1 / 16
      let s := s.modRouter c fun r => { r with border := SMap.set r.border p ((SMap.getD r.border p []).drop 1) }
      State.takeBorder s c k (taken ++ [h])

/-- What a link slot's SECDED check does to a flit, and the count it raises (R49): none where the flit is dropped. -/
def linkCheck (f : Flit) : LinkErr → Option Flit × Nat × Nat × Nat
  | .none => (some f, 0, 0, 0)
  | .single => (some f, 1, 0, 0)
  | .double => (some { f with poison := true }, 0, 1, 0)
  | .doubleCtl => (none, 0, 0, 1)

/-- A saturating count. -/
def satAdd (n k cap : Nat) : Nat := min (n + k) cap

/-- Applies the link errors of this cycle to the arrivals, in order (R49). -/
def State.checkLinks (s : State) (c : Nat) : List (Nat × Flit) → List LinkErr → State × List (Nat × Flit)
  | [], _ => (s, [])
  | a :: l, es =>
    let (f?, x, y, z) := linkCheck a.2 (es.headD .none)
    let s := s.modRegion (regionOf c) fun r =>
      { r with lcorr := satAdd r.lcorr x 65535, lpois := satAdd r.lpois y 255, ldrop := satAdd r.ldrop z 255 }
    let s := if z = 0 then s else s.report 1 a.2.uid
    let (s, rest) := State.checkLinks s c l es.tail
    match f? with
    | some f => (s, (a.1, f) :: rest)
    | none => (s, rest)

/-- Whether a router's next cycle is due: no neighbour whose link crosses no region border is a cycle behind (R48). -/
def State.cycleDue (s : State) (c : Nat) : Bool :=
  [0, 1, 2, 3, 4, 5].all fun p =>
    crosses c p || s.portState c p != 0 || decide ((s.router c).cycle ≤ (s.router (neighbour c p)).cycle)

/-- The flits that arrive on the BASE port in a cycle: at most two, those that come back first (R15, R57). -/
def Router.fromBase (r : Router) (now : BitVec 16) : List (Nat × Flit) :=
  let l : List Flit := r.back ++ r.up.map fun (f : Flit) => { f with age := now }
  (l.take 2).zipIdx.map fun e => (inSlot 7 e.2, e.1)

/-- The router sends its injection candidate on a free productive slot, or by the BASE port where the candidate's target set
contains this router (R52, R58), or the candidate waits (R60). A starving router stays exempt from the silence of its region until
its candidate leaves, also while another router of the region starves (DESIGN CHOICE, assumption log 49). -/
def State.sendCandidate (s : State) (c : Nat) (u : Used) : State :=
  let r := s.router c
  match r.inj with
  | [] => s.modRouter c fun r => { r with waited := 0, hold := r.hold - 1 }
  | f :: rest =>
    let f := { f with age := (s.timecode >>> 16).setWidth 16 }
    let ok := decide (r.hold = 0) || r.starving
    let left := fun (s : State) => s.modRouter c fun r =>
      Router.feed 16 { r with inj := rest, waited := 0, starving := false, hold := r.hold - 1 }
    if ok && isBaseEp f.dest && (s.targets f.dest).contains c then
      if decide (usedOn u 7 < 2) && accepts (s.reasmOf f.dest) f then left (s.eject f)
      else
        (if accepts (s.reasmOf f.dest) f then s else s.refuseFlit f).modRouter c fun r =>
          { r with waited := r.waited + 1, hold := r.hold - 1 }
    else
      match if ok then (s.productive c f).find? fun p => s.slotFree c p u f else none with
      | some p => left (s.sendOut c p u f)
      | none => s.modRouter c fun r => { r with waited := r.waited + 1, hold := r.hold - 1 }

/-- One cycle of router `c` (R58, R60, R67). The flits routed that R68 counts are its arrivals, those it ejects included, and not
the injection candidate (DESIGN CHOICE, assumption log 49). -/
def State.routerCycle (s : State) (c : Nat) (errs : List LinkErr) : State :=
  let r := s.router c
  let base := r.fromBase ((s.timecode >>> 16).setWidth 16)
  let fixed := r.arr ++ base
  let s := s.modRouter c fun r => { r with arr := [], back := r.back.drop 2, up := r.up.drop (2 - r.back.length) }
  let depth := r.border.foldl (fun m e => max m e.2.length) 0
  let (s, taken) := s.takeBorder c (s.usable c - fixed.length) []
  let (s, arr) := s.checkLinks c (fixed ++ taken.map fun t => (t.1 % 16, t.2)) errs
  let all := bySeniority arr
  let (s, u, _, keep, defl) := all.foldl (s.place c) (s, [], 0, [], 0)
  let s := s.modRegion (regionOf c) fun g =>
    { g with routed := g.routed + all.length, defl := g.defl + defl, qmax := max g.qmax (min r.inj.length 16),
             fmax := max g.fmax depth }
  let s := s.sendCandidate c u
  s.modRouter c fun r => { r with cycle := r.cycle + 1, arr := keep ++ r.later, later := [] }

/-- The routers of a region. -/
def regionCores (r : Nat) : List Nat :=
  (List.range 128).map fun i =>
    coreNum (8 * (r % 4) + i % 8) (8 * (r / 4 % 3) + i / 8 % 8) (2 * (r / 12) + i / 64)

/-- Starvation of a router's injection candidate (R60). -/
def State.starve (s : State) (c : Nat) : State :=
  if (s.router c).waited < 256 then s
  else
    let s := (regionCores (regionOf c)).foldl (fun s n => if n = c then s else s.modRouter n fun r => { r with hold := 16 }) s
    s.modRouter c fun r => { r with starving := true, waited := 0 }

/-! ## Delivery (R62) -/

/-- A message that uses no link takes a buffer of its endpoint with all its flits at once, where one is free for it (R62, R428);
a core's ejection FIFO empties. -/
def State.collect (s : State) (m : Msg) : State :=
  let s := s.modReasm m.dest Reasm.drain
  if m.tag != 256 && direct m.via m.dest && !((s.reasmOf m.dest).bufs.any fun b => b.uid == m.uid) &&
      (s.reasmOf m.dest).mayHold m.uid m.cls then
    m.flits.foldl (fun s f => if f.wellFormed then s.modReasm m.dest (·.receive f) else s) (s.modReasm m.dest (·.hold m.uid m.cls))
  else s

/-- What a delivered message is to its endpoint: a poisoned request is answered at once and not performed, an answer with a
reserved KIND or field is discarded (R50, R74). A NACK of reason POISON is its access's poisoned answer, or has its sender send the
message again (DEDUCED, assumption log 50). -/
def State.arrive (s : State) (m : Msg) : State :=
  let s := if m.cls = 1 || m.cls = 2 then s.releaseTag m.dest m.tag else s
  if m.badHeader then s.report 1 m.uid
  else if m.poison && (m.cls = 0 || m.cls = 3) then s.answer m.dest m.src 2 1 m.tag (s.poisonAnswer m.body)
  else
    let m := if m.poison then { m with body := s.poisonBody m.body } else m
    match m.body with
    | .nack b =>
      match s.nackAnswer b with
      | some a => { s with inbox := s.inbox ++ [{ m with body := a, poison := true }] }
      | none =>
        let m' : Msg := { m with src := m.dest, via := m.dest, dest := m.src, cls := b.cls, nf := b.flits, ticket := 0, cancel := false
                                 poison := false, body := b, sb := m.kept, kept := [] }
        { s with held := s.held ++ [{ msg := m', cancel := false }] }
    | b => if b.silent then s else { s with inbox := s.inbox ++ [m] }

/-- The message that completed first at its endpoint is delivered (R62). -/
def State.deliver (s : State) (uid : Nat) : State :=
  match s.transit.find? fun m => m.uid == uid with
  | none => s
  | some m =>
    if m.nf = 0 || 9 < m.nf || 13093 ≤ m.dest then s.discard m.dest uid
    else
      let s := s.collect m
      if (s.reasmOf m.dest).done.head? != some uid then s
      else
        ({ s with transit := s.transit.filter fun x => x.uid != uid }.modReasm m.dest (·.drop uid)).arrive m

end Sys2Proof.Machine
end

