-- ==== Sys2Proof/Machine/Home.lean ====
section
/-!
DEFINITION. A line at its home: its parts and its copies (R71, R73, R80, R82), the geometry of logged tensors (R126, R128), the
operations that a home performs (R80, R84), and errors of the arrays (R72, R87).
-/

namespace Sys2Proof.Machine

/-! ## Update-only copies (R82) -/

/-- Element `e` of width `w` bits of a line. -/
def lineElem (w : Nat) (d : W1024) (e : Nat) : Nat := lineNum d (e * w / 8) (w / 8)

/-- Folds the touched partials of one copy into the home value (R82). -/
def foldCopy (u : AmoOp × ETy) (h : W1024) (touched : BitVec 32) (part : W1024) : W1024 :=
  let w := etyWidth u.2
  (List.range (1024 / w)).foldl (fun h e =>
    if touched.getLsbD e then
      let v := BitVec.ofNat 64 (lineElem w part e)
      putNum h (e * w / 8) (w / 8) (amoNew { op := u.1, ty := u.2, v, c := 0 } (lineElem w h e))
    else h) h

/-- A RED into a copy: the first operand of an element is stored, a later one combined (R82). -/
def combineCopy (u : AmoOp × ETy) (p : ProxyLine) (off : Nat) (v : W64) : ProxyLine :=
  let w := etyWidth u.2
  let e := off / (w / 8)
  let old := lineElem w p.data e
  let new := if p.touched.getLsbD e then amoNew { op := u.1, ty := u.2, v, c := 0 } old else v.toNat % 2 ^ w
  { p with data := putNum p.data (e * w / 8) (w / 8) new, touched := p.touched ||| ((1 : BitVec 32) <<< e) }

def pkey (sl ln : Nat) : Nat := sl * 2 ^ 33 + ln

/-- The copies of a line, by slice in ascending number. -/
def State.copiesOf (s : State) (ln : Nat) : List (Nat × ProxyLine) :=
  s.proxies.filterMap fun e => if e.1 % 2 ^ 33 = ln then some (e.1 / 2 ^ 33, e.2) else none

/-! ## Lines at their homes -/

/-- A line that is not at its home and has nothing waiting. -/
def HomeLine.reset : HomeLine :=
  { st := none, data := 0, v := 0, up := none, poison := false, seq := 0, logPend := none, asid := none, busy := .no,
    ops := [], stamp := 0 }

def State.homeLine (s : State) (ln : Nat) : HomeLine := SMap.getD s.home ln .reset
def State.setHome (s : State) (ln : Nat) (h : HomeLine) : State := { s with home := SMap.set s.home ln h }

/-- An HBM line's metadata as its home writes them back. -/
def State.saveMeta (s : State) (ln : Nat) (h : HomeLine) : State :=
  s.setLineMeta ln { seq := h.seq, poison := h.poison, logPend := h.logPend }

/-! ## Logged tensors' geometry (R126, R128) -/

def Tensor.word (t : Tensor) (i : Nat) : W64 := t.desc[i]?.getD 0
def Tensor.ntc (t : Tensor) : Nat := bits (t.word 2) 48 16
def Tensor.ntr (t : Tensor) : Nat := bits (t.word 2) 32 16
def Tensor.tc (t : Tensor) : Nat := bits (t.word 2) 16 16
def Tensor.tr (t : Tensor) : Nat := bits (t.word 2) 0 16
def Tensor.fmt (t : Tensor) : ETy := (ETy.ofCode ((t.word 3).extractLsb' 44 4)).getD .i32
def Tensor.hpitch (t : Tensor) : Nat := bits (t.word 3) 0 44
def Tensor.cap (t : Tensor) : Nat := bits (t.word 4) 0 32
def Tensor.base (t : Tensor) : Nat := bits (t.word 0) 0 56

/-- Byte offset of element (r, c) of tile n from BASE (R126). -/
def Tensor.elemOff (t : Tensor) (n r c : Nat) : Nat :=
  (n / t.ntc * t.tr + r) * t.hpitch + (n % t.ntc * t.tc + c) * 4

def Tensor.reset : Tensor :=
  { desc := Vector.replicate 8 0, pbase := 0, asid := 0, svc := 0, priv := false, core := 0, st := .free, failed := false }
def State.tensor (s : State) (id : Nat) : Tensor := SMap.getD s.tensors id .reset
def State.setTensor (s : State) (id : Nat) (t : Tensor) : State := { s with tensors := SMap.set s.tensors id t }

/-- Tile-log records are numbered tensor × 2^24 + tile. -/
def recTensor (r : Nat) : Nat := r / 2 ^ 24
def recTile (r : Nat) : Nat := r % 2 ^ 24

/-- Physical line of element `e` of a record's tile. -/
def State.recLine (s : State) (r e : Nat) : Nat :=
  let t := s.tensor (recTensor r)
  (t.pbase + t.elemOff (recTile r) (e / t.tc) (e % t.tc)) / 128

/-- Byte of the line at which element `e` lies. -/
def State.recOff (s : State) (r e : Nat) : Nat :=
  let t := s.tensor (recTensor r)
  (t.pbase + t.elemOff (recTile r) (e / t.tc) (e % t.tc)) % 128

/-- Every physical line of a record's tile, in element order. -/
def State.recLines (s : State) (r : Nat) : List Nat :=
  let t := s.tensor (recTensor r)
  (List.range t.tr).flatMap fun row => (List.range (t.tc / 32)).map fun k => s.recLine r (row * t.tc + 32 * k)

/-- The log home of a tile (R128). -/
def State.logHome (s : State) (r : Nat) : Nat := s.homeOf (s.recLine r 0)

/-- Sends LOGCLEAR to every marked line and frees the record; CLOSE messages that it still holds are answered. Its tickets and LSEQ
stay. -/
def State.freeRec (s : State) (r : Nat) : State :=
  let ls := s.recLines r
  let me := epSlice (s.logHome r)
  let x := s.logRec r
  let s := x.closing.foldl (fun s m => s.answer m.dest m.src 2 1 m.tag (.ok x.lseq)) s
  let s := s.modLogRec r fun x =>
    { x with st := .idle, entries := [], spill := 0, hold := [], applied := [], closing := [], ending := false, wrote := false
             clears := x.clears + ls.length }
  ls.foldl (fun s ln => s.ask me (epSlice (s.homeOf ln)) (.logClear ln r)) s

/-! ## Operations performed at a home (R80) -/

/-- M, or L where the line is in L. -/
def written (st : Option LineSt) : Option LineSt := if st = some LineSt.L then some LineSt.L else some LineSt.M

/-- The element of an atomic or a logged update in its line. -/
def elemUpdate (w : Nat) (d : W1024) (off : Nat) (f : Nat → Nat) : W1024 :=
  putNum d off (w / 8) (f (lineNum d off (w / 8)))

/-- Performs one operation on a line that has no copies in its way: the line after it, KIND and the data returned. -/
def State.performOp (s : State) (r : MemReq) (h : HomeLine) : HomeLine × Nat × Option W1024 :=
  match r.op with
  | .write =>
    let full := r.mask == BitVec.allOnes 128
    ({ h with data := merge h.data r.data r.mask, seq := h.seq + 1, asid := r.asid
              st := if h.poison && full then some LineSt.M else written h.st, poison := h.poison && !full }, 0, none)
  | .red a =>
    ({ h with data := elemUpdate (etyWidth a.ty) h.data r.off (amoNew a), seq := h.seq + 1, st := written h.st,
              asid := r.asid }, 0, none)
  | .amo a =>
    ({ h with data := elemUpdate (etyWidth a.ty) h.data r.off (amoNew a), seq := h.seq + 1, st := written h.st,
              asid := r.asid }, 0, some h.data)
  | .entry rec e =>
    ({ h with data := elemUpdate 32 h.data r.off (fun old => logApply (s.tensor (recTensor rec)).fmt e.op old e.val.toNat),
              seq := h.seq + 1, st := written h.st, asid := some (s.tensor (recTensor rec)).asid }, 0, none)
  | _ => (h, 0, some h.data)

/-- Folds what a slice gives up of a U copy into a line (R72, R82, R367). -/
def HomeLine.fold (h : HomeLine) (u : AmoOp × ETy) (p : UPart) : HomeLine :=
  if p.touched = 0 then { h with poison := h.poison || p.poison }
  else { h with data := foldCopy u h.data p.touched p.part, seq := h.seq + 1, st := written h.st, poison := h.poison || p.poison
                asid := p.asid }

/-! ## Errors of the arrays (R72, R87) -/

/-- A line that enters P = 1 is counted at its slice (R87). -/
def State.countPoison (s : State) (ln : Nat) (before after : Bool) : State :=
  if !before && after then s.modSlice (s.homeOf ln) fun x => { x with poisn := satAdd x.poisn 1 255 } else s

/-- A corrected error of a slice's array is counted (R87). -/
def State.meetCorrected (s : State) (sl : Nat) (e : EnvErr) : State :=
  if s.env.contains e then { s with env := s.env.erase e }.modSlice sl fun x => { x with corr := satAdd x.corr 1 65535 } else s

/-- The errors of a home line, met by the next operation on it: a line in S is read from HBM again, one in M or L is poisoned (R72). -/
def State.meetHomeError (s : State) (ln : Nat) : State :=
  let s := s.meetCorrected (s.homeOf ln) (.homeCorr ln)
  if s.env.contains (.homeBad ln) then
    let s := { s with env := s.env.erase (.homeBad ln) }
    let s := s.modSlice (s.homeOf ln) fun x => { x with uncorr := satAdd x.uncorr 1 255 }
    let h := s.homeLine ln
    if h.st = some LineSt.S then
      (s.setHome ln { h with busy := .fill }).ask (epSlice (s.homeOf ln)) (epHbm (hbmOf ln)) (.hbmRd ln)
    else (s.countPoison ln h.poison true).setHome ln { h with poison := true }
  else s

end Sys2Proof.Machine
end

