-- ==== Sys2Proof/Machine/Device.lean ====
section
/-!
DEFINITION. Partial flushes on their way to a home (R83), the lines that engines hold and their accesses to them (R14 to R16, R31,
R428), context descriptors and levels (R357, R367), pre-emption requests (R366, R379) and reservable resources (R114).
-/

namespace Sys2Proof.Machine

/-! ## Partial flushes on their way (R83) -/

/-- The partials that a message carries to a line's home as a flush, with their op and type. -/
def Body.flushOf (ln : Nat) : Body → Option ((AmoOp × ETy) × UPart)
  | .mem r => match r.op with
    | .flush u p => if r.line = ln then some (u, p) else none
    | _ => none
  | .retry b | .nack b => b.flushOf ln
  | _ => none

/-- The partial flushes of a line that have not reached its home. -/
def State.flying (s : State) (ln : Nat) : List ((AmoOp × ETy) × UPart) :=
  (s.transit ++ s.inbox ++ s.held.map (·.msg)).filterMap fun m => m.body.flushOf ln

/-! ## Lines held by engines (R14 to R16, R31, R428)

An engine reads a line by a message to the line's home, or to the host port for a LOC = 1 page, and works on the copy that the answer
brings. What it changes there goes back by a message that writes the changed bytes. A line has one access of its engine on its way at a
time: a read that is asked for goes ahead of changes that have not been sent, which the copy keeps (DESIGN CHOICE, assumption log 9). -/

def devKey (ep : Nat) (loc : Bool) (ln : Nat) : Nat := (2 * ep + loc.toNat) * 2 ^ 33 + ln

def DevLine.reset : DevLine :=
  { data := 0, poison := false, fresh := false, want := false, busy := false, todo := 0, asid := none }

def State.devLine (s : State) (ep : Nat) (loc : Bool) (ln : Nat) : DevLine := SMap.getD s.dev (devKey ep loc ln) .reset
/-- Keeps an engine's line. A slice and a core keep one only as long as they work on it. -/
def State.setDev (s : State) (ep : Nat) (loc : Bool) (ln : Nat) (d : DevLine) : State :=
  let idle := decide (ep < 13056) && !d.fresh && !d.want && !d.busy && d.todo == 0
  { s with dev := if idle then SMap.erase s.dev (devKey ep loc ln) else SMap.set s.dev (devKey ep loc ln) d }

/-- A line in memory: its number, and whether it is one of host memory. -/
abbrev DevAt := Nat × Bool

/-- Where an engine's access to a line goes. -/
def State.devHome (s : State) (l : DevAt) : Nat := if l.2 then epHost else epSlice (s.homeOf l.1)

/-- An access of an engine to a line. -/
def MemReq.dev (op : MemOp) (ep : Nat) (l : DevAt) (d : DevLine) : MemReq :=
  { op, line := l.1, off := 0, mask := if op = .write then d.todo else 0, data := if op = .write then d.data else 0
    who := .dev ep l.2, asid := d.asid, px := none }

/-- Sends the next access of an engine to a line, where none is on its way. -/
def State.devGo (s : State) (ep : Nat) (l : DevAt) : State :=
  let d := s.devLine ep l.2 l.1
  if d.busy then s
  else if d.want then
    (s.setDev ep l.2 l.1 { d with want := false, busy := true }).ask ep (s.devHome l) (.mem (.dev .read ep l d))
  else if d.todo != 0 then
    (s.setDev ep l.2 l.1 { d with todo := 0, busy := true }).ask ep (s.devHome l) (.mem (.dev .write ep l d))
  else s

/-- An answer to an engine's access: the line that was read, over which what has been changed since stays. A write that was refused with
POISON is made again (DEDUCED, assumption log 50). -/
def State.devServe (s : State) (m : Msg) : State :=
  match m.body with
  | .ans (.dev ep loc) kind _ _ data req =>
    let d := { s.devLine ep loc req.line with busy := false }
    let d := if req.op = .read then { d with data := merge (data.getD 0) d.data d.todo, poison := kind == 4, fresh := true }
      else if kind = 4 then { d with todo := d.todo ||| req.mask } else d
    ((s.consume m.uid).setDev ep loc req.line d).devGo ep (req.line, loc)
  | _ => s

/-- Asks for a line to be read. -/
def State.devAsk (s : State) (ep : Nat) (asid : Option (BitVec 16)) (l : DevAt) : State :=
  (s.setDev ep l.2 l.1 { s.devLine ep l.2 l.1 with want := true, asid }).devGo ep l

/-- Whether an engine has read some lines since it last acted on them. -/
def State.devHave (s : State) (ep : Nat) (ls : List DevAt) : Bool := ls.all fun l => (s.devLine ep l.2 l.1).fresh

/-- Asks for those of some lines that have not been read and are not being read. -/
def State.devWant (s : State) (ep : Nat) (asid : Option (BitVec 16)) (ls : List DevAt) : State :=
  ls.foldl (fun s l =>
    let d := s.devLine ep l.2 l.1
    if d.fresh || d.busy || d.want then s else s.devAsk ep asid l) s

/-- The engine has acted on some lines: it reads them again before it acts on them next. -/
def State.devUsed (s : State) (ep : Nat) (ls : List DevAt) : State :=
  ls.foldl (fun s l => s.setDev ep l.2 l.1 { s.devLine ep l.2 l.1 with fresh := false }) s

/-- Whether nothing of an engine's changes to a line is still to be performed at its home. -/
def State.devIdle (s : State) (ep : Nat) (l : DevAt) : Bool :=
  let d := s.devLine ep l.2 l.1
  !d.busy && d.todo == 0

/-- The line as an engine holds it; a poisoned one gives values that nothing fixes. -/
def State.devData (s : State) (ep : Nat) (l : DevAt) : W1024 :=
  let d := s.devLine ep l.2 l.1
  if d.poison then Config.poisonLine l.1 else d.data

/-- Changes bytes of a line, for an address space where one is charged (R367). -/
def State.devPut (s : State) (ep : Nat) (l : DevAt) (x : W1024) (mask : BitVec 128) (asid : Option (BitVec 16) := none) : State :=
  let d := s.devLine ep l.2 l.1
  (s.setDev ep l.2 l.1 { d with data := merge d.data x mask, todo := d.todo ||| mask, asid }).devGo ep l

/-- Changes `n` bytes of a line from byte `i`. -/
def State.devPutNum (s : State) (ep : Nat) (l : DevAt) (i n x : Nat) (asid : Option (BitVec 16) := none) : State :=
  s.devPut ep l (BitVec.ofNat 1024 x <<< (8 * i)) (byteMask i n) asid

/-- Whether a slice or a core works on no line. -/
def State.devQuiet (s : State) (ep : Nat) : Bool := s.dev.all fun e => e.1 / 2 ^ 34 != ep

/-- Physical memory wraps nowhere; engines address bytes below 2^40. -/
def physLine (pa : Nat) : Nat := pa / 128 % 2 ^ 33

/-- Word `k` of a line. -/
def lineWord64 (d : W1024) (k : Nat) : W64 := BitVec.ofNat 64 (lineNum d (8 * k) 8)

/-! ## Context descriptors (R357), as the launch queues hold them -/

/-- The line of a context's descriptor. -/
def State.ctxAt (s : State) (n : Nat) : DevAt := (s.cbase.toNat / 128 + n, false)
def State.ctxLine (s : State) (n : Nat) : W1024 := s.devData epLaunch (s.ctxAt n)
def State.ctxAsid (s : State) (n : Nat) : BitVec 16 := BitVec.ofNat 16 (lineNum (s.ctxLine n) 0 2)
def State.ctxDomain (s : State) (n : Nat) : Nat := lineNum (s.ctxLine n) 2 2
def State.ctxSvc (s : State) (n : Nat) : Nat := lineNum (s.ctxLine n) 4 2
def State.ctxFlags (s : State) (n : Nat) : Nat := lineNum (s.ctxLine n) 6 2
def State.ctxStk (s : State) (n : Nat) : W64 := lineWord64 (s.ctxLine n) 1
def State.ctxBox (s : State) (n : Nat) : W64 := lineWord64 (s.ctxLine n) 2
def State.ctxSlice (s : State) (n : Nat) : Nat := lineNum (s.ctxLine n) 24 8
/-- Level `k`: 0 LCORE, 1 LHBM, 2 LEN; signed. -/
def State.ctxLevel (s : State) (n k : Nat) : Int := (lineWord64 (s.ctxLine n) (4 + k)).toInt
def State.ctxNbox (s : State) (n : Nat) : W64 := lineWord64 (s.ctxLine n) 11
def State.ctxValid (s : State) (n : Nat) : Bool := s.ctxFlags n % 2 == 1
/-- Writes word `k` of a descriptor. -/
def State.ctxPut (s : State) (n k : Nat) (x : W64) : State := s.devPutNum epLaunch (s.ctxAt n) (8 * k) 8 x.toNat
/-- The contexts whose descriptors the launch queues hold. -/
def State.ctxHeld (s : State) : List Nat :=
  s.dev.filterMap fun e =>
    let b := devKey epLaunch false (s.ctxAt 0).1
    if b ≤ e.1 && e.1 < b + 256 then some (e.1 - b) else none

/-- The context that owns an ASID; no ASID belongs to more than one (R357). -/
def State.ctxOfAsid (s : State) (asid : BitVec 16) : Option Nat :=
  s.ctxHeld.find? fun n => s.ctxValid n && s.ctxAsid n == asid

/-- Byte `i` of a box word. -/
def boxByte (b : W64) (i : Nat) : Nat := (b >>> (8 * i)).toNat % 256

/-- Whether a cluster lies in a cluster box: cx0, cy0, cz0, ecx, ecy, ecz. -/
def boxHasCluster (b : W64) (cl : Nat) : Bool :=
  let x := cl % 16
  let y := cl / 16 % 12
  let z := cl / 192
  boxByte b 0 ≤ x && x < boxByte b 0 + boxByte b 3 && boxByte b 1 ≤ y && y < boxByte b 1 + boxByte b 4 &&
    boxByte b 2 ≤ z && z < boxByte b 2 + boxByte b 5

/-- Whether a core box holds a core: x0, y0, z0, ex, ey, ez. -/
def boxHasCore (b : W64) (c : Nat) : Bool :=
  boxByte b 0 ≤ coreX c && coreX c < boxByte b 0 + boxByte b 3 &&
    boxByte b 1 ≤ coreY c && coreY c < boxByte b 1 + boxByte b 4 &&
    boxByte b 2 ≤ coreZ c && coreZ c < boxByte b 2 + boxByte b 5

/-- The cores of a cluster box, in ascending number. -/
def clusterBoxCores (b : W64) : List Nat :=
  let xs := List.range (2 * boxByte b 3)
  let ys := List.range (2 * boxByte b 4)
  let zs := List.range (2 * boxByte b 5)
  zs.flatMap fun z => ys.flatMap fun y => xs.map fun x =>
    coreNum (2 * boxByte b 0 + x) (2 * boxByte b 1 + y) (2 * boxByte b 2 + z)

/-- The live cores of a context's partition: its domain mask (R43, R357). -/
def State.partition (s : State) (n : Nat) : List Nat :=
  (clusterBoxCores (s.ctxBox n)).filter fun c => s.live c && !(s.core c).dark && !(s.core c).fenced

/-! ## Pre-emption requests and charges (R366, R367, R379) -/

/-- Whether a strand works for a context. -/
def Strand.ofCtx (t : Strand) (n : Nat) : Bool := (t.cocoon.bind (·.ctx)) == some n

/-- The cores that hold a strand of a context, or its local state (R125). -/
def State.ctxCores (s : State) (n : Nat) : List Nat :=
  (s.cores.filter fun e => e.2.ctx == some n || e.2.strands.toList.any (·.ofCtx n)).map (·.1)

/-- PRE is set in a strand; a RESUME that is due stays so (R374, R379). -/
def Strand.askPreempt (t : Strand) : Strand := { t with pend := setBit t.pend 6 true, behind := t.behind ||| 0x40, preempting := true }

/-- Requests the pre-emption of a context on one core: PRE is set in each of its strands (R379). -/
def Core.askPreempt (x : Core) (n : Nat) : Core :=
  { x with preempt := some n, strands := x.strands.map fun t => if t.ofCtx n then t.askPreempt else t }

def State.askPreempt (s : State) (n : Nat) : State := (s.ctxCores n).foldl (fun s c => s.modCore c (·.askPreempt n)) s

/-- The scheduled time of a context's running launch is brought up to this tick (R370). -/
def State.stopClock (s : State) (n : Nat) : State :=
  { s with queues := s.queues.map fun (e : Nat × Queue) =>
      (e.1, { e.2 with launch := e.2.launch.map fun l =>
        if l.ctx = n && l.phase = .running then { l with sched := l.sched + (s.timecode.toNat - l.phaseTicks) } else l }) }

/-- A context leaves its cores: 2 descheduled (R367), 0 out of turn (R366). -/
def State.deschedule (s : State) (n st : Nat) : State :=
  let s := if (s.context n).onCores then s.stopClock n else s
  (s.modContext n fun x => { x with st, onCores := false }).askPreempt n

/-- Takes an amount from a level (R367). -/
def State.charge (s : State) (n k amount : Nat) : State := s.ctxPut n (4 + k) (BitVec.ofInt 64 (s.ctxLevel n k - amount))

/-- Charges 128 bytes of HBM traffic to the context of an ASID (R367). -/
def State.chargeHbm (s : State) (asid : Option (BitVec 16)) : State :=
  match asid.bind s.ctxOfAsid with
  | some n => s.charge n 1 128
  | none => s

/-! ## Reservable resources (R114) -/

/-- What a reservable resource does with a message. -/
inductive Turnout where
  | accept | retry (ticket : Nat) | cancelled
  deriving DecidableEq, Repr

/-- The ticket after one: 16 bits, skipping 0. -/
def nextTicket (t : Nat) : Nat := if t = 65535 then 1 else t + 1

/-- Outstanding tickets. -/
def ticketsOut (next serve : Nat) : Nat := (next + 65535 - serve) % 65535

/-- The table of R114: outcome, NEXT and SERVE after it. `room` says that enough units are free. A retry whose ticket was
abandoned gets ticket 0 (R115). -/
def ticketRule (room : Bool) (next serve ticket : Nat) (cancel : Bool) : Turnout × Nat × Nat :=
  if cancel then
    if ticket = serve then (.cancelled, next, nextTicket serve) else (.retry ticket, next, serve)
  else if ticket = 0 then
    if ticketsOut next serve = 0 && room then (.accept, next, serve)
    else if ticketsOut next serve < 32768 then (.retry next, nextTicket next, serve)
    else (.retry 0, next, serve)
  else if ticket = serve && room then (.accept, next, nextTicket serve)
  else if (ticket + 65535 - serve) % 65535 < ticketsOut next serve then (.retry ticket, next, serve)
  else (.retry 0, next, serve)

/-- Answers a message that a resource refused (R114), or whose cancel it accepted. -/
def State.refuse (s : State) (m : Msg) (o : Turnout) : State :=
  match o with
  | .accept => s
  | .retry t =>
    s.sendMsg { uid := 0, src := m.dest, via := m.dest, dest := m.src, cls := 2, tag := m.tag, nf := 1, ticket := t
                cancel := m.cancel, poison := false, body := .retry m.body, kept := m.sb }
  | .cancelled => s.answer m.dest m.src 2 1 m.tag (.okCancel m.body)

end Sys2Proof.Machine
end

