-- ==== Sys2Proof/Machine/Lines.lean ====
section
/-!
DEFINITION. The shared cache slices: the home of a line and its order (R71 to R75, R77, R78, R80), the requester-side
copies (R76, R81 to R83), eviction and the reading of HBM (R31, R71), and the side of a line home in the logs (R84, R134).
-/

namespace Sys2Proof.Machine

/-! ## Sending from a home -/

/-- The answer to an operation (R74). -/
def mkAnswer (sl : Nat) (o : HomeOp) (kind : Nat) (seq : W32) (data : Option W1024) : Msg :=
  { uid := 0, src := epSlice sl, via := epSlice sl, dest := o.src, cls := if data.isSome then 1 else 2, tag := o.tag,
    nf := if data.isSome then 3 else 1, ticket := 0, cancel := false, poison := false,
    body := match o.req.op with
      | .lock r => .lockAns r o.req.line (if kind = 4 then none else data)
      | .entry r _ => .fwdAck r o.req.line
      | .flush _ _ => .ok seq.toNat
      | _ => .ans o.req.who kind seq false data o.req }

/-- Sends a home's answer. An engine's own write, which has no tag, has none. -/
def State.post (s : State) (m : Msg) : State :=
  if m.tag = 256 then s else s.sendVia m.src m.via m.dest m.cls m.nf m.tag m.ticket m.body

/-- A read, write or other request with no proxy behind it. -/
def MemReq.plain (op : MemOp) (line : Nat) (who : Who) (asid : Option (BitVec 16)) : MemReq :=
  { op, line, off := 0, mask := 0, data := 0, who, asid, px := none }

/-- The live slices of the layers of a vector (R77). -/
def State.layerSlices (s : State) (v : BitVec 16) : List Nat := s.sliceList.filter fun sl => v.getLsbD (sliceZ sl)

/-- Sends an invalidation or a recall of a line to every slice of the layers that may hold a copy; the number sent. -/
def State.callCopies (s : State) (ln : Nat) (v : BitVec 16) (body : Body) : State × Nat :=
  let l := s.layerSlices v
  (l.foldl (fun s sl => s.ask (epSlice (s.homeOf ln)) (epSlice sl) body) s, l.length)

/-- A write to a header line of the launch queues or of optical engines is notified to them (R359, R403). -/
def State.notify (s : State) (ln : Nat) : State :=
  let b := s.qbase.toNat / 128
  let me := epSlice (s.homeOf ln)
  if ln < b then s
  else if ln < b + 64 then s.ask me epLaunch (.hdrNote (ln - b))
  else if ln < b + 72 then
    let h := 2 * (ln - b - 64)
    (s.ask me (epOptical h) (.hdrNote (64 + h))).ask me (epOptical (h + 1)) (.hdrNote (65 + h))
  else s

/-! ## Operations performed at a home (R80) -/

/-- Whether an operation is one that a poisoned line refuses (R80, R137). -/
def MemOp.poisonable : MemOp → Bool
  | .read | .red _ | .amo _ | .lock _ => true
  | _ => false

/-- Whether an operation is an access that consults the tile's log (R84, R134, R137). -/
def MemOp.consults : MemOp → Bool
  | .lock _ | .unlock _ _ | .entry _ _ | .evict | .flush _ _ => false
  | _ => true

/-- Begins an invalidation of a line's copies; answers in `held` wait for its end (R78). -/
def State.startInval (s : State) (ln : Nat) (h : HomeLine) (held : List Msg) : State :=
  let (s, n) := s.callCopies ln h.v (.inval ln)
  if n = 0 then held.foldl State.post (s.setHome ln { h with v := 0, busy := .no })
  else s.setHome ln { h with v := 0, busy := .inval n held }

/-- Begins a recall (R82). -/
def State.startRecall (s : State) (ln : Nat) (h : HomeLine) : State :=
  let (s, n) := s.callCopies ln h.v (.recall ln)
  s.setHome ln { h with busy := .recall n [] }

/-- Whether a slice of a layer, other than one whose copy is being folded, still holds a U copy of a line, is being granted one, or
has one on its way to the home (R83). -/
def State.layerHasU (s : State) (ln sl z : Nat) : Bool :=
  ((s.copiesOf ln).any fun c => sliceZ c.1 == z && c.2.u.isSome) ||
    ((s.flying ln).any fun c => c.2.sl != sl && sliceZ c.2.sl == z) ||
    (s.preqs.any fun e => e.1 % 2 ^ 33 == ln && sliceZ (e.1 / 2 ^ 33) == z && e.2.grant.isSome && !e.2.marked)

/-- Takes a partial flush into the home at once (R83). -/
def State.foldFlush (s : State) (ln : Nat) (u : AmoOp × ETy) (p : UPart) : State :=
  let h := s.homeLine ln
  let z := sliceZ p.sl
  let called := match h.busy with | .recall _ _ => true | _ => false
  let v := if called || h.up.isNone || s.layerHasU ln p.sl z then h.v else h.v &&& ~~~((1 : BitVec 16) <<< z)
  let h' := h.fold u p
  (s.countPoison ln h.poison h'.poison).setHome ln { h' with v, up := if v = 0 then none else h.up, stamp := s.uid }

/-- Handles the operation at the head of a present line's queue (R80). -/
def State.homeOp (s : State) (ln : Nat) (h : HomeLine) (o : HomeOp) (rest : List HomeOp) : State :=
  let sl := s.homeOf ln
  let rec' := h.logPend
  let done := fun (s : State) (h : HomeLine) (kind : Nat) (d : Option W1024) =>
    (s.setHome ln { h with ops := rest }).post (mkAnswer sl o kind h.seq d)
  let inL := h.st = some LineSt.L
  if h.poison && o.req.op.poisonable then done s h 4 none
  else if !inL && rec'.isSome && o.req.op.consults then
    if h.up.isSome then s.startRecall ln h
    else if h.v != 0 then s.startInval ln h []
    else
      let r := rec'.getD 0
      (s.setHome ln { h with busy := .pull }).ask (epSlice sl) (epSlice (s.logHome r)) (.pull ln r)
  else
    match o.req.op with
    | .evict =>
      if h.up.isSome then s.startRecall ln h
      else if h.v != 0 then s.startInval ln h []
      else if h.st = some LineSt.S && s.lineMeta ln == { seq := h.seq, poison := h.poison, logPend := h.logPend } then
        s.setHome ln { HomeLine.reset with ops := rest }
      else (s.setHome ln { h with busy := .wb, ops := rest }).ask (epSlice sl) (epHbm (hbmOf ln)) (.hbmWr ln h.data h.seq h.poison)
    | .read =>
      if h.up.isSome then s.startRecall ln h
      else
        match o.req.px with
        | some p =>
          if inL || h.poison then done s h 0 (some h.data)
          else done s { h with v := h.v ||| ((1 : BitVec 16) <<< sliceZ p) } 1 (some h.data)
        | none => done s h 0 (some h.data)
    | .grant op ty =>
      if inL then done s h 0 none
      else if h.up.isNone && h.v != 0 then s.startInval ln h []
      else if h.up.isSome && h.up != some (op, ty) then s.startRecall ln h
      else
        let z := sliceZ (o.req.px.getD 0)
        done s { h with up := some (op, ty), v := h.v ||| ((1 : BitVec 16) <<< z), st := some LineSt.M } 2 none
    | .lock r =>
      if h.up.isSome then s.startRecall ln h
      else if h.v != 0 then s.startInval ln h []
      else (s.setHome ln { h with ops := rest, busy := .locked r }).post (mkAnswer sl o 0 h.seq (some h.data))
    | .red a =>
      if h.up.isSome && h.up != some (a.op, a.ty) then s.startRecall ln h
      else
        let (h', k, d) := s.performOp o.req h
        let h' := { h' with ops := rest }
        if h.up.isNone && h.v != 0 then (s.startInval ln h' [mkAnswer sl o k h'.seq d]).notify ln
        else ((s.setHome ln h').post (mkAnswer sl o k h'.seq d)).notify ln
    | .flush u p =>
      let s := (s.setHome ln { h with ops := rest }).foldFlush ln u p
      s.post (mkAnswer sl o 0 (s.homeLine ln).seq none)
    | _ =>
      if h.up.isSome then s.startRecall ln h
      else
        let (h', k, d) := s.performOp o.req h
        let h' := { h' with ops := rest }
        (if h.v != 0 then s.startInval ln h' [mkAnswer sl o k h'.seq d]
         else (s.setHome ln h').post (mkAnswer sl o k h'.seq d)).notify ln

/-- Handles the operations of a line in home order, until one has to wait for another step. -/
def State.homeRun (s : State) (ln : Nat) : Nat → State
  | 0 => s
  | k + 1 =>
    let h := s.homeLine ln
    if h.busy != .no then s
    else
      match h.ops with
      | [] => if h.st.isNone then { s with home := SMap.erase s.home ln } else s
      | o :: rest =>
        if h.st.isNone then
          if o.req.op = .evict then State.homeRun (s.setHome ln { h with ops := rest }) ln k
          else (s.setHome ln { h with busy := .fill }).ask (epSlice (s.homeOf ln)) (epHbm (hbmOf ln)) (.hbmRd ln)
        else
          let s := s.meetHomeError ln
          let h := s.homeLine ln
          if h.busy != .no then s else State.homeRun (s.homeOp ln h o rest) ln k

/-- Continues a line after a wait. -/
def State.homeGo (s : State) (ln : Nat) : State := s.homeRun ln (2 * (s.homeLine ln).ops.length + 4)

/-- Transaction entries of a slice in use: by operations at the lines it is the home of, and by those that wait at it as a proxy
(R75). -/
def State.entriesUsed (s : State) (sl : Nat) : Nat :=
  s.home.foldl (fun n e => if s.homeOf e.1 = sl then n + e.2.ops.length else n) 0 +
    s.preqs.foldl (fun n e => if e.1 / 2 ^ 33 = sl then n + e.2.waiting.length else n) 0

/-- The rule of R114 for a transaction entry of a slice. -/
def State.entryRule (s : State) (sl : Nat) (m : Msg) : Turnout × State :=
  let x := s.slice sl
  let (o, next, serve) := ticketRule (decide (s.entriesUsed sl < 128)) x.next x.serve m.ticket m.cancel
  (o, (s.consume m.uid).modSlice sl fun x =>
    { x with next, serve, nretry := match o with | .retry _ => satAdd x.nretry 1 65535 | _ => x.nretry })

/-- Accepts a request at a home slice, or refuses it with a ticket (R75). -/
def State.homeAccept (s : State) (m : Msg) (r : MemReq) : State :=
  let (o, s) := s.entryRule (m.dest - 12288) m
  match o with
  | .accept =>
    let h := s.homeLine r.line
    let s := s.setHome r.line { h with ops := h.ops ++ [{ req := r, src := m.src, tag := m.tag }], stamp := s.uid }
    s.homeGo r.line
  | o => s.refuse m o

/-! ## The home's waits -/

/-- An acknowledgement of an invalidation or a recall (R78, R82). -/
def State.copyAcked (s : State) (ln : Nat) (p : UPart) : State :=
  let h := s.homeLine ln
  match h.busy with
  | .inval n held =>
    if n ≤ 1 then (held.foldl State.post (s.setHome ln { h with busy := .no })).homeGo ln
    else s.setHome ln { h with busy := .inval (n - 1) held }
  | .recall n parts => s.setHome ln { h with busy := .recall (n - 1) (parts ++ [p]) }
  | _ => s

/-- Partials in ascending slice number. -/
def insertPart (p : UPart) : List UPart → List UPart
  | [] => [p]
  | q :: l => if p.sl ≤ q.sl then p :: q :: l else q :: insertPart p l

/-- Folds the recalled copies when all have answered. It waits until no partial flush of the line is on its way to the home, so that
a copy given up before the recall reached its slice is folded ahead of the recall's own copies (DESIGN CHOICE, assumption log 51:
R82 and R83 do not say how a recall and a flush in flight are ordered). -/
def State.recallFold (s : State) (ln : Nat) : State :=
  let h := s.homeLine ln
  if !(s.flying ln).isEmpty then s else
  match h.busy, h.up with
  | .recall 0 parts, some u =>
    let h' := (parts.foldr insertPart []).foldl (fun h p => h.fold u p) h
    ((s.countPoison ln h.poison h'.poison).setHome ln { h' with up := none, v := 0, st := written h'.st, busy := .no }).homeGo ln
  | _, _ => s

/-- The home lines that share a set with a line (R71). -/
def State.setMates (s : State) (ln : Nat) : List (Nat × HomeLine) :=
  s.home.filter fun e => e.2.st.isSome && s.homeOf e.1 == s.homeOf ln && s.homeSet e.1 == s.homeSet ln

/-- Makes room in a line's set: the least recently used line without an operation is evicted (R71). -/
def State.evictFor (s : State) (ln : Nat) : State :=
  let mates := s.setMates ln
  if mates.any fun e => e.2.busy == .wb || e.2.ops.any fun o => o.req.op == .evict then s
  else
    match (mates.filter fun e => e.2.busy == .no && e.2.ops.isEmpty).foldl
        (fun (m : Option (Nat × HomeLine)) e => match m with
          | none => some e
          | some b => if e.2.stamp < b.2.stamp then some e else some b) none with
    | none => s
    | some v =>
      let req : MemReq := { op := .evict, line := v.1, off := 0, mask := 0, data := 0, who := .device, asid := none, px := none }
      (s.setHome v.1 { v.2 with ops := [{ req, src := epSlice (s.homeOf v.1), tag := 0 }] }).homeGo v.1

/-- The HBM controller's answer for a line, once it is at the home. -/
def State.hbmAnswer (s : State) (ln : Nat) : Option Msg :=
  s.inbox.find? fun m => match m.body with | .hbmData ln' _ _ _ => ln' == ln | _ => false

/-- Installs the line that HBM sent (R71, R80) and charges its fill (R367). The log-pending bit is the one that the metadata hold
now, since a LOGMARK or a LOGCLEAR may have come meanwhile (R132). A line that was read again keeps its directory entry (R72). -/
def State.installLine (s : State) (m : Msg) (ln : Nat) (data : W1024) (seq : W32) (poison : Bool) : State :=
  let h := s.homeLine ln
  let s := (s.consume m.uid).countPoison ln (s.lineMeta ln).poison poison
  let asid := (h.ops.head?).bind fun o => o.req.asid
  let h := if h.st.isSome then { h with data, poison, seq, busy := .no }
    else { h with st := some LineSt.S, data, v := 0, up := none, poison, seq, logPend := (s.lineMeta ln).logPend, asid := none
                  busy := .no }
  ((s.setHome ln h).chargeHbm asid).homeGo ln

/-- A line whose data HBM has sent is installed once a way is free (R71). -/
def State.hbmFill (s : State) (ln : Nat) : State :=
  match s.hbmAnswer ln with
  | none => s
  | some m =>
    match m.body with
    | .hbmData _ d q p =>
      if (s.homeLine ln).busy != .fill then s
      else if (s.homeLine ln).st.isSome || (s.setMates ln).length < 12 then s.installLine m ln d q p
      else
        let s := s.evictFor ln
        if (s.setMates ln).length < 12 then s.installLine m ln d q p else s
    | _ => s

/-- A victim's write-back has left its way (R71, R80, R367). An L line sends UNPULL, and no operation on it goes on before the log home has
answered: what reads the line again would else be pulled ahead of the UNPULL (R134, R322). A write-back whose answer carried poison
leaves the line poisoned in HBM (R50; DEDUCED, assumption log 50). -/
def State.writebackDone (s : State) (ln : Nat) : State :=
  let h := s.homeLine ln
  match s.inbox.find? fun m => m.body == .hbmWrote ln with
  | none => s
  | some m =>
    if h.busy != .wb then s
    else
      let s := s.consume m.uid
      let s := s.setLineMeta ln { s.lineMeta ln with logPend := h.logPend, poison := (s.lineMeta ln).poison || m.poison }
      let s := match h.st, h.logPend with
        | some LineSt.L, some r =>
          (s.setHome ln { HomeLine.reset with ops := h.ops, busy := .unpull }).ask (epSlice (s.homeOf ln)) (epSlice (s.logHome r)) (.unpull ln r)
        | _, _ => s.setHome ln { HomeLine.reset with ops := h.ops }
      (s.chargeHbm h.asid).homeGo ln

/-- The log home has taken an UNPULL: the line's operations go on (R134). -/
def State.unpulled (s : State) (ln : Nat) : State :=
  let h := s.homeLine ln
  if h.busy = .unpull then (s.setHome ln { h with busy := .no }).homeGo ln else s

/-- An HBM controller reads a line, with the errors that its ECC finds (R31), or writes one. -/
def State.hbmServe (s : State) (m : Msg) : State :=
  match m.body with
  | .hbmRd ln =>
    let bump := fun (x : SMap Nat) => SMap.set x (hbmOf ln) (satAdd (SMap.getD x (hbmOf ln) 0) 1 0xFFFFFFFF)
    let bad := s.env.contains (.hbmBad ln)
    let s := s.consume m.uid
    let s := if s.env.contains (.hbmCorr ln) then { s with env := s.env.erase (.hbmCorr ln), hbmCorr := bump s.hbmCorr } else s
    let s := if bad then { s with env := s.env.erase (.hbmBad ln), hbmUncorr := bump s.hbmUncorr } else s
    s.answer m.dest m.src 1 3 m.tag (.hbmData ln (s.hbm.line (128 * ln)) (s.lineMeta ln).seq ((s.lineMeta ln).poison || bad))
  | .hbmWr ln d q p =>
    let s := { s.consume m.uid with hbm := s.hbm.writeLine (128 * ln) d (BitVec.allOnes 128) }
    (s.setLineMeta ln { s.lineMeta ln with seq := q, poison := p }).answer m.dest m.src 2 1 m.tag (.hbmWrote ln)
  | _ => s

/-- The entries that a PULL returned are applied and the line enters L (R80, R134), unless a LOGCLEAR has come first. Where the log home
has more of them, or they were poisoned on their way, which poisons the line, the line is pulled again (R31, R50, R51; DEDUCED,
assumption log 50). -/
def State.pulled (s : State) (ln r : Nat) (es : List LogEntry) (more bad : Bool) : State :=
  let h := s.homeLine ln
  if h.busy != .pull then s
  else
    let apply := fun (h : HomeLine) (e : LogEntry) =>
      (s.performOp { MemReq.plain (.entry r e) ln .device none with off := s.recOff r e.elem } h).1
    let h' := if bad then { h with poison := true } else es.foldl apply h
    let s := s.countPoison ln h.poison h'.poison
    if more || bad then (s.setHome ln h').ask (epSlice (s.homeOf ln)) (epSlice (s.logHome r)) (.pull ln r)
    else (s.setHome ln { h' with st := if h.logPend.isSome then some LineSt.L else written h'.st, busy := .no }).homeGo ln

/-- LOGMARK at a line home (R132). -/
def State.logMark (s : State) (ln r : Nat) : State :=
  let h := s.homeLine ln
  if h.st.isSome then s.setHome ln { h with logPend := some r }
  else s.setLineMeta ln { s.lineMeta ln with logPend := some r }

/-- LOGCLEAR at a line home: the bit is cleared and an L line goes to M (R132). -/
def State.logClear (s : State) (ln : Nat) : State :=
  let h := s.homeLine ln
  let s := s.setLineMeta ln { s.lineMeta ln with logPend := none }
  if h.st.isSome then
    s.setHome ln { h with logPend := none, st := if h.st = some LineSt.L then some LineSt.M else h.st }
  else s

/-- The storer's write of a locked line: its data, SEQ once for each entry applied, and then the held operations (R137). -/
def State.storerWrite (s : State) (m : Msg) (r : MemReq) (rec n : Nat) : State :=
  let h := s.homeLine r.line
  let s := (s.consume m.uid).answer m.dest m.src 2 1 m.tag (.ans (.storer rec) 0 (h.seq + BitVec.ofNat 32 n) false none r)
  match h.busy with
  | .locked _ =>
    (s.setHome r.line { h with data := if n = 0 then h.data else r.data, seq := h.seq + BitVec.ofNat 32 n, st := if n = 0 then h.st else written h.st
                               asid := if n = 0 then h.asid else some (s.tensor (recTensor rec)).asid, busy := .no }).homeGo r.line
  | _ => s

/-! ## Proxy slices (R76, R81, R83) -/

def State.proxyLine (s : State) (sl ln : Nat) : Option ProxyLine := SMap.get? s.proxies (pkey sl ln)
def State.setProxy (s : State) (sl ln : Nat) (p : ProxyLine) : State :=
  { s with proxies := SMap.set s.proxies (pkey sl ln) p }
def State.dropProxy (s : State) (sl ln : Nat) : State := { s with proxies := SMap.erase s.proxies (pkey sl ln) }

/-- An uncorrectable error of a copy, met by the access that reads it (R72). What holds the mark of a U copy until its recall or
flush is the copy itself, emptied: it stands in the slice, and combines later REDs, until then (DESIGN CHOICE, assumption log 51). -/
def State.meetProxyError (s : State) (sl ln : Nat) : State :=
  let s := s.meetCorrected sl (.proxyCorr sl ln)
  if s.env.contains (.proxyBad sl ln) then
    let s := { s with env := s.env.erase (.proxyBad sl ln) }
    let s := s.modSlice sl fun x => { x with uncorr := satAdd x.uncorr 1 255 }
    match s.proxyLine sl ln with
    | some p => if p.u.isSome then (s.setProxy sl ln { p with poison := true, touched := 0 }) else s.dropProxy sl ln
    | none => s
  else s

/-- What a slice gives up of a copy. -/
def ProxyLine.give (p : ProxyLine) (sl : Nat) : UPart := { sl, touched := p.touched, part := p.data, poison := p.poison, asid := p.asid }

/-- Sends a U copy's partials to the home and gives the copy up (R72, R83). -/
def State.partialFlush (s : State) (sl ln : Nat) : State :=
  let s := s.meetProxyError sl ln
  match s.proxyLine sl ln with
  | some p =>
    if p.u.isNone then s.dropProxy sl ln
    else
      let s := (s.dropProxy sl ln).modSlice sl fun x => { x with uflush := satAdd x.uflush 1 65535 }
      s.ask (epSlice sl) (epSlice (s.homeOf ln)) (.mem (.plain (.flush (p.u.getD (.add, .i32)) (p.give sl)) ln (.proxy sl) p.asid))
  | none => s

/-- The copies in a proxy set. -/
def State.proxySet (s : State) (sl ln : Nat) : List (Nat × ProxyLine) :=
  s.proxies.filterMap fun e =>
    if e.1 / 2 ^ 33 = sl && e.1 % 2 ^ 33 % 1024 = ln % 1024 then some (e.1 % 2 ^ 33, e.2) else none

def lruProxy (l : List (Nat × ProxyLine)) : Option Nat :=
  (l.foldl (fun (m : Option (Nat × ProxyLine)) e => match m with
    | none => some e
    | some b => if e.2.stamp < b.2.stamp then some e else some b) none).map (·.1)

/-- Frees a proxy way. A third U copy flushes the least recently used U copy of the set first (R71, R83; DESIGN CHOICE, assumption
log 51: R83 names no victim among the two). -/
def State.proxyRoom (s : State) (sl ln : Nat) (wantU : Bool) : State :=
  let us := (s.proxySet sl ln).filter fun e => e.2.u.isSome
  let s := if wantU && decide (2 ≤ us.length) then
      match lruProxy us with | some v => s.partialFlush sl v | none => s
    else s
  let all := s.proxySet sl ln
  if 4 ≤ all.length then match lruProxy all with | some v => s.partialFlush sl v | none => s else s

/-- Passes a request on to the home under its own SRC and TAG, with its SB words and no ticket of the proxy's (R54, R75, R76). -/
def State.forward (s : State) (m : Msg) (ln : Nat) : State :=
  (s.consume m.uid).sendMsg { m with via := m.dest, dest := epSlice (s.homeOf ln), ticket := 0 }

/-- Appends a message to what waits for a proxy's request. -/
def State.proxyWait (s : State) (sl ln : Nat) (q : ProxyReq) (m : Msg) : State :=
  { s.consume m.uid with preqs := SMap.set s.preqs (pkey sl ln) { q with waiting := q.waiting ++ [m] } }

/-- A request of a core at its proxy slice, which has taken it (R81). -/
def State.proxyTake (s : State) (sl : Nat) (m : Msg) (r : MemReq) : State :=
  let ln := r.line
  let s := s.meetProxyError sl ln
  let home := epSlice (s.homeOf ln)
  match r.op, s.proxyLine sl ln, SMap.get? s.preqs (pkey sl ln) with
  | .read, some p, _ =>
    if p.u.isSome then s.forward m ln
    else
      let s := (s.consume m.uid).setProxy sl ln { p with stamp := s.uid }
      s.answer (epSlice sl) m.src 1 3 m.tag (.ans r.who 0 p.seq true (some p.data) r)
  | .read, none, some q => s.proxyWait sl ln q m
  | .read, none, none =>
    let s := s.proxyWait sl ln { grant := none, marked := false, waiting := [] } m
    s.ask (epSlice sl) home (.mem { MemReq.plain .read ln (.proxy sl) r.asid with px := some sl })
  | .red a, some p, _ =>
    if p.u = some (a.op, a.ty) then
      let s := (s.consume m.uid).setProxy sl ln { combineCopy (a.op, a.ty) p r.off a.v with stamp := s.uid, asid := r.asid }
      s.answer (epSlice sl) m.src 2 1 m.tag (.ans r.who 0 p.seq true none r)
    else if p.u.isSome then s.forward m ln
    else
      let s := (s.dropProxy sl ln).proxyWait sl ln { grant := some (a.op, a.ty), marked := false, waiting := [] } m
      s.ask (epSlice sl) home (.mem { MemReq.plain (.grant a.op a.ty) ln (.proxy sl) r.asid with px := some sl })
  | .red _, none, some q => s.proxyWait sl ln q m
  | .red a, none, none =>
    let s := s.proxyWait sl ln { grant := some (a.op, a.ty), marked := false, waiting := [] } m
    s.ask (epSlice sl) home (.mem { MemReq.plain (.grant a.op a.ty) ln (.proxy sl) r.asid with px := some sl })
  | _, some p, _ => if p.u.isSome then s.forward m ln else (s.dropProxy sl ln).forward m ln
  | _, none, some q => if q.grant.isSome then s.proxyWait sl ln q m else s.forward m ln
  | _, none, none => s.forward m ln

/-- Whether a request waits at a proxy for an answer of the home: for a fill or a grant that it asks for, or that is outstanding
(R81). -/
def State.proxyHolds (s : State) (sl : Nat) (r : MemReq) : Bool :=
  match r.op, s.proxyLine sl r.line, SMap.get? s.preqs (pkey sl r.line) with
  | .read, none, _ => true
  | .red _, some p, _ => p.u.isNone
  | .red _, none, _ => true
  | _, none, some q => q.grant.isSome
  | _, _, _ => false

/-- A request of a core at its proxy slice: one that waits there takes a transaction entry or is refused, and so does one that the
proxy has refused before (R75, R81, R114). -/
def State.proxyServe (s : State) (m : Msg) (r : MemReq) : State :=
  let sl := m.dest - 12288
  let s := s.meetProxyError sl r.line
  if m.ticket = 0 && !s.proxyHolds sl r then s.proxyTake sl m r
  else
    match s.entryRule sl m with
    | (.accept, s) => s.proxyTake sl m r
    | (o, s) => s.refuse m o

/-- Goes on with requests that have waited at a proxy, in the order they arrived (R81). -/
def State.proxyGoOn (s : State) (sl : Nat) (ms : List Msg) : State :=
  ms.foldl (fun s m => match m.body with | .mem r => s.proxyTake sl m r | _ => s) s

/-- The home's answer to a proxy's fill: it is relayed to the core, and a copy is kept on an unmarked grant (R76, R81). -/
def State.proxyFilled (s : State) (sl ln kind : Nat) (seq : W32) (data : Option W1024) : State :=
  match SMap.get? s.preqs (pkey sl ln) with
  | none => s
  | some q =>
    let s := { s with preqs := SMap.erase s.preqs (pkey sl ln) }
    let s := match kind, data with
      | 1, some d =>
        if q.marked then s
        else (s.proxyRoom sl ln false).setProxy sl ln { u := none, data := d, touched := 0, seq, poison := false, stamp := s.uid, asid := none }
      | _, _ => s
    match q.waiting with
    | [] => s
    | m :: rest =>
      let s := match m.body with
        | .mem r => s.answer (epSlice sl) m.src (if data.isSome then 1 else 2) (if data.isSome then 3 else 1) m.tag
            (.ans r.who kind seq false data r)
        | _ => s
      s.proxyGoOn sl rest

/-- The home's answer to a proxy's grant request (R81): with the grant, the held requests are applied in the order they arrived;
without it the held REDs go to the home, and each other request is handled as in I. -/
def State.proxyGranted (s : State) (sl ln kind : Nat) (seq : W32) : State :=
  match SMap.get? s.preqs (pkey sl ln) with
  | none => s
  | some q =>
    let s := { s with preqs := SMap.erase s.preqs (pkey sl ln) }
    if kind = 2 && !q.marked then
      let s := (s.proxyRoom sl ln true).setProxy sl ln
        { u := q.grant, data := 0, touched := 0, seq, poison := false, stamp := s.uid, asid := none }
      s.proxyGoOn sl q.waiting
    else
      let red := fun (m : Msg) => match m.body with | .mem r => (match r.op with | .red _ => true | _ => false) | _ => false
      q.waiting.foldl (fun s m => if red m then s.forward m ln else s.proxyGoOn sl [m]) s

/-- An invalidation or a recall at a slice (R81). -/
def State.proxyCalled (s : State) (m : Msg) (ln : Nat) : State :=
  let sl := m.dest - 12288
  let s := s.consume m.uid
  let s := match SMap.get? s.preqs (pkey sl ln) with
    | some q => { s with preqs := SMap.set s.preqs (pkey sl ln) { q with marked := true } }
    | none => s
  let s := s.meetProxyError sl ln
  let p := match (s.proxyLine sl ln).filter (·.u.isSome) with
    | some p => p.give sl
    | none => { sl, touched := 0, part := 0, poison := false, asid := none }
  let full := p.touched != 0 || p.poison
  (s.answer (epSlice sl) m.src (if full then 1 else 2) (if full then 3 else 1) m.tag (.ack ln p)).dropProxy sl ln

/-- The slice a core sends its global accesses to a line to (R76). -/
def State.routeOf (s : State) (c ln : Nat) (cached : Bool) : Nat :=
  let p := proxyOf c
  let h := s.homeOf ln
  if cached && sliceZ h != coreZ c && s.sliceLive p then p else h

end Sys2Proof.Machine
end

