-- ==== Sys2Proof/Machine/Ops.lean ====
section
/-!
DEFINITION. Taking an exception (R168, R373) and returning from one (R352), with what both rest on: tile-table state
(R120), the end of a strand's work by a kill (R95, R115, R140, R288, R308), fault messages (R377), containment (R381,
R382), the double fault (R384); and what every instruction begins and ends with (R155, R185, R189, R194, R197, R385).
Readings: DEDUCED, assumption log 31, 33.
-/

namespace Sys2Proof.Machine

/-! ## Causes (R371, R372) -/

def cIllegalOpcode : Nat := 1
def cIllegalEncoding : Nat := 2
def cIllegalPrefix : Nat := 3
def cIllegalPc : Nat := 4
def cIllegalTarget : Nat := 5
def cIfetchParity : Nat := 6
def cPrivilege : Nat := 7
def cAperture : Nat := 8
def cProtection : Nat := 9
def cBankMode : Nat := 10
def cAlign : Nat := 11
def cMemPoison : Nat := 12
def cTileState : Nat := 13
def cShapeFormat : Nat := 14
def cLogState : Nat := 15
def cAccState : Nat := 16
def cBarState : Nat := 17
def cGroupBusy : Nat := 18
def cUserTrap : Nat := 19
def cBreakpoint : Nat := 20
def cStep : Nat := 21
def cPostedRefused : Nat := 32
def cCopyFault : Nat := 33
def cScaleMismatch : Nat := 34
def cLeaseExpiry : Nat := 35
def cLeaseLost : Nat := 36
def cWatchdog : Nat := 37
def cPreempt : Nat := 38
def cFaultqPressure : Nat := 39
def cResume : Nat := 40
def cClusterDark : Nat := 41
def cDoubleFault : Nat := 48

/-- Where a cause comes from: the instruction, its fetch, or an access it makes (R384). -/
inductive Via where
  | instr | fetch | access
  deriving DecidableEq, Repr

/-- A cause to be taken, with the other fields of CAUSE (R371). -/
structure Cause where
  num : Nat
  bad : W64
  async : Bool := false
  info : Nat := 0
  reason : Nat := 0
  opk : Nat := 0
  deriving DecidableEq, Repr

/-- CAUSE as entry writes it (R371). -/
def Cause.word (x : Cause) : W64 :=
  BitVec.ofNat 64 (x.num % 256 + (if x.async then 256 else 0) + x.opk % 4 * 1024 + x.reason % 16 * 4096 +
    x.info % 256 * 65536)

/-! ## The PC (R178, R179, R181) -/

def pcLine (pc : W64) : W64 := pc &&& ~~~(63 : W64)
def pcSlot (pc : W64) : Nat := pc.toNat % 8
/-- Whether a PC has the layout of R178. -/
def pcOk (pc : W64) : Bool := pc.toNat / 8 % 8 == 0 && decide (pc.toNat % 8 < 5)
/-- The next slot in sequential flow (R179). -/
def pcNext (pc : W64) : W64 := if pcSlot pc < 4 then pc + 1 else pcLine pc + 64
/-- The target of a PC-relative branch (R181). -/
def pcTarget (pc : W64) (imm : W48) : W64 :=
  let off : BitVec 45 := imm.extractLsb' 3 45
  (pcLine pc + (off.signExtend 64 <<< 6)) ||| BitVec.ofNat 64 (imm.toNat % 8)

/-! ## Fetch lines (R175 to R177, R182) -/

/-- The cached line of a strand's address space, unless it must be fetched once more (R177, R182). -/
def Core.ifind (x : Core) (line : W64) (asid : BitVec 16) (i : Nat) : Option ILine :=
  x.icache.find? fun e => e.line == line && e.asid == asid && (e.bad == 0 || e.bad == 2 + i)

/-- The 32-bit line word (R176). -/
def lineWord (b : BitVec 512) : W32 := b.extractLsb' 480 32
/-- The instruction word of a slot (R175). -/
def slotWord (b : BitVec 512) (slot : Nat) : W96 := b.extractLsb' (96 * slot) 96
def lineTgt (b : BitVec 512) (slot : Nat) : Bool := (lineWord b).getLsbD slot
def lineTmpl (b : BitVec 512) (k : Nat) : Bool := (lineWord b).getLsbD (8 + k)
/-- Non-zero reserved fields (R176). -/
def lineReserved (b : BitVec 512) : Bool := lineWord b &&& 0xFF00E0E0 != 0

/-- The exclusive OR of the bytes of the slot area (R177). -/
def xorBytes (x : Nat) : Nat → Nat
  | 0 => 0
  | n + 1 => x % 256 ^^^ xorBytes (x / 256) n

def lineParityOk (b : BitVec 512) : Bool := xorBytes b.toNat 60 == ((lineWord b).extractLsb' 16 8).toNat

/-! ## Issue groups (R183, R184) -/

/-- A member of a group: its class, and whether it may only be the last (R184). -/
abbrev Member := Nat × Bool

/-- The member that an instruction word makes. -/
def memberOf (w : W96) : Member :=
  let cls := (w.extractLsb' 94 2).toNat
  let opc := (w.extractLsb' 88 6).toNat
  (cls, (cls == 0 && decide (0x30 ≤ opc) && decide (opc ≤ 0x36)) || (cls == 3 && (opc == 0x28 || opc == 0x29 || opc == 0x2F)))

/-- The first slot of the group that holds a slot. -/
def groupStart (b : BitVec 512) : Nat → Nat
  | 0 => 0
  | s + 1 => if lineTmpl b s then groupStart b s else s + 1

/-- The last slot of the group that holds slot `s`; `k` slots follow it in the line. -/
def groupEnd (b : BitVec 512) (s : Nat) : Nat → Nat
  | 0 => s
  | k + 1 => if lineTmpl b s then groupEnd b (s + 1) k else s

/-- The members of the group that holds a slot. -/
def groupOf (b : BitVec 512) (slot : Nat) : List Member :=
  let lo := groupStart b slot
  let hi := groupEnd b slot (4 - slot)
  (List.range (hi + 1 - lo)).map fun k => memberOf (slotWord b (lo + k))

/-- R184. -/
def groupLegal (l : List Member) : Bool :=
  let n := fun c => (l.filter fun m => m.1 == c).length
  decide (l.length ≤ 3) && decide (n 0 ≤ 2) && decide (n 1 ≤ 1) && decide (n 2 ≤ 1) && decide (n 3 ≤ 1) &&
    !(l.dropLast.any fun m => m.2)

/-- The group that slot 4 of a line takes into the next one, where TMPL joins them. -/
def lastGroup (b : BitVec 512) : List Member := if lineTmpl b 4 then groupOf b 4 else []

/-- The group that sequential flow carries into the next line: the one kept at the issue from slot 4. -/
def State.joinOf (s : State) (c i : Nat) : List Member :=
  let t := s.strand c i
  if pcSlot t.pc < 4 then [] else t.join4

/-! ## Trap entry and the reversal (R168) -/

/-- The handler's entry (R373). -/
def handlerPc : W64 := 0x7E000

/-- Trap entry: R168 with the writes to CAUSE, EPC and BADADDR, and the transfer of R373. A pickup that an asynchronous cause
interrupts goes on when the strand returns to its PC; an exact cause of the pickup ends it (DEDUCED, assumption log 34). -/
def Strand.enter (t : Strand) (x : Cause) (epc : W64) : Strand :=
  let st := setBit (setBit t.status 6 t.px) 5 false
  let st := setBit (setBit st 9 t.ie) 10 false
  let st := setBit (setBit st 8 t.prv) 7 true
  { t with
    status := st
    pxv := putBits t.pxv 32 32 (bits t.pxv 0 32)
    cause := x.word, epc, badaddr := x.bad, pc := handlerPc, entered := true, join4 := [], wait := .no, midway := false
    noPage := none
    entry := t.entry.filter fun e => x.async || e.pc != t.pc
    window := true, sawCause := false, sawBad := false }

/-- The reversal that ERET applies (R168). -/
def Strand.revert (t : Strand) : Strand :=
  let st := setBit t.status 5 t.spx
  let st := setBit (setBit st 10 t.sie) 7 t.sprv
  { t with status := st, pxv := putBits t.pxv 0 32 (bits t.pxv 32 32) }

/-- A transfer of the PC, with no group to join (R183). -/
def Strand.jump (t : Strand) (pc : W64) : Strand := { t with pc, join4 := [], wait := .no, midway := false, noPage := none }

/-! ## Tile-table entries (R117, R120) -/

def Tile.state (e : Tile) : Nat := bits e.w3 0 2
def Tile.setState (e : Tile) (st : Nat) : Tile := { e with w3 := putBits e.w3 0 2 st }
def Tile.setLog (e : Tile) (l : List LogEntry) : Tile := { e with log := l, w3 := putBits e.w3 2 6 l.length }
def Tile.fseq (e : Tile) : Nat := bits e.w3 8 12
def Tile.own (e : Tile) : Nat := bits e.w3 20 2
def Tile.strm (e : Tile) : Bool := e.w3.getLsbD 22
def Tile.home (e : Tile) : W64 := e.w0 &&& 0xFFFFFFFFFFFFFF
def Tile.off (e : Tile) : Nat := bits e.w1 36 19
def Tile.slotNo (e : Tile) : Nat := bits e.w1 32 4
def Tile.loc (e : Tile) : Bool := e.w1.getLsbD 30
def Tile.ety (e : Tile) : ETy := (ETy.ofCode (e.w1.extractLsb' 26 4)).getD .bf16
def Tile.cols (e : Tile) : Nat := bits e.w1 13 13
def Tile.rows (e : Tile) : Nat := bits e.w1 0 13
def Tile.lpitch (e : Tile) : Nat := bits e.w2 48 16
def Tile.hpitch (e : Tile) : Nat := bits e.w2 0 44

/-- Residue formats carry a scale vector (R117). -/
def Tile.residue (e : Tile) : Bool := e.ety == .rn8 || e.ety == .rn4
/-- Bytes of a row. -/
def Tile.rowBytes (e : Tile) : Nat := (e.cols * etyWidth e.ety + 7) / 8
/-- Bytes of the local range with its scale vector (R117). -/
def Tile.span (e : Tile) : Nat := e.rows * e.lpitch + if e.residue then 4 * e.rows else 0

/-- Whether bytes [a, a + n) of the local store meet the range of an entry that is FILLING or DRAINING (R121). -/
def Core.tileBusy (x : Core) (a n : Nat) : Bool :=
  x.tiles.any fun e =>
    (e.2.state == 1 || e.2.state == 3) && !e.2.loc && decide (a < e.2.off + e.2.span) && decide (e.2.off < a + n)

def State.tile (s : State) (c t : Nat) : Tile := (s.core c).tile t
def State.modTile (s : State) (c t : Nat) (f : Tile → Tile) : State := s.modCore c (·.modTile t f)

/-- The record of a logged tile. -/
def recOf (l : Nat × Nat) : Nat := l.1 * 2 ^ 24 + l.2

/-- Sends CLOSE with returned entries, in as many messages as they need (R51, R138). -/
def State.sendClose (s : State) (c r : Nat) (es : List LogEntry) : State :=
  let parts := max 1 ((es.length + entriesPerMsg - 1) / entriesPerMsg)
  (List.range parts).foldl (fun s k =>
    s.ask c (epSlice (s.logHome r)) (.close r c k parts ((es.drop (entriesPerMsg * k)).take entriesPerMsg))) s

/-- An entry reaches EMPTY: a held residency is closed with the entries still logged (R133, R138), and STRM is cleared
for a stream that was given up (R234). -/
def State.tileEmpty (s : State) (c t : Nat) : State :=
  let e := s.tile c t
  let s := match e.logged with
    | some l => s.sendClose c (recOf l) (if (s.tensor l.1).failed then [] else e.log)
    | none => s
  s.modTile c t fun e =>
    let e := (e.setState 0).setLog []
    { e with
      logged := none, logDirty := false, next := 1, serve := 1, job := .none, unsub := false, promoted := false, refilling := false
      w3 := if e.unsub then setBit e.w3 22 false else e.w3 }

/-- The strand's count of tile operations falls (R174). -/
def State.tlcDown (s : State) (c i : Nat) : State := s.modStrand c i fun t => { t with tlc := t.tlc - 1 }

/-- The strand whose TLC a tile's work counts in; a stream push counts in none (R88, R174). -/
def tlcOf (sid : Option Nat) (o : Nat) : Nat := if sid.isSome then 4 + o else o

/-- A FILL, DRAIN, push or write-back ends early: 0 EMPTY or 2 READY once its answers are in (R94, R95, R120). -/
def State.tileStop (s : State) (c t out next origin : Nat) (killed : Bool := false) : State :=
  if out = 0 then
    let s := if next = 0 then s.tileEmpty c t else s.modTile c t fun e => { e.setState 2 with job := .none, w4 := s.timecode }
    s.tlcDown c origin
  else s.modTile c t fun e => { e with job := .ending out next origin killed }

/-! ## Streams (R102, R234) -/

/-- Stops a stream: no new push starts, STRM leaves the ring entries as they reach EMPTY, and the id becomes free once no
push is in progress (R234). -/
def State.streamStop (s : State) (c sid : Nat) : State :=
  match SMap.get? (s.core c).streams sid with
  | none => s
  | some k =>
    if k.ending then s else
    let s := (List.range k.rn).foldl (fun s j => s.modTile c (k.tf + j) fun e =>
      if e.state = 0 then { e with w3 := setBit e.w3 22 false } else { e with unsub := true }) s
    s.modCore c fun x =>
      { x with streams := if k.pushing then SMap.set x.streams sid { k with ending := true } else SMap.erase x.streams sid }

/-- A push of a stream has ended. -/
def State.pushEnded (s : State) (c sid : Nat) : State :=
  match SMap.get? (s.core c).streams sid with
  | none => s
  | some k =>
    s.modCore c fun x =>
      { x with streams := if k.ending then SMap.erase x.streams sid else SMap.set x.streams sid { k with pushing := false } }

/-! ## Ending a strand's work -/

/-- A copy id whose copy a kill has stopped becomes FREE once its acknowledgements are in; `gone` is its messages that were held
for resending and are discarded (R95, R115). -/
def CopyId.stop (e : CopyId) (i gone : Nat) : CopyId :=
  match e.copy with
  | some cp =>
    if cp.strand != i then e
    else if cp.out ≤ gone then .reset
    else { e with copy := some { cp with out := cp.out - gone, stopped := true, killed := true } }
  | none => e

/-- The strand whose work an entry's job is. -/
def TileJob.origin : TileJob → Nat
  | .opening _ o _ | .fill _ _ _ o _ | .drain _ _ _ o _ | .ofill _ _ _ _ _ o | .ending _ _ o _ => o
  | TileJob.none => 4

/-- The messages of a strand's journal entries, accesses, instruction fetches, copies, fills and drains (R115). -/
def Core.whoOf (x : Core) (c i : Nat) : Who → Bool
  | .strand c' i' => c' == c && i' == i
  | .journal c' j => c' == c && (x.jent j).strand == i
  | .copy c' id => c' == c && (match (x.copyId id).copy with | some k => k.strand == i | none => false)
  | .tile c' t _ _ => c' == c && (x.tile t).job.origin % 4 == i && (x.tile t).job != TileJob.none
  | .fetch c' i' _ => c' == c && i' == i
  | .pref c' i' _ _ => c' == c && i' == i
  | _ => false

/-- Who sent a message that may be refused with a ticket. -/
def Body.who : Body → Option Who
  | .mem r => some r.who
  | .copyWr w _ _ _ _ => some w
  | .win w _ _ _ _ => some w
  | .qpush w _ _ _ _ => some w
  | .redc w _ _ _ _ _ _ => some w
  | .logUpd w _ _ => some w
  | .open_ _ c t => some (.tile c t 0 0)
  | .spawn c i _ | .take c i | .tlog c i _ _ | .logt c i _ | .logtRet c i _ => some (.strand c i)
  | _ => none

/-- Whether a sequencer entry is a strand's. -/
def Seqr.withdraw (q : Seqr) (c i : Nat) (sent : Bool) : Seqr :=
  let drop := fun (l : List (Nat × Nat)) => l.filter (· != (c, i))
  { intake := drop q.intake, queue := drop q.queue, holder := if q.holder = some (c, i) && !sent then none else q.holder }

/-- Whether a message is of a strand's access or blocking instruction, or answers it. -/
def Body.isOf (w : Who) : Body → Bool
  | .ans v _ _ _ _ _ => v == w
  | .winAns v _ _ => v == w
  | .tlogAns c i _ | .logtAns c i _ | .spawnAck c i | .takeAns c i _ => w == .strand c i
  | .retry b | .nack b => b.isOf w
  | b => b.who == some w

/-- Whether some message is on its way, kept for resending or waiting at a slice, or some operation at a home. -/
def State.anyOut (s : State) (hit : Msg → Bool) (op : MemReq → Bool) : Bool :=
  s.transit.any hit || s.inbox.any hit || s.held.any (fun h => hit h.msg) ||
    s.home.any (fun e => e.2.ops.any (fun o => op o.req) || (match e.2.busy with | .inval _ l => l.any hit | _ => false)) ||
    s.preqs.any fun e => e.2.waiting.any hit

/-- Whether a strand's access, or a request of one of its instructions, is still on its way or being performed, also where the strand has
been killed. -/
def State.stale (s : State) (c i : Nat) : Bool :=
  let w := Who.strand c i
  s.anyOut (fun m => m.body.isOf w) (fun r => r.who == w) || s.logs.any fun e => e.2.syncs.any fun m => m.1.body.isOf w

/-- A core tells the device sequencer that a ticket is withdrawn, or that its AMO has been performed (R306, R308). -/
def State.endTicket (s : State) (k : ScTicket) : State := s.request k.core epDevSeqr 0 1 0 (.scDone k)

/-- Withdraws a strand's requests at every sequencer (R308); a granted AMO that has been sent stays the holder. -/
def State.withdrawSc (s : State) (c i : Nat) (sent : Bool) : State :=
  let cl := clusterOf c
  let s := match (s.strand c i).scNo with
    | some n => if sent then s else (s.modStrand c i fun t => { t with scNo := none }).endTicket ⟨c, i, n⟩
    | none => s
  let s := if (SMap.get? s.cluSeqrs cl).isSome then
      { s with cluSeqrs := SMap.set s.cluSeqrs cl ((SMap.getD s.cluSeqrs cl .reset).withdraw c i sent) } else s
  s.modCore c fun x => { x with scq := x.scq.filter (fun q => q != (c, i) || sent) }

/-- Takes a strand out of the orders of stalled arrivals of its cluster's nodes (R327). -/
def State.unstall (s : State) (c i : Nat) : State :=
  (clusterCores (clusterOf c)).foldl (fun s k =>
    if (s.core k).stalled.isEmpty then s
    else s.modCore k fun x => { x with stalled := x.stalled.map fun e => (e.1, e.2.filter (· != (c, i))) }) s

/-- Gives up what a strand waits for in its core: slots and accumulators (R124, R288). -/
def Core.unwait (x : Core) (i : Nat) : Core :=
  { x with slotWait := x.slotWait.filter (·.2 != i), accWait := x.accWait.filter (·.2 != i) }

/-- The accumulators of a strand become FREE; their contents stay (R288). -/
def Core.freeAccs (x : Core) (i : Nat) : Core :=
  { x with accs := x.accs.map fun e => if e.2.owner = some i then (e.1, { e.2 with owner := none }) else e }

/-- A strand without a cocoon is parked with the task sequencer, in the order of becoming idle (R362). -/
def State.park (s : State) (c i : Nat) : State :=
  if s.parked.contains (c, i) then s else { s with parked := s.parked ++ [(c, i)] }

/-- Whether a posted RED is still held back behind an earlier one (R309). -/
def Journal.unsent (j : Journal) : Bool := j.heldRed.isSome

/-- The journal when a strand is killed: answers of its SENT entries free them, and nothing is reported (R115). `gone` are
the entries whose messages were held. -/
def Core.killJournal (x : Core) (i : Nat) (gone : List Nat) : Core :=
  { x with journal := (x.journal.filter fun e =>
      !(e.2.strand == i && (e.2.st == .refused || e.2.unsent || gone.contains e.1))).map fun e =>
        if e.2.strand = i then (e.1, { e.2 with strand := 4 }) else e }

/-- Ends the work of tiles and streams that a strand began; `gone t` is the messages of entry t's work that were held for
resending and are discarded (R95, R115, R138). -/
def State.killTiles (s : State) (c i : Nat) (gone : Nat → Nat) : State :=
  (s.core c).tiles.foldl (fun s e =>
    match e.2.job with
    | .opening sid o _ => if o = i then s.tileStop c e.1 (1 - gone e.1) 0 (tlcOf sid i) true else s
    | .fill _ out sid o _ => if o = i then s.tileStop c e.1 (out - gone e.1) 0 (tlcOf sid i) true else s
    | .drain _ out _ o _ => if o = i then s.tileStop c e.1 (out - gone e.1) 2 i true else s
    | .ending out next o _ => if o % 4 = i then s.tileStop c e.1 (out - gone e.1) next o true else s
    | _ => s) s

/-- Counts a cocoon that ended for its launch (R363, R364). -/
def State.countEnded (s : State) (k : Cocoon) : State :=
  match k.queue with
  | none => s
  | some q => s.modQueue q fun x =>
      { x with launch := x.launch.map fun l =>
          { l with ended := l.ended + 1, placedLeft := if (k.img[1]?.getD 0).getLsbD 32 then l.placedLeft - 1 else l.placedLeft } }

/-- Whether a message is an AMO, which always completes at its target once it has been sent (R308). -/
def Body.isAmo : Body → Bool
  | .mem r => match r.op, r.who with | .amo _, .strand _ _ => true | _, _ => false
  | .win _ _ amo _ _ => amo.isSome
  | _ => false

/-- Whether a message kept for resending is a strand's, and is given up with it; an AMO and a fault message are sent on (R115, R308,
R378). -/
def Held.ofStrand (h : Held) (x : Core) (c i : Nat) : Bool :=
  !h.cancel && (match h.msg.body.who with | some w => x.whoOf c i w && !h.msg.body.isAmo | none => false)

/-- Ends the work of a strand under a kill (R95, R115, R288, R308, R381): its cocoon ends FAULTED and the strand is idle. -/
def State.killStrand (s : State) (c i : Nat) : State :=
  let x := s.core c
  let t := x.strand i
  let sent := s.stale c i
  let mine := s.held.filter fun h => h.ofStrand x c i
  let gone := mine.filterMap fun h => match h.msg.body.who with | some (.journal _ j) => some j | _ => none
  let s := { s with held := (s.held.filter fun h => !(mine.contains h && h.msg.ticket == 0)).map fun (h : Held) =>
    if mine.contains h then { h with cancel := true } else h }
  let s := (s.withdrawSc c i sent).unstall c i
  let held := fun (p : Who → Bool) => (mine.filter fun h => match h.msg.body.who with | some w => p w | none => false).length
  let s := s.killTiles c i fun t => held fun w => match w with | .tile _ t' _ _ => t' == t | _ => false
  let s := s.modCore c fun x =>
    let x := ((x.unwait i).freeAccs i).killJournal i gone
    { x with
      fills := x.fills.filter (·.who != some i)
      copies := x.copies.map fun (e : Nat × CopyId) => (e.1, e.2.stop i (held fun w => w == .copy c e.1))
      mxq := x.mxq.filter fun (m : MxOp) => m.strand != i || m.phase != .queued }
  let s := (s.core c).streams.foldl (fun s e => if e.2.origin = i then (s.streamStop c e.1).pushEnded c e.1 else s) s
  let s := match t.cocoon with | some k => s.countEnded k | none => s
  let s := s.modStrand c i fun t =>
    { t with run := if t.run = .fenced || t.run = .halted then t.run else .idle, cocoon := none, wait := .no, fault := none, retry := [],
             window := false, ldc := 0, stc := 0, cpc := 0, tlc := 0, rsc := 0, preempting := false, saved := false,
             rangeStop := false, entry := none, midway := false, ended := t.run = .halted
             left := match t.cocoon with
               | some k => some (k.img.setIfInBounds 1 (putBits (k.img[1]?.getD 0) 36 3 4))
               | none => t.left }
  if (s.strand c i).run == RunState.idle then s.park c i else s

/-- Placed cocoons of a launch that wait at a core end FAULTED (R363). -/
def State.dropPlaced (s : State) (c q : Nat) : State :=
  let x := s.core c
  let mine := (x.placed ++ x.heldPlaced).filter fun k => k.queue == some q
  let s := mine.foldl (fun s k => s.countEnded k) s
  if mine.isEmpty then s
  else s.modCore c fun x =>
    { x with placed := x.placed.filter fun k => k.queue != some q, heldPlaced := x.heldPlaced.filter fun k => k.queue != some q }

/-- Every cocoon of a launch on a core ends FAULTED. -/
def State.killCore (s : State) (c q : Nat) : State :=
  (List.range 4).foldl (fun s i =>
    if ((s.strand c i).cocoon.bind (·.queue)) = some q then s.killStrand c i else s) (s.dropPlaced c q)

/-- The saved strands of a launch end FAULTED. -/
def State.dropImages (s : State) (q : Nat) : State :=
  let mine := fun (m : StrandImage) => (m.strand.cocoon.bind (·.queue)) == some q
  let s := ((s.strandImages ++ s.migrated).filter mine).foldl (fun s m =>
    match m.strand.cocoon with | some k => s.countEnded k | none => s) s
  { s with strandImages := s.strandImages.filter fun m => !mine m, migrated := s.migrated.filter fun m => !mine m }

/-- The kill of a launch: its cocoons end on every core. -/
def State.killLaunch (s : State) (q : Nat) : State := (s.dropImages q).cores.foldl (fun s e => s.killCore e.1 q) (s.dropImages q)

/-- Ends a launch with a status and a cause (R370, R381). -/
def State.endLaunch (s : State) (q stat cause : Nat) : State :=
  (s.modQueue q fun x =>
    { x with launch := x.launch.map fun l => if l.stat = 0 then { l with stat, cause } else l }).killLaunch q

/-- A cause of a strand ends a launch with STAT FAULT. The launch is killed when the tick ends, and of several such causes in the tick the one
of the lowest core, and then of the lowest strand, is recorded (R381, R382). -/
def State.failLaunch (s : State) (c i q cause : Nat) : State :=
  s.modQueue q fun x =>
    { x with launch := x.launch.map fun l =>
        if l.stat = 0 || (l.killDue && decide (4 * c + i < l.causeBy)) then { l with stat := 1, cause, causeBy := 4 * c + i, killDue := true }
        else l }

/-- At the end of a tick the launches that a cause has ended are killed (R382). -/
def State.killsDue (s : State) : State :=
  s.queues.foldl (fun s e =>
    if e.2.launch.any (·.killDue) then
      (s.modQueue e.1 fun x => { x with launch := x.launch.map fun l => { l with killDue := false } }).killLaunch e.1
    else s) s

/-! ## Fault messages (R377, R378) -/

/-- The number of the core that SVC_XYZ names. -/
def svcCore (svc : W64) : Nat := coreNum (bits svc 0 5) (bits svc 5 5) (bits svc 10 4)

/-- The 64 bytes of a fault message. -/
def faultBytes (addr : W64) (asid : BitVec 16) (kind acc core src tag : Nat) (tcode pc : W64) : BitVec 512 :=
  BitVec.ofNat 512 (addr.toNat + 2 ^ 64 * (asid.toNat + 2 ^ 16 * (kind + 2 ^ 8 * (acc + 2 ^ 8 * (core + 2 ^ 16 * (src +
    2 ^ 8 * (tag + 2 ^ 8 * (tcode.toNat + 2 ^ 64 * pc.toNat))))))))

/-- The code of an access type. -/
def accCode : AccTy → Nat
  | .load => 0 | .store => 1 | .atomic => 2 | .fetch => 3 | .copy => 4 | .loader => 5 | .storer => 6 | .spill => 7

/-- Whether a core can take messages: it is live and its cluster is not dark (R23, R378). -/
def State.reachable (s : State) (c : Nat) : Bool := s.live c && !(s.core c).dark

/-- Pushes a fault message to the service core, with the next tag of the sending core. -/
def State.sendFault (s : State) (c : Nat) (svc addr : W64) (asid : BitVec 16) (kind acc src : Nat) (pc : W64) : State :=
  let tag := (s.core c).faultTag
  let s := s.modCore c fun x => { x with faultTag := x.faultTag + 1 }
  s.request c (svcCore svc) 0 2 0
    (.faultMsg (svcCore svc) (faultBytes addr asid kind acc c src tag.toNat s.timecode pc))

/-! ## Containment (R323, R381, R382) -/

/-- The cluster box of a barrier group's word (R325), in the bytes of a partition box. -/
def groupBox (w : W64) : W64 :=
  BitVec.ofNat 64 (bits w 0 4 + 2 ^ 8 * (bits w 4 4 + 2 ^ 8 * (bits w 8 3 + 2 ^ 8 * (bits w 11 4 + 1 +
    2 ^ 8 * (bits w 15 4 + 1 + 2 ^ 8 * (bits w 19 3 + 1))))))
def groupLvl (w : W64) : Nat := bits w 27 3

/-- The cores of the unit of a level around a core, when the level carves one (R323). -/
def State.unit (s : State) (c l : Nat) : Option (List Nat) :=
  match l with
  | 0 | 1 => some [c]
  | 2 => some (clusterCores (clusterOf c))
  | l => s.barGroups.findSome? fun e =>
      if groupLvl e.2.word = l && boxHasCluster (groupBox e.2.word) (clusterOf c) then
        some (clusterBoxCores (groupBox e.2.word))
      else none

/-- Kills a unit: every cocoon of the launch on its cores ends FAULTED; at level 0 the strand's own (R381). -/
def State.killUnit (s : State) (c i l : Nat) (q : Option Nat) (cores : List Nat) : State :=
  if l = 0 then s.killStrand c i
  else
    match q with
    | none => s.killStrand c i
    | some q => cores.foldl (fun s k => if (SMap.get? s.cores k).isNone then s else s.killCore k q) s

/-- The cause passes level 7, or no level above carves a unit: the launch ends. A strand that runs for no launch ends
its work (DEDUCED, assumption log 11). -/
def State.passOut (s : State) (c i : Nat) (q : Option Nat) (num : Nat) : State :=
  match q with
  | some q => (s.failLaunch c i q num).killStrand c i
  | none => s.killStrand c i

/-- What a policy level decides: pass, absorb (with the strand going on), or kill the unit of a level. -/
inductive Verdict where
  | ignore | retry | kill (l : Nat) (cores : List Nat) | out
  deriving DecidableEq, Repr

/-- Consults the levels from `l` upward (R381). `fuel` is the number of levels left. -/
def State.consult (s : State) (c : Nat) (cpol : Nat) (async again : Bool) : Nat → Nat → Verdict
  | 0, _ => .out
  | k + 1, l =>
    match s.unit c l with
    | none => State.consult s c cpol async again k (l + 1)
    | some cores =>
      match cpol / 4 ^ l % 4 with
      | 0 => if async then .ignore else State.consult s c cpol async again k (l + 1)
      | 1 => if async || again then State.consult s c cpol async again k (l + 1) else .retry
      | 2 => .kill l cores
      | _ =>
        match (List.range 8).find? fun m => decide (l < m) && (s.unit c m).isSome with
        | some m => .kill m ((s.unit c m).getD [])
        | none => .out

/-- The launch that a strand works for. -/
def State.launchOf (s : State) (t : Strand) : Option (Nat × Launch) :=
  match t.cocoon.bind (·.queue) with
  | some q => (s.queue q).launch.map fun l => (q, l)
  | none => none

def Launch.cpol (l : Launch) : Nat := bits (l.record[8]?.getD 0) 0 16
def Launch.flags (l : Launch) : Nat := bits (l.record[1]?.getD 0) 32 32
def Launch.gstop (l : Launch) : Bool := l.flags / 4 % 2 == 1

/-- A cause at containment, from level `l0` (R381, R382). `entered` says that a handler was entered for it. An asynchronous cause for which
none was leaves the strand in what it does. -/
def State.contain (s : State) (c i num : Nat) (async entered : Bool) (l0 : Nat) : State :=
  let t := s.strand c i
  let q := t.cocoon.bind (·.queue)
  let at_ := if entered then t.epc else t.pc
  let resume := fun (t : Strand) => if entered then (t.revert).jump t.epc else if async then t else { t with wait := .no }
  let again := t.retry.contains (num, at_)
  match s.launchOf t with
  | none => s.passOut c i q num
  | some (n, l) =>
    if l.gstop then (s.failLaunch c i n num).killStrand c i
    else
      match s.consult c l.cpol async again (8 - l0) l0 with
      | .ignore => s.modStrand c i resume
      | .retry => s.modStrand c i fun t => { resume t with retry := (num, at_) :: t.retry }
      | .kill l cores => s.killUnit c i l q cores
      | .out => s.passOut c i q num

/-! ## Taking an exception -/

/-- Fences a core: it leaves every partition until the next boot, and the management plane is told (R370). -/
def State.fence (s : State) (c : Nat) : State :=
  let s := s.modCore c fun x =>
    { x with fenced := true, preempt := none, ctx := none, strands := x.strands.map fun t => { t with run := if t.run = .halted then .halted else .fenced } }
  { s with fencedCount := s.fencedCount + 1, saves := SMap.erase s.saves c }.report 2 c

/-- A fault in the handler window (R384). `num` is 0 for a translation fault. -/
def State.doubleFault (s : State) (c i num : Nat) (via : Via) (addr : W64) : State :=
  let s := s.modStrand c i fun t => { t with dfCause := BitVec.ofNat 64 (256 + num), run := .halted, wait := .no }
  let t := s.strand c i
  let acc := if via = .fetch then 3 else 0
  let s := s.sendFault c t.svcXyz addr (t.asid.setWidth 16) 0 acc i handlerPc
  (s.contain c i cDoubleFault false false 1).fence c

/-- Takes a cause on a strand: the ONE entry of every trap and interrupt (R168, R373, R374, R384). With RES = 0 the cause
goes straight to containment. -/
def State.takeTrap (s : State) (c i : Nat) (x : Cause) (epc : W64) (via : Via) : State :=
  let t := s.strand c i
  if t.window && !x.async && via != .instr then s.doubleFault c i x.num via x.bad
  else if (s.core c).res then s.modStrand c i (·.enter x epc)
  else s.contain c i x.num x.async false 0

/-- An exact trap at a strand's present instruction (R373). -/
def State.raiseAt (s : State) (c i num : Nat) (bad : W64) (via : Via) : State :=
  s.takeTrap c i { num, bad } (s.strand c i).pc via

/-- An exact trap of the strand whose turn it is. -/
def State.raise (s : State) (num : Nat) (bad : W64) (via : Via) : State := s.raiseAt s.cur.1 s.cur.2 num bad via

/-- A cause of the present instruction that concerns no address: BADADDR gets its PC (R372). -/
def State.raisePc (s : State) (num : Nat) : State := s.raise num s.me.pc .instr

/-- A cause whose BADADDR is 0 (R372). -/
def State.raise0 (s : State) (num : Nat) : State := s.raise num 0 .instr

/-- A cause of an access at an address. -/
def State.raiseAcc (s : State) (num : Nat) (bad : W64) : State := s.raise num bad .access

/-- A pending bit of a strand is set (R374). -/
def State.pendBit (s : State) (c i b : Nat) : State :=
  s.modStrand c i fun t => { t with pend := setBit t.pend b true, behind := t.behind ||| ((1 : BitVec 8) <<< b) }

/-! ## Retiring (R185, R197, R381, R385) -/

/-- An instruction of a strand retires and the PC goes on to `pc`: the consumed descriptor is dropped and a spent retry
ends. -/
def Strand.retired (t : Strand) (pc : W64) : Strand :=
  { t with
    status := setBit t.status 5 false
    retry := t.retry.filter (·.2 != t.pc)
    pc, wait := .no, join4 := [], entered := false, midway := false, noPage := none }

/-- With SSTEP and IE, the strand takes STEP once an instruction has retired (R385). -/
def State.stepTrap (s : State) (c i : Nat) : State :=
  let t := s.strand c i
  if t.sstep && t.ie then s.takeTrap c i { num := cStep, bad := 0 } t.pc .instr else s

/-- Retires an instruction of a strand with a new PC. -/
def State.retireTo (s : State) (c i : Nat) (pc : W64) : State := (s.modStrand c i (·.retired pc)).stepTrap c i

/-- Retires to the next PC of sequential flow, with the group it may join there (R183). -/
def State.retireAt (s : State) (c i : Nat) : State :=
  (s.modStrand c i fun t => { t.retired (pcNext t.pc) with join4 := s.joinOf c i }).stepTrap c i

/-- Retires the instruction of the strand whose turn it is. -/
def State.retire (s : State) : State := s.retireAt s.cur.1 s.cur.2

/-- Applies a change to the strand whose turn it is, and retires. -/
def State.finish (s : State) (f : Strand → Strand) : State := (s.modMe f).retire

/-- Retires, and then applies a change that the end of a pending prefix must not undo. -/
def State.finishLate (s : State) (f : Strand → Strand) : State :=
  let c := s.cur.1
  let i := s.cur.2
  (s.modStrand c i fun t => f { t.retired (pcNext t.pc) with join4 := s.joinOf c i }).stepTrap c i

/-- The instruction cannot go on yet: it is issued again on a later turn, and no boundary is reached meanwhile (R262). -/
def State.stall (s : State) : State := s.modMe fun t => { t with midway := true }

/-- The instruction cannot go on yet and holds interrupts off (R379). -/
def State.hold (s : State) : State := s.modMe fun t => { t with wait := .hold }

/-- The strand blocks in its instruction until another agent's step. -/
def State.block (s : State) (w : Wait) : State := s.modMe fun t => { t with wait := w }

/-! ## What every instruction begins with (R155, R189, R194, R197) -/

/-- No predicate: a lane-wise instruction takes the predicate of each lane itself (R190, R211). -/
def noPred : Pred := ⟨0, false⟩

/-- Steps 3 and 4 of R194 and the predicate, then the instruction's own checks and effect. -/
def State.begin_ (s : State) (px : PxSpec) (privileged : Bool) (p : Pred) (body : Desc → State) : State :=
  let t := s.me
  let w : W32 := t.pxv.setWidth 32
  if t.px && !px.takes then s.raisePc cIllegalPrefix
  else if t.px && descReserved w then s.raisePc cIllegalEncoding
  else if t.px && !px.accepts (.ofWord w) then s.raisePc cIllegalPrefix
  else if privileged && !t.prv then s.raisePc cPrivilege
  else if !t.predOn p then s.retire
  else body t.desc

end Sys2Proof.Machine
end

