-- ==== Sys2Proof/Machine/Access.lean ====
section
/-!
DEFINITION. Accesses of the cores: generic addresses (R24 to R29), bank and tile rules (R105, R106, R110, R121),
translation (R35 to R44), the first-level cache (R107, R108), the pieces of an access and its answers (R210 to R216), and
instruction fetch with the check of a transfer's target (R176 to R180).
Readings: DESIGN CHOICE, assumption log 9; DEDUCED, assumption log 16, 25.
-/

namespace Sys2Proof.Machine

/-! ## The bytes of a running ADRN (R298) -/

/-- Writes bytes into the local store. -/
def putBytes (ls : Memory) (l : List (Nat × Nat)) : Memory := l.foldl (fun ls b => ls.writeNum b.1 1 b.2) ls

/-- The local store as a strand's load or an ALD finds it: each byte that a running ADRN writes has its old or its new value, and
the choice is free (R298). -/
def State.lsView (s : State) (c : Nat) : State × Memory :=
  let x := s.core c
  let l := x.mxq.flatMap (·.bytes)
  if l.isEmpty then (s, x.ls)
  else ({ s with draws := s.draws + l.length },
    putBytes x.ls (((List.range l.length).zip l).filterMap fun b => if Config.overlapReadsOld (s.draws + b.1) then none else some b.2))

/-! ## Generic addresses (R24, R27) -/

/-- The place a generic address names. GLOBAL and STACK carry the virtual address that is translated. -/
inductive Place where
  | loc (off : Nat)
  | win (core off : Nat)
  | glob (va : Nat)
  | stack (va : Nat)
  deriving DecidableEq, Repr

/-- R24, with the backing check of R27; none where the address is in no aperture. -/
def decodeAddr (stkb a : W64) : Option Place :=
  let n := a.toNat
  let top := n / 2 ^ 56
  if top = 0xFF && n / 2 ^ 24 % 2 ^ 32 = 0 then
    let back := bits stkb 16 40 * 65536 + n % 2 ^ 24
    if 0x100000000 ≤ back && back < 2 ^ 56 then some (.stack back) else none
  else if top = 0xFE && n / 2 ^ 33 % 2 ^ 23 = 0 && n / 2 ^ 24 % 32 < 24 then
    some (.win (coreNum (n / 2 ^ 19 % 32) (n / 2 ^ 24 % 32) (n / 2 ^ 29 % 16)) (n % 2 ^ 19))
  else if top = 0 && n < 0x80000 then some (.loc n)
  else if top = 0 && 0x100000000 ≤ n then some (.glob n)
  else none

/-- Whether two places lie in one aperture and, for WINDOW, at one core (R25). -/
def samePlace : Place → Place → Bool
  | .loc _, .loc _ => true
  | .win c _, .win k _ => c == k
  | .glob _, .glob _ => true
  | .stack _, .stack _ => true
  | _, _ => false

/-- Bytes from an address, which has a place, to the end of its aperture or of its core's part of WINDOW (R24, R27). -/
def bytesLeft (a : W64) : Place → Nat
  | .loc off | .win _ off => 2 ^ 19 - off
  | .glob va => 2 ^ 56 - va
  | .stack back => min (2 ^ 24 - a.toNat % 2 ^ 24) (2 ^ 56 - back)

/-- The lowest address that fails of a range that starts in a place and leaves it (R25). -/
def firstBad (a : W64) (p : Place) : W64 := a + BitVec.ofNat 64 (bytesLeft a p)

/-- An access of n bytes by its first and last byte (R25): the place of the first, or the lowest address that fails. -/
def decodeSpan (stkb a : W64) (n : Nat) : Except W64 Place :=
  match decodeAddr stkb a with
  | none => .error a
  | some p =>
    match decodeAddr stkb (a + BitVec.ofNat 64 (n - 1)) with
    | none => .error (firstBad a p)
    | some q => if samePlace p q then .ok p else .error (firstBad a p)

/-! ## Bank and tile rules -/

/-- Whether a user-mode strand reaches a resident bank 63 in a range (R110). -/
def Core.reserved (x : Core) (a n : Nat) (prv : Bool) : Bool := x.res && !prv && decide (516096 < a + n)

/-- Why the core's own strand may not reach bytes of its local store (R105, R110, R121). -/
def Core.localRefusal (x : Core) (off n : Nat) (prv : Bool) : Option Nat :=
  let b := off / 8192
  let e := (off + n - 1) / 8192
  if (List.range (e + 1 - b)).any fun k => x.mode (b + k) != 0 then some cBankMode
  else if e = 63 && x.res && !prv then some cProtection
  else if x.tileBusy off n then some cTileState
  else none

/-- Why a WINDOW access from another core is refused: reason BANK, PROT, TILE or DARK of R376 (R29, R105, R106, R121). -/
def State.windowRefusal (s : State) (c off n : Nat) (prv : Bool) : Option Nat :=
  let x := s.core c
  if x.dark then some 6
  else match x.localRefusal off n prv with
    | none => none
    | some k => some (if k = cBankMode then 1 else if k = cProtection then 2 else 3)

/-- The cause that a refusal reason raises at a strand that waits for its answer (R29, R31, R105, R106, R121). -/
def reasonCause (reason : Nat) : Nat :=
  if reason = 1 then cBankMode else if reason = 2 then cProtection else if reason = 3 then cTileState
  else if reason = 4 then cMemPoison else cAperture

/-! ## Checked targets (R210) -/

/-- A target whose address checks have passed; translation is still to come for `glob`. -/
inductive Tgt where
  | loc (off : Nat)
  | win (core off : Nat)
  | glob (va : Nat)
  deriving DecidableEq, Repr

/-- Aperture, liveness, bank and tile checks of R210 on n bytes at an address; the cause and BADADDR where one fails. -/
def State.target (s : State) (c : Nat) (stkb a : W64) (n : Nat) (prv : Bool) : Except (Nat × W64) Tgt :=
  match decodeSpan stkb a n with
  | .error b => .error (cAperture, b)
  | .ok (.loc off) =>
    match (s.core c).localRefusal off n prv with
    | some k => .error (k, a)
    | none => .ok (.loc off)
  | .ok (.win k off) =>
    if k = c then
      match (s.core c).localRefusal off n prv with
      | some k => .error (k, a)
      | none => .ok (.loc off)
    else if s.live k then .ok (.win k off) else .error (cAperture, a)
  | .ok (.glob va) | .ok (.stack va) => if s.ptsh = 0 then .error (cAperture, a) else .ok (.glob va)

/-! ## Translation (R35 to R38) -/

def pageShift (sz : Nat) : Nat := if sz = 0 then 16 else if sz = 1 then 21 else 30

/-- The physical byte address of the bucket that a probe reads (R37). -/
def State.bucketAddr (s : State) (asid : BitVec 16) (sz vpn : Nat) : Nat :=
  let x : W64 := BitVec.ofNat 64 vpn ^^^ (asid.setWidth 64 <<< 40) ^^^ (BitVec.ofNat 64 sz <<< 58)
  let x := x * 0x9E3779B97F4A7C15
  let x := x ^^^ (x >>> 31)
  let shard := bits x 48 16 * 1536 / 65536
  s.ptb * 2 ^ 24 + (shard * 2 ^ s.ptsh + x.toNat % 2 ^ s.ptsh) * 128

/-- Entry `e` of a bucket (R36). -/
def bucketEntry (d : W1024) (e : Nat) : BitVec 128 := d.extractLsb' (128 * e) 128

/-- Whether an entry matches a probe (R38). -/
def entryMatches (e : BitVec 128) (asid : BitVec 16) (sz vpn : Nat) : Bool :=
  e.getLsbD 69 && (e.extractLsb' 70 2).toNat == sz && e.extractLsb' 72 16 == asid &&
    (e.extractLsb' 88 40).toNat / 2 ^ (pageShift sz - 16) == vpn

/-- The lowest-numbered matching entry of a bucket. -/
def bucketMatch (d : W1024) (asid : BitVec 16) (sz vpn : Nat) : Option (BitVec 128) :=
  ((List.range 8).map (bucketEntry d)).find? fun e => entryMatches e asid sz vpn

/-- Malformed entries (R36). -/
def entryMalformed (e : BitVec 128) : Bool :=
  let sz := (e.extractLsb' 70 2).toNat
  let low := if sz = 1 then 32 else if sz = 2 then 16384 else 1
  e.extractLsb' 40 22 != 0 || e.extractLsb' 0 16 != 0 || decide (2 ≤ (e.extractLsb' 62 2).toNat) ||
    (e.extractLsb' 88 40).toNat % low != 0 || (e.extractLsb' 16 24).toNat % low != 0

/-- The page that an entry maps. -/
def entryPage (e : BitVec 128) : Page where
  sz := (e.extractLsb' 70 2).toNat
  ppn := (e.extractLsb' 16 24).toNat
  rd := e.getLsbD 68
  wr := e.getLsbD 67
  ex := e.getLsbD 66
  usr := e.getLsbD 65
  loc := e.getLsbD 64
  cp := (e.extractLsb' 62 2).toNat

/-- Fault kinds of a walk (R38, R377). -/
def kNomap : Nat := 0
def kFormat : Nat := 1
def kPoison : Nat := 2
def kPerm : Nat := 3

/-- The classification of the three probes before the permission row (R38): the page, or a fault kind. -/
def classify (ans : List ProbeAns) (asid : BitVec 16) (va : Nat) : Nat → Except Nat Page
  | sz =>
    match ans with
    | [] => .error kNomap
    | .poison :: _ => .error kPoison
    | .none :: rest => classify rest asid va (sz + 1)
    | .bucket d :: rest =>
      match bucketMatch d asid sz (va / 2 ^ pageShift sz) with
      | some e => if entryMalformed e then .error kFormat else .ok (entryPage e)
      | none => classify rest asid va (sz + 1)

/-- Physical address of a virtual one in a page. -/
def pageAddr (p : Page) (va : Nat) : Nat := p.ppn * 65536 + va % 2 ^ pageShift p.sz

/-- What an access needs of a page. -/
structure Need where
  rd : Bool
  wr : Bool
  ex : Bool
  prv : Bool
  deriving DecidableEq, Repr

def Need.load (prv : Bool) : Need := ⟨true, false, false, prv⟩
def Need.store (prv : Bool) : Need := ⟨false, true, false, prv⟩
def Need.amo (prv : Bool) : Need := ⟨true, true, false, prv⟩
def Need.fetch (prv : Bool) : Need := ⟨false, false, true, prv⟩

/-- The permission check (R36, R38). -/
def Page.permits (p : Page) (n : Need) : Bool :=
  (!n.rd || p.rd) && (!n.wr || p.wr) && (!n.ex || p.ex) && (n.prv || p.usr)

/-- Whether a TLB entry covers an address of an ASID. -/
def TlbEntry.covers (e : TlbEntry) (asid : BitVec 16) (va : Nat) : Bool :=
  e.asid == asid && e.vpn == va / 2 ^ pageShift e.page.sz

/-- The translation that the TLBs hold, of the smallest page where several cover the address (R40; DESIGN CHOICE, assumption log 55: R38
states this for the walk alone). -/
def Core.tlbFind (x : Core) (asid : BitVec 16) (va : Nat) : Option Page :=
  let l := (x.tlb1 ++ x.tlb2).filter (·.covers asid va)
  ((l.find? (·.page.sz == 0)) <|> (l.find? (·.page.sz == 1)) <|> (l.find? (·.page.sz == 2))).map (·.page)

/-- Puts an entry into a TLB of a size; a victim that no program can see leaves a full one (R40). -/
def tlbPut (cap seed : Nat) (l : List TlbEntry) (e : TlbEntry) : List TlbEntry :=
  let l := l.filter (· != e)
  if l.length < cap then e :: l else e :: l.eraseIdx (Config.tlbVictim seed % cap)

/-- A fill enters both levels (R40). -/
def Core.tlbFill (x : Core) (seed : Nat) (e : TlbEntry) : Core :=
  { x with tlb1 := tlbPut 64 seed x.tlb1 e, tlb2 := tlbPut 1024 seed x.tlb2 e }

/-- The cause a fault kind maps to (R377). -/
def kindCause (kind : Nat) : Nat := if kind = kPoison then cMemPoison else if kind = kPerm then cProtection else cAperture

/-- Begins a walk: three probes at the homes of their buckets (R38, R39). -/
def State.startWalk (s : State) (c : Nat) (w : Walk) : State :=
  let w := { w with wid := s.uid }
  let s := s.modCore c fun x => { x with walks := x.walks ++ [w] }
  [0, 1, 2].foldl (fun s sz =>
    let ln := physLine (s.bucketAddr w.asid sz (w.va / 2 ^ pageShift sz))
    s.ask c (epSlice (s.homeOf ln)) (.mem (.plain .read ln (.walk c w.wid sz) (some w.asid)))) s

/-- A walk of a strand for an access; the strand blocks (R41). -/
def State.walkStrand (s : State) (c i va : Nat) (bad : W64) (acc : AccTy) (n : Need) (quiet : Bool := false) : State :=
  let t := s.strand c i
  let s := s.startWalk c
    { wid := 0, who := .strand i, strand := i, gen := t.gen, asid := t.asid.setWidth 16, va, bad, acc, rd := n.rd, wr := n.wr
      ex := n.ex, priv := n.prv, pc := t.pc, quiet }
  s.modStrand c i fun t => { t with wait := .walk }

/-- Translates for an instruction that never faults on its address (R217 to R219): none where the walk ends in a fault kind, or the state
in which the strand waits for the walk (DEDUCED, assumption log 25). -/
def State.quietXlate (s : State) (c i va : Nat) (n : Need) : Except State (Option Page) :=
  match (s.core c).tlbFind ((s.strand c i).asid.setWidth 16) va with
  | some p => .ok (if p.permits n then some p else none)
  | none =>
    if s.ptsh = 0 || (s.strand c i).noPage = some va then .ok none
    else .error (s.walkStrand c i va (BitVec.ofNat 64 va) .load n true)

/-- The physical line that such an instruction names, with its page. -/
def State.quietLine (s : State) (c i : Nat) (a : W64) : Except State (Option (Nat × Page)) :=
  match decodeAddr (s.strand c i).stkb a with
  | some (.glob va) | some (.stack va) =>
    match s.quietXlate c i va (.load (s.strand c i).prv) with
    | .error s => .error s
    | .ok p => .ok (p.map fun p => (pageAddr p va / 128, p))
  | _ => .ok none

/-- A strand's access meets a fault kind: the double fault of R384, the fault message of R41 and R377, or the mapped cause
at once where no service core can be reached (R378). A second fault of the strand waits until the first has been answered, and its access
then restarts from its lookup (R377). -/
def State.strandFault (s : State) (c i kind va : Nat) (bad : W64) (acc : AccTy) : State :=
  let t := s.strand c i
  if t.window then s.doubleFault c i 0 (if acc = .fetch then .fetch else .access) (BitVec.ofNat 64 va)
  else if t.fault.isSome then s.modStrand c i fun t => { t with wait := .walk }
  else if !s.reachable (svcCore t.svcXyz) then
    (s.modStrand c i fun t => { t with wait := .no }).raiseAt c i (kindCause kind) bad .access
  else
    let f : FaultOut := { tag := (s.core c).faultTag, kind, addr := BitVec.ofNat 64 va, bad, src := 0, idx := 0 }
    let s := s.sendFault c t.svcXyz f.addr (t.asid.setWidth 16) kind (accCode acc) i t.pc
    s.modStrand c i fun t => { t with fault := some f, wait := .walk }

/-- Outcome of translating for a strand: a page, or the state in which it waits. -/
inductive Xl where
  | page (p : Page)
  | busy (s : State)

/-- Translation of one address for a strand's access (R38, R41). -/
def State.xlate (s : State) (c i va : Nat) (bad : W64) (acc : AccTy) (n : Need) : Xl :=
  match (s.core c).tlbFind ((s.strand c i).asid.setWidth 16) va with
  | none => .busy (s.walkStrand c i va bad acc n)
  | some p => if p.permits n then .page p else .busy (s.strandFault c i kPerm va bad acc)

/-! ## The first-level cache (R107, R108) -/

def Core.l1Find (x : Core) (ln : Nat) : Option L1Line := x.l1.find? (·.line == ln)
def Core.l1Drop (x : Core) (ln : Nat) : Core := { x with l1 := x.l1.filter (·.line != ln) }
/-- A load hit makes its line the most recently used. -/
def Core.l1Touch (x : Core) (ln : Nat) : Core :=
  { x with stamp := x.stamp + 1, l1 := x.l1.map fun e => if e.line = ln then { e with stamp := x.stamp + 1 } else e }

/-- Whether a bank that some bytes of the local store lie in is changing its mode: its new accesses stall (R109). -/
def Core.changing (x : Core) (off n : Nat) : Bool :=
  x.strands.toList.any fun t => match t.wait with
    | .bmode b _ => decide (off / 8192 ≤ b) && decide (b ≤ (off + n - 1) / 8192)
    | _ => false

/-- A load that misses allocates its line: in a free way of its set, or over the least recently used (R107). A bank that is changing its
mode is given no new line (R109; DESIGN CHOICE, assumption log 55). -/
def Core.l1Put (x : Core) (ln : Nat) (d : W1024) : Core :=
  let set := ln % 64
  let x := x.l1Drop ln
  let used := x.l1.filter (·.set == set)
  match x.ways.find? fun w => !(used.any (·.way == w)) && !x.changing (8192 * w) 1 with
  | some way => { x with stamp := x.stamp + 1, l1 := { way, set, line := ln, data := d, stamp := x.stamp + 1 } :: x.l1 }
  | none =>
    match (used.filter fun e => !x.changing (8192 * e.way) 1).foldl (fun (m : Option L1Line) e => match m with
        | none => some e
        | some b => if e.stamp < b.stamp then some e else some b) none with
    | none => x
    | some v =>
      { x with stamp := x.stamp + 1
               l1 := { v with line := ln, data := d, stamp := x.stamp + 1 } :: x.l1.filter (fun e => e.way != v.way || e.set != set) }

/-- A store updates a line it hits and does not allocate. It leaves the line's place in the order of use, as only a load's hit changes it
(R107; DESIGN CHOICE, assumption log 55). -/
def Core.l1Write (x : Core) (ln : Nat) (d : W1024) (mask : BitVec 128) : Core :=
  { x with l1 := x.l1.map fun e => if e.line = ln then { e with data := merge e.data d mask } else e }

/-- The first-level cache invalidated: no line stays, and no fill on its way brings one back (R108, R213, R218, R237). -/
def Core.l1Clear (x : Core) : Core := { x with l1 := [], fills := [] }

/-- The acquire of a scope: at DEV and SYS every first-level line of the core is invalidated (R213, R317). -/
def State.acquire (s : State) (c : Nat) (scope : Scope) : State :=
  match scope with
  | .dev | .sys => s.modCore c (·.l1Clear)
  | _ => s

/-- The waits of a release (R213, R316): no counted operation is outstanding and, at SYS, no store to host memory. -/
def State.released (s : State) (c i : Nat) (scope : Scope) : Bool :=
  let t := s.strand c i
  t.ldc == 0 && t.stc == 0 && t.rsc == 0 && (scope != .sys || SMap.getD s.hostOut (4 * c + i) 0 == 0)

/-! ## Pieces of an access (R211, R214) -/

/-- Whether two pieces touch a common byte; the mask of a piece in a window counts from its first byte. -/
def Piece.overlaps (p q : Piece) : Bool :=
  p.win == q.win && p.host == q.host && p.place == q.place &&
    (if !p.win then (p.mask &&& q.mask) != 0
     else if p.off ≤ q.off then ((p.mask >>> (q.off - p.off)) &&& q.mask) != 0
     else ((q.mask >>> (p.off - q.off)) &&& p.mask) != 0)

/-- Whether a piece overlaps an unacknowledged posted operation of the strand (R212, R308). -/
def Core.postedOverlap (x : Core) (i : Nat) (p : Piece) : Bool :=
  x.journal.any fun e => e.2.st == .sent && e.2.strand == i && (match e.2.piece with | some q => q.overlaps p | none => false)

/-- Whether a request of a core's strands writes a line of the device. -/
def MemReq.writesLine (c ln : Nat) (r : MemReq) : Bool :=
  r.line == ln && (match r.who with | .strand c' _ => c' == c | _ => false) && (match r.op with | .write | .amo _ => true | _ => false)

def Body.writesLine (c ln : Nat) : Body → Bool
  | .mem r | .ans _ _ _ _ _ r => r.writesLine c ln
  | .retry b | .nack b => b.writesLine c ln
  | _ => false

/-- Whether a store, an atomic or a posted operation of the core to a line is not yet performed: a fill of the line waits for it (R107,
R313, R314). -/
def State.writePending (s : State) (c ln : Nat) : Bool :=
  ((s.core c).journal.any fun e => e.2.st == .sent && (match e.2.piece with
    | some p => !p.win && !p.host && p.place == ln
    | none => false)) ||
  s.anyOut (fun m => m.dest != epHost && m.src != epHost && m.body.writesLine c ln) fun r => r.writesLine c ln

/-- A store of the core to a line, or a CINV that covers it: a fill of the line that is on its way no longer allocates it
(R107, R218). -/
def Core.noFill (x : Core) (ln : Nat) : Core := { x with fills := x.fills.filter (·.line != ln) }

/-- Whether a fill of a line that may allocate it is on its way; the core has one at a time, so that no older value follows a
newer one into its first-level cache (R314). -/
def Core.filling (x : Core) (ln : Nat) : Bool := x.fills.any (·.line == ln)

/-- Whether a piece hits a first-level line in a bank that is changing its mode: it stalls until the change is complete (R109). -/
def Core.lineHeld (x : Core) (p : Piece) : Bool :=
  !p.win && !p.host && (x.l1Find p.place).any fun h => x.changing (8192 * h.way) 1

/-- One lane of an access: its number and address. -/
abbrev Lane := Nat × W64

/-- Where a checked and translated lane goes. -/
inductive Spot where
  | loc (off : Nat)
  | win (core off : Nat)
  | mem (pa : Nat) (host cached : Bool)
  deriving DecidableEq, Repr

/-- The outcome of checking the lanes of an access. -/
inductive Checked where
  | ok (l : List (Lane × Spot))
  | stop (s : State)

/-- The LOCAL offset of bytes that lie in the core's own local store. -/
def localOf (c : Nat) (stkb a : W64) (n : Nat) : Option Nat :=
  match decodeSpan stkb a n with
  | .ok (.loc off) => some off
  | .ok (.win k off) => if k = c then some off else none
  | _ => none

/-- Checks one lane under R210. -/
def State.checkLane (s : State) (c i n : Nat) (acc : AccTy) (need : Need) (a : W64) : Except State Spot :=
  if a.toNat % n != 0 then .error (s.raiseAcc cAlign a)
  else if (localOf c (s.strand c i).stkb a n).any fun off => (s.core c).changing off n then .error (s.modStrand c i fun t => { t with wait := .hold })
  else
    match s.target c (s.strand c i).stkb a n need.prv with
    | .error (k, b) => .error (s.raiseAcc k b)
    | .ok (.loc off) => .ok (.loc off)
    | .ok (.win k off) => .ok (.win k off)
    | .ok (.glob va) =>
      match s.xlate c i va a acc need with
      | .busy s => .error s
      | .page p => .ok (.mem (pageAddr p va) p.loc (!p.loc && p.cp == 0))

/-- Checks the lanes in ascending order before any of them is accessed (R215). -/
def State.checkLanes (s : State) (c i n : Nat) (acc : AccTy) (need : Need) : List Lane → Checked
  | [] => .ok []
  | l :: rest =>
    match s.checkLane c i n acc need l.2 with
    | .error s => .stop s
    | .ok p =>
      match State.checkLanes s c i n acc need rest with
      | .stop s => .stop s
      | .ok r => .ok ((l, p) :: r)

/-- The piece of one lane; `k` is the byte of the vector register at which the lane's data lie. -/
def mkPiece (n : Nat) (data : Nat) (l : Lane) (sp : Spot) : Piece :=
  let mk := fun (place : Nat) (win host cached : Bool) (off : Nat) =>
    ({ place, win, host, cached, off, n, mask := if win then byteMask 0 n else byteMask off n
       data := if win then BitVec.ofNat 1024 (data % 2 ^ (8 * n)) else BitVec.ofNat 1024 (data % 2 ^ (8 * n)) <<< (8 * off)
       lanes := [(l.1, if win then 0 else off)], addr := l.2 } : Piece)
  match sp with
  | .loc off => mk 0 true false false off
  | .win c off => mk c true false false off
  | .mem pa host cached => mk (pa / 128) false host cached (pa % 128)

/-- Joins neighbouring lanes that lie in one line, or in one row of a window (R214). -/
def joinPieces (n : Nat) : List Piece → List Piece
  | p :: q :: rest =>
    match joinPieces n (q :: rest) with
    | r :: rs =>
      if p.win == r.win && p.host == r.host && p.place == r.place &&
          (if p.win then p.off / 128 == r.off / 128 && decide (p.off ≤ r.off) else true) then
        if p.win then
          let sh := r.off - p.off
          { p with n := sh + r.n, mask := p.mask ||| (r.mask <<< sh), data := merge p.data (r.data <<< (8 * sh)) (r.mask <<< sh)
                   lanes := p.lanes ++ r.lanes.map fun x => (x.1, x.2 + sh) } :: rs
        else
          { p with mask := p.mask ||| r.mask, data := merge p.data r.data r.mask, lanes := p.lanes ++ r.lanes } :: rs
      else p :: r :: rs
    | [] => [p]
  | l => l

/-- Reads of the core's own local store fill their lanes at once: `n` bytes a lane, gathered at `w × lane`. -/
def gatherLocal (ls : Memory) (w n : Nat) (acc : W1024) (l : List (Lane × Spot)) : W1024 :=
  l.foldl (fun acc x => match x.2 with
    | .loc off => putNum acc (w * x.1.1) n (ls.num off n)
    | _ => acc) acc

/-- The lanes that a piece's answer serves. -/
def fillLanes (n : Nat) (acc : W1024) (p : Piece) (d : W1024) : W1024 :=
  p.lanes.foldl (fun acc l => putNum acc (n * l.1) n (lineNum d l.2 n)) acc

/-- A store to the core's own local store; an 8-byte store to a reply word is noted (R377). -/
def Core.storeLocal (x : Core) (off n v : Nat) : Core :=
  let x := { x with ls := x.ls.writeNum off n v }
  if n = 8 && 0x7EF80 ≤ off && off < 0x7EFA8 then
    { x with replies := x.replies ++ [((off - 0x7EF80) / 8, BitVec.ofNat 64 v)] }
  else x

/-! ## Sending pieces and ending accesses -/

/-- The width in bytes that an access gathers its lanes with. -/
def AccEnd.width : AccEnd → Nat
  | .vload _ w _ => w
  | _ => 8

/-- The extension that a scalar load's size code states (R208): 0 to 3 zero, 4 to 6 sign. -/
def loadExt (sz x : Nat) : W64 :=
  match sz with
  | 0 => BitVec.ofNat 64 (x % 256)
  | 1 => BitVec.ofNat 64 (x % 65536)
  | 2 => BitVec.ofNat 64 (x % 2 ^ 32)
  | 4 => ext64 true 8 x
  | 5 => ext64 true 16 x
  | 6 => ext64 true 32 x
  | _ => BitVec.ofNat 64 x

/-- The memory operation that a piece asks for. -/
def Access.op (a : Access) : MemOp :=
  match a.amo, a.last with
  | some r, _ => .amo r
  | none, .store | none, .suspend => .write
  | none, _ => .read

/-- Sends one piece for its strand: to the target core, the host port, or the proxy or home (R76, R211). -/
def State.sendPiece (s : State) (c : Nat) (who : Who) (asid : BitVec 16) (prv : Bool) (p : Piece) (op : MemOp) (cls : Nat := 0) :
    State :=
  if p.win then
    let amo := match op with | .amo a => some a | _ => none
    s.request c p.place cls (if op = .write then 3 else 1) 0 (.win who p amo (op != .read && amo.isNone) prv)
  else
    let r : MemReq := { op, line := p.place, off := p.off, mask := p.mask, data := p.data, who, asid := some asid, px := none }
    s.request c (if p.host then epHost else epSlice (s.routeOf c p.place p.cached)) cls (if op = .write then 3 else 1) 0 (.mem r)

/-- An AMO's result (R305): the old value extended by its type, or tagged with the sequence. -/
def amoResult (a : AmoReq) (tagged : Bool) (seq : W32) (old : Nat) : W64 :=
  if tagged then BitVec.ofNat 64 (seq.toNat * 2 ^ 32 + old % 2 ^ 32) else ext64 (etySigned a.ty) (etyWidth a.ty) old

/-- Ends a strand's access: the destination is written, the counter falls, the acquire is performed, and the instruction
retires (R174, R211, R213, R305). -/
def State.accessDone (s : State) (c i : Nat) (a : Access) : State :=
  let s := s.modStrand c i fun t => { t with wait := .no }
  match a.last with
  | .decl =>
    s.modStrand c i fun t =>
      { t with entry := t.entry.map fun e => { e with words := some (Vector.ofFn fun k => BitVec.ofNat 64 (lineNum a.acc (8 * k.val) 8)) } }
  | .load d sz acq =>
    let s := s.modStrand c i fun t => ({ t with ldc := t.ldc - 1 }).write d (loadExt sz (lineNum a.acc 0 8))
    (match acq with | some sc => s.acquire c sc | none => s).retireAt c i
  | .vload d _ acq =>
    let s := s.modStrand c i fun t => ({ t with ldc := t.ldc - 1 }).writeV d a.acc
    (match acq with | some sc => s.acquire c sc | none => s).retireAt c i
  | .store => (s.modStrand c i fun t => { t with stc := t.stc - 1 }).retireAt c i
  | .spawn _ | .suspend =>
    s.modStrand c i fun t => { t with wait := .record (Vector.ofFn fun k => BitVec.ofNat 64 (lineNum a.acc (8 * k.val) 8)), midway := true }
  | .amo d tagged acq seqr =>
    let v := match a.amo with
      | some r => amoResult r tagged ((a.acc >>> 64).setWidth 32) (lineNum a.acc 0 8)
      | none => 0
    let s := s.modStrand c i fun t => ({ t with ldc := t.ldc - 1 }).write d v
    let s := if seqr.isSome then s.withdrawSc c i false else s
    (match acq with | some sc => s.acquire c sc | none => s).retireAt c i

/-- Sends the next piece of a strand's access, serving first-level hits on the way, or ends the access. A store that hits a line to which
another store of the core is not yet performed waits for it, so that the line never takes two values in another order than the home (R314;
DESIGN CHOICE, assumption log 55). -/
def State.accessGo (s : State) (c i : Nat) (a : Access) : Nat → State
  | 0 => s
  | k + 1 =>
    match a.todo with
    | [] => s.accessDone c i { a with cur := none }
    | p :: rest =>
      let x := s.core c
      let t := s.strand c i
      let acq := match a.last with | .load _ _ q => q.isSome | .vload _ _ q => q.isSome | _ => false
      let waits := s.modStrand c i fun t => { t with wait := .access { a with cur := none, todo := p :: rest } }
      if x.lineHeld p then waits
      else
      match a.op with
      | .read =>
        match (if p.cached && !acq then x.l1Find p.place else none) with
        | some h =>
          let s := s.modCore c (·.l1Touch p.place)
          State.accessGo s c i { a with todo := rest, acc := fillLanes a.last.width a.acc p h.data } k
        | none =>
          if p.cached && (s.writePending c p.place || x.filling p.place) then waits
          else
            let s := if p.cached && !x.ways.isEmpty then
                s.modCore c fun x => { x with fills := { who := some i, line := p.place, id := 0 } :: x.fills }
              else s
            (s.modStrand c i fun t => { t with wait := .access { a with cur := some p, todo := rest } }).sendPiece c
              (.strand c i) (t.asid.setWidth 16) t.prv p .read
      | op =>
        if op = .write && !p.win && !p.host && (x.l1Find p.place).isSome && s.writePending c p.place then waits
        else
        let s := if p.win || p.host then s
          else s.modCore c fun x =>
            let x := x.noFill p.place
            if op = .write then x.l1Write p.place p.data p.mask else x.l1Drop p.place
        (s.modStrand c i fun t => { t with wait := .access { a with cur := some p, todo := rest } }).sendPiece c
          (.strand c i) (t.asid.setWidth 16) t.prv p op

/-- Ends a strand's access with an exact trap: nothing of the destination is written (R211, R215). -/
def State.accessFail (s : State) (c i num : Nat) (bad : W64) (a : Access) : State :=
  let s := s.modCore c fun x => { x with fills := x.fills.filter (·.who != some i) }
  let s := s.modStrand c i fun t =>
    match a.last with
    | .store => { t with stc := t.stc - 1, wait := .no }
    | .decl | .spawn _ | .suspend => { t with wait := .no }
    | _ => { t with ldc := t.ldc - 1, wait := .no }
  let s := match a.last with | .amo _ _ _ (some _) => s.withdrawSc c i false | _ => s
  s.raiseAt c i num bad .access

/-- Whether an access waits: for the strand's own posted operations on its bytes, for the core's stores to a line it is
to load, or for a bank that changes its mode (R107, R109, R212, R308). -/
def State.accessStalls (s : State) (ps : List Piece) (isRead acq : Bool) : Bool :=
  let x := s.myCore
  ps.any (x.postedOverlap s.cur.2) || ps.any x.lineHeld ||
    (isRead && ps.any fun p => !p.win && !p.host && p.cached && (acq || (x.l1Find p.place).isNone) && s.writePending s.cur.1 p.place)

/-- Starts an access of the strand whose turn it is. -/
def State.startAccess (s : State) (a : Access) : State :=
  let s := s.modMe fun t => if a.last = .store then { t with stc := t.stc + 1 } else { t with ldc := t.ldc + 1 }
  s.accessGo s.cur.1 s.cur.2 a (a.todo.length + 1)

/-! ## Posted operations (R174, R212, R375) -/

/-- Sends a posted piece under a free journal entry; none where no entry is free. -/
def State.postPiece (s : State) (c i : Nat) (p : Piece) (opk : Nat) (amo : Option AmoReq) : Option State :=
  match if 64 ≤ (s.strand c i).rsc || (s.core c).lineHeld p then none else (s.core c).freeJent with
  | none => none
  | some j =>
    let t := s.strand c i
    let x := s.core c
    let hold := amo.isSome && x.journal.any fun e => e.2.st == .sent && e.2.strand == i && e.2.opk == 2 &&
      (match e.2.piece with | some q => q.win == p.win && q.place == p.place | none => false)
    let ent : Journal := { st := .sent, strand := i, addr := p.addr, opk, reason := 0, piece := some p,
                           heldRed := if hold then amo else none, order := x.nextOrder }
    let s := s.modCore c fun x => (if p.win || p.host then x else (x.noFill p.place).l1Drop p.place).setJent j ent
    let s := s.modStrand c i fun t => { t with rsc := t.rsc + 1 }
    if hold then some s
    else
      some (s.sendPiece c (.journal c j) (t.asid.setWidth 16) t.prv p (match amo with | some a => .red a | none => .write))

/-- Posts pieces while journal entries are free; the strand goes on with the rest on a later turn, and retires when all
are handed over. -/
def State.postAll (s : State) (c i : Nat) (amo : Option AmoReq) : List Piece → State
  | [] => (s.modStrand c i fun t => { t with wait := .no }).retireAt c i
  | p :: rest =>
    match s.postPiece c i p (if amo.isSome then 2 else 0) amo with
    | some s => State.postAll s c i amo rest
    | none => s.modStrand c i fun t => { t with wait := .posting (p :: rest) amo }

/-! ## Instruction fetch (R26, R175 to R179) -/

/-- What a fetch of a line gives. -/
inductive Fetched where
  | line (l : ILine)
  | busy (s : State)
  | bad (num : Nat) (addr : W64)

/-- Fetches a line for a strand (R26, R179): from the instruction cache, or by a fill that another step completes. -/
def State.fetch (s : State) (c i : Nat) (line : W64) : Fetched :=
  let t := s.strand c i
  let x := s.core c
  let asid : BitVec 16 := t.asid.setWidth 16
  let fill := fun (s : State) => { s.modStrand c i (fun t => { t with wait := .fetch line s.uid }) with uid := s.uid + 1 }
  match decodeAddr t.stkb line with
  | some (.loc off) =>
    if x.changing off 64 then .busy s
    else if x.mode (off / 8192) != 0 then .bad cBankMode line
    else if off / 8192 = 63 && x.res && !t.prv then .bad cProtection line
    else match x.ifind line asid i with
      | some l => .line l
      | none => .busy (fill s)
  | some (.glob va) =>
    if s.ptsh = 0 then .bad cAperture line
    else
      match s.xlate c i va line .fetch (.fetch t.prv) with
      | .busy s => .busy s
      | .page p =>
        match x.ifind line asid i with
        | some l => .line l
        | none =>
          let ln := pageAddr p va / 128
          .busy ((fill s).ask c (if p.loc then epHost else epSlice (s.routeOf c ln (p.cp == 0)))
            (.mem (.plain .read ln (.fetch c i s.uid) (some asid))))
  | _ => .bad cAperture line

/-- Installs a fetched line with its parity outcome (R176, R177). The array's own failures come from the environment: of one fetch, or of
this one and the next. The cache takes a line anywhere and replaces the line that was installed first (R182; DESIGN CHOICE, assumption
log 55). -/
def State.installILine (s : State) (c i : Nat) (line : W64) (b : BitVec 512) : State :=
  let asid : BitVec 16 := (s.strand c i).asid.setWidth 16
  let x := s.core c
  let again := x.icache.any fun e => e.line == line && e.asid == asid && e.bad != 0
  let both := s.env.contains (.parity c line true)
  let one := s.env.contains (.parity c line false)
  let s := if both then { s with env := .parity c line false :: s.env.erase (.parity c line true) }
    else if one then { s with env := s.env.erase (.parity c line false) } else s
  let ok := lineParityOk b && !both && !one
  let bad := if ok then 0 else if again then 2 + i else 1
  let s := s.modCore c fun x =>
    { x with icache := ({ line, asid, bytes := b, bad } :: x.icache.filter fun e => e.line != line || e.asid != asid).take 512 }
  s.modStrand c i fun t => { t with wait := .no }

/-- A transfer of the strand whose turn it is (R256): the checks of R178, of the fetch of the target line and of R180, each
raised at the transferring instruction; then `f` and the new PC. While the target line is fetched the instruction stalls (R262). -/
def State.transfer (s : State) (pc : W64) (f : Strand → Strand) : State :=
  if !pcOk pc then s.raise cIllegalPc pc .instr
  else
    match s.fetch s.cur.1 s.cur.2 (pcLine pc) with
    | .line l =>
      if !lineTgt l.bytes (pcSlot pc) then s.raise cIllegalTarget pc .instr
      else (s.modMe f).retireTo s.cur.1 s.cur.2 pc
    | .busy t => if t.me.pc = s.me.pc && t.me.run = .running then t.stall else t
    | .bad num _ => s.raise num pc .fetch

end Sys2Proof.Machine
end

