-- ==== Sys2Proof/Machine/Engine.lean ====
section
/-!
DEFINITION. The engines of a core: fills, drains and stream pushes of tile-table entries (R92, R96, R101, R102, R117, R120,
R430), residency of logged tiles (R133), and copies (R88 to R100), with the translation of what they reach (R94, R429).
Readings: DEDUCED, assumption log 27.
-/

namespace Sys2Proof.Machine

/-! ## Translation for an engine (R94, R429) -/

/-- An engine's access that is to be translated on a strand's behalf. -/
structure EngAcc where
  who : WalkFor
  strand : Nat
  asid : BitVec 16
  va : Nat
  /-- The generic address, for the failing address. -/
  bad : W64
  acc : AccTy
  need : Need
  pc : W64

/-- What the translation of an engine's access leads to: the physical byte and page, a wait (for a walk, or for the answer to a
fault message), or a cause at once. -/
inductive EngX where
  | ok (pa : Nat) (p : Page)
  | waits (s : State)
  | fails (num : Nat)

/-- How a fault message names what faulted. -/
def WalkFor.source : WalkFor → Nat × Nat
  | .strand _ => (0, 0)
  | .copy id => (1, id)
  | .tile t => (2, t)
  | .spill r => (3, r)
  | .save => (4, 0)

/-- An engine of core `c` meets a fault kind (R94, R377, R378): a fault message, the wait for the strand's earlier one, or FAIL at
once where no service core can be reached. The save engine's goes to the service core of the context that it works for (R379). -/
def State.engineFault (s : State) (c : Nat) (e : EngAcc) (kind : Nat) : EngX :=
  let t := s.strand c e.strand
  let svc := match e.who, SMap.get? s.saves c with
    | .save, some v => BitVec.ofNat 64 (s.ctxSvc v.ctx)
    | _, _ => t.svcXyz
  if t.fault.isSome then .waits s
  else if !s.reachable (svcCore svc) then .fails (kindCause kind)
  else
    let f : FaultOut :=
      { tag := (s.core c).faultTag, kind, addr := BitVec.ofNat 64 e.va, bad := e.bad, src := e.who.source.1, idx := e.who.source.2 }
    let s := s.sendFault c svc f.addr e.asid kind (accCode e.acc) e.strand e.pc
    .waits (s.modStrand c e.strand fun t => { t with fault := some f })

/-- Translates an engine's access through the TLBs and the walker of its core (R34, R38, R40, R41, R94, R429). -/
def State.engineXlate (s : State) (c : Nat) (e : EngAcc) : EngX :=
  if s.ptsh = 0 then .fails cAperture
  else match (s.core c).tlbFind e.asid e.va with
    | some p => if p.permits e.need then .ok (pageAddr p e.va) p else s.engineFault c e kPerm
    | none =>
      if (s.core c).walks.any (·.who == e.who) then .waits s
      else .waits (s.startWalk c
        { wid := 0, who := e.who, strand := e.strand, gen := (s.strand c e.strand).gen, asid := e.asid, va := e.va, bad := e.bad
          acc := e.acc, rd := e.need.rd, wr := e.need.wr, ex := e.need.ex, priv := e.need.prv, pc := e.pc, quiet := false })

/-- Sends an engine's request for a line from the endpoint at which the engine sits. -/
def State.engineReq (s : State) (c src : Nat) (who : Who) (asid : BitVec 16) (pa : Nat) (p : Page) (direct : Bool) (op : MemOp)
    (mask : BitVec 128) (data : W1024) (sb : List W32 := []) : State :=
  let ln := pa / 128
  let dest := if p.loc then epHost else epSlice (if direct then s.homeOf ln else s.routeOf c ln (p.cp == 0))
  s.requestMsg { uid := 0, src, via := src, dest, cls := 0, tag := 0, nf := if op = .read then 1 else 3, ticket := 0, cancel := false
                 poison := false, sb, body := .mem { op, line := ln, off := pa % 128, mask, data, who, asid := some asid, px := none } }

/-! ## Tiles: rows, scales and local bytes (R96, R117) -/

/-- Bytes of a tile that lie in one home line: their home address, and their place in the local range or in the slot. -/
structure TilePiece where
  home : Nat
  place : Nat
  n : Nat
  scale : Bool
  deriving DecidableEq, Repr

/-- A line of a tile (R96): the pieces that lie in one home line, with the home address and the place of the first. -/
structure TileLine where
  home : Nat
  place : Nat
  scale : Bool
  parts : List TilePiece
  deriving DecidableEq, Repr

/-- Cuts a run of bytes at the lines of its home; `k` pieces at most. -/
def splitLines (scale : Bool) : Nat → Nat → Nat → Nat → List TilePiece
  | 0, _, _, _ => []
  | k + 1, home, place, n =>
    if n = 0 then []
    else
      let m := min n (128 - home % 128)
      ⟨home, place, m, scale⟩ :: splitLines scale k (home + m) (place + m) (n - m)

/-- Home address of the scale vector (R96). -/
def Tile.scaleHome (e : Tile) : Nat := (e.home.toNat + (e.rows - 1) * e.hpitch + e.rowBytes + 3) / 4 * 4

/-- The data pieces of a tile, row by row. -/
def Tile.dataPieces (e : Tile) : List TilePiece :=
  (List.range e.rows).flatMap fun i =>
    splitLines false (e.rowBytes / 128 + 2) (e.home.toNat + i * e.hpitch)
      (if e.loc then i * e.rowBytes else e.off + i * e.lpitch) e.rowBytes

/-- Puts a piece into its home line. -/
def lineUp (l : List TileLine) (p : TilePiece) : List TileLine :=
  if l.any fun x => x.home / 128 == p.home / 128 then
    l.map fun x => if x.home / 128 = p.home / 128 then { x with parts := x.parts ++ [p] } else x
  else l ++ [⟨p.home, p.place, p.scale, [p]⟩]

/-- The home lines of a tile's data, in the order of their first bytes: as many as the tile has data messages (R96). -/
def Tile.dataLines (e : Tile) : List TileLine := e.dataPieces.foldl lineUp []

/-- The lines of a tile, those of its scale vector last. -/
def Tile.lines (e : Tile) : List TileLine :=
  e.dataLines ++
    if e.residue then
      (splitLines true (e.rows / 32 + 2) e.scaleHome (if e.loc then 0 else e.off + e.rows * e.lpitch) (4 * e.rows)).foldl lineUp []
    else []

/-- The order in which a fill reads its lines: the scale vector first, for its words ride with the data (R96). -/
def Tile.fillOrder (e : Tile) : List Nat :=
  let d := e.dataLines.length
  (List.range (e.lines.length - d)).map (d + ·) ++ List.range d

/-- The bytes of a home line that its pieces take up. -/
def TileLine.mask (l : TileLine) : BitVec 128 := l.parts.foldl (fun m p => m ||| byteMask (p.home % 128) p.n) 0

/-- The SB words of the message with line index `k`: scales 3k to 3k + 2, and zero beyond the last (R96). -/
def Tile.sbWords (e : Tile) (scales : Nat) (k : Nat) : List W32 :=
  if e.residue then
    [0, 1, 2].map fun j => if 3 * k + j < e.rows then BitVec.ofNat 32 (scales / 2 ^ (32 * (3 * k + j))) else 0
  else []

/-- The scale store of a slot as one number. -/
def scaleNum : List W32 → Nat
  | [] => 0
  | w :: l => w.toNat + 2 ^ 32 * scaleNum l

/-- Writes words of a scale store. -/
def putScales (v : Vector W32 128) (k : Nat) : Nat → Nat → Vector W32 128
  | 0, _ => v
  | n + 1, x => putScales (v.setIfInBounds k (BitVec.ofNat 32 x)) (k + 1) n (x / 2 ^ 32)

/-- Bytes of a slot's data. -/
def Slot.num (o : Slot) (a n : Nat) : Nat := (o.data >>> (8 * a)).toNat % 2 ^ (8 * n)
def Slot.put (o : Slot) (a n x : Nat) : Slot :=
  let m : BitVec 32768 := BitVec.ofNat 32768 (2 ^ (8 * n) - 1) <<< (8 * a)
  { o with data := (o.data &&& ~~~m) ||| ((BitVec.ofNat 32768 x <<< (8 * a)) &&& m) }

/-- The bytes of a piece as they stand in the core. -/
def Core.readPiece (x : Core) (e : Tile) (p : TilePiece) : Nat :=
  if e.loc then
    let o := x.slot e.slotNo
    if p.scale then scaleNum (o.scales.toList.drop (p.place / 4)) % 2 ^ (8 * p.n) else o.num p.place p.n
  else x.ls.num p.place p.n

def Core.writePiece (x : Core) (e : Tile) (p : TilePiece) (v : Nat) : Core :=
  if e.loc then
    let o := x.slot e.slotNo
    x.setSlot e.slotNo (if p.scale then { o with scales := putScales o.scales (p.place / 4) (p.n / 4) v } else o.put p.place p.n v)
  else { x with ls := x.ls.writeNum p.place p.n v }

/-- The bytes of a home line as they stand in the core, and the core with what the home line holds. -/
def Core.readLine (x : Core) (e : Tile) (l : TileLine) : W1024 :=
  l.parts.foldl (fun d p => putNum d (p.home % 128) p.n (x.readPiece e p)) 0
def Core.writeLine (x : Core) (e : Tile) (l : TileLine) (d : W1024) : Core :=
  l.parts.foldl (fun x p => x.writePiece e p (lineNum d (p.home % 128) p.n)) x

/-- The scale vector of an entry as it stands in the core, as one number. -/
def Core.scalesOf (x : Core) (e : Tile) : Nat :=
  if !e.residue then 0
  else if e.loc then scaleNum (x.slot e.slotNo).scales.toList else x.ls.num (e.off + e.rows * e.lpitch) (4 * e.rows)

/-- Writes the scale words that ride with the message of line index `k` (R96). -/
def Core.putSb (x : Core) (e : Tile) (k : Nat) (sb : List W32) : Core :=
  if !e.residue then x
  else
    [0, 1, 2].foldl (fun (x : Core) j =>
      let i := 3 * k + j
      let w := (sb.getD j 0).toNat
      if e.rows ≤ i then x
      else if e.loc then
        let o := x.slot e.slotNo
        x.setSlot e.slotNo { o with scales := putScales o.scales i 1 w }
      else { x with ls := x.ls.writeNum (e.off + e.rows * e.lpitch + 4 * i) 4 w }) x

/-! ## Logged tiles (R126, R133) -/

/-- The logged tensor and tile that an entry's home names: none outside every tensor, an error where it lies in one and does
not name a whole tile with the tensor's shape and format. -/
def State.loggedTile (s : State) (asid : BitVec 16) (e : Tile) : Except Unit (Option (Nat × Nat)) :=
  let h := e.home.toNat
  match s.tensors.find? fun x =>
      x.2.st == .active && x.2.asid == asid && decide (x.2.base ≤ h) && decide (h < x.2.base + x.2.ntr * x.2.tr * x.2.hpitch) with
  | none => .ok none
  | some (id, t) =>
    let row := (h - t.base) / (t.tr * t.hpitch)
    let rest := (h - t.base) % (t.tr * t.hpitch)
    let col := rest / (t.tc * 4)
    if rest % (t.tc * 4) = 0 && col < t.ntc && e.rows = t.tr && e.cols = t.tc && e.ety = t.fmt then
      .ok (some (id, row * t.ntc + col))
    else .error ()

/-- Applies one entry to the local range of a resident tile (R128, R133). -/
def Core.applyEntry (x : Core) (e : Tile) (tc : Nat) (fmt : ETy) (l : LogEntry) : Core :=
  let a := e.off + l.elem / tc * e.lpitch + l.elem % tc * 4
  { x with ls := x.ls.writeNum a 4 (logApply fmt l.op (x.ls.num a 4) l.val.toNat) }

/-! ## Ending fills, drains and pushes -/

/-- The stream of a job. -/
def TileJob.stream : TileJob → Option Nat
  | .opening sid _ _ | .fill _ _ sid _ _ => sid
  | _ => Option.none

/-- A fill, drain, push or write-back ends early, and COPY_FAULT is raised (R94, R102, R120, R430). -/
def State.tileFault (s : State) (c t num : Nat) (bad : W64) : State :=
  let e := s.tile c t
  let o := e.job.origin
  let s := s.modTile c t fun e => { e with w3 := putBits e.w3 23 8 num, failAddr := bad, unreported := some o }
  let s := s.pendBit c o 1
  match e.job with
  | .opening sid o _ | .fill _ _ sid o _ =>
    let s := match sid with | some k => (s.streamStop c k).pushEnded c k | none => s
    s.tileStop c t (match e.job with | .fill _ out _ _ _ => out | _ => 0) 0 (tlcOf sid o)
  | .drain _ out _ o _ => s.tileStop c t out 2 o
  | _ => s

/-- A data message with another fill's sequence abandons the fill (R96). -/
def State.tileMismatch (s : State) (c t : Nat) : State :=
  let e := s.tile c t
  match e.job with
  | .fill _ out sid o _ =>
    let s := (s.modTile c t fun e => { e with mismatch := some o }).pendBit c o 2
    let s := match sid with | some k => (s.streamStop c k).pushEnded c k | none => s
    s.tileStop c t out 0 (tlcOf sid o)
  | _ => s

/-- A slot that is written anew holds no uncorrectable word any more (R158). -/
def State.slotClean (s : State) (c t : Nat) : State :=
  let e := s.tile c t
  if !e.loc then s
  else
    { s with env := s.env.filter fun x => match x with
        | .slotBad k o _ | .scaleBad k o _ => k != c || o != e.slotNo
        | _ => true }

/-- The last line of a fill is written: the log is applied, the time written, and the entry is READY (R120, R133). -/
def State.fillDone (s : State) (c t : Nat) : State :=
  let e := s.tile c t
  let s := match e.logged with
    | some l =>
      let d := s.tensor l.1
      s.modCore c fun x => e.log.foldl (fun x k => x.applyEntry e d.tc d.fmt k) x
    | none => s
  let s := (s.slotClean c t).modTile c t fun e =>
    { (e.setState 2).setLog [] with
      w4 := s.timecode
      job := .none
      promoted := false
      refilling := false
      logDirty := e.logged.isSome && !e.log.isEmpty }
  match e.job.stream with
  | some k => s.pushEnded c k
  | none => s.tlcDown c e.job.origin

/-- A GLOBAL address of a tile, or none (R117). -/
def tileVa (h : Nat) : Option Nat :=
  match decodeAddr 0 (BitVec.ofNat 64 h) with
  | some (.glob va) => some va
  | _ => none

/-- The endpoint that reads the lines of a fill: the core's copy engine, or for a push the loader of base block c mod 16 (R101). The storer
of that block writes the lines of a ring entry back (DEDUCED, assumption log 27). -/
def readerOf (c : Nat) (sid : Option Nat) : Nat := if sid.isSome then epHbm (c % 16) else c

/-- Reads the next line of a fill, or ends it. -/
def State.fillGo (s : State) (c t : Nat) : State :=
  let e := s.tile c t
  match e.job with
  | .fill [] 0 _ _ _ => s.fillDone c t
  | .fill (k :: rest) 0 sid o priv =>
    match e.lines[k]? with
    | none => s
    | some p =>
      let bad := BitVec.ofNat 64 p.home
      match tileVa p.home with
      | none => s.tileFault c t cAperture bad
      | some va =>
        match s.engineXlate c { who := .tile t, strand := o, asid := e.asid, va, bad, acc := if sid.isSome then .loader else .copy
                                need := .load priv, pc := e.pc } with
        | .waits s => s
        | .fails num => s.tileFault c t num bad
        | .ok pa g =>
          (s.modTile c t fun e => { e with job := .fill (k :: rest) 1 sid o priv }).engineReq c (readerOf c sid) (.tile c t e.fseq k)
            e.asid pa g sid.isSome .read 0 0
  | _ => s

/-! ## Uncorrectable words of the matrix unit (R158, R159) -/

/-- The bad words of a slot, a scale store and an accumulator. -/
def State.badSlot (s : State) (c o : Nat) : List Nat :=
  s.env.filterMap fun e => match e with | .slotBad k o' w => if k = c && o' = o then some w else none | _ => none
def State.badScale (s : State) (c o : Nat) : List Nat :=
  s.env.filterMap fun e => match e with | .scaleBad k o' w => if k = c && o' = o then some w else none | _ => none
def State.badAcc (s : State) (c a : Nat) : List Nat :=
  s.env.filterMap fun e => match e with | .accBad k a' w => if k = c && a' = a then some w else none | _ => none

/-- A slot's data with some words as zero. -/
def zeroWords (d : BitVec 32768) (bad : List Nat) : BitVec 32768 :=
  bad.foldl (fun d w => d &&& ~~~((0xFFFFFFFF : BitVec 32768) <<< (32 * w))) d

/-- Rewrites bad words of a slot with zero (R122, R159). -/
def State.zeroSlot (s : State) (c o : Nat) (ws : List Nat) : State :=
  if ws.isEmpty then s
  else
    { s.modCore c fun x => x.setSlot o { x.slot o with data := zeroWords (x.slot o).data ws } with
      env := s.env.filter fun e => match e with | .slotBad k o' w => !(k == c && o' == o && ws.contains w) | _ => true }

/-- Rewrites bad words of a scale store with zero (R122, R159). -/
def State.zeroScales (s : State) (c o : Nat) (ws : List Nat) : State :=
  if ws.isEmpty then s
  else
    { s.modCore c fun x => x.setSlot o { x.slot o with scales := ws.foldl (fun v w => v.setIfInBounds w 0) (x.slot o).scales } with
      env := s.env.filter fun e => match e with | .scaleBad k o' w => !(k == c && o' == o && ws.contains w) | _ => true }

/-- The drain pipe reads a slot's rows, and for a residue format its scales, to hand them to the copy engine: words with an
uncorrectable error are zeroed (R122, R159). R301 names the instructions whose zeroed elements are recorded, and a drain is none of
them (DEDUCED, assumption log 29). -/
def State.zeroDrained (s : State) (c : Nat) (e : Tile) : State :=
  if !e.loc then s
  else
    let s := s.zeroSlot c e.slotNo ((s.badSlot c e.slotNo).filter fun w => decide (4 * w < e.rows * e.rowBytes))
    if e.residue then s.zeroScales c e.slotNo ((s.badScale c e.slotNo).filter fun w => decide (w < e.rows)) else s

/-- A line of a drain or a write-back is to be written at its home: the translation of its address. -/
def State.drainXlate (s : State) (c t o : Nat) (priv ring : Bool) (p : TileLine) : EngX :=
  let e := s.tile c t
  match tileVa p.home with
  | none => .fails cAperture
  | some va =>
    s.engineXlate c { who := .tile t, strand := o, asid := e.asid, va, bad := BitVec.ofNat 64 p.home, acc := if ring then .storer else .copy
                      need := .store priv, pc := e.pc }

/-- Writes the next line of a drain, or hands the next line of a ring entry to its storer, in a data message of KIND 4 (R96, R102). Its end
is a step of its own. -/
def State.drainGo (s : State) (c t : Nat) : State :=
  let e := s.tile c t
  match e.job with
  | .drain (k :: rest) 0 ring o priv =>
    match e.lines[k]? with
    | none => s
    | some p =>
      let sb := if p.scale then [] else e.sbWords ((s.core c).scalesOf e) k
      let out := fun (s : State) => s.modTile c t fun e => { e with job := .drain (k :: rest) 1 ring o priv }
      if ring then
        let s := s.zeroDrained c e
        (out s).requestMsg
          { uid := 0, src := c, via := c, dest := readerOf c (some 0), cls := 0, tag := 0, nf := 3, ticket := 0, cancel := false, poison := false
            hdr := dataHeader e.fseq 0 t 4 k 0, sb, body := .fillData c t k p.mask ((s.core c).readLine e p) }
      else
        match s.drainXlate c t o priv false p with
        | .waits s => s
        | .fails num => s.tileFault c t num (BitVec.ofNat 64 p.home)
        | .ok pa g =>
          let s := s.zeroDrained c e
          (out s).engineReq c c (.tile c t e.fseq k) e.asid (pa / 128 * 128) g false .write p.mask ((s.core c).readLine e p) sb
  | _ => s

/-- The storer of a ring entry has a line of it, and writes it at its home once its address is translated (R102, R428). -/
def State.ringStore (s : State) (m : Msg) (c t k : Nat) (mask : BitVec 128) (data : W1024) : State :=
  let e := s.tile c t
  let taken := fun (s : State) => (s.consume m.uid).answer m.dest m.src 2 1 m.tag (.ok 0)
  match e.job with
  | .drain (j :: rest) _ true o priv =>
    match (if j = k then e.lines[k]? else none) with
    | none => taken s
    | some p =>
      match s.drainXlate c t o priv true p with
      | .waits s => s
      | .fails num =>
        ((taken s).modTile c t fun e => { e with job := .drain (j :: rest) 0 true o priv }).tileFault c t num (BitVec.ofNat 64 p.home)
      | .ok pa g => (taken s).engineReq c m.dest (.tile c t e.fseq k) e.asid (pa / 128 * 128) g true .write mask data m.sb
  | .ending out next o k => (taken s).tileStop c t (out - 1) next o k
  | _ => taken s

/-- Starts the line reads of a fill (R92). -/
def State.fillReads (s : State) (c t : Nat) (sid : Option Nat) (o : Nat) (priv : Bool) : State :=
  (s.modTile c t fun e => { e with job := .fill e.fillOrder 0 sid o priv, sbuf := 0 }).fillGo c t

/-- Begins a fill or a push of an EMPTY entry (R120): FILLING, a new sequence, and residency first where the tile is logged
(R133). -/
def State.fillBegin (s : State) (c t : Nat) (sid : Option Nat) (o : Nat) (priv : Bool) (asid : BitVec 16) (pc : W64) : State :=
  let s := s.modTile c t fun e =>
    { e with w3 := putBits (putBits e.w3 0 2 1) 8 12 (e.fseq + 1), asid, pc, job := .opening sid o priv }
  match s.loggedTile asid (s.tile c t) with
  | .error _ => s.tileFault c t cShapeFormat 0
  | .ok none => s.fillReads c t sid o priv
  | .ok (some l) =>
    (s.modTile c t fun e => { e with logged := some l }).ask c (epSlice (s.logHome (recOf l))) (.open_ (recOf l) c t)

/-- Begins a drain, or the storer's write-back of a ring entry (R102, R120). -/
def State.drainBegin (s : State) (c t o : Nat) (priv : Bool) (asid : BitVec 16) (pc : W64) : State :=
  let ring := (s.tile c t).strm
  (s.modTile c t fun e =>
    { e.setState 3 with asid, pc := if ring then 0 else pc
                        job := .drain (List.range e.lines.length) 0 ring o priv }).drainGo c t

/-! ## Shapes (R90, R91, R93) -/

def Shape.count (h : Shape) : Nat := h.dims.foldl (fun n d => n * d.1) 1

/-- The offset of element `n` by one of the two strides. -/
def shapeOff (f : Nat × Int × Int → Int) : List (Nat × Int × Int) → Nat → Int
  | [], _ => 0
  | d :: l, n => (n % d.1 : Nat) * f d + shapeOff f l (n / d.1)

def Shape.src (h : Shape) (base : W64) (n : Nat) : W64 := base + BitVec.ofInt 64 (shapeOff (·.2.1) h.dims n)
def Shape.dst (h : Shape) (base : W64) (n : Nat) : W64 := base + BitVec.ofInt 64 (shapeOff (·.2.2) h.dims n)

/-- The lowest and highest byte offsets of a side of a shape with elements. -/
def Shape.span (h : Shape) (f : Nat × Int × Int → Int) : Int × Int :=
  h.dims.foldl (fun b d =>
    let w := ((d.1 : Int) - 1) * f d
    (b.1 + min 0 w, b.2 + max 0 w)) (0, h.esz - 1)

/-- The shape record at a LOCAL offset: its shape, and whether a rule of R90 is broken. -/
def Core.shapeAt (x : Core) (off : Nat) : Shape × Bool :=
  let w := fun d => x.ls.num (off + 16 * d) 16
  let ctl := w 0 / 2 ^ 120
  let nd := ctl / 16 + 1
  let dim := fun d => (w d % 2 ^ 32, asInt true 44 (w d / 2 ^ 32), asInt true 44 (w d / 2 ^ 76))
  let h : Shape := { esz := 2 ^ (ctl % 8), dims := (List.range nd).map dim }
  let bad := ctl / 8 % 2 = 1 || (List.range 15).any (fun d => w (d + 1) / 2 ^ 120 != 0) ||
    (List.range 16).any (fun d => decide (nd ≤ d) && w d != 0) || decide (2 ^ 40 ≤ h.count)
  (h, bad)

/-- The checks of R93 and R110 on the place of a shape record: a cause and BADADDR, or its LOCAL offset. -/
def Core.shapePlace (x : Core) (stkb a : W64) (prv : Bool) : Except (Nat × W64) Nat :=
  match decodeSpan stkb a 256 with
  | .error b => .error (cAperture, b)
  | .ok (.loc off) =>
    if off % 256 != 0 then .error (cAlign, a)
    else if x.mode (off / 8192) != 0 then .error (cBankMode, a)
    else if x.reserved off 256 prv then .error (cProtection, a)
    else .ok off
  | .ok _ => .error (cAperture, a)

/-! ## Copies (R88 to R100) -/

/-- The cores of a group's box in member order (R97). -/
def boxMembers (desc : W64) : List Nat :=
  let b := fun i => bits desc (8 * i) 8
  (List.range (b 5)).flatMap fun z => (List.range (b 4)).flatMap fun y => (List.range (b 3)).map fun x =>
    coreNum (b 0 + x) (b 1 + y) (b 2 + z)

/-- The member index of a core in a box, where it lies in it (R97). -/
def memberIx (desc : W64) (c : Nat) : Option Nat :=
  let b := fun i => bits desc (8 * i) 8
  if b 0 ≤ coreX c && coreX c < b 0 + b 3 && b 1 ≤ coreY c && coreY c < b 1 + b 4 && b 2 ≤ coreZ c && coreZ c < b 2 + b 5 then
    some (coreX c - b 0 + b 3 * (coreY c - b 1 + b 4 * (coreZ c - b 2)))
  else none

/-- The destination lines of a reduction copy, each with its elements, in order of the first element (R100). -/
def redcLines (k : Copy) : List (Nat × List Nat) :=
  (List.range k.shape.count).foldl (fun l n =>
    let ln := (k.shape.dst k.dst n).toNat / 128
    if l.any (·.1 == ln) then l.map fun e => if e.1 = ln then (e.1, e.2 ++ [n]) else e
    else l ++ [(ln, [n])]) []

/-- Messages a copy sends: its elements, or the destination lines of a reduction. -/
def Copy.units (k : Copy) : Nat := if k.kind = 6 then (redcLines k).length else k.shape.count

/-- A copy leaves ACTIVE; one that ends in FAULTED raises COPY_FAULT (R88, R89, R94). -/
def State.copyEnd (s : State) (c id st cause : Nat) (bad : W64) : State :=
  let e := (s.core c).copyId id
  match e.copy with
  | none => s
  | some k =>
    let s := s.modStrand c k.strand fun t => { t with cpc := t.cpc - 1 }
    let e : CopyId := { e with
      w0 := putBits (putBits e.w0 0 2 st) 16 8 cause, w1 := bad, w3 := s.timecode, copy := none, reported := false }
    let s := s.modCore c (·.setCopyId id e)
    if st = 3 then s.pendBit c k.strand 1 else s

/-- A copy ends early: at once, or when the answers that are outstanding have come (R94). -/
def State.copyFault (s : State) (c id num : Nat) (bad : W64) : State :=
  match ((s.core c).copyId id).copy with
  | none => s
  | some k =>
    if k.killed then s
    else if k.out = 0 then s.copyEnd c id 3 num bad
    else
      s.modCore c fun x =>
        x.setCopyId id { x.copyId id with copy := some { k with stopped := true, failed := k.failed <|> some (num, bad) } }

/-- Changes the copy of an id. -/
def Core.modCopy (x : Core) (id : Nat) (f : Copy → Copy) : Core :=
  let e := x.copyId id
  x.setCopyId id { e with copy := e.copy.map f }

/-- One element of a copy in the destination's 128-byte row: mask and data. -/
def elemRow (off n v : Nat) : BitVec 128 × W1024 := (byteMask (off % 128) n, BitVec.ofNat 1024 v <<< (8 * (off % 128)))

/-- The offset at which element `n` of a copy is written in the local store of its own core, if it is (R91). -/
def Copy.ownDest (k : Copy) (c n : Nat) : Option Nat :=
  match k.kind, decodeAddr k.stkb (k.shape.dst k.dst n) with
  | 5, some (.loc off) => if (memberIx k.box c).isSome then some off else none
  | 2, some (.win d off) => if d = c then some off else none
  | 6, some (.win d off) => if d = c then some off else none
  | _, _ => none

/-- Whether a byte of the local store is a destination byte of the same copy (R91). -/
def Copy.overlaps (k : Copy) (c a : Nat) : Bool :=
  (List.range k.shape.count).any fun n => match k.ownDest c n with
    | some off => decide (off ≤ a) && decide (a < off + k.shape.esz)
    | none => false

/-- The value of a copy's element in the local store. A byte that the copy also writes is read as it was at issue or as it
is now, and the choice is free (R91). -/
def State.elemValue (s : State) (c : Nat) (k : Copy) (n : Nat) : Nat :=
  let a := (k.shape.src k.src n).toNat % 2 ^ 19
  let x := s.core c
  (List.range k.shape.esz).foldr (fun j v =>
    let m := if k.overlaps c (a + j) && Config.overlapReadsOld s.draws then k.old else x.ls
    (m.read (a + j)).toNat + 256 * v) 0

/-- Sends the next element or line of a copy, or ends it (R91, R94, R99, R100). -/
def State.copyGo (s : State) (c id : Nat) : State :=
  let x := s.core c
  match (x.copyId id).copy with
  | none => s
  | some k =>
    if k.stopped || k.out != 0 then s
    else if k.units ≤ k.elem then s.copyEnd c id 2 0 0
    else
      let n := k.elem
      let esz := k.shape.esz
      let who := Who.copy c id
      let sent := fun (s : State) (m : Nat) => { s with draws := s.draws + 1 }.modCore c (·.modCopy id fun k => { k with out := m, walking := false })
      let side := if k.kind = 0 then k.shape.src k.src n else k.shape.dst k.dst n
      let va := match decodeAddr k.stkb side with
        | some (.glob va) | some (.stack va) => va
        | _ => 0
      if k.kind ≤ 1 then
        match s.engineXlate c { who := .copy id, strand := k.strand, asid := k.asid, va, bad := side, acc := .copy
                                need := if k.kind = 0 then .load k.priv else .store k.priv, pc := k.pc } with
        | .waits s => s.modCore c (·.modCopy id fun k => { k with walking := true })
        | .fails num => s.copyFault c id num side
        | .ok pa g =>
          if k.kind = 0 then (sent s 1).engineReq c c who k.asid pa g false .read 0 0
          else
            let (mask, data) := elemRow pa esz (s.elemValue c k n)
            (sent s 1).engineReq c c who k.asid pa g false .write mask data
      else if k.kind = 6 then
        let (ln, ns) := (redcLines k)[n]?.getD (0, [])
        let (mask, data) := ns.foldl (fun (a : BitVec 128 × W1024) j =>
          let off := (k.shape.dst k.dst j).toNat % 128
          let (m, d) := elemRow off esz (s.elemValue c k j)
          (a.1 ||| m, merge a.2 d m)) (0, 0)
        match decodeAddr k.stkb (BitVec.ofNat 64 (ln * 128)) with
        | some (.win d off) => (sent s 1).request c d 0 3 0 (.redc who d k.grp k.midx off mask data)
        | _ => s.copyFault c id cAperture side
      else
        let (mask, data) := elemRow side.toNat esz (s.elemValue c k n)
        match k.kind, decodeAddr k.stkb side with
        | 2, some (.win d off) => (sent s 1).request c d 0 3 0 (.copyWr who d (off / 128 * 128) mask data)
        | 5, some (.loc off) =>
          let ms := boxMembers k.box
          let s := sent s ms.length
          let s := s.modCore c fun x => x.setGroup k.grp { x.group k.grp with drain := (x.group k.grp).drain + ms.length }
          ms.foldl (fun s d => s.request c d 0 3 0 (.copyWr who d (off / 128 * 128) mask data)) s
        | _, _ => s.copyFault c id cAperture side

/-- The first element of the unit that a copy performs. -/
def Copy.firstElem (k : Copy) : Nat := if k.kind = 6 then (((redcLines k)[k.elem]?.bind (·.2.head?)).getD 0) else k.elem

/-- Elements that one unit of a copy performs. -/
def Copy.unitElems (k : Copy) : Nat := if k.kind = 6 then (((redcLines k)[k.elem]?.map (·.2.length)).getD 0) else 1

/-- A destination write of a copy is acknowledged, or the copy's read or write is refused with a cause (R88, R94, R95). -/
def State.copyWrote (s : State) (c id : Nat) (gen : Option (BitVec 8)) (cause : Nat) (bad : W64) : State :=
  match ((s.core c).copyId id).copy with
  | none => s
  | some k =>
    let s := if k.kind = 5 then
        s.modCore c fun x => x.setGroup k.grp { x.group k.grp with drain := (x.group k.grp).drain - 1 }
      else s
    let s := s.modCore c fun x =>
      let e := x.copyId id
      let w0 := match gen with
        | some g => if k.acked then e.w0 else putBits e.w0 8 8 g.toNat
        | none => e.w0
      x.setCopyId id { e with w0, copy := some { k with out := k.out - 1, acked := k.acked || gen.isSome } }
    let at_ := if k.kind = 0 then k.shape.src k.src k.elem else k.shape.dst k.dst k.firstElem
    let s := if cause = 0 then s else s.copyFault c id cause (if bad = 0 then at_ else bad)
    match ((s.core c).copyId id).copy with
    | none => s
    | some k =>
      if k.out != 0 then s
      else if k.killed then s.modCore c (·.setCopyId id .reset)
      else if let some (num, bad) := k.failed then s.copyEnd c id 3 num bad
      else
        let s := s.modCore c fun x =>
          let e := x.copyId id
          x.setCopyId id { e with
            w0 := putBits e.w0 24 40 (bits e.w0 24 40 + k.unitElems), copy := some { k with elem := k.elem + 1 } }
        s.copyGo c id

/-- Whether the local state of a core is being saved or restored: what reaches the core meanwhile waits (R379). -/
def State.imaging (s : State) (c : Nat) : Bool := (SMap.get? s.saves c).any (·.one.isNone)

/-- The save engine gives up a line whose address it may not use: it is not written, and what a restore takes for it nothing fixes (DESIGN
CHOICE, assumption log 36: R379 sends the fault and does not say what FAIL does). -/
def State.imageSkip (s : State) (c : Nat) : State :=
  match SMap.get? s.saves c with
  | some v => match v.left with
    | [] => s
    | k :: rest =>
      { s with
        draws := s.draws + 1
        saves := SMap.set s.saves c { v with left := rest, got := if v.back then (k, Config.spillLine s.draws) :: v.got else v.got } }
  | none => s

/-- Whether an engine waits for a translation. -/
def State.engineWaits (s : State) (c : Nat) : WalkFor → Bool
  | .strand _ | .spill _ => false
  | .save => (SMap.get? s.saves c).any fun v => !v.left.isEmpty
  | .copy id => match ((s.core c).copyId id).copy with | some k => k.walking && !k.stopped | none => false
  | .tile t => match (s.tile c t).job with | .fill (_ :: _) 0 _ _ _ => true | .drain (_ :: _) n ring _ _ => n == 0 || ring | _ => false

/-- Goes on with an engine whose walk has ended. The save engine, a spill and the storer of a ring entry go on in the step that waits for
the translation. -/
def State.engineGo (s : State) (c : Nat) : WalkFor → State
  | .strand _ | .save | .spill _ => s
  | .copy id => s.copyGo c id
  | .tile t => match (s.tile c t).job with
    | .fill (_ :: _) 0 _ _ _ => s.fillGo c t
    | .drain (_ :: _) 0 _ _ _ => s.drainGo c t
    | _ => s

/-- The storer of a ring entry gives up the line that it has not written. -/
def State.ringDrop (s : State) (c t : Nat) : State :=
  match s.inbox.find? fun m => decide (12288 ≤ m.dest) && (match m.body with | .fillData c' t' _ _ _ => c' == c && t' == t | _ => false) with
  | some m => (s.consume m.uid).answer m.dest m.src 2 1 m.tag (.ok 0)
  | none => s

/-- Ends an engine's work with a cause (R94, R102). -/
def State.engineEnd (s : State) (c : Nat) (who : WalkFor) (num : Nat) (bad : W64) : State :=
  match who with
  | .strand _ | .spill _ => s
  | .save => s.imageSkip c
  | .copy id => s.copyFault c id num bad
  | .tile t =>
    (match (s.tile c t).job with
      | .drain l _ true o priv => (s.ringDrop c t).modTile c t fun e => { e with job := .drain l 0 true o priv }
      | _ => s).tileFault c t num bad

/-- Goes on with every engine of a core that waits for a translation, when a strand's fault has been answered. -/
def State.enginesGo (s : State) (c : Nat) : State :=
  let x := s.core c
  let s := x.copies.foldl (fun s e => match e.2.copy with
    | some k => if k.walking then s.copyGo c e.1 else s
    | none => s) s
  x.tiles.foldl (fun s e => match e.2.job with
    | .fill _ 0 _ _ _ => s.fillGo c e.1
    | .drain _ 0 _ _ _ => s.drainGo c e.1
    | _ => s) s

end Sys2Proof.Machine
end

