-- ==== Sys2Proof/Machine/LogHome.lean ====
section
/-!
DEFINITION. Tile logs at their homes: records, placement and sequence, forwarding, spills, compaction and forced applies
(R128 to R141, R426), and the failing and freeing of logged tensors (R127, R131, R140).
Readings: DEDUCED, assumption log 28.
-/

namespace Sys2Proof.Machine

/-! ## Compaction (R135) -/

/-- One entry of the pass. -/
def compactStep (fmt : ETy) (out : List LogEntry) (e : LogEntry) : List LogEntry :=
  let out := if e.op = .store then out.filter (·.elem != e.elem) else out
  match out.getLast? with
  | some l =>
    if l.elem = e.elem && l.op = e.op && e.op != .store then
      out.dropLast ++ [{ l with val := BitVec.ofNat 32 (logApply fmt e.op l.val.toNat e.val.toNat), tcode := e.tcode }]
    else out ++ [e]
  | none => [e]

def compactLog (fmt : ETy) (l : List LogEntry) : List LogEntry := l.foldl (compactStep fmt) []

def State.recFmt (s : State) (r : Nat) : ETy := (s.tensor (recTensor r)).fmt
def State.recCap (s : State) (r : Nat) : Nat := (s.tensor (recTensor r)).cap

/-- The entries that a record holds, on chip and spilled (R131). -/
def LogRec.total (x : LogRec) : Nat := x.entries.length + x.spill

/-- Entries accepted by a record are still to be placed (R426). -/
def LogRec.placing (x : LogRec) : Bool := !x.hold.isEmpty || x.spillMsg.isSome

def LogRec.resident (x : LogRec) : Bool := match x.st with | .res _ _ => true | _ => false

/-! ## Marks and clears (R132) -/

/-- Sends LOGMARK to the home of every line of a tile. -/
def State.sendMarks (s : State) (r : Nat) : State :=
  let ls := s.recLines r
  let me := epSlice (s.logHome r)
  let s := s.modLogRec r fun x => { x with marks := x.marks + ls.length }
  ls.foldl (fun s ln => s.ask me (epSlice (s.homeOf ln)) (.logMark ln r)) s

/-- Frees a record in LOG that has become empty, once every LOGMARK is answered and no entry is on its way to a line home, where it would
come behind the LOGCLEAR (R132). -/
def State.freeIfEmpty (s : State) (r : Nat) : State :=
  let x := s.logRec r
  if x.st = .log && x.total = 0 && !x.placing && x.marks = 0 && x.fwdOut.isEmpty && x.fwdQ.isEmpty then s.freeRec r else s

/-- Acknowledges an update with the log sequence, or refuses it for good (R74, R130). -/
def State.logAnswer (s : State) (m : Msg) (kind seq : Nat) : State :=
  match m.body with
  | .logUpd who _ _ => s.answer m.dest m.src 2 1 m.tag (.logAns who kind seq)
  | _ => s

/-! ## Forwarding (R130, R132) -/

/-- Sends one entry to the resident core, or to the line's home. -/
def State.fwdSend (s : State) (r ln : Nat) (e : LogEntry) : State :=
  let x := s.logRec r
  let me := epSlice (s.logHome r)
  match x.st, x.ending with
  | .res core tile, false => s.ask me core (.fwd r core tile e)
  | _, _ => s.ask me (epSlice (s.homeOf ln)) (.mem { MemReq.plain (.entry r e) ln .device none with off := s.recOff r e.elem })

/-- Sends the waiting entries whose lines have none in flight. -/
def State.fwdGo (s : State) (r : Nat) : State :=
  let x := s.logRec r
  let (s, out, keep) := x.fwdQ.foldl (fun (a : State × List (Nat × Nat) × List (Nat × Nat × LogEntry)) q =>
    if a.2.1.any (·.1 == q.1) || a.2.2.any (·.1 == q.1) then (a.1, a.2.1, a.2.2 ++ [q])
    else (a.1.fwdSend r q.1 q.2.2, (q.1, q.2.1) :: a.2.1, a.2.2)) (s, x.fwdOut, [])
  s.modLogRec r fun x => { x with fwdOut := out, fwdQ := keep }

/-- Whether an entry of a line is forwarded and not placed: to a resident core, or to a line in the applied mask. -/
def LogRec.forwards (x : LogRec) (ln : Nat) : Bool :=
  x.resident || x.applied.contains ln || x.fwdOut.any (·.1 == ln) || x.fwdQ.any (·.1 == ln)

/-- The LSEQ of the forwarded entries that have not been acknowledged. -/
def LogRec.pending (x : LogRec) : List Nat := x.fwdOut.map (·.2) ++ x.fwdQ.map (·.2.1)

/-- Whether the update of `n` entries up to LSEQ `q` has been performed: every line of the tile is marked, and none of its entries is on
its way to a line home; one that went to a resident core is performed once it is accepted (R132, R141, R322). -/
def LogRec.settled (x : LogRec) (q n : Nat) : Bool :=
  x.marks == 0 && (x.resident || (List.range n).all fun i => !x.pending.contains ((q + 2 ^ 32 - i) % 2 ^ 32))

/-- Acknowledges the updates of a record that have been performed (R141). -/
def State.ackReady (s : State) (r : Nat) : State :=
  let x := s.logRec r
  let done := fun (a : Msg × Nat) => match a.1.body with
    | .logUpd _ _ es => x.settled a.2 es.length
    | _ => true
  let s := (x.firstAck.filter done).foldl (fun s a => s.logAnswer a.1 0 a.2) s
  s.modLogRec r fun x => { x with firstAck := x.firstAck.filter fun a => !done a }

/-! ## TLOG at the log home (R141, R230) -/

/-- LSEQ and the number of entries held, on chip and spilled, as TLOG writes them. -/
def State.logWord (s : State) (r q : Nat) : W64 := BitVec.ofNat 64 (q * 2 ^ 32 + (s.logRec r).total + (s.logRec r).hold.length)

/-- Answers a TLOG with the LSEQ that it obtained. -/
def State.tlogAnswer (s : State) (m : Msg) (q : Nat) : State :=
  match m.body with
  | .tlog c i r _ => s.answer m.dest m.src 1 1 m.tag (.tlogAns c i (s.logWord r q))
  | _ => s

/-- Whether the core in which a tile is resident has taken every entry up to LSEQ `q`, or none is resident. -/
def LogRec.synced (x : LogRec) (q : Nat) : Bool :=
  !x.resident || x.pending.all fun l => decide (2 ^ 31 ≤ (q + 2 ^ 32 - l) % 2 ^ 32)

/-- Answers the TLOG syncs of a record that have nothing to wait for any more (R141). -/
def State.syncReady (s : State) (r : Nat) : State :=
  let x := s.logRec r
  let s := (x.syncs.filter fun a => x.synced a.2).foldl (fun s a => s.tlogAnswer a.1 a.2) s
  s.modLogRec r fun x => { x with syncs := x.syncs.filter fun a => !x.synced a.2 }

/-! ## Forced apply (R137) -/

/-- A record enters FORCE: the storer sends its locking reads. -/
def State.forceStart (s : State) (r : Nat) : State :=
  let storer := epHbm (hbmOf (s.recLine r 0))
  let s := (s.modLogRec r fun x => { x with st := .force, wrote := false }).modSlice (s.logHome r) fun x =>
    { x with forced := satAdd x.forced 1 0xFFFFFFFF }
  (s.recLines r).foldl (fun s ln => s.ask storer (epSlice (s.homeOf ln)) (.mem (.plain (.lock r) ln (.storer r) none))) s

/-- The locking reads of a record that have been answered: the line and its data, none where it is poisoned, and whether it was the answer
that was poisoned on its way, so that the line is locked (R50; DEDUCED, assumption log 50). -/
def State.lockAnswers (s : State) (r : Nat) : List (Nat × Option W1024 × Bool) :=
  s.inbox.filterMap fun m => match m.body with
    | .lockAns r' ln d => if r' = r then some (ln, d, m.poison) else none
    | _ => none

/-- Applies a line's entries to its data (R128). -/
def State.applyLine (s : State) (r ln : Nat) (d : W1024) (es : List LogEntry) : W1024 × Nat :=
  es.foldl (fun a e =>
    if s.recLine r e.elem = ln then
      (putNum a.1 (s.recOff r e.elem) 4 (logApply (s.recFmt r) e.op (lineNum a.1 (s.recOff r e.elem) 4) e.val.toNat), a.2 + 1)
    else a) (d, 0)

/-! ## Capacity of a slice (R131) -/

/-- The records of a slice that are not IDLE, and the entries they hold on chip. -/
def State.recsOf (s : State) (sl : Nat) : List (Nat × LogRec) :=
  s.logs.filter fun e => e.2.st != .idle && s.logHome e.1 == sl
def State.onChip (s : State) (sl : Nat) : Nat :=
  (s.recsOf sl).foldl (fun n e => n + min 64 (e.2.entries.length + e.2.hold.length)) 0

/-- Forces the LOG-state record whose last entry is oldest; one whose entries are still being placed has the newest. -/
def State.forceOldest (s : State) (sl : Nat) : State :=
  match ((s.recsOf sl).filter fun e => e.2.st == .log && !e.2.placing).foldl (fun (m : Option (Nat × LogRec)) e => match m with
      | none => some e
      | some b => if e.2.newest.toNat < b.2.newest.toNat then some e else some b) none with
  | some e => s.forceStart e.1
  | none => s

/-! ## Failing and freeing a tensor (R127, R131, R140) -/

/-- Answers what a record still holds unanswered with NACK_LOG. -/
def State.nackHeld (s : State) (r : Nat) : State :=
  let x := s.logRec r
  let s := x.firstAck.foldl (fun s a => s.logAnswer a.1 5 x.lseq) s
  let s := match x.spillMsg with | some m => s.logAnswer m 5 x.lseq | none => s
  s.modLogRec r fun x => { x with firstAck := [], spillMsg := none }

/-- A tensor becomes FAILED: its logs are discarded and its lines cleared. -/
def State.failTensor (s : State) (id : Nat) : State :=
  let t := s.tensor id
  let s := s.setTensor id { t with st := if t.st = .retiring then .retiring else .failed, failed := true }
  s.logs.foldl (fun s e =>
    if recTensor e.1 != id then s
    else
      let s := (s.nackHeld e.1).modLogRec e.1 fun x =>
        { x with entries := [], spill := 0, hold := [], fwdQ := [], st := if x.st = .spillWait then .log else x.st }
      (s.freeIfEmpty e.1).syncReady e.1) s

/-- Whether nothing of a tensor is at work or resident any more. -/
def State.tensorQuiet (s : State) (id : Nat) : Bool :=
  s.logs.all fun e => recTensor e.1 != id || (e.2.st == .idle && e.2.clears == 0 && e.2.fwdOut.isEmpty && e.2.fwdQ.isEmpty)

/-- An id becomes free. -/
def State.freeTensor (s : State) (id : Nat) : State :=
  { s with tensors := SMap.erase s.tensors id, logs := s.logs.filter fun e => recTensor e.1 != id }

/-! ## Spills (R129, R131)

Entries [64, count) lie in memory and nowhere else. A slice reaches them with its own line accesses, translated by the TLBs and the walker
of its attach core; what needs a translation or a read that has not come waits for it. -/

def logOpCode : LogOp → Nat
  | .add => 0 | .min => 1 | .max => 2 | .store => 3

/-- The 16 bytes of an entry (R129). -/
def LogEntry.word (e : LogEntry) : Nat := e.val.toNat + 2 ^ 45 * logOpCode e.op + 2 ^ 48 * (e.elem % 65536) + 2 ^ 64 * e.tcode.toNat

/-- The entry of 16 bytes; of a reserved op that something else has written there the low bits count (DESIGN CHOICE, assumption log 53). -/
def LogEntry.ofWord (x : Nat) : LogEntry :=
  { tcode := BitVec.ofNat 64 (x / 2 ^ 64), elem := x / 2 ^ 48 % 65536, val := BitVec.ofNat 32 x
    op := match x / 2 ^ 45 % 4 with | 0 => .add | 1 => .min | 2 => .max | _ => .store }

/-- The address of line `k` of a tile's spill area. -/
def State.spillVa (s : State) (r k : Nat) : Nat :=
  let t := s.tensor (recTensor r)
  bits (t.word 1) 0 56 + recTile r * (t.cap - 64) * 16 + 128 * k

/-- A spill access meets a fault kind: the fault goes to the tensor's service core, once the slice's earlier fault has been answered, and
a record in LOG enters SPILL_WAIT (R131, R132, R377). A service core that cannot be reached is an answer of FAIL (R378). -/
def State.spillFault (s : State) (r kind va : Nat) : State :=
  let t := s.tensor (recTensor r)
  let c := attachCore (s.logHome r)
  if (s.core c).sliceFault.isSome then s
  else if !s.reachable (svcCore t.svc) then s.failTensor (recTensor r)
  else
    let f : FaultOut := { tag := (s.core c).faultTag, kind, addr := BitVec.ofNat 64 va, bad := BitVec.ofNat 64 va, src := 3, idx := r }
    let s := s.sendFault c t.svc f.addr t.asid kind (accCode .spill) 4 0
    (s.modCore c fun x => { x with sliceFault := some f }).modLogRec r fun x => { x with st := if x.st = .log then .spillWait else x.st }

/-- Translates lines of a record's spill area, or the state that waits for a walk or for the answer to a fault. -/
def State.spillXlate (s : State) (r : Nat) (rd wr : Bool) : List Nat → List DevAt → Except State (List DevAt)
  | [], l => .ok l
  | k :: ks, l =>
    let t := s.tensor (recTensor r)
    let c := attachCore (s.logHome r)
    let va := s.spillVa r k
    match (s.core c).tlbFind t.asid va with
    | some p =>
      if p.permits ⟨rd, wr, false, t.priv⟩ then State.spillXlate s r rd wr ks (l ++ [(pageAddr p va / 128, p.loc)])
      else .error (s.spillFault r kPerm va)
    | none =>
      if (s.core c).walks.any (·.who == .spill r) || (s.core c).sliceFault.any (·.idx == r) then .error s
      else .error (s.startWalk c
        { wid := 0, who := .spill r, strand := 0, gen := (s.strand c 0).gen, asid := t.asid, va, bad := BitVec.ofNat 64 va, acc := .spill
          rd, wr, ex := false, priv := t.priv, pc := 0, quiet := false })

/-- Reads the spilled entries back. A line whose read is poisoned gives values that nothing fixes. -/
def State.spillRead (s : State) (r : Nat) : Except State (State × List LogEntry) :=
  let n := (s.logRec r).spill
  let ep := epSlice (s.logHome r)
  match s.spillXlate r true false (List.range ((n + 7) / 8)) [] with
  | .error s => .error s
  | .ok ls =>
    if s.devHave ep ls then
      let entry := fun (m : Nat) => LogEntry.ofWord (lineNum (s.devData ep (ls.getD (m / 8) (0, false))) (16 * (m % 8)) 16)
      .ok (s.devUsed ep ls, (List.range n).map entry)
    else .error (s.devWant ep (some (s.tensor (recTensor r)).asid) ls)

/-- Leaves a record with entries on chip, the first `k` spilled ones as they are, and `tail` in the places behind them. -/
def State.spillWrite (s : State) (r : Nat) (chip : List LogEntry) (k : Nat) (tail : List LogEntry) : Except State State :=
  let ep := epSlice (s.logHome r)
  let first := k / 8
  let count := if tail.isEmpty then 0 else (k + tail.length + 7) / 8 - first
  match s.spillXlate r false true ((List.range count).map (first + ·)) [] with
  | .error s => .error s
  | .ok ls =>
    let put := fun (s : State) (e : LogEntry × Nat) =>
      s.devPutNum ep (ls.getD ((k + e.2) / 8 - first) (0, false)) (16 * ((k + e.2) % 8)) 16 e.1.word (some (s.tensor (recTensor r)).asid)
    .ok ((tail.zipIdx.foldl put s).modLogRec r fun x =>
      { x with entries := chip, spill := k + tail.length
               newest := match (chip ++ tail).getLast? with | some e => e.tcode | none => x.newest })

/-- Puts a whole log in place of a record's: the first 64 entries on chip, the rest in the spill area (R131). -/
def State.rewriteLog (s : State) (r : Nat) (es : List LogEntry) : Except State State := s.spillWrite r (es.take 64) 0 (es.drop 64)

/-- Compacts a record (R135). -/
def State.compactRec (s : State) (r : Nat) : Except State State :=
  match s.spillRead r with
  | .error s => .error s
  | .ok (s, es) => s.rewriteLog r (compactLog (s.recFmt r) ((s.logRec r).entries ++ es))

/-- Places the entries that a record has accepted, with compaction at three quarters of the capacity (R132, R135). -/
def State.placeHeld (s : State) (r : Nat) : Except State State :=
  let x := s.logRec r
  let at_ := 3 * s.recCap r / 4
  if x.total < at_ && decide (at_ ≤ x.total + x.hold.length) then
    match s.spillRead r with
    | .error s => .error s
    | .ok (s, es) => s.rewriteLog r (x.hold.foldl (fun l e =>
        let l := l ++ [e]
        if l.length = at_ then compactLog (s.recFmt r) l else l) (x.entries ++ es))
  else
    let room := 64 - x.entries.length
    s.spillWrite r (x.entries ++ x.hold.take room) x.spill (x.hold.drop room)

/-- After entries have been placed: the answer, FORCE at the capacity or under a retire, and forwarding (R127, R132, R426). -/
def State.placed (s : State) (r : Nat) : State :=
  let x := s.logRec r
  let s := s.modLogRec r fun x =>
    { x with hold := [], spillMsg := none, firstAck := match x.spillMsg with | some m => x.firstAck ++ [(m, x.lseq)] | none => x.firstAck }
  let s := (s.fwdGo r).ackReady r
  if x.st = .log && (decide (s.recCap r ≤ (s.logRec r).total) || (s.tensor (recTensor r)).st == TensorSt.retiring) then s.forceStart r
  else s.freeIfEmpty r

/-- Goes on with the placing of entries (R426). -/
def State.spillGo (s : State) (r : Nat) : State :=
  let x := s.logRec r
  if !x.placing || !(x.st = .log || x.resident) || x.ending then s
  else match s.placeHeld r with
    | .ok s => s.placed r
    | .error s => s

/-- A spill that was answered with RESUME goes on (R131, R132). -/
def State.spillResume (s : State) (r : Nat) : State :=
  (s.modLogRec r fun x => { x with st := if x.st = .spillWait then .log else x.st }).spillGo r

/-- Goes on with the records of a slice whose entries are being placed. -/
def State.spillsGo (s : State) (sl : Nat) : State :=
  s.logs.foldl (fun s e => if (s.logRec e.1).placing && s.logHome e.1 == sl then s.spillGo e.1 else s) s

/-- With every line locked or poisoned, the storer applies the log and sends each line's write (R137). -/
def State.storerApply (s : State) (r : Nat) : State :=
  let x := s.logRec r
  let ans := s.lockAnswers r
  if x.st != .force || x.wrote || ans.length != (s.recLines r).length then s
  else match s.spillRead r with
    | .error s => s
    | .ok (s, es) =>
      let s := { s with inbox := s.inbox.filter fun m => match m.body with | .lockAns r' _ _ => r' != r | _ => true }
      let storer := epHbm (hbmOf (s.recLine r 0))
      let s := ans.foldl (fun s a =>
        let (d, n) := match a.2.1 with
          | some d => s.applyLine r a.1 d (x.entries ++ es)
          | none => (0, 0)
        if a.2.1.isNone && !a.2.2 then s
        else
          s.ask storer (epSlice (s.homeOf a.1))
            (.mem { MemReq.plain (.unlock r n) a.1 (.storer r) none with data := d, mask := BitVec.allOnes 128 })) s
      s.modLogRec r fun x =>
        { x with entries := [], spill := 0, wrote := true, writes := (ans.filter fun a => a.2.1.isSome || a.2.2).length }

/-- The forced apply ends when every write has been answered (R132, R137). -/
def State.storerDone (s : State) (r : Nat) : State :=
  let x := s.logRec r
  let mine := fun (m : Msg) => match m.body with | .ans (.storer r') _ _ _ _ _ => r' == r | _ => false
  if x.st = .force && x.wrote && decide (x.writes ≤ (s.inbox.filter mine).length) then
    { s with inbox := s.inbox.filter fun m => !mine m }.freeRec r
  else s

/-! ## Messages at a log home -/

/-- Takes an update: its entries get their LSEQ and time, those for lines in the applied mask or for a resident core are forwarded, and
the others are placed (R130, R132, R426). -/
def State.logAccept (s : State) (m : Msg) (r : Nat) (es : List LogEntry) : State :=
  let s := if (s.logRec r).st = .idle then (s.modLogRec r fun x => { x with st := .log }).sendMarks r else s
  let x := s.logRec r
  let es := es.zipIdx.map fun e => (s.recLine r e.1.elem, (x.lseq + e.2 + 1) % 2 ^ 32, { e.1 with tcode := s.timecode })
  (s.setLogRec r { x with
    lseq := (x.lseq + es.length) % 2 ^ 32
    fwdQ := x.fwdQ ++ es.filter fun e => x.forwards e.1
    hold := (es.filter fun e => !x.forwards e.1).map (·.2.2)
    spillMsg := some m }).spillGo r

/-- An update arrives (R132, R426). One that needs a compaction first waits until the spilled entries are read back; a fault of that access
takes the record into SPILL_WAIT, in which the update is refused (DESIGN CHOICE, assumption log 53). -/
def State.logUpdate (s : State) (m : Msg) (who : Who) (r : Nat) (es : List LogEntry) : State :=
  let x := s.logRec r
  let sl := m.dest - 12288
  let busy := x.st = .force || x.st = .spillWait
  let n := es.length
  let kept := (es.filter fun e => !x.forwards (s.recLine r e.elem)).length
  let cap := s.recCap r
  let tight := !busy && decide (cap < x.total + n)
  if (s.tensor (recTensor r)).st != TensorSt.active then
    (s.consume m.uid).answer m.dest m.src 2 1 m.tag (.logAns who 5 x.lseq)
  else if (x.st = .idle && x.clears != 0) || x.ending || (!busy && x.placing) then s
  else if !busy && (((x.st = .idle) && decide (512 ≤ (s.recsOf sl).length)) ||
      decide (4096 < s.onChip sl + (min 64 (x.entries.length + kept) - x.entries.length))) then
    ((s.consume m.uid).forceOldest sl).refuse m (.retry 0)
  else
    match (if tight then s.compactRec r else .ok s) with
    | .error s => s
    | .ok s =>
      let x := s.logRec r
      let room := !busy && decide (x.total + n ≤ cap)
      let (o, next, serve) := ticketRule room x.next x.serve m.ticket m.cancel
      let s := (s.consume m.uid).modLogRec r fun x => { x with next, serve }
      match o with
      | .accept => s.logAccept m r es
      | o =>
        let s := s.refuse m o
        if tight && !room && x.st = .log then s.forceStart r else s

/-- PULL of a line: its entries leave the log (R132), as many as an answer holds (R51). It waits while entries that the record has accepted
are being placed, for it has to see them (R134; in SPILL_WAIT DESIGN CHOICE, assumption log 53: the table has no row). -/
def State.logPull (s : State) (m : Msg) (ln r : Nat) : State :=
  let give := fun (s : State) (es : List LogEntry) (more : Bool) =>
    (s.consume m.uid).answer m.dest m.src 1 (entryFlits es.length) m.tag (.pullAns ln r es more false)
  let x := s.logRec r
  if x.st = .idle then give s [] false
  else if x.placing || x.ending then s
  else match s.spillRead r with
    | .error s => s
    | .ok (s, es) =>
      let all := x.entries ++ es
      let mine := all.filter fun e => s.recLine r e.elem == ln
      let sent := mine.take entriesPerMsg
      let more := decide (entriesPerMsg < mine.length)
      let rest := (all.foldl (fun (a : List LogEntry × Nat) e =>
        if s.recLine r e.elem = ln && a.2 < sent.length then (a.1, a.2 + 1) else (a.1 ++ [e], a.2)) ([], 0)).1
      match s.rewriteLog r rest with
      | .error s => s
      | .ok s =>
        let s := s.modLogRec r fun x => { x with applied := if more then x.applied else ln :: x.applied.filter (· != ln) }
        (give s sent more).freeIfEmpty r

/-- UNPULL: an evicted line leaves the applied mask (R132, R134). -/
def State.logUnpull (s : State) (m : Msg) (ln r : Nat) : State :=
  ((s.consume m.uid).modLogRec r fun x => { x with applied := x.applied.filter (· != ln) }).answer m.dest m.src 2 1 m.tag (.unpullAck ln r)

/-- Ends a residency once the entries that had to go to line homes are applied (R132, R141, R322): its messages are answered, and what is
to be logged is placed. LOGMARK goes to every line again, for a line may have left the device's caches meanwhile (DESIGN CHOICE,
assumption log 53: the row names no LOGMARK). The entries are placed whatever their number; where they take the slice beyond its
entries on chip, a record is forced (R131). -/
def State.closeEnd (s : State) (r : Nat) : State :=
  let x := s.logRec r
  if !x.ending || !(x.fwdOut.isEmpty && x.fwdQ.isEmpty) then s
  else
    let s := x.closing.foldl (fun s m => s.answer m.dest m.src 2 1 m.tag (.ok x.lseq)) s
    let s := (s.modLogRec r fun x => { x with st := .log, ending := false, closing := [] }).syncReady r
    if x.total = 0 && x.hold.isEmpty then s.freeRec r
    else
      let s := (s.sendMarks r).spillGo r
      if 4096 < s.onChip (s.logHome r) then s.forceOldest (s.logHome r) else s

/-- Whether a message is a forwarded entry of a record on its way to a core, or its answer. -/
def Body.fwdOf (r : Nat) : Body → Bool
  | .fwd r' _ _ _ => r' == r
  | .fwdAck r' _ => r' == r
  | .retry (.fwd r' _ _ _) => r' == r
  | _ => false

/-- A residency ends with returned entries, which come ahead of held ones (R132, R138). Entries for lines in the applied mask go to the
line homes. -/
def State.logClosed (s : State) (r : Nat) (es : List LogEntry) : State :=
  let x := s.logRec r
  let back := s.held.filterMap fun h => match h.msg.body with
    | .fwd r' _ _ e => if r' = r then some e else none
    | _ => none
  let s := { s with held := s.held.filter fun h => !h.msg.body.fwdOf r }
  let all := if (s.tensor (recTensor r)).failed then [] else es ++ back ++ x.fwdQ.map (·.2.2)
  let home := fun (e : LogEntry) => x.applied.contains (s.recLine r e.elem)
  let s := s.modLogRec r fun x =>
    { x with ending := true, fwdOut := [], fwdQ := (all.filter home).map fun e => (s.recLine r e.elem, x.lseq, e), hold := all.filter fun e => !home e }
  (s.fwdGo r).closeEnd r

/-- CLOSE arrives from the core that holds the tile. It is handled when its last message has come and no forwarded entry is on its way. -/
def State.logClose (s : State) (m : Msg) (r core parts : Nat) : State :=
  let x := s.logRec r
  let part := fun (k : Nat) (c : Msg) => match c.body with | .close _ _ j _ es => if j = k then es else [] | _ => []
  match x.st with
  | .res c _ =>
    if c != core || x.ending then (s.consume m.uid).answer m.dest m.src 2 1 m.tag (.ok x.lseq)
    else if x.closing.length + 1 < parts then (s.consume m.uid).modLogRec r fun x => { x with closing := x.closing ++ [m] }
    else if s.transit.any (·.body.fwdOf r) || s.inbox.any (·.body.fwdOf r) then s
    else
      let all := x.closing ++ [m]
      ((s.consume m.uid).modLogRec r fun x => { x with closing := all }).logClosed r ((List.range parts).flatMap fun k => all.flatMap (part k))
  | _ => (s.consume m.uid).answer m.dest m.src 2 1 m.tag (.ok x.lseq)

/-- OPEN: residency is granted, or refused with a ticket (R132). A grant waits until entries on their way to line homes have
been applied. Where the slice has no record left, one is forced and the OPEN is refused without a ticket, as an update is (R131). The
table has no row for an OPEN in SPILL_WAIT: it is refused with a ticket (DESIGN CHOICE, assumption log 53). Of a tensor that has failed
no tile becomes resident (R131, R140), and what a dark core opens is closed at once, with the tensor FAILED (R383). -/
def State.logOpen (s : State) (m : Msg) (r core tile : Nat) : State :=
  let x := s.logRec r
  let d := s.tensor (recTensor r)
  let grant := fun (s : State) => s.answer m.dest m.src 2 1 m.tag (.openAns r core tile)
  if d.st = TensorSt.free || d.failed then grant (s.consume m.uid)
  else
    let free := x.st = .idle || x.st = .log
    let sl := m.dest - 12288
    if x.st = .idle && decide (512 ≤ (s.recsOf sl).length) then ((s.consume m.uid).forceOldest sl).refuse m (.retry 0)
    else if free && !(x.fwdOut.isEmpty && x.fwdQ.isEmpty && !x.placing && x.marks = 0 && x.clears = 0) then s
    else
      let (o, next, serve) := ticketRule free x.openNext x.openServe m.ticket m.cancel
      let s := (s.consume m.uid).modLogRec r fun x => { x with openNext := next, openServe := serve }
      match o with
      | .accept =>
        let s := grant (s.modLogRec r fun x => { x with st := .res core tile })
        if (s.core core).dark then (s.logClosed r []).failTensor (recTensor r) else s
      | o => s.refuse m o

/-- An acknowledgement of a forwarded entry: the line's next one may go (R130). -/
def State.fwdAcked (s : State) (r ln : Nat) : State :=
  let first := fun (l : List (Nat × Nat)) => match l.find? (·.1 == ln) with | some e => l.erase e | none => l
  (((((s.modLogRec r fun x => { x with fwdOut := first x.fwdOut }).fwdGo r).ackReady r).syncReady r).closeEnd r).freeIfEmpty r

/-- An acknowledgement of a LOGMARK; with the last, the updates held are acknowledged (R132). -/
def State.markAcked (s : State) (r : Nat) : State :=
  ((s.modLogRec r fun x => { x with marks := x.marks - 1 }).ackReady r).freeIfEmpty r

/-- TLOG at the log home (R135, R141, R230). A sync of the core in which the tile is resident waits until that core has taken every entry
accepted before it. -/
def State.tlogServe (s : State) (m : Msg) (c r : Nat) (form : TlogForm) : State :=
  let x := s.logRec r
  match form with
  | .query => (s.consume m.uid).tlogAnswer m x.lseq
  | .compact =>
    if x.placing || x.ending || x.st = .spillWait then s
    else match s.compactRec r with
      | .error s => s
      | .ok s => (s.consume m.uid).tlogAnswer m x.lseq
  | .sync =>
    let here := match x.st with | .res k _ => k == c | _ => false
    if here && !x.synced x.lseq then (s.consume m.uid).modLogRec r fun x => { x with syncs := x.syncs ++ [(m, x.lseq)] }
    else (s.consume m.uid).tlogAnswer m x.lseq

/-! ## Forwarded entries at a core (R133, R136) -/

/-- A forwarded entry reaches the core that holds the tile: held while the entry is FILLING, applied while it is READY. One that finds the
tile held no more is discarded where the tensor has failed (R138, R140); else it is refused without a ticket, and the log home takes it
back with the CLOSE that is on its way. -/
def State.fwdArrive (s : State) (m : Msg) (r c t : Nat) (e : LogEntry) : State :=
  let x := s.tile c t
  let d := s.tensor (recTensor r)
  let mine := (x.logged.map recOf) = some r
  let opening := match x.job with | .opening _ _ _ => true | _ => false
  let ack := fun (s : State) => (s.consume m.uid).answer m.dest m.src 2 1 m.tag (.fwdAck r (s.recLine r e.elem))
  let full := compactLog d.fmt x.log
  let log := if 32 ≤ x.log.length then full else x.log
  let room := x.state = 2 || log.length < 32
  if mine && (x.state = 1 || x.state = 2) && !opening then
    let (o, next, serve) := ticketRule room x.next x.serve m.ticket m.cancel
    let s := s.modTile c t fun x => { x with next, serve }
    match o with
    | .accept =>
      if x.state = 2 then
        ack ((s.modCore c fun k => k.applyEntry x d.tc d.fmt e).modTile c t fun x => { x with logDirty := true })
      else
        let l := log ++ [e]
        ack (s.modTile c t fun x => x.setLog (if l.length = 24 then compactLog d.fmt l else l))
    | o => ((s.consume m.uid).modTile c t fun x =>
        if x.state = 1 then { x.setLog log with promoted := match o with | .retry _ => true | _ => x.promoted } else x).refuse m o
  else if d.failed || d.st = TensorSt.free then ack s
  else (s.consume m.uid).refuse m (.retry 0)

end Sys2Proof.Machine
end

