-- ==== Sys2Proof/Machine/Logs.lean ====
section
/-!
DEFINITION. The log instructions TUPD, TUPDV, LOGT and TLOG (R126 to R128, R135, R141, R228 to R230).
Readings: DEDUCED, assumption log 28.
-/

namespace Sys2Proof.Machine

/-! ## Naming a tile (R228) -/

/-- The generic address of element `e` of tile `n` (R126). -/
def Tensor.elemAddr (t : Tensor) (n e : Nat) : W64 := BitVec.ofNat 64 (t.base + t.elemOff n (e / t.tc) (e % t.tc))

/-- The record that the tile word of TUPD and TLOG names, or the cause and BADADDR of its refusal; `e` is the element of
which BADADDR is the address. -/
def State.tileNamed (s : State) (g : W64) (e : Nat) : Except (Nat × W64) Nat :=
  let id := bits g 0 8
  let n := bits g 8 24
  let t := s.tensor id
  if t.st != .active || t.asid != s.me.asid.setWidth 16 then .error (cLogState, 0)
  else if bits g 32 32 != 0 || decide (t.ntr * t.ntc ≤ n) then .error (cAperture, t.elemAddr n e)
  else .ok (id * 2 ^ 24 + n)

/-- Sends the entries of an update as one log message (R228). -/
def State.sendUpdate (s : State) (g : W64) (es : List LogEntry) : State :=
  match s.tileNamed g ((es.head?.map (·.elem)).getD 0) with
  | .error (k, a) => s.raiseAcc k a
  | .ok r =>
    let t := s.tensor (recTensor r)
    match es.find? fun e => decide (t.tr * t.tc ≤ e.elem) with
    | some e => s.raiseAcc cAperture (t.elemAddr (recTile r) e.elem)
    | none =>
      if es.isEmpty then s.retire
      else if 64 ≤ s.me.rsc then s.hold
      else
        match s.myCore.freeJent with
        | none => s.hold
        | some j =>
          let c := s.cur.1
          let ent : Journal := { st := .sent, strand := s.cur.2, addr := t.elemAddr (recTile r) ((es.head?.map (·.elem)).getD 0)
                                 opk := 3, reason := 0, piece := none, heldRed := none, order := s.myCore.nextOrder }
          let s := (s.modMyCore (·.setJent j ent)).modMe fun t => { t with rsc := t.rsc + 1 }
          (s.ask c (epSlice (s.logHome r)) (.logUpd (.journal c j) r es)).retire

/-- R128, R228. -/
def execTupd (x : Up) (s : State) : Res :=
  .next (s.begin_ .no false x.p fun _ =>
    s.sendUpdate (s.me.src 0 x.a)
      [{ tcode := 0, elem := (s.me.src 0 x.b).toNat, op := x.op, val := (s.me.src 0 x.c).setWidth 32 }])

/-- R128, R228: one entry for each active lane. -/
def execTupdv (x : Up) (s : State) : Res :=
  .next (s.begin_ .no false noPred fun _ =>
    let t := s.me
    let es := ((List.range 32).filter (t.active x.p 32)).map fun i =>
      ({ tcode := 0, elem := lane 32 (t.readV (vNo x.b)) i, op := x.op
         val := BitVec.ofNat 32 (lane 32 (t.readV (vNo x.c)) i) } : LogEntry)
    s.sendUpdate (t.src 0 x.a) es)

/-! ## LOGT (R126, R127, R229) -/

/-- Whether a descriptor breaks a limit of R126 or has a non-zero reserved field. -/
def Tensor.illFormed (t : Tensor) : Bool :=
  let code := bits (t.word 3) 44 4
  bits (t.word 0) 56 8 != 0 || bits (t.word 1) 56 8 != 0 || bits (t.word 3) 48 16 != 0 || bits (t.word 4) 32 32 != 0 ||
    t.word 5 != 0 || t.word 6 != 0 || t.word 7 != 0 || t.base % 128 != 0 ||
    (t.cap != 64 && bits (t.word 1) 0 56 % 128 != 0) || t.ntc == 0 || t.ntr == 0 || t.tc % 32 != 0 || t.tc == 0 ||
    decide (4096 < t.tc) || t.tr == 0 || decide (4096 < t.tr) || !(code == 2 || code == 5 || code == 8) ||
    t.hpitch % 128 != 0 || decide (t.hpitch < t.ntc * t.tc * 4) || t.cap % 64 != 0 || t.cap == 0 || decide (65536 < t.cap) ||
    decide (65536 < t.tr * t.tc) || decide (2 ^ 24 < t.ntr * t.ntc)

/-- Bytes of a tensor's range (R127). -/
def Tensor.size (t : Tensor) : Nat := t.ntr * t.tr * t.hpitch

/-- Whether a range overlaps a live logged tensor of an ASID (R127). -/
def State.overlapsTensor (s : State) (asid : BitVec 16) (t : Tensor) : Bool :=
  s.tensors.any fun e => e.2.st != .free && e.2.asid == asid && decide (e.2.base < t.base + t.size) &&
    decide (t.base < e.2.base + e.2.size)

/-- R127, R229: checks and translates the descriptor; the device sequencer's answer is a step of its own. The read of the descriptor
is a load as R110 has it (DEDUCED, assumption log 28). -/
def execLogt (d : Opd) (x : Ad) (s : State) : Res :=
  .next (s.begin_ .no false x.p fun _ =>
    let a := s.me.src 0 x.a + x.off.signExtend 64
    match decodeAddr s.me.stkb a with
    | some (.loc off) =>
      if a.toNat % 64 != 0 then s.raiseAcc cAlign a
      else if s.myCore.changing off 64 then s.hold
      else if s.myCore.mode (off / 8192) != 0 then s.raiseAcc cBankMode a
      else if s.myCore.reserved off 64 s.me.prv then s.raiseAcc cProtection a
      else
        let asid : BitVec 16 := s.me.asid.setWidth 16
        let desc : Vector W64 8 := Vector.ofFn fun i => BitVec.ofNat 64 (s.myCore.ls.num (off + 8 * i.val) 8)
        let t : Tensor := { desc, pbase := 0, asid, svc := s.me.svcXyz, priv := s.me.prv, core := s.cur.1, st := .active, failed := false }
        let spill := bits (t.word 1) 0 56
        if t.illFormed || s.overlapsTensor asid t then s.raise0 cShapeFormat
        else if (tileVa t.base).isNone then s.raiseAcc cAperture (BitVec.ofNat 64 t.base)
        else if t.cap != 64 && (tileVa spill).isNone then s.raiseAcc cAperture (BitVec.ofNat 64 spill)
        else if s.ptsh = 0 then s.raiseAcc cAperture (BitVec.ofNat 64 t.base)
        else
          match s.xlate s.cur.1 s.cur.2 t.base (BitVec.ofNat 64 t.base) .load ⟨false, false, false, true⟩ with
          | .busy s => s
          | .page p =>
            let one := t.base / 2 ^ pageShift p.sz = (t.base + t.size - 1) / 2 ^ pageShift p.sz
            if !one || !p.rd || !p.wr || (!s.me.prv && !p.usr) then s.raise0 cShapeFormat
            else (s.ask s.cur.1 epDevSeqr (.logt s.cur.1 s.cur.2 { t with pbase := pageAddr p t.base })).block (.logt d)
    | _ => s.raiseAcc cAperture a)

/-- R127, R229: the id becomes RETIRING and its logs are force-applied, one whose entries are being placed or
wait on a spill once they are placed; the sequencer frees it in a step of its own. -/
def execLogtRet (a : Opd) (p : Pred) (s : State) : Res :=
  .next (s.begin_ .no false p fun _ =>
    let g := s.me.src 0 a
    let id := bits g 0 8
    let t := s.tensor id
    if bits g 8 56 != 0 || !(t.st == .active || t.st == .failed) || t.asid != s.me.asid.setWidth 16 then s.raise0 cLogState
    else
      let s := s.setTensor id { t with st := .retiring }
      let s := s.logs.foldl (fun s e => if recTensor e.1 = id && e.2.st = .log && !e.2.placing then s.forceStart e.1 else s) s
      (s.ask s.cur.1 epDevSeqr (.logtRet s.cur.1 s.cur.2 id)).block (.logtRet id))

/-! ## TLOG (R141, R230) -/

/-- A TLOG form goes to the log home, and the strand waits for its answer. -/
def State.tlog (s : State) (d a : Opd) (form : TlogForm) : State :=
  match s.tileNamed (s.me.src 0 a) 0 with
  | .error (k, b) => s.raiseAcc k b
  | .ok r => (s.ask s.cur.1 (epSlice (s.logHome r)) (.tlog s.cur.1 s.cur.2 r form)).block (.tlog d r form)

/-- R230. -/
def execTlogQuery (d a : Opd) (p : Pred) (s : State) : Res := .next (s.begin_ .no false p fun _ => s.tlog d a .query)

/-- R135, R230. -/
def execTlogCompact (d a : Opd) (p : Pred) (s : State) : Res := .next (s.begin_ .no false p fun _ => s.tlog d a .compact)

/-- Whether the core still holds entries of a record in the log of a FILLING entry, which it has taken and not applied (R133, R141). -/
def Core.unapplied (x : Core) (r : Nat) : Bool :=
  x.tiles.any fun e => e.2.state == 1 && (e.2.logged.map recOf) == some r && !e.2.log.isEmpty

/-- R141, R230: the log home answers once the core has taken every entry up to the LSEQ that the strand obtains; the strand then waits until
they are applied. A CORE-scope acquire invalidates nothing. -/
def execTlogSync (d a : Opd) (p : Pred) (s : State) : Res :=
  .next (s.begin_ .no false p fun _ =>
    match s.me.wait with
    | .sync d r w => if s.myCore.unapplied r then s else s.finish (·.write d w)
    | _ => s.tlog d a .sync)

/-- A blocked instruction of a strand ends in a cause whose BADADDR is 0. -/
def State.wakeRaise (s : State) (c i num : Nat) (via : Via) : State :=
  (s.modStrand c i fun t => { t with wait := .no }).raiseAt c i num 0 via

/-- The answer to a TLOG reaches its strand (R230). One that carries poison is met as an access that received it is (R50; DEDUCED,
assumption log 50). -/
def State.tlogAnswered (s : State) (m : Msg) (c i : Nat) (w : W64) : State :=
  let s := s.consume m.uid
  match (s.strand c i).wait with
  | .tlog d r form =>
    if m.poison then s.wakeRaise c i cMemPoison .access
    else if form = .sync && (s.core c).unapplied r then s.modStrand c i fun t => { t with wait := .sync d r w }
    else (s.modStrand c i (·.write d w)).retireAt c i
  | _ => s

/-- The device sequencer's answer to a declaration or a retire reaches its strand (R127). -/
def State.logtAnswered (s : State) (m : Msg) (c i : Nat) (res : Option W64) : State :=
  let s := s.consume m.uid
  match (s.strand c i).wait, res with
  | .logt d, some w =>
    if m.poison then s.wakeRaise c i cMemPoison .access else (s.modStrand c i (·.write d w)).retireAt c i
  | .logt _, none => if m.poison then s.wakeRaise c i cMemPoison .access else s.wakeRaise c i cShapeFormat .instr
  | .logtRet _, _ => if m.poison then s.wakeRaise c i cMemPoison .access else s.retireAt c i
  | _, _ => s

end Sys2Proof.Machine
end

