-- ==== Sys2Proof/Machine/Memory.lean ====
section
/-!
DEFINITION. Loads and stores, cache and bank control, remote queues, WAIT and FENCE (R207 to R223, R236, R237).
Readings: DEDUCED, assumption log 23, 24.
-/

namespace Sys2Proof.Machine

/-! ## Shared operations -/

/-- The address g[A] + OFF (R210). -/
def memAddr (x : MemA) (t : Strand) : W64 := t.src 0 x.a + x.off.signExtend 64
def adAddr (x : Ad) (t : Strand) : W64 := t.src 0 x.a + x.off.signExtend 64

/-- Bytes of a size code (R208). -/
def szBytes (sz : Nat) : Nat := 2 ^ (sz % 4)

/-- The acquire scope of a load. -/
def memAcq (x : MemA) : Option Scope := if x.ord = .acq then some x.scope else none

/-- Whether a lane lies in the core's own local store. -/
def Spot.isLoc : Spot → Bool
  | .loc _ => true
  | _ => false

/-- The pieces that lanes outside the local store make, joined by line for LDV and STV (R214). -/
def remotePieces (n : Nat) (join : Bool) (data : Nat → Nat) (l : List (Lane × Spot)) : List Piece :=
  let ps := (l.filter fun e => !e.2.isLoc).map fun e => mkPiece n (data e.1.1) e.1 e.2
  if join then joinPieces n ps else ps

/-- A load of some lanes of n bytes (R210 to R215); `old` is what the lanes are gathered over. -/
def State.loadLanes (s : State) (x : MemA) (n : Nat) (join : Bool) (lanes : List Lane) (last : AccEnd) (old : W1024) : State :=
  match s.checkLanes s.cur.1 s.cur.2 n .load (.load s.me.prv) lanes with
  | .stop s => s
  | .ok l =>
    let ps := remotePieces n join (fun _ => 0) l
    if s.accessStalls ps true (memAcq x).isSome || decide (64 ≤ s.me.ldc) then s.hold
    else
      let (s, ls) := s.lsView s.cur.1
      s.startAccess { last, amo := none, cur := none, todo := ps, acc := gatherLocal ls last.width n old l }

/-- A store of some lanes of n bytes, plain, releasing or posted (R210 to R216). -/
def State.storeLanes (s : State) (x : MemA) (n : Nat) (join : Bool) (lanes : List Lane) (data : Nat → Nat) : State :=
  match s.checkLanes s.cur.1 s.cur.2 n .store (.store s.me.prv) lanes with
  | .stop s => s
  | .ok l =>
    let ps := remotePieces n join data l
    if x.ord = .rel && !s.released s.cur.1 s.cur.2 x.scope then s.hold
    else if s.accessStalls ps false false || (x.ord != .p && decide (64 ≤ s.me.stc)) then s.hold
    else
      let s := s.modMyCore fun k => l.foldl (fun k e => match e.2 with
        | .loc off => k.storeLocal off n (data e.1.1)
        | _ => k) k
      if x.ord = .p then s.postAll s.cur.1 s.cur.2 none ps
      else s.startAccess { last := .store, amo := none, cur := none, todo := ps, acc := 0 }

/-- The active lanes of a vector access with their addresses (R214). -/
def Strand.lanesAt (t : Strand) (p : Pred) (n : Nat) (addr : Nat → W64) : List Lane :=
  ((List.range (128 / n)).filter (t.active p (8 * n))).map fun i => (i, addr i)

/-- The address of lane i of LDV and STV. -/
def unitAt (x : MemA) (t : Strand) (n i : Nat) : W64 := memAddr x t + BitVec.ofNat 64 (n * i)

/-- The address of lane i of the strided forms. -/
def strideAt (x : MemA) (t : Strand) (stride : Opd) (i : Nat) : W64 := memAddr x t + BitVec.ofNat 64 i * t.src 0 stride

/-- The address of lane i of GATHER and SCATTER. -/
def offsetAt (x : MemA) (t : Strand) (i : Nat) : W64 := memAddr x t + ext64 true 32 (lane 32 (t.readV (vNo x.b)) i)

/-- A vector load (R214, R215). -/
def State.loadVec (s : State) (x : MemA) (join : Bool) (addr : Nat → W64) : State :=
  let n := szBytes x.sz
  s.loadLanes x n join (s.me.lanesAt x.p n addr) (.vload x.d n (memAcq x)) (s.me.readV (vNo x.d))

/-- A vector store of a data register (R214 to R216). -/
def State.storeVec (s : State) (x : MemA) (join : Bool) (data : Opd) (addr : Nat → W64) : State :=
  let n := szBytes x.sz
  s.storeLanes x n join (s.me.lanesAt x.p n addr) fun i => lane (8 * n) (s.me.readV (vNo data)) i

/-! ## Loads and stores -/

/-- R211, R213. -/
def execLd (x : MemA) (s : State) : Res :=
  .next (s.begin_ .no false x.p fun _ =>
    s.loadLanes x (szBytes x.sz) false [(0, memAddr x s.me)] (.load x.d x.sz (memAcq x)) 0)

/-- R211, R213. -/
def execSt (x : MemA) (s : State) : Res :=
  .next (s.begin_ .no false x.p fun _ =>
    s.storeLanes x (szBytes x.sz) false [(0, memAddr x s.me)] fun _ => (s.me.src 0 x.b).toNat)

/-- R212. -/
def execStP (x : MemA) (s : State) : Res :=
  .next (s.begin_ .no false x.p fun _ =>
    s.storeLanes { x with ord := .p } (szBytes x.sz) false [(0, memAddr x s.me)] fun _ => (s.me.src 0 x.b).toNat)

/-- R214, R215. -/
def execLdv (x : MemA) (s : State) : Res :=
  .next (s.begin_ .no false noPred fun _ => s.loadVec x true (unitAt x s.me (szBytes x.sz)))

/-- R214 to R216. -/
def execStv (x : MemA) (s : State) : Res :=
  .next (s.begin_ .no false noPred fun _ => s.storeVec x true x.b (unitAt x s.me (szBytes x.sz)))

/-- R214, R215. -/
def execLdvs (x : MemA) (s : State) : Res :=
  .next (s.begin_ .no false noPred fun _ => s.loadVec x false (strideAt x s.me x.b))

/-- R214 to R216. -/
def execStvs (x : MemA) (s : State) : Res :=
  .next (s.begin_ .no false noPred fun _ => s.storeVec x false x.b (strideAt x s.me x.c))

/-- R214, R215. -/
def execGather (x : MemA) (s : State) : Res :=
  .next (s.begin_ .no false noPred fun _ => s.loadVec x false (offsetAt x s.me))

/-- R214 to R216. -/
def execScatter (x : MemA) (s : State) : Res :=
  .next (s.begin_ .no false noPred fun _ => s.storeVec x false x.c (offsetAt x s.me))

/-! ## Cache and bank control -/

/-- Asks for a line: into the first-level cache, or to the proxy slice only (R217). The request has a number, so that an older prefetch's
answer does not stand for a younger one's (R319). -/
def State.prefetch (s : State) (a : W64) (keep : Bool) : State :=
  let c := s.cur.1
  let x := s.myCore
  match s.quietLine c s.cur.2 a with
  | .error s => s
  | .ok none => s.retire
  | .ok (some (ln, p)) =>
    let keep := keep && !x.ways.isEmpty
    let dst := s.routeOf c ln true
    let req : MemReq := .plain .read ln (.pref c s.cur.2 s.uid keep) (some (s.me.asid.setWidth 16))
    if p.loc || p.cp != 0 then s.retire
    else if keep then
      if (x.l1Find ln).isSome || x.filling ln then s.retire
      else if s.writePending c ln then s.hold
      else ((s.modMyCore fun x => { x with fills := { who := none, line := ln, id := s.uid } :: x.fills }).ask c (epSlice dst) (.mem req)).retire
    else if dst = s.homeOf ln || (s.proxyLine dst ln).isSome then s.retire
    else (s.ask c (epSlice dst) (.mem req)).retire

/-- R217. -/
def execPref (x : Ad) (s : State) : Res := .next (s.begin_ .no false x.p fun _ => s.prefetch (adAddr x s.me) true)

/-- R217. -/
def execPrefPx (x : Ad) (s : State) : Res := .next (s.begin_ .no false x.p fun _ => s.prefetch (adAddr x s.me) false)

/-- Drops lines of the instruction cache; a strand that waits for one of them from memory fetches it again (R182, R218). -/
def Core.iDrop (x : Core) (f : W64 → BitVec 16 → Bool) : Core :=
  { x with
    icache := x.icache.filter fun e => !f e.line e.asid
    strands := x.strands.map fun t => match t.wait with
      | .fetch line _ => if f line (t.asid.setWidth 16) then { t with wait := .no } else t
      | _ => t }

/-- R218. -/
def execCinv (x : Ad) (s : State) : Res :=
  .next (s.begin_ .no false x.p fun _ =>
    let a := adAddr x s.me
    let asid : BitVec 16 := s.me.asid.setWidth 16
    match s.quietLine s.cur.1 s.cur.2 a with
    | .error s => s
    | .ok q =>
      let s := match q with
        | some (ln, p) => if p.loc then s else s.modMyCore fun k => (k.l1Drop ln).noFill ln
        | none => s
      (s.modMyCore (·.iDrop fun line id => line == pcLine a && id == asid)).retire)

/-- R218. -/
def execCinvData (p : Pred) (s : State) : Res :=
  .next (s.begin_ .no false p fun _ => (s.modMyCore (·.l1Clear)).retire)

/-- R218. -/
def execCinvInstr (p : Pred) (s : State) : Res :=
  .next (s.begin_ .no false p fun _ => (s.modMyCore (·.iDrop fun _ _ => true)).retire)

/-- R218. -/
def execCinvAll (p : Pred) (s : State) : Res :=
  .next (s.begin_ .no false p fun _ => (s.modMyCore fun k => k.l1Clear.iDrop fun _ _ => true).retire)

/-- Whether a partial flush of a line is on its way to its home or waits there (R83, R219). -/
def State.flushPending (s : State) (ln : Nat) : Bool :=
  !(s.flying ln).isEmpty || (s.homeLine ln).ops.any fun o => match o.req.op with | .flush _ _ => true | _ => false

/-- Whether a posted operation of a strand to a line of the device or of the host is unanswered. -/
def Core.postedTo (x : Core) (i ln : Nat) (host : Bool) : Bool :=
  x.journal.any fun e => e.2.st == .sent && e.2.strand == i && (match e.2.piece with
    | some q => !q.win && q.host == host && q.place == ln
    | none => false)

/-- R219. -/
def execCwb (x : Ad) (s : State) : Res :=
  .next (s.begin_ .no false x.p fun _ =>
    match s.quietLine s.cur.1 s.cur.2 (adAddr x s.me) with
    | .error s => s
    | .ok none => s.retire
    | .ok (some (ln, p)) =>
      let px := proxyOf s.cur.1
      if s.myCore.postedTo s.cur.2 ln p.loc then s.hold
      else if p.loc then s.retire
      else if (s.proxyLine px ln).any fun q => q.u.isSome then (s.partialFlush px ln).hold
      else if s.flushPending ln then s.hold
      else s.retire)

/-- Whether a tile-table entry other than EMPTY has its local range in a bank (R109). -/
def Core.tileInBank (x : Core) (b : Nat) : Bool :=
  x.tiles.any fun e => e.2.state != 0 && !e.2.loc && decide (e.2.off < 8192 * b + 8192) && decide (8192 * b < e.2.off + e.2.span)

/-- R109, R220: the strand blocks until the bank's change completes. -/
def execBmode (mode : Fin 3) (bank : Fin 64) (p : Pred) (s : State) : Res :=
  .next (s.begin_ .no false p fun _ =>
    let x := s.myCore
    let f := x.fifo bank
    let a := BitVec.ofNat 64 (8192 * bank)
    if x.tileInBank bank then s.raiseAcc cTileState a
    else if (x.mode bank == 2) != (mode.val == 2) && !(f.count = 0 && f.next = f.serve) then s.raiseAcc cBankMode a
    else if bank.val = 63 && x.res then s.raiseAcc cProtection a
    else s.block (.bmode bank mode))

/-! ## Remote queues -/

/-- The bank that a push goes to, as the journal keeps it for the rule of R308. -/
def queuePiece (k b : Nat) (a : W64) : Piece :=
  { place := k, win := true, host := false, cached := false, off := 8192 * b, n := 8192, mask := 0, data := 0, lanes := [], addr := a }

/-- R221. -/
def execQpush (x : MemA) (s : State) : Res :=
  .next (s.begin_ .no false x.p fun _ =>
    let t := s.me
    let a := memAddr x t
    let c := s.cur.1
    let go := fun (k off : Nat) =>
      if (x.ord = .rel && !s.released c s.cur.2 x.scope) || decide (64 ≤ t.rsc) then s.hold
      else
        match s.myCore.freeJent with
        | none => s.hold
        | some j =>
          let ent : Journal := { st := .sent, strand := s.cur.2, addr := a, opk := 1, reason := 0, piece := some (queuePiece k (off / 8192) a), heldRed := none, order := s.myCore.nextOrder }
          let s := (s.modMyCore (·.setJent j ent)).modMe fun t => { t with rsc := t.rsc + 1 }
          (s.request c k 0 2 0 (.qpush (.journal c j) k (off / 8192) ((t.readV (vNo x.b)).setWidth 512) t.prv)).retire
    match decodeAddr t.stkb a with
    | some (.loc off) => go c off
    | some (.win k off) => if s.live k then go k off else s.raiseAcc cAperture a
    | _ => s.raiseAcc cAperture a)

/-- R113, R222. -/
def execQpop (x : MemA) (s : State) : Res :=
  .next (s.begin_ .no false x.p fun _ =>
    let t := s.me
    let a := memAddr x t
    match decodeAddr t.stkb a with
    | some (.loc off) =>
      let k := s.myCore
      let b := off / 8192
      let f := k.fifo b
      if k.changing off 1 then s.stall
      else if k.mode b != 2 then s.raiseAcc cBankMode a
      else if b = 63 && k.res && !t.prv then s.raiseAcc cProtection a
      else if f.count = 0 then s.stall
      else
        let data := BitVec.ofNat 1024 (k.ls.num (8192 * b + 64 * f.head) 64)
        let s := s.modMyCore fun k =>
          { k with fifos := SMap.set k.fifos b { f with head := (f.head + 1) % 128, count := f.count - 1 } }
        let s := s.modMe (·.writeV x.d data)
        (match memAcq x with | some sc => s.acquire s.cur.1 sc | none => s).retire
    | _ => s.raiseAcc cAperture a)

/-- R223. -/
def execQfree (d : Opd) (p : Pred) (s : State) : Res :=
  .next (s.begin_ .no false p fun _ => s.finish fun t => t.write d t.qfree)

/-- R223. -/
def execQfreeAddr (d : Opd) (p : Pred) (s : State) : Res :=
  .next (s.begin_ .no false p fun _ => s.finish fun t => t.write d t.qaddr)

/-! ## Waiting and fencing -/

/-- R236. -/
def execWait (l sc c t : BitVec 7) (p : Pred) (s : State) : Res :=
  .next (s.begin_ .no false p fun _ =>
    let ok := fun (n : Nat) (f : BitVec 7) => decide (64 ≤ f.toNat) || decide (n ≤ f.toNat)
    let k := s.me
    if ok k.ldc l && ok k.stc sc && ok k.cpc c && ok k.tlc t then s.retire else s.stall)

/-- Whether a tile-table entry's job is work of a strand on path C, on path M, or on path B (R237). -/
def TileJob.onC (j : TileJob) (i : Nat) : Bool :=
  match j with
  | .opening .none o _ => o == i
  | .fill _ _ .none o _ => o == i
  | .drain _ _ false o _ => o == i
  | .ending _ _ o _ => o == i
  | _ => false
def TileJob.onM (j : TileJob) (i : Nat) : Bool :=
  match j with
  | .ofill _ _ _ _ _ o => o == i
  | _ => false
def TileJob.onB (j : TileJob) (i : Nat) : Bool :=
  match j with
  | .opening (some _) o _ => o == i
  | .fill _ _ (some _) o _ => o == i
  | .drain _ _ true o _ => o == i
  | _ => false

/-- Whether a strand has an unacknowledged posted operation of some kinds (R237). -/
def Core.posted (x : Core) (i : Nat) (kinds : List Nat) : Bool :=
  x.journal.any fun e => e.2.st == .sent && e.2.strand == i && kinds.contains e.2.opk

/-- The entries forwarded to a core's READY entries, of which `f` says the tile, that are not yet applied: record and entry
(R133, R237). -/
def State.forwarding (s : State) (c : Nat) (f : Nat → Bool) : List (Nat × LogEntry) :=
  let of := fun (m : Msg) => match m.body with
    | .fwd r k t e => if k = c && f t && (s.tile c t).state == 2 then some (r, e) else none
    | .retry (.fwd r k t e) => if k = c && f t && (s.tile c t).state == 2 then some (r, e) else none
    | _ => none
  s.transit.filterMap of ++ s.inbox.filterMap of ++ s.held.filterMap fun h => of h.msg

/-- Whether some of the forwarded entries that a FENCE or a TLOG sync waits for are not yet applied; the first issue notes
them (R141, R237). -/
def State.forwardsDue (s : State) (now : List (Nat × LogEntry)) : List (Nat × LogEntry) :=
  match s.me.wait with
  | .forwards need => need.filter now.contains
  | _ => now

/-- The condition of a path in the earlier set (R237). -/
def State.pathQuiet (s : State) (c i : Nat) : Nat → Bool
  | 0 => (s.strand c i).ldc == 0 && (s.strand c i).stc == 0
  | 1 => !(s.core c).posted i [0, 1, 2]
  | 2 =>
    !((s.core c).copies.any fun e => match e.2.copy with | some k => k.strand == i | none => false) &&
      !((s.core c).tiles.any fun e => e.2.job.onC i)
  | 3 => !((s.core c).tiles.any fun e => e.2.job.onM i) && !((s.core c).mxq.any fun m => m.strand == i)
  | 4 => !((s.core c).tiles.any fun e => e.2.job.onB i)
  | 5 => !(s.core c).posted i [3]
  | _ => true

/-- R237. -/
def execFence (scope : Scope) (later earlier : BitVec 7) (p : Pred) (s : State) : Res :=
  .next (s.begin_ .no false p fun _ =>
    let due := if earlier.getLsbD 5 then s.forwardsDue (s.forwarding s.cur.1 fun _ => true) else []
    if ((List.range 7).all fun j => !earlier.getLsbD j || s.pathQuiet s.cur.1 s.cur.2 j) && due.isEmpty then
      if later.getLsbD 0 && (earlier >>> 1 != 0 || scope == .dev || scope == .sys) then
        (s.modMyCore (·.l1Clear)).retire
      else s.retire
    else if earlier.getLsbD 5 then s.stall.block (.forwards due)
    else s.stall)

end Sys2Proof.Machine
end

