-- ==== Sys2Proof/Machine/Atomics.lean ====
section
/-!
DEFINITION. AMO and RED (R302 to R310).
-/

namespace Sys2Proof.Machine

/-- Sequencers are numbered: 0 the device's, 1 + n that of cluster n, 2048 + n that of core n (R306). -/
def seqrOf (scope : Scope) (c : Nat) : Nat :=
  match scope with
  | .core => 2048 + c
  | .clu => 1 + clusterOf c
  | _ => 0

/-- A strand asks its sequencer for a ticket and waits for it (R306, R307). -/
def State.askTicket (s : State) (scope : Scope) : State :=
  let c := s.cur.1
  let me := s.cur
  let q := seqrOf scope c
  let s := match scope with
    | .core => s.modMyCore fun x => { x with scq := x.scq ++ [me] }
    | .clu =>
      let k := SMap.getD s.cluSeqrs (clusterOf c) .reset
      { s with cluSeqrs := SMap.set s.cluSeqrs (clusterOf c) { k with intake := k.intake ++ [me] } }
    | _ =>
      let n := s.uid
      (s.modMe fun t => { t with scNo := some n }).request c epDevSeqr 0 1 0 (.scReq ⟨c, me.2, n⟩)
  s.block (.sc q false)

/-- The request that AMO and RED make (R303). -/
def amReq (x : Am) (t : Strand) : AmoReq := { op := x.op, ty := x.ty, v := t.src 0 x.b, c := t.src 0 x.c }

/-- The address of AMO and RED (R304). -/
def amAddr (x : Am) (t : Strand) : W64 := t.src 0 x.a + x.off.signExtend 64

/-- An AMO on the core's own local store, performed at once in its bank (R305). -/
def State.amoLocal (s : State) (x : Am) (off : Nat) : State :=
  let n := etyWidth x.ty / 8
  let r := amReq x s.me
  let old := s.myCore.ls.num off n
  let s := s.modMyCore fun k => { k with ls := k.ls.writeNum off n (amoNew r old) }
  let s := s.modMe (·.write x.d (amoResult r x.tagged 0 old))
  let s := if x.ord = .sc then s.withdrawSc s.cur.1 s.cur.2 false else s
  (if x.ord = .acq || x.ord = .sc then s.acquire s.cur.1 x.scope else s).retire

/-- Whether an AMO on n bytes of a local store overlaps a bank to which an unacknowledged QPUSH of the strand goes (R308). -/
def State.pushPending (s : State) (c i : Nat) (l : List (Lane × Spot)) (n : Nat) : Bool :=
  l.any fun e =>
    let hit := fun (k off : Nat) => (s.core c).journal.any fun j =>
      j.2.st == .sent && j.2.strand == i && j.2.opk == 1 && (match j.2.piece with
        | some p => p.place == k && decide (p.off < off + n) && decide (off < p.off + p.n)
        | none => false)
    match e.2 with
    | .loc off => hit c off
    | .win k off => hit k off
    | _ => false

/-- R305, R306, R308. -/
def execAmo (x : Am) (s : State) : Res :=
  .next (s.begin_ .no false x.p fun _ =>
    let c := s.cur.1
    let i := s.cur.2
    let n := etyWidth x.ty / 8
    match s.checkLanes c i n .atomic (.amo s.me.prv) [(0, amAddr x s.me)] with
    | .stop s => if x.ord = .sc then s.withdrawSc c i false else s
    | .ok l =>
      let ps := remotePieces n false (fun _ => 0) l
      if ps.any (·.host) then (if x.ord = .sc then s.withdrawSc c i false else s).raiseAcc cProtection (amAddr x s.me)
      else if (x.ord = .rel || x.ord = .sc) && !s.released c i x.scope then s.hold
      else if s.accessStalls ps false false || s.pushPending c i l n || decide (64 ≤ s.me.ldc) then s.hold
      else if x.ord = .sc && s.me.wait != .sc (seqrOf x.scope c) true then s.askTicket x.scope
      else
        match l with
        | [(_, .loc off)] => s.amoLocal x off
        | _ =>
          s.startAccess
            { last := .amo x.d x.tagged (if x.ord = .acq || x.ord = .sc then some x.scope else none)
                (if x.ord = .sc then some (seqrOf x.scope c) else none)
              amo := some (amReq x s.me), cur := none, todo := ps, acc := 0 })

/-- R304, R309: a target in LOCAL or WINDOW raises APERTURE. -/
def execRed (x : Am) (s : State) : Res :=
  .next (s.begin_ .no false x.p fun _ =>
    let c := s.cur.1
    let i := s.cur.2
    let n := etyWidth x.ty / 8
    let a := amAddr x s.me
    let near := match decodeSpan s.me.stkb a n with
      | .ok (.loc _) | .ok (.win _ _) => true
      | _ => false
    if a.toNat % n != 0 then s.raiseAcc cAlign a
    else if near then s.raiseAcc cAperture a
    else
      match s.checkLanes c i n .atomic (.store s.me.prv) [(0, a)] with
      | .stop s => s
      | .ok l =>
        let ps := remotePieces n false (fun _ => 0) l
        if ps.any (·.host) then s.raiseAcc cProtection a
        else if x.ord = .rel && !s.released c i x.scope then s.hold
        else s.postAll c i (some (amReq x s.me)) ps)

/-! ## The device sequencer (R306) -/

/-- The strand's AMO may be sent. -/
def State.granted (s : State) (seqr : Nat) (k : Nat × Nat) : State :=
  s.modStrand k.1 k.2 fun t => { t with wait := .sc seqr true }

/-- The device sequencer's part in a message, or the core's that it answers (R306). A request withdrawn before it came is not
queued. A request or a grant that was poisoned on its way ends the AMO as an access that received poison, and its ticket is given up
(R50; DEDUCED, assumption log 50). -/
def State.scServe (s : State) (m : Msg) : State :=
  let told := fun (s : State) => if m.cls = 2 then s.consume m.uid else (s.consume m.uid).answer m.dest m.src 2 1 m.tag (.ok 0)
  match m.body with
  | .scReq k =>
    let q := s.devSeqr
    told { s with devSeqr := if q.gone.contains k then { q with gone := q.gone.erase k } else { q with queue := q.queue ++ [k] } }
  | .scDone k =>
    let q := s.devSeqr
    told { s with devSeqr :=
      if q.holder = some k then { q with holder := none }
      else if q.queue.contains k then { q with queue := q.queue.erase k }
      else { q with gone := q.gone ++ [k] } }
  | .scGrant k =>
    let t := s.strand k.core k.strand
    told (if t.scNo != some k.no || t.wait != .sc 0 false then s
      else if m.poison then (s.withdrawSc k.core k.strand false).wakeRaise k.core k.strand cMemPoison .access
      else s.granted 0 (k.core, k.strand))
  | _ => s

end Sys2Proof.Machine
end

