-- ==== Sys2Proof/Machine/Barrier.lean ====
section
/-!
DEFINITION. The barrier network (R323 to R330, R340 to R343) and the steps of its nodes and of the slate controller.
Readings: DEDUCED, assumption log 44.
-/

namespace Sys2Proof.Machine

/-! ## Nodes and groups (R324, R325) -/

def nodeGix (w : W64) : Nat := bits w 0 6
def nodeNeed (w : W64) : Nat := bits w 10 4 + 1
def nodeM (w : W64) : Bool := w.getLsbD 14
def nodeCnt (w : W64) : Nat := bits w 43 5
def nodeEpi (w : W64) : Nat := bits w 48 16
/-- A complete node (R327). -/
def nodeFull (w : W64) : Bool := decide (nodeNeed w ≤ nodeCnt w)

def groupPh (w : W64) : Bool := w.getLsbD 31
def groupAdj (w : W64) : Bool := w.getLsbD 30

def Core.setNode (x : Core) (ch : Nat) (w : W64) : Core := { x with nodes := x.nodes.setIfInBounds ch w }

/-- The member nodes of a group, by core in ascending order (R325). -/
def State.members (s : State) (ch gix : Nat) : List Nat :=
  (s.cores.filter fun e => nodeM (e.2.node ch) && nodeGix (e.2.node ch) == gix).map (·.1)

/-- Whether two cluster boxes share a cluster. -/
def boxesMeet (a b : W64) : Bool :=
  (List.range 3).all fun k =>
    decide (boxByte a k < boxByte b k + boxByte b (k + 3)) && decide (boxByte b k < boxByte a k + boxByte a (k + 3))

/-- Whether a cluster box lies inside another. -/
def boxInside (a b : W64) : Bool :=
  (List.range 3).all fun k =>
    decide (boxByte b k ≤ boxByte a k) && decide (boxByte a k + boxByte a (k + 3) ≤ boxByte b k + boxByte b (k + 3))

/-- Whether a cluster box stays in the cube. -/
def boxInCube (a : W64) : Bool :=
  decide (boxByte a 0 + boxByte a 3 ≤ 16) && decide (boxByte a 1 + boxByte a 4 ≤ 12) && decide (boxByte a 2 + boxByte a 5 ≤ 8)

/-- Whether a group's word breaks R326 beside the groups that stand, without its own entry. -/
def State.groupIll (s : State) (ch gix : Nat) (w : W64) : Bool :=
  let b := groupBox w
  groupLvl w != 0 &&
    (!boxInCube b || (groupLvl w == 2 && boxByte b 3 * boxByte b 4 * boxByte b 5 != 1) ||
      (groupLvl w == 1 && decide (1 < (s.members ch gix).length)) ||
      s.barGroups.any fun e =>
        let o := e.2.word
        let c := groupBox o
        e.1 != 64 * ch + gix && groupLvl o != 0 && boxesMeet b c &&
          (e.1 / 64 == ch || (groupLvl w < groupLvl o && !boxInside b c) || (groupLvl o < groupLvl w && !boxInside c b) ||
            (groupLvl o == groupLvl w && b != c)))

/-! ## ARV, WTB, BTST (R340 to R342) -/

/-- The core whose node an ARV names. -/
def State.arvNode (s : State) (other : Bool) (m : Nat) : Nat :=
  if other then (clusterCores (clusterOf s.cur.1)).getD m s.cur.1 else s.cur.1

/-- R340: the arrival itself is a step of the node (R327). -/
def execArv (scope : Scope) (other : Bool) (m : Fin 8) (ch : Fin 16) (p : Pred) (s : State) : Res :=
  .next (s.begin_ .no false p fun _ =>
    let n := s.arvNode other m
    if !s.live n then s.raisePc cAperture
    else if !nodeM ((s.core n).node ch) then s.raise0 cBarState
    else if !s.released s.cur.1 s.cur.2 scope then s.stall
    else s.block (.arrival n ch))

/-- R328, R341. -/
def execWtb (scope : Scope) (ch : Fin 16) (p : Pred) (s : State) : Res :=
  .next (s.begin_ .no false p fun _ =>
    let w := s.myCore.node ch
    if !nodeM w then s.raise0 cBarState
    else if nodeEpi w = ((s.me.join[ch.val]?.getD 0)).toNat then s.stall
    else (s.acquire s.cur.1 scope).retire)

/-- R342. -/
def execBtst (sel : Fin 5) (d : Opd) (ch : Fin 16) (p : Pred) (s : State) : Res :=
  .next (s.begin_ .no false p fun _ =>
    let w := s.myCore.node ch
    let g := s.barGroup ch (nodeGix w)
    s.finish (·.write d (if sel.val = 0 then w else if nodeM w && g.recorded then g.skew[sel.val - 1]?.getD 0 else 0)))

/-! ## BCFG (R343) -/

/-- A group becomes complete when its last member node does; a member of a dark core counts as complete without a time (R327, R383). -/
def State.groupDone (s : State) (ch gix : Nat) : State :=
  let g := s.barGroup ch gix
  let ms := s.members ch gix
  if g.due.isEmpty && !ms.isEmpty && ms.all fun c => (SMap.get? g.done c).isSome || (s.core c).dark then s.setBarGroup ch gix { g with due := ms } else s

/-- R326, R343: FORM 0 writes the node, leaving EPI. -/
def execBcfg (a : Opd) (ch : Fin 16) (p : Pred) (s : State) : Res :=
  .next (s.begin_ .no true p fun _ =>
    let c := s.cur.1
    let old := s.myCore.node ch
    let w := putBits (putBits (s.me.src 0 a) 43 5 0) 48 16 0
    let g := (s.barGroup ch (nodeGix w)).word
    let others := (s.members ch (nodeGix w)).filter (· != c)
    let ill := nodeM w && (groupLvl g == 0 || !boxHasCluster (groupBox g) (clusterOf c) || (groupLvl g == 1 && !others.isEmpty))
    if bits w 15 28 != 0 || bits w 6 4 != 0 then s.raisePc cIllegalEncoding
    else if ill then s.raise0 cShapeFormat
    else if nodeCnt old != 0 then s.raise0 cBarState
    else ((s.modMyCore (·.setNode ch (putBits w 48 16 (nodeEpi old)))).groupDone ch (nodeGix old)).retire)

/-- R325, R326, R343: FORM 1 writes a group entry. -/
def execBcfgGrp (a b : Opd) (ch : Fin 16) (p : Pred) (s : State) : Res :=
  .next (s.begin_ .no true p fun _ =>
    let w := s.me.src 0 a
    let gix := (s.me.src 0 b).toNat
    let ms := s.members ch gix
    let g := s.barGroup ch gix
    if 64 ≤ gix || bits w 22 5 != 0 then s.raisePc cIllegalEncoding
    else if s.groupIll ch gix w || (groupLvl w != 0 && ms.any fun c => !boxHasCluster (groupBox w) (clusterOf c)) then
      s.raise0 cShapeFormat
    else if (ms.any fun c => nodeCnt ((s.core c).node ch) != 0) || !g.rel.isEmpty then s.raise0 cBarState
    else (s.setBarGroup ch gix { g with word := w, done := [], due := [] }).retire)

/-! ## The steps of nodes and groups (R327 to R330) -/

/-- A node accepts an arrival: CNT, completion, and JOIN of a strand of the node's own core. -/
def State.acceptArrival (s : State) (c i node ch : Nat) : State :=
  let w := (s.core node).node ch
  let w' := putBits w 43 5 (nodeCnt w + 1)
  let s := s.modCore node fun x =>
    { x.setNode ch w' with stalled := SMap.set x.stalled ch ((SMap.getD x.stalled ch []).filter (· != (c, i))) }
  let s := if nodeFull w' && nodeM w then
      let g := s.barGroup ch (nodeGix w)
      (s.setBarGroup ch (nodeGix w) { g with done := SMap.set g.done node s.timecode.toNat }).groupDone ch (nodeGix w)
    else s
  let s := if node = c then
      s.modStrand c i fun t => { t with join := t.join.setIfInBounds ch (BitVec.ofNat 16 (nodeEpi w)) }
    else s
  (s.modStrand c i fun t => { t with wait := .no }).retireAt c i

/-- BARRIER_ARRIVAL: a strand's arrival reaches its node, which accepts it or stalls it in its order (R327). -/
def execBarrierArrival (c s_ : Nat) (s : State) : Res :=
  if !(decide (c < 12288) && decide (s_ < 4)) then .fault .noSuchPlace
  else
    match (s.strand c s_).wait with
    | .arrival node ch =>
      let x := s.core node
      let q := SMap.getD x.stalled ch []
      if nodeFull (x.node ch) || (q.head?.getD (c, s_)) != (c, s_) then
        if q.contains (c, s_) then .next s
        else .next (s.modCore node fun x => { x with stalled := SMap.set x.stalled ch (q ++ [(c, s_)]) })
      else .next (s.acceptArrival c s_ node ch)
    | _ => .next s

/-- The arrival time of a cluster: of its last member node. -/
def clusterTime (l : List (Nat × Nat)) (cl : Nat) : Nat := l.foldl (fun m e => if clusterOf e.1 = cl then max m e.2 else m) 0

/-- The biases that a release gives (R330): by cluster. -/
def stepBias (w : W64) (l : List (Nat × Nat)) (tl lastCl cl : Nat) : Int :=
  let slk := bits w 32 8
  if slk != 0 && decide (64 * slk ≤ tl - clusterTime l cl) then -1 else if cl = lastCl then 1 else 0

/-- The member clusters of a list of nodes, in ascending order. -/
def clustersOf (l : List (Nat × Nat)) : List Nat :=
  (List.range 1536).filter fun cl => l.any fun e => clusterOf e.1 == cl

/-- Ends the biases that a group gave, in every cluster that still holds one (R330). -/
def State.unbias (s : State) (me : Nat) : State :=
  { s with clusters := s.clusters.map fun e =>
      (e.1, if e.2.biasBy = some me then { e.2 with bias := 0, biasBy := none } else e.2) }

/-- GROUP_RELEASE: every member node has become complete and the release time of the lowest column has come (R330's example: 1,660);
the skew record, the biases and the nodes' release times (R329, R330). The members are those at the completion (R327). -/
def execGroupRelease (ch gix : Nat) (s : State) : Res :=
  if !(decide (ch < 16) && decide (gix < 64)) then .fault .noSuchPlace
  else
    let g := s.barGroup ch gix
    let w := g.word
    let ms := g.due
    let l := ms.filterMap fun c => (SMap.get? g.done c).map fun t => (c, t)
    if groupLvl w = 0 || l.isEmpty || !g.rel.isEmpty then .next s
    else
        let tl := l.foldl (fun m e => max m e.2) 0
        let tf := l.foldl (fun m e => min m e.2) tl
        let epi := nodeEpi ((s.core ((l.head?.map (·.1)).getD 0)).node ch)
        let cls := clustersOf l
        let lastCl := (cls.find? fun cl => clusterTime l cl == tl).getD 0
        let comp := groupPh w && epi % 2 == 1
        let at_ := fun c => tl + 60 + if comp then bits w 40 16 + bits w 56 8 * (coreX c - 2 * boxByte (groupBox w) 0) else 0
        let low := ms.foldl (fun m c => min m (at_ c)) (at_ (ms.headD 0) )
        let skew : Vector W64 4 := #v[BitVec.ofNat 64 (epi * 2 ^ 48 + lastCl * 2 ^ 16 + min (tl - tf) 65535),
          BitVec.ofNat 64 tf, BitVec.ofNat 64 tl, BitVec.ofNat 64 low]
        if decide (s.timecode.toNat < low) then .next s else
        let s := s.setBarGroup ch gix
          { g with done := g.done.filter fun e => !ms.contains e.1, due := [], rel := ms.map fun c => (c, at_ c), skew, recorded := true, epi := BitVec.ofNat 16 epi }
        let me := 64 * ch + gix
        let s := s.unbias me
        .next (if comp && groupAdj w then
          cls.foldl (fun s cl => s.modCluster cl fun k => { k with bias := stepBias w l tl lastCl cl, biasBy := some me }) s
        else s)

/-- Whether a switch-on ramp holds the compute releases of a group: its box holds a cluster of a neighbour that was heavily loaded when
the ramp began (R393). -/
def State.rampHolds (s : State) (w : W64) : Bool :=
  s.regions.any fun e => e.2.ramp && e.2.heavy.any fun r =>
    (regionClusters r).any fun cl => boxHasCluster (groupBox w) cl

/-- NODE_RELEASE: the release time of a node has come (R327, R329). A ramp or a resize holds a compute release. -/
def execNodeRelease (c ch : Nat) (s : State) : Res :=
  if !(decide (c < 12288) && decide (ch < 16)) then .fault .noSuchPlace
  else
    let w := (s.core c).node ch
    let gix := nodeGix w
    let g := s.barGroup ch gix
    let comp := groupPh g.word && g.epi.getLsbD 0
    match SMap.get? g.rel c with
    | none => .next s
    | some t =>
      if decide (s.timecode.toNat < t) || (comp && (g.held || s.rampHolds g.word)) then .next s
      else
        let s := s.setBarGroup ch gix { g with rel := SMap.erase g.rel c }
        .next (s.modCore c fun x => x.setNode ch (putBits (putBits w 43 5 0) 48 16 (nodeEpi w + 1)))

end Sys2Proof.Machine
end

