-- ==== Sys2Proof/Machine/Boot.lean ====
section
/-!
DEFINITION. The boot ROM's checks and what it leaves (R18 to R22, R61, R65, R405), and the reset of a core (R161).
Readings: DEDUCED, assumption log 42.
-/

namespace Sys2Proof.Machine

/-! ## The checks of R21 -/

/-- Whether [a, a + ea) and [b, b + eb) meet on a ring of n. -/
def ringMeets (n a ea b eb : Nat) : Bool := (List.range ea).any fun k => decide ((a + k + n - b) % n < eb)

/-- Whether a box grown by one core on every side meets another (R65, obligation 2). -/
def FBox.crowds (a b : FBox) : Bool :=
  ringMeets 32 (a.x0 + 31) (a.ex + 2) b.x0 b.ex && ringMeets 24 (a.y0 + 23) (a.ey + 2) b.y0 b.ey &&
    ringMeets 16 (a.z0 + 15) (a.ez + 2) b.z0 b.ez

/-- Whether some two boxes of a list crowd each other. -/
def boxesCrowd : List FBox → Bool
  | [] => false
  | b :: l => l.any (fun a => a.crowds b || b.crowds a) || boxesCrowd l

def FBox.ill (b : FBox) : Bool :=
  decide (32 < b.x0 + b.ex) || decide (24 < b.y0 + b.ey) || decide (16 < b.z0 + b.ez) || b.ex == 0 || b.ey == 0 || b.ez == 0 ||
    decide (8 < b.ex) || decide (8 < b.ey) || decide (4 < b.ez)

/-- The rings of live cores around a core: how many there are, and every core reached. -/
def State.spread (s : State) : Nat → Nat → List Nat → List Nat → Nat × List Nat
  | 0, d, seen, _ => (d, seen)
  | k + 1, d, seen, front =>
    match s.frontier seen front with
    | [] => (d, seen)
    | next => State.spread s k (d + 1) (next ++ seen) next

/-- The live cores. -/
def State.liveList (s : State) : List Nat := (List.range 12288).filter s.live

/-- The diameter of the live graph (R61); none where it is not connected. -/
def State.diameter (s : State) : Option Nat :=
  if s.full then some 36
  else
    let l := s.liveList
    l.foldl (fun m c => match m with
      | none => none
      | some d =>
        let (e, seen) := s.spread 12288 0 [c] [c]
        if seen.length = l.length then some (max d e) else none) (some 0)

/-- Live base ports of a base block (R19). -/
def State.basePorts (s : State) (b : Nat) : Nat :=
  ((List.range 768).filter fun c => blockOf c == b && s.live c && !s.flash.bondBad.contains (12288 + c)).length

/-- The live counts that the bitmaps and boxes give. -/
def State.liveCount (s : State) : Nat :=
  if s.flash.coreBad.isEmpty && s.flash.boxes.isEmpty then 12288 else s.liveList.length

/-- Whether the configuration record is rejected (R21, R34). -/
def State.mapRejected (s : State) : Bool :=
  let f := s.flash
  f.version != 1 || !f.reserved.isEmpty || decide (64 < f.boxes.length) || f.boxes.any (·.ill) || boxesCrowd f.boxes ||
    (f.coreBad.any fun c => !(f.boxes.any (·.holds c))) ||
    (match s.diameter with | some d => decide (64 < d) | none => true) ||
    f.liveCores != s.liveCount || f.liveSlices != s.sliceList.length || decide (s.liveCount < 12160) ||
    decide (s.sliceList.length < 760) || (!s.full && (List.range 16).any fun b => decide (s.basePorts b < 40)) ||
    (let ptb := (f.ptcfg >>> 24).toNat % 65536
     let sh := f.ptcfg.toNat % 32
     (sh != 0 && (decide (sh < 4) || decide (16 < sh))) || (sh != 0 && decide (2 ^ 33 < ptb * 131072 + 1536 * 2 ^ sh)))

/-- BOOTSTAT (R405). -/
def State.bootCode (s : State) : Nat :=
  if !s.flash.recordSigned then 1
  else if !s.flash.firmwareSigned then 3
  else if s.mapRejected then 2
  else if !s.flash.memoryOk then 4
  else 0

/-- BOOT: the boot ROM verifies, checks, writes its tables, initialises memory and releases the cores (R405). -/
def execBoot (s : State) : Res :=
  if s.booted then .next s
  else
    let code := s.bootCode
    let s := { s with booted := true, bootstat := code }
    if code = 0 then
      .next { s with
        ptcfg := s.flash.ptcfg &&& 0xFFFF00001F, netdiam := s.diameter.getD 0
        hmeta := s.hmeta.map fun e => (e.1, { e.2 with seq := 0 }) }
    else .next s

/-- CORE_RESET: a core's strands, accumulators, caches, local store and engines take their reset values (R104, R161, R164,
R182). Its cocoons end FAULTED, and its nodes leave their groups; a dark core stays dark and a fenced one fenced (DEDUCED,
assumption log 39). -/
def execCoreReset (c : Nat) (s : State) : Res :=
  if !decide (c < 12288) then .fault .noSuchPlace
  else
    let s := (List.range 4).foldl (fun s i => if (s.strand c i).cocoon.isSome then s.killStrand c i else s) s
    let x := s.core c
    let s := { s with barGroups := s.barGroups.map fun (e : Nat × BarGroup) =>
      (e.1, { e.2 with done := SMap.erase e.2.done c, due := e.2.due.filter (· != c), rel := SMap.erase e.2.rel c }) }
    .next (s.setCore c { Core.reset with
      dark := x.dark, fenced := x.fenced, bumps := x.bumps, errors := x.errors, placed := x.placed, heldPlaced := x.heldPlaced
      preempt := x.preempt, sliceFault := x.sliceFault, replies := x.replies.filter fun e => e.1 == 4
      strands := Vector.replicate 4 { Strand.reset with run := if x.fenced then .fenced else .idle } })

end Sys2Proof.Machine
end

