-- ==== Sys2Proof/Machine/Control.lean ====
section
/-!
DEFINITION. The control instructions (R256 to R260) and the FMT prefix (R196). NEXTI is with the tasks.
-/

namespace Sys2Proof.Machine

/-- R196. -/
def execFmt (desc : W32) (s : State) : Res :=
  .next (s.begin_ .no false ⟨0, false⟩ fun _ =>
    (s.modMe fun t =>
      { t.retired (pcNext t.pc) with
        join4 := s.joinOf s.cur.1 s.cur.2, status := setBit t.status 5 true
        pxv := putBits t.pxv 0 32 desc.toNat }).stepTrap s.cur.1 s.cur.2)

/-- R257. -/
def execBr (tgt : W48) (p : Pred) (s : State) : Res :=
  .next (s.begin_ .no false p fun _ => s.transfer (pcTarget s.me.pc tgt) id)

/-- R258. -/
def execBrc (x : C2) (s : State) : Res :=
  .next (s.begin_ .no false x.p fun _ =>
    let w := etyWidth x.ty
    if (cmpTy x.ty x.cond false ((s.me.src 0 x.a).toNat % 2 ^ w) ((s.me.src 0 x.b).toNat % 2 ^ w)).1 then
      s.transfer (pcTarget s.me.pc x.imm) id
    else s.retire)

/-- R259. -/
def execCall (tgt : W48) (p : Pred) (s : State) : Res :=
  .next (s.begin_ .no false p fun _ => s.transfer (pcTarget s.me.pc tgt) fun t => t.setG 61 (pcNext t.pc))

/-- R259. -/
def execRet (p : Pred) (s : State) : Res := .next (s.begin_ .no false p fun _ => s.transfer (s.me.readG 61) id)

/-- R259. -/
def execJmp (a : Opd) (p : Pred) (s : State) : Res := .next (s.begin_ .no false p fun _ => s.transfer (s.me.src 0 a) id)

/-- R259. -/
def execJmpL (a : Opd) (p : Pred) (s : State) : Res :=
  .next (s.begin_ .no false p fun _ => s.transfer (s.me.src 0 a) fun t => t.setG 61 (pcNext t.pc))

/-- R260. -/
def execLoop (a : Opd) (tgt : W48) (p : Pred) (s : State) : Res :=
  .next (s.begin_ .no false p fun _ =>
    let n := s.me.src 0 a
    if n = 0 then s.retire
    else if n = 1 then s.finish (·.write a 0)
    else s.transfer (pcTarget s.me.pc tgt) (·.write a (n - 1)))

end Sys2Proof.Machine
end

