-- ==== Sys2Proof/Machine/Vector.lean ====
section
/-!
DEFINITION. The class V instructions: lane-wise arithmetic, conversion, transcendentals, operations across lanes, residue
lanes and masks (R263 to R284).
-/

namespace Sys2Proof.Machine

/-! ## Shared operations -/

/-- The lanes after an instruction: `f` gives the result of a lane where it is active, the old bits stay elsewhere, and the
flags are those of the active lanes (R264). -/
def laneRun (act : Nat → Bool) (w n : Nat) (old : W1024) (f : Nat → FRes) : List FRes :=
  (List.range n).map fun i => if act i then f i else ⟨lane w old i, 0⟩

/-- The OR of the flags of some results. -/
def orFlags (rs : List FRes) : Flags := rs.foldl (fun a r => a ||| r.fl) 0

/-- Writes a vector destination lane by lane and retires (R264). -/
def State.vecOut (s : State) (d : Opd) (p : Pred) (w : Nat) (f : Nat → FRes) : State :=
  let t := s.me
  let rs := laneRun (t.active p w) w (1024 / w) (t.readV (vNo d)) f
  s.finish fun t => (t.addFlags (orFlags rs)).writeV d (packLanes w (rs.map (·.bits)))

/-- An integer and a float form of one lane-wise instruction. -/
def PxSpec.byType (ty : ETy) (int flt : PxSpec) : PxSpec := if ty.isFlt then flt else int

/-- A lane-wise instruction of two sources: integer lanes by `op`, float lanes by `fop` (R268, R269). -/
def vecInstr (op : IOp) (fop : FOp) (int flt : PxSpec) (x : T2) (s : State) : Res :=
  .next (s.begin_ (.byType x.ty int flt) false noPred fun d =>
    let ty := d.srcTy x.ty
    let w := etyWidth ty
    let a := s.me.vsrc x.imm w x.a
    let b := s.me.vsrc x.imm w x.b
    s.vecOut x.d x.p w fun i =>
      if ty.isFlt then fltOp fop (etyFmt ty) (s.me.fenv d) (lane w a i) (lane w b i)
      else ⟨intOp op ty d.sat (lane w a i) (lane w b i), 0⟩)

/-- An integer-only lane-wise instruction of two sources (R268, R271). -/
def vecInt (op : IOp) (px : PxSpec) (x : T2) (s : State) : Res := vecInstr op .add px px x s

/-- A lane-wise copy of bits: lane i of the destination gets `f` of the lane number (R278, R280). -/
def vecMove (px : PxSpec) (ty : ETy) (d : Opd) (p : Pred) (f : Nat → Nat → Nat) (s : State) : Res :=
  .next (s.begin_ px false noPred fun x =>
    let w := etyWidth (x.srcTy ty)
    s.vecOut d p w fun i => ⟨f w i, 0⟩)

/-- A transcendental of FP32 lanes (R275). -/
def vecFun (f : Bool → Nat → FRes) (x : R1) (s : State) : Res :=
  .next (s.begin_ .no false noPred fun _ =>
    let a := s.me.vsrc x.imm 32 x.a
    s.vecOut x.d x.p 32 fun i => f s.me.ftz (lane 32 a i))

/-! ## Lane-wise arithmetic (R268 to R271) -/

/-- R268, R269. -/
def execVadd (x : T2) (s : State) : Res := vecInstr .add .add .narrowSat .round x s

/-- R268, R269. -/
def execVsub (x : T2) (s : State) : Res := vecInstr .sub .sub .narrowSat .round x s

/-- R268, R269. -/
def execVmul (x : T2) (s : State) : Res := vecInstr .mul .mul .narrowSat .round x s

/-- R268: SAT is accepted and does not apply. -/
def execVmulH (x : T2) (s : State) : Res := vecInt .mulh .narrowSat x s

/-- R268, R269. -/
def execVfma (x : T3) (s : State) : Res :=
  .next (s.begin_ (.byType x.ty .narrowSat .round) false noPred fun d =>
    let ty := d.srcTy x.ty
    let w := etyWidth ty
    let v := fun o i => lane w (s.me.vsrc x.imm w o) i
    s.vecOut x.d x.p w fun i =>
      if ty.isFlt then fmaF (etyFmt ty) (s.me.fenv d) (v x.a i) (v x.b i) (v x.c i)
      else
        let n := fun o => asInt (etySigned ty) w (v o i)
        ⟨narrow ty d.sat (n x.a * n x.b + n x.c), 0⟩)

/-- R253, R268. -/
def execVmin (x : T2) (s : State) : Res := vecInstr .min .min .narrow .nothing x s

/-- R253, R268. -/
def execVmax (x : T2) (s : State) : Res := vecInstr .max .max .narrow .nothing x s

/-- A sign operation of float lanes, or the exact integer result of a lane (R268, R270). -/
def vecSign (f : Nat → Nat → Nat) (g : Int → Int) (x : T1) (s : State) : Res :=
  .next (s.begin_ (.byType x.ty .narrowSat .nothing) false noPred fun d =>
    let ty := d.srcTy x.ty
    let w := etyWidth ty
    let a := s.me.vsrc x.imm w x.a
    s.vecOut x.d x.p w fun i =>
      if ty.isFlt then ⟨f w (lane w a i), 0⟩
      else ⟨narrow ty d.sat (g (asInt (etySigned ty) w (lane w a i))), 0⟩)

/-- R268, R270. -/
def execVabs (x : T1) (s : State) : Res := vecSign (fun w b => b % 2 ^ (w - 1)) (fun v => v.natAbs) x s

/-- R268, R270. -/
def execVneg (x : T1) (s : State) : Res := vecSign (fun w b => b ^^^ 2 ^ (w - 1)) (fun v => -v) x s

/-- R271. -/
def execVand (x : T2) (s : State) : Res := vecInt .and .narrow x s

/-- R271. -/
def execVandN (x : T2) (s : State) : Res := vecInt .andn .narrow x s

/-- R271. -/
def execVor (x : T2) (s : State) : Res := vecInt .or .narrow x s

/-- R271. -/
def execVxor (x : T2) (s : State) : Res := vecInt .xor .narrow x s

/-- R271. -/
def execVshl (x : T2) (s : State) : Res := vecInt .shl .narrow x s

/-- R271. -/
def execVshr (x : T2) (s : State) : Res := vecInt .shr .narrow x s

/-- R271. -/
def execVsar (x : T2) (s : State) : Res := vecInt .sar .narrow x s

/-! ## Compare, select, convert (R272 to R274) -/

/-- Bits of a mask, the first the lowest. -/
def packBits : List Bool → Nat
  | [] => 0
  | b :: l => b.toNat + 2 * packBits l

/-- The number of a k operand. -/
def kNo : Opd → Nat
  | .k n => n
  | _ => 0

/-- R272: bits at or above the number of lanes are written 0. -/
def execVcmp (x : C2) (s : State) : Res :=
  .next (s.begin_ .no false noPred fun _ =>
    let t := s.me
    let w := etyWidth x.ty
    let a := t.vsrc x.imm w x.a
    let b := t.vsrc x.imm w x.b
    let old := t.readK (kNo x.d)
    let rs := (List.range (1024 / w)).map fun i =>
      if t.active x.p w i then cmpTy x.ty x.cond t.ftz (lane w a i) (lane w b i) else (old.getLsbD i, 0)
    s.finish fun t =>
      (t.addFlags (rs.foldl (fun a r => a ||| r.2) 0)).write x.d (BitVec.ofNat 64 (packBits (rs.map (·.1)))))

/-- R273. -/
def execVsel (x : T3) (s : State) : Res :=
  let k := s.me.src 0 x.a
  vecMove .no x.ty x.d x.p (fun w i =>
    lane w (s.me.vsrc x.imm w (if k.getLsbD (laneBit w i) then x.b else x.c)) i) s

/-- R274. -/
def execVcvt (x : Cv) (s : State) : Res :=
  let src := s.me.desc.srcTy x.src
  let dst := s.me.desc.dstTy x.dst
  .next (s.begin_ ⟨true, [.i8, .ui8], [.i8, .ui8], false, !dst.isFlt, src.isFlt || dst.isFlt⟩ false noPred fun d =>
    let t := s.me
    let ws := etyWidth src
    let wd := etyWidth dst
    let w := max ws wd
    let a := t.vsrc x.imm ws x.a
    let rs := laneRun (t.active x.p w) wd (1024 / w) (t.readV (vNo x.d)) fun i =>
      cvtElem (t.fenv d) d.sat src dst (lane ws a i)
    s.finish fun t => (t.addFlags (orFlags rs)).writeV x.d (packLanes wd (rs.map (·.bits))))

/-! ## Transcendentals (R275) -/

/-- R151, R275. -/
def execVrcp (x : R1) (s : State) : Res := vecFun rcpF x s

/-- R151, R275. -/
def execVrsq (x : R1) (s : State) : Res := vecFun rsqF x s

/-- R151, R275. -/
def execVsqrt (x : R1) (s : State) : Res := vecFun (fun ftz a => sqrtF .fp32 ⟨0, ftz⟩ a) x s

/-- R151, R275. -/
def execVexp2 (x : R1) (s : State) : Res := vecFun exp2F x s

/-- R151, R275. -/
def execVlog2 (x : R1) (s : State) : Res := vecFun log2F x s

/-- R151, R275. -/
def execVtanh (x : R1) (s : State) : Res := vecFun tanhF x s

/-! ## Across lanes (R276 to R281) -/

/-- One combination of two present values (R276). -/
def redOp (op : RedOp) (ty : ETy) (env : FEnv) (p q : Nat) : FRes :=
  if ty.isFlt then
    match op with
    | .min => minmaxF (etyFmt ty) env.ftz false p q
    | .max => minmaxF (etyFmt ty) env.ftz true p q
    | _ => addF (etyFmt ty) env p q
  else
    let o : IOp := match op with
      | .add => .add | .min => .min | .max => .max | .and => .and | .or => .or | .xor => .xor
    ⟨intOp o ty false p q, 0⟩

/-- A combination in which a value may be absent (R276). -/
def redComb (op : RedOp) (ty : ETy) (env : FEnv) (p q : Option Nat) (fl : Flags) : Option Nat × Flags :=
  match p, q with
  | some p, some q => let r := redOp op ty env p q; (some r.bits, fl ||| r.fl)
  | some p, none => (some p, fl)
  | none, q => (q, fl)

/-- One level of the tree: two halves combined in order. -/
def redLevel (op : RedOp) (ty : ETy) (env : FEnv) : List (Option Nat) → List (Option Nat) → Flags → List (Option Nat) × Flags
  | p :: ps, q :: qs, fl =>
    let (r, fl) := redComb op ty env p q fl
    let (rs, fl) := redLevel op ty env ps qs fl
    (r :: rs, fl)
  | _, _, fl => ([], fl)

/-- The tree of R276; `k` levels are left. -/
def redTree (op : RedOp) (ty : ETy) (env : FEnv) : Nat → List (Option Nat) → Flags → Option Nat × Flags
  | 0, l, fl => ((l.head?).getD none, fl)
  | k + 1, l, fl =>
    let n := l.length / 2
    let (l, fl) := redLevel op ty env (l.take n) (l.drop n) fl
    redTree op ty env k l fl

/-- The identity of an operation in a type (R276). -/
def redIdentity (op : RedOp) (ty : ETy) : Nat :=
  let w := etyWidth ty
  if ty.isFlt then
    match op with
    | .min => (etyFmt ty).inf
    | .max => (etyFmt ty).inf + 2 ^ (w - 1)
    | _ => 0
  else
    match op with
    | .min => ofInt w (tyHi ty)
    | .max => ofInt w (tyLo ty)
    | .and => 2 ^ w - 1
    | _ => 0

/-- A NaN result is canonical (R144, R276). -/
def canonNan (ty : ETy) (b : Nat) : Nat :=
  if ty.isFlt && (readF (etyFmt ty) false b).isNan then (etyFmt ty).nan else b

/-- A source lane as a float instruction reads it (R148, R276). -/
def redRead (ty : ETy) (ftz : Bool) (b : Nat) : Nat := if ty.isFlt then asRead (etyFmt ty) ftz b else b

/-- IV where an active lane holds a signalling NaN, whether or not another lane is combined with it (R146). -/
def sigFlag (ty : ETy) (l : List (Option Nat)) : Flags :=
  if ty.isFlt && l.any (fun x => x.any fun b => (readF (etyFmt ty) false b).isSig) then fIV else 0

/-- The active source lanes of VREDUCE and VSCAN. -/
def Strand.redLanes (t : Strand) (x : Rd) (ty : ETy) : List (Option Nat) :=
  let w := etyWidth ty
  let a := t.readV (vNo x.a)
  (List.range (1024 / w)).map fun i => if t.active x.p w i then some (redRead ty t.ftz (lane w a i)) else none

/-- R276. -/
def execVreduce (x : Rd) (s : State) : Res :=
  .next (s.begin_ (.byType x.ty .narrow .round) false noPred fun d =>
    let ty := d.srcTy x.ty
    let w := etyWidth ty
    let l := s.me.redLanes x ty
    let (r, fl) := redTree x.op ty (s.me.fenv d) (bitLen (1024 / w) - 1) l (sigFlag ty l)
    let v := match r with
      | some b => canonNan ty b
      | none => redIdentity x.op ty
    s.finish fun t => (t.addFlags fl).write x.d (ext64 (etySigned ty) w v))

/-- The running combinations of R277 over the lanes. -/
def scanLanes (op : RedOp) (ty : ETy) (env : FEnv) : List (Option Nat) → Option Nat → List FRes
  | [], _ => []
  | none :: l, acc => ⟨0, 0⟩ :: scanLanes op ty env l acc
  | some b :: l, acc =>
    let (r, fl) := redComb op ty env acc (some b) (sigFlag ty [some b])
    ⟨canonNan ty (r.getD 0), fl⟩ :: scanLanes op ty env l r

/-- R277: a NaN that a lane receives is canonical, in the first active lane as in the others (R144). -/
def execVscan (x : Rd) (s : State) : Res :=
  .next (s.begin_ (.byType x.ty .narrow .round) false noPred fun d =>
    let ty := d.srcTy x.ty
    let rs := scanLanes x.op ty (s.me.fenv d) (s.me.redLanes x ty) none
    s.vecOut x.d x.p (etyWidth ty) fun i => rs[i]?.getD ⟨0, 0⟩)

/-- R278. -/
def execVperm (x : T2) (s : State) : Res :=
  vecMove .no x.ty x.d x.p (fun w i =>
    lane w (s.me.readV (vNo x.a)) (lane w (s.me.readV (vNo x.b)) i % (1024 / w))) s

/-- R278. -/
def execVrot (x : T2) (s : State) : Res :=
  vecMove .no x.ty x.d x.p (fun w i =>
    lane w (s.me.readV (vNo x.a)) ((i + (s.me.src x.imm x.b).toNat % (1024 / w)) % (1024 / w))) s

/-- R278. -/
def execVbcast (x : T2) (s : State) : Res :=
  vecMove .no x.ty x.d x.p (fun w _ =>
    lane w (s.me.readV (vNo x.a)) ((s.me.src x.imm x.b).toNat % (1024 / w))) s

/-- R279: acts when its one lane is active. -/
def execVextr (x : T2) (s : State) : Res :=
  .next (s.begin_ .no false noPred fun _ =>
    let w := etyWidth x.ty
    let l := (s.me.src x.imm x.b).toNat % (1024 / w)
    if s.me.active x.p w l then
      s.finish (·.write x.d (ext64 (etySigned x.ty) w (lane w (s.me.readV (vNo x.a)) l)))
    else s.retire)

/-- R279: acts when its one lane is active. -/
def execVinsl (x : T2) (s : State) : Res :=
  .next (s.begin_ .no false noPred fun _ =>
    let w := etyWidth x.ty
    let l := (s.me.src x.imm x.b).toNat % (1024 / w)
    if s.me.active x.p w l then
      let old := s.me.readV (vNo x.d)
      s.finish (·.writeV x.d (packLanes w ((List.range (1024 / w)).map fun i =>
        if i = l then (s.me.src x.imm x.a).toNat else lane w old i)))
    else s.retire)

/-- R280. -/
def execViota (x : T1) (s : State) : Res :=
  vecMove .narrow x.ty x.d x.p (fun _ i => (s.me.src x.imm x.a).toNat + i) s

/-- R280. -/
def execVmov (x : T1) (s : State) : Res :=
  vecMove .no x.ty x.d x.p (fun w i => lane w (s.me.vsrc x.imm w x.a) i) s

/-- The active lanes of a register, in ascending order. -/
def Strand.picked (t : Strand) (p : Pred) (w : Nat) (a : W1024) : List Nat :=
  ((List.range (1024 / w)).filter (t.active p w)).map (lane w a)

/-- R281: every lane of the destination is written. -/
def execVcompress (x : T1) (s : State) : Res :=
  .next (s.begin_ .no false noPred fun _ =>
    let w := etyWidth x.ty
    s.finish (·.writeV x.d (packLanes w (s.me.picked x.p w (s.me.readV (vNo x.a))))))

/-- R281: the number of active lanes below a lane is the lane it takes. -/
def execVexpand (x : T1) (s : State) : Res :=
  vecMove .no x.ty x.d x.p (fun w i =>
    lane w (s.me.readV (vNo x.a)) ((List.range i).filter (s.me.active x.p w)).length) s

/-! ## Residue lanes (R282, R283) -/

/-- R282. -/
def execVrns (x : R1) (s : State) : Res :=
  .next (s.begin_ ⟨true, [.rn8, .rn4], [], false, false, false⟩ false noPred fun d =>
    let ty := d.srcTy .i32
    let w := etyWidth ty
    let a := s.me.vsrc x.imm w x.a
    s.vecOut x.d x.p 32 fun i =>
      ⟨raOfInt (if ty = .i32 then asInt true 32 (lane 32 a i) else rnValue ty (lane w a i)), 0⟩)

/-- R154, R283. -/
def execVcrt (x : R1) (s : State) : Res :=
  .next (s.begin_ .no false noPred fun _ =>
    let a := s.me.readV (vNo x.a)
    s.vecOut x.d x.p 32 fun i => ⟨ofInt 32 (raValue (lane 32 a i)), 0⟩)

/-- A channel-wise operation of two RA lanes (R283). -/
def vecRa (f : Nat → Nat → Nat → Nat) (x : R2) (s : State) : Res :=
  .next (s.begin_ .no false noPred fun _ =>
    let a := s.me.vsrc x.imm 32 x.a
    let b := s.me.vsrc x.imm 32 x.b
    s.vecOut x.d x.p 32 fun i =>
      let p := raRead (lane 32 a i)
      let q := raRead (lane 32 b i)
      ⟨raWord (f 1023 p.1 q.1 % 1023, f 1024 p.2.1 q.2.1 % 1024, f 1025 p.2.2 q.2.2 % 1025), 0⟩)

/-- R283. -/
def execVradd (x : R2) (s : State) : Res := vecRa (fun _ a b => a + b) x s

/-- R283. -/
def execVraddSub (x : R2) (s : State) : Res := vecRa (fun m a b => a + m - b) x s

/-- R283. -/
def execVrmul (x : R2) (s : State) : Res := vecRa (fun _ a b => a * b) x s

/-! ## Masks (R284), predicated as scalars -/

/-- An operation of two masks. -/
def maskInstr (f : W64 → W64 → W64) (x : R2) (s : State) : Res :=
  .next (s.begin_ .no false x.p fun _ => s.finish (·.write x.d (f (s.me.src x.imm x.a) (s.me.src x.imm x.b))))

/-- R284. -/
def execKopAnd (x : R2) (s : State) : Res := maskInstr (· &&& ·) x s

/-- R284. -/
def execKopOr (x : R2) (s : State) : Res := maskInstr (· ||| ·) x s

/-- R284. -/
def execKopXor (x : R2) (s : State) : Res := maskInstr (· ^^^ ·) x s

/-- R284. -/
def execKopAndn (x : R2) (s : State) : Res := maskInstr (fun a b => a &&& ~~~b) x s

/-- R284. -/
def execKopNot (x : R1) (s : State) : Res :=
  .next (s.begin_ .no false x.p fun _ => s.finish (·.write x.d (~~~(s.me.src x.imm x.a))))

/-- R284. -/
def execKmov (x : R1) (s : State) : Res :=
  .next (s.begin_ .no false x.p fun _ => s.finish (·.write x.d (s.me.src x.imm x.a)))

/-- R284: the lanes of the type whose bit is 1. -/
def execKpop (x : T1) (s : State) : Res :=
  .next (s.begin_ .no false x.p fun _ =>
    let w := etyWidth x.ty
    let k := s.me.src x.imm x.a
    s.finish (·.write x.d (BitVec.ofNat 64 ((List.range (1024 / w)).filter fun i => k.getLsbD (laneBit w i)).length)))

end Sys2Proof.Machine
end

