-- ==== Sys2Proof/Machine/Tiles.lean ====
section
/-!
DEFINITION. The instructions on tiles, operand slots and streams (R117 to R124, R224 to R227, R233, R234).
Readings: DEDUCED, assumption log 27.
-/

namespace Sys2Proof.Machine

/-- The first bank of a LOCAL range that is not in SCR mode, as the address at which it begins (R105). -/
def Core.notScr (x : Core) (a n : Nat) : Option Nat :=
  ((List.range ((a + n - 1) / 8192 + 1 - a / 8192)).find? fun k => x.mode (a / 8192 + k) != 0).map fun k =>
    max a (8192 * (a / 8192 + k))

/-! ## TDEF and TSTAT -/

/-- Whether a definition breaks a rule of shape or format (R119, R123). -/
def Tile.illShaped (e : Tile) : Bool :=
  let f := ETy.ofCode (e.w1.extractLsb' 26 4)
  let es := max 1 (etyWidth e.ety / 8)
  bits e.w0 56 8 != 0 || bits e.w1 55 9 != 0 || e.w1.getLsbD 31 || bits e.w2 44 4 != 0 || f.isNone ||
    e.rows == 0 || decide (4096 < e.rows) || e.cols == 0 || decide (4096 < e.cols) ||
    (e.ety == .rn4 && e.cols % 2 == 1) ||
    (!e.loc && (e.off % 64 != 0 || decide (e.lpitch < e.rowBytes) || e.lpitch % 64 != 0)) ||
    (e.loc && e.lpitch != 0) || e.hpitch % es != 0 ||
    (e.loc && !([(ETy.bf16, 16, 128), (.bf16, 128, 16), (.fp16, 16, 128), (.fp16, 128, 16), (.rn8, 16, 256),
      (.rn4, 16, 512)].contains (e.ety, e.rows, e.cols)))

/-- What a definition of words 0 to 2 of an entry raises (R119): a cause and BADADDR. -/
def State.defineCause (s : State) (t : Nat) (w0 w1 w2 : W64) : Option (Nat × W64) :=
  let x := s.myCore
  let e := { x.tile t with w0, w1, w2 }
  if e.state != 0 || e.strm then some (cTileState, 0)
  else if e.illShaped then some (cShapeFormat, 0)
  else if e.home != 0 && (tileVa e.home.toNat).isNone then some (cAperture, e.home)
  else if !e.loc && decide (524288 < e.off + e.span) then some (cAperture, 0x80000)
  else
    match (if e.loc then none else x.notScr e.off e.span) with
    | some a => some (cBankMode, BitVec.ofNat 64 a)
    | none =>
      if !e.loc && x.reserved e.off e.span s.me.prv then some (cProtection, BitVec.ofNat 64 (max e.off 516096)) else none

/-- Writes words 0 to 2 of an entry and clears what a fill left (R119). -/
def State.tileWrite (s : State) (t : Nat) (w0 w1 w2 : W64) : State :=
  s.modTile s.cur.1 t fun e =>
    let e := { e with w0, w1, w2 }
    { e.setLog [] with w3 := putBits (e.setLog []).w3 23 8 0, failAddr := 0 }

/-- Checks a definition and writes it. -/
def State.tileDefine (s : State) (t : Nat) (w0 w1 w2 : W64) : State :=
  if (s.myCore.tile t).refilling then s.stall
  else match s.defineCause t w0 w1 w2 with
  | some (k, a) => s.raiseAcc k a
  | none => (s.tileWrite t w0 w1 w2).retire

/-- R119, R224. -/
def execTdef (t : Fin 64) (a : Opd) (off : W32) (p : Pred) (s : State) : Res :=
  .next (s.begin_ .no false p fun _ =>
    let x := s.myCore
    let a := s.me.src 0 a + off.signExtend 64
    match decodeAddr s.me.stkb a with
    | some (.loc o) =>
      if a.toNat % 8 != 0 then s.raiseAcc cAlign a
      else if 524288 < o + 24 then s.raiseAcc cAperture 0x80000
      else if x.changing o 24 then s.hold
      else
        match x.notScr o 24 with
        | some b => s.raiseAcc cBankMode (BitVec.ofNat 64 b)
        | none =>
          if x.reserved o 24 s.me.prv then s.raiseAcc cProtection (BitVec.ofNat 64 (max o 516096))
          else
            let w := fun k => BitVec.ofNat 64 (x.ls.num (o + 8 * k) 8)
            s.tileDefine t (w 0) (w 1) (w 2)
    | _ => s.raiseAcc cAperture a)

/-- R226. -/
def execTstat (d : Opd) (t : Fin 64) (p : Pred) (s : State) : Res :=
  .next (s.begin_ .no false p fun _ => s.finish (·.write d (s.myCore.tile t).w3))

/-- R226. -/
def execTstatTime (d : Opd) (t : Fin 64) (p : Pred) (s : State) : Res :=
  .next (s.begin_ .no false p fun _ => s.finish (·.write d (s.myCore.tile t).w4))

/-! ## TFILL, TDRAIN, TREL -/

/-- What an engine checks of an entry before it starts work on it (R93, R96, R121, R225): a cause and BADADDR. -/
def State.tileChecks (s : State) (t : Nat) (e : Tile) : Option (Nat × W64) :=
  let x := s.myCore
  let lines := e.dataLines.length
  let last := if e.residue then e.scaleHome + 4 * e.rows - 1 else e.home.toNat + (e.rows - 1) * e.hpitch + e.rowBytes - 1
  match (if e.loc then none else x.notScr e.off e.span) with
  | some a => some (cBankMode, BitVec.ofNat 64 a)
  | none =>
    if e.loc && (x.slot e.slotNo).bound != some t then some (cTileState, 0)
    else if !e.loc && x.reserved e.off e.span s.me.prv then some (cProtection, BitVec.ofNat 64 (max e.off 516096))
    else if !e.loc && x.tileBusy e.off e.span then some (cTileState, BitVec.ofNat 64 e.off)
    else if e.residue && decide (3 * lines < e.rows) then some (cShapeFormat, 0)
    else if s.ptsh = 0 || (tileVa e.home.toNat).isNone then some (cAperture, e.home)
    else if 2 ^ 56 ≤ last then some (cAperture, 0x100000000000000)
    else none

/-- What a fill of an entry raises (R93, R96, R120, R121, R126, R225): a cause and BADADDR. -/
def State.fillCause (s : State) (t : Nat) : Option (Nat × W64) :=
  let e := s.myCore.tile t
  if e.state != 0 || e.home == 0 then some (cTileState, 0)
  else
    match s.tileChecks t e, s.loggedTile (s.me.asid.setWidth 16) e with
    | some x, _ => some x
    | none, .error _ => some (cShapeFormat, 0)
    | none, .ok _ => none

/-- Starts the fill of an entry for the strand whose turn it is (R120). -/
def State.fillFor (s : State) (t : Nat) : State :=
  let i := s.cur.2
  let s := s.modMe fun t => { t with tlc := t.tlc + 1 }
  let s := s.modTile s.cur.1 t fun e => { e with w3 := putBits e.w3 20 2 i }
  s.fillBegin s.cur.1 t none i s.me.prv (s.me.asid.setWidth 16) s.me.pc

/-- R120, R225. -/
def execTfill (t : Fin 64) (p : Pred) (s : State) : Res :=
  .next (s.begin_ .no false p fun _ =>
    let e := s.myCore.tile t
    if e.refilling then s.stall
    else if e.state = 0 && e.home != 0 && !e.loc && s.myCore.changing e.off e.span then s.hold
    else
      match s.fillCause t with
      | some (k, a) => s.raiseAcc k a
      | none => if 64 ≤ s.me.tlc then s.hold else (s.fillFor t).retire)

/-- Starts the drain of a READY entry for the strand whose turn it is (R102, R120). -/
def State.drainFor (s : State) (t : Nat) : State :=
  let i := s.cur.2
  let s := s.modMe fun t => { t with tlc := t.tlc + 1 }
  let s := s.modTile s.cur.1 t fun e => { e with w3 := putBits e.w3 20 2 i }
  s.drainBegin s.cur.1 t i s.me.prv (s.me.asid.setWidth 16) s.me.pc

/-- The checks of a drain, and the drain. -/
def State.drainChecked (s : State) (t : Nat) : State :=
  let e := s.myCore.tile t
  if e.state != 2 || e.home == 0 then s.raise0 cTileState
  else if decide (64 ≤ s.me.tlc) then s.hold
  else
    match s.tileChecks t e with
    | some (k, a) => s.raiseAcc k a
    | none => (s.drainFor t).retire

/-- R120, R225. -/
def execTdrain (t : Fin 64) (p : Pred) (s : State) : Res :=
  .next (s.begin_ .no false p fun _ => if (s.myCore.tile t).refilling then s.stall else s.drainChecked t)

/-- R120, R133, R225: a log-dirty entry is drained. -/
def execTrel (t : Fin 64) (p : Pred) (s : State) : Res :=
  .next (s.begin_ .no false p fun _ =>
    let e := s.myCore.tile t
    if e.refilling then s.stall
    else if e.state != 2 then s.raise0 cTileState
    else if e.logDirty then s.drainChecked t
    else (s.tileEmpty s.cur.1 t).retire)

/-! ## TLDV and TSTV (R227) -/

/-- The checks of R227 on an entry, a row and a column: the state of a trap or a stall, or the place of element
(row, column). -/
def State.tileElem (s : State) (t : Nat) (row col : W64) : Except State Nat :=
  let e := s.myCore.tile t
  let w := etyWidth e.ety
  let a := e.off + row.toNat * e.lpitch + col.toNat * w / 8
  if e.loc then .error (s.raise0 cShapeFormat)
  else if e.state = 1 then .error s.stall
  else if e.state != 2 then .error (s.raise0 cTileState)
  else if e.rows ≤ row.toNat || e.cols ≤ col.toNat then .error (s.raiseAcc cAperture (BitVec.ofNat 64 a))
  else if e.ety == .rn4 && col.toNat % 2 = 1 then .error (s.raiseAcc cAlign (BitVec.ofNat 64 a))
  else .ok a

/-- The active lanes whose column the tile has. -/
def Strand.tileLanes (t : Strand) (p : Pred) (e : Tile) (col : Nat) : List Nat :=
  let w := etyWidth e.ety
  (List.range (1024 / w)).filter fun i => t.active p w i && decide (col + i < e.cols)

/-- The first lane that the bank and tile rules refuse, with its cause and address. -/
def Core.laneRefusal (x : Core) (a w : Nat) (prv : Bool) (l : List Nat) : Option (Nat × W64) :=
  l.findSome? fun i =>
    (x.localRefusal (a + i * w / 8) (max 1 (w / 8)) prv).map fun k => (k, BitVec.ofNat 64 (a + i * w / 8))

/-- R227. -/
def execTldv (d row col : Opd) (t : Fin 64) (p : Pred) (s : State) : Res :=
  .next (s.begin_ .no false noPred fun _ =>
    let x := s.myCore
    let e := x.tile t
    let w := etyWidth e.ety
    let c := s.me.src 0 col
    match s.tileElem t (s.me.src 0 row) c with
    | .error s => s
    | .ok a =>
      match x.laneRefusal a w s.me.prv (s.me.tileLanes p e c.toNat) with
      | some (k, b) => s.raiseAcc k b
      | none =>
        let (s, ls) := s.lsView s.cur.1
        s.vecOut d p w fun i =>
          if c.toNat + i < e.cols then
            ⟨if w = 4 then ls.num (a + i / 2) 1 / 16 ^ (i % 2) % 16 else ls.num (a + i * w / 8) (w / 8), 0⟩
          else ⟨0, 0⟩)

/-- Writes one lane of TSTV. -/
def Core.tileStore (x : Core) (a w i v : Nat) : Core :=
  if w = 4 then
    let b := x.ls.num (a + i / 2) 1
    x.storeLocal (a + i / 2) 1 (if i % 2 = 0 then b / 16 * 16 + v % 16 else b % 16 + 16 * (v % 16))
  else x.storeLocal (a + i * w / 8) (w / 8) v

/-- R227. -/
def execTstv (row col data : Opd) (t : Fin 64) (p : Pred) (s : State) : Res :=
  .next (s.begin_ .no false noPred fun _ =>
    let x := s.myCore
    let e := x.tile t
    let w := etyWidth e.ety
    let c := s.me.src 0 col
    match s.tileElem t (s.me.src 0 row) c with
    | .error s => s
    | .ok a =>
      let l := s.me.tileLanes p e c.toNat
      match x.laneRefusal a w s.me.prv l with
      | some (k, b) => s.raiseAcc k b
      | none =>
        let v := s.me.readV (vNo data)
        (s.modMyCore fun x => l.foldl (fun x i => x.tileStore a w i (lane w v i)) x).retire)

/-! ## Operand slots (R124, R233) -/

/-- R124: blocked claimants are served in the order they blocked. -/
def execOclaim (o : Fin 16) (t : Fin 64) (p : Pred) (s : State) : Res :=
  .next (s.begin_ .no false p fun _ =>
    let x := s.myCore
    let i := s.cur.2
    let e := x.tile t
    let free := { x with slotWait := x.slotWait.filter (· != (o.val, i)) }
    let queued := if x.slotWait.contains (o.val, i) then x else { x with slotWait := x.slotWait ++ [(o.val, i)] }
    if e.refilling then s.stall
    else if e.state != 0 || !e.loc || e.slotNo != o.val then (s.modMyCore fun _ => free).raise0 cTileState
    else
      match (x.slot o).bound with
      | some k => if k = t.val then (s.modMyCore fun _ => free).retire else (s.modMyCore fun _ => queued).stall
      | none =>
        if ((x.slotWait.find? (·.1 == o.val)).map (·.2)).getD i = i then
          (s.modMyCore fun _ => free.setSlot o { x.slot o with bound := some t.val }).retire
        else (s.modMyCore fun _ => queued).stall)

/-- R121, R124. -/
def execOfill (t src : Fin 64) (p : Pred) (s : State) : Res :=
  .next (s.begin_ .no false p fun _ =>
    let x := s.myCore
    let e := x.tile t
    let f := x.tile src
    if f.state = 1 then s.stall
    else if f.state != 2 then s.raise0 cTileState
    else if e.state != 0 || !e.loc || (x.slot e.slotNo).bound != some t.val then s.raise0 cTileState
    else if f.loc || f.ety != e.ety || f.rows != e.rows || f.cols != e.cols then s.raise0 cShapeFormat
    else if decide (64 ≤ s.me.tlc) then s.hold
    else
      let i := s.cur.2
      let s := s.modMe fun t => { t with tlc := t.tlc + 1 }
      (s.modTile s.cur.1 t fun e => { e.setState 1 with job := .ofill f.off f.lpitch f.rows f.rowBytes f.residue i }).retire)

/-- Whether a matrix operation reads a slot (R124, R286). -/
def MxKind.readsSlot (k : MxKind) (o : Nat) : Bool :=
  match k with
  | .mma _ sa sb _ _ => sa == o || sb == o
  | .mmu _ sa sb _ _ => sa == o || sb == o
  | .adrn _ _ _ _ _ _ scl _ ssa ssb => (scl % 2 == 1 && ssa == o) || (decide (2 ≤ scl) && ssb == o)
  | _ => false

/-- R124, R287. -/
def execOrels (o : Fin 16) (p : Pred) (s : State) : Res :=
  .next (s.begin_ .no false p fun _ =>
    let x := s.myCore
    match (x.slot o).bound with
    | none => s.retire
    | some t =>
      let e := x.tile t
      if e.state = 1 || e.state = 3 then s.raise0 cTileState
      else if x.mxq.any fun m => m.kind.readsSlot o && m.phase != .past then s.hold
      else
        let s := s.tileEmpty s.cur.1 t
        (s.modMyCore fun x => x.setSlot o { x.slot o with bound := none }).retire)

/-! ## Streams (R101, R102, R234) -/

/-- R101, R234. An entry never defined has no tile's shape and is refused. The row pitch that the ring's entries share is LPITCH, the
one of the local range (DESIGN CHOICE, assumption log 52). -/
def execSubs (base shp : Opd) (t : Fin 64) (rn1 : Fin 16) (sid : Fin 4) (p : Pred) (s : State) : Res :=
  .next (s.begin_ .no false p fun _ =>
    let x := s.myCore
    let i := s.cur.2
    let rn := rn1.val + 1
    let ring := (List.range rn).map fun j => x.tile (t.val + j)
    let e0 := x.tile t
    if 64 < t.val + rn then s.raisePc cIllegalEncoding
    else if ring.any (·.refilling) then s.stall
    else if (SMap.get? x.streams sid).isSome then s.raise0 cTileState
    else
      match x.shapePlace s.me.stkb (s.me.src 0 shp) s.me.prv with
      | .error (k, a) => s.raiseAcc k a
      | .ok off =>
        let (h, bad) := x.shapeAt off
        if bad || h.dims.any (fun d => d.2.2 != 0) then s.raise0 cShapeFormat
        else if ring.any fun e => e.state != 0 || e.rows = 0 || e.cols = 0 || e.rows != e0.rows || e.cols != e0.cols || e.lpitch != e0.lpitch || e.ety != e0.ety then
          s.raise0 cTileState
        else
          let k : Stream := { tf := t, rn, base := s.me.src 0 base, shape := h, next := 0, origin := i, priv := s.me.prv,
                              asid := s.me.asid.setWidth 16, ending := false, pushing := false }
          let s := (List.range rn).foldl (fun s j =>
            s.modTile s.cur.1 (t.val + j) fun e => { e with w3 := setBit (putBits e.w3 20 2 i) 22 true, unsub := false }) s
          (s.modMyCore fun x => { x with streams := SMap.set x.streams sid k }).retire)

/-- R234. -/
def execUnsubs (sid : Fin 4) (p : Pred) (s : State) : Res :=
  .next (s.begin_ .no false p fun _ => (s.streamStop s.cur.1 sid).retire)

end Sys2Proof.Machine
end

