-- ==== Sys2Proof/Machine/Copies.lean ====
section
/-!
DEFINITION. The copy instructions and the groups (R88 to R100, R231, R232, R235).
Readings: DEDUCED, assumption log 26.
-/

namespace Sys2Proof.Machine

/-! ## The checks of R93 -/

/-- The lowest and highest byte of one side of a copy. -/
def Shape.sides (h : Shape) (base : W64) (f : Nat × Int × Int → Int) : W64 × W64 :=
  let (lo, hi) := h.span f
  (base + BitVec.ofInt 64 lo, base + BitVec.ofInt 64 hi)

/-- Whether a kind allows a place as its source or as its destination (R92). -/
def kindAllows (kind : Nat) (isSrc : Bool) : Place → Bool
  | .glob _ | .stack _ => if isSrc then kind == 0 else kind == 1
  | .loc _ => if isSrc then kind != 0 else kind == 0 || kind == 5
  | .win _ _ => !isSrc && (kind == 2 || kind == 6)

/-- Checks the places of one side (R25, R34, R92): the lowest failing address, or the place of the lowest byte. -/
def sidePlace (kind : Nat) (isSrc mapped : Bool) (stkb : W64) (ends : W64 × W64) (noWrap : Bool) : Except W64 Place :=
  match decodeAddr stkb ends.1 with
  | none => .error ends.1
  | some p =>
    let globe := match p with | .glob _ | .stack _ => true | _ => false
    if !kindAllows kind isSrc p || (globe && !mapped) then .error ends.1
    else if noWrap && (decodeAddr stkb ends.2).any (samePlace p) then .ok p
    else .error (firstBad ends.1 p)

/-- The LOCAL range of a side: its offset and length. -/
def localSide (p : Place) (ends : W64 × W64) : Option (Nat × Nat) :=
  match p with
  | .loc off => some (off, (ends.2 - ends.1).toNat + 1)
  | _ => none

/-- Whether adding a span's ends to a base stays within 64 bits. -/
def spanFits (h : Shape) (base : W64) (f : Nat × Int × Int → Int) : Bool :=
  let (lo, hi) := h.span f
  decide (0 ≤ (base.toNat : Int) + lo) && decide ((base.toNat : Int) + hi < 2 ^ 64)

/-- Where a user-mode destination at other cores reaches a resident bank 63 (R93, R110): the lowest such address. -/
def State.remoteReserved (s : State) (kind : Nat) (box : W64) (q : Place) (ends : W64 × W64) (prv : Bool) : Option W64 :=
  let n := (ends.2 - ends.1).toNat + 1
  match q with
  | .win k off => if (s.core k).reserved off n prv then some (ends.1 + BitVec.ofNat 64 (516096 - off)) else none
  | .loc off =>
    if kind = 5 && (boxMembers box).any fun k => (s.core k).reserved off n prv then some (ends.1 + BitVec.ofNat 64 (516096 - off))
    else none
  | _ => none

/-- The checks of R93 and R121 after the shape record's own: a cause and BADADDR. -/
def State.copyChecks (s : State) (kind : Nat) (box : W64) (h : Shape) (src dst : W64) : Option (Nat × W64) :=
  let x := s.myCore
  let t := s.me
  let esz := h.esz
  if kind = 6 && esz != 4 then some (cShapeFormat, 0)
  else if src.toNat % esz != 0 then some (cAlign, src)
  else if dst.toNat % esz != 0 then some (cAlign, dst)
  else if h.dims.any fun d => d.2.1 % (esz : Int) != 0 || d.2.2 % (esz : Int) != 0 then some (cAlign, t.pc)
  else if h.count = 0 then none
  else
    let es := h.sides src (·.2.1)
    let ed := h.sides dst (·.2.2)
    let mapped := s.ptsh != 0
    match sidePlace kind true mapped t.stkb es (spanFits h src (·.2.1)), sidePlace kind false mapped t.stkb ed (spanFits h dst (·.2.2)) with
    | .error a, _ => some (cAperture, a)
    | .ok _, .error a => some (cAperture, a)
    | .ok p, .ok q =>
      let dead := match q with | .win k _ => !s.live k | _ => false
      let ls := (localSide p es).toList ++ (localSide q ed).toList
      if dead then some (cAperture, ed.1)
      else
        match ls.findSome? fun r => x.notScr r.1 r.2 with
        | some a => some (cBankMode, BitVec.ofNat 64 a)
        | none =>
          match (ls.findSome? fun r => if x.reserved r.1 r.2 t.prv then some (BitVec.ofNat 64 (max r.1 516096)) else none) <|>
              s.remoteReserved kind box q ed t.prv with
          | some a => some (cProtection, a)
          | none => (ls.find? fun r => x.tileBusy r.1 r.2).map fun r => (cTileState, BitVec.ofNat 64 r.1)

/-- Whether a copy's LOCAL side lies in a bank that changes its mode: it stalls (R109). -/
def State.copyStalls (s : State) (kind : Nat) (h : Shape) (src dst : W64) : Bool :=
  let x := s.myCore
  let t := s.me
  let side := fun (isSrc : Bool) (ends : W64 × W64) => match sidePlace kind isSrc true t.stkb ends true with
    | .ok p => (localSide p ends).any fun r => x.changing r.1 r.2
    | .error _ => false
  h.count != 0 && (side true (h.sides src (·.2.1)) || side false (h.sides dst (·.2.2)))

/-! ## CPY (R231) -/

/-- Whether a GRPSET waits on a group entry (R98). -/
def Core.grpWaits (x : Core) (n : Nat) : Bool :=
  x.strands.toList.any fun t => match t.wait with | .grpset k _ => k == n | _ => false

/-- Starts a copy of a kind (R88 to R94, R231). On an ACTIVE id the instruction stalls before the checks of R93, which it makes
once the id has left ACTIVE (DESIGN CHOICE, assumption log 52). Of the copies that name a group entry on which a GRPSET waits, only an
MCAST stalls, as R231 has it, and not a REDC into the core's own entry (R98; DESIGN CHOICE, assumption log 52). -/
def State.copyIssue (s : State) (kind : Nat) (x : Cp) : State :=
  let c := s.cur.1
  let k := s.myCore
  let t := s.me
  let src := t.src 0 x.src
  let dst := t.src 0 x.dst
  let g := k.group x.grp
  if (k.copyId x.id).copy.isSome || decide (64 ≤ t.cpc) || (kind = 5 && k.grpWaits x.grp) then s.hold
  else
    match k.shapePlace t.stkb (t.src 0 x.shp) t.prv with
    | .error (n, a) => s.raiseAcc n a
    | .ok off =>
      let (h, bad) := k.shapeAt off
      if bad then s.raise0 cShapeFormat
      else if k.changing off 256 || s.copyStalls kind h src dst then s.hold
      else
        match s.copyChecks kind (if kind = 5 && bits g.desc 48 3 = 1 then g.desc else 0) h src dst with
        | some (n, a) => s.raiseAcc n a
        | none =>
          if kind = 5 && bits g.desc 48 3 != 1 then s.raisePc cAperture
          else
            let i := s.cur.2
            let gen := if kind = 5 then g.gen.toNat else 0
            let w0 := fun (st : Nat) => BitVec.ofNat 64 (st + 8 * kind + 64 * i + 256 * gen)
            if h.count = 0 then
              (s.modMyCore (·.setCopyId x.id
                { w0 := w0 2, w1 := 0, w2 := s.timecode, w3 := s.timecode, reported := false, copy := none })).retire
            else
              let cp : Copy :=
                { kind, strand := i, priv := t.prv, asid := t.asid.setWidth 16, stkb := t.stkb, pc := t.pc, src, dst, shape := h
                  elem := 0, out := 0, box := if kind = 5 then g.desc else 0, grp := x.grp, midx := x.midx.toNat
                  walking := false, stopped := false, killed := false, failed := none, acked := false, old := if 2 ≤ kind then k.ls else [] }
              let s := s.modMyCore (·.setCopyId x.id
                { w0 := w0 1, w1 := 0, w2 := s.timecode, w3 := 0, reported := false, copy := some cp })
              let s := s.modMe fun t => { t with cpc := t.cpc + 1 }
              (s.copyGo c x.id).retire

/-- R92, R231. -/
def execCpyG2l (x : Cp) (s : State) : Res := .next (s.begin_ .no false x.p fun _ => s.copyIssue 0 x)

/-- R92, R231. -/
def execCpyL2g (x : Cp) (s : State) : Res := .next (s.begin_ .no false x.p fun _ => s.copyIssue 1 x)

/-- R92, R231. -/
def execCpyL2r (x : Cp) (s : State) : Res := .next (s.begin_ .no false x.p fun _ => s.copyIssue 2 x)

/-- R99, R231. -/
def execCpyMcast (x : Cp) (s : State) : Res := .next (s.begin_ .no false x.p fun _ => s.copyIssue 5 x)

/-- R100, R231. -/
def execCpyRedc (x : Cp) (s : State) : Res := .next (s.begin_ .no false x.p fun _ => s.copyIssue 6 x)

/-- R89, R232. -/
def execCpyq (d : Opd) (clr : Bool) (word : Fin 4) (id : Fin 64) (p : Pred) (s : State) : Res :=
  .next (s.begin_ .no false p fun _ =>
    let e := s.myCore.copyId id
    let v := match word with
      | 0 => e.w0
      | 1 => e.w1
      | 2 => e.w2
      | 3 => e.w3
    let s := s.modMe (·.write d v)
    (if clr && decide (2 ≤ bits e.w0 0 2) then s.modMyCore (·.setCopyId id .reset) else s).retire)

/-! ## GRPSET (R97, R98, R235) -/

/-- Whether a group entry has messages, or lines with some contributions, in flight (R98). -/
def Group.draining (g : Group) : Bool := g.drain != 0 || g.lines.any (·.2 != 0)

/-- Writes a group entry: GEN advances (R97). -/
def Core.writeGroup (x : Core) (n : Nat) (d : W64) : Core :=
  x.setGroup n { desc := d, gen := (x.group n).gen + 1, drain := 0, lines := [] }

/-- The checks of R97: a cause with BADADDR. -/
def State.groupCheck (s : State) (d : W64) : Option (Nat × W64) :=
  let kind := bits d 48 3
  let b := fun i => bits d (8 * i) 8
  let n := b 3 * b 4 * b 5
  if bits d 54 10 != 0 || decide (2 < kind) || (kind = 2 && decide (4 < bits d 51 3)) then some (cIllegalEncoding, s.me.pc)
  else if kind = 0 then none
  else if n = 0 || decide ((if kind = 1 then 1024 else 256) < n) || decide (32 < b 0 + b 3) || decide (24 < b 1 + b 4) ||
      decide (16 < b 2 + b 5) then some (cShapeFormat, 0)
  else if (boxMembers d).any fun c => !s.live c then some (cAperture, s.me.pc)
  else none

/-- R97, R98, R235. -/
def execGrpset (n : Fin 16) (a : Opd) (p : Pred) (s : State) : Res :=
  .next (s.begin_ .no false p fun _ =>
    let d := s.me.src 0 a
    match s.groupCheck d with
    | some (k, b) => s.raise k b .instr
    | none =>
      if (s.myCore.group n).draining then s.block (.grpset n d)
      else (s.modMyCore (·.writeGroup n d)).retire)

end Sys2Proof.Machine
end

