-- ==== Sys2Proof/Machine/CoreEvents.lean ====
section
/-!
DEFINITION. The steps at a core's interface: window accesses (R28, R105, R106), answers to loads, stores, atomics and posted
operations (R211, R305, R309, R375, R376), queues (R111 to R116), a bank's change of mode (R109), walks (R38, R44), and fault
messages with their replies (R377, R378).
-/

namespace Sys2Proof.Machine

/-! ## Window accesses -/

/-- WINDOW_ACCESS: an access from another core is performed in the bank or refused. -/
def execWindowAccess (uid : Nat) (s : State) : Res :=
  match s.msg? uid with
  | some m =>
    match m.body with
    | .win who p amo store prv =>
      let c := m.dest
      if s.imaging c then .next s
      else
      let s := s.consume uid
      match s.windowRefusal c p.off p.n prv with
      | some k => .next (s.answer c m.src 2 1 m.tag (.winAns who k 0))
      | none =>
        let ls := (s.core c).ls
        let old := BitVec.ofNat 1024 (ls.num p.off p.n)
        match amo with
        | some a =>
          let n := etyWidth a.ty / 8
          .next ((s.modCore c fun x => { x with ls := ls.writeNum p.off n (amoNew a (ls.num p.off n)) }).answer c m.src 1 3 m.tag
            (.winAns who 0 old))
        | none =>
          if store then
            let s := s.modCore c fun x =>
              if p.n = 8 && p.mask == byteMask 0 8 then x.storeLocal p.off 8 (p.data.toNat % 2 ^ 64) else { x with ls := ls.writeLine p.off p.data p.mask }
            .next (s.answer c m.src 2 1 m.tag (.winAns who 0 0))
          else .next (s.answer c m.src 1 3 m.tag (.winAns who 0 old))
    | _ => .next s
  | none => .next s

/-! ## Answers to a strand's access -/

/-- What an answer says: the cause of a refusal or 0, the data, and the sequence. -/
structure Reply where
  cause : Nat
  data : W1024
  seq : W32
  place : Nat
  win : Bool
  deriving DecidableEq, Repr

/-- The reply that a message carries for a strand's access. -/
def Body.reply (src : Nat) : Body → Option Reply
  | .ans (.strand _ _) kind seq _ data req =>
    some { cause := if kind = 4 then cMemPoison else 0, data := data.getD 0, seq, place := req.line, win := false }
  | .winAns (.strand _ _) reason d =>
    some { cause := if reason = 0 then 0 else reasonCause reason, data := d, seq := 0, place := src, win := true }
  | _ => none

def Body.strandOf : Body → Option (Nat × Nat)
  | .ans (.strand c i) _ _ _ _ _ => some (c, i)
  | .winAns (.strand c i) _ _ => some (c, i)
  | _ => none

/-- One piece of a strand's access is answered. -/
def State.accessReply (s : State) (c i : Nat) (a : Access) (p : Piece) (r : Reply) : State :=
  if r.cause != 0 then s.accessFail c i r.cause p.addr a
  else
    let go := fun (s : State) (a : Access) => s.accessGo c i { a with cur := none } (a.todo.length + 1)
    match a.last with
    | .store => go s a
    | .amo _ _ _ _ =>
      let n := match a.amo with | some q => etyWidth q.ty / 8 | none => 8
      let old := lineNum r.data (if p.win then 0 else p.off) n
      go s { a with acc := BitVec.ofNat 1024 (old + 2 ^ 64 * r.seq.toNat) }
    | _ =>
      let s := s.modCore c fun x =>
        let y := { x with fills := x.fills.filter (·.who != some i) }
        if x.fills.any fun f => f.who == some i && f.line == p.place then y.l1Put p.place r.data else y
      go s { a with acc := fillLanes a.last.width a.acc p r.data }

/-- Takes the answer to a strand's access whose kind a step is for; an answer that no access waits for ends a killed strand's
place at a sequencer (R308). -/
def State.strandReply (s : State) (uid : Nat) (f : AccEnd → Bool) : Res :=
  match s.msg? uid with
  | none => .next s
  | some m =>
    match m.body.strandOf, m.body.reply m.src with
    | some (c, i), some r =>
      match (s.strand c i).wait with
      | .access a =>
        match a.cur with
        | some p => if f a.last && p.win == r.win && p.place == r.place then .next ((s.consume uid).accessReply c i a p r) else .next s
        | none => .next s
      | _ => .next ((s.consume uid).withdrawSc c i false)
    | _, _ => .next s

/-- LOAD_RESPONSE: a load or a prefetch is answered (R107, R211, R214, R217). -/
def execLoadResponse (uid : Nat) (s : State) : Res :=
  match (s.msg? uid).map Msg.body with
  | some (.ans (.pref c _ n keep) _ _ _ data req) =>
    let s := s.consume uid
    .next (s.modCore c fun x =>
      let mine := fun (f : Fill) => f.who.isNone && f.id == n && f.line == req.line
      let y := { x with fills := x.fills.filter fun f => !mine f }
      match data with
      | some d => if keep && x.fills.any mine then y.l1Put req.line d else y
      | none => y)
  | _ => s.strandReply uid fun e => match e with | .load _ _ _ | .vload _ _ _ | .decl => true | _ => false

/-- STORE_ANSWER (R174, R211). -/
def execStoreAnswer (uid : Nat) (s : State) : Res := s.strandReply uid fun e => match e with | .store => true | _ => false

/-- AMO_ANSWER (R305). -/
def execAmoAnswer (uid : Nat) (s : State) : Res := s.strandReply uid fun e => match e with | .amo _ _ _ _ => true | _ => false

/-! ## Answers to posted operations (R309, R375, R376) -/

/-- After a RED has been answered, the next one of the strand to its line is sent (R309). -/
def State.redNext (s : State) (c : Nat) (e : Journal) : State :=
  let x := s.core c
  let waits := x.journal.filter fun k => k.2.heldRed.isSome && k.2.strand == e.strand &&
    (match k.2.piece, e.piece with | some p, some q => p.win == q.win && p.place == q.place | _, _ => false)
  match waits.foldl (fun (m : Option (Nat × Journal)) k => match m with
      | none => some k
      | some b => if k.2.order < b.2.order then some k else some b) none with
  | some (j, k) =>
    match k.piece, k.heldRed with
    | some p, some a =>
      let t := s.strand c k.strand
      (s.modCore c (·.setJent j { k with heldRed := none })).sendPiece c (.journal c j) (t.asid.setWidth 16) t.prv p (.red a)
    | _, _ => s
  | none => s

/-- The final answer to a posted operation: reason 0 frees its entry, another refuses it. An entry of a killed strand is freed
with nothing reported (R115). -/
def State.postedAnswer (s : State) (c j reason : Nat) : State :=
  let e := (s.core c).jent j
  if e.st != .sent then s
  else
    let s := if e.strand = 4 || reason = 0 then s.modCore c fun x => { x with journal := SMap.erase x.journal j }
      else s.modCore c (·.setJent j { e with st := .refused, reason, heldRed := none })
    let s := if 4 ≤ e.strand then s
      else
        let s := s.modStrand c e.strand fun t => { t with rsc := t.rsc - 1 }
        if reason = 0 then s else s.pendBit c e.strand 0
    s.redNext c e

/-- The journal entry and the reason that an answer to a posted operation carries. -/
def Body.posted : Body → Option (Nat × Nat × Nat)
  | .ans (.journal c j) kind _ _ _ _ => some (c, j, if kind = 4 then 4 else 0)
  | .winAns (.journal c j) reason _ => some (c, j, reason)
  | .logAns (.journal c j) kind _ => some (c, j, if kind = 4 then 4 else if kind = 5 then 5 else 0)
  | _ => none

/-- POSTED_ACK: a positive answer (R375). -/
def execPostedAck (uid : Nat) (s : State) : Res :=
  match (s.msg? uid).bind fun m => m.body.posted with
  | some (c, j, reason) => if reason = 0 then .next ((s.consume uid).postedAnswer c j 0) else .next s
  | none => .next s

/-- The FREE value of a push's acknowledgement and its queue's address are kept for QFREE (R116). -/
def State.keepFree (s : State) (c j free : Nat) : State :=
  let e := (s.core c).jent j
  if e.st == .sent && e.strand < 4 then
    s.modStrand c e.strand fun t => { t with qfree := BitVec.ofNat 64 free, qaddr := e.addr }
  else s

/-- QPUSH_ACK: an accepted push (R112, R116). -/
def execQpushAck (uid : Nat) (s : State) : Res :=
  match (s.msg? uid).map Msg.body with
  | some (.qack (.journal c j) kind free _) =>
    if kind = 0 then .next (((s.consume uid).keepFree c j free).postedAnswer c j 0) else .next s
  | _ => .next s

/-- POSTED_FINAL_REFUSAL (R376). -/
def execPostedFinalRefusal (uid : Nat) (s : State) : Res :=
  match s.msg? uid with
  | none => .next s
  | some m =>
    match m.body with
    | .qack (.journal c j) kind free _ =>
      if kind = 0 then .next s
      else
        let reason := if kind = 4 then 4 else if kind = 5 then 1 else 2
        let s := s.consume uid
        .next ((s.keepFree c j free).postedAnswer c j reason)
    | b =>
      match b.posted with
      | some (c, j, reason) => if reason = 0 then .next s else .next ((s.consume uid).postedAnswer c j reason)
      | none => .next s

/-! ## FIFO banks (R105, R111, R112, R114) -/

/-- Puts 64 bytes at the tail of a queue. -/
def Core.fifoPush (x : Core) (b : Nat) (data : BitVec 512) : Core :=
  let f := x.fifo b
  { x with
    ls := x.ls.writeNum (8192 * b + 64 * f.tail) 64 data.toNat
    fifos := SMap.set x.fifos b { f with tail := (f.tail + 1) % 128, count := f.count + 1 } }

/-- QPUSH_ARRIVAL: a push reaches its bank; one at a bank that changes its mode waits for the change (R109). -/
def execQpushArrival (uid : Nat) (s : State) : Res :=
  match s.msg? uid with
  | some m =>
    match m.body with
    | .qpush who c b data prv =>
      let x := s.core c
      let f := x.fifo b
      let done := fun (s : State) (kind free : Nat) => s.answer c m.src 2 1 m.tag (.qack who kind free 0)
      if m.cancel || x.changing (8192 * b) 1 || s.imaging c then .next s
      else if x.dark then .next ((s.consume uid).answer c m.src 2 1 m.tag (.winAns who 6 0))
      else if x.mode b != 2 then .next (done (s.consume uid) 5 (127 - f.count))
      else if b = 63 && x.res && !prv then .next (done (s.consume uid) 6 (127 - f.count))
      else
        let (o, next, serve) := ticketRule (decide (f.count < 127)) f.next f.serve m.ticket false
        let s := (s.consume uid).modCore c fun x => { x with fifos := SMap.set x.fifos b { f with next, serve } }
        match o with
        | .accept => .next (done (s.modCore c (·.fifoPush b data)) 0 (126 - f.count))
        | o => .next (s.refuse m o)
    | _ => .next s
  | none => .next s

/-! ## BMODE (R109) -/

/-- Whether a copy in progress reads or writes a bank of its core. -/
def Copy.inBank (k : Copy) (c b : Nat) : Bool :=
  let hit := fun (r : Nat × Nat) => decide (r.1 < 8192 * b + 8192) && decide (8192 * b < r.1 + r.2)
  let side := fun (ends : W64 × W64) => match decodeAddr k.stkb ends.1 with
    | some (.loc off) => hit (off, (ends.2 - ends.1).toNat + 1)
    | some (.win d off) => d == c && hit (off, (ends.2 - ends.1).toNat + 1)
    | _ => false
  side (k.shape.sides k.src (·.2.1)) || side (k.shape.sides k.dst (·.2.2))

/-- BMODE_COMPLETE: with its waits over, the bank is cleared and takes its new mode. -/
def execBmodeComplete (c bank : Nat) (s : State) : Res :=
  if !(decide (c < 12288) && decide (bank < 64)) then .fault .noSuchPlace
  else
    let x := s.core c
    match (List.range 4).findSome? fun i => match (x.strand i).wait with
        | .bmode b m => if b = bank then some (i, m) else none
        | _ => none with
    | none => .next s
    | some (i, m) =>
      let copies := x.copies.any fun e => match e.2.copy with | some k => k.inBank c bank | none => false
      let writes := x.mode bank == 1 && x.l1.any fun e => e.way == bank && s.writePending c e.line
      if copies || writes then .next s
      else
        let s := s.modCore c fun x =>
          ({ x with
            ls := x.ls.zero (8192 * bank) 8192, fifos := SMap.erase x.fifos bank
            l1 := x.l1.filter (·.way != bank) }).setMode bank m
        .next (s.retireAt c i)

/-! ## Walks (R38, R41, R44) -/

/-- Finds a walk by its number. -/
def State.walkOf (s : State) (wid : Nat) : Option (Nat × Walk) :=
  s.cores.findSome? fun e => (e.2.walks.find? (·.wid == wid)).map fun w => (e.1, w)

/-- What a walk needs of the page it finds. -/
def Walk.need (w : Walk) : Need := ⟨w.rd, w.wr, w.ex, w.priv⟩

/-- The probes of a walk that have been answered. -/
def State.probes (s : State) (wid : Nat) : List ProbeAns :=
  [0, 1, 2].map fun i => (s.inbox.findSome? fun m => match m.body with
    | .ans (.walk _ w j) kind _ _ data _ =>
      if w = wid && j = i then (if kind = 4 then some .poison else data.map .bucket) else none
    | _ => none).getD .none

/-- TLB_WALK_PROBE: with its three buckets in, a walk fills the TLBs or ends in a fault; after a bump it only restarts. The walk of a PREF,
CINV or CWB ends in no fault (R217 to R219). -/
def execTlbWalkProbe (wid : Nat) (s : State) : Res :=
  match s.walkOf wid with
  | none => .next s
  | some (c, w) =>
    let ans := s.probes wid
    if ans.contains .none then .next s
    else
      let s := { s with inbox := s.inbox.filter fun m => match m.body with | .ans (.walk _ k _) _ _ _ _ _ => k != wid | _ => true }
      let s := s.modCore c fun x => { x with walks := x.walks.filter (·.wid != wid) }
      let mine := w.who == .strand w.strand && (s.strand c w.strand).wait == .walk &&
        !((s.core c).walks.any fun v => v.who == w.who && decide (wid < v.wid))
      let goOn := fun (s : State) => match w.who with
        | .strand i => if mine then s.modStrand c i fun t => { t with wait := .no } else s
        | .spill r => s.spillGo r
        | who => s.engineGo c who
      let fault := fun (s : State) (kind : Nat) => match w.who with
        | .strand i =>
          if !mine then s
          else if w.quiet then s.modStrand c i fun t => { t with wait := .no, noPage := some w.va }
          else (s.modStrand c i fun t => { t with wait := .no }).strandFault c i kind w.va w.bad w.acc
        | .spill r => s.spillFault r kind w.va
        | who =>
          if !s.engineWaits c who then s
          else match s.engineFault c { who, strand := w.strand, asid := w.asid, va := w.va, bad := w.bad, acc := w.acc, need := w.need
                                       pc := w.pc } kind with
            | .ok _ _ => s
            | .waits s => s
            | .fails num => s.engineEnd c who num w.bad
      if (s.strand c w.strand).gen != w.gen then .next (goOn s)
      else
        match classify ans w.asid w.va 0 with
        | .error kind => .next (fault s kind)
        | .ok p =>
          if p.permits w.need then
            let e : TlbEntry := { asid := w.asid, vpn := w.va / 2 ^ pageShift p.sz, page := p }
            .next (goOn { s.modCore c (·.tlbFill s.draws e) with draws := s.draws + 1 })
          else .next (fault s kPerm)

/-! ## Fault messages (R377, R378) -/

/-- A fault of a strand, or of an engine that works for it, is answered: 1 RESUME, 2 FAIL, 3 CONTAIN (R377). An access of the strand that
waited behind the fault of an engine goes on with its lookup. -/
def State.faultAnswer (s : State) (c i : Nat) (f : FaultOut) (act : Nat) : State :=
  let s := s.modStrand c i fun t => { t with fault := none, wait := if t.wait = .walk then .no else t.wait }
  let cause := kindCause f.kind
  let engine := fun (who : WalkFor) =>
    if act = 1 then s.engineGo c who
    else
      let s := s.engineEnd c who cause f.bad
      if act = 2 || who = .save then s else s.contain c i cause true false 0
  let s :=
    match f.src with
    | 0 =>
      if act = 1 then s
      else if act = 2 then s.raiseAt c i cause f.bad .access
      else s.contain c i cause false false 0
    | 1 => engine (.copy f.idx)
    | 4 => engine .save
    | _ => engine (.tile f.idx)
  s.enginesGo c

/-- The answer to the fault of a slice's spill at its attach core (R131, R377). -/
def State.sliceAnswer (s : State) (c : Nat) (f : FaultOut) (act : Nat) : State :=
  let s := s.modCore c fun x => { x with sliceFault := none }
  (if act = 1 then s.spillResume f.idx else s.failTensor (recTensor f.idx)).spillsGo (s.logHome f.idx)

/-- FAULT_REPLY: a reply word that has been stored to is looked at: a matching TAG and an ACT of 1 to 3 answer the fault. -/
def execFaultReply (c idx : Nat) (s : State) : Res :=
  if !(decide (c < 12288) && decide (idx < 5)) then .fault .noSuchPlace
  else
    match (s.core c).replies.find? (·.1 == idx) with
    | none => .next s
    | some (k, w) =>
      let s := s.modCore c fun x => { x with replies := x.replies.erase (k, w) }
      let act := bits w 0 8
      let tag : BitVec 8 := w.extractLsb' 56 8
      match if idx = 4 then (s.core c).sliceFault else (s.strand c idx).fault with
      | some f =>
        if f.tag == tag && 1 ≤ act && act ≤ 3 then
          .next (if idx = 4 then s.sliceAnswer c f act else s.faultAnswer c idx f act)
        else .next s
      | none => .next s

/-- FAULT_MAILBOX_PUSH: a fault message reaches bank 62 of its service core, or is refused and counted. A dark service core
refuses it, and the faulting core then answers its own faults as FAIL. -/
def execFaultMailboxPush (uid : Nat) (s : State) : Res :=
  match s.msg? uid with
  | some m =>
    match m.body with
    | .faultMsg c data =>
      let x := s.core c
      let f := x.fifo 62
      let count := fun (s : State) => s.modCore c fun x => { x with faultOvf := BitVec.ofNat 64 (satAdd x.faultOvf.toNat 1 4294967295) }
      if m.cancel || x.changing (8192 * 62) 1 || s.imaging c then .next s
      else if x.dark then .next ((s.consume uid).answer c m.src 2 1 m.tag (.faultAck 6))
      else if x.mode 62 != 2 then .next ((count (s.consume uid)).refuse m (.retry 0))
      else
        let (o, next, serve) := ticketRule (decide (f.count < 127)) f.next f.serve m.ticket false
        let s := (s.consume uid).modCore c fun x => { x with fifos := SMap.set x.fifos 62 { f with next, serve } }
        match o with
        | .accept => .next ((s.modCore c (·.fifoPush 62 data)).answer c m.src 2 1 m.tag (.faultAck 0))
        | o => .next (((count s).pendBit c 0 7).refuse m o)
    | .faultAck _ =>
      let c := m.dest
      let s := s.consume uid
      let s := (List.range 4).foldl (fun s i =>
        match (s.strand c i).fault with
        | some f => if s.reachable (svcCore (s.strand c i).svcXyz) then s else s.faultAnswer c i f 2
        | none => s) s
      .next (match (s.core c).sliceFault with
        | some f => if s.reachable (svcCore (s.tensor (recTensor f.idx)).svc) then s else s.sliceAnswer c f 2
        | none => s)
    | _ => .next s
  | none => .next s

end Sys2Proof.Machine
end

