-- ==== Sys2Proof/Machine/CopyEvents.lean ====
section
/-!
DEFINITION. The steps of the engines: data and acknowledgements of copies, reductions, fills and drains (R88 to R102, R120,
R133), the loader (R101, R102), GRPSET's wait (R98), OFILL's end (R124), and the grants of the SC sequencers (R306, R307).
Readings: DEDUCED, assumption log 26.
-/

namespace Sys2Proof.Machine

/-! ## Groups (R98) -/

/-- A GRPSET that waits on an entry completes once nothing is in flight under it. -/
def State.groupGo (s : State) (c n : Nat) : State :=
  if ((s.core c).group n).draining then s
  else
    (List.range 4).foldl (fun s i =>
      match (s.strand c i).wait with
      | .grpset k d => if k = n && !((s.core c).group n).draining then (s.modCore c (·.writeGroup n d)).retireAt c i else s
      | _ => s) s

/-- GRPSET_TIMEOUT: a GRPSET that has waited 2^20 cycles raises GROUP_BUSY. -/
def execGrpsetTimeout (c s_ : Nat) (s : State) : Res :=
  if !(decide (c < 12288) && decide (s_ < 4)) then .fault .noSuchPlace
  else
    match (s.strand c s_).wait with
    | .grpset n _ =>
      if ((s.core c).group n).draining then
        .next ((s.modStrand c s_ fun t => { t with wait := .no }).raiseAt c s_ cGroupBusy 0 .instr)
      else .next (s.groupGo c n)
    | _ => .next s

/-! ## Copies (R88 to R100) -/

/-- The lowest and highest byte that a mask enables. -/
def maskSpan (mask : BitVec 128) : Nat × Nat :=
  let l := (List.range 128).filter mask.getLsbD
  (l.headD 0, l.getLastD 0)

/-- The cause for which a core refuses data of a copy at bytes of its local store; 0 where it takes them. -/
def State.copyRefusal (s : State) (c off : Nat) (mask : BitVec 128) (prv : Bool) : Nat :=
  let (lo, hi) := maskSpan mask
  match s.windowRefusal c (off + lo) (hi + 1 - lo) prv with
  | some k => reasonCause k
  | none => 0

/-- The privilege of the copy that sent a message. -/
def State.copyPrv (s : State) : Who → Bool
  | .copy c id => (((s.core c).copyId id).copy.map (·.priv)).getD false
  | _ => false

/-- An acknowledgement inside one core's interface. -/
def State.selfAck (s : State) (c : Nat) (body : Body) : State :=
  { s with
    uid := s.uid + 1
    inbox := s.inbox ++ [{ uid := s.uid, src := c, via := c, dest := c, cls := 2, tag := 256, nf := 1, ticket := 0, cancel := false
                           poison := false, body }] }

/-- COPY_DEST_WRITE: a data message of a copy writes its line, or is refused. The data that a GLOBAL source line returned are
written in the copying core. -/
def execCopyDestWrite (uid : Nat) (s : State) : Res :=
  match s.msg? uid with
  | some m =>
    match m.body with
    | .copyWr who c off mask data =>
      if s.imaging c then .next s
      else
      let k := s.copyRefusal c off mask (s.copyPrv who)
      let s := s.consume uid
      let s := if k = 0 then s.modCore c fun x => { x with ls := x.ls.writeLine off data mask } else s
      .next (s.answer m.dest m.src 2 1 m.tag (.copyAck who none k 0))
    | .ans (.copy c id) kind _ _ data req =>
      if req.op != .read then .next s
      else
        let s := s.consume uid
        let cause := if kind = 4 then cMemPoison else 0
        let s := match data, ((s.core c).copyId id).copy with
          | some d, some k =>
            if kind = 4 then s
            else s.modCore c fun x =>
              { x with ls := x.ls.writeNum ((k.shape.dst k.dst k.elem).toNat % 2 ^ 19) k.shape.esz (lineNum d req.off k.shape.esz) }
          | _, _ => s
        .next (s.selfAck c (.copyAck (.copy c id) none cause 0))
    | _ => .next s
  | none => .next s

/-- One line of a drain or a write-back has been performed, or refused, at its home. -/
def State.drainAnswer (s : State) (c t : Nat) (poison : Bool) : State :=
  match (s.tile c t).job with
  | .drain (k :: rest) _ ring o priv =>
    let home := (((s.tile c t).lines)[k]?.map (·.home)).getD 0
    let s := s.modTile c t fun e => { e with job := .drain rest 0 ring o priv }
    if poison then s.tileFault c t cMemPoison (BitVec.ofNat 64 home) else s.drainGo c t
  | .ending out next o k => s.tileStop c t (out - 1) next o k
  | _ => s

/-- COPY_WRITE_ACK: a destination write of a copy, or a line of a drain, is acknowledged or refused. The next line of a copy goes out with
the last acknowledgement of the one before it, so that a GRPSET that waits finds no MCAST between two of its lines (R98, R99; DESIGN CHOICE,
assumption log 52). -/
def execCopyWriteAck (uid : Nat) (s : State) : Res :=
  match s.msg? uid with
  | some m =>
    match m.body with
    | .copyAck (.copy c id) gen cause bad =>
      let grp := ((s.core c).copyId id).copy.map fun k => k.grp
      let s := (s.consume uid).copyWrote c id gen cause bad
      .next (match grp with | some n => s.groupGo c n | none => s)
    | .ans (.copy c id) kind _ _ _ req =>
      if req.op != .write then .next s
      else .next ((s.consume uid).copyWrote c id none (if kind = 4 then cMemPoison else 0) 0)
    | .ans (.tile c t _ _) kind _ _ _ req =>
      if req.op != .write then .next s else .next ((s.consume uid).drainAnswer c t (kind == 4))
    | _ => .next s
  | none => .next s

/-- The operation of a reduction entry (R97). -/
def groupOp (desc : W64) : AmoOp × ETy :=
  match bits desc 51 3 with
  | 0 => (.fadd, .fp32)
  | 1 => (.fmax, .fp32)
  | 2 => (.add, .i32)
  | 3 => (.max, .i32)
  | _ => (.min, .i32)

/-- Combines the enabled 4-byte elements of a contribution (R100). -/
def combineLine (op : AmoOp × ETy) (ls : Memory) (off : Nat) (mask : BitVec 128) (data : W1024) : Memory :=
  (List.range 32).foldl (fun ls e =>
    if mask.getLsbD (4 * e) then
      ls.writeNum (off + 4 * e) 4
        (amoNew { op := op.1, ty := op.2, v := BitVec.ofNat 64 (lineNum data (4 * e) 4), c := 0 } (ls.num (off + 4 * e) 4))
    else ls) ls

/-- REDC_CONTRIBUTION: a contribution is combined in member order, or refused with the ticket MIDX + 1 (R100). -/
def execRedcContribution (uid : Nat) (s : State) : Res :=
  match s.msg? uid with
  | some m =>
    match m.body with
    | .redc who c n midx off mask data =>
      let g := (s.core c).group n
      let key := off / 128
      let at_ := SMap.getD g.lines key 0
      let k := s.copyRefusal c (key * 128) mask (s.copyPrv who)
      if m.cancel || s.imaging c then .next s
      else if bits g.desc 48 3 != 2 || memberIx g.desc m.src != some midx then
        .next ((s.consume uid).answer c m.src 2 1 m.tag (.copyAck who none cAperture 0))
      else if k != 0 then .next ((s.consume uid).answer c m.src 2 1 m.tag (.copyAck who none k 0))
      else if m.ticket = 0 && midx != at_ || m.ticket != 0 && m.ticket != at_ + 1 then
        .next ((s.consume uid).refuse m (.retry (midx + 1)))
      else
        let next := if at_ + 1 = (boxMembers g.desc).length then 0 else at_ + 1
        let s := (s.consume uid).modCore c fun x =>
          { x.setGroup n { g with lines := if next = 0 then SMap.erase g.lines key else SMap.set g.lines key next } with
            ls := combineLine (groupOp g.desc) x.ls (key * 128) mask data }
        .next ((s.answer c m.src 2 1 m.tag (.copyAck who (some g.gen) 0 0)).groupGo c n)
    | _ => .next s
  | none => .next s

/-! ## Fills, drains and pushes (R96, R120, R133) -/

/-- The reader of a fill has a line: words of the scale vector are kept, and data go on to the core with their scale words (R96). A message of a
stream push has KIND 3 as a fill's has, and one of a ring's write-back KIND 4, for R92 names no kind of theirs (DEDUCED, assumption log 27). -/
def State.fillRead (s : State) (m : Msg) (c t sseq lidx kind : Nat) (data : Option W1024) : State :=
  let e := s.tile c t
  match e.job with
  | .ending out next o k => s.tileStop c t (out - 1) next o k
  | .fill (k :: rest) 1 sid o priv =>
    if k != lidx then s
    else
      match e.lines[k]?, (if kind = 4 then none else data) with
      | some p, some d =>
        if p.scale then
          let read := p.parts.foldl (fun v q => v + 2 ^ (8 * (q.home - e.scaleHome)) * lineNum d (q.home % 128) q.n) e.sbuf
          (s.modTile c t fun e => { e with job := .fill rest 0 sid o priv, sbuf := read }).fillGo c t
        else
          s.requestMsg
            { uid := 0, src := m.dest, via := m.dest, dest := c, cls := 0, tag := 0, nf := 3, ticket := 0, cancel := false, poison := false
              hdr := dataHeader sseq 0 t 3 k p.place, sb := e.sbWords e.sbuf k
              body := .fillData c t k p.mask d }
      | some p, none =>
        (s.modTile c t fun e => { e with job := .fill rest 0 sid o priv }).tileFault c t cMemPoison (BitVec.ofNat 64 p.home)
      | none, _ => s
  | _ => s

/-- A data message of a fill or a push reaches the core: SSEQ is checked against the entry's sequence, and the line and the scale words
are written (R96). -/
def State.fillWrite (s : State) (m : Msg) (c t lidx : Nat) (data : W1024) : State :=
  let e := s.tile c t
  let sseq := bits m.hdr 52 12
  let s := (s.consume m.uid).answer c m.src 2 1 m.tag (.fillAck c t sseq lidx false)
  match e.job with
  | .ending out next o k => s.tileStop c t (out - 1) next o k
  | .fill (k :: rest) 1 sid o priv =>
    if sseq != e.fseq then s.tileMismatch c t
    else if k != lidx then s
    else
      match e.lines[k]? with
      | some p =>
        ((s.modTile c t fun e => { e with job := .fill rest 0 sid o priv }).modCore c fun x =>
          (x.writeLine e p data).putSb e k m.sb).fillGo c t
      | none => s
  | _ => s

/-- A data message of a fill, a push or a write-back was poisoned on its way: the work ends (R50, R94, R102). -/
def State.dataLost (s : State) (c t lidx : Nat) : State :=
  let e := s.tile c t
  let lost := fun (j : TileJob) =>
    (s.modTile c t fun e => { e with job := j }).tileFault c t cMemPoison (BitVec.ofNat 64 ((e.lines[lidx]?.map (·.home)).getD 0))
  match e.job with
  | .ending out next o k => s.tileStop c t (out - 1) next o k
  | .fill _ 1 sid o priv => lost (.fill [] 0 sid o priv)
  | .drain l 1 true o priv => lost (.drain l 0 true o priv)
  | _ => s

/-- FILL_DATA_MESSAGE: a line of a fill or a push reaches its reader, or its data message reaches the core; or a line of a ring entry reaches
the storer that writes it back (R96, R101, R102). -/
def execFillDataMessage (uid : Nat) (s : State) : Res :=
  match s.msg? uid with
  | some m =>
    match m.body with
    | .ans (.tile c t sseq lidx) kind _ _ data req =>
      if req.op != .read then .next s else .next ((s.consume uid).fillRead m c t sseq lidx kind data)
    | .fillData c t lidx mask data => .next (if m.dest < 12288 then s.fillWrite m c t lidx data else s.ringStore m c t lidx mask data)
    | .fillAck c t _ lidx poison => .next (if poison then (s.consume uid).dataLost c t lidx else s.consume uid)
    | _ => .next s
  | none => .next s

/-- DRAIN_COMPLETE: the last line has been performed at its home and the entry becomes EMPTY. -/
def execDrainComplete (c t : Nat) (s : State) : Res :=
  if !(decide (c < 12288) && decide (t < 64)) then .fault .noSuchPlace
  else
    match (s.tile c t).job with
    | .drain [] 0 _ o _ => .next ((s.tileEmpty c t).tlcDown c o)
    | _ => .next s

/-- OPEN_GRANT: the log home has granted residency and the line reads begin; a fill that has ended gives it back, and so does one whose
grant carries poison (R50; DEDUCED, assumption log 50). -/
def execOpenGrant (uid : Nat) (s : State) : Res :=
  match s.msg? uid with
  | some m =>
    match m.body with
    | .openAns _ c t =>
      let s := s.consume uid
      match (s.tile c t).job with
      | .opening sid o priv => .next (if m.poison then s.tileFault c t cMemPoison 0 else s.fillReads c t sid o priv)
      | .ending out next o k => .next (s.tileStop c t (out - 1) next o k)
      | _ => .next s
    | _ => .next s
  | none => .next s

/-- OFILL_COMPLETE: the scratchpad tile is in the slot (R124): the rows that OFILL named, with the bytes that they have now (DESIGN CHOICE,
assumption log 27: R124 gives no time at which they are read). -/
def execOfillComplete (c t : Nat) (s : State) : Res :=
  if !(decide (c < 12288) && decide (t < 64)) then .fault .noSuchPlace
  else
    let e := s.tile c t
    match e.job with
    | .ofill off lpitch rows rowBytes residue o =>
      let x := s.core c
      let slot := (List.range rows).foldl (fun (k : Slot) i =>
        k.put (i * rowBytes) rowBytes (x.ls.num (off + i * lpitch) rowBytes)) (x.slot e.slotNo)
      let slot := if residue then
          { slot with scales := putScales slot.scales 0 rows (x.ls.num (off + rows * lpitch) (4 * rows)) }
        else slot
      let s := (s.slotClean c t).modCore c (·.setSlot e.slotNo slot)
      .next ((s.modTile c t fun e => { e.setState 2 with w4 := s.timecode, job := .none }).tlcDown c o)
    | _ => .next s

/-- What stops a push into its ring entry: a cause and the failing address (R93, R96, R102). -/
def State.pushCause (s : State) (c : Nat) (e : Tile) (k : Stream) (addr : W64) : Option (Nat × W64) :=
  let x := s.core c
  if 2 ^ 56 ≤ addr.toNat then some (cAperture, addr)
  else match (if e.loc then none else x.notScr e.off e.span) with
    | some a => some (cBankMode, BitVec.ofNat 64 a)
    | none =>
      if !e.loc && x.reserved e.off e.span k.priv then some (cProtection, BitVec.ofNat 64 (max e.off 516096))
      else if e.residue && decide (3 * e.dataLines.length < e.rows) then some (cShapeFormat, 0)
      else none

/-- LOADER_PUSH_START: the loader begins the next tile of a stream once its ring entry is EMPTY (R102). -/
def execLoaderPushStart (c sid : Nat) (s : State) : Res :=
  if !(decide (c < 12288) && decide (sid < 4)) then .fault .noSuchPlace
  else
    match SMap.get? (s.core c).streams sid with
    | none => .next s
    | some k =>
      let t := k.tf + k.next % k.rn
      if (s.core c).preempt.isSome || s.imaging c || k.pushing || k.ending || decide (k.shape.count ≤ k.next) || (s.tile c t).state != 0 then .next s
      else
        let addr := k.shape.src k.base k.next
        let s := s.modCore c fun x => { x with streams := SMap.set x.streams sid { k with pushing := true, next := k.next + 1 } }
        let s := s.modTile c t fun e => { e with w0 := addr &&& 0xFFFFFFFFFFFFFF }
        match s.pushCause c (s.tile c t) k addr with
        | none => .next (s.fillBegin c t (some sid) k.origin k.priv k.asid 0)
        | some (n, bad) =>
          let s := s.modTile c t fun e =>
            { e with w3 := putBits (putBits e.w3 0 2 1) 8 12 (e.fseq + 1), job := .fill [] 0 (some sid) k.origin k.priv }
          .next (s.tileFault c t n bad)

/-! ## SC sequencers (R306, R307) -/

/-- Gives the head of a queue its ticket where no AMO holds one. -/
def Seqr.grant (q : Seqr) : Option ((Nat × Nat) × Seqr) :=
  match q.holder, q.queue with
  | none, k :: rest => some (k, { q with queue := rest, holder := some k })
  | _, _ => none

/-- SC_TICKET_GRANT: the next ticket of the device's sequencer (0), of cluster n's (1 + n) or of core n's (2048 + n). -/
def execScTicketGrant (seqr : Nat) (s : State) : Res :=
  if !(decide (seqr < 1537) || (decide (2048 ≤ seqr) && decide (seqr < 14336))) then .fault .noSuchPlace
  else if seqr = 0 then
    match s.devSeqr.holder, s.devSeqr.queue with
    | none, k :: rest =>
      .next ({ s with devSeqr := { s.devSeqr with queue := rest, holder := some k } }.request epDevSeqr k.core 0 1 0 (.scGrant k))
    | _, _ => .next s
  else if seqr < 2048 then
    if s.cluster (seqr - 1) |>.dark then .next s
    else
      match (SMap.getD s.cluSeqrs (seqr - 1) .reset).grant with
      | some (k, q) => .next ({ s with cluSeqrs := SMap.set s.cluSeqrs (seqr - 1) q }.granted seqr k)
      | none => .next s
  else
    match (s.core (seqr - 2048)).scq with
    | k :: _ => if (s.strand k.1 k.2).wait = .sc seqr false then .next (s.granted seqr k) else .next s
    | [] => .next s

/-- CLUSTER_SEQUENCER_INTAKE: the cluster sequencer accepts the request that arrived first (R307). -/
def execClusterSequencerIntake (cl : Nat) (s : State) : Res :=
  if !decide (cl < 1536) then .fault .noSuchPlace
  else
    let q := SMap.getD s.cluSeqrs cl .reset
    match q.intake with
    | k :: rest => .next { s with cluSeqrs := SMap.set s.cluSeqrs cl { q with intake := rest, queue := q.queue ++ [k] } }
    | [] => .next s

end Sys2Proof.Machine
end

