-- ==== Sys2Proof/Machine/Async.lean ====
section
/-!
DEFINITION. Asynchronous causes and interrupts at instruction boundaries (R374 to R376, R379, R430).
Readings: DEDUCED, assumption log 32.
-/

namespace Sys2Proof.Machine

/-- Whether a strand that blocks in an instruction can take an interrupt there and restart it (R374, R379). -/
def Wait.restarts : Wait → Bool
  | .no | .walk | .fetch _ _ | .forwards _ | .arrival _ _ | .timec _ _ | .grpset _ _ | .record _ => true
  | .sc _ _ => true
  | _ => false

/-- Whether a message that was refused with a ticket is the cocoon of a strand's SPAWN or YIELD. -/
def Held.spawnOf (h : Held) (c i : Nat) : Bool :=
  !h.cancel && (match h.msg.body with | .spawn c' i' _ => c' == c && i' == i | _ => false)

/-- Whether a strand can take an interrupt where it blocks. A cocoon on its way to the task sequencer is answered first: it is accepted, or
it is refused and the instruction can restart (R345, R379). -/
def State.restarts (s : State) (c i : Nat) : Bool :=
  match (s.strand c i).wait with
  | .spawn _ _ => s.held.any (·.spawnOf c i)
  | w => w.restarts

/-- Gives up what a restartable instruction holds elsewhere: its place at a node, a sequencer, a slot or an accumulator, the ticket of a
cocoon, and its outstanding fault, behind which another engine's may have waited (R308, R377, R379). -/
def State.withdraw (s : State) (c i : Nat) : State :=
  let s := { s with held := s.held.map fun (h : Held) => if h.spawnOf c i then { h with cancel := true } else h }
  let s := (s.withdrawSc c i false).unstall c i
  let s := s.modCore c (·.unwait i)
  if (s.strand c i).fault.any (fun (f : FaultOut) => f.src == 0) then (s.modStrand c i fun t => { t with wait := .no, fault := none }).enginesGo c
  else s.modStrand c i fun t => { t with wait := .no }

/-- The lowest REFUSED journal entry of a strand (R374). -/
def Core.refusedEnt (x : Core) (i : Nat) : Option (Nat × Journal) :=
  x.journal.find? fun e => e.2.st == .refused && e.2.strand == i

/-- The lowest unreported FAULTED copy id of a strand (R374). -/
def Core.faultedCopy (x : Core) (i : Nat) : Option (Nat × CopyId) :=
  x.copies.find? fun e => bits e.2.w0 0 2 == 3 && !e.2.reported && bits e.2.w0 6 2 == i

/-- The lowest tile-table entry with an unreported fault, or mismatch, of a strand (R374, R430). -/
def Core.faultedTile (x : Core) (i : Nat) : Option (Nat × Tile) := x.tiles.find? fun e => e.2.unreported == some i
def Core.mismatchTile (x : Core) (i : Nat) : Option (Nat × Tile) := x.tiles.find? fun e => e.2.mismatch == some i

/-- The cause that a REFUSED entry is delivered as (R376). -/
def Journal.cause (j : Journal) (idx : Nat) : Cause :=
  let num := if j.opk = 1 && j.reason = 1 then cBankMode else if j.opk = 1 && j.reason = 2 then cProtection else cPostedRefused
  { num, bad := j.addr, async := true, info := idx, reason := j.reason, opk := j.opk }

/-- Clears the bits that nothing stands behind any more (R374). -/
def State.settle (s : State) (c i : Nat) : State :=
  let x := s.core c
  s.modStrand c i fun t =>
    let p := if (x.refusedEnt i).isNone then setBit t.pend 0 false else t.pend
    let p := if (x.faultedCopy i).isNone && (x.faultedTile i).isNone then setBit p 1 false else p
    let p := if (x.mismatchTile i).isNone then setBit p 2 false else p
    { t with pend := p }

/-- Whether something stands behind a pending bit of a strand: what the core records, or the cause that set it (R374). -/
def State.backed (s : State) (c i b : Nat) : Bool :=
  match b with
  | 0 => ((s.core c).refusedEnt i).isSome
  | 1 => ((s.core c).faultedCopy i).isSome || ((s.core c).faultedTile i).isSome
  | 2 => ((s.core c).mismatchTile i).isSome
  | b => (s.strand c i).behind.getLsbD b

/-- PENDING_ASYNC without the bits that nothing stands behind: they clear at the next boundary and deliver nothing (R374). -/
def State.pendBacked (s : State) (c i : Nat) : W64 :=
  (List.range 8).foldl (fun p b => if s.backed c i b then p else setBit p b false) (s.strand c i).pend

/-- Delivers one pending bit: the cause and the state without what it stood for. A pre-emption that was asked for before RESUME was
delivered is still pending after it. -/
def State.deliverBit (s : State) (c i b : Nat) : State × Option Cause :=
  let x := s.core c
  let drop := s.modStrand c i fun t => { t with pend := setBit t.pend b false, behind := t.behind &&& ~~~((1 : BitVec 8) <<< b) }
  match b with
  | 0 =>
    match x.refusedEnt i with
    | some (j, e) => ((s.modCore c fun x => { x with journal := SMap.erase x.journal j }).settle c i, some (e.cause j))
    | none => (s.settle c i, none)
  | 1 =>
    match x.faultedCopy i, x.faultedTile i with
    | some (k, e), _ =>
      ((s.modCore c fun x => x.setCopyId k { x.copyId k with reported := true }).settle c i,
        some { num := cCopyFault, bad := e.w1, async := true, info := k })
    | none, some (k, e) =>
      ((s.modTile c k fun e => { e with unreported := none }).settle c i,
        some { num := cCopyFault, bad := e.failAddr, async := true, info := 64 + k })
    | none, none => (s.settle c i, none)
  | 2 =>
    match x.mismatchTile i with
    | some (k, _) =>
      ((s.modTile c k fun e => { e with mismatch := none }).settle c i,
        some { num := cScaleMismatch, bad := 0, async := true, info := k })
    | none => (s.settle c i, none)
  | 3 => (drop, some { num := cLeaseExpiry, bad := 0, async := true })
  | 4 => (drop, some { num := cLeaseLost, bad := 0, async := true })
  | 5 => (drop, some { num := cWatchdog, bad := 0, async := true })
  | 6 =>
    let t := s.strand c i
    (if t.preResume && t.preempting then s else drop, some { num := if t.preResume then cResume else cPreempt, bad := 0, async := true })
  | _ => (drop, some { num := cFaultqPressure, bad := x.faultOvf, async := true })

/-- The pending bit that is delivered at this boundary (R374): RESUME first, whatever IE holds; then, with IE = 1, the
lowest. -/
def Strand.dueBit (t : Strand) : Option Nat :=
  if t.pend.getLsbD 6 && t.preResume then some 6
  else if t.ie then (List.range 8).find? fun b => t.pend.getLsbD b
  else none

/-- Takes the asynchronous cause due at a strand's boundary; none where none is due (R374, R379). With RES = 0 the save
engine takes a pre-empted strand without a handler, and a restored one goes on at EPC. -/
def State.asyncDeliver (s : State) (c i : Nat) : Option State :=
  let t := s.strand c i
  if t.run != .running || t.saved || !s.restarts c i then none
  else
    let p := s.pendBacked c i
    let s' := s.modStrand c i fun t => { t with pend := p }
    match ({ t with pend := p } : Strand).dueBit with
    | none => if p = t.pend then none else some s'
    | some b =>
      let (s', x) := s'.deliverBit c i b
      match x with
      | none => some s'
      | some x =>
        let s' := s'.withdraw c i
        if b = 6 && !(s.core c).res then
          some (s'.modStrand c i fun t => if t.preResume then { t with preResume := false } else { t with saved := true, epc := t.pc })
        else some ((s'.modStrand c i fun t => { t with preResume := false }).takeTrap c i x t.pc .instr)

end Sys2Proof.Machine
end

