-- ==== Sys2Proof/Machine/Matrix.lean ====
section
/-!
DEFINITION. The matrix unit: its instructions (R285 to R300), the operations they put into its queue, and the zeroing of
uncorrectable words (R158 to R160, R301).
Readings: DEDUCED, assumption log 29.
-/

namespace Sys2Proof.Machine

/-! ## Uncorrectable words (R159, R160) -/

/-- An entry of a strand's error log (R160). -/
def merrWord (where_ unit row col : Nat) (tc : W64) : W64 :=
  BitVec.ofNat 64 (2 ^ 63 + where_ % 8 * 2 ^ 60 + unit % 16 * 2 ^ 56 + row % 8192 * 2 ^ 43 + col % 8192 * 2 ^ 30 + bits tc 0 30)

/-- Records a zeroed element: MERR, and the lowest clear log entry (R160). -/
def Strand.merr (t : Strand) (w : W64) : Strand :=
  let t := t.setMerr
  match (List.range 8).find? fun k => !(t.merrlg[k]?.getD 0).getLsbD 63 with
  | some k => { t with merrlg := t.merrlg.setIfInBounds k w }
  | none => t

/-- An element that an operation zeroed: WHERE, unit, row and column, and the place of its first read among the operation's reads. -/
structure Zeroed where
  at_ : Nat
  where_ : Nat
  unit : Nat
  row : Nat
  col : Nat
  deriving DecidableEq, Repr

/-- Puts an element among others by the place of its read. -/
def Zeroed.insert (e : Zeroed) : List Zeroed → List Zeroed
  | [] => [e]
  | x :: l => if e.at_ ≤ x.at_ then e :: x :: l else x :: e.insert l

/-- Records the zeroed elements of an operation, those read first as the oldest (R160, R301). -/
def State.record (s : State) (c i : Nat) (z : List Zeroed) : State :=
  (z.foldr Zeroed.insert []).foldl (fun s e => s.modStrand c i (·.merr (merrWord e.where_ e.unit e.row e.col s.timecode))) s

/-- An accumulator whose words are written is whole again (R159). -/
def State.accWritten (s : State) (c a : Nat) (ws : Nat → Bool) : State :=
  { s with env := s.env.filter fun e => match e with | .accBad k a' w => !(k == c && a' == a && ws w) | _ => true }

/-- The words of an accumulator with its bad ones as zero, and the zeroed elements, each read at a place. -/
def State.accWords (s : State) (c a : Nat) (place : Nat → Nat) : Vector W32 256 × List Zeroed :=
  let bad := s.badAcc c a
  (bad.foldl (fun v w => v.setIfInBounds w 0) ((s.core c).accOf a).words, bad.map fun w => ⟨place w, 2, a, w / 16, w % 16⟩)

/-- Rewrites with zero the bad words of an accumulator that an operation reads (R159). -/
def State.accZeroed (s : State) (c a : Nat) (ws : Nat → Bool) : State :=
  let bad := (s.badAcc c a).filter ws
  if bad.isEmpty then s
  else
    (s.modCore c fun x => x.setAcc a { x.accOf a with words := bad.foldl (fun v w => v.setIfInBounds w 0) (x.accOf a).words }).accWritten
      c a ws

/-! ## Operands from slots (R292) -/

/-- A slot as an operation reads it: its elements by row and column, and whether its rows run along i (or j). -/
structure Operand where
  data : BitVec 32768
  w : Nat
  cols : Nat
  deriving DecidableEq, Repr

/-- Element (i, k) of an operand, i for SA and j for SB: stored by rows of 16, or by columns of 16. -/
def Operand.at (o : Operand) (i k : Nat) : Nat :=
  let e := if o.cols = 16 then k * 16 + i else i * o.cols + k
  (o.data >>> (e * o.w)).toNat % 2 ^ o.w

/-- The operand in a slot, with the elements of k below `n` that its bad words zero. -/
def State.operand (s : State) (c where_ o n : Nat) : Operand × List Zeroed :=
  let x := s.core c
  let e := match (x.slot o).bound with | some t => x.tile t | none => Tile.reset
  let w := etyWidth e.ety
  let bad := s.badSlot c o
  let z := bad.flatMap fun word => (List.range (32 / w)).filterMap fun j =>
    let el := word * (32 / w) + j
    let (row, col) := (el / e.cols, el % e.cols)
    let (i, k) := if e.cols = 16 then (col, row) else (row, col)
    if k < n then some ⟨k * 8192 + where_ * 2048 + i, where_, o, row, col⟩ else none
  ({ data := zeroWords (x.slot o).data bad, w, cols := e.cols }, z)

/-- Rewrites with zero the bad words of a slot whose elements an operation has read (R159). -/
def State.operandRead (s : State) (c : Nat) (w : Nat) (z : List Zeroed) (o cols : Nat) : State :=
  s.zeroSlot c o ((s.badSlot c o).filter fun word => z.any fun e => e.unit == o && e.where_ < 2 && (e.row * cols + e.col) * w / 32 == word)

/-! ## MMA (R152, R154, R293) -/

/-- One group of 16 products added to an element with one rounding (R152). -/
def mmaGroup (f : Fmt) (a b : Operand) (i j g : Nat) (c : Nat) : Nat :=
  let ps := (List.range 16).map fun k => mulV (readF f false (a.at i (g + k))) (readF f false (b.at j (g + k)))
  if ps.any (·.isNone) then Fmt.nan .fp32
  else (sumF .fp32 .plain (readF .fp32 false c :: ps.filterMap id)).bits

/-- One RA word updated over all k (R154). -/
def mmaResidue (ty : ETy) (a b : Operand) (i j n : Nat) (c : Nat) : Nat :=
  let t := (List.range n).foldl (fun (t : Int) k => t + rnValue ty (a.at i k) * rnValue ty (b.at j k)) 0
  let (x, y, z) := raRead c
  raWord ((((x : Int) + t) % 1023).toNat, (((y : Int) + t) % 1024).toNat, (((z : Int) + t) % 1025).toNat)

/-- The element that an MMA leaves. -/
def mmaElem (ty : ETy) (a b : Operand) (groups i j : Nat) (c : Nat) : Nat :=
  if ty = .rn8 || ty = .rn4 then mmaResidue ty a b i j (16 * groups) c
  else (List.range groups).foldl (fun c g => mmaGroup (etyFmt ty) a b i j (16 * g) c) c

/-! ## Microprograms (R157, R299, R300) -/

/-- One operation of a microprogram on 32-bit words. SEL copies the bits of what it selects, those of a NaN in s or the constant included, as
R144 says of selects, where R147 has a result that is NaN be the canonical one (DEDUCED, assumption log 15). -/
def microOp (i32 : Bool) (op p q r : Nat) : Nat :=
  let flt := fun (f : FOp) => (fltOp f .fp32 .plain p q).bits
  let int := fun (o : IOp) => intOp o .i32 false p q
  match op with
  | 0 => if i32 then int .add else flt .add
  | 1 => if i32 then int .sub else flt .sub
  | 2 => if i32 then int .mul else flt .mul
  | 3 => if i32 then int .max else flt .max
  | 4 => if i32 then int .min else flt .min
  | _ =>
    let pos := if i32 then decide (0 < asInt true 32 p) else (cmpF .fp32 false .gt p 0).1
    if pos then q else r

/-- The fields of a step: OP, DST, P, Q, R. -/
def stepOp (w : BitVec 16) : Nat := (w.extractLsb' 13 3).toNat
def stepP (w : BitVec 16) : Nat := (w.extractLsb' 9 3).toNat
def stepQ (w : BitVec 16) : Nat := (w.extractLsb' 6 3).toNat
def stepR (w : BitVec 16) : Nat := (w.extractLsb' 3 3).toNat

/-- Whether a step is one that UPROG refuses (R299). -/
def stepBad (w : BitVec 16) : Bool :=
  decide (6 ≤ stepOp w) || decide (5 ≤ stepP w) || decide (5 ≤ stepQ w) ||
    (if stepOp w = 5 then decide (5 ≤ stepR w) else stepR w != 0) || w.extractLsb' 0 3 != 0

/-- Runs the steps for one k: the state after it. -/
def microK (u : Uprog) (a b s : Nat) : Nat :=
  (u.steps.foldl (fun (st : Nat × Nat) w =>
    let v := fun (k : Nat) => match k with
      | 0 => a
      | 1 => b
      | 2 => st.1
      | 3 => st.2
      | _ => u.const.toNat
    let x := microOp u.i32 (stepOp w) (v (stepP w)) (v (stepQ w)) (v (stepR w))
    if w.getLsbD 12 then (st.1, x) else (x, st.2)) (s, 0)).1

/-- The element that an MMU leaves: sources widened exactly, a NaN to the canonical one (R150, R157), or sign-extended bytes. -/
def mmuElem (u : Uprog) (a b : Operand) (groups i j : Nat) (c : Nat) : Nat :=
  let wide := fun (x : Nat) => if u.i32 then ofInt 32 (asInt true 8 x) else (cvtElem .plain false .bf16 .fp32 x).bits
  (List.range (16 * groups)).foldl (fun s k => microK u (wide (a.at i k)) (wide (b.at j k)) s) c

/-! ## ADRN (R156, R298) -/

/-- The bytes of one drained element. -/
def drainElem (ra : Bool) (dty : ETy) (scl : Nat) (sat : Bool) (sa sb : Nat) (w : Nat) : Nat :=
  let scaled := fun (y : Nat) =>
    let y := if scl % 2 = 1 then (mulF .fp32 .plain y sa).bits else y
    if 2 ≤ scl then (mulF .fp32 .plain y sb).bits else y
  let out := fun (y : Nat) => if dty = .fp32 then y else (cvtElem .plain true .fp32 dty y).bits
  if ra then
    let x := raValue w
    if scl != 0 || dty.isFlt then out (scaled (cvtIF .fp32 .plain x).bits)
    else ofInt (etyWidth dty) (if sat then clampInt (tyLo dty) (tyHi dty) x else x)
  else out (scaled w)

/-- The bytes that a drain of an accumulator writes, in ascending i and then j. -/
def drainBytes (a pitch n : Nat) (f : Nat → Nat → Nat) : List (Nat × Nat) :=
  (List.range 256).flatMap fun k => (List.range n).map fun b =>
    (a + k / 16 * pitch + k % 16 * n + b, f (k / 16) (k % 16) / 256 ^ b % 256)

/-! ## Performing an operation -/

/-- Writes a whole accumulator. -/
def State.putAcc (s : State) (c a : Nat) (v : Vector W32 256) : State :=
  (s.modCore c fun x => x.setAcc a { x.accOf a with words := v }).accWritten c a fun _ => true

/-- The words of an accumulator computed by row and column. -/
def accOfFn (f : Nat → Nat → Nat) : Vector W32 256 :=
  Vector.ofFn fun k => BitVec.ofNat 32 (f (k.val / 16) (k.val % 16))

/-- Elements of a row pair (R295). -/
def rowPair (v : Vector W32 256) (r : Nat) : W1024 := packLanes 32 ((List.range 32).map fun l => (v[32 * r + l]?.getD 0).toNat)

/-- The place of the first read of an accumulator's words among the reads of an operation on two slots: with the operands of the
first k after which the element is updated, and after them (DEDUCED, assumption log 29). -/
def firstUpdate (m : MxKind) : Nat :=
  (match m with
    | .mma _ _ _ _ .rn8 => 3
    | .mma _ _ _ _ .rn4 => 7
    | .mma _ _ _ _ _ => 15
    | _ => 0) * 8192 + 4096

/-- Reads two slots and an accumulator, zeroing and recording what is uncorrectable (R159, R160, R301), and writes the accumulator. -/
def State.mxProduct (s : State) (c : Nat) (m : MxOp) (acc sa sb n : Nat) (f : Operand → Operand → Nat → Nat → Nat → Nat) : State :=
  let (a, za) := s.operand c 0 sa n
  let (b, zb) := s.operand c 1 sb n
  let (v, zc) := s.accWords c acc fun w => firstUpdate m.kind + w
  let s := (s.record c m.strand (za ++ zb ++ zc)).operandRead c a.w za sa a.cols
  (s.operandRead c b.w zb sb b.cols).putAcc c acc (accOfFn fun r k => f a b r k (v[16 * r + k]?.getD 0).toNat)

/-- What a matrix operation does, all at its start (DEDUCED, assumption log 12), but for the bytes that ADRN writes, which it leaves in
its queue entry until it ends (R298). -/
def State.mxRun (s : State) (c : Nat) (m : MxOp) : State :=
  let i := m.strand
  match m.kind with
  | .mma acc sa sb g ty => s.mxProduct c m acc sa sb (16 * g) fun a b => mmaElem ty a b g
  | .mmu acc sa sb g u => s.mxProduct c m acc sa sb (16 * g) fun a b => mmuElem u a b g
  | .mmz acc fill => s.putAcc c acc (Vector.replicate 256 fill)
  | .amov dst src =>
    let (v, z) := s.accWords c src id
    ((s.record c i z).accZeroed c src fun _ => true).putAcc c dst v
  | .amovV v acc r =>
    let (w, z) := s.accWords c acc id
    ((s.record c i (z.filter fun e => e.row / 2 == r)).accZeroed c acc fun w => w / 32 == r).modStrand c i (·.setV v (rowPair w r))
  | .amovA acc r data =>
    let s := s.modCore c fun x =>
      let e := x.accOf acc
      x.setAcc acc { e with words := (List.range 32).foldl (fun v l => v.setIfInBounds (32 * r + l) (BitVec.ofNat 32 (lane 32 data l))) e.words }
    s.accWritten c acc fun w => w / 32 == r
  | .ald acc off =>
    let (s, ls) := s.lsView c
    s.putAcc c acc (accOfFn fun r k => ls.num (off + 64 * r + 4 * k) 4)
  | .adrn acc clr off pitch ra dty scl sat ssa ssb =>
    let (v, z) := s.accWords c acc (4 * ·)
    let x := s.core c
    let ba := if scl % 2 = 1 then (s.badScale c ssa).filter (· < 16) else []
    let bb := if 2 ≤ scl then (s.badScale c ssb).filter (· < 16) else []
    let sa := fun (k : Nat) => if ba.contains k then 0 else ((x.slot ssa).scales[k]?.getD 0).toNat
    let sb := fun (k : Nat) => if bb.contains k then 0 else ((x.slot ssb).scales[k]?.getD 0).toNat
    let s := s.record c i (z ++ ba.map (fun k => ⟨64 * k + 1, 3, ssa, k, 0⟩) ++ bb.map fun k => ⟨4 * k + 2, 4, ssb, 0, k⟩)
    let s := (s.zeroScales c ssa ba).zeroScales c ssb bb
    let l := drainBytes off pitch (etyWidth dty / 8) fun r k =>
      drainElem ra dty scl sat (sa r) (sb k) (v[16 * r + k]?.getD 0).toNat
    let s := s.modCore c fun x => { x with mxq := x.mxq.map fun e => if e.id = m.id then { e with bytes := l } else e }
    if clr then s.putAcc c acc (Vector.replicate 256 0) else s.accZeroed c acc fun _ => true

/-- The accumulators that an operation names. -/
def MxKind.accs : MxKind → List Nat
  | .mma a _ _ _ _ | .mmu a _ _ _ _ | .mmz a _ | .amovV _ a _ | .amovA a _ _ | .ald a _ | .adrn a _ _ _ _ _ _ _ _ _ => [a]
  | .amov d a => [d, a]

/-- Whether an operation runs in the array; the others run in the drain pipe (R285). -/
def MxKind.inArray : MxKind → Bool
  | .mma _ _ _ _ _ | .mmu _ _ _ _ _ => true
  | _ => false

/-- Whether an operation of the core names an accumulator. -/
def Core.accBusy (x : Core) (a : Nat) : Bool := x.mxq.any fun m => m.kind.accs.contains a

/-! ## Issue (R286, R288) -/

/-- Whether the strand whose turn it is owns some accumulators. -/
def State.owns (s : State) (l : List Nat) : Bool := l.all fun a => (s.myCore.accOf a).owner == some s.cur.2

/-- Puts an operation into the matrix queue and retires, or stalls while the queue is full. -/
def State.mxIssue (s : State) (k : MxKind) : State :=
  if decide (8 ≤ (s.myCore.mxq.filter (·.phase == .queued)).length) then s.hold
  else
    let op : MxOp := { id := s.uid, strand := s.cur.2, kind := k, phase := .queued, bytes := [] }
    ({ s with uid := s.uid + 1 }.modMyCore fun x => { x with mxq := x.mxq ++ [op] }).retire

/-- ACC_STATE unless the strand owns the accumulators (R288). -/
def State.withAccs (s : State) (l : List Nat) (f : State) : State := if s.owns l then f else s.raise0 cAccState

/-- The state of a slot as an operand (R292): the state of a trap or a stall, or the format of its entry. -/
def State.slotReady (s : State) (o : Nat) : Except State ETy :=
  match (s.myCore.slot o).bound with
  | none => .error (s.raise0 cTileState)
  | some t =>
    let e := s.myCore.tile t
    if e.state = 1 then .error s.stall else if e.state = 2 then .ok e.ety else .error (s.raise0 cTileState)

/-- K of a source type (R292). -/
def mmK (ty : ETy) : Nat := if ty = .rn8 then 256 else if ty = .rn4 then 512 else 128

/-- The checks that MMA and MMU share (R292), then the operation with its number of groups. -/
def State.mmIssue (s : State) (x : Mm) (ty : ETy) (k : Nat → MxKind) : State :=
  s.withAccs [accNo x.d] <|
    match s.slotReady x.sa, s.slotReady x.sb with
    | .error s, _ => s
    | .ok _, .error s => s
    | .ok fa, .ok fb =>
      let g := if x.kn.val = 0 then mmK ty / 16 else x.kn.val
      if fa != ty || fb != ty || decide (mmK ty < 16 * g) then s.raise0 cShapeFormat else s.mxIssue (k g)

/-! ## The instructions -/

/-- R292, R293. -/
def execMma (x : Mm) (s : State) : Res :=
  .next (s.begin_ ⟨true, [.rn8, .rn4], [], false, false, false⟩ false x.p fun d =>
    let ty := d.srcTy (if x.f16 then .fp16 else .bf16)
    s.mmIssue x ty fun g => .mma (accNo x.d) x.sa x.sb g ty)

/-- R300. -/
def execMmu (x : Mm) (s : State) : Res :=
  .next (s.begin_ .no false x.p fun _ =>
    s.mmIssue x (if s.me.uprog.i32 then .rn8 else .bf16) fun g => .mmu (accNo x.d) x.sa x.sb g s.me.uprog)

/-- R294. -/
def execMmz (d : Opd) (fill : W32) (p : Pred) (s : State) : Res :=
  .next (s.begin_ .no false p fun _ => s.withAccs [accNo d] (s.mxIssue (.mmz (accNo d) fill)))

/-- R295. -/
def execAmov (d a : Opd) (p : Pred) (s : State) : Res :=
  .next (s.begin_ .no false p fun _ => s.withAccs [accNo d, accNo a] (s.mxIssue (.amov (accNo d) (accNo a))))

/-- R295. -/
def execAmovV (d a : Opd) (r : Fin 8) (p : Pred) (s : State) : Res :=
  .next (s.begin_ .no false p fun _ => s.withAccs [accNo a] (s.mxIssue (.amovV (vNo d) (accNo a) r)))

/-- R295: v[A] is read at issue. -/
def execAmovA (d a : Opd) (r : Fin 8) (p : Pred) (s : State) : Res :=
  .next (s.begin_ .no false p fun _ => s.withAccs [accNo d] (s.mxIssue (.amovA (accNo d) r (s.me.readV (vNo a)))))

/-- The checks on a LOCAL range of the drain pipe (R296, R297): the state of a trap or a stall, or the offset. `bad` is a
breach of alignment with its BADADDR. -/
def State.mxRange (s : State) (a : W64) (n : Nat) (bad : Option W64) : Except State Nat :=
  let x := s.myCore
  match decodeAddr s.me.stkb a with
  | some (.loc off) =>
    match bad with
    | some b => .error (s.raiseAcc cAlign b)
    | none =>
      if 524288 < off + n then .error (s.raiseAcc cAperture 0x80000)
      else if x.changing off n then .error s.hold
      else
        match x.notScr off n with
        | some b => .error (s.raiseAcc cBankMode (BitVec.ofNat 64 b))
        | none =>
          if x.reserved off n s.me.prv then .error (s.raiseAcc cProtection (BitVec.ofNat 64 (max off 516096)))
          else if x.tileBusy off n then .error (s.raiseAcc cTileState a)
          else .ok off
  | _ => .error (s.raiseAcc cAperture a)

/-- R296. -/
def execAld (d : Opd) (x : Ad) (s : State) : Res :=
  .next (s.begin_ .no false x.p fun _ =>
    let a := s.me.src 0 x.a + x.off.signExtend 64
    s.withAccs [accNo d] <|
      match s.mxRange a 1024 (if a.toNat % 64 != 0 then some a else none) with
      | .error s => s
      | .ok off => s.mxIssue (.ald (accNo d) off))

/-- The destination type of ADRN under a descriptor (R297). -/
def adrnTy (d : Desc) : ETy := d.dstTy (if d.sen && d.scl == 0 then .i32 else .fp32)

/-- The prefixes that ADRN accepts (R290, R297). -/
def adrnPx (d : Desc) : PxSpec :=
  ⟨true, [.ra], if d.sen then [.fp32, .bf16, .fp16, .i32, .i16, .i8] else [.fp32, .bf16, .fp16], true, !(adrnTy d).isFlt, false⟩

/-- R297, R298. -/
def execAdrn (clr : Bool) (a b c : Opd) (ssa ssb : Fin 16) (off : W32) (p : Pred) (s : State) : Res :=
  .next (s.begin_ (adrnPx s.me.desc) false p fun d =>
    let ty := adrnTy d
    let n := etyWidth ty / 8
    let a' := s.me.src 0 b + off.signExtend 64
    let pitch := (s.me.src 0 c).toNat
    let bad := if a'.toNat % n != 0 then some a'
      else if pitch % n != 0 || decide (pitch < 16 * n) || decide (524288 ≤ pitch) then some s.me.pc else none
    s.withAccs [accNo a] <|
      match s.mxRange a' (15 * pitch + 16 * n) bad with
      | .error s => s
      | .ok o => s.mxIssue (.adrn (accNo a) clr o pitch d.sen ty d.scl d.sat ssa ssb))

/-- R288: blocked claimants are served in the order they blocked. -/
def execAclaim (d : Opd) (p : Pred) (s : State) : Res :=
  .next (s.begin_ .no false p fun _ =>
    let x := s.myCore
    let i := s.cur.2
    let a := accNo d
    let free := { x with accWait := x.accWait.filter (· != (a, i)) }
    let queued := if x.accWait.contains (a, i) then x else { x with accWait := x.accWait ++ [(a, i)] }
    if (x.accOf a).owner = some i then (s.modMyCore fun _ => free).retire
    else if (x.accOf a).owner = none && ((x.accWait.find? (·.1 == a)).map (·.2)).getD i == i then
      (s.modMyCore fun _ => free.setAcc a { x.accOf a with owner := some i }).retire
    else (s.modMyCore fun _ => queued).stall)

/-- R287, R288. -/
def execArels (d : Opd) (p : Pred) (s : State) : Res :=
  .next (s.begin_ .no false p fun _ =>
    let x := s.myCore
    let a := accNo d
    match (x.accOf a).owner with
    | none => s.retire
    | some o =>
      if o != s.cur.2 then s.raise0 cAccState
      else if x.accBusy a then s.hold
      else (s.modMyCore fun x => x.setAcc a { x.accOf a with owner := none }).retire)

/-- R299. -/
def execUprog (i32 : Bool) (a b : Opd) (ns : Fin 4) (p : Pred) (s : State) : Res :=
  .next (s.begin_ .no false p fun _ =>
    let w := s.me.src 0 a
    let steps := (List.range (ns.val + 1)).map fun k => w.extractLsb' (16 * k) 16
    if steps.any stepBad || w >>> (16 * (ns.val + 1)) != 0 then s.raisePc cIllegalEncoding
    else s.finish fun t => { t with uprog := { i32, const := (t.src 0 b).setWidth 32, steps } })

/-! ## The unit's own steps (R286) -/

/-- Whether an operation, with those issued before it that have not ended, may start: its pipe is free, and every earlier one on its
accumulators has ended, or both run in the array, which forwards to itself, and that one is past its last cycle. -/
def mxMayStart (before : List MxOp) (m : MxOp) : Bool :=
  before.all fun e =>
    (e.phase != .running || e.kind.inArray != m.kind.inArray) &&
      (!(e.kind.accs.any fun a => m.kind.accs.contains a) || (e.phase == .past && e.kind.inArray && m.kind.inArray))

/-- The first operation of a pipe that has not started, and those before it. -/
def mxNext (pipe : Nat) : List MxOp → List MxOp → Option (List MxOp × MxOp)
  | _, [] => none
  | seen, m :: rest =>
    if m.phase == .queued && m.kind.inArray == (pipe == 0) then some (seen, m) else mxNext pipe (seen ++ [m]) rest

/-- Corrected errors of a core's slots, scale stores and accumulators are counted (R158). -/
def State.meetCoreErrors (s : State) (c : Nat) : State :=
  let n := (s.env.filter (· == EnvErr.coreCorr c)).length
  if n = 0 then s else { s with env := s.env.filter (· != EnvErr.coreCorr c) }.modCore c fun x => { x with errors := x.errors + n }

/-- MATRIX_OP_START: the next operation of pipe 0 (the array) or 1 (the drain pipe) starts. -/
def execMatrixOpStart (c pipe : Nat) (s : State) : Res :=
  if !(decide (c < 12288) && decide (pipe < 2)) then .fault .noSuchPlace
  else if !s.coreUp c then .next s
  else
    match mxNext pipe [] (s.core c).mxq with
    | some (before, m) =>
      if mxMayStart before m then
        .next (((s.meetCoreErrors c).modCore c fun x =>
          { x with mxq := x.mxq.map fun e => if e.id = m.id then { e with phase := .running } else e }).mxRun c m)
      else .next s
    | none => .next s

/-- MATRIX_OP_END: a running operation is past its last pipe cycle, which frees its pipe and the waits on what it reads; the next such
step is its end, with the bytes of an ADRN written (R286, R287, R298). -/
def execMatrixOpEnd (c op : Nat) (s : State) : Res :=
  if !decide (c < 12288) then .fault .noSuchPlace
  else
    match (s.core c).mxq.find? (·.id == op) with
    | none => .next s
    | some m =>
      match m.phase with
      | .queued => .next s
      | .running => .next (s.modCore c fun x => { x with mxq := x.mxq.map fun e => if e.id = op then { e with phase := .past } else e })
      | .past => .next (s.modCore c fun x => { x with mxq := x.mxq.filter (fun e => e.id != op), ls := putBytes x.ls m.bytes })

end Sys2Proof.Machine
end

