-- ==== Sys2Proof/Machine/Issue.lean ====
section
/-!
DEFINITION. What a strand's turn does before its instruction: the line and group checks and the decoding (R176 to R180,
R183 to R185, R194), and where an instruction's bytes lie.
-/

namespace Sys2Proof.Machine

/-- A failure of a read from the instruction cache counts as the first failed fetch (R177). -/
def State.cachedParity (s : State) (c i : Nat) (line : W64) : State :=
  if s.env.contains (.parity c line false) && ((s.core c).ifind line ((s.strand c i).asid.setWidth 16) i).isSome then
    let s := { s with env := s.env.erase (.parity c line false) }
    s.modCore c fun x => { x with icache := x.icache.map fun e => if e.line = line && e.bad = 0 then { e with bad := 1 } else e }
  else s

/-- A line whose second copy has failed too has raised its cause: the next read of it is a first failed fetch (R177). -/
def Core.parityOnce (x : Core) (line : W64) : Core :=
  { x with icache := x.icache.map fun e => if e.line = line && 2 ≤ e.bad then { e with bad := 1 } else e }

/-- What a turn finds at a strand's PC: an instruction to execute in a state, or the state in which the turn ends. -/
inductive Issued where
  | run (i : Instr) (s : State)
  | stop (s : State)

/-- The line at the PC of the strand whose turn it is, with the causes of the PC, the line and the group (R176 to R179,
R183, R184). -/
def State.lineAt (s : State) : Except State (ILine × State) :=
  let c := s.cur.1
  let i := s.cur.2
  let s := s.cachedParity c i (pcLine (s.strand c i).pc)
  let t := s.strand c i
  let slot := pcSlot t.pc
  if !pcOk t.pc then .error (s.raise cIllegalPc t.pc .fetch)
  else
    match s.fetch c i (pcLine t.pc) with
    | .busy s => .error s
    | .bad num a => .error (s.raise num a .fetch)
    | .line l =>
      if 2 ≤ l.bad then .error ((s.modCore c (·.parityOnce (pcLine t.pc))).raise cIfetchParity t.pc .fetch)
      else if lineReserved l.bytes then .error (s.raise cIllegalEncoding t.pc .fetch)
      else if !groupLegal (groupOf l.bytes slot) || (slot = 0 && !groupLegal (t.join4 ++ groupOf l.bytes 0)) then
        .error (s.raise cIllegalEncoding t.pc .fetch)
      else .ok (l, s)

/-- The group that slot 4 joins to the next line is kept as the strand issues there (R183). -/
def Strand.keepJoin (t : Strand) (b : BitVec 512) : Strand :=
  if pcSlot t.pc < 4 then t else { t with join4 := lastGroup b }

/-- Whether an instruction word names a vector register that an AMOV.V of its strand has still to write (R286). -/
def Core.vectorPending (x : Core) (i : Nat) (w : W96) : Bool :=
  x.mxq.any fun m => m.strand == i && (match m.kind with
    | .amovV v _ _ => [73, 66, 59, 52].any fun b => (w.extractLsb' b 7).toNat == 0x40 + v
    | _ => false)

/-- The cocoon's entry that a strand still has to make at its PC. -/
def Strand.entryDue (t : Strand) : Option Entry := t.entry.filter (·.pc == t.pc)

/-- Fetches and decodes the instruction at the PC of the strand whose turn it is, with the causes that come before its
own (R180, R194). -/
def State.issue (s : State) : Issued :=
  match s.lineAt with
  | .error s => .stop s
  | .ok (l, s) =>
    let t := s.me
    let w := slotWord l.bytes (pcSlot t.pc)
    if t.entered && !lineTgt l.bytes (pcSlot t.pc) then .stop (s.raise cIllegalTarget t.pc .fetch)
    else
      match decode w with
      | .ok ins => if s.myCore.vectorPending s.cur.2 w then .stop s.stall else .run ins (s.modMe (·.keepJoin l.bytes))
      | .error .illegalOpcode => .stop (s.raise cIllegalOpcode t.pc .instr)
      | .error .illegalEncoding => .stop (s.raise cIllegalEncoding t.pc .instr)

/-- A fetch line with one instruction word in slot 0, TGT bit 0 set and PAR right (R175 to R177). -/
def lineOf (w : W96) : BitVec 512 :=
  let par := xorBytes w.toNat 12
  BitVec.ofNat 512 (w.toNat + 2 ^ 480 * (1 + 65536 * par))

end Sys2Proof.Machine
end

