-- ==== Sys2Proof/Machine/Tasks.lean ====
section
/-!
DEFINITION. Cocoons and task pools (R331 to R337), the suspension points, SPAWN, TAKE and NEXTI (R261, R344 to R347), and
the steps of the task sequencer that answer them.
Readings: DEDUCED, assumption log 34.
-/

namespace Sys2Proof.Machine

/-! ## Cocoons (R331) -/

abbrev Image := Vector W64 8

def Image.field (m : Image) (k : Nat) : W64 := m[k]?.getD 0
def Image.flags (m : Image) : Nat := bits (Image.field m 1) 32 32
def Image.kind (m : Image) : Nat := Image.flags m % 4
def Image.prio (m : Image) : Nat := Image.flags m / 4 % 4
def Image.st (m : Image) : Nat := Image.flags m / 16 % 8
def Image.grain (m : Image) : Nat := Image.flags m / 65536
def Image.setSt (m : Image) (st : Nat) : Image := m.setIfInBounds 1 (putBits (Image.field m 1) 36 3 st)

/-- The valid tile declarations: entry, F, and IMG. -/
def Image.decls (m : Image) : List (Nat × Bool × Nat) :=
  ([0, 1, 2, 3].map fun k => bits (Image.field m 6) (16 * k) 16).filterMap fun d =>
    if 32768 ≤ d then some (d / 256 % 64, d / 16384 % 2 == 1, d % 256) else none

/-- The record of a strand that leaves its cocoon (R333). -/
def Strand.record (t : Strand) (pc : W64) (st : Nat) : Image :=
  let m : Image := match t.cocoon with
    | some k => k.img
    | none => Vector.replicate 8 0
  let m := if Image.kind m = 2 then (m.setIfInBounds 2 t.rnglo).setIfInBounds 3 t.rnghi else m
  Image.setSt (((m.setIfInBounds 0 pc).setIfInBounds 4 (t.readG 62)).setIfInBounds 5 (t.readG 63)) st

/-! ## The task sequencer's memory: GLOBAL of the context (R335)

The sequencer reads and writes lines by messages to their homes, or to the host port. It has no TLB: it reads the buckets of an address
itself, for each operation anew. An operation waits until the lines that it needs are there (DESIGN CHOICE, assumption log 9). -/

/-- The lines of the buckets in which the sequencer finds the page of an address. -/
def State.seqBuckets (s : State) (asid : BitVec 16) (va : Nat) : List DevAt :=
  [0, 1, 2].map fun sz => (physLine (s.bucketAddr asid sz (va / 2 ^ pageShift sz)), false)

/-- The page of an address by the buckets that the sequencer holds. -/
def State.seqPage (s : State) (asid : BitVec 16) (va : Nat) (n : Need) : Option Page :=
  let ans := (s.seqBuckets asid va).map fun l =>
    let d := s.devLine epSequencer l.2 l.1
    if d.poison then ProbeAns.poison else .bucket d.data
  match classify ans asid va 0 with
  | .ok p => if p.permits n then some p else none
  | .error _ => none

/-- The lines at some generic addresses: none where one does not translate, or the state in which the sequencer waits for buckets. -/
def State.seqReach (s : State) (asid : BitVec 16) (n : Need) (as : List Nat) : Except State (Option (List (Nat × DevAt))) :=
  match as.mapM fun a => (tileVa a).map fun va => (a, va) with
  | none => .ok none
  | some vas =>
    if s.ptsh = 0 then .ok none
    else
      let bs := (vas.flatMap fun v => s.seqBuckets asid v.2).eraseDups
      if s.devHave epSequencer bs then
        .ok (vas.mapM fun v => (s.seqPage asid v.2 n).map fun p => (v.1, (pageAddr p v.2 / 128, p.loc)))
      else .error (s.devWant epSequencer (some asid) bs)

/-- An operation of the sequencer on some lines is over. -/
def State.seqDone (s : State) (asid : BitVec 16) (as : List Nat) (ls : List (Nat × DevAt)) : State :=
  let bs := (as.filterMap tileVa).flatMap fun va => s.seqBuckets asid va
  s.devUsed epSequencer (bs ++ ls.map (·.2))

/-- The line of a byte among lines that the sequencer has reached. -/
def seqAt (ls : List (Nat × DevAt)) (a : Nat) : DevAt := SMap.getD ls (a / 128 * 128) (0, false)

def State.seqNum (s : State) (ls : List (Nat × DevAt)) (a n : Nat) : Nat := lineNum (s.devData epSequencer (seqAt ls a)) (a % 128) n
def State.seqPut (s : State) (ls : List (Nat × DevAt)) (a n x : Nat) : State := s.devPutNum epSequencer (seqAt ls a) (a % 128) n x

/-! ## Pools (R335, R336) -/

def State.pool (s : State) (key : Nat) : Pool := SMap.getD s.pools key .reset
def State.setPool (s : State) (key : Nat) (x : Pool) : State := { s with pools := SMap.set s.pools key x }

/-- The address of a launch's pool of a priority. -/
def Launch.pool (l : Launch) (prio : Nat) : Nat := ((l.record[3]?.getD 0)).toNat + 192 * prio

/-- The lines of a header, and those of `n` bytes of a ring from an offset. -/
def hdrLines (a : Nat) : List Nat := [a / 128 * 128, (a + 191) / 128 * 128].eraseDups
def PoolHdr.lines (h : PoolHdr) (o n : Nat) : List Nat := ((List.range n).map fun i => (h.base + (o + i) % h.size) / 128 * 128).eraseDups

/-- A header as it stands in memory; none where it states no ring. -/
def State.parseHdr (s : State) (ls : List (Nat × DevAt)) (a : Nat) : Option PoolHdr :=
  let w := fun k => s.seqNum ls (a + 8 * k) 8
  let img := fun k => (Vector.ofFn fun (i : Fin 8) => BitVec.ofNat 64 (w (k + i.val)) : Image)
  if w 1 < 1024 || w 1 % 64 != 0 || w 0 % 64 != 0 then none
  else some { base := w 0, size := w 1, head := w 2 % w 1, tail := w 3 % w 1, count := w 4, prevw := img 8, prevr := img 16 }

/-- Reads the header of a launch's pool, which the sequencer owns from then on, unless it has been read. -/
def State.poolRead (s : State) (q : Nat) (l : Launch) (prio : Nat) : State :=
  let key := 4 * q + prio
  let asid := s.ctxAsid l.ctx
  let as := hdrLines (l.pool prio)
  if (s.pool key).read then s
  else match s.seqReach asid ⟨true, true, false, true⟩ as with
    | .error s => s
    | .ok none => (s.setPool key { s.pool key with read := true, hdr := none }).seqDone asid as []
    | .ok (some ls) =>
      if s.devHave epSequencer (ls.map (·.2)) then
        (s.setPool key { s.pool key with read := true, hdr := s.parseHdr ls (l.pool prio) }).seqDone asid as ls
      else s.devWant epSequencer (some asid) (ls.map (·.2))

def State.poolsRead (s : State) (q : Nat) (l : Launch) : State := [3, 2, 1, 0].foldl (fun s k => s.poolRead q l k) s

/-- Whether the headers of a launch's pools have been read. -/
def State.poolsKnown (s : State) (q : Nat) : Bool := [0, 1, 2, 3].all fun k => (s.pool (4 * q + k)).read

/-- Goes on with the reading of headers when a line has come. -/
def State.poolsGo (s : State) : State :=
  s.queues.foldl (fun s e => match e.2.launch with
    | some l => if l.phase = .running && !l.armed then s.poolsRead e.1 l else s
    | none => s) s

/-- Free bytes of a ring. -/
def PoolHdr.free (h : PoolHdr) : Nat :=
  if h.count = 0 then h.size
  else h.size - (if h.tail = h.head then h.size else (h.tail + h.size - h.head) % h.size)

/-- The bytes of an entry: its mask and the fields that differ (R336). -/
def entryBytes (prev m : Image) : List Nat :=
  let ks := (List.range 8).filter fun k => Image.field m k != Image.field prev k
  ks.foldl (fun a k => a + 2 ^ k) 0 :: ks.flatMap fun k => (leBytes 8 (Image.field m k).toNat).map (·.toNat)

/-- Writes eight words. -/
def State.imagePut (s : State) (ls : List (Nat × DevAt)) (a : Nat) (m : Image) : State :=
  (List.range 8).foldl (fun s k => s.seqPut ls (a + 8 * k) 8 (Image.field m k).toNat) s

/-- A ring that does not translate leaves its pool without a place. -/
def State.poolLost (s : State) (key : Nat) : State := s.setPool key { s.pool key with hdr := none }

/-- Appends a cocoon to a pool, or the state in which the sequencer waits for what that takes. -/
def State.poolPush (s : State) (key : Nat) (asid : BitVec 16) (a : Nat) (h : PoolHdr) (m : Image) : Except State State :=
  let l := entryBytes h.prevw m
  let as := (h.lines h.tail l.length ++ hdrLines a).eraseDups
  match s.seqReach asid (.store true) as with
  | .error s => .error s
  | .ok none => .error (s.poolLost key)
  | .ok (some ls) =>
    let tail := (h.tail + l.length) % h.size
    let s := l.zipIdx.foldl (fun s b => s.seqPut ls (h.base + (h.tail + b.2) % h.size) 1 b.1) s
    let s := ((s.seqPut ls (a + 24) 8 tail).seqPut ls (a + 32) 8 (h.count + 1)).imagePut ls (a + 64) m
    .ok ((s.setPool key { s.pool key with hdr := some { h with tail, count := h.count + 1, prevw := m } }).seqDone asid as [])

/-- Takes the oldest cocoon out of a pool that has one. -/
def State.poolPop (s : State) (key : Nat) (asid : BitVec 16) (a : Nat) (h : PoolHdr) : Except State (Image × State) :=
  let ring := h.lines h.head 65
  let as := (ring ++ hdrLines a).eraseDups
  match s.seqReach asid ⟨true, true, false, true⟩ as with
  | .error s => .error s
  | .ok none => .error (s.poolLost key)
  | .ok (some ls) =>
    let data := ls.filter fun e => ring.contains e.1
    if !s.devHave epSequencer (data.map (·.2)) then .error (s.devWant epSequencer (some asid) (data.map (·.2)))
    else
      let byte := fun o => s.seqNum ls (h.base + (h.head + o) % h.size) 1
      let mask := byte 0
      let (m, o) := (List.range 8).foldl (fun (x : Image × Nat) k =>
        if mask / 2 ^ k % 2 = 1 then
          (x.1.setIfInBounds k (BitVec.ofNat 64 ((List.range 8).foldr (fun i n => byte (x.2 + i) + 256 * n) 0)), x.2 + 8)
        else x) (h.prevr, 1)
      let head := (h.head + o) % h.size
      let s := s.seqDone asid as data
      let s := ((s.seqPut ls (a + 16) 8 head).seqPut ls (a + 32) 8 (h.count - 1)).imagePut ls (a + 128) m
      .ok (m, s.setPool key { s.pool key with hdr := some { h with head, count := h.count - 1, prevr := m } })

/-- Takes the head of the non-empty pool of highest priority (R336, R346): none where every pool is empty. -/
def State.takePool (s : State) (q : Nat) (l : Launch) : Except State (Option (Image × State)) :=
  if !s.poolsKnown q then .error (s.poolsRead q l)
  else match [3, 2, 1, 0].findSome? fun k => ((s.pool (4 * q + k)).hdr.filter fun h => h.count != 0).map fun h => (k, h) with
    | none => .ok none
    | some (k, h) => (s.poolPop (4 * q + k) (s.ctxAsid l.ctx) (l.pool k) h).map some

/-- Whether the four pools of a launch are known to be empty (R364). -/
def State.poolsEmpty (s : State) (q : Nat) : Bool :=
  [0, 1, 2, 3].all fun k => (s.pool (4 * q + k)).read && (s.pool (4 * q + k)).hdr.all (·.count == 0)

/-! ## Leaving a cocoon (R333, R344) -/

/-- Runs a step of a strand as if it were its turn. -/
def State.asStrand (s : State) (c i : Nat) (f : State → State) : State := { f { s with cur := (c, i) } with cur := s.cur }

/-- Nothing of a strand is outstanding (R344, step 1). -/
def State.quiet (s : State) (c i : Nat) : Bool :=
  let t := s.strand c i
  t.ldc == 0 && t.stc == 0 && t.cpc == 0 && t.tlc == 0 && t.rsc == 0 && !((s.core c).mxq.any fun m => m.strand == i)

/-- Both steps of R344. -/
def State.leaveReady (s : State) (c i : Nat) : Bool := s.quiet c i && s.released c i .dev

/-- The declared entries are released and the accumulators freed (R333). -/
def State.giveUp (s : State) (c i : Nat) : State :=
  let ds := match (s.strand c i).cocoon with
    | some k => Image.decls k.img
    | none => []
  let s := s.asStrand c i fun s => ds.foldl (fun s d =>
    let e := s.tile c d.1
    if e.state != 2 then s else if e.logDirty then s.drainFor d.1 else s.tileEmpty c d.1) s
  s.modCore c (·.freeAccs i)

/-- A strand leaves its cocoon and becomes idle. -/
def State.leave (s : State) (c i : Nat) : State :=
  ((s.giveUp c i).modStrand c i fun t =>
    { t with run := .idle, cocoon := none, wait := .no, retry := [], window := false, entered := false, entry := none
             midway := false, join4 := [], rangeStop := false }).park c i

/-! ## SUSPEND, DONE and YIELD (R347) -/

/-- The first four checks of R345, for a read or a write of 64 bytes: a cause and BADADDR. -/
def State.recordCause (s : State) (a : W64) : Option (Nat × W64) :=
  let x := s.myCore
  if a.toNat % 64 != 0 then some (cAlign, a)
  else match decodeAddr s.me.stkb a with
    | some (.loc off) =>
      if x.mode (off / 8192) != 0 then some (cBankMode, a)
      else if off / 8192 = 63 && x.res && !s.me.prv then some (cProtection, a)
      else if x.tileBusy off 64 then some (cTileState, a)
      else none
    | some (.glob _) => if s.ptsh = 0 then some (cAperture, a) else none
    | _ => some (cAperture, a)

/-- The translation of a record's address: none in LOCAL; the state in which the strand waits. -/
def State.recordPage (s : State) (a : W64) (acc : AccTy) (n : Need) : Except State (Option (Page × Nat)) :=
  match decodeAddr s.me.stkb a with
  | some (.glob va) =>
    match s.xlate s.cur.1 s.cur.2 va a acc n with
    | .busy s => .error s
    | .page p => .ok (some (p, pageAddr p va))
  | _ => .ok none

/-- The 64 bytes of a record as an access of its strand, with the words that it writes. -/
def recordPiece (pa : Nat) (p : Page) (a : W64) (m : Image) : Piece :=
  { place := pa / 128, win := false, host := p.loc, cached := false, off := pa % 128, n := 64, mask := byteMask (pa % 128) 64
    data := (List.range 8).foldl (fun d k => putNum d (pa % 128 + 8 * k) 8 (Image.field m k).toNat) 0
    lanes := (List.range 8).map fun k => (k, pa % 128 + 8 * k), addr := a }

/-- Starts the access of a record, which no counter of the strand counts. -/
def State.recordGo (s : State) (last : AccEnd) (pa : Nat) (p : Page) (a : W64) (m : Image) : State :=
  s.accessGo s.cur.1 s.cur.2 { last, amo := none, cur := none, todo := [recordPiece pa p a m], acc := 0 } 2

/-- R333, R344, R347. The record is written as a store of the strand's, and the strand leaves its cocoon once that has been performed. -/
def execSuspend (a : Opd) (tgt : W48) (p : Pred) (s : State) : Res :=
  .next (s.begin_ .no false p fun _ =>
    let b := s.me.src 0 a
    let m := s.me.record (pcTarget s.me.pc tgt) 2
    match s.me.wait, s.recordCause b with
    | .record _, _ => s.leave s.cur.1 s.cur.2
    | _, some (k, x) => s.raiseAcc k x
    | _, none =>
      match s.recordPage b .store (.store s.me.prv) with
      | .error s => s
      | .ok pg =>
        if !s.leaveReady s.cur.1 s.cur.2 || (pg.isNone && s.myCore.changing b.toNat 64) then s.stall
        else match pg with
          | none =>
            ((List.range 8).foldl (fun s k => s.modMyCore (·.storeLocal (b.toNat + 8 * k) 8 (Image.field m k).toNat)) s).leave s.cur.1 s.cur.2
          | some (g, pa) => s.recordGo .suspend pa g b m)

/-- The cocoon of a strand is counted as ended, with STATE DONE (R333). -/
def State.countMine (s : State) (c i : Nat) : State :=
  match (s.strand c i).cocoon with
  | some k => (s.countEnded k).modStrand c i fun t => { t with left := some (Image.setSt k.img 3) }
  | none => s

/-- R344, R347. -/
def execDone (p : Pred) (s : State) : Res :=
  .next (s.begin_ .no false p fun _ =>
    if !s.leaveReady s.cur.1 s.cur.2 then s.stall
    else (s.countMine s.cur.1 s.cur.2).leave s.cur.1 s.cur.2)

/-- A cocoon goes to the task sequencer, and the strand waits until a pool has taken it. -/
def State.sendCocoon (s : State) (m : Image) (leave : Bool) : State :=
  (s.ask s.cur.1 epSequencer (.spawn s.cur.1 s.cur.2 m)).block (.spawn m leave)

/-- YIELD with a resume PC: a placed cocoon is held at its core, any other goes to the pool of its priority (R347). -/
def State.yieldTo (s : State) (pc : W64) : State :=
  let c := s.cur.1
  let i := s.cur.2
  if !s.leaveReady c i then s.stall
  else
    let m := s.me.record pc 0
    match s.me.cocoon with
    | some k =>
      if Image.kind m = 1 then (s.modMyCore fun x => { x with heldPlaced := x.heldPlaced ++ [{ k with img := m }] }).leave c i
      else s.sendCocoon m true
    | none => s.sendCocoon m true

/-- R344, R347. -/
def execYield (tgt : W48) (p : Pred) (s : State) : Res :=
  .next (s.begin_ .no false p fun _ => s.yieldTo (pcTarget s.me.pc tgt))

/-- R261. With a stop requested, the NEXTI of a range cocoon hands out nothing and the strand leaves its core (R369). -/
def execNexti (tgt : W48) (p : Pred) (s : State) : Res :=
  .next (s.begin_ .no false p fun _ =>
    let t := s.me
    let range := match t.cocoon with | some k => Image.kind k.img == 2 | none => false
    if t.rangeStop && range then s.yieldTo t.pc
    else if t.rnglo < t.rnghi then s.finish fun t => { t.setG 63 t.rnglo with rnglo := t.rnglo + 1 }
    else s.transfer (pcTarget t.pc tgt) id)

/-! ## SPAWN (R345) -/

/-- Whether a cocoon breaks R345 for a strand's context. -/
def State.spawnIll (s : State) (m : Image) : Bool :=
  let f := Image.flags m
  !(Image.kind m == 0 || Image.kind m == 2) || !(Image.st m == 0 || Image.st m == 2) || f / 128 % 512 != 0 ||
    (match s.me.cocoon.bind (·.ctx) with
      | some n => bits (Image.field m 1) 0 16 != (s.ctxAsid n).toNat || bits (Image.field m 1) 16 16 != s.ctxDomain n
      | none => true)

/-- SPAWN with the cocoon that it has read: the last check, the release, and the message. -/
def State.spawnRead (s : State) (m : Image) : State :=
  if s.spawnIll m then s.raise0 cShapeFormat
  else if !s.released s.cur.1 s.cur.2 .dev then s.stall
  else s.sendCocoon m false

/-- R345: the cocoon is read as a load of the strand's. -/
def execSpawn (a : Opd) (p : Pred) (s : State) : Res :=
  .next (s.begin_ .no false p fun _ =>
    let b := s.me.src 0 a
    match s.me.wait, s.recordCause b with
    | .record m, _ => s.spawnRead m
    | _, some (k, x) => s.raiseAcc k x
    | _, none =>
      match s.recordPage b .load (.load s.me.prv) with
      | .error s => s
      | .ok none =>
        if s.myCore.changing b.toNat 64 then s.stall
        else s.spawnRead (Vector.ofFn fun k => BitVec.ofNat 64 (s.myCore.ls.num (b.toNat + 8 * k.val) 8))
      | .ok (some (g, pa)) =>
        if s.myCore.postedOverlap s.cur.2 (recordPiece pa g b (Vector.replicate 8 0)) then s.stall
        else s.recordGo (.spawn b) pa g b (Vector.replicate 8 0))

/-- The first message of some kind that the task sequencer has. -/
def State.seqMsg (s : State) (hit : Body → Bool) : Option Msg := s.inbox.find? fun m => m.dest == epSequencer && !m.cancel && hit m.body

/-- The sequencer takes a cocoon into the pool of its priority, or gives it a ticket (R114, R336). -/
def State.spawnServe (s : State) (m : Msg) (c i : Nat) (img : Image) : State :=
  match s.launchOf (s.strand c i) with
  | none => (s.consume m.uid).answer m.dest m.src 2 1 m.tag (.spawnAck c i)
  | some (q, l) =>
    let prio := Image.prio img
    let key := 4 * q + prio
    let x := s.pool key
    if !x.read then s.poolRead q l prio
    else
      let (o, next, serve) := ticketRule (x.hdr.any fun h => decide (65 ≤ h.free)) x.next x.serve m.ticket false
      match o, x.hdr with
      | .accept, some h =>
        (match s.poolPush key (s.ctxAsid l.ctx) (l.pool prio) h (Image.setSt (img.setIfInBounds 7 s.timecode) 0) with
          | .error s => s
          | .ok s => ((s.consume m.uid).setPool key { s.pool key with next, serve }).answer m.dest m.src 2 1 m.tag (.spawnAck c i))
      | o, _ => ((s.consume m.uid).setPool key { x with next, serve }).refuse m o

/-- SPAWN_ACCEPT: the task sequencer takes a strand's cocoon (R345, R347). -/
def execSpawnAccept (c s_ : Nat) (s : State) : Res :=
  if !(decide (c < 12288) && decide (s_ < 4)) then .fault .noSuchPlace
  else
    match s.seqMsg fun b => match b with | .spawn k i _ => k == c && i == s_ | _ => false with
    | some m => (match m.body with | .spawn _ _ img => .next (s.spawnServe m c s_ img) | _ => .next s)
    | none => .next s

/-- A pool has taken the cocoon of a strand: SPAWN retires, and a strand that yields becomes idle. An answer that carries poison is met as
an access that received it is (R50; DEDUCED, assumption log 50). -/
def State.spawnAcked (s : State) (m : Msg) (c i : Nat) : State :=
  let s := s.consume m.uid
  match (s.strand c i).wait with
  | .spawn _ leave =>
    if m.poison then s.wakeRaise c i cMemPoison .access else if leave then s.leave c i else s.retireAt c i
  | _ => s

/-! ## Splits and TAKE (R337, R346) -/

/-- Whether a strand can be split for a thief of its launch: a range of at least two grains, at an instruction boundary. -/
def State.splittable (s : State) (q c i : Nat) : Bool :=
  let t := s.strand c i
  match t.cocoon with
  | some k =>
    let g := Image.grain k.img
    k.queue == some q && Image.kind k.img == 2 && t.run == .running && t.wait == .no && !t.midway && t.entry.isNone && !t.saved && g != 0 && decide (t.rnglo < t.rnghi) &&
      decide (2 * g ≤ t.rnghi.toNat - t.rnglo.toNat)
  | none => false

/-- The order of the candidates for a thief (R337): layers by torus distance in z, of two at one distance the lower first (DESIGN CHOICE,
assumption log 34), then lateral hops, core, strand. -/
def victimKey (thief c i : Nat) : Nat :=
  (((ringDist 16 (coreZ thief) (coreZ c) * 16 + coreZ c) * 64 + ringDist 32 (coreX thief) (coreX c) + ringDist 24 (coreY thief) (coreY c)) * 12288 + c) * 4 + i

/-- The first candidate. -/
def State.victim (s : State) (q c i : Nat) : Option (Nat × Nat) :=
  (s.cores.flatMap fun e => ([0, 1, 2, 3].filter fun j => (e.1, j) != (c, i) && s.splittable q e.1 j).map fun j => (e.1, j)).foldl
    (fun (m : Option (Nat × Nat)) v => match m with
      | none => some v
      | some b => if victimKey c v.1 v.2 < victimKey c b.1 b.2 then some v else some b) none

/-- Splits a victim's range: the thief's cocoon and the state with RNGHI ← mid (R337). -/
def State.split (s : State) (v : Nat × Nat) : Option (Cocoon × State) :=
  let t := s.strand v.1 v.2
  t.cocoon.map fun k =>
    let g := Image.grain k.img
    let h := (t.rnghi.toNat - t.rnglo.toNat + 1) / 2
    let mid := BitVec.ofNat 64 (t.rnglo.toNat + (h + g - 1) / g * g)
    let m := Image.setSt (((k.img.setIfInBounds 2 mid).setIfInBounds 3 t.rnghi).setIfInBounds 7 s.timecode) 0
    ({ k with img := m }, s.modStrand v.1 v.2 fun t => { t with rnghi := mid })

/-- A strand is given a cocoon to pick up; the acquire of TAKE comes before its first instruction (R346). -/
def State.handOver (s : State) (c i : Nat) (k : Cocoon) : State :=
  ({ s with parked := s.parked.filter (· != (c, i)) }.acquire c .dev).modStrand c i fun t => { t with cocoon := some k }

/-- TAKE has obtained a cocoon: the present one ends as DONE ends it. -/
def State.taken (s : State) (c i : Nat) (k : Cocoon) : State := ((s.countMine c i).leave c i).handOver c i k

/-- R344, R346: the request goes to the task sequencer, and the strand waits for its answer. -/
def execTake (d : Opd) (p : Pred) (s : State) : Res :=
  .next (s.begin_ .no false p fun _ =>
    if !s.quiet s.cur.1 s.cur.2 then s.stall
    else (s.ask s.cur.1 epSequencer (.take s.cur.1 s.cur.2)).block (.take d))

/-- Work for an idle strand or a TAKE of a launch: the head of a pool, or what is split off a victim (R337, R346); or the state in which the
sequencer waits for lines. -/
def State.findWork (s : State) (q : Nat) (l : Launch) (c i : Nat) : Except State (Option (Cocoon × State)) :=
  match s.takePool q l with
  | .error s => .error s
  | .ok (some (m, s)) => .ok (some ({ img := m, queue := some q, ctx := some l.ctx }, s))
  | .ok none => .ok ((s.victim q c i).bind s.split)

/-- SPLIT_APPLY: the sequencer answers a TAKE. It serves a SPAWN of the launch that has come first (R346), and tries the candidates for a
split in their order; with none, TAKE falls through. -/
def execSplitApply (c s_ : Nat) (s : State) : Res :=
  if !(decide (c < 12288) && decide (s_ < 4)) then .fault .noSuchPlace
  else
    match s.seqMsg fun b => match b with | .take k i => k == c && i == s_ | _ => false with
    | none => .next s
    | some m =>
      let ans := fun (s : State) (k : Option Cocoon) => (s.consume m.uid).answer m.dest m.src 1 2 m.tag (.takeAns c s_ k)
      match s.launchOf (s.strand c s_) with
      | none => .next (ans s none)
      | some (q, l) =>
        let first := s.seqMsg fun b => match b with | .spawn k i _ => ((s.launchOf (s.strand k i)).map (·.1)) == some q | _ => false
        if first.isSome then .next s
        else match s.findWork q l c s_ with
          | .error s => .next s
          | .ok (some (k, s)) => .next (ans s (some k))
          | .ok none => .next (ans s none)

/-- The answer to a TAKE reaches its strand. A cocoon for one that has been killed meanwhile goes to the strand as to an idle one, while its
launch runs. -/
def State.taken? (s : State) (m : Msg) (c i : Nat) (k : Option Cocoon) : State :=
  let s := s.consume m.uid
  match (s.strand c i).wait, k with
  | .take _, some k => if m.poison then (s.countEnded k).wakeRaise c i cMemPoison .access else s.taken c i k
  | .take d, none => if m.poison then s.wakeRaise c i cMemPoison .access else (s.modStrand c i (·.write d 0)).retireAt c i
  | _, some k =>
    let alive := (s.queue (k.queue.getD 64)).launch.any fun l => l.phase == .running
    if !alive then s
    else if (s.strand c i).run = .idle && (s.strand c i).cocoon.isNone then s.handOver c i k
    else s.countEnded k
  | _, none => s

/-! ## Pickup (R332, R334, R347, R358) -/

/-- Whether an image breaks R332, step 1, for its context. -/
def State.pickupIll (s : State) (k : Cocoon) : Bool :=
  let f := Image.flags k.img
  Image.kind k.img == 3 || decide (5 ≤ Image.st k.img) || f / 128 % 512 != 0 ||
    (match k.ctx with
      | some n => bits (Image.field k.img 1) 0 16 != (s.ctxAsid n).toNat || bits (Image.field k.img 1) 16 16 != s.ctxDomain n
      | none => true)

/-- The registers at pickup (R161, R167, R358). -/
def Strand.load (t : Strand) (c i : Nat) (m : Image) (asid : BitVec 16) (svc : Nat) (stk : W64) : Strand :=
  { Strand.reset with
    g := (((Vector.replicate 64 0).setIfInBounds 60 0xFF00000001000000).setIfInBounds 62 (Image.field m 4)).setIfInBounds 63 (Image.field m 5)
    pc := Image.field m 0
    status := 0x400
    svcXyz := BitVec.ofNat 64 svc &&& 0x3FFF
    asid := asid.setWidth 64
    stkb := (stk + BitVec.ofNat 64 ((4 * c + i) * 2 ^ 24)) &&& 0x00FFFFFFFFFF0000
    rnglo := if Image.kind m = 2 then Image.field m 2 else 0
    rnghi := if Image.kind m = 2 then Image.field m 3 else 0
    tlc := t.tlc
    gen := t.gen
    left := t.left
    scNo := t.scNo
    run := .running }

/-- Reads the 24-byte image of a declaration as the strand's load: GLOBAL, each word checked and translated (R332, step 3;
R41). -/
def State.readDecl (s : State) (img : Nat) : State :=
  let a := (Image.field ((s.me.cocoon.map (·.img)).getD (Vector.replicate 8 0)) 4) + BitVec.ofNat 64 (32 * img)
  let lanes : List Lane := [(0, a), (1, a + 8), (2, a + 16)]
  match lanes.find? fun l => (tileVa l.2.toNat).isNone with
  | some l => if l.2.toNat % 8 != 0 then s.raiseAcc cAlign l.2 else s.raiseAcc cAperture l.2
  | none =>
    match s.checkLanes s.cur.1 s.cur.2 8 .load (.load s.me.prv) lanes with
    | .stop s => s
    | .ok l =>
      let ps := joinPieces 8 (l.map fun x => mkPiece 8 0 x.1 x.2)
      s.accessGo s.cur.1 s.cur.2 { last := .decl, amo := none, cur := none, todo := ps, acc := 0 } (ps.length + 1)

/-- Applies a declaration whose image has been read: TDEF, and TFILL with F = 1 (R332, step 3). -/
def State.applyDecl (s : State) (e : Entry) (t : Nat) (fill : Bool) (ws : Vector W64 3) (rest : List (Nat × Bool × Nat)) : State :=
  let done := fun (s : State) => s.modMe fun k => { k with entry := some { e with decls := rest, words := none } }
  let x := ws[0]?.getD 0
  let y := ws[1]?.getD 0
  let z := ws[2]?.getD 0
  match s.defineCause t x y z with
  | some (k, a) => s.raiseAcc k a
  | none =>
    let s := s.tileWrite t x y z
    if !fill then done s
    else
      match s.fillCause t with
      | some (k, a) => s.raiseAcc k a
      | none => done (s.fillFor t)

/-- The next part of a cocoon's entry (R332, steps 3 and 4): the declarations in order, then the check of R180. -/
def State.enterCocoon (s : State) (e : Entry) : State :=
  match e.decls, e.words with
  | (_, _, img) :: _, none => s.readDecl img
  | (t, fill, _) :: rest, some ws => s.applyDecl e t fill ws rest
  | [], _ =>
    match s.lineAt with
    | .error s => s
    | .ok (l, s) =>
      if !lineTgt l.bytes (pcSlot s.me.pc) then s.raise cIllegalTarget s.me.pc .fetch
      else s.modMe fun t => { t with entry := none }

/-- A strand starts a cocoon, or the cocoon ends FAULTED before any strand starts, which is reported to the context's service core (R332;
the form of the report DESIGN CHOICE, assumption log 43). A PC field of 0 stands for the launch's PC (R362). -/
def State.pickUp (s : State) (c i : Nat) (k : Cocoon) : State :=
  if s.pickupIll k then
    ((s.countEnded k).report 4 (svcCore (BitVec.ofNat 64 (s.ctxSvc (k.ctx.getD 0))))).modStrand c i (fun t => { t with cocoon := none, left := some (Image.setSt k.img 4) }) |>.park c i
  else
    let n := k.ctx.getD 0
    let asid := s.ctxAsid n
    let s := s.modCore c fun x => { x with ctx := some n }
    let pc := match k.queue.bind fun q => (s.queue q).launch with
      | some l => if Image.field k.img 0 = 0 then l.record[0]?.getD 0 else Image.field k.img 0
      | none => Image.field k.img 0
    s.modStrand c i fun t =>
      { t.load c i k.img asid (s.ctxSvc n) (s.ctxStk n) with
        pc, cocoon := some { k with img := Image.setSt k.img 1 }, entry := some { pc, decls := Image.decls k.img, words := none } }

/-- Whether images of a context still wait to be restored on a core (R379). -/
def State.imagesDue (s : State) (c n : Nat) : Bool :=
  s.coreImages.any (fun m => m.core == c && m.ctx == n) || s.strandImages.any fun m => m.core == c && m.ctx == n

/-- Whether copies, fills or drains that a strand started are still under way (R95). -/
def Core.engineBusy (x : Core) (i : Nat) : Bool :=
  (x.copies.any fun e => e.2.copy.any (·.strand == i)) ||
    x.tiles.any fun e => e.2.job != TileJob.none && e.2.job.origin % 4 == i

/-- Whether a core stays with a context: no resize is moving it away (R369). -/
def State.stays (s : State) (c n : Nat) : Bool := (s.context n).resize != 2 || boxHasCluster (s.ctxNbox n) (clusterOf c)

/-- Whether a strand may start work for a context on its core now: not before the work of its slot's copies has ended (R95). -/
def State.mayLoad (s : State) (c i n : Nat) : Bool :=
  let t := s.strand c i
  s.coreUp c && !(s.core c).fenced && t.run == .idle && (s.core c).preempt.isNone && !s.imagesDue c n && (s.region (regionOf c)).on &&
    (s.context n).st == 1 && (s.context n).onCores && !s.stale c i && !(s.core c).engineBusy i &&
    !s.migrated.any fun m => m.dest == some (c, i)

/-- The same for a core that stays in the partition (R369). -/
def State.mayStart (s : State) (c i n : Nat) : Bool := s.mayLoad c i n && s.stays c n

/-- COCOON_PICKUP, with the context's descriptor as it stands in memory: strand 0 takes a placed cocoon first, a yielded one before any
other; the cocoon of another strand waits until a yielded one of its core has been picked up (R332, R334, R347). On a core that leaves the
partition strand 0 still picks up the core's placed cocoons, each to be pre-empted at once, since no other core may pick them up (R334,
R369; DEDUCED, assumption log 38). -/
def execCocoonPickup (c s_ : Nat) (s : State) : Res :=
  if !(decide (c < 12288) && decide (s_ < 4)) then .fault .noSuchPlace
  else
    let x := s.core c
    let due := fun (l : List Cocoon) => l.find? fun k => k.ctx.any fun n => (s.context n).onCores
    let go := fun (k : Cocoon) (placed : Bool) (f : Core → Core) =>
      let n := k.ctx.getD 0
      let l := [s.ctxAt n]
      if k.ctx.isNone || !s.mayLoad c s_ n || !(placed || s.stays c n) then Host.Outcome.next s
      else if !s.devHave epLaunch l then .next (s.devWant epLaunch none l)
      else
        let s' := (({ s.modCore c f with parked := s.parked.filter (· != (c, s_)) }).pickUp c s_ k).devUsed epLaunch l
        .next (if s.stays c n then s' else s'.modCore c (·.askPreempt n))
    match (if s_ = 0 then due x.heldPlaced else none), (if s_ = 0 then due x.placed else none), (s.strand c s_).cocoon with
    | some k, _, none => go k true fun x => { x with heldPlaced := x.heldPlaced.filter (· != k) }
    | none, some k, none => go k true fun x => { x with placed := x.placed.filter (· != k) }
    | _, _, some k => if (due x.heldPlaced).isNone || s_ = 0 then go k false id else .next s
    | none, none, none => .next s

end Sys2Proof.Machine
end

