-- ==== Sys2Proof/Machine/NetEvents.lean ====
section
/-!
DEFINITION. The steps of the network and of reservable resources: a router's cycle, starvation, delivery (R58 to R62), refused
messages and their tickets (R114, R115), and the fetch of an instruction line (R176, R177).
Readings: DEDUCED, assumption log 21, 22, 41.
-/

namespace Sys2Proof.Machine

/-- ROUTER_CYCLE: one cycle of a router; `errs` are the outcomes of the link checks of its arrivals (R49, R58, R67). The routers run once
the boot ROM has verified what their tables come from (R20, R21). -/
def execRouterCycle (c : Nat) (errs : List LinkErr) (s : State) : Res :=
  if !decide (c < 12288) then .fault .noSuchPlace
  else if !s.running || !s.live c || !s.cycleDue c then .next s
  else .next (s.routerCycle c errs)

/-- INJECTION_STARVATION: a candidate that has waited 256 cycles silences its region's other injectors (R60). -/
def execInjectionStarvation (c : Nat) (s : State) : Res :=
  if !decide (c < 12288) then .fault .noSuchPlace else .next (s.starve c)

/-! ## Host memory (R36, R316) -/

/-- The host accepts an access to a LOC = 1 page and answers it; a store's completion is a step of its own. -/
def State.hostServe (s : State) (m : Msg) (r : MemReq) : State :=
  let s := s.consume m.uid
  match r.op with
  | .read => s.answer epHost m.src 1 3 m.tag (.ans r.who 0 0 false (some (s.hostMem.line (128 * r.line))) r)
  | .write =>
    let key := match r.who with
      | .strand c i => some (4 * c + i)
      | .journal c j => if ((s.core c).jent j).strand < 4 then some (4 * c + ((s.core c).jent j).strand) else none
      | _ => none
    let s := { s with hostMem := s.hostMem.writeLine (128 * r.line) r.data r.mask }
    let s := match key with
      | some k => { s with hostOut := SMap.set s.hostOut k (SMap.getD s.hostOut k 0 + 1) }
      | none => s
    s.answer epHost m.src 2 1 m.tag (.ans r.who 0 0 false none r)
  | _ => s.answer epHost m.src 2 1 m.tag (.ans r.who 0 0 false none r)

/-- The interface of a dark core discards an answer. Where it is to the AMO that holds the device sequencer's ticket, it reports that the
AMO is over (DESIGN CHOICE, assumption log 54: R383 does not say how the sequencer learns it). -/
def State.darkAnswer (s : State) (m : Msg) : State :=
  match s.devSeqr.holder with
  | some k => if k.core = m.dest && m.body.isOf (.strand k.core k.strand) then s.endTicket k else s
  | none => s

/-! ## Optical engines (R85, R321, R403) -/

def State.engine (s : State) (h : Nat) : Optical := SMap.getD s.optical h .reset
def State.modEngine (s : State) (h : Nat) (f : Optical → Optical) : State := { s with optical := SMap.set s.optical h (f (s.engine h)) }

/-- The next access of a peer's stream goes to its home once the one before it has been performed (R321). -/
def State.peerNext (s : State) (h : Nat) : State :=
  match (s.engine h).serving, (s.engine h).inq with
  | false, r :: rest =>
    (s.modEngine h fun x => { x with inq := rest, serving := true }).request (epOptical h) (epSlice (s.homeOf r.line)) 0
      (if r.op = .write then 3 else 1) 0 (.mem r)
  | _, _ => s

/-- An answer of a home reaches an optical engine: an access of the peer's has been performed, or a line of a transfer record has been
read and goes out (R85, R403). -/
def State.peerServe (s : State) (m : Msg) : State :=
  match m.body with
  | .ans (.peer h) kind _ _ data req =>
    let out := if req.op = .read then [PeerWrite.data (128 * req.line + req.off) (data.getD 0) (kind == 4)] else []
    ((s.consume m.uid).modEngine h fun x => { x with serving := false, sent := x.sent ++ out }).peerNext h
  | .ans (.xfer h) kind _ _ data _ =>
    (s.consume m.uid).modEngine h fun x =>
      let dst := ((x.transfer.bind (·[0]?)).getD 0).toNat + 128 * x.done
      { x with reading := false, done := x.done + 1, sent := x.sent ++ [.line dst (data.getD 0) (kind == 4)] }
  | _ => s

/-- RESYNC is done when every line of its record has been performed at its home, and the host is told (R399, R404). -/
def State.resyncWrote (s : State) : State :=
  if s.resyncSt != 1 || s.resyncDue || s.dev.any (fun e => e.1 / 2 ^ 34 == epHost && (e.2.busy || e.2.todo != 0)) then s
  else { s with resyncSt := 2, dev := s.dev.filter fun e => e.1 / 2 ^ 34 != epHost, msix := s.msix ++ [64] }

/-- An answer to an engine's access to a line, and what the engine goes on with: a slice with its spills, the task sequencer with the
headers that it reads, the host port with RESYNC. -/
def State.devAnswer (s : State) (m : Msg) (ep : Nat) : State :=
  let s := s.devServe m
  if ep = epSequencer then s.poolsGo
  else if ep = epHost then s.resyncWrote
  else if 12288 ≤ ep && ep < 13056 then s.spillsGo (ep - 12288) else s

/-- The part of an endpoint in a message that no other step handles. -/
def State.serve (s : State) (m : Msg) : State :=
  match m.body with
  | .scReq _ | .scGrant _ | .scDone _ => s.scServe m
  | .ans (.peer _) _ _ _ _ _ | .ans (.xfer _) _ _ _ _ _ => s.peerServe m
  | .ans (.dev ep _) _ _ _ _ _ => s.devAnswer m ep
  | .tlog c _ r form => if m.cancel then s else s.tlogServe m c r form
  | .tlogAns c i w => s.tlogAnswered m c i w
  | .logtAns c i res => s.logtAnswered m c i res
  | .spawnAck c i => s.spawnAcked m c i
  | .takeAns c i k => s.taken? m c i k
  | .unpullAck ln _ => (s.consume m.uid).unpulled ln
  | _ => s.hbmServe m

/-- MESSAGE_DELIVERY: a message whose flits have all arrived reaches its endpoint (R62). The host port and the HBM controllers serve
their requests at once, and the interface of a dark core discards answers (R383). -/
def execMessageDelivery (uid : Nat) (s : State) : Res :=
  let s := s.deliver uid
  match s.msg? uid with
  | none => .next s
  | some m =>
    if m.dest < 12288 && (s.core m.dest).dark && (m.cls = 1 || m.cls = 2) then .next ((s.consume uid).darkAnswer m)
    else if m.dest = epHost then
      match m.body with
      | .mem r => .next (s.hostServe m r)
      | .ans (.dev ep _) _ _ _ _ _ => .next (s.devAnswer m ep)
      | _ => .next s
    else
      .next (s.serve m)

/-- HOST_COMPLETION: the host completes a store of a strand to a LOC = 1 page (R316). -/
def execHostCompletion (c s_ : Nat) (s : State) : Res :=
  if !(decide (c < 12288) && decide (s_ < 4)) then .fault .noSuchPlace
  else
    let k := 4 * c + s_
    .next { s with hostOut := if SMap.getD s.hostOut k 0 ≤ 1 then SMap.erase s.hostOut k
                              else SMap.set s.hostOut k (SMap.getD s.hostOut k 0 - 1) }

/-! ## Refused messages (R115) -/

/-- Whether the strand behind a message has been killed: it is cancelled and not sent again (R115). An AMO that has been sent is sent
until it completes (R308). -/
def State.whoDead (s : State) : Who → Bool
  | .copy c id => match ((s.core c).copyId id).copy with | some k => k.killed | none => true
  | .tile c t _ _ => match (s.tile c t).job with | .ending _ _ _ k => k | _ => false
  | .strand c i => match (s.strand c i).wait with
    | .access _ | .spawn _ _ | .take _ | .tlog _ _ _ | .logt _ | .logtRet _ => false
    | _ => true
  | .fetch c i n => match (s.strand c i).wait with | .fetch _ k => k != n | _ => true
  | .pref c i n keep => (s.strand c i).cocoon.isNone || (keep && !(s.core c).fills.any fun f => f.who.isNone && f.id == n)
  | .journal c j => ((s.core c).jent j).st != .sent || ((s.core c).jent j).strand == 4
  | _ => false

/-- NACK_RETRY_RECEIVED: the sender's interface keeps a refused message with its ticket, and with the SB words that it had. The FREE of a
push that was refused for a time leaves QFREE as it was: the pair is that of the last push that ended (R116; DEDUCED, assumption
log 23). -/
def execNackRetryReceived (uid : Nat) (s : State) : Res :=
  match s.msg? uid with
  | some m =>
    match m.body with
    | .retry b =>
      let s := s.consume uid
      let dead := !m.cancel && !b.isAmo && (match b.who with | some w => s.whoDead w | none => false)
      let s := if !dead then s else match b.who with
        | some (.journal c j) => s.modCore c fun x => { x with journal := SMap.erase x.journal j }
        | some (.copy c id) => s.copyWrote c id none 0 0
        | some (.tile c t _ _) => match (s.tile c t).job with
          | .ending out next o k => s.tileStop c t (out - 1) next o k
          | _ => s
        | _ => s
      let m' : Msg :=
        { m with src := m.dest, via := m.dest, dest := m.src, cls := b.cls, nf := b.flits, cancel := false, body := b, sb := m.kept, kept := [] }
      if (dead || m.cancel) && m.ticket = 0 then .next s
      else .next { s with held := s.held ++ [{ msg := m', cancel := dead || m.cancel }] }
    | _ => .next s
  | none => .next s

/-- Sends a kept message, or a cancel of its ticket. -/
def State.resend (s : State) (h : Held) : State :=
  { s with held := s.held.filter (· != h) }.requestMsg { h.msg with cancel := h.cancel }

/-- Whether a kept message belongs to a strand that has been handed to the save engine, which will cancel it (R379). -/
def State.inSave (s : State) (h : Held) : Bool :=
  match h.msg.body.who with
  | some (.journal c j) => !h.cancel && (s.strand c ((s.core c).jent j).strand).saved
  | _ => false

/-- TICKET_RETRY_RESEND: 64 network cycles after its refusal a message is sent again with its ticket. -/
def execTicketRetryResend (uid : Nat) (s : State) : Res :=
  match s.held.find? fun h => h.msg.uid == uid && h.msg.ticket != 0 && !s.inSave h with
  | some h => .next (s.resend h)
  | none => .next s

/-- FRESH_RESEND: 1,024 network cycles after a refusal without a ticket a message is sent fresh. -/
def execFreshResend (uid : Nat) (s : State) : Res :=
  match s.held.find? fun h => h.msg.uid == uid && h.msg.ticket == 0 with
  | some h => .next (s.resend h)
  | none => .next s

/-! ## Resources by number: 8n + kind -/

/-- The pool that a cocoon is for: of its strand's launch, or where the strand has been killed of the launch of its ASID. -/
def State.poolOf (s : State) (c i : Nat) (m : Image) : Option Nat :=
  let q : Option Nat := match s.launchOf (s.strand c i) with
    | some (q, _) => some q
    | none => (s.queues.find? fun (e : Nat × Queue) =>
        e.2.launch.any fun (l : Launch) => (s.ctxAsid l.ctx).toNat == bits (Image.field m 1) 0 16).map fun (e : Nat × Queue) => e.1
  q.map fun q => 4 * q + Image.prio m

/-- The reservable resource that a message asks for at an endpoint: 0 the transaction entries of slice n, 1 FIFO bank b of
core c with n = 64c + b, 2 pool n = 4q + PRIO, 3 the log of record n, 4 residency of record n, 5 the log of entry t of core c with n = 64c + t. -/
def State.resource (s : State) (ep : Nat) : Body → Option Nat
  | .mem _ => if 12288 ≤ ep && ep < 13056 then some (8 * (ep - 12288)) else none
  | .qpush _ c b _ _ => some (8 * (64 * c + b) + 1)
  | .faultMsg c _ => some (8 * (64 * c + 62) + 1)
  | .logUpd _ r _ => some (8 * r + 3)
  | .open_ r _ _ => some (8 * r + 4)
  | .fwd _ c t _ => some (8 * (64 * c + t) + 5)
  | .spawn c i m => (s.poolOf c i m).map fun k => 8 * k + 2
  | _ => none

/-- Whether a message, or the refusal on its way back, carries a ticket of a resource. -/
def State.carries (s : State) (res ticket : Nat) (m : Msg) : Bool :=
  m.ticket == ticket && (match m.body with
    | .retry b => s.resource m.src b == some res
    | b => s.resource m.dest b == some res)

/-- NEXT and SERVE of a resource. -/
def State.tickets (s : State) (res : Nat) : Nat × Nat :=
  let n := res / 8
  match res % 8 with
  | 0 => ((s.slice n).next, (s.slice n).serve)
  | 1 => (((s.core (n / 64)).fifo (n % 64)).next, ((s.core (n / 64)).fifo (n % 64)).serve)
  | 2 => ((s.pool n).next, (s.pool n).serve)
  | 3 => ((s.logRec n).next, (s.logRec n).serve)
  | 4 => ((s.logRec n).openNext, (s.logRec n).openServe)
  | 5 => ((s.tile (n / 64) (n % 64)).next, (s.tile (n / 64) (n % 64)).serve)
  | _ => (1, 1)

def Core.setFifo (x : Core) (b : Nat) (f : Fifo) : Core := { x with fifos := SMap.set x.fifos b f }

/-- Advances SERVE of a resource. -/
def State.serveOn (s : State) (res : Nat) : State :=
  let n := res / 8
  let v := nextTicket (s.tickets res).2
  match res % 8 with
  | 0 => s.modSlice n fun x => { x with serve := v }
  | 1 => s.modCore (n / 64) fun x => x.setFifo (n % 64) { x.fifo (n % 64) with serve := v }
  | 2 => s.setPool n { s.pool n with serve := v }
  | 3 => s.modLogRec n fun x => { x with serve := v }
  | 4 => s.modLogRec n fun x => { x with openServe := v }
  | 5 => s.modTile (n / 64) (n % 64) fun x => { x with serve := v }
  | _ => s

/-- A cancel at the line counter of a reduction entry, whose SERVE stands for c + 1 (R114). -/
def State.redcCancel (s : State) (m : Msg) (c n line : Nat) : State :=
  let g := (s.core c).group n
  let at_ := SMap.getD g.lines line 0
  if m.ticket = at_ + 1 then
    let next := if at_ + 1 = (boxMembers g.desc).length then 0 else at_ + 1
    (s.modCore c fun x => x.setGroup n { g with
      lines := if next = 0 then SMap.erase g.lines line else SMap.set g.lines line next }).refuse m .cancelled
  else s.refuse m (.retry m.ticket)

/-- TICKET_CANCEL: a cancel reaches its resource, which accepts it at SERVE and else refuses it (R114). -/
def execTicketCancel (uid : Nat) (s : State) : Res :=
  match s.msg? uid with
  | some m =>
    if !m.cancel || s.imaging m.dest then .next s
    else
      match m.body with
      | .retry _ => .next s
      | b =>
        match b with
        | .redc _ c n _ off _ _ => .next ((s.consume uid).redcCancel m c n (off / 128))
        | b =>
          match s.resource m.dest b with
          | none => .next ((s.consume uid).refuse m (if m.dest = epSequencer then .cancelled else .retry m.ticket))
          | some res =>
            if m.ticket = (s.tickets res).2 then .next (((s.consume uid).serveOn res).refuse m .cancelled)
            else .next ((s.consume uid).refuse m (.retry m.ticket))
  | none => .next s

/-- Whether a sender that can still act holds the ticket at SERVE. -/
def State.ticketHeld (s : State) (res : Nat) : Bool :=
  let t := (s.tickets res).2
  s.transit.any (s.carries res t) || s.inbox.any (s.carries res t) || s.held.any fun h => s.carries res t h.msg

/-- TICKET_ABANDON: a ticket at SERVE whose sender can no longer act is passed over (R115). -/
def execTicketAbandon (res : Nat) (s : State) : Res :=
  let (next, serve) := s.tickets res
  if ticketsOut next serve = 0 || s.ticketHeld res || (res % 8 == 1 && s.imaging (res / 512)) then .next s else .next (s.serveOn res)

/-! ## Instruction lines (R176, R177) -/

/-- INSTRUCTION_LINE_FILL: the line a strand waits for arrives, from its local store or from memory. -/
def execInstructionLineFill (c s_ : Nat) (s : State) : Res :=
  if !(decide (c < 12288) && decide (s_ < 4)) then .fault .noSuchPlace
  else
    let t := s.strand c s_
    let num := match t.wait with | .fetch _ n => n | _ => 0
    let any := s.inbox.find? fun m => m.dest == c && (match m.body with | .ans (.fetch k i _) _ _ _ _ _ => k == c && i == s_ | _ => false)
    let mine := any.filter fun m => match m.body with | .ans (.fetch _ _ n) _ _ _ _ _ => n == num | _ => false
    match t.wait with
    | .fetch line _ =>
      match decodeAddr t.stkb line, mine with
      | some (.loc off), _ =>
        if (s.core c).changing off 64 then .next s
        else if (s.core c).mode (off / 8192) != 0 then .next (s.modStrand c s_ fun t => { t with wait := .no })
        else .next (s.installILine c s_ line (BitVec.ofNat 512 ((s.core c).ls.num off 64)))
      | _, none => .next (match any with | some m => s.consume m.uid | none => s)
      | _, some m =>
        let s := s.consume m.uid
        match m.body with
        | .ans _ _ _ _ data req =>
          let here := match decodeAddr t.stkb line with
            | some (.glob va) => ((s.core c).tlbFind (t.asid.setWidth 16) va).any fun p =>
                p.permits (.fetch t.prv) && pageAddr p va / 128 == req.line
            | _ => false
          if !here then .next (s.modStrand c s_ fun t => { t with wait := .no })
          else match data with
            | some d => .next (s.installILine c s_ line (d.extractLsb' (8 * (line.toNat % 128)) 512))
            | none => .next ((s.modStrand c s_ fun t => { t with wait := .no }).raiseAt c s_ cMemPoison line .fetch)
        | _ => .next s
    | _ => match any with
      | some m => .next (s.consume m.uid)
      | none => .next s

end Sys2Proof.Machine
end

