-- ==== Sys2Proof/Machine/Power.lean ====
section
/-!
DEFINITION. Rails, clock steps, governors, the chrysalis store and sprint leases (R66 to R69, R386 to R397), with SPRINT and
LEASE (R348 to R350). The rail slews by 20 mV in each 1 µs window of its region (DESIGN CHOICE, assumption log 13).
Readings: DEDUCED, assumption log 40.
-/

namespace Sys2Proof.Machine

/-! ## Voltages (R387, R388) -/

/-- VNOM of a step in mV. -/
def vnom (step : Nat) : Int := ([520, 580, 640, 690, 750, 790, 830, 870].getD step 870 : Nat)

/-- V of a step of a cluster in mV. -/
def Cluster.volts (k : Cluster) (step : Nat) : Int := vnom step + 5 * k.vt

/-- The minimum rail of a network step in mV (R66). -/
def netVolts (step : Nat) : Nat := [550, 550, 550, 600, 650, 700, 720, 750].getD step 750

/-- The rail target of a region (R388): with every step-up that is in progress. -/
def State.railTarget (s : State) (r : Nat) : Nat :=
  let g := s.region r
  let net := max (netVolts g.nstep) ((g.wantStep.map netVolts).getD 0)
  let v := (regionClusters r).foldl (fun m cl =>
    let k := s.cluster cl
    max m (max (k.volts k.step) (match k.want with | some w => if k.step < w then k.volts w else 0 | none => 0)).toNat) net
  min 950 ((max 550 v + 4) / 5 * 5)

/-- The rail target is recomputed (R388). -/
def State.aim (s : State) (r : Nat) : State := s.modRegion r fun g => { g with vtgt := s.railTarget r }

/-- What supplies the routers of a region, in mV: its rail, or in fallback the regulators (R388, R392). -/
def Region.supply (g : Region) : Nat := if g.mode = 2 then 700 else g.vrail

/-- What supplies a cluster, in mV: the rail, or its fallback regulator (R388, R392). -/
def State.clusterSupply (s : State) (cl : Nat) : Nat := if (s.cluster cl).fb then 700 else (s.region (regionOfCluster cl)).vrail

/-- One window of the rail's slew. -/
def Region.slew (g : Region) : Region :=
  { g with vrail := if g.vrail < g.vtgt then min g.vtgt (g.vrail + 20) else max g.vtgt (g.vrail - 20) }

/-! ## Step changes -/

/-- The highest step a cluster may run at (R389). -/
def State.stepCap (s : State) (cl : Nat) : Nat :=
  let k := s.cluster cl
  let hi := match k.lease with | some l => l.lstep | none => min (bits k.clcfg 10 3) 4
  if (s.region (regionOfCluster cl)).mode != 0 then min hi 2 else hi

/-- A request for a step (R387, R388): denied at the floor, kept while a change is in progress, or begun. -/
def State.requestStep (s : State) (cl step : Nat) : State :=
  let k := s.cluster cl
  if k.volts step < 550 then s.modCluster cl fun k => { k with floordn := satAdd k.floordn 1 65535 }
  else if k.want.isSome then s.modCluster cl fun k => { k with queued := some step }
  else if step = k.step then s
  else (s.modCluster cl fun k => { k with want := some step }).aim (regionOfCluster cl)

/-- A cluster above its cap steps down, and a request above the cap that waits for its turn gives way. -/
def State.recap (s : State) (cl : Nat) : State :=
  let cap := s.stepCap cl
  let k := s.cluster cl
  let above := fun (w : Option Nat) => w.any fun w => decide (cap < w)
  if cap < k.step || above k.want || above k.queued then s.requestStep cl cap else s

/-- A cluster at its cap in MODE 2 goes over to its fallback regulator: the clock changes first (R391, R392). -/
def State.fallback (s : State) (cl : Nat) : State :=
  let k := s.cluster cl
  if (s.region (regionOfCluster cl)).mode = 2 && !k.dark && !k.fb && decide (k.step ≤ s.stepCap cl) then s.modCluster cl fun k => { k with fb := true }
  else s

/-- CLUSTER_STEP_CHANGE: the supply has reached the voltage of the new step; a step down needs no rail (R388). -/
def execClusterStepChange (cl : Nat) (s : State) : Res :=
  if !decide (cl < 1536) then .fault .noSuchPlace
  else
    let k := s.cluster cl
    let r := regionOfCluster cl
    match k.want with
    | none => .next s
    | some w =>
      if k.step < w && decide ((s.clusterSupply cl : Int) < k.volts w) then .next s
      else
        let s := ((s.modCluster cl fun k => { k with step := w, want := none, queued := none }).aim r).fallback cl
        .next (match k.queued with
          | some q => s.requestStep cl q
          | none => s)

/-- The step that a governor asks for at the end of a window (R389). -/
def govStep (k : Cluster) (hi sr : Nat) : Nat :=
  let smin := bits k.clcfg 7 3
  let s : Int :=
    if k.clcfg.getLsbD 0 then
      (if bits k.clcfg 24 8 ≤ sr && decide (smin < k.step) then (k.step : Int) - 1
       else if sr ≤ bits k.clcfg 16 8 && decide (k.step < hi) then k.step + 1 else k.step) + k.bias
    else min smin hi
  (min (max s smin) hi).toNat

/-- CLUSTER_GOVERNOR_WINDOW: SR, and a step request unless a change is in progress or a lease event of this tick has
replaced it (R389). -/
def execClusterGovernorWindow (cl cyc stl : Nat) (s : State) : Res :=
  if !decide (cl < 1536) then .fault .noSuchPlace
  else
    let k := s.cluster cl
    if k.dark || !(s.region (regionOfCluster cl)).on then .next s
    else
      let sr := if cyc = 0 then 0 else min 255 (256 * stl / cyc)
      let hi := s.stepCap cl
      let s := s.modCluster cl fun k => { k with sr }
      let want := govStep k hi sr
      let now := some s.timecode.toNat
      if k.want.isSome || want = k.step || k.leaseTick = now then .next s
      else .next ((s.requestStep cl want).modCluster cl fun k => if k.want.isSome then { k with winTick := now } else k)

/-! ## The network's governor (R68, R69) -/

/-- The network step that a window's measurements ask for. -/
def netStep (g : Region) : Nat :=
  let w := g.ngcfg
  let d := if g.routed = 0 then 0 else 256 * g.defl / g.routed
  let smax := bits w 7 3
  let smin := min (bits w 4 3) smax
  let want :=
    if !w.getLsbD 0 then smin
    else if (bits w 36 8 ≤ d || bits w 23 5 ≤ g.qmax || bits w 14 4 ≤ g.fmax) && decide (g.nstep < smax) then g.nstep + 1
    else if d ≤ bits w 28 8 && g.qmax ≤ bits w 18 5 && g.fmax ≤ bits w 10 4 && decide (smin < g.nstep) then g.nstep - 1
    else g.nstep
  if g.mode = 2 then min want 5 else want

/-- NET_GOVERNOR_WINDOW: the end of a 1 µs window; the rail has slewed by 20 mV in it (R68, R386). A window that ends while an
earlier step change still waits for the rail asks for no new one (DESIGN CHOICE, unsafe, log 49: R69 does not say). -/
def execNetGovernorWindow (r : Nat) (s : State) : Res :=
  if !decide (r < 96) then .fault .noSuchPlace
  else
    let g := s.region r
    let want := netStep g
    let s := s.modRegion r fun g => { g.slew with routed := 0, defl := 0, qmax := 0, fmax := 0 }
    if want = g.nstep || g.wantStep.isSome then .next s
    else .next ((s.modRegion r fun g => { g with wantStep := some want }).aim r)

/-- NET_STEP_CHANGE: the rail has reached the new step's minimum; a step down needs no rail (R69). -/
def execNetStepChange (r : Nat) (s : State) : Res :=
  if !decide (r < 96) then .fault .noSuchPlace
  else
    let g := s.region r
    match g.wantStep with
    | none => .next s
    | some w =>
      if g.nstep < w && decide (g.supply < netVolts w) then .next s
      else .next ((s.modRegion r fun g => { g with nstep := w, wantStep := none }).aim r)

/-! ## Leases (R395, R396) -/

/-- Which pending bit the end of a lease sets in its holder. -/
def leaseLexp : Nat := 3
def leaseLlost : Nat := 4

/-- A pending bit that an event stands behind (R374). -/
def Strand.pending (t : Strand) (b : Nat) : Strand := { t with pend := setBit t.pend b true, behind := t.behind ||| ((1 : BitVec 8) <<< b) }

/-- Sets a pending bit of a lease's holder: in its strand, where that works for the lease's context or has no work on a core of the context,
or in its image (R396). -/
def State.tellHolder (s : State) (l : Lease) (b : Nat) : State :=
  let t := s.strand l.core l.strand
  let here := fun (m : StrandImage) => some m.ctx == l.ctx && m.core == l.core && m.slot == l.strand
  if t.cocoon.isSome && t.cocoon.bind (·.ctx) = l.ctx then s.pendBit l.core l.strand b
  else if s.strandImages.any here then
    { s with strandImages := s.strandImages.map fun (m : StrandImage) => if here m then { m with strand := m.strand.pending b } else m }
  else if t.cocoon.isNone && (s.core l.core).ctx = l.ctx then s.pendBit l.core l.strand b
  else s

/-- A lease event of a cluster: it replaces a request that a governor's window made in the same tick (R389). -/
def State.leaseEvent (s : State) (cl : Nat) : State :=
  let now := some s.timecode.toNat
  if (s.cluster cl).winTick = now then
    (s.modCluster cl fun k => { k with leaseTick := now, winTick := none, want := none }).aim (regionOfCluster cl)
  else s.modCluster cl fun k => { k with leaseTick := now }

/-- Ends the ACTIVE lease of a cluster, with a pending bit for its holder or none. -/
def State.endLease (s : State) (cl : Nat) (bit : Option Nat) : State :=
  match (s.cluster cl).lease with
  | none => s
  | some l =>
    let s := ((s.leaseEvent cl).modCluster cl fun k => { k with lease := none, leaseRow := none }).recap cl
    match bit with
    | some b => s.tellHolder l b
    | none => s

/-! How an ACTIVE lease ends is decided when its tick ends, by the first row of R397 among the events of the tick: 2 expiry or exhaustion,
3 the start of refreeze, 4 a change of MODE, 5 a pre-emption. A kill and LEASE.REL end it at once, ahead of what the others would do. -/

/-- A row of R397 applies to the ACTIVE lease of a cluster. -/
def State.leaseDue (s : State) (cl row : Nat) : State :=
  s.modCluster cl fun k => if k.lease.isSome then { k with leaseRow := some (min row (k.leaseRow.getD row)) } else k

/-- Refreeze begins: every ACTIVE lease ends as if it had expired (R394). -/
def State.startRefreeze (s : State) : State :=
  if s.rfz then s
  else
    let s := { s with rfz := true }
    s.clusters.foldl (fun s e => s.leaseDue e.1 3) s

/-- A lease ends by expiry or exhaustion, with the refreeze check (R394, R396). -/
def State.expireLease (s : State) (cl : Nat) : State :=
  let s := s.endLease cl (some leaseLexp)
  if 0xE666 ≤ s.melt.toNat then s.startRefreeze else s

/-- Returns the leases, ACTIVE and PAUSED, that a test picks, with no cause. -/
def State.returnLeases (s : State) (pick : Lease → Bool) : State :=
  s.clusters.foldl (fun s e =>
    let s := if (s.cluster e.1).lease.any pick then s.endLease e.1 none else s
    if (s.cluster e.1).paused.any pick then s.modCluster e.1 fun k => { k with paused := k.paused.filter fun l => !pick l } else s) s

/-- The ACTIVE lease of a cluster becomes PAUSED. A PAUSED lease that another context has left in the holder's slot lapses, for a slot has
at most one (R396; DESIGN CHOICE, assumption log 40: no rule says which of the two stays). -/
def State.pauseLease (s : State) (cl : Nat) : State :=
  match (s.cluster cl).lease with
  | some l =>
    let same := fun (p : Lease) => p.core == l.core && p.strand == l.strand
    let s := ((s.cluster cl).paused.filter same).foldl (fun s p => s.tellHolder p leaseLlost) s
    ((s.leaseEvent cl).modCluster cl fun k =>
      { k with lease := none, leaseRow := none
               paused := k.paused.filter (fun p => !same p) ++ [{ l with exp := l.exp - s.timecode.toNat }] }).recap cl
  | none => s

/-- A context is pre-empted on a core: a lease that one of its strand slots holds is to be PAUSED, whether or not the slot runs a cocoon
at that time (R396). -/
def State.pauseLeases (s : State) (c n : Nat) : State :=
  match (s.cluster (clusterOf c)).lease with
  | some l => if l.core = c && l.ctx = some n then s.leaseDue (clusterOf c) 5 else s
  | none => s

/-- The tick ends: the leases that events of the tick end or pause do so, by the first row of R397. -/
def State.leasesEnd (s : State) : State :=
  s.clusters.foldl (fun s e =>
    match (s.cluster e.1).leaseRow with
    | none => s
    | some 2 => s.expireLease e.1
    | some 3 => s.endLease e.1 (some leaseLexp)
    | some 4 => s.endLease e.1 (some leaseLlost)
    | some _ => s.pauseLease e.1) s

/-- A holder is restored from the image of core `c0`, strand `i0` on core `c`, strand `i` (R396). -/
def State.resumeLease (s : State) (c0 i0 c i : Nat) (ctx : Option Nat) : State :=
  let cl := clusterOf c0
  let k := s.cluster cl
  match k.paused.find? fun l => l.core == c0 && l.strand == i0 && l.ctx == ctx with
  | none => s
  | some l =>
    let s := s.modCluster cl fun k => { k with paused := k.paused.filter (· != l) }
    if c = c0 && !s.rfz && k.lease.isNone && (s.region (regionOfCluster cl)).mode = 0 then
      let l := { l with strand := i, exp := l.exp + s.timecode.toNat }
      let s := (s.leaseEvent cl).modCluster cl fun k => { k with lease := some l }
      s.requestStep cl (min l.lstep (s.stepCap cl))
    else s.pendBit c i leaseLlost

/-- The lease that a rule means when it names no holder (R396), and whether it is ACTIVE. -/
def Cluster.theLease (k : Cluster) : Option (Lease × Bool) :=
  match k.lease with
  | some l => some (l, true)
  | none =>
    (k.paused.foldl (fun (m : Option Lease) l => match m with
      | none => some l
      | some b => if 4 * l.core + l.strand < 4 * b.core + b.strand then some l else some b) none).map fun l => (l, false)

/-- Whether a strand holds a lease: its slot and its context (R396). -/
def State.holds (s : State) (c i : Nat) (l : Lease) : Bool :=
  l.core == c && l.strand == i && (s.strand c i).cocoon.bind (·.ctx) == l.ctx

/-- The fields of a SPRINT request: STEP, EN and DUR (R348). -/
def sprintStep (w : W64) : Nat := bits w 16 3
def sprintEn (w : W64) : Nat := bits w 0 16
def sprintDur (w : W64) : Nat := bits w 32 16

/-- R348: the strand blocks until the power controller answers. -/
def execSprint (d a : Opd) (p : Pred) (s : State) : Res :=
  .next (s.begin_ .no false p fun _ =>
    let w := s.me.src 0 a
    if bits w 48 16 != 0 || bits w 19 13 != 0 then s.raisePc cIllegalEncoding else s.block (.sprint d w))

/-- The lowest reason for which a request is refused (R348); 0 when it is granted. In the tick of another lease event of the
cluster it is refused (R397). -/
def State.sprintReason (s : State) (c : Nat) (ctx : Option Nat) (w : W64) : Nat :=
  let cl := clusterOf c
  let k := s.cluster cl
  if 0xE666 ≤ s.melt.toNat then 1
  else if s.rfz then 2
  else if k.lease.isSome || k.leaseTick = some s.timecode.toNat then 3
  else if sprintStep w < 5 then 4
  else if (s.region (regionOfCluster cl)).mode != 0 || k.fb then 5
  else if (match ctx with | some n => decide (s.ctxLevel n 2 < (sprintEn w * 1000 : Nat)) | none => true) then 6
  else if sprintEn w = 0 || sprintDur w = 0 then 7
  else 0

/-- SPRINT_REQUEST: the power controller decides on the MELT of this tick and answers (R348, R395, R396). -/
def execSprintRequest (c s_ : Nat) (s : State) : Res :=
  if !(decide (c < 12288) && decide (s_ < 4)) then .fault .noSuchPlace
  else
    match (s.strand c s_).wait with
    | .sprint d w =>
      let cl := clusterOf c
      let ctx := (s.strand c s_).cocoon.bind (·.ctx)
      let why := s.sprintReason c ctx w
      let s := if why != 0 then s
        else
          let l : Lease := { core := c, strand := s_, ctx, lstep := sprintStep w, energy := sprintEn w * 1000000
                             exp := s.timecode.toNat + sprintDur w * 1000000 }
          ((s.leaseEvent cl).modCluster cl fun k => { k with lease := some l }).requestStep cl l.lstep
      let v := if why != 0 then BitVec.ofNat 64 (2 ^ 63 + why * 2 ^ 56) else BitVec.ofNat 64 (2 ^ 62 + bits w 0 16 + sprintStep w * 2 ^ 16)
      .next ((s.modStrand c s_ (·.write d v)).retireAt c s_)
    | _ => .next s

/-- R349. -/
def execLease (d : Opd) (p : Pred) (s : State) : Res :=
  .next (s.begin_ .no false p fun _ =>
    let v := match (s.cluster (clusterOf s.cur.1)).theLease with
      | some (l, on) =>
        BitVec.ofNat 64 ((if on then 1 else 2) * 2 ^ 62 + l.lstep * 2 ^ 59 + l.strand * 2 ^ 57 +
          (if s.holds s.cur.1 s.cur.2 l then 2 ^ 56 else 0) + l.energy / 1000000)
      | none => 0
    s.finish (·.write d v))

/-- R349: 0 where there is no ACTIVE lease. -/
def execLeaseExp (d : Opd) (p : Pred) (s : State) : Res :=
  .next (s.begin_ .no false p fun _ =>
    let v := match (s.cluster (clusterOf s.cur.1)).lease with
      | some l => BitVec.ofNat 64 l.exp
      | none => 0
    s.finish (·.write d v))

/-- R349, R350: a release in the tick of the expiry ends the lease without it; after an expiry in an earlier tick it returns 0. -/
def execLeaseRel (d : Opd) (p : Pred) (s : State) : Res :=
  .next (s.begin_ .no false p fun _ =>
    let cl := clusterOf s.cur.1
    match (s.cluster cl).lease with
    | some l =>
      if l.exp < s.timecode.toNat then (s.expireLease cl).finish (·.write d 0)
      else if s.holds s.cur.1 s.cur.2 l then (s.endLease cl none).finish (·.write d (BitVec.ofNat 64 (l.energy / 1000000)))
      else s.finish (·.write d 0)
    | none => s.finish (·.write d 0))

/-- LEASE_EXPIRY: the timecode has reached EXP (R396). -/
def execLeaseExpiry (cl : Nat) (s : State) : Res :=
  if !decide (cl < 1536) then .fault .noSuchPlace
  else
    match (s.cluster cl).lease with
    | some l => .next (if l.exp ≤ s.timecode.toNat then s.leaseDue cl 2 else s)
    | none => .next s

/-- LEASE_ENERGY_WINDOW: the energy above 28.65 µJ is charged, `nj` being the metered energy (R395). -/
def execLeaseEnergyWindow (cl nj : Nat) (s : State) : Res :=
  if !decide (cl < 1536) then .fault .noSuchPlace
  else
    match (s.cluster cl).lease with
    | some l =>
      let left := l.energy - (nj - 28650)
      let s := s.modCluster cl fun k => { k with lease := some { l with energy := left } }
      .next (if left = 0 then s.leaseDue cl 2 else s)
    | none => .next s

/-- MELT_PUBLISH: every 10 µs (R394). -/
def execMeltPublish (melt : BitVec 16) (s : State) : Res :=
  let s := { s with melt }
  .next (if 0xF333 ≤ melt.toNat then s.startRefreeze
    else if s.rfz && decide (melt.toNat ≤ 0x4CCD) then { s with rfz := false } else s)

/-! ## Phases, fallback and switching on (R391 to R393) -/

/-- A region has changed to MODE 1 or 2: its leases end, a PAUSED one with LLOST for its holder too, and its clusters are capped. A step-up
that the fallback regulators could not supply is given up (R391, R392; DEDUCED, assumption log 40). -/
def State.modeEnds (s : State) (cl mode : Nat) : State :=
  let s := (s.cluster cl).paused.foldl (fun s l => s.tellHolder l leaseLlost) (s.leaseDue cl 4)
  let s := s.modCluster cl fun k =>
    { k with paused := [], want := if mode = 2 then k.want.filter fun w => decide (w < k.step) else k.want
             queued := if mode = 2 then none else k.queued }
  (s.recap cl).fallback cl

/-- PHASE_LOSS: `lost` phases go out of service; the MODE follows, leases end and clusters are capped (R391). -/
def execPhaseLoss (r lost : Nat) (s : State) : Res :=
  if !decide (r < 96) then .fault .noSuchPlace
  else
    let g := s.region r
    let plive := g.plive - lost
    let mode := if 12 ≤ plive then 0 else if 6 ≤ plive then 1 else 2
    let s := s.modRegion r fun g => { g with plive, mode }
    let s := if mode = 2 && g.mode != 2 then s.modRegion r fun g =>
        { g with wantStep := if 5 < g.nstep then some 5 else g.wantStep.bind fun w => if g.nstep = 5 then none else some (min w 5) } else s
    if mode = g.mode then .next s
    else
      .next (((regionClusters r).foldl (fun s cl => s.modeEnds cl mode) s).aim r)

/-- Whether a core of a region lies in the partition of a valid context (R393). -/
def State.regionWanted (s : State) (r : Nat) : Bool :=
  (List.range 256).any fun n => s.ctxValid n && (regionCores r).any fun c => boxHasCluster (s.ctxBox n) (clusterOf c)

/-- The management plane gates the regions that no partition includes (R393). -/
def State.gateRegions (s : State) : State :=
  s.regions.foldl (fun s e => if e.2.on && !s.regionWanted e.1 then s.modRegion e.1 fun g => { g with on := false } else s) s

/-- REGION_SWITCH_ON: a gated region that a partition includes is switched on, with a ramp beside a heavily loaded neighbour;
one that none includes any more is gated (R393). `heavy` names the regions that draw 90 % or more of their rated phase current. -/
def execRegionSwitchOn (r : Nat) (heavy : List Nat) (s : State) : Res :=
  if !decide (r < 96) then .fault .noSuchPlace
  else
    let g := s.region r
    if g.ramp then .next s
    else if !s.regionWanted r then .next (s.modRegion r fun g => { g with on := false })
    else if g.on then .next s
    else if (regionNeighbours r).any heavy.contains then
      .next (s.modRegion r fun g =>
        { g with ramp := true, rampEnd := s.timecode.toNat + 20000, heavy := (regionNeighbours r).filter heavy.contains })
    else .next (s.modRegion r fun g => { g with on := true })

/-- RAMP_END: 20 µs after the ramp began the region is on and held releases go out (R393). -/
def execRampEnd (r : Nat) (s : State) : Res :=
  if !decide (r < 96) then .fault .noSuchPlace
  else
    let g := s.region r
    if g.ramp && decide (g.rampEnd ≤ s.timecode.toNat) then .next (s.modRegion r fun g => { g with ramp := false, on := true })
    else .next s

end Sys2Proof.Machine
end

