-- ==== Sys2Proof/Machine/System.lean ====
section
/-!
DEFINITION. The system instructions: SYSR and SYSW with every system register (R165 to R173), TRAP, BRK, ERET, HALT, TIMEC
and TLBINV (R351 to R356), and the steps of shoot-downs (R43 to R46) and of a timecode wait.
Readings: DEDUCED, assumption log 44.
-/

namespace Sys2Proof.Machine

/-! ## System registers (R165, R166) -/

/-- Who may use a register. -/
inductive SysAcc where
  | none | read | write
  deriving DecidableEq, Repr

/-- User and privileged access to a register number; none where it is unassigned (R166). -/
def sysAccess (r : Nat) : Option (SysAcc × SysAcc) :=
  match r with
  | 0x000 | 0x004 | 0x006 | 0x007 | 0x00B | 0x00C => some (.read, .write)
  | 0x001 | 0x002 | 0x003 | 0x00E | 0x032 | 0x042 => some (.none, .write)
  | 0x005 | 0x008 => some (.write, .write)
  | 0x010 | 0x011 | 0x012 | 0x013 | 0x014 | 0x015 | 0x016 | 0x017 => some (.write, .write)
  | 0x009 | 0x00A | 0x020 | 0x021 | 0x030 | 0x031 | 0x040 | 0x043 | 0x044 | 0x050 => some (.read, .read)
  | 0x041 => some (.read, .write)
  | 0x00D | 0x060 => some (.none, .read)
  | _ => Option.none

/-- COREXYZ (R170). -/
def coreXyz (c i : Nat) : W64 :=
  BitVec.ofNat 64 (coreX c + 2 ^ 5 * coreY c + 2 ^ 10 * coreZ c + 2 ^ 16 * c + 2 ^ 30 * i)

/-- WCNT (R173). -/
def Strand.wcnt (t : Strand) : W64 :=
  BitVec.ofNat 64 (t.ldc + 2 ^ 8 * t.stc + 2 ^ 16 * t.cpc + 2 ^ 24 * t.tlc + 2 ^ 32 * t.rsc)

/-- NGSTAT (R68). -/
def Region.ngstat (g : Region) : W64 :=
  BitVec.ofNat 64 (g.ldrop + 2 ^ 8 * g.lpois + 2 ^ 16 * g.lcorr + 2 ^ 32 * g.nstep)

/-- The MELT register (R394). -/
def State.meltWord (s : State) : W64 := BitVec.ofNat 64 (s.melt.toNat + if s.rfz then 65536 else 0)

/-- The value of a system register as a strand reads it. -/
def State.sysGet (s : State) (c i r : Nat) : W64 :=
  let t := s.strand c i
  let x := s.core c
  match r with
  | 0x000 => t.status
  | 0x001 => t.cause
  | 0x002 => t.epc
  | 0x003 => t.badaddr
  | 0x004 => t.pxv
  | 0x005 => t.fstat
  | 0x006 => t.svcXyz
  | 0x007 => t.asid
  | 0x008 => t.stkb
  | 0x009 => coreXyz c i
  | 0x00A => t.wcnt
  | 0x00B => t.rnglo
  | 0x00C => t.rnghi
  | 0x00D => t.dfCause
  | 0x00E => t.pend
  | 0x020 => s.timecode
  | 0x021 => s.meltWord
  | 0x030 => x.bkmd0
  | 0x031 => x.bkmd1
  | 0x032 => if x.res then 1 else 0
  | 0x040 => s.dtab c
  | 0x041 => s.netord
  | 0x042 => (s.region (regionOf c)).ngcfg
  | 0x043 => (s.region (regionOf c)).ngstat
  | 0x044 => BitVec.ofNat 64 s.netdiam
  | 0x050 => s.ptcfg
  | 0x060 => x.faultOvf
  | r => if 0x010 ≤ r && r < 0x018 then t.merrlg[r - 0x010]?.getD 0 else 0

/-- The fields of a register that SYSW writes; the others are reserved and read as zero. -/
def sysMask (r : Nat) : W64 :=
  match r with
  | 0x000 => 0xFE0
  | 0x001 => 0xFFFFFF
  | 0x005 => 0xE3F
  | 0x006 => 0x3FFF
  | 0x007 => 0xFFFF
  | 0x008 => 0x00FFFFFFFFFF0000
  | 0x00E => 0xFF
  | 0x032 => 1
  | 0x041 => 0xFFF
  | 0x042 => 0x00000FFFFFFFFFF1
  | _ => 0xFFFFFFFFFFFFFFFF

/-- A write that changes a strand's own register. -/
def Strand.sysSet (t : Strand) (r : Nat) (v : W64) : Strand :=
  let v := v &&& sysMask r
  match r with
  | 0x000 => { t with status := v }
  | 0x001 => { t with cause := v }
  | 0x002 => { t with epc := v }
  | 0x003 => { t with badaddr := v }
  | 0x004 => { t with pxv := v }
  | 0x005 => { t with fstat := v }
  | 0x006 => { t with svcXyz := v }
  | 0x007 => { t with asid := v }
  | 0x008 => { t with stkb := v }
  | 0x00B => { t with rnglo := v }
  | 0x00C => { t with rnghi := v }
  | 0x00E => { t with pend := v, behind := t.behind &&& v.setWidth 8 }
  | r => if 0x010 ≤ r && r < 0x018 then { t with merrlg := t.merrlg.setIfInBounds (r - 0x010) v } else t

/-- A write to a core, region or device register. -/
def State.sysSetWide (s : State) (c r : Nat) (v : W64) : State :=
  let v := v &&& sysMask r
  match r with
  | 0x032 => s.modCore c fun x => { x with res := v != 0 }
  | 0x041 => { s with netord := v }
  | 0x042 => s.modRegion (regionOf c) fun g => { g with ngcfg := v }
  | _ => s

/-- Values that a field does not accept, with their cause (R110, R160, R171, R172). -/
def State.sysRefuse (s : State) (r : Nat) (v : W64) : Option Nat :=
  if r = 0x006 && (v >>> 14 != 0 || decide (24 ≤ bits v 5 5)) then some cIllegalEncoding
  else if r = 0x007 && v >>> 16 != 0 then some cIllegalEncoding
  else if 0x010 ≤ r && r < 0x018 && v != 0 then some cIllegalEncoding
  else if r = 0x032 && v.getLsbD 0 && s.myCore.mode 63 != 0 then some cBankMode
  else none

/-- The handler window closes once CAUSE and BADADDR have both been read (R384). -/
def Strand.sawSys (t : Strand) (r : Nat) : Strand :=
  let t := if r = 0x001 then { t with sawCause := true } else if r = 0x003 then { t with sawBad := true } else t
  if t.sawCause && t.sawBad then { t with window := false } else t

/-- R165, R353. -/
def execSysr (d : Opd) (reg : BitVec 12) (p : Pred) (s : State) : Res :=
  let r := reg.toNat
  match sysAccess r with
  | none => .next (s.raisePc cIllegalEncoding)
  | some (user, _) =>
    .next (s.begin_ .no (user == .none) p fun _ =>
      let v := s.sysGet s.cur.1 s.cur.2 r
      s.finish fun t => (t.write d v).sawSys r)

/-- R165, R353. -/
def execSysw (a : Opd) (reg : BitVec 12) (p : Pred) (s : State) : Res :=
  let r := reg.toNat
  match sysAccess r with
  | none => .next (s.raisePc cIllegalEncoding)
  | some (user, prv) =>
    .next (s.begin_ .no (user != .write) p fun _ =>
      let v := s.me.src 0 a
      if prv != .write then s.raisePc cProtection
      else
        match s.sysRefuse r v with
        | some k => s.raisePc k
        | none => (s.sysSetWide s.cur.1 r v).finishLate (·.sysSet r v))

/-! ## TRAP, BRK, ERET, HALT (R351, R352, R356) -/

/-- R351: EPC is the PC that follows. -/
def execTrap (code : BitVec 16) (p : Pred) (s : State) : Res :=
  .next (s.begin_ .no false p fun _ =>
    s.takeTrap s.cur.1 s.cur.2 { num := cUserTrap, bad := code.setWidth 64 } (pcNext s.me.pc) .instr)

/-- R351: EPC is the BRK itself. -/
def execBrk (code : BitVec 16) (p : Pred) (s : State) : Res :=
  .next (s.begin_ .no false p fun _ =>
    s.takeTrap s.cur.1 s.cur.2 { num := cBreakpoint, bad := code.setWidth 64 } s.me.pc .instr)

/-- The return from a trap: the reversal of R168 and the transfer to EPC (R352). -/
def Strand.eret (t : Strand) : Strand :=
  { (t.retired t.epc).revert with pc := t.epc, entry := t.entry.filter (·.pc == t.epc) }

/-- R352; in a pre-emption the strand goes to the save engine (R379), and with ESC its cause to containment (R381). -/
def execEret (p : Pred) (s : State) : Res :=
  .next (s.begin_ .no true p fun _ =>
    let t := s.me
    if !pcOk t.epc then s.raise cIllegalPc t.epc .instr
    else if t.preempting && bits t.cause 0 8 == cPreempt then s.modMe fun t => { t with saved := true }
    else if t.cause.getLsbD 9 then s.contain s.cur.1 s.cur.2 (bits t.cause 0 8) (t.cause.getLsbD 8) true 0
    else s.modMe (·.eret))

/-- R356: the halt is reported to the management plane. -/
def execHalt (p : Pred) (s : State) : Res :=
  .next (s.begin_ .no true p fun _ =>
    (s.finish fun t => { t with run := .halted }).report 3 (4 * s.cur.1 + s.cur.2))

/-! ## TIMEC (R355) -/

/-- R355. -/
def execTimec (d : Opd) (p : Pred) (s : State) : Res :=
  .next (s.begin_ .no false p fun _ => s.finish (·.write d s.timecode))

/-- R355. -/
def execTimecWait (d a : Opd) (p : Pred) (s : State) : Res :=
  .next (s.begin_ .no false p fun _ =>
    let till := s.me.src 0 a
    if till ≤ s.timecode then s.finish (·.write d s.timecode) else s.block (.timec d till))

/-- TIMECODE_WAIT_EXPIRY: the timecode has reached the value that a strand waits for. -/
def execTimecodeWaitExpiry (c s_ : Nat) (s : State) : Res :=
  if !(decide (c < 12288) && decide (s_ < 4)) then .fault .noSuchPlace
  else
    match (s.strand c s_).wait with
    | .timec d till =>
      if till ≤ s.timecode then .next ((s.modStrand c s_ (·.write d s.timecode)).retireAt c s_) else .next s
    | _ => .next s

/-! ## TLBINV (R43 to R45, R354) -/

/-- Whether a store of a strand to a page-table line is not yet performed (R43). -/
def State.ptStores (s : State) (c i : Nat) : Bool :=
  (s.core c).journal.any fun e => e.2.st == .sent && e.2.strand == i &&
    (match e.2.piece with | some p => !p.win && !p.host && s.inPt p.place | none => false)

/-- Sends a bump to every core of the domain mask, the own one included, and blocks. A strand that runs no context has no
domain mask: its bump goes to its own core alone (DESIGN CHOICE, assumption log 48). -/
def State.bumpAll (s : State) (asid : BitVec 16) (page : Option Nat) : State :=
  let c := s.cur.1
  let mask := match s.me.cocoon.bind (·.ctx) with
    | some n => if (s.partition n).contains c then s.partition n else c :: s.partition n
    | none => [c]
  let bid := s.uid
  { s with uid := s.uid + 1, bumps := SMap.set s.bumps bid mask
           bumpReqs := SMap.set s.bumpReqs bid (asid, page, c, s.cur.2) }.block (.tlbinv bid)

/-- R43, R354. -/
def execTlbinv (a : Opd) (p : Pred) (s : State) : Res :=
  .next (s.begin_ .no true p fun _ =>
    let v := s.me.src 0 a
    if v >>> 16 != 0 then s.raisePc cIllegalEncoding
    else if s.ptStores s.cur.1 s.cur.2 then s.hold
    else s.bumpAll (v.setWidth 16) none)

/-- R43, R354: the page form. -/
def execTlbinvPg (a b : Opd) (p : Pred) (s : State) : Res :=
  .next (s.begin_ .no true p fun _ =>
    let v := s.me.src 0 a
    if v >>> 16 != 0 then s.raisePc cIllegalEncoding
    else
      match decodeAddr s.me.stkb (s.me.src 0 b) with
      | some (.glob va) => if s.ptStores s.cur.1 s.cur.2 then s.hold else s.bumpAll (v.setWidth 16) (some va)
      | _ => s.raiseAcc cAperture (s.me.src 0 b))

/-- Applies a bump at a core: the entries go and the generations of the ASID's strands advance (R44). -/
def Core.bump (x : Core) (asid : BitVec 16) (page : Option Nat) : Core :=
  let keep := fun (e : TlbEntry) => match page with
    | none => e.asid != asid
    | some va => !e.covers asid va
  { x with
    tlb1 := x.tlb1.filter keep
    tlb2 := x.tlb2.filter keep
    strands := x.strands.map fun t => if t.asid.setWidth 16 = asid then { t with gen := t.gen + 1 } else t }

/-- TLB_BUMP: a core applies a bump, once it has acknowledged its previous one for the ASID (R44, R45). -/
def execTlbBump (bid c : Nat) (s : State) : Res :=
  if !decide (c < 12288) then .fault .noSuchPlace
  else
    match SMap.get? s.bumpReqs bid with
    | none => .next s
    | some (asid, page, _, _) =>
      let x := s.core c
      let busy := x.bumps.any fun b => b.1 == bid || (match SMap.get? s.bumpReqs b.1 with | some r => r.1 == asid | none => false)
      if !(SMap.getD s.bumps bid []).contains c || busy then .next s
      else .next (s.modCore c fun x =>
        { x.bump asid page with bumps := x.bumps ++ [(bid, (x.walks.filter (·.asid == asid)).map (·.wid))] })

/-- Whether a walk that began before a bump is still under way (R45). -/
def Core.oldWalk (x : Core) (bid : Nat) : Bool :=
  x.bumps.any fun b => b.1 == bid && x.walks.any fun w => b.2.contains w.wid

/-- BUMP_ACK: the core's older walks have ended; when all cores have acknowledged, TLBINV completes (R45). -/
def execBumpAck (bid c : Nat) (s : State) : Res :=
  if !decide (c < 12288) then .fault .noSuchPlace
  else
    match SMap.get? s.bumpReqs bid with
    | none => .next s
    | some (_, _, k, i) =>
      let x := s.core c
      if !x.bumps.any (·.1 == bid) || x.oldWalk bid then .next s
      else
        let left := (SMap.getD s.bumps bid []).filter (· != c)
        let s := s.modCore c fun x => { x with bumps := x.bumps.filter (·.1 != bid) }
        if left.isEmpty then
          let s := { s with bumps := SMap.erase s.bumps bid, bumpReqs := SMap.erase s.bumpReqs bid }
          .next (if (s.strand k i).wait = .tlbinv bid then s.retireAt k i else s)
        else .next { s with bumps := SMap.set s.bumps bid left }

end Sys2Proof.Machine
end

