-- ==== Sys2Proof/Machine/Turns.lean ====
section
/-!
DEFINITION. Launch queues and the turns of contexts: queue headers and launch records (R359, R360), dependences (R361), the
work of a launch (R364), which context may hold its cores (R366, R367), and its turn's beginning.
Readings: DEDUCED, assumption log 35.
-/

namespace Sys2Proof.Machine

/-! ## Queue headers (R359); an engine header has the same layout (R403)

A header is the line that holds it, as its queue or engine has read it last; its own HEAD and DONE are in it at once. -/

/-- The line of a queue's header, and of the record of a launch. -/
def State.queueAt (s : State) (q : Nat) : DevAt := (s.qbase.toNat / 128 + q, false)
def State.queueHdr (s : State) (q : Nat) : W1024 := s.devData epLaunch (s.queueAt q)

def hdrRing (d : W1024) : Nat := lineNum d 0 8
def hdrSize (d : W1024) : Nat := lineNum d 8 4
def hdrFlags (d : W1024) : Nat := lineNum d 12 4
def hdrPrio (d : W1024) : Nat := hdrFlags d / 2 % 4
def hdrCtx (d : W1024) : Nat := lineNum d 16 2
def hdrTail (d : W1024) : Nat := lineNum d 24 8
def hdrHead (d : W1024) : Nat := lineNum d 32 8
def hdrDone (d : W1024) : Nat := lineNum d 40 8
/-- W1, W2 and W3 by number 0 to 2, in ticks of 1 ns. -/
def hdrWatch (d : W1024) (k : Nat) : Nat := lineNum d (48 + 2 * k) 2 * 100000

/-- A power of two from 2 to 65,536. -/
def sizeOk (n : Nat) : Bool := (List.range 16).any fun k => n == 2 ^ (k + 1)

/-- Whether the reserved fields of a header of `n` bytes are zero and its SIZE is in order. -/
def hdrOk (d : W1024) (n : Nat) : Bool :=
  hdrFlags d < 8 && lineNum d 18 6 == 0 && lineNum d 54 2 == 0 && lineNum d 56 (n - 56) == 0 && sizeOk (hdrSize d)

/-- EN, with an ill-formed header reading as 0. -/
def hdrOn (d : W1024) (n : Nat) : Bool := hdrOk d n && hdrFlags d % 2 == 1

/-- The line of record `k` of a queue. -/
def State.recordAt (s : State) (q k : Nat) : DevAt :=
  (physLine (hdrRing (s.queueHdr q) + 128 * (k % hdrSize (s.queueHdr q))), false)

/-! ## Launch records (R360) -/

def Launch.word (l : Launch) (k : Nat) : W64 := l.record[k]?.getD 0
def Launch.placed (l : Launch) : Bool := l.flags % 2 == 0
def Launch.gang (l : Launch) : Bool := l.flags / 2 % 2 == 1
def Launch.skipDead (l : Launch) : Bool := l.flags / 8 % 2 == 1
def Launch.start (l : Launch) : Nat := (l.word 7).toNat

/-- The cores of a core box, in ascending number. -/
def coreBoxCores (b : W64) : List Nat :=
  (List.range (boxByte b 5)).flatMap fun z => (List.range (boxByte b 4)).flatMap fun y => (List.range (boxByte b 3)).map fun x =>
    coreNum (boxByte b 0 + x) (boxByte b 1 + y) (boxByte b 2 + z)

/-- Whether a core box lies inside a cluster box. -/
def coreBoxInside (b p : W64) : Bool :=
  (List.range 3).all fun k =>
    decide (2 * boxByte p k ≤ boxByte b k) && decide (boxByte b k + boxByte b (k + 3) ≤ 2 * (boxByte p k + boxByte p (k + 3)))

/-- Whether a record is ended with STAT FORMAT (R361, step 2). -/
def State.recordIll (s : State) (q : Nat) (l : Launch) : Bool :=
  let dep := fun k => bits (l.word k) 48 8 != 0 || ((l.word k).getLsbD 63 && bits (l.word k) 56 6 == q)
  decide (256 ≤ l.ctx) || bits (l.word 1) 16 16 != 0 || decide (16 ≤ l.flags) || BitVec.ofNat 16 (bits (l.word 1) 0 16) != s.ctxAsid l.ctx ||
    l.word 3 == 0 || dep 5 || dep 6 || bits (l.word 8) 16 48 != 0 || bits (l.word 9) 32 32 != 0 ||
    (!l.gang && l.word 9 != 0) ||
    (if l.placed then bits (l.word 2) 48 16 != 0 || !coreBoxInside (l.word 2) (s.ctxBox l.ctx) else l.word 2 != 0)

/-! ## Dependences (R361, step 3) -/

/-- Whether a dependence's launch has ended. -/
def State.depEnded (s : State) (w : W64) : Bool := !w.getLsbD 63 || decide (bits w 0 48 < hdrDone (s.queueHdr (bits w 56 6)))
/-- Whether a dependence with OK = 1 ended with another STAT than OK. -/
def State.depFailed (s : State) (w : W64) : Bool :=
  w.getLsbD 63 && w.getLsbD 62 && s.depEnded w && (s.queue (bits w 56 6)).failed.contains (bits w 0 48)
def State.depsEnded (s : State) (l : Launch) : Bool := s.depEnded (l.word 5) && s.depEnded (l.word 6)
def State.depsFailed (s : State) (l : Launch) : Bool := s.depFailed (l.word 5) || s.depFailed (l.word 6)

/-! ## The work of a launch (R364) -/

/-- Whether a kill on a core has ended: no copy, tile operation, matrix operation or posted operation of it is left. -/
def State.killOver (s : State) (c : Nat) : Bool :=
  let x := s.core c
  x.copies.all (fun e => e.2.copy.isNone) && x.tiles.all (fun e => e.2.job == TileJob.none) && x.mxq.isEmpty &&
    x.journal.all fun e => e.2.strand != 4

/-- Whether no cocoon of a launch runs, waits at a core, is on its way to a strand or is saved. -/
def State.launchIdle (s : State) (q : Nat) : Bool :=
  s.cores.all (fun e => e.2.strands.toList.all (fun t => (t.cocoon.bind (·.queue)) != some q) &&
    (e.2.placed ++ e.2.heldPlaced).all fun k => k.queue != some q) &&
  (s.strandImages ++ s.migrated).all (fun m => (m.strand.cocoon.bind (·.queue)) != some q) &&
  (s.transit ++ s.inbox).all fun m => match m.body with | .takeAns _ _ (some k) => k.queue != some q | _ => true

/-- Whether a launch's work has ended (R364); one that was ended ends with its kill. -/
def State.finished (s : State) (q : Nat) (l : Launch) : Bool :=
  l.phase != LPhase.taken && l.phase != LPhase.closing && s.launchIdle q &&
    (if l.stat = 0 then s.poolsEmpty q else s.cores.all fun e => e.2.ctx != some l.ctx || e.2.fenced || s.killOver e.1)

/-! ## Turns (R366, R367) -/

/-- The launches of a context: queue and launch. -/
def State.launchesOf (s : State) (n : Nat) : List (Nat × Launch) :=
  s.queues.filterMap fun e => e.2.launch.bind fun l => if l.ctx = n then some (e.1, l) else none

/-- A taken launch that waits for nothing but its context (R361). -/
def State.startable (s : State) (l : Launch) : Bool :=
  l.phase == LPhase.taken && l.stat == 0 && s.depsEnded l && !s.depsFailed l && decide (l.start ≤ s.timecode.toNat)

/-- Whether a context runs a launch. -/
def State.runsLaunch (s : State) (n : Nat) : Bool :=
  (s.launchesOf n).any fun e => e.2.phase != LPhase.taken && e.2.phase != LPhase.closing

/-- A gang launch that is armed holds its partition from START - 10,000 on, by which it had to be armed, so that it starts at START exactly
(R365; DEDUCED, assumption log 35). Before that tick another launch may still take the partition, and the gang launch is armed no more. -/
def State.gangHolds (s : State) (l : Launch) : Bool :=
  l.phase == LPhase.taken && l.stat == 0 && l.gang && l.armed && decide (l.start ≤ s.timecode.toNat + 10000)
def State.heldFor (s : State) (n : Nat) : Option Nat := ((s.launchesOf n).find? fun e => s.gangHolds e.2).map (·.1)

/-- The launches of some contexts are armed no more, but for one. -/
def State.unarm (s : State) (q : Nat) (hit : Nat → Bool) : State :=
  { s with queues := s.queues.map fun (e : Nat × Queue) =>
      (e.1, { e.2 with launch := e.2.launch.map fun l => if e.1 != q && hit l.ctx then { l with armed := false } else l }) }

def State.levelsUp (s : State) (n : Nat) : Bool := (List.range 3).all fun k => decide (0 < s.ctxLevel n k)

/-- Whether a context takes a turn (R366); not while its watchdog stops a launch of it (R370). -/
def State.eligible (s : State) (n : Nat) : Bool :=
  let ls := s.launchesOf n
  s.ctxValid n && (s.context n).st != 3 && s.levelsUp n && ls.any (fun e => e.2.phase == LPhase.running || s.startable e.2) &&
    ls.all fun e => e.2.phase != LPhase.preempting && e.2.phase != LPhase.killing

/-- Whether a context may arm a gang launch, for which its cores are to be free (R365). -/
def State.arms (s : State) (n : Nat) : Bool := s.ctxValid n && (s.context n).st != 3 && s.levelsUp n

/-- The contexts that share a context's partition, itself included. -/
def State.sharing (s : State) (n : Nat) : List Nat :=
  (List.range 256).filter fun m => s.ctxValid m && bits (s.ctxBox m) 0 48 == bits (s.ctxBox n) 0 48

/-- The contexts of a partition that would take the next turn, in the round-robin order after the last one served. -/
def State.nextTurn (s : State) (n : Nat) : Option Nat :=
  let sh := s.sharing n
  let last := (sh.foldl (fun (m : Option Nat) k =>
    if (s.context k).turn = 0 then m
    else match m with
      | none => some k
      | some j => if (s.context j).turn < (s.context k).turn then some k else m) none).getD 255
  let key := fun m => (m + 255 - last) % 256
  (sh.filter s.eligible).foldl (fun (m : Option Nat) k => match m with
    | none => some k
    | some b => if key k < key b then some k else some b) none

/-- Whether the cores of a context's partition are free for it: no context holds them, and none of them has another context's state. -/
def State.coresFree (s : State) (n : Nat) : Bool :=
  (s.sharing n).all (fun m => !(s.context m).onCores) &&
    s.cores.all fun e => !boxHasCluster (s.ctxBox n) (clusterOf e.1) || e.2.fenced || e.2.dark ||
      (e.2.preempt.isNone && (e.2.ctx.isNone || e.2.ctx == some n))

/-- Whether a context's turn may begin: it is next, and nothing of another context holds the partition. -/
def State.mayTurn (s : State) (n : Nat) : Bool :=
  !(s.context n).onCores && s.nextTurn n == some n && s.coresFree n && (s.sharing n).all fun m => m == n || (s.heldFor m).isNone

/-- A context's turn begins, and no launch of a rival is armed any more; the scheduled time of its running launch counts again (R366, R370). -/
def State.startTurn (s : State) (n : Nat) : State :=
  let turn := s.contexts.foldl (fun m e => max m e.2.turn) 0 + 1
  let sh := s.sharing n
  let s := (s.modContext n fun x => { x with st := 1, onCores := true, since := s.timecode.toNat, turn }).unarm 64 fun m => m != n && sh.contains m
  { s with queues := s.queues.map fun (e : Nat × Queue) =>
      (e.1, { e.2 with launch := e.2.launch.map fun l =>
        if l.ctx = n && l.phase = .running then { l with phaseTicks := s.timecode.toNat } else l }) }

/-- The context holds its cores, with no level spent, or takes its turn if it may (R366, R367). -/
def State.onTurn (s : State) (n : Nat) : Option State :=
  if (s.context n).onCores then (if s.levelsUp n then some s else none) else if s.mayTurn n then some (s.startTurn n) else none

/-- The context holds its cores for a gang launch that is to be armed, or takes them where they are free (R365). -/
def State.armTurn (s : State) (n : Nat) : Option State :=
  if !s.arms n then none
  else if (s.context n).onCores then some s
  else if s.coresFree n && (s.sharing n).all (fun m => (s.heldFor m).isNone && (m == n || !s.eligible m)) then some (s.startTurn n)
  else none

/-- The scheduled time of a launch at this tick (R370). -/
def State.scheduled (s : State) (l : Launch) : Nat :=
  l.sched + if (s.context l.ctx).onCores && l.phase == .running then s.timecode.toNat - l.phaseTicks else 0

end Sys2Proof.Machine
end

