-- ==== Sys2Proof/Machine/Images.lean ====
section
/-!
DEFINITION. Pre-emption, saving and restoring (R125, R139, R374, R375, R379, R380), and the task sequencer's service of
parked strands (R362, R369).
Readings: DEDUCED, assumption log 36; DESIGN CHOICE, assumption log 37.
-/

namespace Sys2Proof.Machine

/-! ## Images in the stack backing (R380)

The save engine moves an image line by line: a line is named by its unit, the strand slot or 4 for the core image, and its number in the
stack. Where R380 gives a range of bytes without their order, the order here is the model's (DESIGN CHOICE, assumption log 37). -/

/-- A line of words, of which the rest are 0. -/
def wordsLine (ws : List W64) (k : Nat) : W1024 := packLanes 64 (((ws.drop (16 * k)).take 16).map (·.toNat))

/-- The slot that the save engine writes itself: g0 to g63, STATUS, CAUSE, EPC, BADADDR and PXV (R379, R380). -/
def Strand.slotWords (t : Strand) : List W64 := t.g.toList ++ [t.status, t.cause, t.pc, t.badaddr, t.pxv]

/-- The registers that a slot holds, with the PC at its EPC. -/
def Strand.fromSlot (t : Strand) (w : Nat → W64) : Strand :=
  let t := { t with g := Vector.ofFn fun (i : Fin 64) => w i.val }
  { (((((t.sysSet 0x000 (w 64)).sysSet 0x001 (w 65)).sysSet 0x002 (w 66)).sysSet 0x003 (w 67)).sysSet 0x004 (w 68)) with
    pc := w 66 }

/-- Offset of a strand's slot in the local store (R380). -/
def slotAt (i : Nat) : Nat := 63 * 8192 + 0x1000 + 0x400 * i

/-- The inner-loop buffer as two words. -/
def Uprog.words (u : Uprog) : List W64 :=
  [BitVec.ofNat 64 (packNat 16 (u.steps.map (·.toNat))),
    BitVec.ofNat 64 (u.const.toNat + (if u.i32 then 2 ^ 32 else 0) + 2 ^ 33 * (u.steps.length - 1))]
def Uprog.ofWords (steps rest : W64) : Uprog :=
  { i32 := rest.getLsbD 32, const := rest.setWidth 32, steps := (List.range (bits rest 33 2 + 1)).map fun n => steps.extractLsb' (16 * n) 16 }

/-- The words of a strand image from 0x400: k0 to k7, FSTAT, RNGLO, RNGHI, PENDING_ASYNC, DF_CAUSE, WCNT, MERRLG0 to 7, JOIN, the QFREE pair,
the microprogram buffer and the mask of owned accumulators. -/
def Strand.imageWords (t : Strand) (mask : Nat) : List W64 :=
  t.k.toList ++ [t.fstat, t.rnglo, t.rnghi, t.pend, t.dfCause, t.wcnt] ++ t.merrlg.toList ++
    ((List.range 4).map fun k => BitVec.ofNat 64 (packNat 16 (((t.join.toList.drop (4 * k)).take 4).map (·.toNat)))) ++
    [t.qfree, t.qaddr] ++ t.uprog.words ++ [BitVec.ofNat 64 mask]

/-- The strand with what the words of an image hold. Bits that were set while it was saved stay set. -/
def Strand.fromImage (t : Strand) (w : Nat → W64) : Strand :=
  { t with
    k := Vector.ofFn fun (i : Fin 8) => w i.val
    fstat := w 8 &&& sysMask 0x005, rnglo := w 9, rnghi := w 10, pend := (w 11 &&& sysMask 0x00E) ||| t.pend, dfCause := w 12
    ldc := bits (w 13) 0 8, stc := bits (w 13) 8 8, cpc := bits (w 13) 16 8, tlc := bits (w 13) 24 8, rsc := bits (w 13) 32 8
    merrlg := Vector.ofFn fun (i : Fin 8) => w (14 + i.val)
    join := Vector.ofFn fun (i : Fin 16) => (w (22 + i.val / 4)).extractLsb' (16 * (i.val % 4)) 16
    qfree := w 26, qaddr := w 27, uprog := .ofWords (w 28) (w 29) }

/-- Where the mask of owned accumulators stands among those words. -/
def maskWord : Nat := 30

/-- A line of an accumulator, word i of 32 bits at byte 4i, and the accumulator of eight lines. -/
def accLine (v : Vector W32 256) (k : Nat) : W1024 := packLanes 32 ((List.range 32).map fun j => (v[32 * k + j]?.getD 0).toNat)
def accOfLines (l : Nat → W1024) : Vector W32 256 := Vector.ofFn fun i => BitVec.ofNat 32 (lane 32 (l (i.val / 32)) (i.val % 32))

/-- A REFUSED journal entry as four words, and the entry of four words, if they hold one. -/
def Journal.words (j : Journal) : List W64 := [j.addr, BitVec.ofNat 64 (1 + 2 * j.strand + 2 ^ 3 * j.opk + 2 ^ 8 * j.reason), 0, 0]
def Journal.ofWords (a b : W64) : Option Journal :=
  if b.getLsbD 0 then some { Journal.reset with st := .refused, strand := bits b 1 2, addr := a, opk := bits b 3 2, reason := bits b 8 4 } else none

/-- A slot with its scale store as 36 lines. -/
def Slot.line (o : Slot) (k : Nat) : W1024 :=
  if k < 32 then (o.data >>> (1024 * k)).setWidth 1024 else packLanes 32 (((o.scales.toList.drop (32 * (k - 32))).take 32).map (·.toNat))
def Slot.ofLines (l : Nat → W1024) (bound : Option Nat) : Slot :=
  { data := (List.range 32).foldl (fun (d : BitVec 32768) k => d ||| ((l k).setWidth 32768 <<< (1024 * k))) 0
    scales := Vector.ofFn fun i => BitVec.ofNat 32 (lane 32 (l (32 + i.val / 32)) (i.val % 32)), bound }

/-- The queue state of a FIFO bank as a word. -/
def Fifo.word (f : Fifo) : W64 := BitVec.ofNat 64 (f.head + 2 ^ 8 * f.tail + 2 ^ 16 * f.count + 2 ^ 24 * f.next + 2 ^ 40 * f.serve)
def Fifo.ofWord (w : W64) : Fifo :=
  { head := bits w 0 7, tail := bits w 8 7, count := bits w 16 8, next := bits w 24 16, serve := bits w 40 16 }

/-- A tile-table entry as its image records it: one that was drained for the save is READY (R139). -/
def Core.imageTile (x : Core) (t : Nat) : Tile := if x.refill.contains t then (x.tile t).setState 2 else x.tile t

/-- The words of a core image from 0x9_0000: bank modes, FIFO states, the tile table, slot bindings, and group entries with their GEN. -/
def Core.imageWords (x : Core) : List W64 :=
  [x.bkmd0, x.bkmd1] ++ (List.range 64).map (fun b => (x.fifo b).word) ++
    (List.range 64).flatMap (fun t => let e := x.imageTile t; [e.w0, e.w1, e.w2, e.w3, e.w4]) ++
    (List.range 16).map (fun o => match (x.slot o).bound with | some t => BitVec.ofNat 64 (64 + t) | none => 0) ++
    (List.range 16).flatMap fun n => let g := x.group n; [g.desc, BitVec.ofNat 64 (g.gen.toNat + 2 ^ 8 * g.drain)]

/-- The accumulators of a strand as a mask. -/
def Core.accMask (x : Core) (i : Nat) : Nat := (List.range 8).foldl (fun m a => if (x.accOf a).owner = some i then m + 2 ^ a else m) 0

/-- The REFUSED entries of a core that a test picks. -/
def Core.refusedOf (x : Core) (pick : Nat → Bool) : List Journal :=
  (x.journal.filter fun e => e.2.st == JState.refused && pick e.2.strand).map (·.2)

/-- A line of the image of a strand: the copy of its slot, its words, v0 to v31, its accumulators, the origin, and for a migrating strand its
REFUSED entries and spilled messages. -/
def State.strandLine (s : State) (c i n k : Nat) : W1024 :=
  let x := s.core c
  let t := x.strand i
  if k < 8 then (if x.res && t.saved then x.ls.line (slotAt i + 128 * k) else wordsLine t.slotWords k)
  else if k < 16 then wordsLine (t.imageWords (x.accMask i)) (k - 8)
  else if k < 48 then t.v[k - 16]?.getD 0
  else if k < 112 then accLine (x.accOf ((k - 48) / 8)).words ((k - 48) % 8)
  else
    let ws := wordsLine ([BitVec.ofNat 64 (c + 2 ^ 16 * i + 2 ^ 32 * n)] ++ List.replicate 7 0 ++ (x.refusedOf (· == i)).flatMap Journal.words) (k - 112)
    if k < 128 then ws else merge (Config.spillLine (s.draws + k)) ws (if k = 128 then byteMask 0 64 else 0)

/-- A line of a core image: banks, words, slots, unowned accumulators, copy records, REFUSED entries, and what its interface held. -/
def State.coreLine (s : State) (c k : Nat) : W1024 :=
  let x := s.core c
  if k < 4608 then x.ls.line (128 * (k - 512))
  else if k < 4640 then wordsLine x.imageWords (k - 4608)
  else if k < 5216 then (x.slot ((k - 4640) / 36)).line ((k - 4640) % 36)
  else if k < 5280 then accLine (x.accOf ((k - 5216) / 8)).words ((k - 5216) % 8)
  else if k < 5296 then wordsLine ((List.range 64).flatMap fun id => let e := x.copyId id; [e.w0, e.w1, e.w2, e.w3]) (k - 5280)
  else if k < 5312 then wordsLine ((x.refusedOf fun _ => true).flatMap Journal.words) (k - 5296)
  else Config.spillLine (s.draws + k)

/-- Numbers from `a` up to `b`. -/
def span (a b : Nat) : List Nat := (List.range (b - a)).map (a + ·)

/-- The lines of a strand image: of the accumulators those of a mask, and for a migrating strand the messages it takes along. -/
def strandLines (mask : Nat) (migrates : Option Nat) : List Nat :=
  List.range 10 ++ span 16 48 ++ ((span 48 112).filter fun k => mask.testBit ((k - 48) / 8)) ++ [112] ++
    match migrates with
    | some msgs => span 113 (129 + (224 * msgs + 63) / 128)
    | none => []

/-- The banks that a core image holds: bank 63 only with RES = 0. -/
def Core.imageBanks (x : Core) : Nat := if x.res then 63 else 64

/-- The lines of a core image, of which the accumulators are those of a mask, and `msgs` messages. -/
def coreLines (banks mask msgs : Nat) : List Nat :=
  span 512 (512 + 64 * banks) ++ span 4608 5216 ++ ((span 5216 5280).filter fun k => mask.testBit ((k - 5216) / 8)) ++ span 5280 (5312 + 5 * msgs)

/-- The bytes of a line that a save writes: of the origin's line only the origin, where no REFUSED entry follows. -/
def lineMask (u k : Nat) (migrates : Bool) : BitVec 128 := if u < 4 && k = 112 && !migrates then byteMask 0 64 else byteMask 0 128

/-! ## The save (R379) -/

/-- Whether a strand of a context has come to rest: handed to the save engine, halted, or not started. -/
def Strand.atRest (t : Strand) (n : Nat) : Bool :=
  !t.ofCtx n || t.saved || t.run == RunState.halted || t.run == RunState.idle

/-- A request that a core would have to perform. -/
def Body.asks : Body → Bool
  | .win _ _ _ _ _ | .qpush _ _ _ _ _ | .copyWr _ _ _ _ _ | .redc _ _ _ _ _ _ _ | .fwd _ _ _ _ | .faultMsg _ _ => true
  | _ => false

/-- Whether a journal entry's message is held with a ticket. -/
def State.ticketed (s : State) (c j : Nat) : Bool :=
  s.held.any fun h => h.msg.ticket != 0 && !h.cancel && h.msg.body.who == some (.journal c j)

/-- Whether the strands of a context on a core are at rest and their loads, stores, copies, matrix operations, fills and
drains have ended (R379, step 2). -/
def State.enginesQuiet (s : State) (c n : Nat) : Bool :=
  let x := s.core c
  x.strands.toList.all (fun t => t.atRest n && (!t.ofCtx n || (t.ldc == 0 && t.stc == 0 && t.cpc == 0 && t.tlc == 0))) &&
    x.mxq.isEmpty && x.tiles.all (fun e => e.2.job == TileJob.none) && x.copies.all (fun e => e.2.copy.isNone) &&
    x.streams.all fun e => !e.2.pushing

/-- Whether a core is ready to be saved: every SENT entry holds a ticket, and no request is on its way to the core of which no flit has
come. -/
def State.saveReady (s : State) (c n : Nat) : Bool :=
  let x := s.core c
  s.enginesQuiet c n && x.tiles.all (fun e => e.2.logged.isNone) &&
    x.journal.all (fun e => e.2.st != JState.sent || e.2.unsent || s.ticketed c e.1) &&
    !s.transit.any fun m => m.dest == c && !m.cancel && m.body.asks &&
      !((s.reasmOf c).bufs.any fun b => b.uid == m.uid)

/-- READY entries of logged tiles that the core still holds resident (R139). -/
def Core.openLogs (x : Core) : List Nat := (x.tiles.filter fun e => e.2.state == 2 && e.2.logged.isSome).map (·.1)

/-- Drains a READY logged entry for its OWN strand and remembers its refill (R120, R139). -/
def State.saveDrain (s : State) (c t : Nat) : State :=
  let e := s.tile c t
  let s := s.modCore c fun x => { x with refill := if x.refill.contains t then x.refill else x.refill ++ [t] }
  (s.modStrand c e.own fun x => { x with tlc := x.tlc + 1 }).drainBegin c t e.own true e.asid 0

def insertOrder (e : Nat × Journal) : List (Nat × Journal) → List (Nat × Journal)
  | [] => [e]
  | f :: l => if e.2.order < f.2.order then e :: f :: l else f :: insertOrder e l

/-- The spilled messages of a core, in the order of their issue, with their entries (R375). A message whose ticket is being cancelled is of
an entry that the index stood for before. -/
def State.spillOf (s : State) (c : Nat) : List (Journal × Option Msg) :=
  let l := ((s.core c).journal.filter fun e => e.2.st == JState.sent).foldr insertOrder []
  l.map fun e => (e.2, (s.held.find? fun h => !h.cancel && h.msg.body.who == some (.journal c e.1)).map (·.msg))

/-- STKB of strand 0 of a core for a context (R358). -/
def State.coreStkb (s : State) (c n : Nat) : W64 :=
  let t := s.strand c 0
  if t.ofCtx n then t.stkb else s.ctxStk n + BitVec.ofNat 64 (4 * c * 2 ^ 24)

/-- What a core image keeps beside memory. -/
def State.coreImage (s : State) (c n : Nat) : CoreImage :=
  let x := s.core c
  { ctx := n, core := c, stkb := s.coreStkb c n
    tiles := x.tiles, copies := x.copies, groups := x.groups, streams := x.streams
    journal := x.refusedOf fun _ => true
    spill := s.spillOf c
    refill := x.refill
    bufs := (s.reasmOf c).bufs.filter fun b => s.transit.any fun m => m.uid == b.uid && m.body.asks
    done := (s.reasmOf c).done.filter fun u => s.transit.any fun m => m.uid == u && m.body.asks
    undelivered := s.inbox.filter fun m => m.dest == c && m.body.asks }

/-- The messages that a core image keeps. -/
def CoreImage.messages (m : CoreImage) : Nat := m.spill.length + m.bufs.length + m.undelivered.length

/-- The spilled buffers and messages leave a core's interface (R62, R379). -/
def State.spillNet (s : State) (m : CoreImage) : State :=
  let gone := m.bufs.map (·.uid)
  { s.modReasm m.core fun r => { r with
      bufs := r.bufs.filter fun b => !gone.contains b.uid
      done := r.done.filter fun u => !m.done.contains u
      fifo := r.fifo.filter fun f => !gone.contains f.uid } with
    inbox := s.inbox.filter fun x => !m.undelivered.contains x }

/-- Spilled buffers and messages come back, with the flits that came since (R62, R379). -/
def State.unspillNet (s : State) (m : CoreImage) : State :=
  let s := { s with inbox := s.inbox ++ m.undelivered }
  m.bufs.foldl (fun s b => s.modReasm m.core fun r =>
    let since := ((r.bufs.find? (·.uid == b.uid)).map (·.got)).getD []
    let got := b.got ++ since.filter fun k => !b.got.contains k
    let nf := ((s.transit.find? (·.uid == b.uid)).map (·.nf)).getD 0
    { r with
      bufs := r.bufs.filter (·.uid != b.uid) ++ [{ b with got }]
      done := r.done.filter (· != b.uid) ++ if got.length == nf then [b.uid] else [] }) s

/-- The core whose strand or engine sent a request. -/
def Who.core : Who → Option Nat
  | .strand c _ | .journal c _ | .copy c _ | .tile c _ _ _ | .fetch c _ _ | .pref c _ _ _ => some c
  | _ => none

/-- Cancels the tickets that a core's requests hold; one that was refused without a ticket is given up (R115, R375, R379). A fault message
of the core is sent on (R378). -/
def State.cancelTickets (s : State) (c : Nat) : State :=
  let mine := fun (h : Held) => (h.msg.body.who.bind Who.core) == some c
  { s with held := (s.held.filter fun h => !(mine h && h.msg.ticket == 0)).map fun (h : Held) => if mine h then { h with cancel := true } else h }

/-- Every word of the matrix unit that is in error is rewritten with zero, as the save reads all of them (R122, R159). -/
def State.zeroCore (s : State) (c : Nat) : State :=
  let s := (List.range 16).foldl (fun s o => (s.zeroSlot c o (s.badSlot c o)).zeroScales c o (s.badScale c o)) s
  (List.range 8).foldl (fun s a => s.accZeroed c a fun _ => true) s

/-- Words of the matrix unit of a core that have been written anew are in error no more (R159). -/
def State.cleanCore (s : State) (c : Nat) : State :=
  { s with env := s.env.filter fun e => match e with
      | .slotBad k _ _ | .scaleBad k _ _ | .accBad k _ _ => k != c
      | _ => true }

/-- The cores that a resize under way takes out of a context's partition (R369). -/
def State.leaving (s : State) (n c : Nat) : Bool :=
  (s.context n).resize == 2 && boxHasCluster (s.ctxBox n) (clusterOf c) && !boxHasCluster (s.ctxNbox n) (clusterOf c)

/-- The strands of a context on a core. -/
def State.strandsOf (s : State) (c n : Nat) : List Nat := [0, 1, 2, 3].filter fun i => (s.strand c i).ofCtx n

def State.setSave (s : State) (c : Nat) (v : Save) : State := { s with saves := SMap.set s.saves c v }

/-- The save of a core begins: what its interface and its journal hold is taken, and the lines that are to be written are listed. -/
def State.saveBegin (s : State) (c n : Nat) : State :=
  let s := s.modReasm c Reasm.drain
  let migrates := s.leaving n c
  let x := s.core c
  let img := s.coreImage c n
  let strands := (s.strandsOf c n).flatMap fun i =>
    (strandLines (x.accMask i) (if migrates then some (img.spill.filter (·.1.strand == i)).length else none)).map fun k => (i, k)
  let owned := (List.range 8).foldl (fun m a => if (x.accOf a).owner.isNone then m + 2 ^ a else m) 0
  let core := if migrates then [] else (coreLines x.imageBanks owned img.messages).map fun k => (4, k)
  let s := if migrates then s else s.spillNet img
  ((s.cancelTickets c).zeroCore c).setSave c { ctx := n, back := false, one := none, left := strands ++ core, got := [], img := some img, pends := [] }

/-- The image that a restore of unit `u` reads. -/
def State.imageOf (s : State) (c u : Nat) (v : Save) : Option StrandImage :=
  if v.one.isSome then s.migrated.find? fun m => m.dest == some (c, u)
  else s.strandImages.find? fun m => m.core == c && m.ctx == v.ctx && m.slot == u

/-- The address space and the STKB of a unit of an image; none where the work that it was of has been killed. -/
def State.imageBase (s : State) (c u : Nat) (v : Save) : Option (BitVec 16 × W64) :=
  if u = 4 then
    some (s.ctxAsid v.ctx, if v.back then ((s.coreImages.find? fun m => m.core == c && m.ctx == v.ctx).map (·.stkb)).getD 0 else s.coreStkb c v.ctx)
  else if v.back then (s.imageOf c u v).map fun m => (m.strand.asid.setWidth 16, m.strand.stkb)
  else if (s.strand c u).ofCtx v.ctx then some ((s.strand c u).asid.setWidth 16, (s.strand c u).stkb)
  else none

/-- The line in memory of a line of an image, with the address space. A translation fault goes to the service core for strand 0 (R379). -/
def State.imageAt (s : State) (c : Nat) (v : Save) (u k : Nat) : Option (EngX × BitVec 16) :=
  match s.imageBase c u v with
  | none => none
  | some (asid, stkb) =>
    match decodeAddr stkb (0xFF00000000000000 + BitVec.ofNat 64 (128 * k)) with
    | some (.stack va) =>
      some (s.engineXlate c { who := .save, strand := 0, asid, va, bad := BitVec.ofNat 64 va, acc := if v.back then .load else .store
                              need := if v.back then .load true else .store true, pc := 0 }, asid)
    | _ => none

/-- The emptied local state of a core that a context leaves (R125). -/
def Core.emptied (x : Core) (n : Nat) : Core :=
  { x with
    ls := if x.res then x.ls.zero 0 (63 * 8192) else []
    bkmd0 := 0
    bkmd1 := if x.res then putMode 0 31 (x.mode 63) else 0
    fifos := if x.res then x.fifos.filter fun e => e.1 == 63 else []
    l1 := [], tiles := [], slots := [], accs := [], copies := [], groups := [], streams := [], journal := [], fills := []
    refill := [], slotWait := [], accWait := [], preempt := none, ctx := none
    strands := x.strands.map fun t =>
      if t.ofCtx n then { Strand.reset with gen := t.gen, asid := t.asid, run := if t.run = .fenced then .fenced else .idle } else t }

/-- What a strand image keeps beside memory. A migrating strand takes its own messages along. -/
def State.strandImage (s : State) (c i n : Nat) (migrates : Bool) (img : CoreImage) : StrandImage :=
  let t := s.strand c i
  { ctx := n, core := c, slot := i
    strand := { t with preempting := false, saved := false, fault := none, wait := .no, rangeStop := false, pend := 0 }
    journal := [], spill := if migrates then img.spill.filter (·.1.strand == i) else [], migrated := migrates, dest := none }

/-- Steps 3 and 4 of R379 are over: the core is emptied, and its strands are idle. -/
def State.saveCore (s : State) (c n : Nat) (img : CoreImage) : State :=
  let migrates := s.leaving n c
  let mine := s.strandsOf c n
  let images := mine.map fun i => s.strandImage c i n migrates img
  let s := { (((s.pauseLeases c n).modCore c (·.emptied n)).cleanCore c) with saves := SMap.erase s.saves c }
  let s := if migrates then { s with migrated := s.migrated ++ images }
    else { s with strandImages := s.strandImages ++ images, coreImages := s.coreImages.filter (fun m => m.ctx != n || m.core != c) ++ [img] }
  mine.foldl (fun s i => if (s.strand c i).run = .idle then s.park c i else s) s

/-- Writes the next line of the images of a core, or ends the save. A strand whose pending bits have changed since they were written has
them written again (R379). -/
def State.saveLine (s : State) (c : Nat) (v : Save) : State :=
  match v.left with
  | (u, k) :: rest =>
    if !s.devQuiet c then s
    else match s.imageAt c v u k with
      | none | some (.fails _, _) => s.imageSkip c
      | some (.waits s, _) => s
      | some (.ok pa p, asid) =>
        let pends := if u < 4 && k = 8 then (u, (s.strand c u).pend) :: v.pends.filter (·.1 != u) else v.pends
        let d := if u < 4 then s.strandLine c u v.ctx k else s.coreLine c k
        (s.devPut c (pa / 128, p.loc) d (lineMask u k (s.leaving v.ctx c)) (some asid)).setSave c { v with left := rest, pends }
  | [] =>
    let late := (s.strandsOf c v.ctx).filter fun i => !v.pends.contains (i, (s.strand c i).pend)
    if !late.isEmpty then s.setSave c { v with left := late.map fun i => (i, 8) }
    else if s.devQuiet c then (match v.img with | some img => s.saveCore c v.ctx img | none => s)
    else s

/-- A core is left by a context that runs no launch: its local state is emptied, and there is no image (R125, R368). -/
def State.leaveCore (s : State) (c n : Nat) : State := ((s.cancelTickets c).modCore c (·.emptied n)).cleanCore c

/-- PREEMPTION: the save of a context's work on a core goes on by one step (R379). Cores that save together wait for one
another, so that no message is left on its way between them. -/
def execPreemption (ctx c : Nat) (s : State) : Res :=
  if !(decide (c < 12288) && decide (ctx < 256)) then .fault .noSuchPlace
  else
    match SMap.get? s.saves c with
    | some v => .next (if v.back || v.ctx != ctx then s else s.saveLine c v)
    | none =>
      if (s.core c).preempt != some ctx || !s.enginesQuiet c ctx then .next s
      else
        match (s.core c).openLogs with
        | t :: rest => .next ((t :: rest).foldl (fun s t => s.saveDrain c t) s)
        | [] =>
          if !(s.cores.all fun e => e.2.preempt != some ctx || (SMap.get? s.saves e.1).any (!·.back) || s.saveReady e.1 ctx) then .next s
          else if !s.runsLaunch ctx && (s.strandsOf c ctx).isEmpty then .next (s.leaveCore c ctx)
          else .next (s.saveBegin c ctx)

/-! ## Restoring (R375, R379) -/

/-- A line that a restore has read, and a word of it. -/
def Save.line (v : Save) (u k : Nat) : W1024 := ((v.got.find? (·.1 == (u, k))).map (·.2)).getD 0
def Save.word (v : Save) (u off : Nat) : W64 := lineWord64 (v.line u (off / 128)) (off / 8 % 16)

/-- The REFUSED entries from an offset of a unit's image. -/
def Save.refused (v : Save) (u off : Nat) : List Journal :=
  (List.range 64).filterMap fun j => Journal.ofWords (v.word u (off + 32 * j)) (v.word u (off + 32 * j + 8))

/-- A message with another journal entry as its sender. -/
def Body.forEntry (w : Who) : Body → Body
  | .mem r => .mem { r with who := w, px := none }
  | .win _ p a st prv => .win w p a st prv
  | .qpush _ c b d prv => .qpush w c b d prv
  | .logUpd _ r es => .logUpd w r es
  | b => b

/-- Where a spilled message goes: a cached line's request by its proxy (R76). -/
def State.spillDest (s : State) (c : Nat) (j : Journal) (m : Msg) : Nat :=
  match m.body, j.piece with
  | .mem _, some p => if p.host then epHost else epSlice (s.routeOf c p.place p.cached)
  | _, _ => m.dest

/-- Sends a spilled message fresh under a free journal entry (R375). -/
def State.resendSpill (s : State) (c i : Nat) (e : Journal × Option Msg) : State :=
  match (s.core c).freeJent with
  | none => s
  | some k =>
    let s := s.modCore c fun x => x.setJent k { e.1 with strand := i, order := x.nextOrder }
    match e.2 with
    | none => s
    | some m =>
      let b := m.body.forEntry (.journal c k)
      s.request c (s.spillDest c e.1 m) b.cls b.flits 0 b

/-- Places REFUSED entries in free journal entries. -/
def State.placeRefused (s : State) (c : Nat) (l : List Journal) : State :=
  l.foldl (fun s j => s.modCore c fun x => match x.freeJent with
    | some k => x.setJent k j
    | none => x) s

/-- A saved strand as it is restored in a strand slot: RESUME is due at its first boundary (R374, R379). One that was halted keeps the
registers of its slot. -/
def State.restored (s : State) (c i : Nat) (m : StrandImage) (v : Save) : Strand :=
  let t := { m.strand with gen := (s.strand c i).gen }
  let t := { t.fromImage fun k => v.word i (0x400 + 8 * k) with v := Vector.ofFn fun (k : Fin 32) => v.line i (16 + k.val) }
  if t.run != .running then t
  else { t.fromSlot fun k => v.word i (8 * k) with pend := setBit t.pend 6 true, behind := t.behind ||| 0x40, preResume := true }

/-- The accumulators that a strand image owns. -/
def Save.owned (v : Save) (i : Nat) : List Nat := (List.range 8).filter fun a => (v.word i (0x400 + 8 * maskWord)).getLsbD a

/-- Restores a strand image in strand slot `i` of core `c`: registers, slot, owned accumulators and lease. A pre-emption that was asked for
meanwhile concerns it too. -/
def State.restoreStrand (s : State) (c i : Nat) (m : StrandImage) (v : Save) : State :=
  let t := s.restored c i m v
  let t := if (s.core c).preempt = some m.ctx then t.askPreempt else t
  let s := s.modCore c fun x =>
    let x := if x.res && t.run == RunState.running then
        { x with ls := (List.range 8).foldl (fun ls k => ls.writeLine (slotAt i + 128 * k) (v.line i k) (byteMask 0 128)) x.ls }
      else x
    let x := (v.owned i).foldl (fun x a => x.setAcc a { words := accOfLines fun k => v.line i (48 + 8 * a + k), owner := some i }) x
    { x.setStrand i t with ctx := some m.ctx }
  let s := (v.owned i).foldl (fun s a => s.accWritten c a fun _ => true) s
  let s := { s with parked := s.parked.filter (· != (c, i)) }
  s.resumeLease m.core m.slot c i (some m.ctx)

/-- The core with what a core image holds in memory (R125, R379): a resident bank 63 stays. -/
def Core.fromImage (x : Core) (m : CoreImage) (v : Save) : Core :=
  let w := fun k => v.word 4 (0x90000 + 8 * k)
  let modes : Core := { x with bkmd0 := w 0, bkmd1 := if x.res then putMode (w 1) 31 (x.mode 63) else w 1 }
  { modes with
    ls := (List.range (64 * x.imageBanks)).foldl (fun ls k => ls.writeLine (128 * k) (v.line 4 (512 + k)) (byteMask 0 128)) x.ls
    fifos := (List.range 64).filterMap fun b =>
      if b = 63 && x.res then (SMap.get? x.fifos 63).map fun f => (63, f)
      else if modes.mode b = 2 then some (b, .ofWord (w (2 + b))) else none
    tiles := (List.range 64).filterMap fun t =>
      let w := fun k => w (66 + 5 * t + k)
      let e : Tile := { SMap.getD m.tiles t Tile.reset with w0 := w 0, w1 := w 1, w2 := w 2, w3 := w 3, w4 := w 4 }
      if e == Tile.reset then none else some (t, e)
    slots := (List.range 16).map fun o =>
      let b := w (386 + o)
      (o, .ofLines (fun k => v.line 4 (4640 + 36 * o + k)) (if b.getLsbD 6 then some (bits b 0 6) else none))
    groups := (List.range 16).map fun n =>
      let g := w (403 + 2 * n)
      (n, { SMap.getD m.groups n Group.reset with desc := w (402 + 2 * n), gen := g.setWidth 8, drain := bits g 8 32 })
    accs := (List.range 8).map fun a => (a, { words := accOfLines fun k => v.line 4 (5216 + 8 * a + k), owner := none })
    copies := (List.range 64).map fun id =>
      let w := fun k => v.word 4 (0xA5000 + 32 * id + 8 * k)
      (id, { SMap.getD m.copies id CopyId.reset with w0 := w 0, w1 := w 1, w2 := w 2, w3 := w 3 })
    streams := m.streams, l1 := [], ctx := some m.ctx }

/-- Restores a core image; no word of its matrix unit is in error then. -/
def State.restoreCore (s : State) (m : CoreImage) (v : Save) : State :=
  ((s.modCore m.core fun x => x.fromImage m v).cleanCore m.core).unspillNet m

/-- What comes after the strands of a restored core image: its REFUSED entries, its spilled messages and the refills (R139, R375). -/
def State.restoreRest (s : State) (m : CoreImage) (v : Save) : State :=
  let c := m.core
  let s := s.placeRefused c (v.refused 4 0xA5800)
  let s := m.spill.foldl (fun s e => s.resendSpill c e.1.strand e) s
  m.refill.foldl (fun s t =>
    let e := s.tile c t
    ((s.modStrand c e.own fun x => { x with tlc := x.tlc + 1 }).modTile c t fun e => { e with refilling := true }).fillBegin
      c t none e.own true e.asid 0) s

/-- Whether a core can take the images of a context back now. -/
def State.mayRestore (s : State) (c n : Nat) : Bool :=
  s.coreUp c && !(s.core c).fenced && (s.core c).preempt.isNone && (s.region (regionOf c)).on &&
    (s.context n).st == 1 && (s.context n).onCores && ((s.core c).ctx.isNone || (s.core c).ctx == some n) &&
    [0, 1, 2, 3].all fun i => !s.stale c i && (s.strand c i).run == RunState.idle && (s.strand c i).cocoon.isNone

/-- The restore of a context's images on a core begins: every line is read back. -/
def State.restoreBegin (s : State) (c n : Nat) : State :=
  let core := s.coreImages.any fun m => m.core == c && m.ctx == n
  let strands := (s.strandImages.filter fun m => m.core == c && m.ctx == n).map (·.slot)
  let left := (if core then (coreLines (s.core c).imageBanks 255 0).map fun k => (4, k) else []) ++
    strands.flatMap fun i => (strandLines 255 none).map fun k => (i, k)
  (s.modCore c fun x => { x with ctx := some n }).setSave c { ctx := n, back := true, one := none, left, got := [], img := none, pends := [] }

/-- The images of a context on a core have been read: core image, then strand images, then what waits for them (R379). -/
def State.restoreEnd (s : State) (c n : Nat) (v : Save) : State :=
  let core := s.coreImages.find? fun m => m.core == c && m.ctx == n
  let strands := s.strandImages.filter fun m => m.core == c && m.ctx == n
  let s := { s with
    saves := SMap.erase s.saves c
    coreImages := s.coreImages.filter fun m => m.core != c || m.ctx != n
    strandImages := s.strandImages.filter fun m => m.core != c || m.ctx != n }
  let s := match core with | some m => s.restoreCore m v | none => s
  let s := strands.foldl (fun s m => s.restoreStrand c m.slot m v) s
  match core with | some m => s.restoreRest m v | none => s

/-- The free journal entries of a core. -/
def Core.freeJents (x : Core) : Nat := ((List.range 64).filter fun j => (x.jent j).st == JState.free).length

/-- Migrated work has been read: it is restored once its accumulators and journal entries can be had on the core (R375, R379). Where it has
been killed meanwhile the strand is parked again. -/
def State.adoptEnd (s : State) (c i : Nat) (v : Save) : State :=
  let left := { s with saves := SMap.erase s.saves c }
  match s.imageOf c i v with
  | none => left.park c i
  | some m =>
    let x := s.core c
    let refused := if m.migrated then v.refused i 0x3840 else m.journal
    if (v.owned i).any (fun a => (x.accOf a).owner.isSome) || x.freeJents < refused.length + m.spill.length then s
    else
      let s := ({ left with migrated := s.migrated.filter (· != m) }).restoreStrand c i m v
      let s := s.placeRefused c (refused.map fun j => { j with strand := i })
      m.spill.foldl (fun s e => s.resendSpill c i e) s

/-- Reads the next line of the images that a core takes back, or ends the restore. -/
def State.restoreLine (s : State) (c : Nat) (v : Save) : State :=
  match v.left with
  | (u, k) :: rest =>
    match s.imageAt c v u k with
    | none | some (.fails _, _) => s.imageSkip c
    | some (.waits s, _) => s
    | some (.ok pa p, asid) =>
      let l : DevAt := (pa / 128, p.loc)
      if s.devHave c [l] then (s.devUsed c [l]).setSave c { v with left := rest, got := ((u, k), s.devData c l) :: v.got }
      else s.devWant c (some asid) [l]
  | [] =>
    match v.one with
    | some i => s.adoptEnd c i v
    | none => s.restoreEnd c v.ctx v

/-- RESUME_RESTORE: the context's turn begins if it may, and its images on a core are restored, or migrated work that a strand of the core
has taken: core image, then strand images (R366, R379). -/
def execResumeRestore (ctx c : Nat) (s : State) : Res :=
  if !(decide (c < 12288) && decide (ctx < 256)) then .fault .noSuchPlace
  else
    match SMap.get? s.saves c with
    | some v => .next (if v.back && v.ctx == ctx then s.restoreLine c v else s)
    | none =>
      match s.onTurn ctx with
      | none => .next s
      | some s => if !s.imagesDue c ctx || !s.mayRestore c ctx then .next s else .next (s.restoreBegin c ctx)

/-! ## Parked strands (R362, R369) -/

/-- A parked strand takes migrated work, which is read from its image by the steps of RESUME_RESTORE (R369, R379). -/
def State.adopt (s : State) (c i : Nat) (m : StrandImage) : State :=
  { s with
    migrated := s.migrated.map fun (k : StrandImage) => if k = m then { k with dest := some (c, i) } else k
    parked := s.parked.filter (· != (c, i)) }.setSave c
      { ctx := m.ctx, back := true, one := some i, left := (strandLines 255 (if m.migrated then some 0 else none)).map fun k => (i, k), got := []
        img := none, pends := [] }

/-- Whether a placed cocoon is due at strand 0 of a core, which then serves it first (R334). -/
def Core.placedDue (x : Core) (i : Nat) : Bool := i == 0 && !(x.placed.isEmpty && x.heldPlaced.isEmpty)

/-- Finds work for a parked strand: migrated work, the pools in order of priority, or a thief's part (R337, R346, R362). -/
def State.dispatch (s : State) (q : Nat) (l : Launch) (c i : Nat) : State :=
  match s.migrated.find? fun m => m.ctx == l.ctx && m.dest.isNone with
  | some m => if (SMap.get? s.saves c).isSome then s else s.adopt c i m
  | none =>
    match s.findWork q l c i with
    | .error s => s
    | .ok none => s
    | .ok (some (k, s)) => s.handOver c i k

/-- PARKED_DISPATCH: the first parked strand of a queue's launch gets work, if there is any. A resize's leaving cores get none (R369). -/
def execParkedDispatch (q : Nat) (s : State) : Res :=
  if !decide (q < 64) then .fault .noSuchPlace
  else
    match (s.queue q).launch with
    | none => .next s
    | some l =>
      if l.phase != .running || l.stat != 0 then .next s
      else
        let box := s.ctxBox l.ctx
        match s.parked.find? fun k => boxHasCluster box (clusterOf k.1) && s.mayStart k.1 k.2 l.ctx &&
            (s.strand k.1 k.2).cocoon.isNone && !(s.core k.1).placedDue k.2 with
        | some (c, i) => .next (s.dispatch q l c i)
        | none => .next s

/-! ## Asynchronous causes (R374) -/

/-- ASYNC_DELIVERY: the cause due at a strand's instruction boundary is delivered. -/
def execAsyncDelivery (c s_ : Nat) (s : State) : Res :=
  if !(decide (c < 12288) && decide (s_ < 4)) then .fault .noSuchPlace
  else if !s.coreUp c || (s.core c).fenced then .next s
  else .next ((s.asyncDeliver c s_).getD s)

end Sys2Proof.Machine
end

