-- ==== Sys2Proof/Machine/Launches.lean ====
section
/-!
DEFINITION. The launch queues (R359 to R365), levels, slices and charges (R366 to R368), and the watchdog (R370).
Readings: DEDUCED, assumption log 35.
-/

namespace Sys2Proof.Machine

/-! ## Taking a launch (R359, R361) -/

/-- Who holds header `k`, one of a queue or, from 64 on, of an optical engine; where it lies, and how far in its line (R359, R403). -/
def hdrHolder (k : Nat) : Nat := if k < 64 then epLaunch else epOptical (k - 64)
def State.engineAt (s : State) (h : Nat) : DevAt := (s.qbase.toNat / 128 + 64 + h / 2, false)
def State.engineHdr (s : State) (h : Nat) : W1024 := s.devData (epOptical h) (s.engineAt h) >>> (512 * (h % 2))
def State.headerAt (s : State) (k : Nat) : DevAt := if k < 64 then s.queueAt k else s.engineAt (k - 64)
/-- A header reads with its own fields in order. -/
def State.headerOk (s : State) (k : Nat) : Bool :=
  if k < 64 then hdrOk (s.queueHdr k) 128 else hdrOk (s.engineHdr (k - 64)) 64

/-- QUEUE_HEADER_NOTIFY: a notice of a home slice has the queue or engine read its header; when the line has come, an ill-formed header is
reported to the management plane (R359, R403). -/
def execQueueHeaderNotify (k : Nat) (s : State) : Res :=
  if !decide (k < 80) then .fault .noSuchPlace
  else
    let ep := hdrHolder k
    let l := s.headerAt k
    match s.inbox.find? fun m => m.dest == ep && m.body == .hdrNote k with
    | some m => .next ((s.consume m.uid).devAsk ep none l)
    | none =>
      if !s.devHave ep [l] then .next s
      else
        let s := s.devUsed ep [l]
        .next (if s.headerOk k then s else s.report 5 k)

/-- LAUNCH_TAKE: HEAD advances and the record is checked, once it and the context's descriptor have been read (R361, steps 1 and 2). -/
def execLaunchTake (q : Nat) (s : State) : Res :=
  if !decide (q < 64) then .fault .noSuchPlace
  else
    let h := s.queueHdr q
    let k := hdrHead h
    if !hdrOn h 128 || !decide (k < hdrTail h) || (s.queue q).launch.isSome then .next s
    else
      let a := s.recordAt q k
      let need := a :: if hdrCtx h < 256 then [s.ctxAt (hdrCtx h)] else []
      if !s.devHave epLaunch need then .next (s.devWant epLaunch none need)
      else
        let d := s.devData epLaunch a
        let l : Launch :=
          { num := k, record := Vector.ofFn fun i => lineWord64 d i.val, phase := .taken, armed := false, ctx := hdrCtx h
            sched := 0, phaseTicks := 0, ended := 0, placedLeft := 0, stat := 0, cause := 0, causeBy := 0, killDue := false }
        let l := if s.recordIll q l then { l with stat := 4 } else l
        let s := (s.devUsed epLaunch need).devPutNum epLaunch (s.queueAt q) 32 8 (k + 1)
        .next (s.modQueue q fun x => { x with launch := some l })

/-! ## Starting (R361, R363, R365) -/

/-- Whether a queue's launch is ready but for its turn. While its context's cores are held for a gang launch no other is. -/
def State.launchReady (s : State) (q : Nat) : Bool :=
  match (s.queue q).launch with
  | some l => s.startable l && s.ctxValid l.ctx && (s.context l.ctx).st != 3 && !s.runsLaunch l.ctx &&
      ((s.heldFor l.ctx).isNone || s.heldFor l.ctx == some q)
  | none => false

/-- Of several ready queues of one context the highest PRIO starts first, and then the lowest number. -/
def State.firstReady (s : State) (n : Nat) : Option Nat :=
  (s.launchesOf n).foldl (fun (m : Option Nat) e =>
    if !s.launchReady e.1 then m
    else match m with
      | none => some e.1
      | some b => if hdrPrio (s.queueHdr b) < hdrPrio (s.queueHdr e.1) then some e.1 else some b) none

/-- Whether a core takes delivered work (R23, R363, R370). -/
def State.takesWork (s : State) (c : Nat) : Bool := s.live c && !(s.core c).dark && !(s.core c).fenced

/-- The placed cocoon of a core (R331, R334). -/
def State.placedCocoon (s : State) (q : Nat) (l : Launch) (c : Nat) : Cocoon :=
  let b := l.word 2
  let place := (coreX c - boxByte b 0) + 2 ^ 5 * (coreY c - boxByte b 1) + 2 ^ 10 * (coreZ c - boxByte b 2) + 2 ^ 16 * c
  let tag := (s.ctxAsid l.ctx).toNat + 2 ^ 16 * s.ctxDomain l.ctx + 2 ^ 32
  { img := #v[l.word 0, BitVec.ofNat 64 tag, 0, 0, l.word 4, BitVec.ofNat 64 place, 0, s.timecode], queue := some q, ctx := some l.ctx }

/-- Adds to a level of a context (R357, R361). -/
def State.addLevel (s : State) (n k : Nat) (x : W64) : State :=
  if x = 0 then s else s.ctxPut n (4 + k) (lineWord64 (s.ctxLine n) (4 + k) + x)

/-- Parks every strand of the partition that holds no cocoon, in order of core and strand (R362). -/
def State.parkAll (s : State) (n : Nat) : State :=
  (s.partition n).foldl (fun s c => [0, 1, 2, 3].foldl (fun s i =>
    let t := s.strand c i
    if t.run == RunState.idle && t.cocoon.isNone then s.park c i else s) s) s

/-- The launch ends before it runs anything. -/
def State.refuseLaunch (s : State) (q stat : Nat) : State :=
  s.modQueue q fun x => { x with launch := x.launch.map fun l => { l with stat } }

/-- Starts a launch of the context that holds its cores: allocations, instruction caches, cocoons and parking. Another launch of the context
is armed no more (R365). -/
def State.startLaunch (s : State) (q : Nat) (l : Launch) : State :=
  let n := l.ctx
  let s := ((s.addLevel n 0 (l.word 10)).addLevel n 1 (l.word 11)).addLevel n 2 (l.word 12 * 1000)
  let s := (s.partition n).foldl (fun s c =>
    if (s.core c).icache.isEmpty then s else s.modCore c fun x => { x with icache := [] }) s
  let cores := if l.placed then (coreBoxCores (l.word 2)).filter s.takesWork else []
  let s := cores.foldl (fun s c => s.modCore c fun x => { x with placed := x.placed ++ [s.placedCocoon q l c] }) s
  let s := [0, 1, 2, 3].foldl (fun s p => s.setPool (4 * q + p) .reset) s
  let l := { l with phase := .running, phaseTicks := s.timecode.toNat, placedLeft := cores.length }
  (((s.modContext n fun x => { x with st := 1 }).unarm q (· == n)).modQueue q fun x => { x with launch := some l }).parkAll n

/-- Starts a launch, or ends it with DEADCORE (R363). -/
def State.startOrDead (s : State) (q : Nat) (l : Launch) : State :=
  if l.placed && !l.skipDead && (coreBoxCores (l.word 2)).any (fun c => !s.takesWork c) then s.refuseLaunch q 5 else s.startLaunch q l

/-- A gang launch at its START: it starts, or ends with GANG_LATE (R365). -/
def State.gangStart (s : State) (q : Nat) (l : Launch) : State :=
  let ready := l.armed && s.timecode.toNat == l.start && (s.tcMaster || s.tcLock) && s.launchReady q
  match (if ready then s.onTurn l.ctx else none) with
  | none => s.refuseLaunch q 6
  | some s => s.startOrDead q l

/-- LAUNCH_START: dependences, START, the turn and the gang rules (R361, R363, R365). What is started or armed goes by the context's
descriptor as it stands in memory; a gang launch that is armed starts at its tick by the descriptor it was armed with. -/
def execLaunchStart (q : Nat) (s : State) : Res :=
  if !decide (q < 64) then .fault .noSuchPlace
  else
    match (s.queue q).launch with
    | none => .next s
    | some l =>
      let now := s.timecode.toNat
      let d := [s.ctxAt l.ctx]
      let arms := l.gang && !l.armed && decide (now + 10000 ≤ l.start)
      if l.phase != .taken || l.stat != 0 || !s.depsEnded l then .next s
      else if s.depsFailed l then .next (s.refuseLaunch q 3)
      else if l.gang && decide (l.start ≤ now) then .next (s.gangStart q l)
      else if !arms && decide (now < l.start) then .next s
      else if !s.devHave epLaunch d then .next (s.devWant epLaunch none d)
      else
        let s := s.devUsed epLaunch d
        if arms then
          match (if s.runsLaunch l.ctx then none else s.armTurn l.ctx) with
          | none => .next s
          | some s => .next (s.modQueue q fun x => { x with launch := some { l with armed := true } })
        else if s.firstReady l.ctx != some q then .next s
        else
          match s.onTurn l.ctx with
          | none => .next s
          | some s => .next (s.startOrDead q l)

/-- The gang launches whose START has come start at its first cycle (R365). -/
def State.startGangs (s : State) : State :=
  s.queues.foldl (fun s e =>
    match (s.queue e.1).launch with
    | some l => if s.gangHolds l && l.start == s.timecode.toNat && s.depsEnded l && !s.depsFailed l then s.gangStart e.1 l else s
    | none => s) s

/-! ## Ending (R364, R370) -/

/-- A launch's work is over: LNUM, TDONE and RESULT go to its record, and the leases of one that ran are returned (R364, R396). -/
def State.closeLaunch (s : State) (q : Nat) (l : Launch) : State :=
  let a := s.recordAt q l.num
  let s := (s.devPutNum epLaunch a 104 8 l.num).devPutNum epLaunch a 112 8 s.timecode.toNat
  let s := s.devPutNum epLaunch a 120 8 (l.stat + 2 ^ 8 * l.cause + 2 ^ 32 * (l.ended % 2 ^ 32))
  let s := if l.phase = .taken then s else s.returnLeases fun k => k.ctx == some l.ctx
  let s := s.modQueue q fun x => { x with launch := some { l with phase := .closing } }
  if (s.context l.ctx).st = 1 && !s.runsLaunch l.ctx then s.modContext l.ctx fun x => { x with st := 0 } else s

/-- The record has been written at its home: DONE advances, which the host is told (R364, R399). -/
def State.launchDone (s : State) (q : Nat) (l : Launch) : State :=
  let a := s.recordAt q l.num
  let s := s.devPutNum epLaunch (s.queueAt q) 40 8 (hdrDone (s.queueHdr q) + 1)
  let s := s.modQueue q fun x =>
    { x with launch := none, lastStat := l.stat, failed := if l.stat = 0 then x.failed else l.num :: x.failed }
  { s with dev := SMap.erase s.dev (devKey epLaunch a.2 a.1), msix := s.msix ++ [q] }

/-- The work of a launch that its watchdog has stopped is over: its images stay in memory for the host and are restored no more (R370). -/
def State.leaveImages (s : State) (q : Nat) (l : Launch) : State :=
  let other := fun (m : StrandImage) => (m.strand.cocoon.bind (·.queue)) != some q
  let s := s.cores.foldl (fun s e => s.dropPlaced e.1 q) s
  { s with
    strandImages := s.strandImages.filter other, migrated := s.migrated.filter other
    coreImages := s.coreImages.filter fun m => m.ctx != l.ctx }

/-- LAUNCH_END: a launch whose work, or whose kill or save, has ended writes its record, and after that is done. -/
def execLaunchEnd (q : Nat) (s : State) : Res :=
  if !decide (q < 64) then .fault .noSuchPlace
  else
    match (s.queue q).launch with
    | none => .next s
    | some l =>
      if l.phase = .closing then .next (if s.devIdle epLaunch (s.recordAt q l.num) then s.launchDone q l else s)
      else if l.phase = .taken then .next (if l.stat = 0 then s else s.closeLaunch q l)
      else if l.phase = .preempting && l.stat = 0 then
        if s.cores.any fun e => e.2.preempt == some l.ctx then .next s
        else
          let s := s.leaveImages q l
          .next (match (s.queue q).launch with | some l => s.closeLaunch q { l with stat := 2 } | none => s)
      else if s.finished q l then .next (s.closeLaunch q l)
      else .next s

/-! ## Levels and slices (R357, R366 to R368) -/

/-- CONTEXT_LEVEL_INCREMENT: ACORE, AHBM and AEN are added to their levels and written back as 0; a context descheduled for
its levels is eligible again when all three are above 0. -/
def execContextLevelIncrement (ctx : Nat) (s : State) : Res :=
  if !decide (ctx < 256) then .fault .noSuchPlace
  else
    let d := [s.ctxAt ctx]
    if !s.devHave epLaunch d then .next (s.devWant epLaunch none d)
    else
      let s := [0, 1, 2].foldl (fun s k =>
        let x := lineWord64 (s.ctxLine ctx) (8 + k)
        if x = 0 then s else (s.addLevel ctx k x).ctxPut ctx (8 + k) 0) (s.devUsed epLaunch d)
      .next (if (s.context ctx).st = 2 && s.levelsUp ctx then s.modContext ctx fun x => { x with st := 0 } else s)

/-- Whether the last cocoon of a context's last startable launch has ended: that wins over its slice and its levels (R368). -/
def State.lastDone (s : State) (n : Nat) : Bool :=
  let ls := s.launchesOf n
  ls.any (fun e => s.finished e.1 e.2) && !ls.any fun e => s.startable e.2

/-- TIME_SLICE_EXPIRY: a context with a rival leaves its cores when its slice is over, or when it has no work left; not while they are held
for a gang launch (R365, R366). -/
def execTimeSliceExpiry (ctx : Nat) (s : State) : Res :=
  if !decide (ctx < 256) then .fault .noSuchPlace
  else
    let x := s.context ctx
    let slice := s.ctxSlice ctx
    let rival := (s.sharing ctx).any fun m => m != ctx && s.eligible m
    let work := (s.launchesOf ctx).any fun e => e.2.phase == .running || s.startable e.2
    let spent := slice != 0 && decide (slice ≤ s.timecode.toNat - x.since)
    if !x.onCores || !rival || s.lastDone ctx || (s.heldFor ctx).isSome || (work && !spent) then .next s
    else .next (s.deschedule ctx 0)

/-- The contexts that hold a running strand of a core. -/
def Core.contexts (x : Core) : List Nat :=
  x.strands.toList.foldl (fun l t => match t.cocoon.bind (·.ctx) with
    | some n => if t.run != .idle && !l.contains n then l ++ [n] else l
    | none => l) []

/-- One tick of a core is charged to each context that holds a strand of it, once in the tick (R367). -/
def State.chargeCore (s : State) (c : Nat) : State :=
  if s.charged.contains c || !s.coreUp c || (s.core c).fenced then s
  else
    (s.core c).contexts.foldl (fun s n =>
      (s.charge n 0 1).modRegion (regionOf c) fun g => { g with coreNs := SMap.set g.coreNs n (SMap.getD g.coreNs n 0 + 1) })
      { s with charged := c :: s.charged }

/-- A context of which a level is spent leaves its cores (R367, R368). -/
def State.levelSpent (s : State) (n : Nat) : State :=
  let x := s.context n
  if x.st == 2 || x.st == 3 || !(x.onCores || s.runsLaunch n) || s.levelsUp n || s.lastDone n then s else s.deschedule n 2

/-- CORE_TIME_CHARGE: a core's time of this tick is charged (R367). -/
def execCoreTimeCharge (c : Nat) (s : State) : Res :=
  if !decide (c < 12288) then .fault .noSuchPlace
  else
    let t := s.chargeCore c
    .next ((s.core c).contexts.foldl (fun s n => s.levelSpent n) t)

/-- ENERGY_METER_WINDOW: a region's energy of a 10 µs window is charged by core time (R367). -/
def execEnergyMeterWindow (r uj : Nat) (s : State) : Res :=
  if !decide (r < 96) then .fault .noSuchPlace
  else
    let g := s.region r
    let s := s.modRegion r fun g => { g with coreNs := [] }
    .next (g.coreNs.foldl (fun s e => (s.charge e.1 2 (uj * e.2 / 1280000)).levelSpent e.1) s)

/-- The charges of a tick that are still due, and the contexts that a charge has left without a level (R367). -/
def State.chargeTick (s : State) : State :=
  let s := s.cores.foldl (fun s e => s.chargeCore e.1) s
  s.contexts.foldl (fun s e => s.levelSpent e.1) { s with charged := [] }

/-! ## Watchdog (R370) -/

/-- The cores that hold a context's state and whose kill has not ended. -/
def State.killing (s : State) (n : Nat) : List Nat :=
  (s.cores.filter fun e => e.2.ctx == some n && !e.2.fenced && !s.killOver e.1).map (·.1)

/-- Fences every core that is still killing. -/
def State.fenceRest (s : State) (n : Nat) : State := (s.killing n).foldl (fun s c => s.fence c) s

/-- Changes the launch of a queue. -/
def State.modLaunch (s : State) (q : Nat) (f : Launch → Launch) : State :=
  s.modQueue q fun x => { x with launch := x.launch.map f }

/-- Forces a kill of a launch on every core; with W3 = 0 the cores that go on are fenced at once. -/
def State.forceKill (s : State) (q : Nat) (l : Launch) : State :=
  let s := (s.endLaunch q 2 0).modLaunch q fun l => { l with phase := .killing, phaseTicks := s.timecode.toNat }
  if hdrWatch (s.queueHdr q) 2 = 0 then s.fenceRest l.ctx else s

/-- WATCHDOG_W1: the pre-emption of the launch's cores, with WATCHDOG in each strand. A launch whose work has ended wins. -/
def execWatchdogW1 (q : Nat) (s : State) : Res :=
  if !decide (q < 64) then .fault .noSuchPlace
  else
    let h := s.queueHdr q
    match (s.queue q).launch with
    | none => .next s
    | some l =>
      let w := hdrWatch h 0
      if l.phase != .running || l.stat != 0 || w = 0 || s.scheduled l < w || s.finished q l then .next s
      else
        let s := (s.deschedule l.ctx 0).modLaunch q fun l => { l with phase := .preempting, phaseTicks := s.timecode.toNat }
        let s := s.cores.foldl (fun s e => [0, 1, 2, 3].foldl (fun s i =>
          if ((s.strand e.1 i).cocoon.bind (·.queue)) == some q then s.pendBit e.1 i 5 else s) s) s
        .next (if hdrWatch h 1 = 0 && s.cores.any (fun e => e.2.preempt == some l.ctx) then s.forceKill q l else s)

/-- WATCHDOG_W2: the cores have not all saved in time. -/
def execWatchdogW2 (q : Nat) (s : State) : Res :=
  if !decide (q < 64) then .fault .noSuchPlace
  else
    match (s.queue q).launch with
    | none => .next s
    | some l =>
      if l.phase != .preempting || l.stat != 0 || decide (s.timecode.toNat - l.phaseTicks < hdrWatch (s.queueHdr q) 1) ||
          !(s.cores.any fun e => e.2.preempt == some l.ctx) then .next s
      else .next (s.forceKill q l)

/-- WATCHDOG_W3: the cores that have not ended the kill in time are fenced. -/
def execWatchdogW3 (q : Nat) (s : State) : Res :=
  if !decide (q < 64) then .fault .noSuchPlace
  else
    match (s.queue q).launch with
    | none => .next s
    | some l =>
      if l.phase != .killing || decide (s.timecode.toNat - l.phaseTicks < hdrWatch (s.queueHdr q) 2) then .next s
      else .next (s.fenceRest l.ctx)

end Sys2Proof.Machine
end

