-- ==== Sys2Proof/Machine/SliceEvents.lean ====
section
/-!
DEFINITION. The steps of the slices: requests at a home and what it waits for (R71 to R83, R137), requests at a proxy and the
answers it gets (R76, R81), host accesses (R85, R321), and the line homes' part in the logs (R130, R132, R134).
-/

namespace Sys2Proof.Machine

/-- A delivered request to a slice, not a cancel; `home` says whether the slice is to be the line's home. -/
def State.sliceReq (s : State) (uid : Nat) (home : Bool) : Option (Msg × MemReq) :=
  match s.msg? uid with
  | some m =>
    match m.body with
    | .mem r =>
      if !m.cancel && 12288 ≤ m.dest && m.dest < 13056 && (m.dest == epSlice (s.homeOf r.line)) == home then some (m, r) else none
    | _ => none
  | none => none

/-- A request that the home takes under its order, where its operation is one that a step is for. -/
def State.atHome (s : State) (uid : Nat) (f : MemOp → Bool) : Res :=
  match s.sliceReq uid true with
  | some (m, r) => if f r.op then .next (s.homeAccept m r) else .next s
  | none => .next s

/-- A request that a proxy serves or forwards. -/
def State.atProxy (s : State) (uid : Nat) (f : MemOp → Bool) : Res :=
  match s.sliceReq uid false with
  | some (m, r) => if f r.op then .next (s.proxyServe m r) else .next s
  | none => .next s

def MemOp.isRead : MemOp → Bool | .read => true | _ => false
def MemOp.isWrite : MemOp → Bool | .write => true | _ => false
def MemOp.isAmo : MemOp → Bool | .amo _ => true | _ => false
def MemOp.isRed : MemOp → Bool | .red _ => true | _ => false
def MemOp.isGrant : MemOp → Bool | .grant _ _ => true | _ => false
def MemOp.isLock : MemOp → Bool | .lock _ => true | _ => false
def MemOp.isEntry : MemOp → Bool | .entry _ _ => true | _ => false

/-- HOME_READ (R74, R75, R77, R80). -/
def execHomeRead (uid : Nat) (s : State) : Res := s.atHome uid MemOp.isRead
/-- HOME_WRITE: a write or an AMO (R78, R80), or the storer's write of a line that it has locked (R137). -/
def execHomeWrite (uid : Nat) (s : State) : Res :=
  match s.sliceReq uid true with
  | some (m, r) =>
    match r.op with
    | .unlock rec n => .next (s.storerWrite m r rec n)
    | .write | .amo _ => .next (s.homeAccept m r)
    | _ => .next s
  | none => .next s
/-- HOME_RED (R80). -/
def execHomeRed (uid : Nat) (s : State) : Res := s.atHome uid MemOp.isRed
/-- U_GRANT_REQUEST (R80). -/
def execUGrantRequest (uid : Nat) (s : State) : Res := s.atHome uid MemOp.isGrant
/-- LOCKING_READ: the storer's read, which holds later operations on its line (R137). -/
def execLockingRead (uid : Nat) (s : State) : Res := s.atHome uid MemOp.isLock
/-- LINE_HOME_LOG_ENTRY: an entry of a line in the applied mask (R130, R134). -/
def execLineHomeLogEntry (uid : Nat) (s : State) : Res := s.atHome uid MemOp.isEntry

/-- PARTIAL_FLUSH: the home folds one copy at once (R83); for a line that is in I, which is read from HBM first, the flush takes a
transaction entry or is refused (R75, R80). -/
def execPartialFlush (uid : Nat) (s : State) : Res :=
  match s.sliceReq uid true with
  | some (m, r) =>
    match r.op with
    | .flush u p =>
      let s := if (s.homeLine r.line).st.isSome then s.meetHomeError r.line else s
      let h := s.homeLine r.line
      if h.st.isSome && h.busy != .fill && m.ticket = 0 then
        let s := (s.consume uid).foldFlush r.line u p
        .next (s.answer m.dest m.src 2 1 m.tag (.ok (s.homeLine r.line).seq.toNat))
      else .next (s.homeAccept m r)
    | _ => .next s
  | none => .next s

/-- HBM_LINE_FILL (R31, R71, R80). -/
def execHbmLineFill (ln : Nat) (s : State) : Res := if decide (ln < 2 ^ 33) then .next (s.hbmFill ln) else .fault .noSuchPlace
/-- VICTIM_WRITEBACK_DONE (R71, R80). -/
def execVictimWritebackDone (ln : Nat) (s : State) : Res :=
  if decide (ln < 2 ^ 33) then .next (s.writebackDone ln) else .fault .noSuchPlace
/-- RECALL_FOLD (R82). -/
def execRecallFold (ln : Nat) (s : State) : Res := if decide (ln < 2 ^ 33) then .next (s.recallFold ln) else .fault .noSuchPlace

/-- INVALIDATION_ACK: an acknowledgement of an invalidation or of a recall reaches the home (R78, R82). -/
def execInvalidationAck (uid : Nat) (s : State) : Res :=
  match s.msg? uid with
  | some m =>
    match m.body with
    | .ack ln p => .next ((s.consume uid).copyAcked ln p)
    | _ => .next s
  | none => .next s

/-- PROXY_LOAD (R76, R81). -/
def execProxyLoad (uid : Nat) (s : State) : Res := s.atProxy uid MemOp.isRead
/-- PROXY_STORE (R81). -/
def execProxyStore (uid : Nat) (s : State) : Res := s.atProxy uid MemOp.isWrite
/-- PROXY_RED (R81, R82). -/
def execProxyRed (uid : Nat) (s : State) : Res := s.atProxy uid MemOp.isRed
/-- PROXY_AMO (R81). -/
def execProxyAmo (uid : Nat) (s : State) : Res := s.atProxy uid MemOp.isAmo

/-- PROXY_FILL_ANSWER (R76, R81). -/
def execProxyFillAnswer (uid : Nat) (s : State) : Res :=
  match s.msg? uid with
  | some m =>
    match m.body with
    | .ans (.proxy sl) kind seq _ data req =>
      if req.op.isRead then .next ((s.consume uid).proxyFilled sl req.line kind seq data) else .next s
    | _ => .next s
  | none => .next s

/-- PROXY_GRANT_ANSWER (R81). -/
def execProxyGrantAnswer (uid : Nat) (s : State) : Res :=
  match s.msg? uid with
  | some m =>
    match m.body with
    | .ans (.proxy sl) kind seq _ _ req =>
      if req.op.isGrant then .next ((s.consume uid).proxyGranted sl req.line kind seq) else .next s
    | _ => .next s
  | none => .next s

/-- PROXY_INVALIDATION (R81). -/
def execProxyInvalidation (uid : Nat) (s : State) : Res :=
  match s.msg? uid with
  | some m => match m.body with
    | .inval ln => .next (s.proxyCalled m ln)
    | _ => .next s
  | none => .next s

/-- PROXY_RECALL (R81, R82). -/
def execProxyRecall (uid : Nat) (s : State) : Res :=
  match s.msg? uid with
  | some m => match m.body with
    | .recall ln => .next (s.proxyCalled m ln)
    | _ => .next s
  | none => .next s

/-! ## The host's accesses (R85, R321, R399) -/

/-- Whether a write of an ordering stream has not been answered. -/
def State.streamBusy (s : State) (stream : Nat) : Bool :=
  let w := Who.host stream
  let mine := fun (m : Msg) => match m.body with
    | .mem r => r.who == w
    | .ans v _ _ _ _ _ => v == w
    | .retry (.mem r) => r.who == w
    | _ => false
  s.transit.any mine || s.inbox.any mine || s.held.any (fun h => mine h.msg) ||
    s.home.any fun e => e.2.ops.any (fun o => o.req.who == w) ||
      (match e.2.busy with | .inval _ l => l.any mine | _ => false)

/-- The number that bytes make, the first lowest. -/
def bytesNum : List (BitVec 8) → Nat
  | [] => 0
  | b :: l => b.toNat + 256 * bytesNum l

/-- Whether BAR2 and CXL.mem are open (R399, R405). -/
def State.bar2 (s : State) : Bool := s.running

/-- HOST_WRITE: a write of the host within one line. Stream 0 is unordered; a write of another stream goes out once the one
before it has been performed (R321). -/
def execHostWrite (pa : Nat) (data : List (BitVec 8)) (stream : Nat) (s : State) : Res :=
  if !decide (pa < 2 ^ 40) then .fault .noSuchPlace
  else if !s.bar2 || data.isEmpty || decide (128 < pa % 128 + data.length) || (stream != 0 && s.streamBusy stream) then .next s
  else
    let ln := pa / 128
    let req : MemReq :=
      { op := .write, line := ln, off := pa % 128, mask := byteMask (pa % 128) data.length
        data := BitVec.ofNat 1024 (bytesNum data) <<< (8 * (pa % 128)), who := .host stream, asid := none, px := none }
    .next (s.request epHost (epSlice (s.homeOf ln)) 0 3 0 (.mem req))

/-- HOST_READ: a read of the host within one line, served at the home (R85). -/
def execHostRead (pa n : Nat) (s : State) : Res :=
  if !decide (pa < 2 ^ 40) then .fault .noSuchPlace
  else if !s.bar2 || n = 0 || decide (128 < pa % 128 + n) then .next s
  else .next (s.request epHost (epSlice (s.homeOf (pa / 128))) 0 1 0 (.mem (.plain .read (pa / 128) (.host 0) none)))

/-! ## The line homes' part in the logs -/

/-- LOGMARK at a line home (R132). -/
def execLogmark (uid : Nat) (s : State) : Res :=
  match s.msg? uid with
  | some m => match m.body with
    | .logMark ln r => .next (((s.consume uid).logMark ln r).answer m.dest m.src 2 1 m.tag (.logMarkAck r ln))
    | _ => .next s
  | none => .next s

/-- LOGCLEAR at a line home (R132). -/
def execLogclear (uid : Nat) (s : State) : Res :=
  match s.msg? uid with
  | some m => match m.body with
    | .logClear ln r => .next (((s.consume uid).logClear ln).answer m.dest m.src 2 1 m.tag (.logClearAck r ln))
    | _ => .next s
  | none => .next s

/-- PULL_RESPONSE at a line home (R80, R134). -/
def execPullResponse (uid : Nat) (s : State) : Res :=
  match s.msg? uid with
  | some m => match m.body with
    | .pullAns ln r es more bad => .next ((s.consume uid).pulled ln r es more bad)
    | _ => .next s
  | none => .next s

/-! ## The log homes (R130 to R141) -/

/-- LOG_UPDATE (R132, R426). -/
def execLogUpdate (uid : Nat) (s : State) : Res :=
  match s.msg? uid with
  | some m => match m.body with
    | .logUpd who r es => if m.cancel then .next s else .next (s.logUpdate m who r es)
    | _ => .next s
  | none => .next s

/-- PULL (R132, R134). -/
def execPull (uid : Nat) (s : State) : Res :=
  match s.msg? uid with
  | some m => match m.body with
    | .pull ln r => .next (s.logPull m ln r)
    | _ => .next s
  | none => .next s

/-- UNPULL: an evicted line leaves the applied mask (R132, R134). -/
def execUnpull (uid : Nat) (s : State) : Res :=
  match s.msg? uid with
  | some m => match m.body with
    | .unpull ln r => .next (s.logUnpull m ln r)
    | _ => .next s
  | none => .next s

/-- LOG_OPEN (R132, R133). -/
def execLogOpen (uid : Nat) (s : State) : Res :=
  match s.msg? uid with
  | some m => match m.body with
    | .open_ r core tile => if m.cancel then .next s else .next (s.logOpen m r core tile)
    | _ => .next s
  | none => .next s

/-- LOG_CLOSE (R132, R138). -/
def execLogClose (uid : Nat) (s : State) : Res :=
  match s.msg? uid with
  | some m => match m.body with
    | .close r core _ parts _ => .next (s.logClose m r core parts)
    | _ => .next s
  | none => .next s

/-- FORWARDED_ENTRY_ACK: the answer of a core or of a line home to a forwarded entry (R130). -/
def execForwardedEntryAck (uid : Nat) (s : State) : Res :=
  match s.msg? uid with
  | some m => match m.body with
    | .fwdAck r ln => .next ((s.consume uid).fwdAcked r ln)
    | _ => .next s
  | none => .next s

/-- LOGMARK_ACK: a line home's answer to LOGMARK, or to LOGCLEAR (R132). -/
def execLogmarkAck (uid : Nat) (s : State) : Res :=
  match s.msg? uid with
  | some m => match m.body with
    | .logMarkAck r _ => .next ((s.consume uid).markAcked r)
    | .logClearAck r _ => .next ((s.consume uid).modLogRec r fun x => { x with clears := x.clears - 1 })
    | _ => .next s
  | none => .next s

/-- STORER_APPLY_WRITE (R137). -/
def execStorerApplyWrite (rec : Nat) (s : State) : Res := if decide (rec < 2 ^ 32) then .next (s.storerApply rec) else .fault .noSuchPlace
/-- STORER_DONE (R132, R137). -/
def execStorerDone (rec : Nat) (s : State) : Res := if decide (rec < 2 ^ 32) then .next (s.storerDone rec) else .fault .noSuchPlace

/-- FORWARDED_ENTRY: an entry reaches the core that holds its tile (R133, R136). -/
def execForwardedEntry (uid : Nat) (s : State) : Res :=
  match s.msg? uid with
  | some m => match m.body with
    | .fwd r core tile e => if m.cancel then .next s else .next (s.fwdArrive m r core tile e)
    | _ => .next s
  | none => .next s

/-! ## Declarations (R127) -/

/-- The lowest free id of a logged tensor. -/
def State.freeTensorId (s : State) : Option Nat := (List.range 256).find? fun id => (s.tensor id).st == .free

/-- The device sequencer's part in a declaration or a retire: the overlap check and the lowest free id, all ones where none is free; or the
freeing of an id whose logs are done and none of whose tiles is resident (R127). -/
def State.logtServe (s : State) (m : Msg) : State :=
  let ans := fun (s : State) (c i : Nat) (res : Option W64) => (s.consume m.uid).answer m.dest m.src 1 1 m.tag (.logtAns c i res)
  match m.body with
  | .logt c i x =>
    if s.overlapsTensor x.asid x then ans s c i none
    else match s.freeTensorId with
      | some id => ans (s.setTensor id x) c i (some (BitVec.ofNat 64 id))
      | none => ans s c i (some 0xFFFFFFFFFFFFFFFF)
  | .logtRet c i id => if s.tensorQuiet id then ans (s.freeTensor id) c i (some 0) else s
  | _ => s

/-- LOGT_ID_REQUEST: the device sequencer handles the request of a strand when it is the first that it has; a retire that still waits for
its logs and tiles keeps no other waiting (R127; DEDUCED, assumption log 28). -/
def execLogtIdRequest (c s_ : Nat) (s : State) : Res :=
  if !(decide (c < 12288) && decide (s_ < 4)) then .fault .noSuchPlace
  else
    let due := fun (m : Msg) => m.dest == epDevSeqr && (match m.body with | .logt _ _ _ => true | .logtRet _ _ id => s.tensorQuiet id | _ => false)
    let mine := fun (m : Msg) => match m.body with | .logt k i _ | .logtRet k i _ => k == c && i == s_ | _ => false
    match s.inbox.find? due with
    | some m => if mine m then .next (s.logtServe m) else .next s
    | none => .next s

end Sys2Proof.Machine
end

