-- ==== Sys2Proof/Machine/Resize.lean ====
section
/-!
DEFINITION. Resizing without draining (R46, R369), dark clusters (R23, R383, R392), the kill of a context (R140, R401) and
the restart of a halted strand (R356).
Readings: DEDUCED, assumption log 38, 39.
-/

namespace Sys2Proof.Machine

/-! ## Resizing (R369) -/

/-- A box word from its six bytes. -/
def boxWord (l : List Nat) : W64 := BitVec.ofNat 64 (leNat (l.map (BitVec.ofNat 8)))

/-- The smallest cluster box that holds a list of clusters. -/
def boundBox (l : List Nat) : W64 :=
  let ends := fun (f : Nat → Nat) => l.foldl (fun (b : Nat × Nat) cl => (min b.1 (f cl), max b.2 (f cl + 1))) (16, 0)
  let x := ends (· % 16)
  let y := ends (· / 16 % 12)
  let z := ends (· / 192)
  boxWord [x.1, y.1, z.1, x.2 - x.1, y.2 - y.1, z.2 - z.1]

/-- Whether a list of clusters fills its box. -/
def fillsBox (l : List Nat) : Bool :=
  l.isEmpty || (let b := boundBox l; boxByte b 3 * boxByte b 4 * boxByte b 5 == l.length)

/-- The clusters that a request takes from a context. -/
def State.goneClusters (s : State) (n : Nat) : List Nat :=
  (List.range 1536).filter fun cl => boxHasCluster (s.ctxBox n) cl && !boxHasCluster (s.ctxNbox n) cl

/-- The clusters of the taker after the move. -/
def State.joined (s : State) (n : Nat) : List Nat :=
  s.goneClusters n ++ (List.range 1536).filter (boxHasCluster (s.ctxBox (bits (s.ctxNbox n) 48 8)))

/-- The group of the superstep channel whose box is the context's partition; none without RCHEN. -/
def State.resizeGroup (s : State) (n : Nat) : Option Nat :=
  let f := s.ctxFlags n
  if f / 32 % 2 = 0 then none
  else (s.barGroups.find? fun e => e.1 / 64 == f / 2 % 16 && groupLvl e.2.word != 0 &&
    bits (groupBox e.2.word) 0 48 == bits (s.ctxBox n) 0 48).map (·.1)

def State.modGroup (s : State) (key : Nat) (f : BarGroup → BarGroup) : State :=
  { s with barGroups := SMap.set s.barGroups key (f (SMap.getD s.barGroups key .reset)) }

/-- Sets ST of a context's NBOX. -/
def State.setNbox (s : State) (n st : Nat) : State := s.ctxPut n 11 (putBits (s.ctxNbox n) 62 2 st)

/-- RESIZE_REQUEST: a request is refused or accepted by the descriptors as they stand in memory; the giver's next compute release is held
(R369). -/
def execResizeRequest (ctx : Nat) (s : State) : Res :=
  if !decide (ctx < 256) then .fault .noSuchPlace
  else
    let w := s.ctxNbox ctx
    let taker := bits w 48 8
    let own := [s.ctxAt ctx]
    let all := (List.range 256).map s.ctxAt
    if (s.context ctx).resize != 0 then .next s
    else if !s.devHave epLaunch own then .next (s.devWant epLaunch none own)
    else if bits w 62 2 != 1 then .next (s.devUsed epLaunch own)
    else if !s.devHave epLaunch all then .next (s.devWant epLaunch none all)
    else
    let s := s.devUsed epLaunch all
    if !boxInside w (s.ctxBox ctx) || !fillsBox (s.joined ctx) || (s.sharing taker).any (· != taker) then
      .next (s.setNbox ctx 3)
    else
      let s := match s.resizeGroup ctx with
        | some k => s.modGroup k fun g => { g with held := true }
        | none => s
      .next (s.modContext ctx fun x => { x with resize := 1 })

/-- Whether the giver is at its superstep boundary. -/
def State.atBoundary (s : State) (n : Nat) : Bool :=
  if s.ctxFlags n / 32 % 2 = 0 then true
  else match s.resizeGroup n with
    | some k =>
      let g := SMap.getD s.barGroups k .reset
      !g.rel.isEmpty && groupPh g.word && g.epi.getLsbD 0
    | none => false

/-- Whether a core is of the released clusters. -/
def State.leaves (s : State) (n c : Nat) : Bool :=
  boxHasCluster (s.ctxBox n) (clusterOf c) && !boxHasCluster (s.ctxNbox n) (clusterOf c)

/-- The first two steps of R369 on one core: range strands are to stop at their next NEXTI, the others are pre-empted. -/
def Core.leaveNow (x : Core) (n : Nat) : Core :=
  { x with
    preempt := some n
    strands := x.strands.map fun t =>
      let range := t.run == RunState.running && !t.saved && (match t.cocoon with | some k => Image.kind k.img == 2 | none => false)
      if !t.ofCtx n then t
      else if range then { t with rangeStop := true }
      else t.askPreempt }

/-- Strand images saved before the move become migrated work, with their own entries and messages. -/
def State.migrateImages (s : State) (n : Nat) : State :=
  let mine := fun (m : StrandImage) => m.ctx == n && s.leaves n m.core
  let moved := (s.strandImages.filter mine).map fun m =>
    match s.coreImages.find? fun k => k.core == m.core && k.ctx == n with
    | some k => { m with journal := k.journal.filter (·.strand == m.slot), spill := k.spill.filter (·.1.strand == m.slot) }
    | none => m
  { s with
    migrated := s.migrated ++ moved
    strandImages := s.strandImages.filter fun m => !mine m
    coreImages := s.coreImages.filter fun k => k.ctx != n || !s.leaves n k.core }

/-- The leaving cores begin to stop. Placed cocoons that have not been picked up stay with their cores' strands 0 (R334). -/
def State.beginMove (s : State) (n : Nat) : State :=
  let s := (s.migrateImages n).modContext n fun x => { x with resize := 2 }
  s.cores.foldl (fun s e =>
    if s.leaves n e.1 && s.takesWork e.1 && (e.2.ctx == some n || e.2.strands.toList.any (·.ofCtx n)) then s.modCore e.1 (·.leaveNow n) else s) s

/-- The group's box becomes the new one; the leaving nodes drop their arrivals and their membership. -/
def State.moveGroup (s : State) (n key : Nat) : State :=
  let w := s.ctxNbox n
  let ch := key / 64
  let gone := (s.members ch (key % 64)).filter (s.leaves n)
  let s := gone.foldl (fun s c => s.modCore c fun x => x.setNode ch (putBits (setBit (x.node ch) 14 false) 43 5 0)) s
  s.modGroup key fun g =>
    let b := [boxByte w 0 + 2 ^ 4 * boxByte w 1 + 2 ^ 8 * boxByte w 2,
      (boxByte w 3 - 1) + 2 ^ 4 * (boxByte w 4 - 1) + 2 ^ 8 * (boxByte w 5 - 1)]
    { g with
      word := putBits (putBits g.word 0 11 (b.getD 0 0)) 11 11 (b.getD 1 0)
      done := g.done.filter fun e => !gone.contains e.1
      due := g.due.filter fun c => !gone.contains c
      rel := g.rel.filter fun e => !gone.contains e.1
      held := false }

/-- The cores have left: leases without an image are returned, the bump is applied, and both partitions are rewritten. -/
def State.endMove (s : State) (n : Nat) : State :=
  let taker := bits (s.ctxNbox n) 48 8
  let old := s.ctxBox n
  let joined := boundBox (s.joined n)
  let gone := fun c => s.leaves n c
  let saved := s.migrated
  let asid := s.ctxAsid n
  let s := s.returnLeases fun l => l.ctx == some n && gone l.core && !saved.any fun m => m.core == l.core && m.slot == l.strand
  let s := s.cores.foldl (fun s e => if gone e.1 then s.modCore e.1 (·.bump asid none) else s) s
  let s := match s.resizeGroup n with
    | some k => s.moveGroup n k
    | none => s
  let s := s.ctxPut n 2 (BitVec.ofNat 64 (bits (s.ctxNbox n) 0 48))
  let s := if old = s.ctxBox n then s else s.ctxPut taker 2 joined
  let s := ((s.setNbox n 2).modContext n fun x => { x with resize := 0 }).gateRegions
  if s.runsLaunch taker then s.parkAll taker else s

/-- RESIZE_MOVE: at the giver's superstep boundary the leaving cores begin to stop, and once they are empty they join the
taker. -/
def execResizeMove (ctx : Nat) (s : State) : Res :=
  if !decide (ctx < 256) then .fault .noSuchPlace
  else
    match (s.context ctx).resize with
    | 1 => .next (if s.atBoundary ctx && s.saves.all (fun e => !s.leaves ctx e.1) then s.beginMove ctx else s)
    | 2 =>
      let busy := s.cores.any fun e => s.leaves ctx e.1 && s.takesWork e.1 &&
        (e.2.preempt == some ctx || e.2.strands.toList.any (·.ofCtx ctx) || (e.2.placed ++ e.2.heldPlaced).any fun k => k.ctx == some ctx)
      .next (if busy then s else s.endMove ctx)
    | _ => .next s

/-- RANGE_STOP_TIMEOUT: no NEXTI has issued on a leaving core in 2^20 core cycles; the strand is pre-empted instead. -/
def execRangeStopTimeout (c s_ : Nat) (s : State) : Res :=
  if !(decide (c < 12288) && decide (s_ < 4)) then .fault .noSuchPlace
  else if !(s.strand c s_).rangeStop then .next s
  else .next (s.modStrand c s_ fun t => { t.askPreempt with rangeStop := false })

/-! ## Dark clusters (R383) -/

/-- What is left of a core whose supply has failed: the nodes' words and the slice's part stay. -/
def Core.darkened (x : Core) : Core :=
  { Core.reset with
    dark := true, fenced := x.fenced, nodes := x.nodes, errors := x.errors, sliceFault := x.sliceFault
    replies := x.replies.filter fun e => e.1 == 4 }

/-- The cocoons that a core holds, running or waiting. -/
def Core.cocoons (x : Core) : List Cocoon := x.strands.toList.filterMap (·.cocoon) ++ x.placed ++ x.heldPlaced

/-- CLUSTER_DARK of a launch, at containment from level 2 (R381 to R383). -/
def State.darkCause (s : State) (c q : Nat) : State :=
  match (s.queue q).launch with
  | none => s
  | some l =>
    if l.gstop then s.failLaunch c 0 q cClusterDark
    else
      match s.consult c l.cpol true false 6 2 with
      | .ignore | .retry => s
      | .kill _ cores => cores.foldl (fun s k => if (SMap.get? s.cores k).isNone then s else s.killCore k q) s
      | .out => s.failLaunch c 0 q cClusterDark

/-- A core stops: its cocoons end, what it has not sent is lost but for fault messages (R378), its tickets are left, and residencies on it
are closed with their tensors FAILED. Its nodes count as complete. -/
def State.darkCore (s : State) (c : Nat) : State :=
  let x := s.core c
  let lost := fun (m : Msg) => m.src == c && (match m.body with | .faultMsg _ _ => false | _ => true)
  let sent := fun (i : Nat) => s.stale c i && !s.held.any fun h => h.msg.body.isOf (.strand c i)
  let s := [0, 1, 2, 3].foldl (fun s i => (s.withdrawSc c i (sent i)).unstall c i) s
  let s := x.cocoons.foldl (fun s k => s.countEnded k) s
  let s := s.setCore c x.darkened
  let s := { s with
    parked := s.parked.filter fun k => k.1 != c
    held := s.held.filter fun h => !lost h.msg
    transit := s.transit.filter fun m => !(lost m && m.tag == 256)
    saves := SMap.erase s.saves c
    dev := s.dev.filter fun e => e.1 / 2 ^ 34 != c
    migrated := s.migrated.map fun (m : StrandImage) => if m.dest.any (fun (k : Nat × Nat) => k.1 == c) then { m with dest := none } else m
    hostOut := s.hostOut.filter fun e => e.1 / 4 != c
    bumps := s.bumps.map fun (e : Nat × List Nat) => (e.1, e.2.filter (· != c)) }
  let s := s.logs.foldl (fun s e => match (s.logRec e.1).st with
    | .res k _ => if k = c && !(s.logRec e.1).ending then (s.failTensor (recTensor e.1)).logClosed e.1 [] else s
    | _ => s) s
  (List.range 16).foldl (fun s ch => if nodeM (x.node ch) then s.groupDone ch (nodeGix (x.node ch)) else s) s

/-- TLBINVs that waited for nothing but dark cores complete (R45). -/
def State.settleBumps (s : State) : State :=
  s.bumps.foldl (fun s e =>
    if !e.2.isEmpty then s
    else
      let s := { s with bumps := SMap.erase s.bumps e.1 }
      match SMap.get? s.bumpReqs e.1 with
      | some (_, _, k, i) =>
        let s := { s with bumpReqs := SMap.erase s.bumpReqs e.1 }
        if (s.strand k i).wait = .tlbinv e.1 then s.retireAt k i else s
      | none => s) s

/-- FALLBACK_FAILURE: a cluster on its fallback regulator goes dark (R383, R392). -/
def execFallbackFailure (cl : Nat) (s : State) : Res :=
  if !decide (cl < 1536) then .fault .noSuchPlace
  else
    let k := s.cluster cl
    if !k.fb || k.dark then .next s
    else
      let cores := clusterCores cl
      let first := (clusterCores cl).headD 0
      let hit := cores.foldl (fun l c => (s.core c).cocoons.foldl (fun (l : List Nat) k => match k.queue with
        | some q => if l.contains q then l else l ++ [q]
        | none => l) l) []
      let s := s.returnLeases fun l => clusterOf l.core == cl
      let s := cores.foldl (fun s c => if s.live c then s.darkCore c else s) s
      let s := { s with cluSeqrs := SMap.erase s.cluSeqrs cl }.settleBumps
      let s := s.modCluster cl fun k => { k with dark := true }
      .next (hit.foldl (fun s q => s.darkCause first q) s)

/-! ## The kill of a context (R140, R401) -/

/-- Entries that hold a tile of a freed tensor hold it no longer. -/
def State.dropLogged (s : State) (id : Nat) : State :=
  { s with cores := s.cores.map fun (e : Nat × Core) => (e.1, { e.2 with tiles := e.2.tiles.map fun (t : Nat × Tile) =>
      (t.1, if t.2.logged.any (·.1 == id) then { t.2.setLog [] with logged := none, logDirty := false } else t.2) }) }

/-- The context's logged tensors fail; their records, spills and core logs are discarded (R140). A record in FORCE ends when the storer
has unlocked its lines, with no entry applied. -/
def State.killTensors (s : State) (asid : BitVec 16) : State :=
  s.tensors.foldl (fun s e =>
    if e.2.asid != asid || e.2.st == TensorSt.free then s
    else
      let s := s.failTensor e.1
      let s := s.logs.foldl (fun s r =>
        if recTensor r.1 != e.1 then s
        else match (s.logRec r.1).st with | .res _ _ => s.freeRec r.1 | _ => s) s
      s.dropLogged e.1) s

/-- Whether no record of the context's tensors is in FORCE any more. -/
def State.tensorsDone (s : State) (asid : BitVec 16) : Bool :=
  s.tensors.all fun e => e.2.asid != asid || s.logs.all fun r => recTensor r.1 != e.1 || r.2.st == LogSt.idle

/-- The tensors of a killed context are freed (R140). -/
def State.freeTensors (s : State) (asid : BitVec 16) : State :=
  s.tensors.foldl (fun s e => if e.2.asid == asid then s.freeTensor e.1 else s) s

/-- Ends the kill of a context: its cores empty their local state (R125), its tensors are freed, BUSY is cleared, which the host is told,
and nothing of the context is kept (R399, R401, step 4). -/
def State.endKill (s : State) (n : Nat) : State :=
  let s := s.freeTensors (s.ctxAsid n)
  let s := s.cores.foldl (fun s e => if e.2.ctx = some n then (s.modCore e.1 (·.emptied n)).cleanCore e.1 else s) s
  let s := match s.resizeGroup n with
    | some k => if (s.context n).resize = 0 then s else s.modGroup k fun g => { g with held := false }
    | none => s
  { s.modContext n fun x => { x with st := 0, onCores := false, resize := 0 } with
    killBusy := false
    msix := s.msix ++ [64]
    saves := s.saves.filter fun e => e.2.ctx != n
    coreImages := s.coreImages.filter fun m => m.ctx != n
    strandImages := s.strandImages.filter fun m => m.ctx != n
    migrated := s.migrated.filter fun m => m.ctx != n }.gateRegions

/-- Whether every core has ended the kill of a context: no strand of it is left, what its engines had begun has ended, and its tensors'
records are free (R95, R140, R288). -/
def State.killDone (s : State) (n : Nat) : Bool :=
  (s.killing n).isEmpty && s.cores.all (fun e => e.2.strands.toList.all (fun t => !t.ofCtx n)) &&
    s.cores.all (fun e => e.2.ctx != some n || s.enginesQuiet e.1 n) && s.tensorsDone (s.ctxAsid n)

/-- The kill goes on once the context's descriptor has been read: its tensors fail, and when every core has ended the kill VALID is cleared
in memory (R140, R401). -/
def State.killGo (s : State) (n : Nat) : State :=
  let d := s.ctxAt n
  if !s.devHave epLaunch [d] then s.devWant epLaunch none [d]
  else
    let s := s.killTensors (s.ctxAsid n)
    if !s.killDone n then s
    else if s.ctxValid n then s.devPutNum epLaunch d 6 2 (s.ctxFlags n / 2 * 2)
    else if s.devIdle epLaunch d then (s.devUsed epLaunch [d]).endKill n
    else s

/-- KILLCTX: a write kills a context, and while BUSY the event takes the kill on. A launch whose work has ended wins. -/
def execKillctx (ctx : Nat) (s : State) : Res :=
  if !decide (ctx < 256) then .fault .noSuchPlace
  else if !s.bar2 then .next s
  else if s.killBusy then .next (s.killGo s.killCtx)
  else
    let s := { s with killBusy := true, killCtx := ctx }
    let s := (s.launchesOf ctx).foldl (fun s e =>
      if e.2.phase = .taken || e.2.phase = .closing || s.finished e.1 e.2 then s else s.endLaunch e.1 7 0) s
    let s := s.cores.foldl (fun s e => [0, 1, 2, 3].foldl (fun s i =>
      if (s.strand e.1 i).ofCtx ctx then s.killStrand e.1 i else s) s) s
    let s := s.returnLeases fun l => l.ctx == some ctx
    .next ((s.modContext ctx fun x => { x with st := 3, onCores := false }).devAsk epLaunch none (s.ctxAt ctx))

/-! ## HALT and RESTART (R356, R400) -/

/-- RESTART: a halted strand goes on at the PC after its HALT. -/
def execRestart (c s_ : Nat) (s : State) : Res :=
  if !(decide (c < 12288) && decide (s_ < 4)) then .fault .noSuchPlace
  else
    let t := s.strand c s_
    if !s.bar2 || t.run != .halted || (s.core c).fenced || (s.core c).dark then .next s
    else if t.ended then .next ((s.modStrand c s_ fun t => { t with run := .idle, ended := false }).park c s_)
    else .next (s.modStrand c s_ fun t => { t with run := .running })

end Sys2Proof.Machine
end

