-- ==== Sys2Proof/Machine/Manage.lean ====
section
/-!
DEFINITION. The management window (R399, R400), RESYNC (R404), peer links and timecode (R402), and transfers to a peer
(R403).
Readings: DEDUCED, assumption log 41.
-/

namespace Sys2Proof.Machine

/-! ## Management registers (R390, R400) -/

/-- TCSTAT; the master always reads LOCK = 1 (R400, R402). -/
def State.tcstat (s : State) : W64 :=
  BitVec.ofNat 64 ((BitVec.ofInt 32 s.tcOfs).toNat * 2 ^ 32 + (if s.tcMaster then 4 else 0) + if s.tcMaster || s.tcLock then 1 else 0)

/-- IDENT. -/
def State.ident (s : State) : W64 := BitVec.ofNat 64 (0x0001612F * 2 ^ 32 + s.bootstat)

/-- SLSTAT of a slice (R87). -/
def Slice.slstat (x : Slice) : W64 :=
  BitVec.ofNat 64 (x.poisn + 2 ^ 8 * x.nretry + 2 ^ 24 * x.uflush + 2 ^ 40 * x.uncorr + 2 ^ 48 * x.corr)

/-- CLSTAT of a cluster (R390). -/
def State.clstat (s : State) (cl : Nat) : W64 :=
  let k := s.cluster cl
  let bias := if k.bias < 0 then 1 else if k.bias = 0 then 0 else 2
  let (lst, lstep) := match k.theLease with
    | some (l, on) => (if on then 1 else 2, l.lstep)
    | none => (0, 0)
  BitVec.ofNat 64 ((if k.dark then 2 ^ 5 else 0) + (if k.fb then 2 ^ 6 else 0) + 2 ^ 7 * lstep + 2 ^ 10 * lst + 2 ^ 12 * k.step +
    2 ^ 15 * s.stepCap cl + 2 ^ 18 * bias + 2 ^ 24 * (BitVec.ofInt 8 k.vt).toNat + 2 ^ 32 * k.floordn + 2 ^ 48 * k.sr)

/-- RGSTAT of a region (R390). -/
def Region.rgstat (g : Region) : W64 :=
  BitVec.ofNat 64 ((if g.ramp then 2 ^ 8 else 0) + (if g.on then 2 ^ 9 else 0) + 2 ^ 10 * g.mode + 2 ^ 12 * g.plive + 2 ^ 16 * g.vtgt +
    2 ^ 28 * g.vrail)

/-- Whether any queue has EN = 1. -/
def State.anyQueueOn (s : State) : Bool := (List.range 64).any fun q => hdrOn (s.queueHdr q) 128

/-- The writable fields of CLCFG (R390). -/
def clcfgMask : W64 := 0xFFFF1F81

/-- The counter words of the window by offset (R87, R400). -/
def State.countWord (s : State) (off : Nat) : W64 :=
  if 0x200000 ≤ off && off < 0x200080 then
    let h := (off - 0x200000) / 8
    BitVec.ofNat 64 (2 ^ 32 * SMap.getD s.hbmCorr h 0 + SMap.getD s.hbmUncorr h 0)
  else if 0x210000 ≤ off && off < 0x213000 then
    let x := s.slice ((off - 0x210000) / 16)
    if off % 16 = 0 then x.slstat else BitVec.ofNat 64 x.forced
  else if 0x280000 ≤ off && off < 0x298000 then BitVec.ofNat 64 (s.core ((off - 0x280000) / 8)).errors
  else if 0x300000 ≤ off && off < 0x300300 then (s.region ((off - 0x300000) / 8)).ngstat
  else 0

/-- Where a core's FAULT_OVF is remembered among the counter words; the window has no word of its own for it. -/
def ovfAt (c : Nat) : Nat := 0x280004 + 8 * c

/-- The counter words that are not 0. -/
def State.countWords (s : State) : SMap W64 :=
  let offs := (List.range 16).map (0x200000 + 8 * ·) ++
    s.slices.flatMap (fun e => [0x210000 + 16 * e.1, 0x210008 + 16 * e.1]) ++ s.cores.map (fun e => 0x280000 + 8 * e.1) ++
    s.regions.map fun e => 0x300000 + 8 * e.1
  let words := offs.map (fun o => (o, s.countWord o)) ++ s.cores.map fun e => (ovfAt e.1, e.2.faultOvf)
  words.foldl (fun m e => if e.2 = 0 then m else SMap.set m e.1 e.2) []

/-- What a field of a counter has counted in this tick. -/
def sinceTick (now base : W64) (lo n : Nat) : Nat := bits now lo n - bits base lo n

/-- A write of 0 to a counter word clears it, but for what has been counted in this tick (R400). The word of a core's errors clears its
FAULT_OVF as well (R378; DESIGN CHOICE, assumption log 41: the window shows no other word for it). -/
def State.clearCounter (s : State) (off : Nat) : State :=
  let f := sinceTick (s.countWord off) (SMap.getD s.counts off 0)
  if 0x200000 ≤ off && off < 0x200080 then
    let h := (off - 0x200000) / 8
    { s with hbmCorr := SMap.set s.hbmCorr h (f 32 32), hbmUncorr := SMap.set s.hbmUncorr h (f 0 32), counts := SMap.erase s.counts off }
  else if 0x210000 ≤ off && off < 0x213000 then
    let sl := (off - 0x210000) / 16
    let s := { s with counts := SMap.erase s.counts off }
    if off % 16 = 0 then s.modSlice sl fun x => { x with corr := f 48 16, uncorr := f 40 8, uflush := f 24 16, nretry := f 8 16, poisn := f 0 8 }
    else s.modSlice sl fun x => { x with forced := f 0 64 }
  else if 0x280000 ≤ off && off < 0x298000 then
    let c := (off - 0x280000) / 8
    { s with counts := SMap.erase (SMap.erase s.counts off) (ovfAt c) }.modCore c fun x =>
      { x with errors := f 0 64, faultOvf := x.faultOvf - SMap.getD s.counts (ovfAt c) 0 }
  else if 0x300000 ≤ off && off < 0x300300 then
    { s with counts := SMap.erase s.counts off }.modRegion ((off - 0x300000) / 8) fun g =>
      { g with lcorr := f 16 16, lpois := f 8 8, ldrop := f 0 8 }
  else s

/-- MGMT_REGISTER_WRITE: a 64-bit write into the management window stores the writable fields of its register. Before boot
completes well only IDENT, LIVEMAP, RESYNC and RESYNCBUF answer (R405). -/
def execMgmtRegisterWrite (off : Nat) (val : BitVec 64) (s : State) : Res :=
  if !decide (off < 2 ^ 24) then .fault .noSuchPlace
  else if !s.bar2 || off % 8 != 0 then .next s
  else if off = 0x8 then .next (if s.anyQueueOn then s else { s with qbase := val &&& 0xFFFFFFFF80 })
  else if off = 0x10 then .next (if s.anyQueueOn then s else { s with cbase := val &&& 0xFFFFFFFF80 })
  else if off = 0x18 then .next { s with tcMaster := val.getLsbD 2 }
  else if 0x100000 ≤ off && off < 0x10C000 && (off - 0x100000) % 32 = 0 then
    let cl := (off - 0x100000) / 32
    .next (s.modCluster cl fun k => { k with clcfg := val &&& clcfgMask })
  else .next (if val = 0 then s.clearCounter off else s)

/-! ## What the window reads as (R20, R390, R400) -/

/-- Bits 8i to 8i + 7 of a bitmap of listed numbers. -/
def mapByte (l : List Nat) (i : Nat) : Nat := (List.range 8).foldl (fun a b => if l.contains (8 * i + b) then a + 2 ^ b else a) 0

/-- Byte `i` of the live-map section (R20). -/
def Flash.byte (f : Flash) (i : Nat) : Nat :=
  let num := fun x k => x / 256 ^ k % 256
  match f.reserved.find? fun e => e.1 == i with
  | some e => e.2.toNat
  | none =>
  if i < 4 then num f.version i
  else if i < 6 then num f.liveCores (i - 4)
  else if i < 8 then num f.liveSlices (i - 6)
  else if i < 10 then num f.boxes.length (i - 8)
  else if i < 16 then 0
  else if i < 1552 then mapByte f.coreBad (i - 16)
  else if i < 3184 then mapByte f.bondBad (i - 1552)
  else if i < 3280 then mapByte f.sliceBad (i - 3184)
  else if i < 3792 then
    match f.boxes[(i - 3280) / 8]? with
    | some b => [b.x0, b.y0, b.z0, b.ex, b.ey, b.ez].getD ((i - 3280) % 8) 0
    | none => 0
  else 0

/-- Eight bytes as a word, from a function of the byte number. -/
def wordOf (f : Nat → Nat) (i : Nat) : W64 := BitVec.ofNat 64 ((List.range 8).foldr (fun k n => f (i + k) % 256 + 256 * n) 0)

/-- The word that a 64-bit read of the management window returns. Before boot completes well only IDENT, LIVEMAP, RESYNC
and RESYNCBUF answer (R405). -/
def State.mgmtRead (s : State) (off : Nat) : W64 :=
  if off = 0x0 then s.ident
  else if 0x10000 ≤ off && off < 0x10ED0 then
    if !s.booted || s.bootstat == 1 then 0 else wordOf s.flash.byte (off - 0x10000)
  else if off = 0x20 then s.resyncAddr ||| BitVec.ofNat 64 s.resyncSt
  else if 0x18000 ≤ off && off < 0x19080 then wordOf (fun i => (s.resyncBuf[i]?.getD 0).toNat) (off - 0x18000)
  else if !s.bar2 then 0
  else if off = 0x8 then s.qbase
  else if off = 0x10 then s.cbase
  else if off = 0x18 then s.tcstat
  else if off = 0x28 then BitVec.ofNat 64 (s.killCtx + if s.killBusy then 256 else 0)
  else if 0x100000 ≤ off && off < 0x10C000 then
    let cl := (off - 0x100000) / 32
    if off % 32 = 0 then (s.cluster cl).clcfg else if off % 32 = 8 then s.clstat cl else 0
  else if 0x10C000 ≤ off && off < 0x10CC00 then if off % 32 = 0 then (s.region ((off - 0x10C000) / 32)).rgstat else 0
  else s.countWord off

/-! ## RESYNC (R404) -/

/-- The live counts that LIVEMAP shows (R20, R405). -/
def State.liveWord (s : State) : Nat :=
  if !s.booted || s.bootstat == 1 then 0 else s.flash.liveCores % 65536 + 65536 * (s.flash.liveSlices % 65536)

/-- The strands that are halted. -/
def State.haltedCount (s : State) : Nat :=
  s.cores.foldl (fun n e => n + (e.2.strands.toList.filter fun t => t.run == RunState.halted).length) 0

/-- State and sign bits of a context as the record shows them. -/
def State.resyncCtx (s : State) (n : Nat) : Nat :=
  let x := s.context n
  let st := if x.st = 3 then 3 else if x.st = 2 then 2 else if x.onCores || s.runsLaunch n then 1 else 0
  let sign := fun k => if s.ctxLevel n k < 0 then 1 else 0
  (if s.ctxValid n then 1 else 0) + 2 * st + 8 * sign 0 + 16 * sign 1 + 32 * sign 2

/-- The 64-bit words of the record: 4,224 bytes. With `up` false the queue and context sections are zero (R405). -/
def State.resyncWords (s : State) (up : Bool) : List Nat :=
  let queue := fun q =>
    let h := s.queueHdr q
    if up then [hdrHead h, hdrDone h, hdrTail h, hdrFlags h + 2 ^ 32 * (s.queue q).lastStat] else [0, 0, 0, 0]
  [1 + 2 ^ 32 * s.bootstat, s.timecode.toNat, s.tcstat.toNat,
    s.liveWord + 2 ^ 32 * (s.fencedCount % 65536 + 65536 * (s.haltedCount % 65536)), s.meltWord.toNat] ++
    List.replicate 11 0 ++ (List.range 64).flatMap queue ++
    (List.range 256).map fun n => if up then s.resyncCtx n else 0

/-- RESYNC: a write sets ST to 1; the snapshot is that of the end of the tick. -/
def execResync (adr : BitVec 64) (s : State) : Res :=
  .next (if !s.booted || s.resyncSt = 1 then s else { s with resyncAddr := adr &&& 0xFFFFFFFF80, resyncSt := 1, resyncDue := true })

/-- The snapshot is taken at the end of the tick, and each line of the record is performed at its home; with BOOTSTAT ≠ 0 it goes to
RESYNCBUF, and nothing to memory (R405). -/
def State.resyncTake (s : State) : State :=
  if !s.resyncDue then s
  else
    let s := { s with resyncDue := false }
    if s.bootstat = 0 then
      let b := s.resyncWords true
      (List.range 33).foldl (fun s k =>
        s.devPut epHost (s.resyncAddr.toNat / 128 + k, false) (packLanes 64 ((b.drop (16 * k)).take 16)) (byteMask 0 128)) s
    else { s with resyncBuf := (s.resyncWords false).flatMap (leBytes 8 ·), resyncSt := 2, msix := s.msix ++ [64] }

/-! ## Peer links (R402, R403) -/

/-- The request that an access of a peer makes of a home, where it lies within one line (R85). -/
def peerReq (h : Nat) : PeerOp → Option MemReq
  | .write pa data =>
    if data.isEmpty || decide (128 < pa % 128 + data.length) || decide (2 ^ 40 ≤ pa) then none
    else some { op := .write, line := pa / 128, off := pa % 128, mask := byteMask (pa % 128) data.length
                data := BitVec.ofNat 1024 (bytesNum data) <<< (8 * (pa % 128)), who := .peer h, asid := none, px := none }
  | .read pa => if 2 ^ 40 ≤ pa then none else some { MemReq.plain .read (pa / 128) (.peer h) none with off := pa % 128 }

/-- PEER_FRAME: a frame brings the peer's timecode (R402), and with it an access to this device's memory, which joins the link's
stream (R85, R321). Until the boot ROM has verified the maps by which it would be routed nothing comes of a frame (R21, R405). -/
def execPeerFrame (h : Nat) (frame : PeerFrame) (s : State) : Res :=
  if !decide (h < 16) then .fault .noSuchPlace
  else if !s.running then .next s
  else
    let s := s.modEngine h fun x => { x with peerTc := some frame.tc, inq := x.inq ++ (frame.op.bind (peerReq h)).toList }
    .next (s.peerNext h)

/-- A slew within 200 ppm either way. -/
def clampSlew (x : Int) : Int := max (-200) (min 200 x)

/-- TIMECODE_CORRECTION: a follower's estimate of its offset in ps, and the slew in ppm with which it corrects; with no estimate, where the
link has lost frames, the offset is unknown and LOCK is 0. The timecode itself never steps: each tick stays one tick. -/
def execTimecodeCorrection (ofs : Option Int) (slew : Int) (s : State) : Res :=
  if s.tcMaster then .next s
  else
    match ofs with
    | none => .next { s with tcLock := false }
    | some ofs => .next { s with tcOfs := ofs, tcLock := decide (-5000 ≤ ofs) && decide (ofs ≤ 5000), tcSlew := clampSlew slew }

/-- Whether a transfer record has a bad field. -/
def transferIll (r : Vector W64 8) : Bool :=
  let w := fun k => (r[k]?.getD 0).toNat
  w 0 % 128 != 0 || w 1 % 128 != 0 || w 2 % 128 != 0 || w 3 % 8 != 0 || [4, 5, 6, 7].any (fun k => w k != 0) ||
    decide (2 ^ 40 < w 0 + w 2) || decide (2 ^ 40 < w 1 + w 2) || decide (2 ^ 40 ≤ w 3)

/-- Changes a field of an engine's header. -/
def State.enginePut (s : State) (h i x : Nat) : State := s.devPutNum (epOptical h) (s.engineAt h) (64 * (h % 2) + i) 8 x

/-- Ends a record: the completion word, and DONE. -/
def State.transferEnd (s : State) (h : Nat) (r : Vector W64 8) (v : W64) : State :=
  let dst := (r[3]?.getD 0).toNat
  let s := s.modEngine h fun x =>
    { x with transfer := none, done := 0, sent := if dst = 0 then x.sent else x.sent ++ [.word dst v] }
  s.enginePut h 40 (hdrDone (s.engineHdr h) + 1)

/-- TRANSFER_RECORD: an engine takes its next record, skipping an ill-formed one, or reads the next line of the present one at its home;
the line goes out to the peer when the answer comes (R403). -/
def execTransferRecord (h : Nat) (s : State) : Res :=
  if !decide (h < 16) then .fault .noSuchPlace
  else
    let a := s.engineHdr h
    match (s.engine h).transfer with
    | some r =>
      let k := (s.engine h).done
      if (r[2]?.getD 0).toNat ≤ 128 * k then .next s
      else
        if (s.engine h).reading then .next s
        else
          let ln := ((r[1]?.getD 0).toNat + 128 * k) / 128
          .next ((s.modEngine h fun x => { x with reading := true }).request (epOptical h) (epSlice (s.homeOf ln)) 0 1 0
            (.mem (.plain .read ln (.xfer h) none)))
    | none =>
      let k := hdrHead a
      let at_ := hdrRing a + 64 * (k % hdrSize a)
      let l : List DevAt := [(physLine at_, false)]
      if !s.running || !hdrOn a 64 || !decide (k < hdrTail a) then .next s
      else if !s.devHave (epOptical h) l then .next (s.devWant (epOptical h) none l)
      else
        let d := s.devData (epOptical h) (physLine at_, false)
        let r : Vector W64 8 := Vector.ofFn fun i => lineWord64 d (at_ % 128 / 8 + i.val)
        let s := (s.devUsed (epOptical h) l).enginePut h 32 (k + 1)
        .next (if transferIll r then s.transferEnd h r 0xFFFFFFFFFFFFFFFF
          else s.modEngine h fun x => { x with transfer := some r, done := 0 })

/-- COMPLETION_WORD_WRITE: once the last line has been performed, the peer writes the engine's timecode. -/
def execCompletionWordWrite (h : Nat) (s : State) : Res :=
  if !decide (h < 16) then .fault .noSuchPlace
  else
    match (s.engine h).transfer with
    | some r => .next (if (r[2]?.getD 0).toNat ≤ 128 * (s.engine h).done then s.transferEnd h r s.timecode else s)
    | none => .next s

/-! ## The end of a tick -/

/-- What the end of a tick settles: launches that a cause has ended are killed (R382), leases end (R397), core time is charged and contexts
without a level leave their cores (R367, R368), and RESYNC takes its snapshot (R404). Then the timecode advances (R166), and gang launches
whose START has come start (R365). -/
def State.tickEnd (s : State) : State :=
  let s := ((s.killsDue.leasesEnd).chargeTick).resyncTake
  State.startGangs { s with timecode := s.timecode + 1, counts := s.countWords }

end Sys2Proof.Machine
end

