-- ==== Sys2Proof/Machine/Scalar.lean ====
section
/-!
DEFINITION. The scalar instructions: constants, integer arithmetic and scalar floating point (R238 to R255).
-/

namespace Sys2Proof.Machine

/-- An integer instruction of two sources (R238, R243 to R247). -/
def intInstr (op : IOp) (px : PxSpec) (x : T2) (s : State) : Res :=
  .next (s.begin_ px false x.p fun d =>
    let ty := d.srcTy x.ty
    let r := intOp op ty d.sat (s.me.src x.imm x.a).toNat (s.me.src x.imm x.b).toNat
    s.finish (·.write x.d (ext64 (etySigned ty) (etyWidth ty) r)))

/-- A float instruction of two sources (R238, R252, R253). -/
def fltInstr (op : FOp) (px : PxSpec) (x : T2) (s : State) : Res :=
  .next (s.begin_ px false x.p fun d =>
    let w := etyWidth x.ty
    let r := fltOp op (etyFmt x.ty) (s.me.fenv d) ((s.me.src x.imm x.a).toNat % 2 ^ w) ((s.me.src x.imm x.b).toNat % 2 ^ w)
    s.finish fun t => (t.addFlags r.fl).write x.d (BitVec.ofNat 64 r.bits))

/-- A count of bits, zero-extended (R250). -/
def countInstr (f : Nat → Nat → Nat) (x : T1) (s : State) : Res :=
  .next (s.begin_ .narrow false x.p fun d =>
    let w := etyWidth (d.srcTy x.ty)
    s.finish (·.write x.d (BitVec.ofNat 64 (f w ((s.me.src x.imm x.a).toNat % 2 ^ w)))))

/-- A comparison's truth value (R248, R254). -/
def cmpInstr (px : PxSpec) (x : C2) (s : State) : Res :=
  .next (s.begin_ px false x.p fun d =>
    let ty := d.srcTy x.ty
    let w := etyWidth ty
    let (r, fl) := cmpTy ty x.cond s.me.ftz ((s.me.src x.imm x.a).toNat % 2 ^ w) ((s.me.src x.imm x.b).toNat % 2 ^ w)
    s.finish fun t => (t.addFlags fl).write x.d (if r then 1 else 0))

/-- R242. -/
def execNop (s : State) : Res := .next (s.begin_ .no false ⟨0, false⟩ fun _ => s.retire)

/-- R242. -/
def execMovi (d : Opd) (val : W48) (p : Pred) (s : State) : Res :=
  .next (s.begin_ .no false p fun _ => s.finish (·.write d (val.signExtend 64)))

/-- R242. -/
def execMovhi (d : Opd) (val : BitVec 16) (p : Pred) (s : State) : Res :=
  .next (s.begin_ .no false p fun _ =>
    s.finish (·.write d ((val.setWidth 64 <<< 48) ||| (s.me.src 0 d &&& 0xFFFFFFFFFFFF))))

/-- R243. -/
def execAdd (x : T2) (s : State) : Res := intInstr .add .narrowSat x s

/-- R243. -/
def execSub (x : T2) (s : State) : Res := intInstr .sub .narrowSat x s

/-- R243. -/
def execMul (x : T2) (s : State) : Res := intInstr .mul .narrowSat x s

/-- R243. -/
def execMulh (x : T2) (s : State) : Res := intInstr .mulh .narrow x s

/-- R244. -/
def execDiv (x : T2) (s : State) : Res := intInstr .div .narrow x s

/-- R244. -/
def execRem (x : T2) (s : State) : Res := intInstr .rem .narrow x s

/-- R245. -/
def execAnd (x : T2) (s : State) : Res := intInstr .and .narrow x s

/-- R245. -/
def execOr (x : T2) (s : State) : Res := intInstr .or .narrow x s

/-- R245. -/
def execXor (x : T2) (s : State) : Res := intInstr .xor .narrow x s

/-- R245. -/
def execAndn (x : T2) (s : State) : Res := intInstr .andn .narrow x s

/-- R246. -/
def execShl (x : T2) (s : State) : Res := intInstr .shl .narrow x s

/-- R246. -/
def execShr (x : T2) (s : State) : Res := intInstr .shr .narrow x s

/-- R246. -/
def execSar (x : T2) (s : State) : Res := intInstr .sar .narrow x s

/-- R246. -/
def execRot (x : T2) (s : State) : Res := intInstr .rot .narrow x s

/-- R247. -/
def execMin (x : T2) (s : State) : Res := intInstr .min .narrow x s

/-- R247. -/
def execMax (x : T2) (s : State) : Res := intInstr .max .narrow x s

/-- R248. -/
def execCmp (x : C2) (s : State) : Res := cmpInstr .narrow x s

/-- R249. -/
def execSel (x : R3) (s : State) : Res :=
  .next (s.begin_ .no false x.p fun _ =>
    s.finish (·.write x.d (if (s.me.src x.imm x.a).getLsbD 0 then s.me.src x.imm x.b else s.me.src x.imm x.c)))

/-- R250. -/
def execClz (x : T1) (s : State) : Res := countInstr clzN x s

/-- R250. -/
def execPopc (x : T1) (s : State) : Res := countInstr popcN x s

/-- R250: the reversed bits are extended by the type. -/
def execBrev (x : T1) (s : State) : Res :=
  .next (s.begin_ .narrow false x.p fun d =>
    let ty := d.srcTy x.ty
    s.finish (·.write x.d (ext64 (etySigned ty) (etyWidth ty) (brevN (etyWidth ty) (s.me.src x.imm x.a).toNat))))

/-- R251. -/
def execExt (x : Bf) (s : State) : Res :=
  .next (s.begin_ .no false x.p fun _ =>
    s.finish (·.write x.d (ext64 x.sgn (x.len1 + 1) ((s.me.src 0 x.a).toNat / 2 ^ x.pos.toNat))))

/-- R251. -/
def execIns (x : Bf) (s : State) : Res :=
  .next (s.begin_ .no false x.p fun _ =>
    s.finish (·.write x.d (putBits (s.me.src 0 x.d) x.pos (x.len1 + 1) (s.me.src 0 x.a).toNat)))

/-- R252. -/
def execFadd (x : T2) (s : State) : Res := fltInstr .add .round x s

/-- R252. -/
def execFsub (x : T2) (s : State) : Res := fltInstr .sub .round x s

/-- R252. -/
def execFmul (x : T2) (s : State) : Res := fltInstr .mul .round x s

/-- R252. -/
def execFdiv (x : T2) (s : State) : Res := fltInstr .div .round x s

/-- R252. -/
def execFma (x : T3) (s : State) : Res :=
  .next (s.begin_ .round false x.p fun d =>
    let w := etyWidth x.ty
    let v := fun o => (s.me.src x.imm o).toNat % 2 ^ w
    let r := fmaF (etyFmt x.ty) (s.me.fenv d) (v x.a) (v x.b) (v x.c)
    s.finish fun t => (t.addFlags r.fl).write x.d (BitVec.ofNat 64 r.bits))

/-- R252. -/
def execFsqrt (x : T1) (s : State) : Res :=
  .next (s.begin_ .round false x.p fun d =>
    let r := sqrtF (etyFmt x.ty) (s.me.fenv d) ((s.me.src x.imm x.a).toNat % 2 ^ etyWidth x.ty)
    s.finish fun t => (t.addFlags r.fl).write x.d (BitVec.ofNat 64 r.bits))

/-- R253. -/
def execFmin (x : T2) (s : State) : Res := fltInstr .min .nothing x s

/-- R253. -/
def execFmax (x : T2) (s : State) : Res := fltInstr .max .nothing x s

/-- R254. -/
def execFcmp (x : C2) (s : State) : Res := cmpInstr .nothing x s

/-- The prefixes that a conversion takes (R239, R265): SAT with an integer destination, REN with a float type. -/
def cvtPx (d : Desc) (src dst : ETy) : PxSpec :=
  let a := d.srcTy src
  let b := d.dstTy dst
  ⟨true, [.i8, .ui8], [.i8, .ui8], false, !b.isFlt, a.isFlt || b.isFlt⟩

/-- R255. -/
def execCvt (x : Cv) (s : State) : Res :=
  .next (s.begin_ (cvtPx s.me.desc x.src x.dst) false x.p fun d =>
    let a := d.srcTy x.src
    let b := d.dstTy x.dst
    let r := cvtElem (s.me.fenv d) d.sat a b (s.me.src x.imm x.a).toNat
    s.finish fun t => (t.addFlags r.fl).write x.d (ext64 (etySigned b) (etyWidth b) r.bits))

end Sys2Proof.Machine
end

