-- ==== Sys2Proof/Machine/Dispatch.lean ====
section
/-!
DEFINITION. The meaning of every instruction: one arm for each constructor of Instr.
-/

namespace Sys2Proof.Machine

/-- The effect of an instruction of the strand whose turn it is, or of a step of another agent. -/
def exec (i : Instr) (s : State) : Host.Outcome State Fault Refusal :=
  match i with
  | .nop => Sys2Proof.Machine.execNop s
  | .movi d val p => Sys2Proof.Machine.execMovi d val p s
  | .movhi d val p => Sys2Proof.Machine.execMovhi d val p s
  | .add x => Sys2Proof.Machine.execAdd x s
  | .sub x => Sys2Proof.Machine.execSub x s
  | .mul x => Sys2Proof.Machine.execMul x s
  | .mulh x => Sys2Proof.Machine.execMulh x s
  | .div x => Sys2Proof.Machine.execDiv x s
  | .rem x => Sys2Proof.Machine.execRem x s
  | .and x => Sys2Proof.Machine.execAnd x s
  | .or x => Sys2Proof.Machine.execOr x s
  | .xor x => Sys2Proof.Machine.execXor x s
  | .andn x => Sys2Proof.Machine.execAndn x s
  | .shl x => Sys2Proof.Machine.execShl x s
  | .shr x => Sys2Proof.Machine.execShr x s
  | .sar x => Sys2Proof.Machine.execSar x s
  | .rot x => Sys2Proof.Machine.execRot x s
  | .min x => Sys2Proof.Machine.execMin x s
  | .max x => Sys2Proof.Machine.execMax x s
  | .cmp x => Sys2Proof.Machine.execCmp x s
  | .sel x => Sys2Proof.Machine.execSel x s
  | .clz x => Sys2Proof.Machine.execClz x s
  | .popc x => Sys2Proof.Machine.execPopc x s
  | .brev x => Sys2Proof.Machine.execBrev x s
  | .ext x => Sys2Proof.Machine.execExt x s
  | .ins x => Sys2Proof.Machine.execIns x s
  | .fadd x => Sys2Proof.Machine.execFadd x s
  | .fsub x => Sys2Proof.Machine.execFsub x s
  | .fmul x => Sys2Proof.Machine.execFmul x s
  | .fma x => Sys2Proof.Machine.execFma x s
  | .fdiv x => Sys2Proof.Machine.execFdiv x s
  | .fsqrt x => Sys2Proof.Machine.execFsqrt x s
  | .fmin x => Sys2Proof.Machine.execFmin x s
  | .fmax x => Sys2Proof.Machine.execFmax x s
  | .fcmp x => Sys2Proof.Machine.execFcmp x s
  | .cvt x => Sys2Proof.Machine.execCvt x s
  | .br tgt p => Sys2Proof.Machine.execBr tgt p s
  | .brc x => Sys2Proof.Machine.execBrc x s
  | .call tgt p => Sys2Proof.Machine.execCall tgt p s
  | .ret p => Sys2Proof.Machine.execRet p s
  | .jmp a p => Sys2Proof.Machine.execJmp a p s
  | .jmpL a p => Sys2Proof.Machine.execJmpL a p s
  | .loop a tgt p => Sys2Proof.Machine.execLoop a tgt p s
  | .nexti tgt p => Sys2Proof.Machine.execNexti tgt p s
  | .fmt desc => Sys2Proof.Machine.execFmt desc s
  | .vadd x => Sys2Proof.Machine.execVadd x s
  | .vsub x => Sys2Proof.Machine.execVsub x s
  | .vmul x => Sys2Proof.Machine.execVmul x s
  | .vmulH x => Sys2Proof.Machine.execVmulH x s
  | .vfma x => Sys2Proof.Machine.execVfma x s
  | .vmin x => Sys2Proof.Machine.execVmin x s
  | .vmax x => Sys2Proof.Machine.execVmax x s
  | .vabs x => Sys2Proof.Machine.execVabs x s
  | .vneg x => Sys2Proof.Machine.execVneg x s
  | .vand x => Sys2Proof.Machine.execVand x s
  | .vandN x => Sys2Proof.Machine.execVandN x s
  | .vor x => Sys2Proof.Machine.execVor x s
  | .vxor x => Sys2Proof.Machine.execVxor x s
  | .vshl x => Sys2Proof.Machine.execVshl x s
  | .vshr x => Sys2Proof.Machine.execVshr x s
  | .vsar x => Sys2Proof.Machine.execVsar x s
  | .vcmp x => Sys2Proof.Machine.execVcmp x s
  | .vsel x => Sys2Proof.Machine.execVsel x s
  | .vcvt x => Sys2Proof.Machine.execVcvt x s
  | .vrcp x => Sys2Proof.Machine.execVrcp x s
  | .vrsq x => Sys2Proof.Machine.execVrsq x s
  | .vsqrt x => Sys2Proof.Machine.execVsqrt x s
  | .vexp2 x => Sys2Proof.Machine.execVexp2 x s
  | .vlog2 x => Sys2Proof.Machine.execVlog2 x s
  | .vtanh x => Sys2Proof.Machine.execVtanh x s
  | .vreduce x => Sys2Proof.Machine.execVreduce x s
  | .vscan x => Sys2Proof.Machine.execVscan x s
  | .vperm x => Sys2Proof.Machine.execVperm x s
  | .vrot x => Sys2Proof.Machine.execVrot x s
  | .vbcast x => Sys2Proof.Machine.execVbcast x s
  | .vextr x => Sys2Proof.Machine.execVextr x s
  | .vinsl x => Sys2Proof.Machine.execVinsl x s
  | .viota x => Sys2Proof.Machine.execViota x s
  | .vmov x => Sys2Proof.Machine.execVmov x s
  | .vcompress x => Sys2Proof.Machine.execVcompress x s
  | .vexpand x => Sys2Proof.Machine.execVexpand x s
  | .vrns x => Sys2Proof.Machine.execVrns x s
  | .vcrt x => Sys2Proof.Machine.execVcrt x s
  | .vradd x => Sys2Proof.Machine.execVradd x s
  | .vraddSub x => Sys2Proof.Machine.execVraddSub x s
  | .vrmul x => Sys2Proof.Machine.execVrmul x s
  | .kopAnd x => Sys2Proof.Machine.execKopAnd x s
  | .kopOr x => Sys2Proof.Machine.execKopOr x s
  | .kopXor x => Sys2Proof.Machine.execKopXor x s
  | .kopAndn x => Sys2Proof.Machine.execKopAndn x s
  | .kopNot x => Sys2Proof.Machine.execKopNot x s
  | .kmov x => Sys2Proof.Machine.execKmov x s
  | .kpop x => Sys2Proof.Machine.execKpop x s
  | .ld x => Sys2Proof.Machine.execLd x s
  | .st x => Sys2Proof.Machine.execSt x s
  | .stP x => Sys2Proof.Machine.execStP x s
  | .ldv x => Sys2Proof.Machine.execLdv x s
  | .stv x => Sys2Proof.Machine.execStv x s
  | .ldvs x => Sys2Proof.Machine.execLdvs x s
  | .stvs x => Sys2Proof.Machine.execStvs x s
  | .gather x => Sys2Proof.Machine.execGather x s
  | .scatter x => Sys2Proof.Machine.execScatter x s
  | .pref x => Sys2Proof.Machine.execPref x s
  | .prefPx x => Sys2Proof.Machine.execPrefPx x s
  | .cinv x => Sys2Proof.Machine.execCinv x s
  | .cinvData p => Sys2Proof.Machine.execCinvData p s
  | .cinvInstr p => Sys2Proof.Machine.execCinvInstr p s
  | .cinvAll p => Sys2Proof.Machine.execCinvAll p s
  | .cwb x => Sys2Proof.Machine.execCwb x s
  | .bmode mode bank p => Sys2Proof.Machine.execBmode mode bank p s
  | .qpush x => Sys2Proof.Machine.execQpush x s
  | .qpop x => Sys2Proof.Machine.execQpop x s
  | .qfree d p => Sys2Proof.Machine.execQfree d p s
  | .qfreeAddr d p => Sys2Proof.Machine.execQfreeAddr d p s
  | .tdef t a off p => Sys2Proof.Machine.execTdef t a off p s
  | .tfill t p => Sys2Proof.Machine.execTfill t p s
  | .tdrain t p => Sys2Proof.Machine.execTdrain t p s
  | .trel t p => Sys2Proof.Machine.execTrel t p s
  | .tstat d t p => Sys2Proof.Machine.execTstat d t p s
  | .tstatTime d t p => Sys2Proof.Machine.execTstatTime d t p s
  | .tldv d row col t p => Sys2Proof.Machine.execTldv d row col t p s
  | .tstv row col data t p => Sys2Proof.Machine.execTstv row col data t p s
  | .tupd x => Sys2Proof.Machine.execTupd x s
  | .tupdv x => Sys2Proof.Machine.execTupdv x s
  | .logt d x => Sys2Proof.Machine.execLogt d x s
  | .logtRet a p => Sys2Proof.Machine.execLogtRet a p s
  | .tlogQuery d a p => Sys2Proof.Machine.execTlogQuery d a p s
  | .tlogCompact d a p => Sys2Proof.Machine.execTlogCompact d a p s
  | .tlogSync d a p => Sys2Proof.Machine.execTlogSync d a p s
  | .cpyG2l x => Sys2Proof.Machine.execCpyG2l x s
  | .cpyL2g x => Sys2Proof.Machine.execCpyL2g x s
  | .cpyL2r x => Sys2Proof.Machine.execCpyL2r x s
  | .cpyMcast x => Sys2Proof.Machine.execCpyMcast x s
  | .cpyRedc x => Sys2Proof.Machine.execCpyRedc x s
  | .cpyq d clr word id p => Sys2Proof.Machine.execCpyq d clr word id p s
  | .oclaim o t p => Sys2Proof.Machine.execOclaim o t p s
  | .ofill t src p => Sys2Proof.Machine.execOfill t src p s
  | .orels o p => Sys2Proof.Machine.execOrels o p s
  | .subs base shp t rn1 sid p => Sys2Proof.Machine.execSubs base shp t rn1 sid p s
  | .unsubs sid p => Sys2Proof.Machine.execUnsubs sid p s
  | .grpset n a p => Sys2Proof.Machine.execGrpset n a p s
  | .wait l s_ c t p => Sys2Proof.Machine.execWait l s_ c t p s
  | .fence scope later earlier p => Sys2Proof.Machine.execFence scope later earlier p s
  | .amo x => Sys2Proof.Machine.execAmo x s
  | .red x => Sys2Proof.Machine.execRed x s
  | .mma x => Sys2Proof.Machine.execMma x s
  | .mmz d fill p => Sys2Proof.Machine.execMmz d fill p s
  | .amov d a p => Sys2Proof.Machine.execAmov d a p s
  | .amovV d a r p => Sys2Proof.Machine.execAmovV d a r p s
  | .amovA d a r p => Sys2Proof.Machine.execAmovA d a r p s
  | .ald d x => Sys2Proof.Machine.execAld d x s
  | .adrn clr a b c ssa ssb off p => Sys2Proof.Machine.execAdrn clr a b c ssa ssb off p s
  | .aclaim d p => Sys2Proof.Machine.execAclaim d p s
  | .arels d p => Sys2Proof.Machine.execArels d p s
  | .uprog i32 a b ns p => Sys2Proof.Machine.execUprog i32 a b ns p s
  | .mmu x => Sys2Proof.Machine.execMmu x s
  | .arv scope other m ch p => Sys2Proof.Machine.execArv scope other m ch p s
  | .wtb scope ch p => Sys2Proof.Machine.execWtb scope ch p s
  | .btst sel d ch p => Sys2Proof.Machine.execBtst sel d ch p s
  | .bcfg a ch p => Sys2Proof.Machine.execBcfg a ch p s
  | .bcfgGrp a b ch p => Sys2Proof.Machine.execBcfgGrp a b ch p s
  | .spawn a p => Sys2Proof.Machine.execSpawn a p s
  | .take d p => Sys2Proof.Machine.execTake d p s
  | .suspend a tgt p => Sys2Proof.Machine.execSuspend a tgt p s
  | .done p => Sys2Proof.Machine.execDone p s
  | .yield tgt p => Sys2Proof.Machine.execYield tgt p s
  | .sprint d a p => Sys2Proof.Machine.execSprint d a p s
  | .lease d p => Sys2Proof.Machine.execLease d p s
  | .leaseExp d p => Sys2Proof.Machine.execLeaseExp d p s
  | .leaseRel d p => Sys2Proof.Machine.execLeaseRel d p s
  | .trap code p => Sys2Proof.Machine.execTrap code p s
  | .eret p => Sys2Proof.Machine.execEret p s
  | .sysr d reg p => Sys2Proof.Machine.execSysr d reg p s
  | .sysw a reg p => Sys2Proof.Machine.execSysw a reg p s
  | .tlbinv a p => Sys2Proof.Machine.execTlbinv a p s
  | .tlbinvPg a b p => Sys2Proof.Machine.execTlbinvPg a b p s
  | .brk code p => Sys2Proof.Machine.execBrk code p s
  | .timec d p => Sys2Proof.Machine.execTimec d p s
  | .timecWait d a p => Sys2Proof.Machine.execTimecWait d a p s
  | .halt p => Sys2Proof.Machine.execHalt p s
  | .coreReset c => Sys2Proof.Machine.execCoreReset c s
  | .boot => Sys2Proof.Machine.execBoot s
  | .instructionLineFill c s_ => Sys2Proof.Machine.execInstructionLineFill c s_ s
  | .routerCycle c errs => Sys2Proof.Machine.execRouterCycle c errs s
  | .injectionStarvation c => Sys2Proof.Machine.execInjectionStarvation c s
  | .messageDelivery uid => Sys2Proof.Machine.execMessageDelivery uid s
  | .netGovernorWindow r => Sys2Proof.Machine.execNetGovernorWindow r s
  | .netStepChange r => Sys2Proof.Machine.execNetStepChange r s
  | .ticketRetryResend uid => Sys2Proof.Machine.execTicketRetryResend uid s
  | .freshResend uid => Sys2Proof.Machine.execFreshResend uid s
  | .ticketCancel uid => Sys2Proof.Machine.execTicketCancel uid s
  | .ticketAbandon res => Sys2Proof.Machine.execTicketAbandon res s
  | .nackRetryReceived uid => Sys2Proof.Machine.execNackRetryReceived uid s
  | .homeRead uid => Sys2Proof.Machine.execHomeRead uid s
  | .homeWrite uid => Sys2Proof.Machine.execHomeWrite uid s
  | .homeRed uid => Sys2Proof.Machine.execHomeRed uid s
  | .uGrantRequest uid => Sys2Proof.Machine.execUGrantRequest uid s
  | .hbmLineFill ln => Sys2Proof.Machine.execHbmLineFill ln s
  | .victimWritebackDone ln => Sys2Proof.Machine.execVictimWritebackDone ln s
  | .invalidationAck uid => Sys2Proof.Machine.execInvalidationAck uid s
  | .recallFold ln => Sys2Proof.Machine.execRecallFold ln s
  | .partialFlush uid => Sys2Proof.Machine.execPartialFlush uid s
  | .proxyLoad uid => Sys2Proof.Machine.execProxyLoad uid s
  | .proxyStore uid => Sys2Proof.Machine.execProxyStore uid s
  | .proxyRed uid => Sys2Proof.Machine.execProxyRed uid s
  | .proxyAmo uid => Sys2Proof.Machine.execProxyAmo uid s
  | .proxyFillAnswer uid => Sys2Proof.Machine.execProxyFillAnswer uid s
  | .proxyGrantAnswer uid => Sys2Proof.Machine.execProxyGrantAnswer uid s
  | .proxyInvalidation uid => Sys2Proof.Machine.execProxyInvalidation uid s
  | .proxyRecall uid => Sys2Proof.Machine.execProxyRecall uid s
  | .hostWrite pa data stream => Sys2Proof.Machine.execHostWrite pa data stream s
  | .hostRead pa n => Sys2Proof.Machine.execHostRead pa n s
  | .windowAccess uid => Sys2Proof.Machine.execWindowAccess uid s
  | .loadResponse uid => Sys2Proof.Machine.execLoadResponse uid s
  | .storeAnswer uid => Sys2Proof.Machine.execStoreAnswer uid s
  | .amoAnswer uid => Sys2Proof.Machine.execAmoAnswer uid s
  | .postedAck uid => Sys2Proof.Machine.execPostedAck uid s
  | .postedFinalRefusal uid => Sys2Proof.Machine.execPostedFinalRefusal uid s
  | .qpushArrival uid => Sys2Proof.Machine.execQpushArrival uid s
  | .qpushAck uid => Sys2Proof.Machine.execQpushAck uid s
  | .bmodeComplete c bank => Sys2Proof.Machine.execBmodeComplete c bank s
  | .tlbWalkProbe wid => Sys2Proof.Machine.execTlbWalkProbe wid s
  | .faultMailboxPush uid => Sys2Proof.Machine.execFaultMailboxPush uid s
  | .faultReply c idx => Sys2Proof.Machine.execFaultReply c idx s
  | .tlbBump bid c => Sys2Proof.Machine.execTlbBump bid c s
  | .bumpAck bid c => Sys2Proof.Machine.execBumpAck bid c s
  | .copyDestWrite uid => Sys2Proof.Machine.execCopyDestWrite uid s
  | .copyWriteAck uid => Sys2Proof.Machine.execCopyWriteAck uid s
  | .redcContribution uid => Sys2Proof.Machine.execRedcContribution uid s
  | .fillDataMessage uid => Sys2Proof.Machine.execFillDataMessage uid s
  | .drainComplete c t => Sys2Proof.Machine.execDrainComplete c t s
  | .loaderPushStart c sid => Sys2Proof.Machine.execLoaderPushStart c sid s
  | .grpsetTimeout c s_ => Sys2Proof.Machine.execGrpsetTimeout c s_ s
  | .matrixOpStart c pipe => Sys2Proof.Machine.execMatrixOpStart c pipe s
  | .matrixOpEnd c op => Sys2Proof.Machine.execMatrixOpEnd c op s
  | .scTicketGrant seqr => Sys2Proof.Machine.execScTicketGrant seqr s
  | .clusterSequencerIntake cl => Sys2Proof.Machine.execClusterSequencerIntake cl s
  | .logtIdRequest c s_ => Sys2Proof.Machine.execLogtIdRequest c s_ s
  | .logUpdate uid => Sys2Proof.Machine.execLogUpdate uid s
  | .logmark uid => Sys2Proof.Machine.execLogmark uid s
  | .logclear uid => Sys2Proof.Machine.execLogclear uid s
  | .pull uid => Sys2Proof.Machine.execPull uid s
  | .pullResponse uid => Sys2Proof.Machine.execPullResponse uid s
  | .unpull uid => Sys2Proof.Machine.execUnpull uid s
  | .logOpen uid => Sys2Proof.Machine.execLogOpen uid s
  | .logClose uid => Sys2Proof.Machine.execLogClose uid s
  | .forwardedEntry uid => Sys2Proof.Machine.execForwardedEntry uid s
  | .lockingRead uid => Sys2Proof.Machine.execLockingRead uid s
  | .storerApplyWrite rec => Sys2Proof.Machine.execStorerApplyWrite rec s
  | .storerDone rec => Sys2Proof.Machine.execStorerDone rec s
  | .barrierArrival c s_ => Sys2Proof.Machine.execBarrierArrival c s_ s
  | .groupRelease ch gix => Sys2Proof.Machine.execGroupRelease ch gix s
  | .nodeRelease c ch => Sys2Proof.Machine.execNodeRelease c ch s
  | .cocoonPickup c s_ => Sys2Proof.Machine.execCocoonPickup c s_ s
  | .parkedDispatch q => Sys2Proof.Machine.execParkedDispatch q s
  | .spawnAccept c s_ => Sys2Proof.Machine.execSpawnAccept c s_ s
  | .splitApply c s_ => Sys2Proof.Machine.execSplitApply c s_ s
  | .queueHeaderNotify q => Sys2Proof.Machine.execQueueHeaderNotify q s
  | .launchTake q => Sys2Proof.Machine.execLaunchTake q s
  | .launchStart q => Sys2Proof.Machine.execLaunchStart q s
  | .launchEnd q => Sys2Proof.Machine.execLaunchEnd q s
  | .contextLevelIncrement ctx => Sys2Proof.Machine.execContextLevelIncrement ctx s
  | .timeSliceExpiry ctx => Sys2Proof.Machine.execTimeSliceExpiry ctx s
  | .energyMeterWindow r uj => Sys2Proof.Machine.execEnergyMeterWindow r uj s
  | .resizeRequest ctx => Sys2Proof.Machine.execResizeRequest ctx s
  | .resizeMove ctx => Sys2Proof.Machine.execResizeMove ctx s
  | .watchdogW1 q => Sys2Proof.Machine.execWatchdogW1 q s
  | .watchdogW2 q => Sys2Proof.Machine.execWatchdogW2 q s
  | .watchdogW3 q => Sys2Proof.Machine.execWatchdogW3 q s
  | .asyncDelivery c s_ => Sys2Proof.Machine.execAsyncDelivery c s_ s
  | .preemption ctx c => Sys2Proof.Machine.execPreemption ctx c s
  | .resumeRestore ctx c => Sys2Proof.Machine.execResumeRestore ctx c s
  | .clusterGovernorWindow cl cyc stl => Sys2Proof.Machine.execClusterGovernorWindow cl cyc stl s
  | .clusterStepChange cl => Sys2Proof.Machine.execClusterStepChange cl s
  | .phaseLoss r lost => Sys2Proof.Machine.execPhaseLoss r lost s
  | .fallbackFailure cl => Sys2Proof.Machine.execFallbackFailure cl s
  | .regionSwitchOn r heavy => Sys2Proof.Machine.execRegionSwitchOn r heavy s
  | .rampEnd r => Sys2Proof.Machine.execRampEnd r s
  | .meltPublish melt => Sys2Proof.Machine.execMeltPublish melt s
  | .leaseEnergyWindow cl nj => Sys2Proof.Machine.execLeaseEnergyWindow cl nj s
  | .leaseExpiry cl => Sys2Proof.Machine.execLeaseExpiry cl s
  | .killctx ctx => Sys2Proof.Machine.execKillctx ctx s
  | .resync adr => Sys2Proof.Machine.execResync adr s
  | .restart c s_ => Sys2Proof.Machine.execRestart c s_ s
  | .mgmtRegisterWrite off val => Sys2Proof.Machine.execMgmtRegisterWrite off val s
  | .peerFrame h frame => Sys2Proof.Machine.execPeerFrame h frame s
  | .timecodeCorrection ofs slew => Sys2Proof.Machine.execTimecodeCorrection ofs slew s
  | .transferRecord h => Sys2Proof.Machine.execTransferRecord h s
  | .completionWordWrite h => Sys2Proof.Machine.execCompletionWordWrite h s
  | .coreTimeCharge c => Sys2Proof.Machine.execCoreTimeCharge c s
  | .timecodeWaitExpiry c s_ => Sys2Proof.Machine.execTimecodeWaitExpiry c s_ s
  | .rangeStopTimeout c s_ => Sys2Proof.Machine.execRangeStopTimeout c s_ s
  | .sprintRequest c s_ => Sys2Proof.Machine.execSprintRequest c s_ s
  | .ofillComplete c t => Sys2Proof.Machine.execOfillComplete c t s
  | .openGrant uid => Sys2Proof.Machine.execOpenGrant uid s
  | .logmarkAck uid => Sys2Proof.Machine.execLogmarkAck uid s
  | .lineHomeLogEntry uid => Sys2Proof.Machine.execLineHomeLogEntry uid s
  | .forwardedEntryAck uid => Sys2Proof.Machine.execForwardedEntryAck uid s
  | .hostCompletion c s_ => Sys2Proof.Machine.execHostCompletion c s_ s

end Sys2Proof.Machine
end

