-- ==== Sys2Proof/Machine/Step.lean ====
section
/-!
DEFINITION. One step of the device: the turn at the head of the agenda, or a default one (DESIGN CHOICE, assumption log 5).
Readings: DESIGN CHOICE, assumption log 19, 20.
-/

namespace Sys2Proof.Machine

/-- Whether a strand's turn does anything (R23, R356, R370, R379, R405). -/
def State.canRun (s : State) (c i : Nat) : Bool :=
  s.coreUp c && !(s.core c).fenced && (s.strand c i).run == .running && !(s.strand c i).saved

/-- The state in which the strand whose turn it is no longer holds an interrupt off: it issues its instruction again, and
only the instruction says whether it blocks it so (R379). -/
def State.freed (s : State) : State :=
  match s.me.wait with
  | .hold => s.modMe fun t => { t with wait := .no }
  | _ => s

/-- A strand's turn: the asynchronous cause due at its boundary, the rest of a posted operation, or its instruction. -/
def strandTurn (c i : Nat) (s : State) : Res :=
  if !(decide (c < 12288) && decide (i < 4)) then .fault .noSuchPlace
  else if !s.canRun c i then .next s
  else
    let s := { s with cur := (c, i) }
    match s.asyncDeliver c i with
    | some s => .next s
    | none =>
      match (s.strand c i).wait with
      | .posting ps amo => .next (s.postAll c i amo ps)
      | .access a => .next (if a.cur.isNone then s.accessGo c i a (a.todo.length + 1) else s)
      | .no | .hold | .sc _ true | .forwards _ | .sync _ _ _ | .record _ =>
        let s := s.freed
        match s.me.entryDue with
        | some e => .next (s.enterCocoon e)
        | none =>
          match s.issue with
          | .run ins s => exec ins s
          | .stop s => .next s
      | _ => .next s

/-- A tick ends and the timecode advances (R166); the default turns begin with the first strand again. -/
def tickTurn (s : State) : Res := .next { s.tickEnd with cur := (12288, 0) }

/-- One turn. -/
def takeTurn (t : Turn) (s : State) : Res :=
  match t with
  | .strand c i => strandTurn c i s
  | .event e => exec e s
  | .tick => tickTurn s

/-- The running strands that a turn can move. -/
def State.ready (s : State) : List (Nat × Nat) :=
  s.cores.flatMap fun e => ([0, 1, 2, 3].filter fun i => s.canRun e.1 i).map fun i => (e.1, i)

/-- The turn taken when the agenda is empty: the boot ROM, then the running strands in turn, one tick after the last. -/
def State.defaultTurn (s : State) : Turn :=
  if !s.booted then .event .boot
  else
    match s.ready.find? fun k => decide (12288 ≤ s.cur.1) || decide (4 * s.cur.1 + s.cur.2 < 4 * k.1 + k.2) with
    | some k => .strand k.1 k.2
    | none => .tick

/-- One step of the device. -/
def step (s : State) : Host.Outcome State Fault Refusal :=
  match s.agenda with
  | t :: rest => takeTurn t { s with agenda := rest }
  | [] => takeTurn s.defaultTurn s

/-- The state with an instruction where the next step fetches: in slot 0 of the line at LOCAL 0 of core 0, cached, with
strand 0 of that core running there and first in the agenda (DESIGN CHOICE, assumption log 6). -/
def State.withFetchWord (s : State) (_nbits w : Nat) : State :=
  let b := lineOf (BitVec.ofNat 96 w)
  let asid : BitVec 16 := (s.strand 0 0).asid.setWidth 16
  let s := { s with booted := true, bootstat := 0, agenda := .strand 0 0 :: s.agenda }
  let s := s.modCore 0 fun x =>
    { x with ls := x.ls.writeNum 0 64 b.toNat
             icache := { line := 0, asid, bytes := b, bad := 0 } :: x.icache.filter fun e => e.line != 0 || e.asid != asid }
  s.modStrand 0 0 fun t => { t with run := .running, pc := 0, wait := .no, pend := 0, join4 := [], entered := false, entry := none }

end Sys2Proof.Machine
end

