-- ==== Sys2Proof/Safety.lean ====
section
/-!
DEFINITION. The terms in which the claims are stated: a safe step, a state that differs from another in one strand only, how an
instruction begins and how it completes, and the canonical form of every memory.
-/

namespace Sys2Proof.Machine

/-- A step that neither stops nor is refused. -/
def StepsSafely (s : State) : Prop := ∃ t, step s = .next t

/-- A run of `n` steps without a stop. -/
def RunsSafely (n : Nat) (s : State) : Prop := ∃ t, Sys2Proof.core.run n s = .next t

/-- `t` differs from `s` in nothing but strand `i` of core `c`: no memory, no other strand and no other part of a core. -/
def OnlyStrand (c i : Nat) (s t : State) : Prop :=
  t = { s with cores := t.cores } ∧
  (∀ k, t.core k = { s.core k with strands := (t.core k).strands }) ∧
  ∀ k j, (k, j) ≠ (c, i) → t.strand k j = s.strand k j

/-- `t` differs from `s` in nothing but core `c`, and there in no strand but `i`. -/
def OnlyCore (c i : Nat) (s t : State) : Prop :=
  t = { s with cores := t.cores } ∧ (∀ k, k ≠ c → t.core k = s.core k) ∧ ∀ j, j ≠ i → t.strand c j = s.strand c j

/-- The instruction of the strand whose turn it is passes the checks that come before its own (R155, R189, R194): the
pending prefix, if any, is one it takes, the mode is privileged where it must be, and its predicate is 1. -/
def Begins (x : PxSpec) (privileged : Bool) (p : Pred) (s : State) : Prop :=
  s.cur.2 < 4 ∧
  (s.me.px = true → x.takes = true ∧ descReserved (s.me.pxv.setWidth 32) = false ∧
    x.accepts (Desc.ofWord (s.me.pxv.setWidth 32)) = true) ∧
  (privileged = true → s.me.prv = true) ∧ s.me.predOn p = true

/-- No STEP follows the instruction (R385). -/
def Unstepped (s : State) : Prop := (s.me.sstep && s.me.ie) = false

/-- A strand once its instruction has retired (R185, R197): the PC is that of the next slot, and a consumed prefix is
dropped. -/
def State.past (s : State) (c i : Nat) (u : Strand) : Strand :=
  { u.retired (pcNext u.pc) with join4 := s.joinOf c i }

/-- A strand's instruction has completed: nothing but the strand has changed, which is `u` gone on to the next slot. -/
def RetiresAt (c i : Nat) (s t : State) (u : Strand) : Prop :=
  OnlyStrand c i s t ∧ t.strand c i = s.past c i u

/-- The instruction of the strand whose turn it is has completed. -/
def Completes (s t : State) (u : Strand) : Prop := RetiresAt s.cur.1 s.cur.2 s t u

/-- The instruction of the strand whose turn it is has begun to wait: nothing but what its strand waits for has changed. -/
def Blocks (s t : State) (w : Wait) : Prop :=
  OnlyStrand s.cur.1 s.cur.2 s t ∧ t.me = { s.me with wait := w }

/-- The instruction has ended in a trap (R168, R373): nothing but its strand has changed, which has entered the handler. -/
def Traps (s t : State) (num : Nat) (bad epc : W64) : Prop :=
  OnlyStrand s.cur.1 s.cur.2 s t ∧ t.me = s.me.enter { num, bad } epc

/-- A PC at which a transfer of the strand may arrive (R178 to R180): well formed, its line in the instruction cache, and a
target there. -/
def Enterable (s : State) (pc : W64) : Prop :=
  pcOk pc = true ∧ ∃ l, s.fetch s.cur.1 s.cur.2 (pcLine pc) = .line l ∧ lineTgt l.bytes (pcSlot pc) = true

/-! ## Float values (R143, R145) -/

/-- The value of a finite datum. -/
def FVal.rat : FVal → ℚ
  | .fin n m e => (if n then -1 else 1) * m * (2 : ℚ) ^ e
  | _ => 0

def FVal.isFin : FVal → Bool
  | .fin _ _ _ => true
  | _ => false

/-- One datum is below another; a NaN is below none and above none, and −0 and +0 are equal. -/
def FVal.Below : FVal → FVal → Prop
  | .inf a, .inf b => a = true ∧ b = false
  | .inf a, .fin _ _ _ => a = true
  | .fin _ _ _, .inf b => b = false
  | .fin a m e, .fin b n g => (FVal.fin a m e).rat < (FVal.fin b n g).rat
  | _, _ => False

/-- A finite value of a format. -/
def Fmt.Rep (f : Fmt) (w : ℚ) : Prop := ∃ c, c < 2 ^ f.width ∧ (readF f false c).isFin = true ∧ (readF f false c).rat = w

/-- The largest finite value, and half of its unit in the last place. -/
def Fmt.maxFin (f : Fmt) : ℚ := (readF f false (f.inf - 1)).rat
def Fmt.halfUlp (f : Fmt) : ℚ := (f.maxFin - (readF f false (f.inf - 2)).rat) / 2

/-- A result is Round(x, mode) of a value x that is not 0, with its flags OF and NX (R145, R146). That every magnitude above the largest
finite value overflows in the modes 1 to 3 is the model's reading (DEDUCED, assumption log 14). -/
def Rounds (f : Fmt) (mode : Nat) (x : ℚ) (r : FRes) : Prop :=
  let big := if mode = 0 then f.maxFin + f.halfUlp ≤ |x| else f.maxFin < |x|
  let toInf := decide (mode = 0) || (decide (mode = 2) && decide (0 < x)) || (decide (mode = 3) && decide (x < 0))
  let y := readF f false r.bits
  let v := y.rat
  (big → r = ⟨f.sign (decide (x < 0)) + (if toInf then f.inf else f.inf - 1), fOF ||| fNX⟩) ∧
  (¬ big → y.isFin = true ∧ r.bits < 2 ^ f.width ∧ y.neg = decide (x < 0) ∧ r.fl.getLsbD 2 = false ∧ (r.fl.getLsbD 4 = true ↔ v ≠ x) ∧
    (mode = 0 → ∀ w, f.Rep w → |x - v| ≤ |x - w| ∧ (|x - v| = |x - w| → w ≠ v → r.bits % 2 = 0)) ∧
    (mode = 1 → |v| ≤ |x| ∧ ∀ w, f.Rep w → |w| ≤ |x| → |w| ≤ |v|) ∧
    (mode = 2 → x ≤ v ∧ ∀ w, f.Rep w → x ≤ w → v ≤ w) ∧
    (mode = 3 → v ≤ x ∧ ∀ w, f.Rep w → w ≤ x → w ≤ v))

/-- A lane-wise instruction has completed (R264): each active lane of the destination holds the result of the lane, every
other lane its old bits, and FSTAT has gained the flags of the active lanes. -/
def LaneWise (s t : State) (d : Opd) (p : Pred) (w : Nat) (f : Nat → FRes) : Prop :=
  ∃ r : W1024,
    (∀ i, i < 1024 / w →
      lane w r i = if s.me.active p w i then (f i).bits % 2 ^ w else lane w (s.me.readV (vNo d)) i) ∧
    Completes s t ((s.me.addFlags (orFlags (laneRun (s.me.active p w) w (1024 / w) (s.me.readV (vNo d)) f))).writeV d r)

/-- The instruction of the strand has transferred to a PC, and nothing but its strand has changed, which is `u` there. -/
def Jumps (s t : State) (u : Strand) (pc : W64) : Prop :=
  OnlyStrand s.cur.1 s.cur.2 s t ∧ t.me = u.retired pc

/-- Strand `i` of core `c` has retired its instruction in a core that is `k` but for its strands, and the strand is `u` gone
on; no other core and no other strand has changed. -/
def GoesOn (c i : Nat) (s t : State) (u : Strand) (k : Core) : Prop :=
  (∀ j, j ≠ c → t.core j = s.core j) ∧ (∀ j, j ≠ i → t.strand c j = s.strand c j) ∧
  t.core c = { k with strands := (t.core c).strands } ∧
  t.strand c i = s.past c i u

/-- The instruction of the strand whose turn it is has completed: nothing but its core has changed, which is `k` with the
strand gone on as `u`. -/
def CompletesIn (s t : State) (u : Strand) (k : Core) : Prop :=
  t = { s with cores := t.cores } ∧ GoesOn s.cur.1 s.cur.2 s t u k

/-- Outside the cores `t` differs from `s` in one message more on its way, with its sender's tag and flits. -/
def Sends (s t : State) (src dest cls : Nat) (body : Body) : Prop :=
  t = { s with cores := t.cores, tags := t.tags, transit := t.transit, uid := t.uid, routers := t.routers } ∧
  ∃ m : Msg, t.transit = s.transit ++ [m] ∧ m.src = src ∧ m.dest = dest ∧ m.cls = cls ∧ m.ticket = 0 ∧ m.cancel = false ∧
    m.poison = false ∧ m.body = body

/-- The instruction has completed as `CompletesIn` says, and has sent one message. -/
def CompletesSending (s t : State) (u : Strand) (k : Core) (dest cls : Nat) (body : Body) : Prop :=
  Sends s t s.cur.1 dest cls body ∧ GoesOn s.cur.1 s.cur.2 s t u k

/-- The instruction has begun to wait, and has sent one message: nothing else has changed but what its strand waits for. -/
def BlocksSending (s t : State) (w : Wait) (dest cls : Nat) (body : Body) : Prop :=
  Sends s t s.cur.1 dest cls body ∧ (∀ k, t.core k = { s.core k with strands := (t.core k).strands }) ∧
    (∀ k j, (k, j) ≠ (s.cur.1, s.cur.2) → t.strand k j = s.strand k j) ∧ t.me = { s.me with wait := w }

/-- n bytes at an address lie aligned in the strand's own local store, where no rule of banks, tiles and modes keeps the strand
from them (R24, R105, R109, R110, R121, R210); `off` is their place. -/
def LocalOk (s : State) (a : W64) (n off : Nat) : Prop :=
  a.toNat % n = 0 ∧ localOf s.cur.1 s.me.stkb a n = some off ∧ s.myCore.localRefusal off n s.me.prv = none ∧
    s.myCore.changing off n = false

/-- n bytes at an address lie aligned in GLOBAL or STACK, on a page that the core's TLBs hold and that permits the access (R24,
R38, R40, R210); `pa` is their physical address. -/
def GlobalOk (s : State) (a : W64) (n : Nat) (need : Need) (p : Page) (pa : Nat) : Prop :=
  a.toNat % n = 0 ∧ s.ptsh ≠ 0 ∧
  ∃ va, (decodeSpan s.me.stkb a n = .ok (.glob va) ∨ decodeSpan s.me.stkb a n = .ok (.stack va)) ∧
    s.myCore.tlbFind (s.me.asid.setWidth 16) va = some p ∧ p.permits need = true ∧ pa = pageAddr p va

/-- n bytes at an address lie aligned in the local store of another core, which is live, from offset `off` on (R24, R29, R210). -/
def WindowOk (s : State) (a : W64) (n k off : Nat) : Prop :=
  a.toNat % n = 0 ∧ k ≠ s.cur.1 ∧ s.live k = true ∧ decodeSpan s.me.stkb a n = .ok (.win k off)

/-- A core after the acquire of a load (R213, R317, R319): at DEV and SYS its first-level cache is empty, and no fill under way
installs a line. -/
def Core.acquired (k : Core) (q : Option Scope) : Core :=
  if q = some .dev ∨ q = some .sys then { k with l1 := [], fills := [] } else k

/-- No strand of the core waits for an instruction line. -/
def NoFetch (s : State) : Prop := ∀ j line u, (s.strand s.cur.1 j).wait ≠ .fetch line u

/-- One message more is on its way in `t` than in `s`. -/
def Mails (s t : State) (src dest cls ticket : Nat) (body : Body) : Prop :=
  ∃ m : Msg, t.transit = s.transit ++ [m] ∧ m.src = src ∧ m.dest = dest ∧ m.cls = cls ∧ m.ticket = ticket ∧ m.cancel = false ∧
    m.poison = false ∧ m.body = body

/-- `t` differs from `s` in what is on its way at most. -/
def NetOnly (s t : State) : Prop := t = { s with tags := t.tags, transit := t.transit, uid := t.uid, routers := t.routers }

/-- A request has arrived at the home slice of its line, which has a transaction entry for it and no ticket outstanding (R75,
R114). -/
def HomeTakes (s : State) (uid : Nat) (m : Msg) (r : MemReq) : Prop :=
  s.msg? uid = some m ∧ m.body = .mem r ∧ m.cancel = false ∧ m.ticket = 0 ∧ m.tag ≠ 256 ∧ s.homeOf r.line < 768 ∧
    m.dest = epSlice (s.homeOf r.line) ∧ s.entriesUsed (s.homeOf r.line) < 128 ∧
    (s.slice (s.homeOf r.line)).next = (s.slice (s.homeOf r.line)).serve

/-- A line is at its home with no operation waiting, no poison, no reduction copy and no error of the array to be met (R72, R80). -/
def HomeQuiet (s : State) (ln : Nat) (h : HomeLine) : Prop :=
  s.homeLine ln = h ∧ h.st.isSome = true ∧ h.busy = .no ∧ h.ops = [] ∧ h.poison = false ∧ h.up = none ∧
    EnvErr.homeBad ln ∉ s.env ∧ EnvErr.homeCorr ln ∉ s.env

/-- An engine's read of a line is on its way (R14 to R16, R428). -/
def DevReads (t : State) (ep : Nat) (l : DevAt) : Prop :=
  (t.devLine ep l.2 l.1).busy = true ∧ ∃ m ∈ t.transit, m.src = ep ∧ m.dest = t.devHome l ∧
    ∃ r, m.body = .mem r ∧ r.op = .read ∧ r.line = l.1 ∧ r.who = .dev ep l.2

/-- An engine has changed `n` bytes of a line from byte `i`: its copy has them, and a write with them is on its way, or they are sent when
the access that is on its way has been answered. -/
def DevWrites (s t : State) (ep : Nat) (l : DevAt) (i n x : Nat) : Prop :=
  let d := s.devLine ep l.2 l.1
  let e := t.devLine ep l.2 l.1
  e.data = merge d.data (BitVec.ofNat 1024 x <<< (8 * i)) (byteMask i n) ∧
    (d.busy = true → e.busy = true ∧ e.todo = d.todo ||| byteMask i n) ∧
    (d.busy = false → d.want = false → e.busy = true ∧ ∃ m ∈ t.transit, m.src = ep ∧ m.dest = s.devHome l ∧
      ∃ r, m.body = .mem r ∧ r.op = .write ∧ r.line = l.1 ∧ r.who = .dev ep l.2 ∧ r.data = e.data ∧ r.mask = d.todo ||| byteMask i n)

/-- The endpoints that a write to a line is notified to, with the number of the header that lies there (R359, R403): the launch queues
for the 64 queue headers at QBASE, and for each of the 8 lines after them the two optical engines whose headers it holds. -/
def State.notes (s : State) (ln : Nat) : List (Nat × Nat) :=
  let k := ln - s.qbase.toNat / 128
  if ln < s.qbase.toNat / 128 then []
  else if k < 64 then [(epLaunch, k)]
  else if k < 72 then [(epOptical (2 * (k - 64)), 2 * k - 64), (epOptical (2 * (k - 64) + 1), 2 * k - 63)]
  else []

/-- The home has performed a request: its line is `h` with its place in the order of use, every other line is as before, the answer
is on its way, behind it what a write notifies, and nothing else has changed but the slice's counts. -/
def HomeDone (s t : State) (m : Msg) (ln : Nat) (h : HomeLine) (writes : Bool) (cls : Nat) (body : Body) : Prop :=
  NetOnly { s.consume m.uid with home := t.home, slices := t.slices } t ∧
    t.homeLine ln = { h with stamp := s.uid } ∧ (∀ k, k ≠ ln → t.homeLine k = s.homeLine k) ∧
    ∃ (a : Msg) (ns : List Msg), t.transit = s.transit ++ a :: ns ∧ a.src = m.dest ∧ a.dest = m.src ∧ a.cls = cls ∧ a.tag = m.tag ∧
      a.ticket = 0 ∧ a.poison = false ∧ a.body = body ∧
      ns.map (fun n => (n.src, n.dest, n.body)) =
        if writes then (s.notes ln).map fun n => (m.dest, n.1, .hdrNote n.2) else []

/-- A request has arrived at a slice that is not its line's home, which has a transaction entry for it and no ticket outstanding, and
meets no error of a copy there (R72, R75, R76). -/
def ProxyTakes (s : State) (uid : Nat) (m : Msg) (r : MemReq) (sl : Nat) : Prop :=
  s.msg? uid = some m ∧ m.body = .mem r ∧ m.cancel = false ∧ m.poison = false ∧ m.ticket = 0 ∧ s.entriesUsed sl < 128 ∧
    (s.slice sl).next = (s.slice sl).serve ∧ sl < 768 ∧ m.dest = epSlice sl ∧ sl ≠ s.homeOf r.line ∧
    EnvErr.proxyBad sl r.line ∉ s.env ∧ EnvErr.proxyCorr sl r.line ∉ s.env

/-- Every memory is in canonical form: HBM, host memory and the local stores. -/
def State.Canonical (s : State) : Prop :=
  s.hbm.wf = true ∧ s.hostMem.wf = true ∧ ∀ e ∈ s.cores, e.2.ls.wf = true

end Sys2Proof.Machine
end

