-- ==== Sys2Proof/WellFormed.lean ====
section
/-!
DEFINITION. Which terms of `Instr` are instructions of the hardware: the operand kinds, the types and the field ranges
that the encoding tables give (R186 to R193 and the tables of the instruction chapters), and for the steps of the
other agents the ranges of the places they name.
-/

namespace Sys2Proof

def wfD (kd : Kind) (d : Opd) (p : Pred) : Bool := kd.ok d && p.ok

def wfT1 (ok : ETy → Bool) (kd ka : Kind) (x : T1) : Bool :=
  ok x.ty && kd.ok x.d && ka.ok x.a && immUse x.imm [x.a] && x.p.ok

def wfT2 (ok : ETy → Bool) (kd ka kb : Kind) (x : T2) : Bool :=
  ok x.ty && kd.ok x.d && ka.ok x.a && kb.ok x.b && immUse x.imm [x.a, x.b] && x.p.ok

def wfT3 (ok : ETy → Bool) (kd ka kb kc : Kind) (x : T3) : Bool :=
  ok x.ty && kd.ok x.d && ka.ok x.a && kb.ok x.b && kc.ok x.c && immUse x.imm [x.a, x.b, x.c] && x.p.ok

def wfR1 (kd ka : Kind) (x : R1) : Bool :=
  kd.ok x.d && ka.ok x.a && immUse x.imm [x.a] && x.p.ok

def wfR2 (kd ka kb : Kind) (x : R2) : Bool :=
  kd.ok x.d && ka.ok x.a && kb.ok x.b && immUse x.imm [x.a, x.b] && x.p.ok

def wfR3 (kd ka kb kc : Kind) (x : R3) : Bool :=
  kd.ok x.d && ka.ok x.a && kb.ok x.b && kc.ok x.c && immUse x.imm [x.a, x.b, x.c] && x.p.ok

def wfC2 (ok : ETy → Bool) (kd ka kb : Kind) (x : C2) : Bool :=
  ok x.ty && x.cond.okFor x.ty && kd.ok x.d && ka.ok x.a && kb.ok x.b && immUse x.imm [x.a, x.b] && x.p.ok

def wfBrc (x : C2) : Bool :=
  x.ty.isInt && x.cond.okFor x.ty && Kind.dash.ok x.d && Kind.gz.ok x.a && Kind.gz.ok x.b && x.p.ok

def wfCv (kd ka : Kind) (x : Cv) : Bool :=
  x.dst.inFn && x.src.inFn && kd.ok x.d && ka.ok x.a && immUse x.imm [x.a] && x.p.ok

def wfRd (kd : Kind) (x : Rd) : Bool :=
  x.ty.inFn && x.op.okFor x.ty && kd.ok x.d && Kind.v.ok x.a && x.p.ok

def wfBf (kd : Kind) (x : Bf) : Bool :=
  decide (x.pos.val + x.len1.val + 1 ≤ 64) && kd.ok x.d && Kind.gz.ok x.a && x.p.ok

def wfMem (g : MemSig) (x : MemA) : Bool :=
  g.ords.contains x.ord && scopeOk x.ord x.scope && decide (g.szLo ≤ x.sz.val) && decide (x.sz.val ≤ g.szHi) &&
    g.kd.ok x.d && g.ka.ok x.a && g.kb.ok x.b && g.kc.ok x.c && x.p.ok

def wfAd (x : Ad) : Bool := Kind.gz.ok x.a && x.p.ok

def wfUp (kb kc : Kind) (x : Up) : Bool := Kind.g.ok x.a && kb.ok x.b && kc.ok x.c && x.p.ok

/-- Only a multicast names a group entry, and only a reduce-copy a member (R231). -/
def wfCp (kind : Nat) (x : Cp) : Bool :=
  Kind.g.ok x.dst && Kind.g.ok x.src && Kind.g.ok x.shp && x.p.ok &&
    (kind == 6 || x.midx == 0) && (kind == 6 || kind == 5 || x.grp == 0)

def wfAmo (x : Am) : Bool :=
  x.ord != .p && scopeOk x.ord x.scope && x.op.okFor x.ty && !(x.tagged && (x.ty == .i64 || x.ty == .ui64)) &&
    Kind.gz.ok x.d && Kind.gz.ok x.a && Kind.gz.ok x.b && (if x.op == .cas then Kind.gz else Kind.dash).ok x.c && x.p.ok

def wfRed (x : Am) : Bool :=
  (x.ord == .none || x.ord == .rel) && scopeOk x.ord x.scope && x.op.okFor x.ty && x.op != .swap && x.op != .cas &&
    !x.tagged && Kind.dash.ok x.d && Kind.gz.ok x.a && Kind.gz.ok x.b && Kind.dash.ok x.c && x.p.ok

def wfMm (x : Mm) : Bool := Kind.accs.ok x.d && decide (x.kn.val ≤ 32) && x.p.ok

/-- Whether a term is an instruction of the hardware. -/
def Instr.wellFormed : Instr → Bool
  | .nop => true
  | .movi d _ p => wfD .gkz d p
  | .movhi d _ p => wfD .gkz d p
  | .add x => wfT2 ETy.isInt .gz .gz .gzi x
  | .sub x => wfT2 ETy.isInt .gz .gz .gzi x
  | .mul x => wfT2 ETy.isInt .gz .gz .gzi x
  | .mulh x => wfT2 ETy.isInt .gz .gz .gzi x
  | .div x => wfT2 ETy.isInt .gz .gz .gzi x
  | .rem x => wfT2 ETy.isInt .gz .gz .gzi x
  | .and x => wfT2 ETy.isInt .gz .gz .gzi x
  | .or x => wfT2 ETy.isInt .gz .gz .gzi x
  | .xor x => wfT2 ETy.isInt .gz .gz .gzi x
  | .andn x => wfT2 ETy.isInt .gz .gz .gzi x
  | .shl x => wfT2 ETy.isInt .gz .gz .gzi x
  | .shr x => wfT2 ETy.isInt .gz .gz .gzi x
  | .sar x => wfT2 ETy.isInt .gz .gz .gzi x
  | .rot x => wfT2 ETy.isInt .gz .gz .gzi x
  | .min x => wfT2 ETy.isInt .gz .gz .gzi x
  | .max x => wfT2 ETy.isInt .gz .gz .gzi x
  | .cmp x => wfC2 ETy.isInt .gkz .gz .gzi x
  | .sel x => wfR3 .gz .gkz .gzi .gz x
  | .clz x => wfT1 ETy.isInt .gz .gzi x
  | .popc x => wfT1 ETy.isInt .gz .gzi x
  | .brev x => wfT1 ETy.isInt .gz .gzi x
  | .ext x => wfBf .gz x
  | .ins x => wfBf .g x && !x.sgn
  | .fadd x => wfT2 ETy.isFlt .gz .gz .gzi x
  | .fsub x => wfT2 ETy.isFlt .gz .gz .gzi x
  | .fmul x => wfT2 ETy.isFlt .gz .gz .gzi x
  | .fma x => wfT3 ETy.isFlt .gz .gz .gz .gzi x
  | .fdiv x => wfT2 ETy.isFlt .gz .gz .gzi x
  | .fsqrt x => wfT1 ETy.isFlt .gz .gzi x
  | .fmin x => wfT2 ETy.isFlt .gz .gz .gzi x
  | .fmax x => wfT2 ETy.isFlt .gz .gz .gzi x
  | .fcmp x => wfC2 ETy.isFlt .gkz .gz .gzi x
  | .cvt x => wfCv .gz .gzi x
  | .br _ p => p.ok
  | .brc x => wfBrc x
  | .call _ p => p.ok
  | .ret p => p.ok
  | .jmp a p => wfD .g a p
  | .jmpL a p => wfD .g a p
  | .loop a _ p => wfD .g a p
  | .nexti _ p => p.ok
  | .fmt _ => true
  | .vadd x => wfT2 ETy.inFn .v .vs .vs x
  | .vsub x => wfT2 ETy.inFn .v .vs .vs x
  | .vmul x => wfT2 ETy.inFn .v .vs .vs x
  | .vmulH x => wfT2 ETy.isInt .v .vs .vs x
  | .vfma x => wfT3 ETy.inFn .v .vs .vs .vs x
  | .vmin x => wfT2 ETy.inFn .v .vs .vs x
  | .vmax x => wfT2 ETy.inFn .v .vs .vs x
  | .vabs x => wfT1 ETy.inFn .v .vs x
  | .vneg x => wfT1 ETy.inFn .v .vs x
  | .vand x => wfT2 ETy.isInt .v .vs .vs x
  | .vandN x => wfT2 ETy.isInt .v .vs .vs x
  | .vor x => wfT2 ETy.isInt .v .vs .vs x
  | .vxor x => wfT2 ETy.isInt .v .vs .vs x
  | .vshl x => wfT2 ETy.isInt .v .vs .vs x
  | .vshr x => wfT2 ETy.isInt .v .vs .vs x
  | .vsar x => wfT2 ETy.isInt .v .vs .vs x
  | .vcmp x => wfC2 ETy.inFn .kz .vs .vs x
  | .vsel x => wfT3 ETy.inFn .v .kz .vs .vs x
  | .vcvt x => wfCv .v .vs x
  | .vrcp x => wfR1 .v .vs x
  | .vrsq x => wfR1 .v .vs x
  | .vsqrt x => wfR1 .v .vs x
  | .vexp2 x => wfR1 .v .vs x
  | .vlog2 x => wfR1 .v .vs x
  | .vtanh x => wfR1 .v .vs x
  | .vreduce x => wfRd .gz x
  | .vscan x => wfRd .v x
  | .vperm x => wfT2 ETy.inFn .v .v .v x
  | .vrot x => wfT2 ETy.inFn .v .v .gzi x
  | .vbcast x => wfT2 ETy.inFn .v .v .gzi x
  | .vextr x => wfT2 ETy.inFn .gz .v .gzi x
  | .vinsl x => wfT2 ETy.inFn .v .gzi .gzi x
  | .viota x => wfT1 ETy.isInt .v .gzi x
  | .vmov x => wfT1 ETy.inFn .v .vs x
  | .vcompress x => wfT1 ETy.inFn .v .v x
  | .vexpand x => wfT1 ETy.inFn .v .v x
  | .vrns x => wfR1 .v .vs x
  | .vcrt x => wfR1 .v .v x
  | .vradd x => wfR2 .v .vs .vs x
  | .vraddSub x => wfR2 .v .vs .vs x
  | .vrmul x => wfR2 .v .vs .vs x
  | .kopAnd x => wfR2 .k .kz .kz x
  | .kopOr x => wfR2 .k .kz .kz x
  | .kopXor x => wfR2 .k .kz .kz x
  | .kopAndn x => wfR2 .k .kz .kz x
  | .kopNot x => wfR1 .k .kz x
  | .kmov x => wfR1 .gk .gkzi x
  | .kpop x => wfT1 ETy.inFn .gz .kz x
  | .ld x => wfMem sigLd x
  | .st x => wfMem sigSt x
  | .stP x => wfMem sigStP x
  | .ldv x => wfMem sigLdv x
  | .stv x => wfMem sigStv x
  | .ldvs x => wfMem sigLdvs x
  | .stvs x => wfMem sigStvs x
  | .gather x => wfMem sigGather x
  | .scatter x => wfMem sigScatter x
  | .pref x => wfAd x
  | .prefPx x => wfAd x
  | .cinv x => wfAd x
  | .cinvData p => p.ok
  | .cinvInstr p => p.ok
  | .cinvAll p => p.ok
  | .cwb x => wfAd x
  | .bmode _ _ p => p.ok
  | .qpush x => wfMem sigQpush x
  | .qpop x => wfMem sigQpop x
  | .qfree d p => wfD .g d p
  | .qfreeAddr d p => wfD .g d p
  | .tdef _ a _ p => wfD .gz a p
  | .tfill _ p => p.ok
  | .tdrain _ p => p.ok
  | .trel _ p => p.ok
  | .tstat d _ p => wfD .g d p
  | .tstatTime d _ p => wfD .g d p
  | .tldv d row col _ p => wfD .v d p && Kind.gz.ok row && Kind.gz.ok col
  | .tstv row col data _ p => wfD .gz row p && Kind.gz.ok col && Kind.v.ok data
  | .tupd x => wfUp .gz .gz x
  | .tupdv x => wfUp .v .v x
  | .logt d x => wfAd x && Kind.g.ok d
  | .logtRet a p => wfD .gz a p
  | .tlogQuery d a p => wfD .gz d p && Kind.g.ok a
  | .tlogCompact d a p => wfD .gz d p && Kind.g.ok a
  | .tlogSync d a p => wfD .gz d p && Kind.g.ok a
  | .cpyG2l x => wfCp 0 x
  | .cpyL2g x => wfCp 1 x
  | .cpyL2r x => wfCp 2 x
  | .cpyMcast x => wfCp 5 x
  | .cpyRedc x => wfCp 6 x
  | .cpyq d _ _ _ p => wfD .g d p
  | .oclaim _ _ p => p.ok
  | .ofill _ _ p => p.ok
  | .orels _ p => p.ok
  | .subs base shp _ _ _ p => wfD .g base p && Kind.g.ok shp
  | .unsubs _ p => p.ok
  | .grpset _ a p => wfD .g a p
  | .wait _ _ _ _ p => p.ok
  | .fence _ later earlier p => p.ok && decide (later ≠ 0 ∨ earlier ≠ 0)
  | .amo x => wfAmo x
  | .red x => wfRed x
  | .mma x => wfMm x
  | .mmz d _ p => wfD .accs d p
  | .amov d a p => wfD .accs d p && Kind.accs.ok a
  | .amovV d a _ p => wfD .v d p && Kind.accs.ok a
  | .amovA d a _ p => wfD .accs d p && Kind.v.ok a
  | .ald d x => wfAd x && Kind.accs.ok d
  | .adrn _ a b c _ _ _ p => wfD .accs a p && Kind.gz.ok b && Kind.g.ok c
  | .aclaim d p => wfD .accs d p
  | .arels d p => wfD .accs d p
  | .uprog _ a b _ p => wfD .g a p && Kind.gz.ok b
  | .mmu x => wfMm x && !x.f16
  | .arv _ other m _ p => p.ok && (other || decide (m = 0))
  | .wtb _ _ p => p.ok
  | .btst _ d _ p => wfD .gz d p
  | .bcfg a _ p => wfD .g a p
  | .bcfgGrp a b _ p => wfD .g a p && Kind.g.ok b
  | .spawn a p => wfD .g a p
  | .take d p => wfD .gz d p
  | .suspend a _ p => wfD .g a p
  | .done p => p.ok
  | .yield _ p => p.ok
  | .sprint d a p => wfD .gz d p && Kind.g.ok a
  | .lease d p => wfD .gz d p
  | .leaseExp d p => wfD .gz d p
  | .leaseRel d p => wfD .gz d p
  | .trap _ p => p.ok
  | .eret p => p.ok
  | .sysr d _ p => wfD .gz d p
  | .sysw a _ p => wfD .gz a p
  | .tlbinv a p => wfD .g a p
  | .tlbinvPg a b p => wfD .g a p && Kind.g.ok b
  | .brk _ p => p.ok
  | .timec d p => wfD .gz d p
  | .timecWait d a p => wfD .gz d p && Kind.g.ok a
  | .halt p => p.ok
  | .coreReset c => decide (c < 12288)
  | .boot => true
  | .instructionLineFill c s => decide (c < 12288) && decide (s < 4)
  | .routerCycle c _ => decide (c < 12288)
  | .injectionStarvation c => decide (c < 12288)
  | .messageDelivery _ => true
  | .netGovernorWindow r => decide (r < 96)
  | .netStepChange r => decide (r < 96)
  | .ticketRetryResend _ => true
  | .freshResend _ => true
  | .ticketCancel _ => true
  | .ticketAbandon _ => true
  | .nackRetryReceived _ => true
  | .homeRead _ => true
  | .homeWrite _ => true
  | .homeRed _ => true
  | .uGrantRequest _ => true
  | .hbmLineFill _ => true
  | .victimWritebackDone _ => true
  | .invalidationAck _ => true
  | .recallFold _ => true
  | .partialFlush _ => true
  | .proxyLoad _ => true
  | .proxyStore _ => true
  | .proxyRed _ => true
  | .proxyAmo _ => true
  | .proxyFillAnswer _ => true
  | .proxyGrantAnswer _ => true
  | .proxyInvalidation _ => true
  | .proxyRecall _ => true
  | .hostWrite _ _ _ => true
  | .hostRead _ _ => true
  | .windowAccess _ => true
  | .loadResponse _ => true
  | .storeAnswer _ => true
  | .amoAnswer _ => true
  | .postedAck _ => true
  | .postedFinalRefusal _ => true
  | .qpushArrival _ => true
  | .qpushAck _ => true
  | .bmodeComplete c bank => decide (c < 12288) && decide (bank < 64)
  | .tlbWalkProbe _ => true
  | .faultMailboxPush _ => true
  | .faultReply c _ => decide (c < 12288)
  | .tlbBump _ c => decide (c < 12288)
  | .bumpAck _ c => decide (c < 12288)
  | .copyDestWrite _ => true
  | .copyWriteAck _ => true
  | .redcContribution _ => true
  | .fillDataMessage _ => true
  | .drainComplete c t => decide (c < 12288) && decide (t < 64)
  | .loaderPushStart c sid => decide (c < 12288) && decide (sid < 4)
  | .grpsetTimeout c s => decide (c < 12288) && decide (s < 4)
  | .matrixOpStart c pipe => decide (c < 12288) && decide (pipe < 2)
  | .matrixOpEnd c _ => decide (c < 12288)
  | .scTicketGrant _ => true
  | .clusterSequencerIntake cl => decide (cl < 1536)
  | .logtIdRequest c s => decide (c < 12288) && decide (s < 4)
  | .logUpdate _ => true
  | .logmark _ => true
  | .logclear _ => true
  | .pull _ => true
  | .pullResponse _ => true
  | .unpull _ => true
  | .logOpen _ => true
  | .logClose _ => true
  | .forwardedEntry _ => true
  | .lockingRead _ => true
  | .storerApplyWrite _ => true
  | .storerDone _ => true
  | .barrierArrival c s => decide (c < 12288) && decide (s < 4)
  | .groupRelease ch gix => decide (ch < 16) && decide (gix < 64)
  | .nodeRelease c ch => decide (c < 12288) && decide (ch < 16)
  | .cocoonPickup c s => decide (c < 12288) && decide (s < 4)
  | .parkedDispatch q => decide (q < 64)
  | .spawnAccept c s => decide (c < 12288) && decide (s < 4)
  | .splitApply c s => decide (c < 12288) && decide (s < 4)
  | .queueHeaderNotify q => decide (q < 80)
  | .launchTake q => decide (q < 64)
  | .launchStart q => decide (q < 64)
  | .launchEnd q => decide (q < 64)
  | .contextLevelIncrement ctx => decide (ctx < 256)
  | .timeSliceExpiry ctx => decide (ctx < 256)
  | .energyMeterWindow r _ => decide (r < 96)
  | .resizeRequest ctx => decide (ctx < 256)
  | .resizeMove ctx => decide (ctx < 256)
  | .watchdogW1 q => decide (q < 64)
  | .watchdogW2 q => decide (q < 64)
  | .watchdogW3 q => decide (q < 64)
  | .asyncDelivery c s => decide (c < 12288) && decide (s < 4)
  | .preemption ctx c => decide (ctx < 256) && decide (c < 12288)
  | .resumeRestore ctx c => decide (ctx < 256) && decide (c < 12288)
  | .clusterGovernorWindow cl _ _ => decide (cl < 1536)
  | .clusterStepChange cl => decide (cl < 1536)
  | .phaseLoss r _ => decide (r < 96)
  | .fallbackFailure cl => decide (cl < 1536)
  | .regionSwitchOn r heavy => decide (r < 96) && heavy.all (· < 96)
  | .rampEnd r => decide (r < 96)
  | .meltPublish _ => true
  | .leaseEnergyWindow cl _ => decide (cl < 1536)
  | .leaseExpiry cl => decide (cl < 1536)
  | .killctx ctx => decide (ctx < 256)
  | .resync _ => true
  | .restart c s => decide (c < 12288) && decide (s < 4)
  | .mgmtRegisterWrite _ _ => true
  | .peerFrame h _ => decide (h < 16)
  | .timecodeCorrection _ _ => true
  | .transferRecord h => decide (h < 16)
  | .completionWordWrite h => decide (h < 16)
  | .coreTimeCharge c => decide (c < 12288)
  | .timecodeWaitExpiry c s => decide (c < 12288) && decide (s < 4)
  | .rangeStopTimeout c s => decide (c < 12288) && decide (s < 4)
  | .sprintRequest c s => decide (c < 12288) && decide (s < 4)
  | .ofillComplete c t => decide (c < 12288) && decide (t < 64)
  | .openGrant _ => true
  | .logmarkAck _ => true
  | .lineHomeLogEntry _ => true
  | .forwardedEntryAck _ => true
  | .hostCompletion c s => decide (c < 12288) && decide (s < 4)
end Sys2Proof
end

