-- ==== Sys2Proof/Certificates/Slice0/Obligations.lean ====
section
/-!
DEFINITION. The statements for the provers. Each says what an instruction or the machine does, and the rule of spec/ it
formalises; OBLIGATIONS.json lists them.
-/

open Sys2Proof Sys2Proof.Machine

/-! ## Scalar instructions -/

/-- R238, R239, R243 to R247: the sixteen integer instructions write the extended result of the operation on the low w bits of
their sources, under the type and the saturation of an accepted prefix, and change nothing but D and the PC. -/
def Obligations.ScalarIntegerCompletes : Prop :=
  ∀ m ∈ [(Instr.add, IOp.add, PxSpec.narrowSat), (Instr.sub, .sub, .narrowSat), (Instr.mul, .mul, .narrowSat),
      (Instr.mulh, .mulh, .narrow), (Instr.div, .div, .narrow), (Instr.rem, .rem, .narrow), (Instr.and, .and, .narrow),
      (Instr.or, .or, .narrow), (Instr.xor, .xor, .narrow), (Instr.andn, .andn, .narrow), (Instr.shl, .shl, .narrow),
      (Instr.shr, .shr, .narrow), (Instr.sar, .sar, .narrow), (Instr.rot, .rot, .narrow), (Instr.min, .min, .narrow),
      (Instr.max, .max, .narrow)],
    ∀ (x : T2) (s : State), Begins m.2.2 false x.p s → Unstepped s →
      ∃ t, exec (m.1 x) s = .next t ∧
        Completes s t (s.me.write x.d
          (ext64 (etySigned (s.me.desc.srcTy x.ty)) (etyWidth (s.me.desc.srcTy x.ty))
            (intOp m.2.1 (s.me.desc.srcTy x.ty) s.me.desc.sat (s.me.src x.imm x.a).toNat (s.me.src x.imm x.b).toNat)))

/-- R243, R244, R245, R246, R247: the w-bit results of the integer operations, on w-bit sources read as the type says, as
exact arithmetic: x and y are the sources as integers of the type, a and b as unsigned numbers. -/
def Obligations.IntegerResults : Prop :=
  ∀ ty ∈ [ETy.i8, .i16, .i32, .i64, .ui8, .ui16, .ui32, .ui64], ∀ a b : Nat, a < 2 ^ etyWidth ty → b < 2 ^ etyWidth ty →
    let w := etyWidth ty
    let x := asInt (etySigned ty) w a
    let y := asInt (etySigned ty) w b
    let val := fun op => asInt (etySigned ty) w (intOp op ty false a b)
    (∀ e, (e = x + y → Int.emod (val .add - e) (2 ^ w) = 0 ∧ asInt (etySigned ty) w (intOp .add ty true a b) = max (tyLo ty) (min (tyHi ty) e)) ∧
      (e = x - y → Int.emod (val .sub - e) (2 ^ w) = 0 ∧ asInt (etySigned ty) w (intOp .sub ty true a b) = max (tyLo ty) (min (tyHi ty) e)) ∧
      (e = x * y → Int.emod (val .mul - e) (2 ^ w) = 0 ∧ asInt (etySigned ty) w (intOp .mul ty true a b) = max (tyLo ty) (min (tyHi ty) e))) ∧
    val .mulh = Int.fdiv (x * y) (2 ^ w) ∧
    (y = 0 → val .rem = x ∧ val .div = if etySigned ty then -1 else 2 ^ w - 1) ∧
    (y ≠ 0 → val .rem = x - (val .div) * y ∨ (etySigned ty = true ∧ x = -(2 ^ (w - 1)) ∧ y = -1)) ∧
    (y ≠ 0 → ¬ (etySigned ty = true ∧ x = -(2 ^ (w - 1)) ∧ y = -1) → val .div = Int.tdiv x y) ∧
    (etySigned ty = true → x = -(2 ^ (w - 1)) → y = -1 → val .div = -(2 ^ (w - 1)) ∧ val .rem = 0) ∧
    val .min = min x y ∧ val .max = max x y ∧
    (∀ j, j < w → ((intOp .and ty false a b).testBit j = (a.testBit j && b.testBit j) ∧
      (intOp .or ty false a b).testBit j = (a.testBit j || b.testBit j) ∧
      (intOp .xor ty false a b).testBit j = (a.testBit j != b.testBit j) ∧
      (intOp .andn ty false a b).testBit j = (a.testBit j && !b.testBit j) ∧
      (intOp .shl ty false a b).testBit j = (decide (b % w ≤ j) && a.testBit (j - b % w)) ∧
      (intOp .shr ty false a b).testBit j = a.testBit (j + b % w) ∧
      (intOp .sar ty false a b).testBit j = a.testBit (min (w - 1) (j + b % w)) ∧
      (intOp .rot ty false a b).testBit j = a.testBit ((j + w - b % w) % w)))

/-- R242, R248, R249, R250, R251, R240: NOP, MOVI, MOVHI, CMP, SEL, CLZ, POPC, BREV, EXT and INS write what their rules say and
change nothing but D and the PC.
R250: the counts and the reversal, bit by bit: above the leading zeros of CLZ the bits are 0 and the next is 1, POPC
counts the one bits, and BREV reverses. -/
def Obligations.ScalarMovesComplete : Prop :=
  (∀ (s : State), Unstepped s →
    (Begins .no false ⟨0, false⟩ s → ∃ t, exec .nop s = .next t ∧ Completes s t s.me) ∧
    (∀ d v p, Begins .no false p s →
      ∃ t, exec (.movi d v p) s = .next t ∧ Completes s t (s.me.write d (v.signExtend 64))) ∧
    (∀ d (v : BitVec 16) p, Begins .no false p s →
      ∃ t, exec (.movhi d v p) s = .next t ∧ Completes s t (s.me.write d (v ++ (s.me.src 0 d).setWidth 48))) ∧
    (∀ x : C2, x.ty.isInt = true → Begins .narrow false x.p s →
      ∃ t, exec (.cmp x) s = .next t ∧
        let ty := s.me.desc.srcTy x.ty
        let v := fun o => asInt (etySigned ty) (etyWidth ty) (s.me.src x.imm o).toNat
        Completes s t (s.me.write x.d (if cmpI x.cond (v x.a) (v x.b) then 1 else 0))) ∧
    (∀ x : R3, Begins .no false x.p s →
      ∃ t, exec (.sel x) s = .next t ∧
        Completes s t (s.me.write x.d (s.me.src x.imm (if (s.me.src x.imm x.a).getLsbD 0 then x.b else x.c)))) ∧
    (∀ x : T1, Begins .narrow false x.p s →
      let ty := s.me.desc.srcTy x.ty
      let a := (s.me.src x.imm x.a).toNat % 2 ^ etyWidth ty
      (∃ t, exec (.clz x) s = .next t ∧ Completes s t (s.me.write x.d (BitVec.ofNat 64 (clzN (etyWidth ty) a)))) ∧
      (∃ t, exec (.popc x) s = .next t ∧ Completes s t (s.me.write x.d (BitVec.ofNat 64 (popcN (etyWidth ty) a)))) ∧
      ∃ t, exec (.brev x) s = .next t ∧
        Completes s t (s.me.write x.d (ext64 (etySigned ty) (etyWidth ty) (brevN (etyWidth ty) a)))) ∧
    (∀ x : Bf, Begins .no false x.p s →
      ∃ t, exec (.ext x) s = .next t ∧
        Completes s t (s.me.write x.d (ext64 x.sgn (x.len1 + 1) (bits (s.me.src 0 x.a) x.pos (x.len1 + 1))))) ∧
    (∀ x : Bf, x.pos.val + x.len1.val + 1 ≤ 64 → Begins .no false x.p s →
      ∃ t v, exec (.ins x) s = .next t ∧ Completes s t (s.me.write x.d v) ∧
        ∀ j, j < 64 → v.getLsbD j =
          if x.pos.val ≤ j ∧ j ≤ x.pos.val + x.len1.val then (s.me.src 0 x.a).getLsbD (j - x.pos.val)
          else (s.me.src 0 x.d).getLsbD j)) ∧
  ∀ w a : Nat, a < 2 ^ w →
    clzN w a ≤ w ∧ (∀ j, w - clzN w a ≤ j → a.testBit j = false) ∧ (a ≠ 0 → a.testBit (w - 1 - clzN w a) = true) ∧
    popcN w a = ((List.range w).filter fun j => a.testBit j).length ∧
    ∀ j, (brevN w a).testBit j = (decide (j < w) && a.testBit (w - 1 - j))

/-- R252, R253, R254, R255: the float instructions and the conversions write their result and add its flags to FSTAT, under
the rounding mode and the flush of the strand and its prefix. R144, R145, R146, R149: what the operations give: the exact sum, difference,
product, product and sum, quotient and root rounded once by the mode; the canonical NaN for a NaN operand, for ∞ − ∞, 0 × ∞, 0 / 0, ∞ / ∞
and the root of a value below −0; infinities and zeros with their signs; and FMIN and FMAX as the operand chosen, with −0 below +0. -/
def Obligations.ScalarFloatCompletes : Prop :=
  (∀ m ∈ [(Instr.fadd, FOp.add, PxSpec.round), (Instr.fsub, .sub, .round), (Instr.fmul, .mul, .round), (Instr.fdiv, .div, .round),
        (Instr.fmin, .min, .nothing), (Instr.fmax, .max, .nothing)],
      ∀ (x : T2) (s : State), Begins m.2.2 false x.p s → Unstepped s →
        ∃ t, exec (m.1 x) s = .next t ∧
          let r := fltOp m.2.1 (etyFmt x.ty) (s.me.fenv s.me.desc) ((s.me.src x.imm x.a).toNat % 2 ^ etyWidth x.ty)
            ((s.me.src x.imm x.b).toNat % 2 ^ etyWidth x.ty)
          Completes s t ((s.me.addFlags r.fl).write x.d (BitVec.ofNat 64 r.bits))) ∧
  (∀ (x : T3) (s : State), Begins .round false x.p s → Unstepped s →
    ∃ t, exec (.fma x) s = .next t ∧
      let v := fun o => (s.me.src x.imm o).toNat % 2 ^ etyWidth x.ty
      let r := fmaF (etyFmt x.ty) (s.me.fenv s.me.desc) (v x.a) (v x.b) (v x.c)
      Completes s t ((s.me.addFlags r.fl).write x.d (BitVec.ofNat 64 r.bits))) ∧
  (∀ (x : T1) (s : State), Begins .round false x.p s → Unstepped s →
    ∃ t, exec (.fsqrt x) s = .next t ∧
      let r := sqrtF (etyFmt x.ty) (s.me.fenv s.me.desc) ((s.me.src x.imm x.a).toNat % 2 ^ etyWidth x.ty)
      Completes s t ((s.me.addFlags r.fl).write x.d (BitVec.ofNat 64 r.bits))) ∧
  (∀ (x : C2) (s : State), x.ty.isFlt = true → Begins .nothing false x.p s → Unstepped s →
    ∃ t, exec (.fcmp x) s = .next t ∧
      let ty := s.me.desc.srcTy x.ty
      let v := fun o => (s.me.src x.imm o).toNat % 2 ^ etyWidth ty
      let r := cmpF (etyFmt ty) s.me.ftz x.cond (v x.a) (v x.b)
      Completes s t ((s.me.addFlags r.2).write x.d (if r.1 then 1 else 0))) ∧
  (∀ (x : Cv) (s : State), Begins (cvtPx s.me.desc x.src x.dst) false x.p s → Unstepped s →
    ∃ t, exec (.cvt x) s = .next t ∧
      let b := s.me.desc.dstTy x.dst
      let r := cvtElem (s.me.fenv s.me.desc) s.me.desc.sat (s.me.desc.srcTy x.src) b (s.me.src x.imm x.a).toNat
      Completes s t ((s.me.addFlags r.fl).write x.d (ext64 (etySigned b) (etyWidth b) r.bits))) ∧
  ∀ f ∈ [Fmt.fp32, .fp16, .bf16],
    (∀ (env : FEnv) (a b c : Nat),
      let x := readF f env.ftz a
      let y := readF f env.ftz b
      let z := readF f env.ftz c
      let nan := fun (iv : Bool) => (⟨f.nan, if iv then fIV else 0⟩ : FRes)
      ((x.isNan = true ∨ y.isNan = true) → ∀ op ∈ [FOp.add, .sub, .mul, .div], fltOp op f env a b = nan (x.isSig || y.isSig)) ∧
      (x.isNan = true → sqrtF f env a = nan x.isSig) ∧
      (x.isInf = true → y.isInf = true →
        fltOp .div f env a b = nan true ∧ fltOp .mul f env a b = ⟨f.sign (x.neg != y.neg) + f.inf, 0⟩ ∧
        fltOp .add f env a b = (if x.neg = y.neg then ⟨f.sign x.neg + f.inf, 0⟩ else nan true) ∧
        fltOp .sub f env a b = (if x.neg = y.neg then nan true else ⟨f.sign x.neg + f.inf, 0⟩)) ∧
      (x.isInf = true → y.isFin = true →
        (∀ op ∈ [FOp.add, .sub], fltOp op f env a b = ⟨f.sign x.neg + f.inf, 0⟩) ∧
        fltOp .div f env a b = ⟨f.sign (x.neg != y.neg) + f.inf, 0⟩ ∧ fltOp .div f env b a = ⟨f.sign (x.neg != y.neg), 0⟩ ∧
        (y.isZero = true → fltOp .mul f env a b = nan true ∧ fltOp .mul f env b a = nan true ∧ fmaF f env a b c = nan true) ∧
        (y.isZero = false → fltOp .mul f env a b = ⟨f.sign (x.neg != y.neg) + f.inf, 0⟩)) ∧
      (x.isFin = true → y.isFin = true → y.isZero = true →
        fltOp .div f env a b = if x.isZero then nan true else ⟨f.sign (x.neg != y.neg) + f.inf, fDZ⟩) ∧
      (x.isFin = true → y.isFin = true → z.isNan = true → fmaF f env a b c = nan z.isSig) ∧
      ((x.isNan = true ∨ y.isNan = true) → fmaF f env a b c = nan (x.isSig || y.isSig || z.isSig)) ∧
      ((x.isInf = true ∧ (y.isInf = true ∨ y.isFin = true ∧ y.isZero = false) ∨ y.isInf = true ∧ x.isFin = true ∧ x.isZero = false) →
        fmaF f env a b c = if z.isNan then nan z.isSig else if z.isInf && z.neg != (x.neg != y.neg) then nan true
          else ⟨f.sign (x.neg != y.neg) + f.inf, 0⟩) ∧
      (x.isFin = true → y.isFin = true → z.isInf = true → fmaF f env a b c = ⟨f.sign z.neg + f.inf, 0⟩) ∧
      (x.neg = true → x.isNan = false → x.isZero = false → sqrtF f env a = nan true) ∧ (x = .inf false → sqrtF f env a = ⟨f.inf, 0⟩) ∧
      (x.isZero = true → sqrtF f env a = ⟨f.sign x.neg, 0⟩)) ∧
    (∀ (mode a b c : Nat), mode < 4 →
      let env : FEnv := ⟨mode, false⟩
      let x := readF f false a
      let y := readF f false b
      let z := readF f false c
      x.isFin = true → y.isFin = true → z.isFin = true →
      (x.rat + y.rat ≠ 0 → Rounds f mode (x.rat + y.rat) (fltOp .add f env a b)) ∧
      (x.rat - y.rat ≠ 0 → Rounds f mode (x.rat - y.rat) (fltOp .sub f env a b)) ∧
      (x.rat * y.rat ≠ 0 → Rounds f mode (x.rat * y.rat) (fltOp .mul f env a b)) ∧
      (x.rat * y.rat + z.rat ≠ 0 → Rounds f mode (x.rat * y.rat + z.rat) (fmaF f env a b c)) ∧
      (x.rat ≠ 0 → y.rat ≠ 0 → Rounds f mode (x.rat / y.rat) (fltOp .div f env a b)) ∧
      (x.rat + y.rat = 0 → fltOp .add f env a b =
        ⟨f.sign (if x.isZero then (if x.neg = y.neg then x.neg else decide (mode = 3)) else decide (mode = 3)), 0⟩) ∧
      (x.rat * y.rat = 0 → fltOp .mul f env a b = ⟨f.sign (x.neg != y.neg), 0⟩) ∧
      (x.rat = 0 → y.rat ≠ 0 → fltOp .div f env a b = ⟨f.sign (x.neg != y.neg), 0⟩) ∧
      (0 < x.rat → let r := sqrtF f env a
        let v := (readF f false r.bits).rat
        (readF f false r.bits).isFin = true ∧ 0 < v ∧ (r.fl.getLsbD 4 = true ↔ v * v ≠ x.rat) ∧
        (mode = 0 → ∀ w, f.Rep w → 0 ≤ w → (v < w → x.rat ≤ ((v + w) / 2) ^ 2) ∧ (w < v → ((v + w) / 2) ^ 2 ≤ x.rat)) ∧
        ((mode = 1 ∨ mode = 3) → v * v ≤ x.rat ∧ ∀ w, f.Rep w → w * w ≤ x.rat → w ≤ v) ∧
        (mode = 2 → x.rat ≤ v * v ∧ ∀ w, f.Rep w → 0 ≤ w → x.rat ≤ w * w → v ≤ w))) ∧
    ∀ (env : FEnv) (mx : Bool) (a b : Nat), a < 2 ^ f.width → b < 2 ^ f.width →
      let x := readF f env.ftz a
      let y := readF f env.ftz b
      let r := fltOp (if mx then .max else .min) f env a b
      let v := readF f env.ftz r.bits
      r.fl = (if x.isSig || y.isSig then fIV else 0) ∧ (x.isNan = true → y.isNan = true → r.bits = f.nan) ∧
      (env.ftz = false → (x.isNan = true → y.isNan = false → r.bits = b) ∧ (x.isNan = false → y.isNan = true → r.bits = a) ∧
        (x.isNan = false → y.isNan = false → (r.bits = a ∨ r.bits = b) ∧
          (mx = false → ¬ x.Below v ∧ ¬ y.Below v) ∧ (mx = true → ¬ v.Below x ∧ ¬ v.Below y) ∧
          (x.isZero = true → y.isZero = true → v.neg = if mx then x.neg && y.neg else x.neg || y.neg))) ∧
      (env.ftz = true → r.bits % 2 ^ (f.width - 1) < 2 ^ f.fbits → r.bits % 2 ^ (f.width - 1) = 0)

/-! ## Control and the FMT prefix -/

/-- R256 to R260: BR, BRC, CALL, RET, JMP, JMP.L and LOOP go to their target where a transfer may arrive there, with the link in g61
where the rule says so, and fall through where their condition says so. R261: NEXTI gives the next iteration of the strand's range
in g63 and advances RNGLO, and with an empty range goes to its target. The range is handed out only while no resize has asked the
strand to stop (R369). R178, R256: a branch, call, jump or return to a PC that is not well formed raises ILLEGAL_PC at the
transferring instruction, with the target in BADADDR, and makes no other effect. R180: a transfer to a slot whose TGT bit is clear, of a
line that the core has in its instruction cache, raises ILLEGAL_TARGET there, with the target in BADADDR. -/
def Obligations.BranchesComplete : Prop :=
  (∀ (s : State) (p : Pred), Begins .no false p s → Unstepped s →
    (∀ tgt, Enterable s (pcTarget s.me.pc tgt) →
      (∃ t, exec (.br tgt p) s = .next t ∧ Jumps s t s.me (pcTarget s.me.pc tgt)) ∧
      ∃ t, exec (.call tgt p) s = .next t ∧ Jumps s t (s.me.setG 61 (pcNext s.me.pc)) (pcTarget s.me.pc tgt)) ∧
    (Enterable s (s.me.readG 61) → ∃ t, exec (.ret p) s = .next t ∧ Jumps s t s.me (s.me.readG 61)) ∧
    (∀ a, Enterable s (s.me.src 0 a) →
      (∃ t, exec (.jmp a p) s = .next t ∧ Jumps s t s.me (s.me.src 0 a)) ∧
      ∃ t, exec (.jmpL a p) s = .next t ∧ Jumps s t (s.me.setG 61 (pcNext s.me.pc)) (s.me.src 0 a)) ∧
    (∀ x : C2, x.p = p → x.ty.isInt = true →
      let v := fun o => asInt (etySigned x.ty) (etyWidth x.ty) (s.me.src 0 o).toNat
      (cmpI x.cond (v x.a) (v x.b) = true → Enterable s (pcTarget s.me.pc x.imm) →
        ∃ t, exec (.brc x) s = .next t ∧ Jumps s t s.me (pcTarget s.me.pc x.imm)) ∧
      (cmpI x.cond (v x.a) (v x.b) = false → ∃ t, exec (.brc x) s = .next t ∧ Completes s t s.me)) ∧
    (∀ a tgt,
      (s.me.src 0 a = 0 → ∃ t, exec (.loop a tgt p) s = .next t ∧ Completes s t s.me) ∧
      (s.me.src 0 a = 1 → ∃ t, exec (.loop a tgt p) s = .next t ∧ Completes s t (s.me.write a 0)) ∧
      (1 < (s.me.src 0 a).toNat → Enterable s (pcTarget s.me.pc tgt) →
        ∃ t, exec (.loop a tgt p) s = .next t ∧ Jumps s t (s.me.write a (s.me.src 0 a - 1)) (pcTarget s.me.pc tgt)))) ∧
  (∀ (s : State) (p : Pred) (tgt : W48), Begins .no false p s → Unstepped s → s.me.rangeStop = false →
    (s.me.rnglo.toNat < s.me.rnghi.toNat →
      ∃ t, exec (.nexti tgt p) s = .next t ∧ Completes s t { s.me.setG 63 s.me.rnglo with rnglo := s.me.rnglo + 1 }) ∧
    (s.me.rnghi.toNat ≤ s.me.rnglo.toNat → Enterable s (pcTarget s.me.pc tgt) →
      ∃ t, exec (.nexti tgt p) s = .next t ∧ Jumps s t s.me (pcTarget s.me.pc tgt))) ∧
  (∀ (s : State) (p : Pred), Begins .no false p s → s.myCore.res = true →
    (∀ tgt, pcOk (pcTarget s.me.pc tgt) = false → ∀ i ∈ [Instr.br tgt p, .call tgt p],
      ∃ t, exec i s = .next t ∧ Traps s t 4 (pcTarget s.me.pc tgt) s.me.pc) ∧
    (∀ a, pcOk (s.me.src 0 a) = false → ∀ i ∈ [Instr.jmp a p, .jmpL a p],
      ∃ t, exec i s = .next t ∧ Traps s t 4 (s.me.src 0 a) s.me.pc) ∧
    (pcOk (s.me.readG 61) = false → ∃ t, exec (.ret p) s = .next t ∧ Traps s t 4 (s.me.readG 61) s.me.pc)) ∧
  ∀ (s : State) (p : Pred) (num : Nat) (pc : W64), Begins .no false p s → s.myCore.res = true →
    (num = 4 ∧ pcOk pc = false ∨
      num = 5 ∧ pcOk pc = true ∧ ∃ l, s.fetch s.cur.1 s.cur.2 (pcLine pc) = .line l ∧ lineTgt l.bytes (pcSlot pc) = false) →
    (∀ tgt, pcTarget s.me.pc tgt = pc →
      (∀ i ∈ [Instr.br tgt p, .call tgt p], ∃ t, exec i s = .next t ∧ Traps s t num pc s.me.pc) ∧
      (∀ a, 1 < (s.me.src 0 a).toNat → ∃ t, exec (.loop a tgt p) s = .next t ∧ Traps s t num pc s.me.pc) ∧
      (s.me.rangeStop = false → s.me.rnghi.toNat ≤ s.me.rnglo.toNat →
        ∃ t, exec (.nexti tgt p) s = .next t ∧ Traps s t num pc s.me.pc) ∧
      ∀ x : C2, x.p = p → x.imm = tgt → x.ty.isInt = true →
        cmpI x.cond (asInt (etySigned x.ty) (etyWidth x.ty) (s.me.src 0 x.a).toNat)
          (asInt (etySigned x.ty) (etyWidth x.ty) (s.me.src 0 x.b).toNat) = true →
        ∃ t, exec (.brc x) s = .next t ∧ Traps s t num pc s.me.pc) ∧
    (∀ a, s.me.src 0 a = pc → ∀ i ∈ [Instr.jmp a p, .jmpL a p], ∃ t, exec i s = .next t ∧ Traps s t num pc s.me.pc) ∧
    (s.me.readG 61 = pc → ∃ t, exec (.ret p) s = .next t ∧ Traps s t num pc s.me.pc)

/-- R196, R197: FMT sets STATUS.PX, puts its descriptor into PXV[31:0] and goes on to the next slot; nothing else changes. -/
def Obligations.FmtCompletes : Prop :=
  ∀ (s : State) (d : W32), Begins .no false ⟨0, false⟩ s → Unstepped s →
    ∃ t, exec (.fmt d) s = .next t ∧ OnlyStrand s.cur.1 s.cur.2 s t ∧
      t.me = { s.past s.cur.1 s.cur.2 s.me with
        status := setBit s.me.status 5 true, pxv := s.me.pxv.extractLsb' 32 32 ++ d }

/-! ## Exceptions, predicates and prefixes -/

/-- R168, R371, R373: trap entry saves STATUS.PX, IE and PRV into SPX, SIE and SPRV, clears PX and IE, sets PRV, copies
PXV[31:0] to PXV[63:32], writes CAUSE, EPC and BADADDR, and goes to 0x7E000; every other bit of STATUS, every general, vector
and mask register and every other special register stays. -/
def Obligations.TrapEntryEffect : Prop :=
  ∀ (t : Strand) (x : Cause) (epc : W64),
    let u := t.enter x epc
    u.status.getLsbD 5 = false ∧ u.status.getLsbD 6 = t.status.getLsbD 5 ∧ u.status.getLsbD 7 = true ∧
    u.status.getLsbD 8 = t.status.getLsbD 7 ∧ u.status.getLsbD 9 = t.status.getLsbD 10 ∧ u.status.getLsbD 10 = false ∧
    (∀ j, j ∉ [5, 6, 7, 8, 9, 10] → u.status.getLsbD j = t.status.getLsbD j) ∧
    u.pxv = t.pxv.setWidth 32 ++ t.pxv.setWidth 32 ∧
    u.epc = epc ∧ u.badaddr = x.bad ∧ u.pc = 0x7E000 ∧
    (x.num < 256 → (u.cause.setWidth 8).toNat = x.num) ∧ u.cause.getLsbD 8 = x.async ∧
    (u.g, u.v, u.k, u.fstat, u.svcXyz, u.asid, u.stkb, u.rnglo, u.rnghi, u.dfCause, u.pend, u.merrlg) =
      (t.g, t.v, t.k, t.fstat, t.svcXyz, t.asid, t.stkb, t.rnglo, t.rnghi, t.dfCause, t.pend, t.merrlg)

/-- R168, R352: ERET, where no pre-emption and no escape to containment is under way and EPC is well formed, restores PX, IE
and PRV from SPX, SIE and SPRV and PXV[31:0] from PXV[63:32], and goes to EPC; nothing but its strand changes. That no STEP follows an
ERET, whatever SSTEP and IE are, is the model's choice (assumption log 31). -/
def Obligations.EretCompletes : Prop :=
  ∀ (s : State) (p : Pred), Begins .no true p s → pcOk s.me.epc = true →
    ¬ (s.me.preempting = true ∧ (s.me.cause.setWidth 8).toNat = 38) → s.me.cause.getLsbD 9 = false →
    ∃ t, exec (.eret p) s = .next t ∧ OnlyStrand s.cur.1 s.cur.2 s t ∧
      t.me.pc = s.me.epc ∧ t.me.status.getLsbD 5 = s.me.status.getLsbD 6 ∧ t.me.status.getLsbD 7 = s.me.status.getLsbD 8 ∧
      t.me.status.getLsbD 10 = s.me.status.getLsbD 9 ∧
      (∀ j, j ∉ [5, 7, 10] → t.me.status.getLsbD j = s.me.status.getLsbD j) ∧
      t.me.pxv = s.me.pxv.extractLsb' 32 32 ++ s.me.pxv.extractLsb' 32 32 ∧
      (t.me.g, t.me.v, t.me.k, t.me.cause, t.me.epc, t.me.badaddr, t.me.fstat, t.me.svcXyz, t.me.asid, t.me.stkb) =
        (s.me.g, s.me.v, s.me.k, s.me.cause, s.me.epc, s.me.badaddr, s.me.fstat, s.me.svcXyz, s.me.asid, s.me.stkb)

/-- R351: TRAP enters the handler with USER_TRAP (19), its code in BADADDR and the PC that follows in EPC; BRK with BREAKPOINT (20),
its code and its own PC; where the core's handler is resident (RES = 1). R355, R356: TIMEC gives the timecode; TIMEC.WAIT does so
once the timecode has reached its operand and waits until then; HALT retires, leaves its strand halted and reports it. -/
def Obligations.TrapTimecHaltComplete : Prop :=
  (∀ (s : State) (p : Pred) (code : BitVec 16), Begins .no false p s → s.myCore.res = true →
    (∃ t, exec (.trap code p) s = .next t ∧ Traps s t 19 (code.setWidth 64) (pcNext s.me.pc)) ∧
    ∃ t, exec (.brk code p) s = .next t ∧ Traps s t 20 (code.setWidth 64) s.me.pc) ∧
  (∀ (s : State) (p : Pred),
    (∀ d, Begins .no false p s → Unstepped s →
      ∃ t, exec (.timec d p) s = .next t ∧ Completes s t (s.me.write d s.timecode)) ∧
    (∀ d a, Begins .no false p s → Unstepped s → (s.me.src 0 a).toNat ≤ s.timecode.toNat →
      ∃ t, exec (.timecWait d a p) s = .next t ∧ Completes s t (s.me.write d s.timecode)) ∧
    (∀ d a, Begins .no false p s → s.timecode.toNat < (s.me.src 0 a).toNat →
      ∃ t, exec (.timecWait d a p) s = .next t ∧ Blocks s t (.timec d (s.me.src 0 a))) ∧
    (∀ c i d till, c < 12288 → i < 4 → (s.strand c i).wait = .timec d till → till.toNat ≤ s.timecode.toNat →
      ((s.strand c i).sstep && (s.strand c i).ie) = false →
      ∃ t, exec (.timecodeWaitExpiry c i) s = .next t ∧ RetiresAt c i s t ((s.strand c i).write d s.timecode)) ∧
    (Begins .no true p s → Unstepped s →
      ∃ t, exec (.halt p) s = .next t ∧ t.reports = s.reports ++ [(3, 4 * s.cur.1 + s.cur.2)] ∧
        Completes s { t with reports := s.reports } { s.me with run := .halted }))

/-- R155, R189, R194, R197: what comes before an instruction's own checks, stated for instructions of each class that take no
prefix: with a prefix pending ILLEGAL_PREFIX; and with a predicate of 0 nothing happens but that the strand goes on. The privileged
ones take PRIVILEGE in user mode before that. R385: with SSTEP and IE set, an instruction that has retired is followed by STEP, with
EPC the PC it went on to; stated for NOP and for ADD. -/
def Obligations.BeforeAndAfterAnInstruction : Prop :=
  (∀ (s : State), s.cur.2 < 4 →
    (∀ i ∈ [fun p => Instr.movi (.g 1) 5 p, fun p => .br 0 p, fun p => .ret p, fun p => .cinvAll p, fun p => .tfill 3 p,
          fun p => .mmz (.acc 0) 0 p, fun p => .sysr (.g 1) 0 p, fun p => .trap 0 p, fun p => .done p],
      ∀ p, (s.me.px = true → s.myCore.res = true → ∃ t, exec (i p) s = .next t ∧ Traps s t 3 s.me.pc s.me.pc) ∧
        (s.me.px = false → s.me.predOn p = false → Unstepped s → ∃ t, exec (i p) s = .next t ∧ Completes s t s.me)) ∧
    ∀ i ∈ [fun p => Instr.eret p, fun p => .halt p, fun p => .tlbinv (.g 1) p, fun p => .tlbinvPg (.g 1) (.g 2) p],
      ∀ p, s.me.px = false → s.me.prv = false → s.myCore.res = true →
        ∃ t, exec (i p) s = .next t ∧ Traps s t 7 s.me.pc s.me.pc) ∧
  (∀ (s : State), (s.me.sstep && s.me.ie) = true → s.myCore.res = true →
    (Begins .no false ⟨0, false⟩ s → ∃ t, exec .nop s = .next t ∧ OnlyStrand s.cur.1 s.cur.2 s t ∧
      t.me = (s.past s.cur.1 s.cur.2 s.me).enter { num := 21, bad := 0 } (pcNext s.me.pc)) ∧
    ∀ x : T2, Begins .narrowSat false x.p s → ∃ t v, exec (.add x) s = .next t ∧ OnlyStrand s.cur.1 s.cur.2 s t ∧
      t.me = (s.past s.cur.1 s.cur.2 (s.me.write x.d v)).enter { num := 21, bad := 0 } (pcNext s.me.pc))

/-! ## System registers, TIMEC, HALT -/

/-- R165, R353, R384: SYSR writes the register's value to D, in a mode that may read it; once CAUSE and BADADDR have both been read
the handler window closes. R165, R166, R353: SYSW writes the fields of a register that the mode may write. A strand's own register
changes nothing else; RES, NETORD and NGCFG change their core, device or region. R166: what SYSW has written to a strand's register,
SYSR reads: the bits of its fields, and zero in its reserved ones. R165: a register that the mode may not use raises PRIVILEGE, and
an unassigned number ILLEGAL_ENCODING; a SYSW to a register whose fields are read-only raises PROTECTION. R160: a SYSW of 0 to an entry of
the error log clears it, and one of any other value raises ILLEGAL_ENCODING. R171, R172: so does a value that SVC_XYZ or ASID does not
accept. R110: a SYSW that sets RES while bank 63 is not in SCR mode raises BANK_MODE. -/
def Obligations.SystemRegistersComplete : Prop :=
  (∀ (s : State) (d : Opd) (reg : BitVec 12) (p : Pred) (u q : SysAcc), Begins .no false p s → Unstepped s →
    sysAccess reg.toNat = some (u, q) → (s.me.prv = true ∨ u ≠ .none) →
      ∃ t, exec (.sysr d reg p) s = .next t ∧
        Completes s t ((s.me.write d (s.sysGet s.cur.1 s.cur.2 reg.toNat)).sawSys reg.toNat)) ∧
  (∀ (s : State) (a : Opd) (reg : BitVec 12) (p : Pred) (u q : SysAcc), Begins .no false p s →
    sysAccess reg.toNat = some (u, q) → (s.me.prv = true ∨ u = .write) → q = .write →
    s.sysRefuse reg.toNat (s.me.src 0 a) = none →
      let r := (s.past s.cur.1 s.cur.2 s.me).sysSet reg.toNat (s.me.src 0 a)
      (r.sstep && r.ie) = false →
      ∃ t, exec (.sysw a reg p) s = .next t ∧ t.me = r ∧
        (reg.toNat ∉ [0x032, 0x041, 0x042] → OnlyStrand s.cur.1 s.cur.2 s t) ∧
        (reg.toNat = 0x032 → t.myCore.res = (s.me.src 0 a).getLsbD 0) ∧
        (reg.toNat = 0x041 → t.netord = s.me.src 0 a &&& 0xFFF) ∧
        (reg.toNat = 0x042 → (t.region (regionOf s.cur.1)).ngcfg = s.me.src 0 a &&& 0x00000FFFFFFFFFF1)) ∧
  (∀ m ∈ [((0x000 : Nat), (0xFE0 : W64)), (0x001, 0xFFFFFF), (0x002, 0xFFFFFFFFFFFFFFFF), (0x003, 0xFFFFFFFFFFFFFFFF),
      (0x004, 0xFFFFFFFFFFFFFFFF), (0x005, 0xE3F), (0x006, 0x3FFF), (0x007, 0xFFFF),
      (0x008, 0x00FFFFFFFFFF0000), (0x00B, 0xFFFFFFFFFFFFFFFF), (0x00C, 0xFFFFFFFFFFFFFFFF), (0x00E, 0xFF)],
    ∀ (s : State) (c i : Nat) (v : W64), i < 4 → (s.modStrand c i (·.sysSet m.1 v)).sysGet c i m.1 = v &&& m.2) ∧
  (∀ (s : State) (d : Opd) (reg : BitVec 12) (p : Pred), Begins .no false p s → s.myCore.res = true →
    (sysAccess reg.toNat = none → ∀ i ∈ [Instr.sysr d reg p, .sysw d reg p],
      ∃ t, exec i s = .next t ∧ Traps s t 2 s.me.pc s.me.pc) ∧
    (∀ q, sysAccess reg.toNat = some (.none, q) → s.me.prv = false → ∀ i ∈ [Instr.sysr d reg p, .sysw d reg p],
      ∃ t, exec i s = .next t ∧ Traps s t 7 s.me.pc s.me.pc)) ∧
  (∀ (s : State) (a : Opd) (reg : BitVec 12) (p : Pred) (u q : SysAcc), Begins .no false p s → s.myCore.res = true →
    sysAccess reg.toNat = some (u, q) →
    let v := (s.me.src 0 a).toNat
    let traps := fun num => ∃ t, exec (.sysw a reg p) s = .next t ∧ Traps s t num s.me.pc s.me.pc
    (u = .read → s.me.prv = false → traps 7) ∧
    ((s.me.prv = true ∨ u = .write) →
      (q = .read → traps 9) ∧
      (reg = 0x006 → (2 ^ 14 ≤ v ∨ 24 ≤ v / 32 % 32) → traps 2) ∧
      (reg = 0x007 → 2 ^ 16 ≤ v → traps 2) ∧
      (reg = 0x032 → v % 2 = 1 → s.myCore.mode 63 ≠ 0 → traps 10))) ∧
  ∀ (s : State) (a : Opd) (k : Nat) (p : Pred), Begins .no false p s → k < 8 →
    let reg := BitVec.ofNat 12 (0x010 + k)
    (s.me.src 0 a = 0 → Unstepped s → ∃ t e, exec (.sysw a reg p) s = .next t ∧ Completes s t { s.me with merrlg := e } ∧
      e[k]? = some 0 ∧ ∀ j, j ≠ k → e[j]? = s.me.merrlg[j]?) ∧
    (s.me.src 0 a ≠ 0 → s.myCore.res = true → ∃ t, exec (.sysw a reg p) s = .next t ∧ Traps s t 2 s.me.pc s.me.pc)

/-! ## Vector instructions -/

/-- R264, R268, R269, R271: the lane-wise instructions of two sources give every active lane the result of the scalar operation on
that lane, integer or float as the type says, and leave every other lane. R268, R269, R270: VFMA, VABS and VNEG, lane by lane: the
exact a × b + c, the magnitude and the negation, wrapped or saturated; on float lanes the fused sum, and the sign bit cleared or
inverted. -/
def Obligations.VectorArithmeticCompletes : Prop :=
  (∀ m ∈ [(Instr.vadd, IOp.add, FOp.add, PxSpec.narrowSat, PxSpec.round), (Instr.vsub, .sub, .sub, .narrowSat, .round),
      (Instr.vmul, .mul, .mul, .narrowSat, .round), (Instr.vmin, .min, .min, .narrow, .nothing),
      (Instr.vmax, .max, .max, .narrow, .nothing), (Instr.vmulH, .mulh, .add, .narrowSat, .narrowSat),
      (Instr.vand, .and, .add, .narrow, .narrow), (Instr.vandN, .andn, .add, .narrow, .narrow),
      (Instr.vor, .or, .add, .narrow, .narrow), (Instr.vxor, .xor, .add, .narrow, .narrow),
      (Instr.vshl, .shl, .add, .narrow, .narrow), (Instr.vshr, .shr, .add, .narrow, .narrow),
      (Instr.vsar, .sar, .add, .narrow, .narrow)],
    ∀ (x : T2) (s : State), Instr.wellFormed (m.1 x) = true → Begins (.byType x.ty m.2.2.2.1 m.2.2.2.2) false noPred s →
      Unstepped s →
      ∃ t, exec (m.1 x) s = .next t ∧
        let ty := s.me.desc.srcTy x.ty
        let w := etyWidth ty
        LaneWise s t x.d x.p w fun i =>
          let a := lane w (s.me.vsrc x.imm w x.a) i
          let b := lane w (s.me.vsrc x.imm w x.b) i
          if ty.isFlt then fltOp m.2.2.1 (etyFmt ty) (s.me.fenv s.me.desc) a b else ⟨intOp m.2.1 ty s.me.desc.sat a b, 0⟩) ∧
  ((∀ (x : T3) (s : State), Instr.wellFormed (.vfma x) = true → Begins (.byType x.ty .narrowSat .round) false noPred s → Unstepped s →
    ∃ t, exec (.vfma x) s = .next t ∧
      let ty := s.me.desc.srcTy x.ty
      let w := etyWidth ty
      LaneWise s t x.d x.p w fun i =>
        let v := fun o => lane w (s.me.vsrc x.imm w o) i
        let n := fun o => asInt (etySigned ty) w (v o)
        if ty.isFlt then fmaF (etyFmt ty) (s.me.fenv s.me.desc) (v x.a) (v x.b) (v x.c)
        else ⟨narrow ty s.me.desc.sat (n x.a * n x.b + n x.c), 0⟩) ∧
  (∀ (x : T1) (s : State), Instr.wellFormed (.vabs x) = true → Begins (.byType x.ty .narrowSat .nothing) false noPred s → Unstepped s →
    (∃ t, exec (.vabs x) s = .next t ∧
      let ty := s.me.desc.srcTy x.ty
      let w := etyWidth ty
      LaneWise s t x.d x.p w fun i =>
        let a := lane w (s.me.vsrc x.imm w x.a) i
        if ty.isFlt then ⟨a % 2 ^ (w - 1), 0⟩ else ⟨narrow ty s.me.desc.sat (asInt (etySigned ty) w a).natAbs, 0⟩) ∧
    ∃ t, exec (.vneg x) s = .next t ∧
      let ty := s.me.desc.srcTy x.ty
      let w := etyWidth ty
      LaneWise s t x.d x.p w fun i =>
        let a := lane w (s.me.vsrc x.imm w x.a) i
        if ty.isFlt then ⟨(a + 2 ^ (w - 1)) % 2 ^ w, 0⟩ else ⟨narrow ty s.me.desc.sat (-asInt (etySigned ty) w a), 0⟩))

/-- R272: VCMP sets the mask bit of each active lane to the comparison, keeps the bit of every other lane, and clears the bits
above the lanes; a write to k0 is discarded; FSTAT gains the flags of the active lanes. R240, R254: what a comparison of floats gives, with
−0 and +0 equal and a NaN unordered, and where it sets IV. -/
def Obligations.VcmpCompletes : Prop :=
  (∀ (x : C2) (s : State), Instr.wellFormed (.vcmp x) = true → Begins .no false noPred s → Unstepped s →
    let w := etyWidth x.ty
    let r := fun i => cmpTy x.ty x.cond s.me.ftz (lane w (s.me.vsrc x.imm w x.a) i) (lane w (s.me.vsrc x.imm w x.b) i)
    ∃ t k fl, exec (.vcmp x) s = .next t ∧ Completes s t ((s.me.addFlags fl).write x.d k) ∧
      (x.ty.isInt = true → fl = 0) ∧ (∀ j, fl.getLsbD j = true ↔ ∃ i, i < 1024 / w ∧ s.me.active x.p w i = true ∧ (r i).2.getLsbD j = true) ∧
      ∀ j, k.getLsbD j =
        (decide (j < 1024 / w) && if s.me.active x.p w j then (r j).1 else (s.me.readK (kNo x.d)).getLsbD j)) ∧
  ∀ f ∈ [Fmt.fp32, .fp16, .bf16], ∀ (ftz : Bool) (a b : Nat),
    let x := readF f ftz a
    let y := readF f ftz b
    let un := x.isNan || y.isNan
    let holds := fun c => (cmpF f ftz c a b).1 = true
    (holds .lt ↔ x.Below y) ∧ (holds .gt ↔ y.Below x) ∧ (holds .eq ↔ un = false ∧ ¬ x.Below y ∧ ¬ y.Below x) ∧ (holds .ne ↔ ¬ holds .eq) ∧
    (holds .le ↔ un = false ∧ ¬ y.Below x) ∧ (holds .ge ↔ un = false ∧ ¬ x.Below y) ∧ (holds .un ↔ un = true) ∧ (holds .or ↔ un = false) ∧
    ∀ c, (cmpF f ftz c a b).2 = if x.isSig || y.isSig || (un && decide (c ∈ [Cond.lt, .le, .gt, .ge])) then fIV else 0

/-- R274, R275: VCVT converts each active lane, with the flags of the active lanes, and the six functions of FP32 lanes give what R151
computes. R144, R150: what a conversion gives: a float rounded once to the destination, a NaN canonical, an integer rounded by the mode and
clamped with IV, an integer to a float rounded, an integer to an integer wrapped or clamped. -/
def Obligations.VectorConvertCompletes : Prop :=
  (∀ (x : Cv) (s : State),
    let src := s.me.desc.srcTy x.src
    let dst := s.me.desc.dstTy x.dst
    let w := max (etyWidth src) (etyWidth dst)
    Begins ⟨true, [.i8, .ui8], [.i8, .ui8], false, !dst.isFlt, src.isFlt || dst.isFlt⟩ false noPred s → Unstepped s →
    let el := fun i => cvtElem (s.me.fenv s.me.desc) s.me.desc.sat src dst (lane (etyWidth src) (s.me.vsrc x.imm (etyWidth src) x.a) i)
    ∃ t r fl, exec (.vcvt x) s = .next t ∧ Completes s t ((s.me.addFlags fl).writeV x.d r) ∧
      (∀ j, fl.getLsbD j = true ↔ ∃ i, i < 1024 / w ∧ s.me.active x.p w i = true ∧ (el i).fl.getLsbD j = true) ∧
      (∀ i, i < 1024 / w → lane (etyWidth dst) r i =
        if s.me.active x.p w i then (el i).bits % 2 ^ etyWidth dst
        else lane (etyWidth dst) (s.me.readV (vNo x.d)) i) ∧
      (∀ i, 1024 / w ≤ i → i < 1024 / etyWidth dst → lane (etyWidth dst) r i = 0)) ∧
  (∀ m ∈ [(Instr.vrcp, rcpF), (.vrsq, rsqF), (.vsqrt, fun z a => sqrtF .fp32 ⟨0, z⟩ a), (.vexp2, exp2F), (.vlog2, log2F), (.vtanh, tanhF)],
    ∀ (x : R1) (s : State), Begins .no false noPred s → Unstepped s →
      ∃ t, exec (m.1 x) s = .next t ∧
        LaneWise s t x.d x.p 32 fun i => m.2 s.me.ftz (lane 32 (s.me.vsrc x.imm 32 x.a) i)) ∧
  (∀ src ∈ [ETy.fp32, .fp16, .bf16], ∀ (env : FEnv) (sat : Bool) (a : Nat), a < 2 ^ etyWidth src →
    let x := readF (etyFmt src) env.ftz a
    (∀ dst ∈ [ETy.fp32, .fp16, .bf16],
      let r := cvtElem env sat src dst a
      let g := etyFmt dst
      (x.isNan = true → r = ⟨g.nan, if x.isSig then fIV else 0⟩) ∧ (x.isInf = true → r = ⟨g.sign x.neg + g.inf, 0⟩) ∧
      (x.isZero = true → r = ⟨g.sign x.neg, 0⟩) ∧
      (x.isFin = true → x.rat ≠ 0 → env.ftz = false → env.mode < 4 → Rounds g env.mode x.rat r)) ∧
    ∀ dst ∈ [ETy.i8, .i16, .i32, .i64, .ui8, .ui16, .ui32, .ui64],
      let r := cvtElem env sat src dst a
      let v := asInt (etySigned dst) (etyWidth dst) r.bits
      (x.isNan = true → v = 0 ∧ r.fl = fIV) ∧ (x.isInf = true → v = (if x.neg then tyLo dst else tyHi dst) ∧ r.fl = fIV) ∧
      (x.isFin = true → env.mode < 4 → ∃ k : Int,
        (env.mode = 0 → |x.rat - k| ≤ 1 / 2 ∧ (|x.rat - k| = 1 / 2 → k % 2 = 0)) ∧
        (env.mode = 1 → |(k : ℚ)| ≤ |x.rat| ∧ |x.rat - k| < 1) ∧ (env.mode = 2 → x.rat ≤ k ∧ (k : ℚ) < x.rat + 1) ∧
        (env.mode = 3 → (k : ℚ) ≤ x.rat ∧ x.rat < k + 1) ∧ v = max (tyLo dst) (min (tyHi dst) k) ∧
        r.fl = if k < tyLo dst ∨ tyHi dst < k then fIV else if x.rat = k then 0 else fNX)) ∧
  ∀ src ∈ [ETy.i8, .i16, .i32, .i64, .ui8, .ui16, .ui32, .ui64], ∀ (env : FEnv) (sat : Bool) (a : Nat), a < 2 ^ etyWidth src →
    let x := asInt (etySigned src) (etyWidth src) a
    (∀ dst ∈ [ETy.fp32, .fp16, .bf16], let r := cvtElem env sat src dst a
      (x = 0 → r = ⟨0, 0⟩) ∧ (x ≠ 0 → env.ftz = false → env.mode < 4 → Rounds (etyFmt dst) env.mode x r)) ∧
    ∀ dst ∈ [ETy.i8, .i16, .i32, .i64, .ui8, .ui16, .ui32, .ui64], let r := cvtElem env sat src dst a
      let v := asInt (etySigned dst) (etyWidth dst) r.bits
      r.fl = 0 ∧ (sat = true → v = max (tyLo dst) (min (tyHi dst) x)) ∧ (sat = false → Int.emod (v - x) (2 ^ etyWidth dst) = 0)

/-- R273, R278, R280, R281: VSEL, VPERM, VROT, VBCAST, VIOTA, VMOV and VEXPAND move bits to the active lanes, and VCOMPRESS packs
the active lanes together from lane 0 and writes zeros above them. -/
def Obligations.VectorMovesComplete : Prop :=
  (∀ (x : T3) (s : State), Begins .no false noPred s → Unstepped s →
    ∃ t, exec (.vsel x) s = .next t ∧
      let w := etyWidth (s.me.desc.srcTy x.ty)
      LaneWise s t x.d x.p w fun i =>
        ⟨lane w (s.me.vsrc x.imm w (if (s.me.src 0 x.a).getLsbD (laneBit w i) then x.b else x.c)) i, 0⟩) ∧
  (∀ m ∈ [(Instr.vperm, fun (s : State) (x : T2) (w i : Nat) => lane w (s.me.readV (vNo x.b)) i % (1024 / w)),
        (.vrot, fun s x w i => (i + (s.me.src x.imm x.b).toNat) % (1024 / w)),
        (.vbcast, fun s x w _ => (s.me.src x.imm x.b).toNat % (1024 / w))],
    ∀ (x : T2) (s : State), Begins .no false noPred s → Unstepped s →
      ∃ t, exec (m.1 x) s = .next t ∧
        let w := etyWidth (s.me.desc.srcTy x.ty)
        LaneWise s t x.d x.p w fun i => ⟨lane w (s.me.readV (vNo x.a)) (m.2 s x w i), 0⟩) ∧
  ∀ (x : T1) (s : State), Unstepped s →
    (Begins .narrow false noPred s → ∃ t, exec (.viota x) s = .next t ∧
      LaneWise s t x.d x.p (etyWidth (s.me.desc.srcTy x.ty)) fun i => ⟨(s.me.src x.imm x.a).toNat + i, 0⟩) ∧
    (Begins .no false noPred s →
      let w := etyWidth (s.me.desc.srcTy x.ty)
      (∃ t, exec (.vmov x) s = .next t ∧ LaneWise s t x.d x.p w fun i => ⟨lane w (s.me.vsrc x.imm w x.a) i, 0⟩) ∧
      (∃ t, exec (.vexpand x) s = .next t ∧
        LaneWise s t x.d x.p w fun i =>
          ⟨lane w (s.me.readV (vNo x.a)) ((List.range i).filter (s.me.active x.p w)).length, 0⟩) ∧
      ∃ t r, exec (.vcompress x) s = .next t ∧ Completes s t (s.me.writeV x.d r) ∧
        ∀ i, i < 1024 / etyWidth x.ty → lane (etyWidth x.ty) r i =
          (s.me.picked x.p (etyWidth x.ty) (s.me.readV (vNo x.a)))[i]?.getD 0)

/-- R276, R277, R279: VREDUCE and VSCAN combine the active lanes in the order their rules give, with the identity where no lane
is active; a signalling NaN in an active lane sets IV, also where it is the only one (R146); VEXTR and VINSL move one lane where it is
active. That a NaN which is the result of the first active lane of VSCAN is made canonical is the model's choice (assumption log 15; R277
copies that lane). -/
def Obligations.VectorAcrossLanesComplete : Prop :=
  (∀ (x : Rd) (s : State), Begins (.byType x.ty .narrow .round) false noPred s → Unstepped s →
    let ty := s.me.desc.srcTy x.ty
    let w := etyWidth ty
    (∃ t, exec (.vreduce x) s = .next t ∧
      let r := redTree x.op ty (s.me.fenv s.me.desc) (bitLen (1024 / w) - 1) (s.me.redLanes x ty) (sigFlag ty (s.me.redLanes x ty))
      Completes s t ((s.me.addFlags r.2).write x.d
        (ext64 (etySigned ty) w (match r.1 with | some b => canonNan ty b | none => redIdentity x.op ty)))) ∧
    ∃ t, exec (.vscan x) s = .next t ∧
      LaneWise s t x.d x.p w fun i => (scanLanes x.op ty (s.me.fenv s.me.desc) (s.me.redLanes x ty) none)[i]?.getD ⟨0, 0⟩) ∧
  ∀ (x : T2) (s : State), Begins .no false noPred s → Unstepped s →
    let w := etyWidth x.ty
    let l := (s.me.src x.imm x.b).toNat % (1024 / w)
    (s.me.active x.p w l = true →
      (∃ t, exec (.vextr x) s = .next t ∧
        Completes s t (s.me.write x.d (ext64 (etySigned x.ty) w (lane w (s.me.readV (vNo x.a)) l)))) ∧
      ∃ t r, exec (.vinsl x) s = .next t ∧ Completes s t (s.me.writeV x.d r) ∧
        ∀ i, i < 1024 / w →
          lane w r i = if i = l then (s.me.src x.imm x.a).toNat % 2 ^ w else lane w (s.me.readV (vNo x.d)) i) ∧
    (s.me.active x.p w l = false →
      (∃ t, exec (.vextr x) s = .next t ∧ Completes s t s.me) ∧ ∃ t, exec (.vinsl x) s = .next t ∧ Completes s t s.me)

/-- R153, R154, R282, R283: VRNS takes an integer to its three residues, VCRT takes them back to the integer in the range of R154
(modulo 2^32), and VRADD, VRADD.SUB and VRMUL work modulo 1,023, 1,024 and 1,025.
R153, R154: an integer within the range of the reconstruction is what its three residues reconstruct to, and sums,
differences and products of residues are those of the integers. -/
def Obligations.VectorResiduesComplete : Prop :=
  ((∀ (x : R1) (s : State), Unstepped s →
    (Begins ⟨true, [.rn8, .rn4], [], false, false, false⟩ false noPred s →
      ∃ t, exec (.vrns x) s = .next t ∧
        let ty := s.me.desc.srcTy .i32
        LaneWise s t x.d x.p 32 fun i =>
          let a := lane (etyWidth ty) (s.me.vsrc x.imm (etyWidth ty) x.a) i
          ⟨raOfInt (if ty = .i32 then asInt true 32 a else rnValue ty a), 0⟩) ∧
    (Begins .no false noPred s →
      ∃ t, exec (.vcrt x) s = .next t ∧
        LaneWise s t x.d x.p 32 fun i => ⟨ofInt 32 (raValue (lane 32 (s.me.readV (vNo x.a)) i)), 0⟩)) ∧
  ∀ m ∈ [(Instr.vradd, fun (_ a b : Nat) => a + b), (.vraddSub, fun n a b => a + n - b), (.vrmul, fun _ a b => a * b)],
    ∀ (x : R2) (s : State), Begins .no false noPred s → Unstepped s →
      ∃ t, exec (m.1 x) s = .next t ∧
        LaneWise s t x.d x.p 32 fun i =>
          let p := raRead (lane 32 (s.me.vsrc x.imm 32 x.a) i)
          let q := raRead (lane 32 (s.me.vsrc x.imm 32 x.b) i)
          ⟨raWord (m.2 1023 p.1 q.1 % 1023, m.2 1024 p.2.1 q.2.1 % 1024, m.2 1025 p.2.2 q.2.2 % 1025), 0⟩) ∧
  (∀ v : Int, -536870400 ≤ v → v < 536870400 → raValue (raOfInt v) = v) ∧
  ∀ u v : Int,
    let p := raRead (raOfInt u)
    let q := raRead (raOfInt v)
    let ch := fun (f : Nat → Nat → Nat → Nat) =>
      raWord (f 1023 p.1 q.1 % 1023, f 1024 p.2.1 q.2.1 % 1024, f 1025 p.2.2 q.2.2 % 1025)
    ch (fun _ a b => a + b) = raOfInt (u + v) ∧ ch (fun n a b => a + n - b) = raOfInt (u - v) ∧
      ch (fun _ a b => a * b) = raOfInt (u * v)

/-- R163, R284: the mask instructions are bitwise on 64 bits, KMOV copies a mask or a scalar, KPOP counts the lanes whose mask bit is
set; k0 reads as all ones and a write to it is discarded. -/
def Obligations.MasksComplete : Prop :=
  (∀ m ∈ [(Instr.kopAnd, fun (a b : W64) => a &&& b), (.kopOr, fun a b => a ||| b), (.kopXor, fun a b => a ^^^ b), (.kopAndn, fun a b => a &&& ~~~b)],
    ∀ (x : R2) (s : State), Begins .no false x.p s → Unstepped s →
      ∃ t, exec (m.1 x) s = .next t ∧ Completes s t (s.me.write x.d (m.2 (s.me.src x.imm x.a) (s.me.src x.imm x.b)))) ∧
  (∀ (x : R1) (s : State), Begins .no false x.p s → Unstepped s →
    (∃ t, exec (.kopNot x) s = .next t ∧ Completes s t (s.me.write x.d (~~~(s.me.src x.imm x.a)))) ∧
    ∃ t, exec (.kmov x) s = .next t ∧ Completes s t (s.me.write x.d (s.me.src x.imm x.a))) ∧
  (∀ (x : T1) (s : State), Begins .no false x.p s → Unstepped s →
    ∃ t n, exec (.kpop x) s = .next t ∧ Completes s t (s.me.write x.d (BitVec.ofNat 64 n)) ∧
      n = ((List.range (1024 / etyWidth x.ty)).filter fun i => (s.me.src x.imm x.a).getLsbD (laneBit (etyWidth x.ty) i)).length) ∧
  ∀ (t : Strand) (v : W64), t.readK 0 = 0xFFFFFFFFFFFFFFFF ∧ t.write (.k 0) v = t ∧
    ∀ n : Fin 8, n ≠ 0 → (t.write (.k n) v).readK n = v

/-! ## Memory instructions -/

/-- R210, R211, R213, R214, R215: LD and the vector loads from the own local store give the bytes at the address of each lane,
extended as the size code says, change no byte of memory, and acquire at their scope. Inactive lanes keep their bits. R298: a load
finds each byte that a running ADRN writes with its old or its new value, and every other byte as it is.
R208: the size codes of a scalar load: bytes, halfwords and words zero-extended or sign-extended, and eight bytes. -/
def Obligations.LoadsComplete : Prop :=
  ((∀ (x : MemA) (s : State) (off : Nat), Begins .no false x.p s → Unstepped s → s.me.ldc < 64 →
    LocalOk s (memAddr x s.me) (szBytes x.sz) off →
    let v := s.lsView s.cur.1
    ∃ t, exec (.ld x) s = .next t ∧
      CompletesIn v.1 t (s.me.write x.d (loadExt x.sz (v.2.num off (szBytes x.sz)))) (s.myCore.acquired (memAcq x))) ∧
  ∀ m ∈ [(Instr.ldv, fun (x : MemA) (t : Strand) (i : Nat) => memAddr x t + BitVec.ofNat 64 (szBytes x.sz * i)),
      (.ldvs, fun x t i => memAddr x t + BitVec.ofNat 64 i * t.src 0 x.b),
      (.gather, fun x t i => memAddr x t + ext64 true 32 (lane 32 (t.readV (vNo x.b)) i))],
    ∀ (x : MemA) (s : State) (off : Nat → Nat),
      let n := szBytes x.sz
      Begins .no false noPred s → Unstepped s → s.me.ldc < 64 →
      (∀ i, i < 128 / n → s.me.active x.p (8 * n) i = true → LocalOk s (m.2 x s.me i) n (off i)) →
      let v := s.lsView s.cur.1
      ∃ t r, exec (m.1 x) s = .next t ∧ CompletesIn v.1 t (s.me.writeV x.d r) (s.myCore.acquired (memAcq x)) ∧
        ∀ i, i < 128 / n → lane (8 * n) r i =
          if s.me.active x.p (8 * n) i then v.2.num (off i) n else lane (8 * n) (s.me.readV (vNo x.d)) i) ∧
  (∀ (s : State) (c : Nat),
    let v := s.lsView c
    ((∀ m ∈ (s.core c).mxq, m.bytes = []) → v = (s, (s.core c).ls)) ∧ v.1 = { s with draws := v.1.draws } ∧
    ((s.core c).ls.wf = true → ∀ a, v.2.read a = (s.core c).ls.read a ∨
      ∃ m ∈ (s.core c).mxq, ∃ b ∈ m.bytes, b.1 = a ∧ v.2.read a = BitVec.ofNat 8 b.2)) ∧
  ∀ (m : Memory) (a : Nat),
    let b := fun n => m.num a n
    loadExt 0 (b 1) = BitVec.ofNat 64 (m.read a).toNat ∧
    (∀ j, j < 64 → (loadExt 4 (b 1)).getLsbD j = (m.read a).getLsbD (min j 7)) ∧
    (loadExt 1 (b 2)).toNat = (m.read a).toNat + 256 * (m.read (a + 1)).toNat ∧
    (loadExt 5 (b 2)).toInt = ((m.read (a + 1) ++ m.read a : BitVec 16)).toInt ∧
    (loadExt 2 (b 4)).toNat = b 2 + 65536 * m.num (a + 2) 2 ∧ (loadExt 2 (b 4)).toNat < 2 ^ 32 ∧
    (loadExt 6 (b 4)).setWidth 32 = (loadExt 2 (b 4)).setWidth 32 ∧ (loadExt 6 (b 4)).msb = (m.read (a + 3)).getLsbD 7 ∧
    (loadExt 3 (b 8)).toNat = b 4 + 2 ^ 32 * m.num (a + 4) 4

/-- R211 to R216: ST, ST.P and the vector stores into the own local store write each lane's bytes at its address, the lanes in
ascending order, and leave every other byte of memory; a release waits before it. -/
def Obligations.StoresComplete : Prop :=
  (∀ m ∈ [(Instr.st, false), (.stP, true)], ∀ (x : MemA) (s : State) (off : Nat),
    let n := szBytes x.sz
    let posted := m.2 || x.ord == .p
    Begins .no false x.p s → Unstepped s → s.myCore.ls.wf = true → (posted = false → s.me.stc < 64) →
    (m.2 = false → x.ord = .rel → s.released s.cur.1 s.cur.2 x.scope = true) → LocalOk s (memAddr x s.me) n off →
    ∃ t, exec (m.1 x) s = .next t ∧ CompletesIn s t s.me { s.myCore with ls := t.myCore.ls, replies := t.myCore.replies } ∧
      t.myCore.ls.num off n = (s.me.src 0 x.b).toNat % 2 ^ (8 * n) ∧
      ∀ k, k < off ∨ off + n ≤ k → t.myCore.ls.read k = s.myCore.ls.read k) ∧
  ∀ m ∈ [(Instr.stv, fun (x : MemA) (t : Strand) (i : Nat) => memAddr x t + BitVec.ofNat 64 (szBytes x.sz * i), MemA.b),
      (.stvs, fun x t i => memAddr x t + BitVec.ofNat 64 i * t.src 0 x.b, MemA.c),
      (.scatter, fun x t i => memAddr x t + ext64 true 32 (lane 32 (t.readV (vNo x.b)) i), MemA.c)],
    ∀ (x : MemA) (s : State) (off : Nat → Nat),
      let n := szBytes x.sz
      let on := fun i => decide (i < 128 / n) && s.me.active x.p (8 * n) i
      Begins .no false noPred s → Unstepped s → s.myCore.ls.wf = true → (x.ord ≠ .p → s.me.stc < 64) →
      (x.ord = .rel → s.released s.cur.1 s.cur.2 x.scope = true) →
      (∀ i, on i = true → LocalOk s (m.2.1 x s.me i) n (off i)) →
      ∃ t, exec (m.1 x) s = .next t ∧ CompletesIn s t s.me { s.myCore with ls := t.myCore.ls, replies := t.myCore.replies } ∧
        (∀ i, on i = true → (∀ j, i < j → on j = true → off j ≠ off i) →
          t.myCore.ls.num (off i) n = lane (8 * n) (s.me.readV (vNo (m.2.2 x))) i) ∧
        ∀ k, (∀ i, on i = true → k < off i ∨ off i + n ≤ k) → t.myCore.ls.read k = s.myCore.ls.read k

/-- R76, R107, R211, R314: LD, ST and AMO to GLOBAL or STACK: a load of a line that the first-level cache holds completes from it; any
other access, unless the core already waits for a fill of its line, sends one request to the slice it goes to, or to the host port for a
page with LOC = 1, and its strand waits. A store that hits a line to which an earlier store is not yet performed waits for it (the model's
choice, log 55). R304: an AMO to a page with LOC = 1 raises PROTECTION. R210, R211: LD, ST and AMO to the WINDOW of another live core send
one request to that core.
R107, R174, R211, R305: the answers that complete those accesses: a load writes the bytes of its line, which enters the first-level cache
unless the fill was called off meanwhile, a store counts down, an AMO writes the old value, and each retires; poison raises MEM_POISON at
the instruction, and a refusal of the target core its cause, with nothing written. That the strand itself waits for its answer is the
model's choice (log 16; R313 would let it go on). -/
def Obligations.GlobalAccessesComplete : Prop :=
  (∀ (s : State) (p : Page) (pa : Nat),
    let dst := fun (q : Piece) => if p.loc then epHost else epSlice (s.routeOf s.cur.1 (pa / 128) q.cached)
    let req := fun (q : Piece) (op : MemOp) => Body.mem
      { op, line := pa / 128, off := pa % 128, mask := q.mask, data := q.data, who := .strand s.cur.1 s.cur.2
        asid := some (s.me.asid.setWidth 16), px := none }
    (∀ x : MemA,
      let n := szBytes x.sz
      let a := memAddr x s.me
      let q := fun d => mkPiece n d (0, a) (.mem pa p.loc (!p.loc && p.cp == 0))
      (Begins .no false x.p s → Unstepped s → s.me.ldc < 64 → GlobalOk s a n (.load s.me.prv) p pa →
        s.accessStalls [q 0] true (memAcq x).isSome = false →
        let v := (s.lsView s.cur.1).1
        (∀ h, p.loc = false → p.cp = 0 → memAcq x = none → s.myCore.l1Find (pa / 128) = some h →
          ∃ t, exec (.ld x) s = .next t ∧
            CompletesIn v t (s.me.write x.d (loadExt x.sz (lineNum h.data (pa % 128) n))) (s.myCore.l1Touch (pa / 128))) ∧
        ((p.loc = true ∨ p.cp ≠ 0 ∨ (memAcq x ≠ none ∨ s.myCore.l1Find (pa / 128) = none) ∧ s.myCore.filling (pa / 128) = false) →
          ∃ t b, exec (.ld x) s = .next t ∧ Sends v t s.cur.1 (dst (q 0)) 0 (req (q 0) .read) ∧
            t.me = { s.me with ldc := s.me.ldc + 1, wait := .access b } ∧ b.cur = some (q 0) ∧ b.todo = [] ∧
            b.last = .load x.d x.sz (memAcq x))) ∧
      (Begins .no false x.p s → x.ord ≠ .p → (x.ord = .rel → s.released s.cur.1 s.cur.2 x.scope = true) → s.me.stc < 64 →
        GlobalOk s a n (.store s.me.prv) p pa →
        let q := q (s.me.src 0 x.b).toNat
        s.accessStalls [q] false false = false →
        let behind := p.loc = false ∧ (s.myCore.l1Find (pa / 128)).isSome = true ∧ s.writePending s.cur.1 (pa / 128) = true
        (¬ behind → ∃ t b, exec (.st x) s = .next t ∧ Sends s t s.cur.1 (dst q) 0 (req q .write) ∧
          t.me = { s.me with stc := s.me.stc + 1, wait := .access b } ∧ b.todo = [] ∧ b.last = .store) ∧
        (behind → ∃ t b, exec (.st x) s = .next t ∧ OnlyStrand s.cur.1 s.cur.2 s t ∧
          t.me = { s.me with stc := s.me.stc + 1, wait := .access b } ∧ b.cur = none ∧ b.todo = [q] ∧ b.last = .store))) ∧
    ∀ x : Am, Begins .no false x.p s → GlobalOk s (amAddr x s.me) (etyWidth x.ty / 8) (.amo s.me.prv) p pa →
      let q := mkPiece (etyWidth x.ty / 8) 0 (0, amAddr x s.me) (.mem pa p.loc (!p.loc && p.cp == 0))
      (p.loc = true → s.myCore.res = true → s.me.window = false →
        ∃ t, exec (.amo x) s = .next t ∧
          t.me = ({ s.me with scNo := if x.ord = MOrd.sc then none else s.me.scNo }).enter { num := 9, bad := amAddr x s.me } s.me.pc) ∧
      (p.loc = false → x.ord ≠ .sc → (x.ord = .rel → s.released s.cur.1 s.cur.2 x.scope = true) → s.me.ldc < 64 →
        s.accessStalls [q] false false = false →
        ∃ t b, exec (.amo x) s = .next t ∧ Sends s t s.cur.1 (dst q) 0 (req q (.amo (amReq x s.me))) ∧
          t.me = { s.me with ldc := s.me.ldc + 1, wait := .access b } ∧ b.todo = [])) ∧
  (∀ (s : State) (k off : Nat),
    let who := Who.strand s.cur.1 s.cur.2
    (∀ x : MemA,
      let n := szBytes x.sz
      let q := fun d => mkPiece n d (0, memAddr x s.me) (.win k off)
      Begins .no false x.p s → WindowOk s (memAddr x s.me) n k off →
      (s.me.ldc < 64 → s.accessStalls [q 0] true (memAcq x).isSome = false →
        ∃ t b, exec (.ld x) s = .next t ∧ Sends (s.lsView s.cur.1).1 t s.cur.1 k 0 (.win who (q 0) none false s.me.prv) ∧
          t.me = { s.me with ldc := s.me.ldc + 1, wait := .access b } ∧ b.cur = some (q 0) ∧ b.todo = [] ∧
          b.last = .load x.d x.sz (memAcq x)) ∧
      (x.ord ≠ .p → (x.ord = .rel → s.released s.cur.1 s.cur.2 x.scope = true) → s.me.stc < 64 →
        let q := q (s.me.src 0 x.b).toNat
        s.accessStalls [q] false false = false →
        ∃ t b, exec (.st x) s = .next t ∧ Sends s t s.cur.1 k 0 (.win who q none true s.me.prv) ∧
          t.me = { s.me with stc := s.me.stc + 1, wait := .access b } ∧ b.cur = some q ∧ b.todo = [] ∧ b.last = .store)) ∧
    ∀ x : Am, Begins .no false x.p s → x.ord ≠ .sc → (x.ord = .rel → s.released s.cur.1 s.cur.2 x.scope = true) → s.me.ldc < 64 →
      let n := etyWidth x.ty / 8
      let q := mkPiece n 0 (0, amAddr x s.me) (.win k off)
      WindowOk s (amAddr x s.me) n k off → s.accessStalls [q] false false = false →
      s.pushPending s.cur.1 s.cur.2 [((0, amAddr x s.me), .win k off)] n = false →
      ∃ t b, exec (.amo x) s = .next t ∧ Sends s t s.cur.1 k 0 (.win who q (some (amReq x s.me)) false s.me.prv) ∧
        t.me = { s.me with ldc := s.me.ldc + 1, wait := .access b } ∧ b.cur = some q ∧ b.todo = []) ∧
  (∀ (s : State) (uid c i cause off : Nat) (m : Msg) (a : Access) (p : Piece) (line : W1024),
    s.msg? uid = some m → i < 4 → (s.strand c i).wait = .access a → a.cur = some p → a.todo = [] →
    ((∃ kind seq px data req, m.body = .ans (.strand c i) kind seq px data req ∧ p.win = false ∧ p.place = req.line ∧ off = p.off ∧
        line = data.getD 0 ∧ cause = if kind = 4 then 12 else 0) ∨
      (∃ reason, m.body = .winAns (.strand c i) reason line ∧ p.win = true ∧ p.place = m.src ∧ off = 0 ∧
        cause = if reason = 0 then 0 else reasonCause reason)) →
    p.lanes = [(0, off)] → ((s.strand c i).sstep && (s.strand c i).ie) = false →
    let u := s.strand c i
    let x := s.core c
    let y := { x with fills := x.fills.filter (·.who != some i) }
    let x' := if x.fills.any (fun f => f.who == some i && f.line == p.place) then y.l1Put p.place line else y
    (∀ d sz, cause = 0 → a.last = .load d sz none →
      ∃ t, exec (.loadResponse uid) s = .next t ∧ t = { s.consume uid with cores := t.cores } ∧
        GoesOn c i s t (({ u with ldc := u.ldc - 1 }).write d (loadExt sz (lineNum line off 8))) x') ∧
    (cause = 0 → a.last = .store →
      ∃ t, exec (.storeAnswer uid) s = .next t ∧ t = { s.consume uid with cores := t.cores } ∧
        GoesOn c i s t { u with stc := u.stc - 1 } x) ∧
    (∀ d r, cause = 0 → a.last = .amo d false none none → a.amo = some r →
      ∃ t, exec (.amoAnswer uid) s = .next t ∧ t = { s.consume uid with cores := t.cores } ∧
        GoesOn c i s t (({ u with ldc := u.ldc - 1 }).write d
          (ext64 (etySigned r.ty) (etyWidth r.ty) (lineNum line off (etyWidth r.ty / 8)))) x) ∧
    (cause ≠ 0 → x.res = true → u.window = false →
      let trapped := fun (t : State) (w : Strand) =>
        OnlyStrand c i ((s.consume uid).modCore c fun k => { k with fills := k.fills.filter (·.who != some i) }) t ∧
          t.strand c i = w.enter { num := cause, bad := p.addr } u.pc
      (a.last = .store → ∃ t, exec (.storeAnswer uid) s = .next t ∧ trapped t { u with stc := u.stc - 1, wait := .no }) ∧
      (∀ d sz q, a.last = .load d sz q →
        ∃ t, exec (.loadResponse uid) s = .next t ∧ trapped t { u with ldc := u.ldc - 1, wait := .no }) ∧
      ∀ d b q, a.last = .amo d b q none →
        ∃ t, exec (.amoAnswer uid) s = .next t ∧ trapped t { u with ldc := u.ldc - 1, wait := .no }))

/-- R174, R212, R309, R375: ST.P and RED to GLOBAL retire at once: the operation takes the lowest free journal entry, RSC rises, and
the request leaves for the slice (or the host port) with the entry as its sender; the line leaves the first-level cache. R304: a RED to a
page with LOC = 1 raises PROTECTION. -/
def Obligations.PostedOperationsComplete : Prop :=
  ∀ (s : State) (p : Page) (pa j : Nat), Unstepped s → s.me.rsc < 64 → s.myCore.freeJent = some j →
    let dst := fun (q : Piece) => if p.loc then epHost else epSlice (s.routeOf s.cur.1 (pa / 128) q.cached)
    let k := if p.loc then s.myCore else (s.myCore.noFill (pa / 128)).l1Drop (pa / 128)
    let go := fun (t : State) (q : Piece) (opk : Nat) (op : MemOp) =>
      CompletesSending s t { s.me with rsc := s.me.rsc + 1 }
        (k.setJent j { st := .sent, strand := s.cur.2, addr := q.addr, opk, reason := 0, piece := some q, heldRed := none,
                        order := s.myCore.nextOrder })
        (dst q) 0 (.mem { op, line := pa / 128, off := pa % 128, mask := q.mask, data := q.data, who := .journal s.cur.1 j,
                          asid := some (s.me.asid.setWidth 16), px := none })
    (∀ x : MemA,
      let q := mkPiece (szBytes x.sz) (s.me.src 0 x.b).toNat (0, memAddr x s.me) (.mem pa p.loc (!p.loc && p.cp == 0))
      Begins .no false x.p s → GlobalOk s (memAddr x s.me) (szBytes x.sz) (.store s.me.prv) p pa →
      s.accessStalls [q] false false = false →
      ∃ t, exec (.stP x) s = .next t ∧ go t q 0 .write) ∧
    ∀ x : Am,
      let q := mkPiece (etyWidth x.ty / 8) 0 (0, amAddr x s.me) (.mem pa p.loc (!p.loc && p.cp == 0))
      Begins .no false x.p s → GlobalOk s (amAddr x s.me) (etyWidth x.ty / 8) (.store s.me.prv) p pa →
      (p.loc = true → s.myCore.res = true → s.me.window = false →
        ∃ t, exec (.red x) s = .next t ∧ Traps s t 9 (amAddr x s.me) s.me.pc) ∧
      (p.loc = false → (x.ord = .rel → s.released s.cur.1 s.cur.2 x.scope = true) →
        (∀ e ∈ s.myCore.journal, e.2.st ≠ .sent ∨ e.2.opk ≠ 2) → s.myCore.lineHeld q = false →
        ∃ t, exec (.red x) s = .next t ∧ go t q 2 (.red (amReq x s.me)))

/-- R25, R105, R110, R121, R210, R304, R309: an access that is not aligned raises ALIGN, one outside the apertures APERTURE, one that
the bank or tile rules refuse their cause, each at its instruction with nothing else done; RED in the local store raises
APERTURE. -/
def Obligations.AccessTraps : Prop :=
  (∀ (x : MemA) (s : State), Begins .no false x.p s → s.myCore.res = true → s.me.window = false →
    ∀ i ∈ [Instr.ld x, .st x, .stP x],
      let a := memAddr x s.me
      let n := szBytes x.sz
      (a.toNat % n ≠ 0 → ∃ t, exec i s = .next t ∧ Traps s t 11 a s.me.pc) ∧
      (∀ b, a.toNat % n = 0 → decodeSpan s.me.stkb a n = .error b → ∃ t, exec i s = .next t ∧ Traps s t 8 b s.me.pc) ∧
      (∀ off k, a.toNat % n = 0 → localOf s.cur.1 s.me.stkb a n = some off → s.myCore.changing off n = false →
        s.myCore.localRefusal off n s.me.prv = some k → ∃ t, exec i s = .next t ∧ Traps s t k a s.me.pc)) ∧
  (∀ (x : Core) (off n : Nat) (prv : Bool), 1 ≤ n → off + n ≤ 524288 →
    ((∃ k, off / 8192 ≤ k ∧ k ≤ (off + n - 1) / 8192 ∧ x.mode k ≠ 0) → x.localRefusal off n prv = some 10) ∧
    ((∀ k, off / 8192 ≤ k → k ≤ (off + n - 1) / 8192 → x.mode k = 0) →
      (516096 < off + n → x.res = true → prv = false → x.localRefusal off n prv = some 9) ∧
      ((off + n ≤ 516096 ∨ x.res = false ∨ prv = true) →
        x.localRefusal off n prv = if x.tileBusy off n then some 13 else none))) ∧
  ∀ (x : Am) (s : State) (off : Nat), Begins .no false x.p s → s.myCore.res = true → s.me.window = false →
    LocalOk s (amAddr x s.me) (etyWidth x.ty / 8) off →
    ∃ t, exec (.red x) s = .next t ∧ Traps s t 8 (amAddr x s.me) s.me.pc

/-- R303, R305, R306, R308: an AMO on the own local store leaves the new value, gives the old one and changes no other byte; a
sequentially consistent one asks its sequencer first, the device's by a message, and waits; once it holds the ticket it completes,
and the ticket is given back. It waits for the strand's unacknowledged pushes to the bank it is in.
R303: the value that an atomic leaves, by its operation: the wrapped sum, the bitwise operations, the lesser and the greater as
the type reads them, the operand, and the operand where the old value equals the comparand. -/
def Obligations.AtomicsComplete : Prop :=
  (∀ (x : Am) (s : State) (off : Nat),
    let n := etyWidth x.ty / 8
    let old := s.myCore.ls.num off n
    Begins .no false x.p s → Unstepped s → s.myCore.ls.wf = true → s.me.ldc < 64 → LocalOk s (amAddr x s.me) n off →
    (x.ord = .rel ∨ x.ord = .sc → s.released s.cur.1 s.cur.2 x.scope = true) →
    s.pushPending s.cur.1 s.cur.2 [((0, amAddr x s.me), .loc off)] n = false →
    let ticket := fun (q : Nat) => ScTicket.mk s.cur.1 s.cur.2 q
    (x.ord ≠ .sc →
      ∃ t, exec (.amo x) s = .next t ∧
        CompletesIn s t (s.me.write x.d (amoResult (amReq x s.me) x.tagged 0 old))
          { s.myCore.acquired (if x.ord = .acq then some x.scope else none) with ls := t.myCore.ls } ∧
        t.myCore.ls.num off n = amoNew (amReq x s.me) old % 2 ^ (8 * n) ∧
        ∀ k, k < off ∨ off + n ≤ k → t.myCore.ls.read k = s.myCore.ls.read k) ∧
    (x.ord = .sc → s.me.wait ≠ .sc (seqrOf x.scope s.cur.1) true →
      ∃ t, exec (.amo x) s = .next t ∧ t.hbm = s.hbm ∧ t.myCore.ls = s.myCore.ls ∧
        (x.scope = .core → t.me = { s.me with wait := .sc (seqrOf x.scope s.cur.1) false } ∧ t.myCore.scq = s.myCore.scq ++ [s.cur]) ∧
        (x.scope = .clu → t.me = { s.me with wait := .sc (seqrOf x.scope s.cur.1) false } ∧
          (SMap.getD t.cluSeqrs (clusterOf s.cur.1) .reset).intake =
            (SMap.getD s.cluSeqrs (clusterOf s.cur.1) .reset).intake ++ [s.cur]) ∧
        (x.scope = .dev ∨ x.scope = .sys → t.me = { s.me with wait := .sc (seqrOf x.scope s.cur.1) false, scNo := some s.uid } ∧
          Mails s t s.cur.1 epDevSeqr 0 0 (.scReq (ticket s.uid)))) ∧
    (x.ord = .sc → s.me.wait = .sc (seqrOf x.scope s.cur.1) true →
      ∃ t, exec (.amo x) s = .next t ∧
        t.me = s.past s.cur.1 s.cur.2 { s.me.write x.d (amoResult (amReq x s.me) x.tagged 0 old) with scNo := none } ∧
        t.myCore.ls.num off n = amoNew (amReq x s.me) old % 2 ^ (8 * n) ∧ s.cur ∉ t.myCore.scq ∧
        (SMap.getD t.cluSeqrs (clusterOf s.cur.1) .reset).holder ≠ some s.cur ∧
        ∀ q, s.me.scNo = some q → Mails s t s.cur.1 epDevSeqr 0 0 (.scDone (ticket q)))) ∧
  ∀ ty ∈ [ETy.i32, .i64, .ui32, .ui64], ∀ (v c : W64) (old : Nat), old < 2 ^ etyWidth ty →
    let w := etyWidth ty
    let n := v.toNat % 2 ^ w
    let new := fun op => amoNew { op, ty, v, c } old
    let i := asInt (etySigned ty) w
    new .add = (old + n) % 2 ^ w ∧ new .and = old &&& n ∧ new .or = old ||| n ∧ new .xor = old ^^^ n ∧ new .swap = n ∧
      i (new .min) = min (i old) (i n) ∧ i (new .max) = max (i old) (i n) ∧
      new .cas = if old = c.toNat % 2 ^ w then n else old

/-- R217, R218, R219: PREF asks the slice for a line that the first-level cache does not hold, PREF.PX has it fetched to the
proxy, and neither does anything where the address does not translate or the line may not be held; CINV drops its line from
both caches and calls off a fill of it, which a strand that waits for an instruction line asks for again; CINV.DATA, CINV.INSTR and
CINV.ALL empty them; CWB waits until the strand's posted operations on the line are performed, and for a line of the device sends a
pending reduction copy home. Where the TLBs do not hold the page, each of them starts a walk of three probes and waits for it, and a walk
that ends in a fault kind raises nothing (the model's choice, log 25). -/
def Obligations.CacheControlCompletes : Prop :=
  (∀ (x : Ad) (s : State), Begins .no false x.p s → Unstepped s →
    let a := adAddr x s.me
    let q := s.quietLine s.cur.1 s.cur.2 a
    let dst := fun ln => s.routeOf s.cur.1 ln true
    let body := fun ln keep => Body.mem (.plain .read ln (.pref s.cur.1 s.cur.2 s.uid keep) (some (s.me.asid.setWidth 16)))
    (∀ u, q = .error u →
      (∀ i ∈ [Instr.pref x, .prefPx x, .cinv x, .cwb x], exec i s = .next u) ∧ u.me = { s.me with wait := .walk } ∧
        ∃ ms : List Msg, u.transit = s.transit ++ ms ∧ ms.length = 3 ∧ ∀ m ∈ ms, ∃ r, m.body = .mem r ∧ r.op = .read ∧
          m.dest = epSlice (s.homeOf r.line)) ∧
    ((q = .ok none ∨ ∃ ln pg, q = .ok (some (ln, pg)) ∧ (pg.loc = true ∨ pg.cp ≠ 0)) →
      (∃ t, exec (.pref x) s = .next t ∧ Completes s t s.me) ∧ ∃ t, exec (.prefPx x) s = .next t ∧ Completes s t s.me) ∧
    (∀ ln pg, q = .ok (some (ln, pg)) → pg.loc = false → pg.cp = 0 →
      (s.myCore.ways ≠ [] → (s.myCore.l1Find ln).isSome = true ∨ s.myCore.filling ln = true →
        ∃ t, exec (.pref x) s = .next t ∧ Completes s t s.me) ∧
      (s.myCore.ways ≠ [] → s.myCore.l1Find ln = none → s.myCore.filling ln = false → s.writePending s.cur.1 ln = false →
        ∃ t, exec (.pref x) s = .next t ∧
          CompletesSending s t s.me { s.myCore with fills := { who := none, line := ln, id := s.uid } :: s.myCore.fills } (epSlice (dst ln)) 0 (body ln true)) ∧
      ∀ i, i = .prefPx x ∨ i = .pref x ∧ s.myCore.ways = [] →
        (dst ln = s.homeOf ln ∨ (s.proxyLine (dst ln) ln).isSome = true → ∃ t, exec i s = .next t ∧ Completes s t s.me) ∧
        (dst ln ≠ s.homeOf ln → s.proxyLine (dst ln) ln = none →
          ∃ t, exec i s = .next t ∧ CompletesSending s t s.me s.myCore (epSlice (dst ln)) 0 (body ln false))) ∧
    (∀ r, q = .ok r → NoFetch s → ∃ t, exec (.cinv x) s = .next t ∧
      CompletesIn s t s.me { s.myCore with l1 := t.myCore.l1, fills := t.myCore.fills, icache := t.myCore.icache } ∧
      (∀ e, e ∈ t.myCore.fills ↔ e ∈ s.myCore.fills ∧ ∀ ln pg, r = some (ln, pg) → pg.loc = false → e.line ≠ ln) ∧
      (∀ e, e ∈ t.myCore.icache ↔ e ∈ s.myCore.icache ∧ ¬ (e.line = pcLine a ∧ e.asid = s.me.asid.setWidth 16)) ∧
      ∀ e, e ∈ t.myCore.l1 ↔ e ∈ s.myCore.l1 ∧ ∀ ln pg, r = some (ln, pg) → pg.loc = false → e.line ≠ ln) ∧
    ((q = .ok none ∨ ∃ ln pg, q = .ok (some (ln, pg)) ∧ s.myCore.postedTo s.cur.2 ln pg.loc = false ∧ (pg.loc = true ∨
        (∀ u, s.proxyLine (proxyOf s.cur.1) ln = some u → u.u = none) ∧ s.flushPending ln = false)) →
      ∃ t, exec (.cwb x) s = .next t ∧ Completes s t s.me) ∧
    ∀ ln pg u, q = .ok (some (ln, pg)) → pg.loc = false → s.myCore.postedTo s.cur.2 ln false = false →
      s.proxyLine (proxyOf s.cur.1) ln = some u →
      u.u.isSome = true → ∃ t m, exec (.cwb x) s = .next t ∧ t.me = { s.me with wait := .hold } ∧ t.transit = s.transit ++ [m] ∧
        m.dest = epSlice (s.homeOf ln) ∧ t.proxyLine (proxyOf s.cur.1) ln = none) ∧
  ∀ (p : Pred) (s : State), Begins .no false p s → Unstepped s →
    (∃ t, exec (.cinvData p) s = .next t ∧ CompletesIn s t s.me { s.myCore with l1 := [], fills := [] }) ∧
    (NoFetch s → ∃ t, exec (.cinvInstr p) s = .next t ∧ CompletesIn s t s.me { s.myCore with icache := [] }) ∧
    (NoFetch s → ∃ t, exec (.cinvAll p) s = .next t ∧ CompletesIn s t s.me { s.myCore with l1 := [], fills := [], icache := [] }) ∧
    ∀ i ∈ [Instr.cinvInstr p, .cinvAll p], ∃ t, exec i s = .next t ∧ t.me = s.past s.cur.1 s.cur.2 s.me ∧ t.myCore.icache = [] ∧
      ∀ j line u, j < 4 → j ≠ s.cur.2 → (s.strand s.cur.1 j).wait = .fetch line u → (t.strand s.cur.1 j).wait = .no

/-- R104, R109, R220: BMODE blocks its strand, and once its waits are over the bank is cleared and has its new mode, no other bank
and no other byte has changed, and the instruction retires. -/
def Obligations.BmodeCompletes : Prop :=
  (∀ (mode : Fin 3) (bank : Fin 64) (p : Pred) (s : State), Begins .no false p s → s.myCore.tileInBank bank = false →
    (¬ (s.myCore.mode bank = 2 ↔ mode.val = 2) → (s.myCore.fifo bank).count = 0 ∧ (s.myCore.fifo bank).next = (s.myCore.fifo bank).serve) →
    (bank.val = 63 → s.myCore.res = false) →
    ∃ t, exec (.bmode mode bank p) s = .next t ∧ Blocks s t (.bmode bank mode)) ∧
  ∀ (c i bank m : Nat) (s : State), c < 12288 → i < 4 → bank < 64 → m < 3 → (s.strand c i).wait = .bmode bank m →
    (∀ j, j < i → ∀ n, (s.strand c j).wait ≠ .bmode bank n) → (s.core c).ls.wf = true →
    (∀ e ∈ (s.core c).copies, ∀ k, e.2.copy = some k → k.inBank c bank = false) →
    (∀ e ∈ (s.core c).l1, e.way = bank → s.writePending c e.line = false) →
    ((s.strand c i).sstep && (s.strand c i).ie) = false →
    ∃ t, exec (.bmodeComplete c bank) s = .next t ∧ t = { s with cores := t.cores } ∧ (t.core c).mode bank = m ∧
      (∀ b, b < 64 → b ≠ bank → (t.core c).mode b = (s.core c).mode b) ∧
      (∀ a, (t.core c).ls.read a = if a / 8192 = bank then 0 else (s.core c).ls.read a) ∧
      GoesOn c i s t (s.strand c i)
        { s.core c with ls := (t.core c).ls, bkmd0 := (t.core c).bkmd0, bkmd1 := (t.core c).bkmd1
                        fifos := (t.core c).fifos, l1 := (t.core c).l1 } ∧
      (t.core c).fifo bank = .reset ∧ ∀ e ∈ (t.core c).l1, e.way ≠ bank

/-- R98, R223, R235, R236, R237: QFREE and QFREE.ADDR give what the last acknowledged push left; WAIT retires once every counter it
names is at or below its field and else waits; FENCE retires once its earlier paths are quiet and, where it names path G, the entries
forwarded to READY entries when it issued are applied, with the first-level cache empty and no fill of it under way where it orders
later loads, and else waits; GRPSET writes its entry with the next generation, or blocks while the entry is in use. -/
def Obligations.WaitsComplete : Prop :=
  ∀ (p : Pred) (s : State), Begins .no false p s → Unstepped s →
    (∀ d, (∃ t, exec (.qfree d p) s = .next t ∧ Completes s t (s.me.write d s.me.qfree)) ∧
      ∃ t, exec (.qfreeAddr d p) s = .next t ∧ Completes s t (s.me.write d s.me.qaddr)) ∧
    (∀ l sc c t : BitVec 7,
      let ok := fun (n : Nat) (f : BitVec 7) => 64 ≤ f.toNat ∨ n ≤ f.toNat
      let all := ok s.me.ldc l ∧ ok s.me.stc sc ∧ ok s.me.cpc c ∧ ok s.me.tlc t
      (all → ∃ u, exec (.wait l sc c t p) s = .next u ∧ Completes s u s.me) ∧ (¬ all → exec (.wait l sc c t p) s = .next s.stall)) ∧
    (∀ scope (later earlier : BitVec 7),
      let due := if earlier.getLsbD 5 then s.forwardsDue (s.forwarding s.cur.1 fun _ => true) else []
      let quiet := due = [] ∧ ∀ j, j < 7 → earlier.getLsbD j = true → s.pathQuiet s.cur.1 s.cur.2 j = true
      (quiet → ∃ t, exec (.fence scope later earlier p) s = .next t ∧
        CompletesIn s t s.me
          (if later.getLsbD 0 = true ∧ (earlier >>> 1 ≠ 0 ∨ scope = .dev ∨ scope = .sys) then
              { s.myCore with l1 := [], fills := [] }
           else s.myCore)) ∧
      (¬ quiet → ∃ t, exec (.fence scope later earlier p) s = .next t ∧ OnlyStrand s.cur.1 s.cur.2 s t ∧
        t.me = { s.me with midway := true, wait := if earlier.getLsbD 5 then .forwards due else s.me.wait })) ∧
    ∀ (n : Fin 16) (a : Opd), s.groupCheck (s.me.src 0 a) = none →
      ((s.myCore.group n).draining = false → ∃ t, exec (.grpset n a p) s = .next t ∧
        CompletesIn s t s.me { s.myCore with groups := t.myCore.groups } ∧
        t.myCore.group n = { desc := s.me.src 0 a, gen := (s.myCore.group n).gen + 1, drain := 0, lines := [] } ∧
        ∀ k, k ≠ n.val → t.myCore.group k = s.myCore.group k) ∧
      ((s.myCore.group n).draining = true → ∃ t, exec (.grpset n a p) s = .next t ∧ Blocks s t (.grpset n (s.me.src 0 a)))

/-- R111, R112, R113, R116, R221, R222: QPUSH takes a journal entry and sends 64 bytes to a bank; the push that arrives at a queue
with room goes in at TAIL with its acknowledgement, and QPOP takes the 64 bytes at HEAD; an empty queue, and a bank that is changing its
mode (R109), hold QPOP. -/
def Obligations.QueuesComplete : Prop :=
  (∀ (x : MemA) (s : State) (c off j : Nat), Begins .no false x.p s → Unstepped s →
    (decodeAddr s.me.stkb (memAddr x s.me) = some (.loc off) ∧ c = s.cur.1 ∨
      decodeAddr s.me.stkb (memAddr x s.me) = some (.win c off) ∧ s.live c = true) →
    (x.ord = .rel → s.released s.cur.1 s.cur.2 x.scope = true) → s.me.rsc < 64 → s.myCore.freeJent = some j →
    ∃ t, exec (.qpush x) s = .next t ∧
      CompletesSending s t { s.me with rsc := s.me.rsc + 1 }
        (s.myCore.setJent j { st := .sent, strand := s.cur.2, addr := memAddr x s.me, opk := 1, reason := 0
                              piece := some (queuePiece c (off / 8192) (memAddr x s.me)), heldRed := none, order := s.myCore.nextOrder })
        c 0 (.qpush (.journal s.cur.1 j) c (off / 8192) ((s.me.readV (vNo x.b)).setWidth 512) s.me.prv)) ∧
  (∀ (x : MemA) (s : State) (off : Nat),
    let b := off / 8192
    let f := s.myCore.fifo b
    Begins .no false x.p s → Unstepped s → decodeAddr s.me.stkb (memAddr x s.me) = some (.loc off) →
    (s.myCore.changing off 1 = true → exec (.qpop x) s = .next s.stall) ∧
    (s.myCore.changing off 1 = false → s.myCore.mode b = 2 → (b = 63 → s.myCore.res = true → s.me.prv = true) →
    (f.count = 0 → exec (.qpop x) s = .next s.stall) ∧
    (f.count ≠ 0 → ∃ t, exec (.qpop x) s = .next t ∧
      CompletesIn s t (s.me.writeV x.d (BitVec.ofNat 1024 (s.myCore.ls.num (8192 * b + 64 * f.head) 64)))
        { s.myCore.acquired (memAcq x) with
          fifos := SMap.set s.myCore.fifos b { f with head := (f.head + 1) % 128, count := f.count - 1 } }))) ∧
  ∀ (s : State) (uid c b : Nat) (m : Msg) (who : Who) (data : BitVec 512) (prv : Bool),
    let x := s.core c
    let f := x.fifo b
    s.msg? uid = some m → m.body = .qpush who c b data prv → m.cancel = false → m.ticket = 0 → x.dark = false →
    x.changing (8192 * b) 1 = false → s.imaging c = false → x.mode b = 2 → (b = 63 → x.res = true → prv = true) → f.count < 127 →
    f.next = f.serve → x.ls.wf = true →
    ∃ t, exec (.qpushArrival uid) s = .next t ∧ Sends (s.consume m.uid) t c m.src 2 (.qack who 0 (126 - f.count) 0) ∧
      (t.core c).ls.num (8192 * b + 64 * f.tail) 64 = data.toNat ∧
      (t.core c).fifo b = { f with tail := (f.tail + 1) % 128, count := f.count + 1 } ∧
      (∀ a, a < 8192 * b + 64 * f.tail ∨ 8192 * b + 64 * f.tail + 64 ≤ a → (t.core c).ls.read a = x.ls.read a) ∧
      ∀ k, k ≠ c → t.core k = s.core k

/-! ## Tiles, operand slots and streams -/

/-- R117, R119, R120, R224, R225, R226: TDEF writes words 0 to 2 of its entry from 24 bytes of the local store and leaves its state;
TSTAT and TSTAT.TIME give words 3 and 4; TFILL and TDRAIN put an entry that is not logged into FILLING and DRAINING, count in TLC
and read or write its first line; TREL empties a READY entry. R139: each waits while the entry is being refilled after a
restore. -/
def Obligations.TilesComplete : Prop :=
  ∀ (p : Pred) (s : State) (n : Fin 64), Begins .no false p s → Unstepped s →
    let e := s.myCore.tile n
    (e.refilling = true → ∀ i ∈ [Instr.tfill n p, .tdrain n p, .trel n p], exec i s = .next s.stall) ∧
    (∀ d, (∃ t, exec (.tstat d n p) s = .next t ∧ Completes s t (s.me.write d e.w3)) ∧
      ∃ t, exec (.tstatTime d n p) s = .next t ∧ Completes s t (s.me.write d e.w4)) ∧
    (∀ (a : Opd) (off : W32) (o : Nat),
      let b := s.me.src 0 a + off.signExtend 64
      let w := fun k => BitVec.ofNat 64 (s.myCore.ls.num (o + 8 * k) 8)
      decodeAddr s.me.stkb b = some (.loc o) → b.toNat % 8 = 0 → o + 24 ≤ 524288 → s.myCore.changing o 24 = false →
      s.myCore.notScr o 24 = none → (s.myCore.res = true → s.me.prv = false → o + 24 ≤ 516096) →
      s.defineCause n (w 0) (w 1) (w 2) = none → e.refilling = false →
      ∃ t, exec (.tdef n a off p) s = .next t ∧ CompletesIn s t s.me { s.myCore with tiles := t.myCore.tiles } ∧
        (t.myCore.tile n).w0 = w 0 ∧ (t.myCore.tile n).w1 = w 1 ∧ (t.myCore.tile n).w2 = w 2 ∧ (t.myCore.tile n).w4 = e.w4 ∧
        (t.myCore.tile n).state = e.state ∧ ∀ k, k ≠ n.val → t.myCore.tile k = s.myCore.tile k) ∧
    (∀ (q q0 : TileLine) (va va0 : Nat) (k : Nat) (rest : List Nat) (pg : Page),
      let asid : BitVec 16 := s.me.asid.setWidth 16
      let dst := fun va => if pg.loc then epHost else epSlice (s.routeOf s.cur.1 (pageAddr pg va / 128) (pg.cp == 0))
      let all := List.range e.lines.length
      s.me.tlc < 64 → s.loggedTile asid e = .ok none → s.ptsh ≠ 0 → e.refilling = false →
      (e.fillOrder = k :: rest → e.lines[k]? = some q → tileVa q.home = some va → s.myCore.tlbFind asid va = some pg →
        s.fillCause n = none → (e.loc = false → s.myCore.changing e.off e.span = false) → pg.permits (.load s.me.prv) = true →
        ∃ t m, exec (.tfill n p) s = .next t ∧ t.transit = s.transit ++ [m] ∧ m.dest = dst va ∧
          t.me = s.past s.cur.1 s.cur.2 { s.me with tlc := s.me.tlc + 1 } ∧ (t.myCore.tile n).state = 1 ∧
          (t.myCore.tile n).fseq = (e.fseq + 1) % 4096 ∧ (t.myCore.tile n).own = s.cur.2 ∧
          (t.myCore.tile n).job = .fill (k :: rest) 1 none s.cur.2 s.me.prv ∧ t.myCore.ls = s.myCore.ls ∧ t.hbm = s.hbm) ∧
      (e.lines[0]? = some q0 → e.state = 2 → e.home ≠ 0 → s.tileChecks n e = none →
        (e.strm = false → tileVa q0.home = some va0 ∧ s.myCore.tlbFind asid va0 = some pg ∧ pg.permits (.store s.me.prv) = true) →
        ∃ t m, exec (.tdrain n p) s = .next t ∧ t.transit = s.transit ++ [m] ∧
          m.dest = (if e.strm then epHbm (s.cur.1 % 16) else dst va0) ∧
          t.me = s.past s.cur.1 s.cur.2 { s.me with tlc := s.me.tlc + 1 } ∧ (t.myCore.tile n).state = 3 ∧
          (t.myCore.tile n).own = s.cur.2 ∧ (t.myCore.tile n).job = .drain all 1 e.strm s.cur.2 s.me.prv ∧
          t.myCore.ls = s.myCore.ls ∧ t.hbm = s.hbm)) ∧
    (e.state = 2 → e.refilling = false → e.logDirty = false → e.logged = none →
      ∃ t, exec (.trel n p) s = .next t ∧ CompletesIn s t s.me { s.myCore with tiles := t.myCore.tiles } ∧
        (t.myCore.tile n).state = 0 ∧ (t.myCore.tile n).w0 = e.w0 ∧ (t.myCore.tile n).w1 = e.w1 ∧ (t.myCore.tile n).w2 = e.w2 ∧
        ∀ k, k ≠ n.val → t.myCore.tile k = s.myCore.tile k)

/-- R227: TLDV gives each active lane the element of its column, 0 beyond the tile's columns, and TSTV writes the active lanes'
elements and no other byte. -/
def Obligations.TileAccessesComplete : Prop :=
  ∀ (s : State) (n : Fin 64) (d row col : Opd) (p : Pred), Begins .no false noPred s → Unstepped s →
    let e := s.myCore.tile n
    let w := etyWidth e.ety
    let c := (s.me.src 0 col).toNat
    let a := e.off + (s.me.src 0 row).toNat * e.lpitch + c * w / 8
    let on := fun i => decide (i < 1024 / w) && s.me.active p w i && decide (c + i < e.cols)
    e.loc = false → e.state = 2 → (s.me.src 0 row).toNat < e.rows → c < e.cols → (e.ety = .rn4 → c % 2 = 0) →
    (∀ i, on i = true → s.myCore.localRefusal (a + i * w / 8) (max 1 (w / 8)) s.me.prv = none) →
    (let v := s.lsView s.cur.1
      ∃ t, exec (.tldv d row col n p) s = .next t ∧ LaneWise v.1 t d p w fun i =>
      ⟨if c + i < e.cols then (if w = 4 then v.2.num (a + i / 2) 1 / 16 ^ (i % 2) else v.2.num (a + i * w / 8) (w / 8))
        else 0, 0⟩) ∧
    (s.myCore.ls.wf = true →
      ∃ t, exec (.tstv row col d n p) s = .next t ∧
        CompletesIn s t s.me { s.myCore with ls := t.myCore.ls, replies := t.myCore.replies } ∧
        (w ≠ 4 → ∀ i, on i = true → t.myCore.ls.num (a + i * w / 8) (w / 8) = lane w (s.me.readV (vNo d)) i) ∧
        (w = 4 → ∀ i, on i = true → t.myCore.ls.num (a + i / 2) 1 / 16 ^ (i % 2) % 16 = lane 4 (s.me.readV (vNo d)) i) ∧
        ∀ k, (∀ i, on i = true → k < a + i * w / 8 ∨ a + i * w / 8 + max 1 (w / 8) ≤ k) →
          t.myCore.ls.read k = s.myCore.ls.read k)

/-- R101, R124, R233, R234: OCLAIM binds a free slot to its entry and queues behind its holder, OFILL starts the copy of a
scratchpad tile into a slot, which OFILL_COMPLETE ends with both tiles READY, ORELS empties the bound entry and frees the slot, SUBS
registers a stream over EMPTY ring entries, and UNSUBS of a free id does nothing.
R124: OFILL_COMPLETE: the entry is READY with its time, the strand's TLC falls, and the slot holds the rows that lie in the source's
local range as the step is taken, at the place and pitch that the source had when OFILL issued: R124 fixes no time, and the step's is the
model's choice (assumption log 27). -/
def Obligations.SlotsAndStreamsComplete : Prop :=
  (∀ (p : Pred) (s : State), Begins .no false p s → Unstepped s →
    let i := s.cur.2
    let x := s.myCore
    (∀ (o : Fin 16) (n : Fin 64), (x.tile n).state = 0 → (x.tile n).refilling = false → (x.tile n).loc = true →
      (x.tile n).slotNo = o.val →
      let k := { x with slotWait := x.slotWait.filter (· != (o.val, i)) }
      ((x.slot o).bound = some n.val → ∃ t, exec (.oclaim o n p) s = .next t ∧ CompletesIn s t s.me k) ∧
      ((x.slot o).bound = none → (∀ j, (o.val, j) ∈ x.slotWait → j = i) → ∃ t, exec (.oclaim o n p) s = .next t ∧
        CompletesIn s t s.me { k with slots := t.myCore.slots } ∧ (t.myCore.slot o) = { x.slot o with bound := some n.val } ∧
        ∀ j, j ≠ o.val → t.myCore.slot j = x.slot j) ∧
      (∀ b, (x.slot o).bound = some b → b ≠ n.val → ∃ t, exec (.oclaim o n p) s = .next t ∧
        t.me = { s.me with midway := true } ∧
        t.myCore.slots = x.slots ∧ (o.val, i) ∈ t.myCore.slotWait)) ∧
    (∀ n src : Fin 64, src ≠ n → (x.tile src).state = 2 → (x.tile n).state = 0 → (x.tile n).loc = true →
      (x.slot (x.tile n).slotNo).bound = some n.val → (x.tile src).loc = false → (x.tile src).ety = (x.tile n).ety →
      (x.tile src).rows = (x.tile n).rows → (x.tile src).cols = (x.tile n).cols → s.me.tlc < 64 →
      ∃ t, exec (.ofill n src p) s = .next t ∧
        CompletesIn s t { s.me with tlc := s.me.tlc + 1 } { x with tiles := t.myCore.tiles } ∧ (t.myCore.tile n).state = 1 ∧
        (t.myCore.tile n).job = .ofill (x.tile src).off (x.tile src).lpitch (x.tile src).rows (x.tile src).rowBytes (x.tile src).residue i ∧
        ∀ j, j ≠ n.val → t.myCore.tile j = x.tile j) ∧
    (∀ (o : Fin 16), ((x.slot o).bound = none → ∃ t, exec (.orels o p) s = .next t ∧ Completes s t s.me) ∧
      ∀ n, (x.slot o).bound = some n → ((x.tile n).state = 0 ∨ (x.tile n).state = 2) → (x.tile n).logged = none →
        (∀ m ∈ x.mxq, m.kind.readsSlot o = false ∨ m.phase = .past) →
        ∃ t, exec (.orels o p) s = .next t ∧ CompletesIn s t s.me { x with tiles := t.myCore.tiles, slots := t.myCore.slots } ∧
          (t.myCore.tile n).state = 0 ∧ (t.myCore.slot o).bound = none ∧ (t.myCore.slot o).data = (x.slot o).data ∧
          (∀ j, j ≠ o.val → t.myCore.slot j = x.slot j) ∧ ∀ j, j ≠ n → t.myCore.tile j = x.tile j) ∧
    (∀ (base shp : Opd) (n : Fin 64) (rn1 : Fin 16) (sid : Fin 4) (off : Nat),
      let e := x.tile n
      n.val + rn1.val + 1 ≤ 64 → SMap.get? x.streams sid = none → x.shapePlace s.me.stkb (s.me.src 0 shp) s.me.prv = .ok off →
      (x.shapeAt off).2 = false → (∀ d ∈ (x.shapeAt off).1.dims, d.2.2 = 0) →
      (∀ j, j ≤ rn1.val → let f := x.tile (n.val + j)
        f.state = 0 ∧ f.refilling = false ∧ f.rows ≠ 0 ∧ f.cols ≠ 0 ∧ f.rows = e.rows ∧ f.cols = e.cols ∧ f.lpitch = e.lpitch ∧ f.ety = e.ety) →
      ∃ t k, exec (.subs base shp n rn1 sid p) s = .next t ∧
        CompletesIn s t s.me { x with tiles := t.myCore.tiles, streams := t.myCore.streams } ∧
        SMap.get? t.myCore.streams sid = some k ∧ k.tf = n.val ∧ k.rn = rn1.val + 1 ∧ k.base = s.me.src 0 base ∧
        k.shape = (x.shapeAt off).1 ∧ k.next = 0 ∧ k.origin = i ∧ k.ending = false ∧ k.pushing = false ∧
        (∀ j, j ≤ rn1.val → (t.myCore.tile (n.val + j)).strm = true ∧ (t.myCore.tile (n.val + j)).own = i ∧
          (t.myCore.tile (n.val + j)).state = 0) ∧
        ∀ j, j < n.val ∨ n.val + rn1.val < j → t.myCore.tile j = x.tile j) ∧
    ∀ (sid : Fin 4),
      (SMap.get? x.streams sid = none → ∃ t, exec (.unsubs sid p) s = .next t ∧ Completes s t s.me) ∧
      ∀ k, SMap.get? x.streams sid = some k → ∃ t, exec (.unsubs sid p) s = .next t ∧
        CompletesIn s t s.me { x with tiles := t.myCore.tiles, streams := t.myCore.streams } ∧
        (k.ending = true → t.myCore.tiles = x.tiles ∧ t.myCore.streams = x.streams) ∧
        (k.ending = false → SMap.get? t.myCore.streams sid = if k.pushing then some { k with ending := true } else none)) ∧
  ∀ (c n off lpitch rows rowBytes o : Nat) (residue : Bool) (s : State), c < 12288 → n < 64 → o < 4 →
    (s.tile c n).job = .ofill off lpitch rows rowBytes residue o →
    ∃ t, exec (.ofillComplete c n) s = .next t ∧ (t.tile c n).state = 2 ∧ (t.tile c n).w4 = s.timecode ∧ (t.tile c n).job = .none ∧
      (t.strand c o).tlc = (s.strand c o).tlc - 1 ∧ (t.core c).ls = (s.core c).ls ∧
      (rows * rowBytes ≤ 4096 → ∀ r, r < rows →
        ((t.core c).slot (s.tile c n).slotNo).num (r * rowBytes) rowBytes = (s.core c).ls.num (off + r * lpitch) rowBytes) ∧
      (∀ k, k ≠ n → t.tile c k = s.tile c k) ∧ ∀ k, k ≠ c → t.core k = s.core k
/-! ## Encoding, steps, reset -/

/-- R186 to R196: encoding and decoding agree: the word of every well-formed instruction decodes to it, with every operand and
every field at every value that its encoding admits. -/
def Obligations.DecodeEncode : Prop :=
  ∀ (i : Instr) (w : W96), i.wellFormed = true → encode i = some w → decode w = .ok i

/-- R187, R191, R193: every word that decodes is the word of its instruction, which is well formed: no field that an instruction
does not use, and no value that it does not accept, is passed over; and every word that is none is refused. -/
def Obligations.EncodeDecode : Prop :=
  ∀ (i : Instr) (w : W96), decode w = .ok i → i.wellFormed = true ∧ encode i = some w

/-- R186, R191, R208, R240, R276, R291, R302, R339: the words that the spec's examples build decode to their instructions. -/
def Obligations.DecodeWords : Prop :=
  let p : Fin 8 → Pred := fun k => ⟨k, false⟩
  decode 0x4302830A1C44000000000000 = .ok (.vfma ⟨.fp32, .v 1, .v 2, .v 3, .v 4, 0, p 2⟩) ∧
  decode 0x200206102800000000000000 = .ok (.fadd ⟨.fp32, .g 3, .g 4, .g 5, 0, p 0⟩) ∧
  decode 0x010012000000800000001000 = .ok (.movi (.g 9) 0x800000001000 (p 0)) ∧
  decode 0x312C00102800FFFFFFFFFFF8 = .ok (.brc ⟨.lt, .i64, .none, .g 4, .g 5, 0xFFFFFFFFFFF8, p 0⟩) ∧
  decode 0x38000000000000000DCB0000 = .ok (.fmt 0x0DCB0000) ∧
  decode 0x580209240006000000000000 = .ok (.vreduce ⟨.add, .fp32, .g 4, .v 9, p 3⟩) ∧
  decode 0x805A0E200000000000000040 = .ok (.ld ⟨.acq, .dev, 2, .g 7, .g 8, .none, .none, 0x40, p 0⟩) ∧
  decode 0xAAD90A183880750000000008 = .ok (.amo ⟨.sc, .dev, true, .g 5, .g 6, .g 7, .g 8, .cas, .i32, 8, p 0⟩) ∧
  decode 0xA0060079A203000000001304 = .ok (.cpyRedc ⟨.g 30, .g 52, .g 32, 1, 3, 4, ⟨1, true⟩⟩) ∧
  decode 0xC000D4000000000000037000 = .ok (.mma ⟨false, .acc 2, 3, 7, 0, p 0⟩) ∧
  decode 0xD018000000000000000000F3 = .ok (.arv .dev true 7 3 (p 0)) ∧
  decode 0xE0000E100000000000000000 = .ok (.sprint (.g 7) (.g 4) (p 0)) ∧
  decode 0 = .ok .nop

/-- R23, R175 to R180, R185, R194: a strand's turn at a PC of good form, whose line is in the instruction cache with its parity right
and its reserved fields zero, a target where the strand has just arrived and its group legal, is the decoded instruction of the
slot, at which a strand that held an interrupt off no longer does (R379: DEDUCED, assumption log 32), and at whose slot 4 the strand
keeps the group that the slot may join to the next line (R183); and a turn of another agent is its step. Which turn comes next where the agenda is empty is the model's choice (DESIGN CHOICE, assumption log 5). -/
def Obligations.StepRunsDecoded : Prop :=
  ∀ (s u v : State) (c i : Nat) (rest : List Turn), c < 12288 → i < 4 →
    (s.agenda = .strand c i :: rest ∨ s.agenda = [] ∧ rest = [] ∧ s.defaultTurn = .strand c i) →
    u = { s with agenda := rest, cur := (c, i) } →
    v = (if (u.strand c i).wait = .hold then u.modStrand c i fun t => { t with wait := .no } else u) →
    (v.strand c i).entryDue = none →
    (∀ (l : ILine) (ins : Instr),
      let x := v.strand c i
      let slot := pcSlot x.pc
      u.canRun c i = true → u.asyncDeliver c i = none →
      (x.wait = .no ∨ (∃ q, x.wait = .sc q true) ∨ (∃ f, x.wait = .forwards f) ∨ (∃ d f w, x.wait = .sync d f w) ∨
        ∃ w, x.wait = .record w) →
      pcOk x.pc = true → EnvErr.parity c (pcLine x.pc) false ∉ v.env → v.fetch c i (pcLine x.pc) = .line l → l.bad < 2 →
      lineReserved l.bytes = false → (x.entered = true → lineTgt l.bytes slot = true) →
      groupLegal (groupOf l.bytes slot) = true → (slot = 0 → groupLegal (x.join4 ++ groupOf l.bytes 0) = true) →
      (v.core c).vectorPending i (slotWord l.bytes slot) = false → decode (slotWord l.bytes slot) = .ok ins →
      step s = exec ins (v.modStrand c i fun t => if slot < 4 then t else { t with join4 := lastGroup l.bytes })) ∧
    ∀ (e : Instr) (r : State), r.agenda = .event e :: rest → step r = exec e { r with agenda := rest }

/-- R30, R36, R103: every step keeps every memory canonical: the addresses of HBM, of host memory and of every local store strictly
rise, and none is listed with what an unlisted address reads as. -/
def Obligations.MemoryStaysCanonical : Prop :=
  ∀ s t : State, s.Canonical → step s = .next t → t.Canonical

/-- R161, R163, R164, R166, R68, R97, R104, R110, R122, R125: what reset leaves where the spec says it: every register of every strand,
the system registers, the banks, the tiles, the operand slots, the accumulators and the groups. The memories are canonical at reset. -/
def Obligations.ResetState : Prop :=
  (∀ c i : Nat, c < 12288 → i < 4 →
    let x := State.reset.core c
    let t := State.reset.strand c i
    let r := State.reset.sysGet c i
    (∀ n, t.readG n = 0) ∧ (∀ n, t.readV n = 0) ∧ t.k[0]? = some 0xFFFFFFFFFFFFFFFF ∧ (∀ n, 1 ≤ n → n < 8 → t.k[n]? = some 0) ∧
    r 0x000 = 0x80 ∧
    (∀ n ∈ [0x001, 0x002, 0x003, 0x004, 0x005, 0x006, 0x007, 0x008, 0x00A, 0x00B, 0x00C, 0x00D, 0x00E, 0x010, 0x011, 0x012, 0x013,
      0x014, 0x015, 0x016, 0x017, 0x021, 0x030, 0x031, 0x032, 0x041, 0x060], r n = 0) ∧
    r 0x009 = coreXyz c i ∧ r 0x042 = 0x0000040104058781 ∧ r 0x043 = 0x0000000300000000 ∧
    (∀ b, b < 64 → x.mode b = 0) ∧ (∀ a, x.ls.read a = 0) ∧
    (∀ n, (x.tile n).state = 0) ∧ (∀ o, (x.slot o).bound = none) ∧ (∀ a, (x.accOf a).owner = none ∧ ∀ k, k < 256 → (x.accOf a).words[k]? = some 0) ∧
    ∀ n, (x.group n).desc = 0) ∧
  (State.reset.Canonical)

/-! ## The shared cache -/

/-- R73, R74, R80, R137: what a home answers and does: a read gives the line (and a copy to a proxy), a write merges its bytes, an
AMO and a RED update their element, the last three advance SEQ; a grant makes the line a reduction line; the storer's read holds it;
a forwarded log entry is applied. A write with copies in its way sends their invalidations and keeps its answer back. R71, R78, R80,
R82, R83, R134: the HBM controller answers a read with the line and its metadata and writes what a victim's write-back brings; a line
that has come from HBM is installed and the read that waited is answered; a victim whose data are written leaves its way; the last
acknowledgement of an invalidation lets the answer kept back go; recalled copies and a partial flush are folded in. -/
def Obligations.HomesComplete : Prop :=
  (∀ (s : State) (uid : Nat) (m : Msg) (r : MemReq) (h : HomeLine), HomeTakes s uid m r → HomeQuiet s r.line h →
    let ln := r.line
    let st' := written h.st
    let ans := fun k seq d => Body.ans r.who k seq false d r
    (r.op = .read → h.logPend = none →
      (r.px = none → ∃ t, exec (.homeRead uid) s = .next t ∧ HomeDone s t m ln h false 1 (ans 0 h.seq (some h.data))) ∧
      ∀ p, r.px = some p → h.st ≠ some .L → ∃ t, exec (.homeRead uid) s = .next t ∧
        HomeDone s t m ln { h with v := h.v ||| ((1 : BitVec 16) <<< sliceZ p) } false 1 (ans 1 h.seq (some h.data))) ∧
    (r.op = .write → h.logPend = none →
      let h' := { h with data := merge h.data r.data r.mask, seq := h.seq + 1, st := st', asid := r.asid }
      (h.v = 0 → ∃ t, exec (.homeWrite uid) s = .next t ∧ HomeDone s t m ln h' true 2 (ans 0 (h.seq + 1) none)) ∧
      (h.v ≠ 0 → s.layerSlices h.v ≠ [] → ∃ t a, exec (.homeWrite uid) s = .next t ∧
        t.homeLine ln = { h' with v := 0, busy := .inval (s.layerSlices h.v).length [a], stamp := s.uid } ∧ a.dest = m.src ∧
        a.body = ans 0 (h.seq + 1) none ∧
        t.transit.length = s.transit.length + (s.layerSlices h.v).length + (s.notes ln).length)) ∧
    (∀ a, r.op = .amo a → h.logPend = none → h.v = 0 → ∃ t, exec (.homeWrite uid) s = .next t ∧
      HomeDone s t m ln { h with data := elemUpdate (etyWidth a.ty) h.data r.off (amoNew a), seq := h.seq + 1, st := st', asid := r.asid }
        true 1 (ans 0 (h.seq + 1) (some h.data))) ∧
    (∀ a, r.op = .red a → h.logPend = none → h.v = 0 → ∃ t, exec (.homeRed uid) s = .next t ∧
      HomeDone s t m ln { h with data := elemUpdate (etyWidth a.ty) h.data r.off (amoNew a), seq := h.seq + 1, st := st', asid := r.asid }
        true 2 (ans 0 (h.seq + 1) none)) ∧
    (∀ op ty sl, r.op = .grant op ty → r.px = some sl → h.logPend = none → h.v = 0 → h.st ≠ some .L →
      ∃ t, exec (.uGrantRequest uid) s = .next t ∧
        HomeDone s t m ln { h with up := some (op, ty), v := (1 : BitVec 16) <<< sliceZ sl, st := some .M } false 2 (ans 2 h.seq none)) ∧
    (∀ k, r.op = .lock k → h.v = 0 → ∃ t, exec (.lockingRead uid) s = .next t ∧
      HomeDone s t m ln { h with busy := .locked k } false 1 (.lockAns k ln (some h.data))) ∧
    ∀ k e, r.op = .entry k e → h.v = 0 → ∃ t, exec (.lineHomeLogEntry uid) s = .next t ∧
      HomeDone s t m ln { h with
        data := elemUpdate 32 h.data r.off (fun old => logApply (s.tensor (recTensor k)).fmt e.op old e.val.toNat)
        seq := h.seq + 1, st := st', asid := some (s.tensor (recTensor k)).asid } true 2 (.fwdAck k ln)) ∧
  (∀ (s : State) (ln : Nat), ln < 2 ^ 33 →
    let h := s.homeLine ln
    (∀ uid m, let u := s.deliver uid
      u.msg? uid = some m → 12288 ≤ m.dest → m.dest ≠ epHost →
      (m.body = .hbmRd ln → EnvErr.hbmBad ln ∉ u.env → EnvErr.hbmCorr ln ∉ u.env →
        ∃ t, exec (.messageDelivery uid) s = .next t ∧ NetOnly (u.consume uid) t ∧
          Mails u t m.dest m.src 1 0 (.hbmData ln (u.hbm.line (128 * ln)) (u.lineMeta ln).seq (u.lineMeta ln).poison)) ∧
      ∀ d q p, m.body = .hbmWr ln d q p → u.hbm.wf = true →
        ∃ t, exec (.messageDelivery uid) s = .next t ∧ NetOnly { u.consume uid with hbm := t.hbm, hmeta := t.hmeta } t ∧
          t.hbm.line (128 * ln) = d ∧ (∀ a, a / 128 ≠ ln → t.hbm.read a = u.hbm.read a) ∧
          t.lineMeta ln = { u.lineMeta ln with seq := q, poison := p } ∧ (∀ k, k ≠ ln → t.lineMeta k = u.lineMeta k) ∧
          Mails u t m.dest m.src 2 0 (.hbmWrote ln)) ∧
    (∀ o b d q, h.busy = .fill → h.st = none → h.ops = [o] → o.req.op = .read → o.req.line = ln → o.req.px = none → o.req.asid = none →
      o.tag ≠ 256 → s.hbmAnswer ln = some b → b.body = .hbmData ln d q false → (s.setMates ln).length < 12 →
      (s.lineMeta ln).logPend = none → EnvErr.homeBad ln ∉ s.env → EnvErr.homeCorr ln ∉ s.env →
      ∃ t, exec (.hbmLineFill ln) s = .next t ∧ NetOnly { s.consume b.uid with home := t.home } t ∧
        t.homeLine ln = { st := some .S, data := d, v := 0, up := none, poison := false, seq := q, logPend := none, asid := none
                          busy := .no, ops := [], stamp := h.stamp } ∧
        (∀ k, k ≠ ln → t.homeLine k = s.homeLine k) ∧
        Mails s t (epSlice (s.homeOf ln)) o.src 1 0 (.ans o.req.who 0 q false (some d) o.req)) ∧
    (∀ b, h.busy = .wb → h.ops = [] → h.st = some .M → h.asid = none → s.inbox.find? (fun m => m.body == .hbmWrote ln) = some b →
      ∃ t, exec (.victimWritebackDone ln) s = .next t ∧ t = { s.consume b.uid with home := t.home, hmeta := t.hmeta } ∧
        t.homeLine ln = .reset ∧ (∀ k, k ≠ ln → t.homeLine k = s.homeLine k) ∧
        t.lineMeta ln = { s.lineMeta ln with logPend := h.logPend, poison := (s.lineMeta ln).poison || b.poison } ∧
        ∀ k, k ≠ ln → t.lineMeta k = s.lineMeta k) ∧
    (∀ uid m p, s.msg? uid = some m → m.body = .ack ln p →
      (∀ n held, h.busy = .inval n held → 1 < n → ∃ t, exec (.invalidationAck uid) s = .next t ∧
        t = { s.consume uid with home := t.home } ∧ t.homeLine ln = { h with busy := .inval (n - 1) held }) ∧
      (∀ a, h.busy = .inval 1 [a] → a.tag ≠ 256 → h.ops = [] → h.st.isSome = true → ∃ t, exec (.invalidationAck uid) s = .next t ∧
        NetOnly { s.consume uid with home := t.home } t ∧ t.homeLine ln = { h with busy := .no } ∧
        ∃ b : Msg, t.transit = s.transit ++ [b] ∧ b.dest = a.dest ∧ b.tag = a.tag ∧ b.body = a.body) ∧
      ∀ n parts, h.busy = .recall n parts → ∃ t, exec (.invalidationAck uid) s = .next t ∧
        t = { s.consume uid with home := t.home } ∧
        t.homeLine ln = { h with busy := .recall (n - 1) (parts ++ [p]) }) ∧
    (∀ u p, s.flying ln = [] → h.busy = .recall 0 [p] → p.touched ≠ 0 → p.poison = false → h.up = some u →
      h.ops = [] → h.st.isSome = true → ∃ t, exec (.recallFold ln) s = .next t ∧ t = { s with home := t.home } ∧
        t.homeLine ln = { h with data := foldCopy u h.data p.touched p.part, seq := h.seq + 1, up := none, v := 0, st := written h.st
                                 asid := p.asid, busy := .no }) ∧
    ∀ uid m r p u, s.msg? uid = some m → m.body = .mem r → m.cancel = false → m.ticket = 0 → r.line = ln →
      r.op = .flush u p → p.poison = false → p.touched ≠ 0 → s.homeOf ln < 768 → m.dest = epSlice (s.homeOf ln) →
      h.st.isSome = true → h.busy ≠ .fill → EnvErr.homeBad ln ∉ s.env → EnvErr.homeCorr ln ∉ s.env →
      ∃ t, exec (.partialFlush uid) s = .next t ∧ NetOnly { s.consume uid with home := t.home } t ∧
        (t.homeLine ln).data = foldCopy u h.data p.touched p.part ∧ (t.homeLine ln).seq = h.seq + 1 ∧
        (t.homeLine ln).st = written h.st ∧ (t.homeLine ln).busy = h.busy ∧ (∀ k, k ≠ ln → t.homeLine k = s.homeLine k) ∧
        Mails s t m.dest m.src 2 0 (.ok (h.seq + 1).toNat))

/-- R75, R76, R81, R82: a proxy with a transaction entry free answers a load from its copy, asks the home for a line it does not hold,
passes a load of a reduction copy, a store, an AMO and a RED of another operation on, drops the shared copy a store or an AMO writes
over, combines a RED into a copy of its operation, and asks for a grant for a RED that finds none. The home's answers install the copy,
unless the line was called back meanwhile, and the RED that waited is combined, or goes to the home; an invalidation and a recall give
the copy up. -/
def Obligations.ProxiesComplete : Prop :=
  (∀ (s : State) (uid sl : Nat) (m : Msg) (r : MemReq), ProxyTakes s uid m r sl →
    let ln := r.line
    let home := epSlice (s.homeOf ln)
    let q := SMap.get? s.preqs (pkey sl ln)
    let relay := fun (t : State) => NetOnly { s.consume m.uid with proxies := t.proxies } t ∧
      Mails s t m.src home m.cls 0 m.body
    let asks := fun (t : State) (op : MemOp) (g : Option (AmoOp × ETy)) =>
      NetOnly { s.consume m.uid with preqs := t.preqs, proxies := t.proxies, slices := t.slices } t ∧
      SMap.get? t.preqs (pkey sl ln) = some { grant := g, marked := false, waiting := [m] } ∧
      Mails s t (epSlice sl) home 0 0 (.mem { MemReq.plain op ln (.proxy sl) r.asid with px := some sl })
    (r.op = .read →
      (∀ p, s.proxyLine sl ln = some p → p.u = none → ∃ t, exec (.proxyLoad uid) s = .next t ∧
        NetOnly { s.consume m.uid with proxies := t.proxies } t ∧ t.proxyLine sl ln = some { p with stamp := s.uid } ∧
        Mails s t (epSlice sl) m.src 1 0 (.ans r.who 0 p.seq true (some p.data) r)) ∧
      (∀ p, s.proxyLine sl ln = some p → p.u.isSome = true →
        ∃ t, exec (.proxyLoad uid) s = .next t ∧ relay t ∧ t.proxies = s.proxies) ∧
      (s.proxyLine sl ln = none → q = none → ∃ t, exec (.proxyLoad uid) s = .next t ∧ asks t .read none ∧ t.proxies = s.proxies)) ∧
    (∀ i, (r.op = .write ∧ i = .proxyStore uid ∨ (∃ a, r.op = .amo a) ∧ i = Instr.proxyAmo uid) →
      (∀ p, s.proxyLine sl ln = some p → p.u = none →
        ∃ t, exec i s = .next t ∧ relay t ∧ t.proxyLine sl ln = none) ∧
      (∀ p, s.proxyLine sl ln = some p → p.u.isSome = true → ∃ t, exec i s = .next t ∧ relay t ∧ t.proxies = s.proxies) ∧
      (s.proxyLine sl ln = none → q = none → ∃ t, exec i s = .next t ∧ relay t ∧ t.proxies = s.proxies)) ∧
    ∀ a, r.op = .red a →
      (∀ p, s.proxyLine sl ln = some p → p.u = some (a.op, a.ty) → ∃ t, exec (.proxyRed uid) s = .next t ∧
        NetOnly { s.consume m.uid with proxies := t.proxies } t ∧
        t.proxyLine sl ln = some { combineCopy (a.op, a.ty) p r.off a.v with stamp := s.uid, asid := r.asid } ∧
        Mails s t (epSlice sl) m.src 2 0 (.ans r.who 0 p.seq true none r)) ∧
      (∀ p, s.proxyLine sl ln = some p → p.u.isSome = true → p.u ≠ some (a.op, a.ty) →
        ∃ t, exec (.proxyRed uid) s = .next t ∧ relay t ∧ t.proxies = s.proxies) ∧
      ((s.proxyLine sl ln = none ∧ q = none ∨ ∃ p, s.proxyLine sl ln = some p ∧ p.u = none) →
        ∃ t, exec (.proxyRed uid) s = .next t ∧ asks t (.grant a.op a.ty) (some (a.op, a.ty)) ∧ t.proxyLine sl ln = none)) ∧
  (∀ (s : State) (uid sl kind : Nat) (seq : W32) (px : Bool) (m w : Msg) (data : Option W1024) (req r : MemReq) (q : ProxyReq),
    s.msg? uid = some m → m.body = .ans (.proxy sl) kind seq px data req → SMap.get? s.preqs (pkey sl req.line) = some q →
    q.waiting = [w] → w.body = .mem r → (s.proxySet sl req.line).length < 4 →
    (∀ d, req.op = .read → data = some d → ∃ t, exec (.proxyFillAnswer uid) s = .next t ∧
      NetOnly { s.consume uid with preqs := t.preqs, proxies := t.proxies } t ∧
      Mails s t (epSlice sl) w.src 1 0 (.ans r.who kind seq false (some d) r) ∧ SMap.get? t.preqs (pkey sl req.line) = none ∧
      t.proxyLine sl req.line = if kind = 1 ∧ q.marked = false then
        some { u := none, data := d, touched := 0, seq, poison := false, stamp := s.uid, asid := none } else s.proxyLine sl req.line) ∧
    ∀ op ty a, req.op = .grant op ty → r.op = .red a → r.line = req.line →
      EnvErr.proxyBad sl r.line ∉ s.env → EnvErr.proxyCorr sl r.line ∉ s.env →
      (kind = 2 → q.marked = false → q.grant = some (a.op, a.ty) → ((s.proxySet sl req.line).filter fun e => e.2.u.isSome).length < 2 →
        ∃ t, exec (.proxyGrantAnswer uid) s = .next t ∧ SMap.get? t.preqs (pkey sl req.line) = none ∧
        NetOnly { s with inbox := t.inbox, preqs := t.preqs, proxies := t.proxies } t ∧
        t.proxyLine sl req.line = some { combineCopy (a.op, a.ty)
          { u := q.grant, data := 0, touched := 0, seq, poison := false, stamp := s.uid, asid := none } r.off a.v with
            stamp := s.uid, asid := r.asid } ∧
        Mails s t (epSlice sl) w.src 2 0 (.ans r.who 0 seq true none r)) ∧
      (q.marked = true ∨ kind ≠ 2 → w.cancel = false → w.poison = false → ∃ t, exec (.proxyGrantAnswer uid) s = .next t ∧ t.proxies = s.proxies ∧
        Mails s t w.src (epSlice (s.homeOf req.line)) w.cls 0 w.body)) ∧
  ∀ (s : State) (uid sl ln : Nat) (m : Msg) (i : Instr), s.msg? uid = some m → sl < 768 → m.dest = epSlice sl →
    (m.body = .inval ln ∧ i = .proxyInvalidation uid ∨ m.body = .recall ln ∧ i = .proxyRecall uid) →
    EnvErr.proxyBad sl ln ∉ s.env → EnvErr.proxyCorr sl ln ∉ s.env →
    ∃ t, exec i s = .next t ∧ NetOnly { s.consume m.uid with proxies := t.proxies, preqs := t.preqs } t ∧
      t.proxyLine sl ln = none ∧ (∀ q, SMap.get? s.preqs (pkey sl ln) = some q →
        SMap.get? t.preqs (pkey sl ln) = some { q with marked := true }) ∧
      ((s.proxyLine sl ln = none ∨ ∃ p, s.proxyLine sl ln = some p ∧ p.u = none) →
        Mails s t (epSlice sl) m.src 2 0 (.ack ln { sl, touched := 0, part := 0, poison := false, asid := none })) ∧
      ∀ p, s.proxyLine sl ln = some p → p.u.isSome = true →
        Mails s t (epSlice sl) m.src (if p.touched ≠ 0 ∨ p.poison = true then 1 else 2) 0
          (.ack ln { sl, touched := p.touched, part := p.data, poison := p.poison, asid := p.asid })

/-! ## Logs -/

/-- R126, R127, R128, R135, R141, R228, R229, R230: TUPD and TUPDV send their entries to the log home under a journal entry; LOGT asks the
device sequencer, which keeps the tensor under the lowest free id and answers it, or all ones; LOGT.RET makes its id RETIRING, forces its
logs, and waits until the sequencer has freed it; the TLOG forms ask the log home, which answers LSEQ and the number of entries held,
TLOG.COMPACT after compaction (stated whole where no entry is spilled), and TLOG.SYNC once the core where the tile is resident has taken
what was accepted; the answer is written to D, by TLOG.SYNC once its core has applied it all. That the device has one table of tensors and
that these answers carry no more than this is the model's reading (assumption log 28). -/
def Obligations.LogInstructionsComplete : Prop :=
  (∀ (x : Up) (s : State) (r j : Nat) (v : Bool), Unstepped s → Begins .no false (if v then noPred else x.p) s →
    let u := s.me
    let g := u.src 0 x.a
    let d := s.tensor (bits g 0 8)
    let es : List LogEntry := if v then ((List.range 32).filter (u.active x.p 32)).map fun i =>
        { tcode := 0, elem := lane 32 (u.readV (vNo x.b)) i, op := x.op, val := BitVec.ofNat 32 (lane 32 (u.readV (vNo x.c)) i) }
      else [{ tcode := 0, elem := (u.src 0 x.b).toNat, op := x.op, val := (u.src 0 x.c).setWidth 32 }]
    let i := if v then Instr.tupdv x else .tupd x
    d.st = .active → d.asid = u.asid.setWidth 16 → bits g 32 32 = 0 → bits g 8 24 < d.ntr * d.ntc →
    r = bits g 0 8 * 2 ^ 24 + bits g 8 24 → (∀ e ∈ es, e.elem < d.tr * d.tc) →
    (es = [] → ∃ t, exec i s = .next t ∧ Completes s t u) ∧
    ∀ e rest, es = e :: rest → u.rsc < 64 → s.myCore.freeJent = some j →
      ∃ t, exec i s = .next t ∧ CompletesSending s t { u with rsc := u.rsc + 1 }
        (s.myCore.setJent j { st := .sent, strand := s.cur.2, addr := d.elemAddr (recTile r) e.elem, opk := 3, reason := 0
                              piece := none, heldRed := none, order := s.myCore.nextOrder })
        (epSlice (s.logHome r)) 3 (.logUpd (.journal s.cur.1 j) r es)) ∧
  (∀ (d : Opd) (x : Ad) (s : State) (off : Nat) (pg : Page), Begins .no false x.p s →
    let a := s.me.src 0 x.a + x.off.signExtend 64
    let asid : BitVec 16 := s.me.asid.setWidth 16
    let desc : Vector W64 8 := Vector.ofFn fun i => BitVec.ofNat 64 (s.myCore.ls.num (off + 8 * i.val) 8)
    let n : Tensor := { desc, pbase := 0, asid, svc := s.me.svcXyz, priv := s.me.prv, core := s.cur.1, st := .active
                        failed := false }
    decodeAddr s.me.stkb a = some (.loc off) → a.toNat % 64 = 0 → s.myCore.changing off 64 = false →
    s.myCore.mode (off / 8192) = 0 → s.myCore.reserved off 64 s.me.prv = false → n.illFormed = false → s.overlapsTensor asid n = false → (tileVa n.base).isSome = true →
    (n.cap = 64 ∨ (tileVa (bits (n.word 1) 0 56)).isSome = true) → s.ptsh ≠ 0 → s.myCore.tlbFind asid n.base = some pg →
    pg.permits ⟨false, false, false, true⟩ = true → n.base / 2 ^ pageShift pg.sz = (n.base + n.size - 1) / 2 ^ pageShift pg.sz →
    pg.rd = true → pg.wr = true → (s.me.prv = true ∨ pg.usr = true) →
    ∃ t, exec (.logt d x) s = .next t ∧ BlocksSending s t (.logt d) epDevSeqr 0 (.logt s.cur.1 s.cur.2 { n with pbase := pageAddr pg n.base })) ∧
  (∀ (s : State) (c i : Nat) (m : Msg), c < 12288 → i < 4 →
    s.inbox.find? (fun m => m.dest == epDevSeqr &&
      (match m.body with | .logt _ _ _ => true | .logtRet _ _ id => s.tensorQuiet id | _ => false)) = some m →
    let answers := fun (t : State) (u : State) (w : Option W64) => NetOnly u t ∧ Mails s t m.dest m.src 1 0 (.logtAns c i w)
    (∀ n, m.body = .logt c i n →
      (s.overlapsTensor n.asid n = true → ∃ t, exec (.logtIdRequest c i) s = .next t ∧ answers t (s.consume m.uid) none) ∧
      (s.overlapsTensor n.asid n = false → ∀ id, s.freeTensorId = some id → ∃ t, exec (.logtIdRequest c i) s = .next t ∧
        answers t { s.consume m.uid with tensors := SMap.set s.tensors id n } (some (BitVec.ofNat 64 id))) ∧
      (s.overlapsTensor n.asid n = false → s.freeTensorId = none → ∃ t, exec (.logtIdRequest c i) s = .next t ∧
        answers t (s.consume m.uid) (some 0xFFFFFFFFFFFFFFFF))) ∧
    ∀ id, m.body = .logtRet c i id → ∃ t, exec (.logtIdRequest c i) s = .next t ∧
      answers t { s.consume m.uid with tensors := SMap.erase s.tensors id, logs := s.logs.filter fun e => recTensor e.1 != id } (some 0)) ∧
  (∀ (s : State) (a : Opd) (p : Pred), Begins .no false p s →
    let id := bits (s.me.src 0 a) 0 8
    bits (s.me.src 0 a) 8 56 = 0 → (s.tensor id).asid = s.me.asid.setWidth 16 →
    (s.tensor id).st = .active ∨ (s.tensor id).st = .failed →
    ∃ t, exec (.logtRet a p) s = .next t ∧ t.me = { s.me with wait := .logtRet id } ∧
      t.tensor id = { s.tensor id with st := .retiring } ∧ (∀ k, k ≠ id → t.tensor k = s.tensor k) ∧
      (∀ r, t.logRec r = s.logRec r ∨ recTensor r = id ∧ t.logRec r = { s.logRec r with st := .force, wrote := false }) ∧
      (∀ r x, (r, x) ∈ s.logs → recTensor r = id → x.st = .log → x.placing = false → (t.logRec r).st = .force) ∧
      ∃ b ∈ t.transit, b.dest = epDevSeqr ∧ b.body = .logtRet s.cur.1 s.cur.2 id) ∧
  (∀ (s : State) (d a : Opd) (p : Pred) (r : Nat), Begins .no false p s → s.tileNamed (s.me.src 0 a) 0 = .ok r →
    let asks := fun (i : Instr) (f : TlogForm) => ∃ t, exec i s = .next t ∧
      BlocksSending s t (.tlog d r f) (epSlice (s.logHome r)) 0 (.tlog s.cur.1 s.cur.2 r f)
    asks (.tlogQuery d a p) .query ∧ asks (.tlogCompact d a p) .compact ∧ ((∀ d r w, s.me.wait ≠ .sync d r w) → asks (.tlogSync d a p) .sync)) ∧
  (∀ (s : State) (d a : Opd) (p : Pred) (d' : Opd) (r : Nat) (w : W64), Begins .no false p s → Unstepped s → s.me.wait = .sync d' r w →
    (s.myCore.unapplied r = false → ∃ t, exec (.tlogSync d a p) s = .next t ∧ Completes s t (s.me.write d' w)) ∧
    (s.myCore.unapplied r = true → exec (.tlogSync d a p) s = .next s)) ∧
  (∀ (s : State) (uid c i r : Nat) (m : Msg) (f : TlogForm),
    let u := s.deliver uid
    let x := u.logRec r
    let word := fun (n : Nat) => BitVec.ofNat 64 (x.lseq * 2 ^ 32 + n)
    let answers := fun (t : State) (n : Nat) => Mails u t m.dest m.src 1 0 (.tlogAns c i (word n))
    u.msg? uid = some m → 12288 ≤ m.dest → m.dest ≠ epHost → m.cancel = false → m.body = .tlog c i r f →
    (f = .query ∨ f = .sync ∧ ((∀ n, x.st ≠ .res c n) ∨ x.synced x.lseq = true) → ∃ t, exec (.messageDelivery uid) s = .next t ∧
      NetOnly (u.consume uid) t ∧ answers t (x.total + x.hold.length)) ∧
    (∀ n, f = .sync → x.st = .res c n → x.synced x.lseq = false → ∃ t, exec (.messageDelivery uid) s = .next t ∧
      t = { u.consume uid with logs := t.logs } ∧ t.logRec r = { x with syncs := x.syncs ++ [(m, x.lseq)] }) ∧
    (let es := compactLog (u.recFmt r) x.entries
     f = .compact → x.placing = false → x.ending = false → x.st ≠ .spillWait → x.spill = 0 → es.length ≤ 64 →
      ∃ t, exec (.messageDelivery uid) s = .next t ∧ NetOnly { u.consume uid with logs := t.logs } t ∧
        (t.logRec r).entries = es ∧ (t.logRec r).lseq = x.lseq ∧ (t.logRec r).st = x.st ∧ (∀ k, k ≠ r → t.logRec k = u.logRec k) ∧
        answers t (es.length + x.hold.length))) ∧
  ∀ (s : State) (uid c i : Nat) (m : Msg), c < 12288 → i < 4 →
    let u := s.deliver uid
    let v := u.strand c i
    let k := u.core c
    let ends := fun (y : Strand) => ∃ t, exec (.messageDelivery uid) s = .next t ∧ t = { u.consume uid with cores := t.cores } ∧ GoesOn c i u t y k
    u.msg? uid = some m → m.dest = c → k.dark = false → m.poison = false → (v.sstep && v.ie) = false →
    (∀ d w, m.body = .logtAns c i (some w) → v.wait = .logt d → ends (v.write d w)) ∧
    (∀ id w, m.body = .logtAns c i w → v.wait = .logtRet id → ends v) ∧
    ∀ d r f w, m.body = .tlogAns c i w → v.wait = .tlog d r f →
      (f ≠ .sync ∨ k.unapplied r = false → ends (v.write d w)) ∧
      (f = .sync → k.unapplied r = true → ∃ t, exec (.messageDelivery uid) s = .next t ∧ t = { u.consume uid with cores := t.cores } ∧
        OnlyCore c i (u.consume uid) t ∧ t.strand c i = { v with wait := .sync d r w })

/-- R130, R132, R133, R134, R137, R138, R426: what a log home, a line home and the storer do: an update is placed and acknowledged with
its LSEQ, or refused for a tensor that is not active; PULL hands a line's entries over, UNPULL takes its line out of the applied mask;
OPEN and CLOSE begin and end a residency; marks and clears are counted; the storer sends the locked lines with their entries applied,
the home takes each and unlocks its line, and the record is freed once every write is answered; a forwarded entry is applied in a READY
tile and kept in a FILLING one. -/
def Obligations.LogHomesComplete : Prop :=
  ∀ (s : State) (uid : Nat) (m : Msg) (r : Nat), s.msg? uid = some m → m.cancel = false → m.ticket = 0 →
    let x := s.logRec r
    let d := s.tensor (recTensor r)
    let only := fun (t : State) (y : LogRec) => NetOnly { s.consume uid with logs := t.logs } t ∧ t.logRec r = y ∧
      ∀ k, k ≠ r → t.logRec k = s.logRec k
    let replies := fun (t : State) (b : Body) => Mails s t m.dest m.src 2 0 b
    (∀ who es, m.body = .logUpd who r es →
      (d.st ≠ .active → ∃ t, exec (.logUpdate uid) s = .next t ∧ NetOnly (s.consume uid) t ∧ replies t (.logAns who 5 x.lseq)) ∧
      (d.st = .active → es ≠ [] → x.st = .log → x.marks = 0 → x.fwdQ = [] → x.fwdOut = [] → x.firstAck = [] → x.next = x.serve →
        x.spill = 0 → x.placing = false → x.ending = false →
        (∀ e ∈ es, x.forwards (s.recLine r e.elem) = false) → x.entries.length + es.length ≤ 64 →
        x.entries.length + es.length < 3 * d.cap / 4 → s.onChip (m.dest - 12288) + es.length ≤ 4096 →
        ∃ t, exec (.logUpdate uid) s = .next t ∧ replies t (.logAns who 0 ((x.lseq + es.length) % 2 ^ 32)) ∧
          only t { x with entries := x.entries ++ es.map (fun (e : LogEntry) => { e with tcode := s.timecode })
                          lseq := (x.lseq + es.length) % 2 ^ 32, newest := s.timecode })) ∧
    (∀ ln, m.body = .logMark ln r → ∃ t, exec (.logmark uid) s = .next t ∧ replies t (.logMarkAck r ln) ∧
      if (s.homeLine ln).st.isSome then t.homeLine ln = { s.homeLine ln with logPend := some r }
      else t.lineMeta ln = { s.lineMeta ln with logPend := some r }) ∧
    (∀ ln, m.body = .logClear ln r → ∃ t, exec (.logclear uid) s = .next t ∧ replies t (.logClearAck r ln) ∧
      (t.lineMeta ln).logPend = none ∧ ((s.homeLine ln).st.isSome = true → t.homeLine ln = { s.homeLine ln with
        logPend := none, st := if (s.homeLine ln).st = some .L then some .M else (s.homeLine ln).st })) ∧
    (∀ ln, m.body = .pull ln r →
      let es := x.entries.filter fun e => s.recLine r e.elem == ln
      let keep := x.entries.filter fun e => s.recLine r e.elem != ln
      (x.st = .idle → ∃ t, exec (.pull uid) s = .next t ∧ NetOnly (s.consume uid) t ∧
        Mails s t m.dest m.src 1 0 (.pullAns ln r [] false false)) ∧
      (x.st = .log → x.placing = false → x.ending = false → x.spill = 0 → es.length ≤ 28 → keep.length ≤ 64 → keep ≠ [] ∨ x.marks ≠ 0 →
        ∃ t, exec (.pull uid) s = .next t ∧ Mails s t m.dest m.src 1 0 (.pullAns ln r es false false) ∧
          only t { x with entries := keep, applied := ln :: x.applied.filter (· != ln)
                          newest := ((keep.getLast?).map (·.tcode)).getD x.newest })) ∧
    (∀ ln es more, m.body = .pullAns ln r es more false → (s.homeLine ln).busy = .pull → (s.homeLine ln).ops = [] → (s.homeLine ln).st.isSome = true →
      (s.homeLine ln).logPend = some r →
      let h := s.homeLine ln
      (es = [] → more = true → ∃ t, exec (.pullResponse uid) s = .next t ∧ NetOnly { s.consume uid with home := t.home } t ∧
        t.homeLine ln = h ∧ Mails s t (epSlice (s.homeOf ln)) (epSlice (s.logHome r)) 0 0 (.pull ln r)) ∧
      (es = [] → more = false → ∃ t, exec (.pullResponse uid) s = .next t ∧ t = { s.consume uid with home := t.home } ∧
        t.homeLine ln = { h with st := some .L, busy := .no }) ∧
      ∀ e, es = [e] → more = false → ∃ t, exec (.pullResponse uid) s = .next t ∧ t = { s.consume uid with home := t.home } ∧
        t.homeLine ln = { h with
          st := some .L, busy := .no, seq := h.seq + 1, asid := some d.asid
          data := elemUpdate 32 h.data (s.recOff r e.elem) (fun old => logApply d.fmt e.op old e.val.toNat) }) ∧
    (∀ ln, m.body = .unpull ln r → ∃ t, exec (.unpull uid) s = .next t ∧ replies t (.unpullAck ln r) ∧
      only t { x with applied := x.applied.filter (· != ln) }) ∧
    (∀ core tile, m.body = .open_ r core tile → d.st ≠ .free → d.failed = false → (s.core core).dark = false → x.placing = false → (x.st = .idle ∨ x.st = .log) → x.fwdOut = [] → x.fwdQ = [] →
      x.marks = 0 → x.clears = 0 → (x.st = .idle → (s.recsOf (m.dest - 12288)).length < 512) → x.openNext = x.openServe →
      ∃ t, exec (.logOpen uid) s = .next t ∧ replies t (.openAns r core tile) ∧ only t { x with st := .res core tile }) ∧
    (∀ n tile, m.body = .close r n 0 1 [] → x.st = .res n tile → x.ending = false → x.closing = [] → x.spill = 0 → x.hold = [] →
      s.transit.any (·.body.fwdOf r) = false →
      s.inbox.any (·.body.fwdOf r) = false → s.held.any (·.msg.body.fwdOf r) = false → x.fwdQ = [] → x.entries = [] →
      ∃ t, exec (.logClose uid) s = .next t ∧ (t.logRec r).st = .idle ∧ (t.logRec r).clears = x.clears + (s.recLines r).length ∧
        (∃ b ∈ t.transit, b.dest = m.src ∧ b.body = .ok x.lseq) ∧ t.cores = s.cores ∧ t.hbm = s.hbm ∧ t.home = s.home) ∧
    (∀ ln q rest, m.body = .fwdAck r ln → x.fwdOut = (ln, q) :: rest → x.fwdQ = [] → x.firstAck = [] → x.syncs = [] → x.ending = false →
      (x.st = .log → x.entries ≠ []) → ∃ t, exec (.forwardedEntryAck uid) s = .next t ∧
      only t { x with fwdOut := rest } ∧ t.transit = s.transit) ∧
    (∀ ln, m.body = .logMarkAck r ln → 1 < x.marks → (∀ a ∈ x.firstAck, ∃ w k es, a.1.body = .logUpd w k es) → ∃ t, exec (.logmarkAck uid) s = .next t ∧
      only t { x with marks := x.marks - 1 } ∧ t.transit = s.transit) ∧
    (∀ ln who k es b seq, m.body = .logMarkAck r ln → x.marks = 1 → x.firstAck = [(b, seq)] → b.body = .logUpd who k es →
      x.st = .log → x.entries ≠ [] → x.fwdOut = [] → x.fwdQ = [] → ∃ t, exec (.logmarkAck uid) s = .next t ∧ only t { x with marks := 0, firstAck := [] } ∧
        Mails s t b.dest b.src 2 0 (.logAns who 0 seq)) ∧
    (∀ ln, m.body = .logClearAck r ln → ∃ t, exec (.logmarkAck uid) s = .next t ∧ only t { x with clears := x.clears - 1 } ∧
      t.transit = s.transit) ∧
    (∀ core n e, m.body = .fwd r core n e →
      let y := s.tile core n
      y.logged.map recOf = some r → (∀ a b k, y.job ≠ .opening a b k) → y.next = y.serve →
      (y.state = 2 → ∃ t, exec (.forwardedEntry uid) s = .next t ∧ replies t (.fwdAck r (s.recLine r e.elem)) ∧
        (t.core core).ls = ((s.core core).applyEntry y d.tc d.fmt e).ls ∧ t.tile core n = { y with logDirty := true } ∧
        ∀ k, k ≠ core → t.core k = s.core k) ∧
      (y.state = 1 → y.log.length < 23 → ∃ t, exec (.forwardedEntry uid) s = .next t ∧
        replies t (.fwdAck r (s.recLine r e.elem)) ∧ (t.tile core n).log = y.log ++ [e] ∧ (t.core core).ls = (s.core core).ls)) ∧
    (∀ q k n, m.body = .mem q → q.op = .unlock k n → s.homeOf q.line < 768 → m.dest = epSlice (s.homeOf q.line) →
      let h := s.homeLine q.line
      h.busy = .locked k → h.ops = [] → h.st.isSome = true →
      ∃ t, exec (.homeWrite uid) s = .next t ∧ NetOnly { s.consume uid with home := t.home } t ∧
        t.homeLine q.line = { h with
          data := if n = 0 then h.data else q.data, seq := h.seq + BitVec.ofNat 32 n, st := if n = 0 then h.st else written h.st, busy := .no
          asid := if n = 0 then h.asid else some (s.tensor (recTensor k)).asid } ∧
        (∀ j, j ≠ q.line → t.homeLine j = s.homeLine j) ∧
        replies t (.ans (.storer k) 0 (h.seq + BitVec.ofNat 32 n) false none q)) ∧
    (r < 2 ^ 32 → x.st = .force →
      let mine := fun (b : Msg) => match b.body with | .ans (.storer k) _ _ _ _ _ => k == r | _ => false
      let taken := (s.lockAnswers r).filter fun a => a.2.1.isSome || a.2.2
      (x.wrote = true → x.closing = [] → x.writes ≤ (s.inbox.filter mine).length → ∃ t, exec (.storerDone r) s = .next t ∧ (t.logRec r).st = .idle ∧ (t.logRec r).entries = [] ∧
        (t.logRec r).clears = x.clears + (s.recLines r).length ∧ t.transit.length = s.transit.length + (s.recLines r).length ∧
        t.home = s.home ∧ t.cores = s.cores) ∧
      (x.wrote = false → x.spill = 0 → (s.lockAnswers r).length = (s.recLines r).length →
        ∃ t, exec (.storerApplyWrite r) s = .next t ∧
          t.logRec r = { x with entries := [], wrote := true, writes := taken.length } ∧ (∀ k, k ≠ r → t.logRec k = s.logRec k) ∧
          t.home = s.home ∧ t.cores = s.cores ∧ t.transit.length = s.transit.length + taken.length ∧
          ∀ ln v bad, (ln, some v, bad) ∈ s.lockAnswers r → ∃ b ∈ t.transit, b.dest = epSlice (s.homeOf ln) ∧
            b.body = .mem { MemReq.plain (.unlock r (s.applyLine r ln v x.entries).2) ln (.storer r) none with
              data := (s.applyLine r ln v x.entries).1, mask := BitVec.allOnes 128 }))

/-! ## Copies and engines -/

/-- R88, R89, R90, R91, R92, R99, R100, R231, R232: a CPY of no elements is DONE at once; any other makes its id ACTIVE, counts in CPC and
sends its first element: a read of its source line, or the element's bytes at their place in the destination row, to the home, to the
core, or to every member of the box; or, for CPY.REDC, every element of its first destination line as one contribution. CPYQ reads a word of the record, and frees a record that is DONE or FAULTED. -/
def Obligations.CopiesComplete : Prop :=
  (∀ (x : Cp) (s : State) (off : Nat), Begins .no false x.p s → Unstepped s →
    ∀ m ∈ [(0, Instr.cpyG2l x), (1, .cpyL2g x), (2, .cpyL2r x), (5, .cpyMcast x), (6, .cpyRedc x)],
    let kind := m.1
    let c := s.cur.1
    let k := s.myCore
    let src := s.me.src 0 x.src
    let dst := s.me.src 0 x.dst
    let h := (k.shapeAt off).1
    let g := k.group x.grp
    let w0 := fun st => BitVec.ofNat 64 (st + 8 * kind + 64 * s.cur.2 + 256 * if kind = 5 then g.gen.toNat else 0)
    let asid : BitVec 16 := s.me.asid.setWidth 16
    let who := Who.copy c x.id
    let data := fun (a : Nat) => BitVec.ofNat 1024 (k.ls.num ((h.src src 0).toNat % 2 ^ 19) h.esz) <<< (8 * (a % 128))
    (k.copyId x.id).copy = none → s.me.cpc < 64 → (kind = 5 → k.grpWaits x.grp = false ∧ bits g.desc 48 3 = 1) →
    k.shapePlace s.me.stkb (s.me.src 0 x.shp) s.me.prv = .ok off → (k.shapeAt off).2 = false → k.changing off 256 = false →
    s.copyStalls kind h src dst = false → s.copyChecks kind (if kind = 5 then g.desc else 0) h src dst = none →
    (h.count = 0 → ∃ t, exec m.2 s = .next t ∧ CompletesIn s t s.me
      (k.setCopyId x.id { w0 := w0 2, w1 := 0, w2 := s.timecode, w3 := s.timecode, reported := false, copy := none })) ∧
    (h.count ≠ 0 →
      let begun := fun (t : State) => t.me = s.past c s.cur.2 { s.me with cpc := s.me.cpc + 1 } ∧ t.myCore.ls = k.ls ∧ t.hbm = s.hbm ∧
        ∃ e cp, t.myCore.copyId x.id = e ∧ e.w0 = w0 1 ∧ e.w1 = 0 ∧ e.w2 = s.timecode ∧ e.w3 = 0 ∧ e.copy = some cp ∧ cp.kind = kind ∧
          cp.strand = s.cur.2 ∧ cp.src = src ∧ cp.dst = dst ∧ cp.shape = h ∧ cp.elem = 0
      (∀ va pa pg, kind ≤ 1 →
        (decodeAddr s.me.stkb (if kind = 0 then h.src src 0 else h.dst dst 0) = some (.glob va) ∨
          decodeAddr s.me.stkb (if kind = 0 then h.src src 0 else h.dst dst 0) = some (.stack va)) →
        s.ptsh ≠ 0 → k.tlbFind asid va = some pg → pg.permits (if kind = 0 then .load s.me.prv else .store s.me.prv) = true →
        pa = pageAddr pg va →
        ∃ t, exec m.2 s = .next t ∧ begun t ∧
          Mails s t c (if pg.loc then epHost else epSlice (s.routeOf c (pa / 128) (pg.cp == 0))) 0 0
            (.mem { op := if kind = 0 then .read else .write, line := pa / 128, off := pa % 128
                    mask := if kind = 0 then 0 else byteMask (pa % 128) h.esz, data := if kind = 0 then 0 else data pa, who
                    asid := some asid, px := none })) ∧
      (∀ d a, kind = 2 → decodeAddr s.me.stkb (h.dst dst 0) = some (.win d a) → ∃ t, exec m.2 s = .next t ∧ begun t ∧
        Mails s t c d 0 0 (.copyWr who d (a / 128 * 128) (byteMask ((h.dst dst 0).toNat % 128) h.esz) (data (h.dst dst 0).toNat))) ∧
      (∀ a, kind = 5 → decodeAddr s.me.stkb (h.dst dst 0) = some (.loc a) → ∃ t, exec m.2 s = .next t ∧ begun t ∧
        (t.myCore.group x.grp).drain = g.drain + (boxMembers g.desc).length ∧
        t.transit.length = s.transit.length + (boxMembers g.desc).length ∧
        ∀ d ∈ boxMembers g.desc, ∃ b ∈ t.transit, b.src = c ∧ b.dest = d ∧ b.cls = 0 ∧ b.body = .copyWr who d (a / 128 * 128)
          (byteMask ((h.dst dst 0).toNat % 128) h.esz) (data (h.dst dst 0).toNat)) ∧
      ∀ d a, kind = 6 → decodeAddr s.me.stkb (BitVec.ofNat 64 ((h.dst dst 0).toNat / 128 * 128)) = some (.win d a) →
        let at_ := fun n => (h.dst dst n).toNat
        let line := (List.range h.count).filter fun n => at_ n / 128 == at_ 0 / 128
        let bytes := fun n => byteMask (at_ n % 128) h.esz
        let value := fun n => BitVec.ofNat 1024 (k.ls.num ((h.src src n).toNat % 2 ^ 19) h.esz) <<< (8 * (at_ n % 128))
        ∃ t, exec m.2 s = .next t ∧ begun t ∧ Mails s t c d 0 0 (.redc who d x.grp x.midx.toNat a
          (line.foldl (fun e n => e ||| bytes n) 0) (line.foldl (fun v n => merge v (value n) (bytes n)) 0)))) ∧
  ∀ (s : State) (d : Opd) (clr : Bool) (word : Fin 4) (id : Fin 64) (p : Pred), Begins .no false p s → Unstepped s →
    let e := s.myCore.copyId id
    let u := s.me.write d (if word = 0 then e.w0 else if word = 1 then e.w1 else if word = 2 then e.w2 else e.w3)
    (clr = true → 2 ≤ bits e.w0 0 2 →
      ∃ t, exec (.cpyq d clr word id p) s = .next t ∧ CompletesIn s t u (s.myCore.setCopyId id .reset)) ∧
    (clr = false ∨ bits e.w0 0 2 < 2 → ∃ t, exec (.cpyq d clr word id p) s = .next t ∧ Completes s t u)

/-- R88, R89, R94, R96, R98, R99, R100, R102, R120, R306, R307: a copy's data are written where its mask says and acknowledged, its last
acknowledgement makes it DONE, and a contribution is combined in member order, sent back with its ticket, or refused where its MIDX is
not its sender's; a fill's reader sends each line on with the fill's sequence, a line of another sequence is not written, the last line
makes the tile READY, and a drain's last makes it EMPTY; the loader begins a push into an EMPTY ring entry; the storer of a ring entry's
line writes it at its home; a GRPSET that waits too long traps; a sequencer gives its ticket to the first in line. That a push sets its
entry's HOME to the address that it reads is the model's reading (assumption log 27: R102 and R120 do not say it). -/
def Obligations.EnginesComplete : Prop :=
  (∀ (s : State) (uid : Nat) (m : Msg), s.msg? uid = some m →
    (∀ who c off mask data, m.body = .copyWr who c off mask data → (s.core c).ls.wf = true → s.imaging c = false →
      (s.copyRefusal c off mask (s.copyPrv who) = 0 → ∃ t, exec (.copyDestWrite uid) s = .next t ∧
        Mails s t m.dest m.src 2 0 (.copyAck who none 0 0) ∧
        NetOnly (({ s.consume uid with cores := t.cores })) t ∧ (∀ k, k ≠ c → t.core k = s.core k) ∧
        (∀ j, j < 128 → (t.core c).ls.read (off + j) =
          if mask.getLsbD j then data.extractLsb' (8 * j) 8 else (s.core c).ls.read (off + j)) ∧
        ∀ a, a < off ∨ off + 128 ≤ a → (t.core c).ls.read a = (s.core c).ls.read a) ∧
      (∀ k, s.copyRefusal c off mask (s.copyPrv who) = k → k ≠ 0 → ∃ t, exec (.copyDestWrite uid) s = .next t ∧
        NetOnly (s.consume uid) t ∧ Mails s t m.dest m.src 2 0 (.copyAck who none k 0))) ∧
    (∀ c id cp, m.body = .copyAck (.copy c id) none 0 0 → ((s.core c).copyId id).copy = some cp → cp.kind = 2 → cp.out = 1 →
      cp.stopped = false → cp.killed = false → cp.failed = none → cp.elem + 1 = cp.shape.count → cp.strand < 4 →
      (∀ i, i < 4 → ∀ n d, (s.strand c i).wait ≠ .grpset n d) →
      ∃ t, exec (.copyWriteAck uid) s = .next t ∧ t = { s.consume uid with cores := t.cores } ∧
        bits ((t.core c).copyId id).w0 0 2 = 2 ∧ ((t.core c).copyId id).w3 = s.timecode ∧ ((t.core c).copyId id).copy = none ∧
        t.strand c cp.strand = { s.strand c cp.strand with cpc := (s.strand c cp.strand).cpc - 1 } ∧
        ∀ k, k ≠ id → (t.core c).copyId k = (s.core c).copyId k) ∧
    (∀ who c n midx off mask data, m.body = .redc who c n midx off mask data → m.cancel = false → m.ticket = 0 → s.imaging c = false →
      let g := (s.core c).group n
      let at_ := SMap.getD g.lines (off / 128) 0
      (bits g.desc 48 3 ≠ 2 ∨ memberIx g.desc m.src ≠ some midx → ∃ t, exec (.redcContribution uid) s = .next t ∧
        NetOnly (s.consume uid) t ∧ Mails s t c m.src 2 0 (.copyAck who none 8 0)) ∧
      (bits g.desc 48 3 = 2 → memberIx g.desc m.src = some midx →
      s.copyRefusal c (off / 128 * 128) mask (s.copyPrv who) = 0 → (s.core c).ls.wf = true →
      (midx ≠ at_ → ∃ t, exec (.redcContribution uid) s = .next t ∧ NetOnly (s.consume uid) t ∧
        Mails s t m.dest m.src 2 (midx + 1) (.retry m.body)) ∧
      (midx = at_ → at_ + 1 < (boxMembers g.desc).length → ∃ t, exec (.redcContribution uid) s = .next t ∧
        Mails s t c m.src 2 0 (.copyAck who (some g.gen) 0 0) ∧ SMap.getD ((t.core c).group n).lines (off / 128) 0 = at_ + 1 ∧
        ∀ e, e < 32 → (t.core c).ls.num (off / 128 * 128 + 4 * e) 4 =
          let old := (s.core c).ls.num (off / 128 * 128 + 4 * e) 4
          if mask.getLsbD (4 * e) then amoNew { op := (groupOp g.desc).1, ty := (groupOp g.desc).2
                                                v := BitVec.ofNat 64 (lineNum data (4 * e) 4), c := 0 } old % 2 ^ 32 else old))) ∧
    (∀ c n k rest sid o prv sq kind seq px d req p,
      m.body = .ans (.tile c n sq k) kind seq px (some d) req → req.op = .read → kind ≠ 4 →
      (s.tile c n).job = .fill (k :: rest) 1 sid o prv → (s.tile c n).lines[k]? = some p → p.scale = false →
      ∃ t, exec (.fillDataMessage uid) s = .next t ∧ NetOnly (s.consume uid) t ∧
        Mails s t m.dest c 0 0 (.fillData c n k p.mask d) ∧
        ∀ b ∈ t.transit, b ∉ s.transit → bits b.hdr 52 12 = sq % 4096 ∧ b.sb = (s.tile c n).sbWords (s.tile c n).sbuf k) ∧
    (∀ c n k mask data, m.body = .fillData c n k mask data → m.dest < 12288 →
      (∀ o prv p, bits m.hdr 52 12 = (s.tile c n).fseq → (s.tile c n).job = .fill [k] 1 none o prv →
        (s.tile c n).lines[k]? = some p → (s.tile c n).loc = false → (s.tile c n).residue = false → (s.tile c n).logged = none →
        o < 4 → ∃ t, exec (.fillDataMessage uid) s = .next t ∧ (t.tile c n).state = 2 ∧ (t.tile c n).w4 = s.timecode ∧
          (t.tile c n).job = .none ∧ 
          (t.core c).ls = p.parts.foldl (fun ls q => ls.writeNum q.place q.n (lineNum data (q.home % 128) q.n)) (s.core c).ls ∧
          Mails s t c m.src 2 0 (.fillAck c n (s.tile c n).fseq k false) ∧
          (t.strand c o).tlc = (s.strand c o).tlc - 1 ∧ ∀ j, j ≠ n → t.tile c j = s.tile c j) ∧
      ∀ j rest sid o prv, bits m.hdr 52 12 ≠ (s.tile c n).fseq → (s.tile c n).job = .fill (j :: rest) 1 sid o prv →
        ∃ t, exec (.fillDataMessage uid) s = .next t ∧ (t.core c).ls = (s.core c).ls ∧ (t.core c).slots = (s.core c).slots ∧
          (t.tile c n).mismatch = some o ∧ (t.tile c n).job = .ending 1 0 (tlcOf sid o) false) ∧
    (∀ c n k rest o prv p va pg mask data, m.body = .fillData c n k mask data → 12288 ≤ m.dest →
      (s.tile c n).job = .drain (k :: rest) 1 true o prv → (s.tile c n).lines[k]? = some p → tileVa p.home = some va → s.ptsh ≠ 0 →
      (s.core c).tlbFind (s.tile c n).asid va = some pg → pg.permits (.store prv) = true →
      ∃ t, exec (.fillDataMessage uid) s = .next t ∧ NetOnly (s.consume uid) t ∧ ∃ b ∈ t.transit, b.src = m.dest ∧
        b.dest = (if pg.loc then epHost else epSlice (s.homeOf (pageAddr pg va / 128))) ∧ b.sb = m.sb ∧
        b.body = .mem { op := .write, line := pageAddr pg va / 128, off := 0, mask, data, who := .tile c n (s.tile c n).fseq k
                        asid := some (s.tile c n).asid, px := none }) ∧
    ∀ r c n k rest sid o prv q va pg, m.body = .openAns r c n → m.poison = false →
      let e := s.tile c n
      let ln := pageAddr pg va / 128
      e.job = .opening sid o prv → e.fillOrder = k :: rest → e.lines[k]? = some q → tileVa q.home = some va →
      s.ptsh ≠ 0 → (s.core c).tlbFind e.asid va = some pg → pg.permits (.load prv) = true →
      ∃ t, exec (.openGrant uid) s = .next t ∧ t.tile c n = { e with job := .fill (k :: rest) 1 sid o prv, sbuf := 0 } ∧
        Mails s t (readerOf c sid)
          (if pg.loc then epHost else epSlice (if sid.isSome then s.homeOf ln else s.routeOf c ln (pg.cp == 0))) 0 0
          (.mem { op := .read, line := ln, off := pageAddr pg va % 128, mask := 0, data := 0, who := .tile c n e.fseq k
                  asid := some e.asid, px := none })) ∧
  (∀ (s : State) (c n o : Nat) (ring prv : Bool), c < 12288 → n < 64 → o < 4 → (s.tile c n).job = .drain [] 0 ring o prv →
    (s.tile c n).logged = none → ∃ t, exec (.drainComplete c n) s = .next t ∧ t = { s with cores := t.cores } ∧
      (t.tile c n).state = 0 ∧ (t.tile c n).job = .none ∧ (t.tile c n).w0 = (s.tile c n).w0 ∧ (t.tile c n).w1 = (s.tile c n).w1 ∧
      (t.tile c n).w2 = (s.tile c n).w2 ∧ (t.core c).ls = (s.core c).ls ∧
      (t.strand c o).tlc = (s.strand c o).tlc - 1 ∧ ∀ j, j ≠ n → t.tile c j = s.tile c j) ∧
  (∀ (s : State) (c sid j : Nat) (rest : List Nat) (k : Stream) (q : TileLine) (va : Nat) (pg : Page), c < 12288 → sid < 4 →
    SMap.get? (s.core c).streams sid = some k → (s.core c).preempt = none → s.imaging c = false → k.pushing = false → k.ending = false →
    k.next < k.shape.count →
    let n := k.tf + k.next % k.rn
    let e := { s.tile c n with w0 := k.shape.src k.base k.next &&& 0xFFFFFFFFFFFFFF }
    (s.tile c n).state = 0 → s.pushCause c e k (k.shape.src k.base k.next) = none → s.loggedTile k.asid e = .ok none →
    e.fillOrder = j :: rest → e.lines[j]? = some q → tileVa q.home = some va → s.ptsh ≠ 0 →
    (s.core c).tlbFind k.asid va = some pg → pg.permits (.load k.priv) = true →
    ∃ t, exec (.loaderPushStart c sid) s = .next t ∧ (t.tile c n).state = 1 ∧ (t.tile c n).w0 = e.w0 ∧
      (t.tile c n).fseq = (e.fseq + 1) % 4096 ∧ (t.tile c n).job = .fill (j :: rest) 1 (some sid) k.origin k.priv ∧
      SMap.get? (t.core c).streams sid = some { k with pushing := true, next := k.next + 1 } ∧
      (t.core c).ls = (s.core c).ls ∧ t.transit.length = s.transit.length + 1 ∧ ∀ i, i ≠ n → t.tile c i = s.tile c i) ∧
  (∀ (s : State) (c i n : Nat) (d : W64), c < 12288 → i < 4 → (s.strand c i).wait = .grpset n d →
    (((s.core c).group n).draining = true → (s.core c).res = true →
      ∃ t, exec (.grpsetTimeout c i) s = .next t ∧ OnlyStrand c i s t ∧
        t.strand c i = ({ s.strand c i with wait := .no }).enter { num := 18, bad := 0 } (s.strand c i).pc) ∧
    (((s.core c).group n).draining = false → (∀ j, j < 4 → j ≠ i → ∀ k e, (s.strand c j).wait ≠ .grpset k e) →
      ((s.strand c i).sstep && (s.strand c i).ie) = false →
      ∃ t, exec (.grpsetTimeout c i) s = .next t ∧ t = { s with cores := t.cores } ∧
        GoesOn c i s t (s.strand c i) ((s.core c).writeGroup n d))) ∧
  ∀ (s : State),
    (∀ k rest, s.devSeqr.holder = none → s.devSeqr.queue = k :: rest → ∃ t, exec (.scTicketGrant 0) s = .next t ∧
      NetOnly { s with devSeqr := { s.devSeqr with queue := rest, holder := some k } } t ∧
      Mails s t epDevSeqr k.core 0 0 (.scGrant k)) ∧
    (∀ c k rest, c < 12288 → (s.core c).scq = k :: rest → k.2 < 4 → (s.strand k.1 k.2).wait = .sc (2048 + c) false →
      ∃ t, exec (.scTicketGrant (2048 + c)) s = .next t ∧ OnlyStrand k.1 k.2 s t ∧
        t.strand k.1 k.2 = { s.strand k.1 k.2 with wait := .sc (2048 + c) true }) ∧
    ∀ cl, cl < 1536 →
      let q := SMap.getD s.cluSeqrs cl .reset
      (∀ k rest, q.intake = k :: rest → ∃ t, exec (.clusterSequencerIntake cl) s = .next t ∧
        t = { s with cluSeqrs := SMap.set s.cluSeqrs cl { q with intake := rest, queue := q.queue ++ [k] } }) ∧
      ∀ k rest, (s.cluster cl).dark = false → q.holder = none → q.queue = k :: rest → k.2 < 4 →
        ∃ t, exec (.scTicketGrant (1 + cl)) s = .next t ∧
          t = { s with cores := t.cores, cluSeqrs := SMap.set s.cluSeqrs cl { q with queue := rest, holder := some k } } ∧
          t.strand k.1 k.2 = { s.strand k.1 k.2 with wait := .sc (1 + cl) true }

/-! ## The matrix unit -/

/-- R286, R288, R291, R292, R294, R295, R296, R297, R299: an operation of the matrix unit on accumulators that its strand owns goes into
the queue and retires; ACLAIM and ARELS give an accumulator its owner and free it; UPROG replaces the microprogram; an operation on an
accumulator that the strand does not own raises ACC_STATE. -/
def Obligations.MatrixIssueCompletes : Prop :=
  ∀ (s : State) (p : Pred), Unstepped s →
    let x := s.myCore
    let i := s.cur.2
    let mine := fun a => (x.accOf a).owner = some i
    let queued := fun (t : State) (k : MxKind) => t = { s with cores := t.cores, uid := s.uid + 1 } ∧
      GoesOn s.cur.1 i s t s.me { x with mxq := x.mxq ++ [{ id := s.uid, strand := i, kind := k, phase := .queued, bytes := [] }] }
    let ready := fun (o : Nat) (ty : ETy) => ∃ n, (x.slot o).bound = some n ∧ (x.tile n).state = 2 ∧ (x.tile n).ety = ty
    let range := fun (a : W64) (n off : Nat) => decodeAddr s.me.stkb a = some (.loc off) ∧ off + n ≤ 524288 ∧
      x.changing off n = false ∧ x.notScr off n = none ∧ x.reserved off n s.me.prv = false ∧ x.tileBusy off n = false
    ((x.mxq.filter (·.phase == .queued)).length < 8 →
      (∀ y : Mm,
        let ty := s.me.desc.srcTy (if y.f16 then .fp16 else .bf16)
        let g := fun ty => if y.kn.val = 0 then mmK ty / 16 else y.kn.val
        y.p = p → mine (accNo y.d) →
        (Begins ⟨true, [.rn8, .rn4], [], false, false, false⟩ false p s → ready y.sa ty → ready y.sb ty → 16 * g ty ≤ mmK ty →
          ∃ t, exec (.mma y) s = .next t ∧ queued t (.mma (accNo y.d) y.sa y.sb (g ty) ty)) ∧
        let tu := if s.me.uprog.i32 then ETy.rn8 else .bf16
        (Begins .no false p s → ready y.sa tu → ready y.sb tu → 16 * g tu ≤ mmK tu →
          ∃ t, exec (.mmu y) s = .next t ∧ queued t (.mmu (accNo y.d) y.sa y.sb (g tu) s.me.uprog))) ∧
      (Begins .no false p s → ∀ d, mine (accNo d) →
        (∀ fill, ∃ t, exec (.mmz d fill p) s = .next t ∧ queued t (.mmz (accNo d) fill)) ∧
        (∀ a, mine (accNo a) → ∃ t, exec (.amov d a p) s = .next t ∧ queued t (.amov (accNo d) (accNo a))) ∧
        (∀ v r, ∃ t, exec (.amovV v d r p) s = .next t ∧ queued t (.amovV (vNo v) (accNo d) r)) ∧
        (∀ v r, ∃ t, exec (.amovA d v r p) s = .next t ∧ queued t (.amovA (accNo d) r (s.me.readV (vNo v)))) ∧
        ∀ (y : Ad) off, y.p = p → (s.me.src 0 y.a + y.off.signExtend 64).toNat % 64 = 0 →
          range (s.me.src 0 y.a + y.off.signExtend 64) 1024 off →
          ∃ t, exec (.ald d y) s = .next t ∧ queued t (.ald (accNo d) off)) ∧
      ∀ (clr : Bool) (a b c : Opd) (ssa ssb : Fin 16) (off : W32) (o : Nat),
        let ty := adrnTy s.me.desc
        let n := etyWidth ty / 8
        let a' := s.me.src 0 b + off.signExtend 64
        let pitch := (s.me.src 0 c).toNat
        Begins (adrnPx s.me.desc) false p s → mine (accNo a) → a'.toNat % n = 0 → pitch % n = 0 → 16 * n ≤ pitch → pitch < 524288 →
        range a' (15 * pitch + 16 * n) o →
        ∃ t, exec (.adrn clr a b c ssa ssb off p) s = .next t ∧
          queued t (.adrn (accNo a) clr o pitch s.me.desc.sen ty s.me.desc.scl s.me.desc.sat ssa ssb)) ∧
    (Begins .no false p s →
      (∀ d,
        let a := accNo d
        let k := { x with accWait := x.accWait.filter (· != (a, i)) }
        (mine a → ∃ t, exec (.aclaim d p) s = .next t ∧ CompletesIn s t s.me k) ∧
        ((x.accOf a).owner = none → (∀ j, (a, j) ∈ x.accWait → j = i) →
          ∃ t, exec (.aclaim d p) s = .next t ∧
            CompletesIn s t s.me (k.setAcc a { words := (x.accOf a).words, owner := some i })) ∧
        (∀ o, (x.accOf a).owner = some o → o ≠ i → ∃ t, exec (.aclaim d p) s = .next t ∧ t.me = { s.me with midway := true } ∧
          t.myCore.accs = x.accs ∧ (a, i) ∈ t.myCore.accWait) ∧
        ((x.accOf a).owner = none → ∃ t, exec (.arels d p) s = .next t ∧ Completes s t s.me) ∧
        (mine a → x.accBusy a = false → ∃ t, exec (.arels d p) s = .next t ∧
          CompletesIn s t s.me (x.setAcc a { words := (x.accOf a).words, owner := none })) ∧
        (∀ o, (x.accOf a).owner = some o → o ≠ i → x.res = true → ∃ t, exec (.arels d p) s = .next t ∧ Traps s t 16 0 s.me.pc) ∧
        ∀ fill, ¬ mine a → x.res = true → ∃ t, exec (.mmz d fill p) s = .next t ∧ Traps s t 16 0 s.me.pc) ∧
      ∀ (i32 : Bool) (a b : Opd) (ns : Fin 4),
        let w := s.me.src 0 a
        let steps := (List.range (ns.val + 1)).map fun k => w.extractLsb' (16 * k) 16
        steps.any stepBad = false → w >>> (16 * (ns.val + 1)) = 0 → ∃ t, exec (.uprog i32 a b ns p) s = .next t ∧
          Completes s t { s.me with uprog := { i32, const := (s.me.src 0 b).setWidth 32, steps } })

/-- R152, R154, R156, R286, R287, R293 to R298, R300: what an operation at the head of the queue leaves where no word it reads is
uncorrectable: MMA and MMU their results in every element, MMZ the fill, AMOV copies, ALD words of the local store (where no ADRN is
under way), and ADRN the elements it is to write, which are at their places when it ends; MATRIX_OP_END takes a running operation past
its last pipe cycle, and then out of the queue. That all the words change at the operation's start, and the bytes of an ADRN at its end,
is the model's choice (DEDUCED, assumption log 12). -/
def Obligations.MatrixOperationsComplete : Prop :=
  ∀ (s : State) (c : Nat) (m : MxOp) (rest : List MxOp), c < 12288 → s.coreUp c = true → s.env = [] → (s.core c).mxq = m :: rest →
    (∀ e ∈ rest, e.id ≠ m.id) →
    let x := s.core c
    let ls := x.ls
    let old := fun a k => (x.accOf a).words[k]?.getD 0
    let new := fun (t : State) a k => ((t.core c).accOf a).words[k]?.getD 0
    let el := fun (o : Nat) => let e := match (x.slot o).bound with | some n => x.tile n | none => Tile.reset
      ({ data := (x.slot o).data, w := etyWidth e.ety, cols := e.cols } : Operand)
    let begins := fun (t : State) (d : Nat) (b : List (Nat × Nat)) => exec (.matrixOpStart c (if m.kind.inArray then 0 else 1)) s = .next t ∧
      t = { s with cores := t.cores } ∧ (∀ k, k ≠ c → t.core k = s.core k) ∧ (t.core c).mxq = { m with phase := .running, bytes := b } :: rest ∧
      (∀ a, a ≠ d → (t.core c).accOf a = x.accOf a) ∧ ((t.core c).accOf d).owner = (x.accOf d).owner
    let starts := fun (t : State) (d : Nat) => begins t d m.bytes
    let leaves := fun (t : State) => (t.core c).ls = ls ∧ ∀ j, t.strand c j = s.strand c j
    (m.phase = .running → ∃ t, exec (.matrixOpEnd c m.id) s = .next t ∧ t = { s with cores := t.cores } ∧
      (t.core c) = { x with mxq := { m with phase := .past } :: rest } ∧ ∀ k, k ≠ c → t.core k = s.core k) ∧
    (m.phase = .past → ∃ t, exec (.matrixOpEnd c m.id) s = .next t ∧ t = { s with cores := t.cores } ∧
      (t.core c) = { x with mxq := rest, ls := (t.core c).ls } ∧ (∀ k, k ≠ c → t.core k = s.core k) ∧
      (m.bytes = [] → (t.core c).ls = ls) ∧
      ∀ off pitch n f, m.bytes = drainBytes off pitch n f → 16 * n ≤ pitch → ls.wf = true →
        (∀ r k, r < 16 → k < 16 → (t.core c).ls.num (off + r * pitch + k * n) n = f r k % 2 ^ (8 * n)) ∧
        ∀ a, (∀ r, r < 16 → a < off + r * pitch ∨ off + r * pitch + 16 * n ≤ a) → (t.core c).ls.read a = ls.read a) ∧
    (m.phase = .queued →
      (∀ d sa sb g ty, m.kind = .mma d sa sb g ty → ∃ t, starts t d ∧ leaves t ∧
        ∀ r k, r < 16 → k < 16 → new t d (16 * r + k) =
          BitVec.ofNat 32 (mmaElem ty (el sa) (el sb) g r k (old d (16 * r + k)).toNat)) ∧
      (∀ d sa sb g u, m.kind = .mmu d sa sb g u → ∃ t, starts t d ∧ leaves t ∧
        ∀ r k, r < 16 → k < 16 → new t d (16 * r + k) =
          BitVec.ofNat 32 (mmuElem u (el sa) (el sb) g r k (old d (16 * r + k)).toNat)) ∧
      (∀ d fill, m.kind = .mmz d fill → ∃ t, starts t d ∧ leaves t ∧ ∀ k, k < 256 → new t d k = fill) ∧
      (∀ d a, m.kind = .amov d a → ∃ t, starts t d ∧ leaves t ∧ ∀ k, k < 256 → new t d k = old a k) ∧
      (∀ v a r, m.kind = .amovV v a r → m.strand < 4 → v < 32 → r < 8 → ∃ t, starts t 8 ∧ (t.core c).ls = ls ∧
        (∀ l, l < 32 → lane 32 ((t.strand c m.strand).readV v) l = (old a (32 * r + l)).toNat) ∧
        (∀ w, w ≠ v → (t.strand c m.strand).readV w = (s.strand c m.strand).readV w) ∧
        ∀ j, j ≠ m.strand → t.strand c j = s.strand c j) ∧
      (∀ d r data, m.kind = .amovA d r data → r < 8 → ∃ t, starts t d ∧ leaves t ∧ ∀ k, k < 256 → new t d k =
        if k / 32 = r then BitVec.ofNat 32 (lane 32 data (k % 32)) else old d k) ∧
      (∀ d off, m.kind = .ald d off → (∀ e ∈ x.mxq, e.bytes = []) → ∃ t, starts t d ∧ leaves t ∧
        ∀ k, k < 256 → new t d k = BitVec.ofNat 32 (ls.num (off + 4 * k) 4)) ∧
      ∀ d clr off pitch ra ty scl sat ssa ssb, m.kind = .adrn d clr off pitch ra ty scl sat ssa ssb →
        ∃ t, begins t d (drainBytes off pitch (etyWidth ty / 8) fun r k =>
            drainElem ra ty scl sat ((x.slot ssa).scales[r]?.getD 0).toNat ((x.slot ssb).scales[k]?.getD 0).toNat
              (old d (16 * r + k)).toNat) ∧
          leaves t ∧ ∀ k, k < 256 → new t d k = if clr then 0 else old d k)

/-! ## Barriers -/

/-- R324, R327, R328, R329, R330, R340, R341, R342, R343: ARV waits at its node, which counts it and completes, or stalls it while it is
full; WTB goes on once the episode joined has been released; a complete group is released at the times of its phase, with its skew
record and its biases once the first of those times has come, and at its time a node begins the next episode; BCFG and BCFG.GRP write a node and a group, and BTST reads them. -/
def Obligations.BarriersComplete : Prop :=
  (∀ (s : State) (scope : Scope) (other : Bool) (m : Fin 8) (ch : Fin 16) (p : Pred), Begins .no false p s →
    let n := s.arvNode other m
    let w := s.myCore.node ch
    let e := nodeEpi w
    let j := (s.me.join[ch.val]?.getD 0).toNat
    (s.live n = true → nodeM ((s.core n).node ch) = true → s.released s.cur.1 s.cur.2 scope = true →
      ∃ t, exec (.arv scope other m ch p) s = .next t ∧ Blocks s t (.arrival n ch)) ∧
    (s.live n = true → nodeM ((s.core n).node ch) = false → s.myCore.res = true →
      ∃ t, exec (.arv scope other m ch p) s = .next t ∧ Traps s t 17 0 s.me.pc) ∧
    (s.live n = false → s.myCore.res = true → ∃ t, exec (.arv scope other m ch p) s = .next t ∧ Traps s t 8 s.me.pc s.me.pc) ∧
    (nodeM w = false → s.myCore.res = true → ∃ t, exec (.wtb scope ch p) s = .next t ∧ Traps s t 17 0 s.me.pc) ∧
    (nodeM w = true → e = j → exec (.wtb scope ch p) s = .next s.stall) ∧
    (nodeM w = true → e ≠ j → Unstepped s →
      ∃ t, exec (.wtb scope ch p) s = .next t ∧ CompletesIn s t s.me (s.myCore.acquired (some scope))) ∧
    ∀ (sel : Fin 5) (d : Opd), Unstepped s → ∃ t, exec (.btst sel d ch p) s = .next t ∧
      Completes s t (s.me.write d (if sel = 0 then w
        else if nodeM w = true ∧ (s.barGroup ch (nodeGix w)).recorded = true then
          (s.barGroup ch (nodeGix w)).skew[sel.val - 1]?.getD 0
        else 0))) ∧
  (∀ (s : State) (c i node ch : Nat), c < 12288 → i < 4 → ch < 16 → (s.strand c i).wait = .arrival node ch →
    let w := (s.core node).node ch
    let q := SMap.getD (s.core node).stalled ch []
    let u := s.strand c i
    (nodeFull w = false → q = [] ∨ q.head? = some (c, i) → (u.sstep && u.ie) = false →
      ∃ t, exec (.barrierArrival c i) s = .next t ∧ t = { s with cores := t.cores, barGroups := t.barGroups } ∧
        (t.core node).node ch = putBits w 43 5 (nodeCnt w + 1) ∧
        t.strand c i = s.past c i { u with join := if node = c then u.join.setIfInBounds ch (BitVec.ofNat 16 (nodeEpi w)) else u.join } ∧
        (nodeM w = true → nodeNeed w ≤ nodeCnt w + 1 → nodeCnt w + 1 < 32 →
          SMap.get? (t.barGroup ch (nodeGix w)).done node = some s.timecode.toNat ∧
          ((s.barGroup ch (nodeGix w)).due = [] →
            (∀ k ∈ s.members ch (nodeGix w), k = node ∨ (SMap.get? (s.barGroup ch (nodeGix w)).done k).isSome = true) →
            (t.barGroup ch (nodeGix w)).due = s.members ch (nodeGix w))) ∧
        ∀ k, k ≠ c → k ≠ node → t.core k = s.core k) ∧
    (nodeFull w = true → ∃ t, exec (.barrierArrival c i) s = .next t ∧ t = { s with cores := t.cores } ∧
      (t.core node).node ch = w ∧ (c, i) ∈ SMap.getD (t.core node).stalled ch [] ∧ t.strand c i = u)) ∧
  (∀ (s : State) (a b : Opd) (ch : Fin 16) (p : Pred), Begins .no true p s → Unstepped s →
    let v := s.me.src 0 a
    let old := s.myCore.node ch
    let w := putBits (putBits v 43 5 0) 48 16 0
    let g := (s.barGroup ch (nodeGix v)).word
    let gix := (s.me.src 0 b).toNat
    let ms := s.members ch gix
    (bits v 15 28 = 0 → bits v 6 4 = 0 → nodeCnt old = 0 →
      (nodeM v = true → groupLvl g ≠ 0 ∧ boxHasCluster (groupBox g) (clusterOf s.cur.1) = true ∧
        (groupLvl g = 1 → ∀ k ∈ s.members ch (nodeGix v), k = s.cur.1)) →
      ∃ t, exec (.bcfg a ch p) s = .next t ∧ CompletesIn { s with barGroups := t.barGroups } t s.me
        (s.myCore.setNode ch (putBits w 48 16 (nodeEpi old))) ∧ ∀ h k, (t.barGroup h k).word = (s.barGroup h k).word) ∧
    (gix < 64 → bits v 22 5 = 0 → s.groupIll ch gix v = false →
      (groupLvl v ≠ 0 → ∀ k ∈ ms, boxHasCluster (groupBox v) (clusterOf k) = true) →
      (∀ k ∈ ms, nodeCnt ((s.core k).node ch) = 0) → (s.barGroup ch gix).rel = [] →
      ∃ t, exec (.bcfgGrp a b ch p) s = .next t ∧ t = { s with cores := t.cores, barGroups := t.barGroups } ∧
        t.me = s.past s.cur.1 s.cur.2 s.me ∧ t.barGroup ch gix = { s.barGroup ch gix with word := v, done := [], due := [] } ∧
        ∀ h k, (64 * h + k ≠ 64 * ch.val + gix) → t.barGroup h k = s.barGroup h k)) ∧
  (∀ (s : State) (ch gix n tl tf : Nat) (T : Nat → Nat), ch < 16 → gix < 64 →
    let g := s.barGroup ch gix
    let w := g.word
    let ms := g.due
    let comp := groupPh w && n % 2 == 1
    let at_ := fun c => tl + 60 + if comp then bits w 40 16 + bits w 56 8 * (coreX c - 2 * boxByte (groupBox w) 0) else 0
    let a := fun cl => (ms.filter fun c => clusterOf c == cl).foldl (fun m c => max m (T c)) 0
    ms ≠ [] → (∀ c ∈ ms, c < 12288 ∧ SMap.get? g.done c = some (T c) ∧ nodeEpi ((s.core c).node ch) = n ∧ tf ≤ T c ∧ T c ≤ tl) →
    (∃ c ∈ ms, T c = tl) → (∃ c ∈ ms, T c = tf) → groupLvl w ≠ 0 → g.rel = [] →
    ((∀ c ∈ ms, s.timecode.toNat < at_ c) → exec (.groupRelease ch gix) s = .next s) ∧
    ((∃ c ∈ ms, at_ c ≤ s.timecode.toNat) → ∃ t, exec (.groupRelease ch gix) s = .next t ∧ t = { s with barGroups := t.barGroups, clusters := t.clusters } ∧
      (∀ c ∈ ms, SMap.get? (t.barGroup ch gix).rel c = some (at_ c)) ∧ (t.barGroup ch gix).word = w ∧
      (t.barGroup ch gix).due = [] ∧ (∀ c ∈ ms, SMap.get? (t.barGroup ch gix).done c = none) ∧ (t.barGroup ch gix).recorded = true ∧
      (t.barGroup ch gix).skew[1]? = some (BitVec.ofNat 64 tf) ∧ (t.barGroup ch gix).skew[2]? = some (BitVec.ofNat 64 tl) ∧
      (comp = true → groupAdj w = true → ∀ cl, cl < 1536 → (∃ c ∈ ms, clusterOf c = cl) → ∃ b, (t.cluster cl).bias = b ∧
        (bits w 32 8 ≠ 0 → 64 * bits w 32 8 ≤ tl - a cl → b = -1) ∧
        ((bits w 32 8 = 0 ∨ tl - a cl < 64 * bits w 32 8) → a cl = tl → (∀ k, k < cl → (∃ c ∈ ms, clusterOf c = k) → a k ≠ tl) → b = 1) ∧
        ((bits w 32 8 = 0 ∨ tl - a cl < 64 * bits w 32 8) → a cl ≠ tl → b = 0)) ∧
      ∀ cl, (∀ c ∈ ms, clusterOf c ≠ cl) → (s.cluster cl).biasBy = some (64 * ch + gix) → (t.cluster cl).bias = 0)) ∧
  ∀ (s : State) (c ch time : Nat), c < 12288 → ch < 16 →
    let w := (s.core c).node ch
    let g := s.barGroup ch (nodeGix w)
    let comp := groupPh g.word && g.epi.getLsbD 0
    SMap.get? g.rel c = some time →
    (s.timecode.toNat < time → exec (.nodeRelease c ch) s = .next s) ∧
    (time ≤ s.timecode.toNat → (comp = true → g.held = false ∧ s.rampHolds g.word = false) →
      ∃ t, exec (.nodeRelease c ch) s = .next t ∧ t = { s with cores := t.cores, barGroups := t.barGroups } ∧
        nodeEpi ((t.core c).node ch) = (nodeEpi w + 1) % 65536 ∧ nodeCnt ((t.core c).node ch) = 0 ∧
        nodeM ((t.core c).node ch) = nodeM w ∧ nodeNeed ((t.core c).node ch) = nodeNeed w ∧ nodeGix ((t.core c).node ch) = nodeGix w ∧
        SMap.get? (t.barGroup ch (nodeGix w)).rel c = none ∧ (∀ h, h ≠ ch → (t.core c).node h = (s.core c).node h) ∧
        ∀ k, k ≠ c → t.core k = s.core k)

/-! ## Cocoons -/

/-- R331 to R337, R344 to R347, R358, R362: SPAWN and SUSPEND read and write their record as an access of the strand's; SPAWN hands its
cocoon to the task sequencer, which puts it into the pool of its priority or gives it a ticket; DONE counts its cocoon as ended, YIELD
holds a placed cocoon at its core and hands any other to a pool: SUSPEND, DONE and YIELD leave their strand idle, parked and without
accumulators. TAKE asks the task sequencer, which answers the head of the pool of highest priority that has one, what it splits off the
first candidate, or that there is none; the strand ends its own cocoon and has the new one, or writes 0. A strand takes up the cocoon it has been given, with its registers
as a pickup leaves them and its declarations and the check of its entry still to come; an ill-formed image is reported to the service core
and its strand is parked. A parked strand of a launch is given the oldest cocoon of its pools. That an ill-formed image is left with state
FAULTED, and how the sequencer reaches a pool, are the model's choices (assumption log 34, 9, 43). -/
def Obligations.CocoonsComplete : Prop :=
  (let leaves := fun (c i : Nat) (t : State) => (t.strand c i).run = RunState.idle ∧ (t.strand c i).cocoon = none ∧
    (c, i) ∈ t.parked ∧ ∀ a, ((t.core c).accOf a).owner ≠ some i
  let bare := fun (u : Strand) => ∀ k, u.cocoon = some k → Image.decls k.img = []
  let zero : Image := Vector.replicate 8 0
  (∀ (s : State) (p : Pred), Begins .no false p s →
    let c := s.cur.1
    let i := s.cur.2
    let goes := fun (ins : Instr) (last : AccEnd) (b : W64) (op : MemOp) (need : Need) (m : Image) => ∀ va pg, (∀ x, s.me.wait ≠ .record x) →
      decodeAddr s.me.stkb b = some (.glob va) → s.myCore.tlbFind (s.me.asid.setWidth 16) va = some pg → pg.permits need = true →
      let q := recordPiece (pageAddr pg va) pg b m
      s.myCore.lineHeld q = false → (op = .write → (s.myCore.l1Find q.place).isSome = false) → s.myCore.postedOverlap i q = false →
      ∃ t, exec ins s = .next t ∧ t.me = { s.me with wait := .access { last, amo := none, cur := some q, todo := [], acc := 0 } } ∧
        Mails s t c (if pg.loc then epHost else epSlice (s.homeOf q.place)) 0 0
          (.mem { op, line := q.place, off := q.off, mask := q.mask, data := q.data, who := .strand c i
                  asid := some (s.me.asid.setWidth 16), px := none })
    (∀ a : Opd,
      let b := s.me.src 0 a
      let sends := fun (m : Image) =>
        (s.spawnIll m = false → s.released c i .dev = true →
          ∃ t, exec (.spawn a p) s = .next t ∧ BlocksSending s t (.spawn m false) epSequencer 0 (.spawn c i m)) ∧
        (s.spawnIll m = true → s.myCore.res = true → ∃ t, exec (.spawn a p) s = .next t ∧ Traps s t 14 0 s.me.pc)
      (∀ m, s.me.wait = .record m → sends m) ∧
      (s.recordCause b = none →
        (∀ off, (∀ x, s.me.wait ≠ .record x) → decodeAddr s.me.stkb b = some (.loc off) → s.myCore.changing off 64 = false →
          sends (Vector.ofFn fun k => BitVec.ofNat 64 (s.myCore.ls.num (off + 8 * k.val) 8))) ∧
        goes (.spawn a p) (.spawn b) b .read (.load s.me.prv) zero)) ∧
    (∀ (a : Opd) (tgt : W48) (x : Image), s.me.wait = .record x → ∃ t, exec (.suspend a tgt p) s = .next t ∧ leaves c i t) ∧
    (s.leaveReady c i = true →
      (∀ (a : Opd) (tgt : W48),
        let b := s.me.src 0 a
        let m := s.me.record (pcTarget s.me.pc tgt) 2
        s.recordCause b = none →
        (∀ off, (∀ x, s.me.wait ≠ .record x) → decodeAddr s.me.stkb b = some (.loc off) → s.myCore.changing off 64 = false →
          ∃ t, exec (.suspend a tgt p) s = .next t ∧ leaves c i t ∧ (bare s.me → s.myCore.ls.wf = true → ∀ k, k < 8 →
            (t.core c).ls.num (off + 8 * k) 8 = (Image.field m k).toNat)) ∧
        goes (.suspend a tgt p) .suspend b .write (.store s.me.prv) m) ∧
      (∃ t, exec (.done p) s = .next t ∧ leaves c i t ∧ (bare s.me → ∀ k q l, s.me.cocoon = some k → k.queue = some q →
        (s.queue q).launch = some l → ((t.queue q).launch.map (·.ended)) = some (l.ended + 1))) ∧
      ∀ tgt : W48,
        let m := s.me.record (pcTarget s.me.pc tgt) 0
        (∀ k, s.me.cocoon = some k → Image.kind m = 1 → ∃ t, exec (.yield tgt p) s = .next t ∧ leaves c i t ∧
          (Image.decls k.img = [] → (t.core c).heldPlaced = s.myCore.heldPlaced ++ [{ k with img := m }])) ∧
        ((∀ k, s.me.cocoon = some k → Image.kind m ≠ 1) →
          ∃ t, exec (.yield tgt p) s = .next t ∧ BlocksSending s t (.spawn m true) epSequencer 0 (.spawn c i m))) ∧
    (s.leaveReady c i = false → exec (.done p) s = .next s.stall ∧ ∀ tgt, exec (.yield tgt p) s = .next s.stall) ∧
    ∀ d : Opd, (s.quiet c i = false → exec (.take d p) s = .next s.stall) ∧
      (s.quiet c i = true → ∃ t, exec (.take d p) s = .next t ∧ BlocksSending s t (.take d) epSequencer 0 (.take c i))) ∧
  (∀ (s : State) (c i q : Nat) (l : Launch) (m : Msg) (img : Image) (h : PoolHdr), c < 12288 → i < 4 →
    s.seqMsg (fun b => match b with | .spawn k j _ => k == c && j == i | _ => false) = some m → m.body = .spawn c i img → m.ticket = 0 →
    s.launchOf (s.strand c i) = some (q, l) →
    let key := 4 * q + Image.prio img
    let x := s.pool key
    let img' := Image.setSt (img.setIfInBounds 7 s.timecode) 0
    let n := (entryBytes h.prevw img').length
    let as := (h.lines h.tail n ++ hdrLines (l.pool (Image.prio img))).eraseDups
    x.read = true → x.hdr = some h →
    (65 ≤ h.free → ticketsOut x.next x.serve = 0 → (∃ ls, s.seqReach (s.ctxAsid l.ctx) (.store true) as = .ok (some ls)) →
      ∃ t u, exec (.spawnAccept c i) s = .next t ∧
        s.poolPush key (s.ctxAsid l.ctx) (l.pool (Image.prio img)) h img' = .ok u ∧ NetOnly { (u.consume m.uid) with pools := t.pools } t ∧
        t.pool key = { x with hdr := some { h with tail := (h.tail + n) % h.size, count := h.count + 1, prevw := img' } } ∧
        Mails u t m.dest m.src 2 0 (.spawnAck c i)) ∧
    (h.free < 65 → ticketsOut x.next x.serve < 32768 → ∃ t, exec (.spawnAccept c i) s = .next t ∧
      NetOnly { s.consume m.uid with pools := t.pools } t ∧ t.pool key = { x with next := nextTicket x.next } ∧
      Mails s t m.dest m.src 2 x.next (.retry m.body))) ∧
  (∀ (s : State) (c i : Nat) (m : Msg), c < 12288 → i < 4 →
    s.seqMsg (fun b => match b with | .take k j => k == c && j == i | _ => false) = some m →
    let answers := fun (t u : State) (k : Option Cocoon) => NetOnly (u.consume m.uid) t ∧ Mails u t m.dest m.src 1 0 (.takeAns c i k)
    (s.launchOf (s.strand c i) = none → ∃ t, exec (.splitApply c i) s = .next t ∧ answers t s none) ∧
    ∀ q l, s.launchOf (s.strand c i) = some (q, l) →
      s.seqMsg (fun b => match b with | .spawn k j _ => ((s.launchOf (s.strand k j)).map (·.1)) == some q | _ => false) = none →
      (∀ img u, s.takePool q l = .ok (some (img, u)) → ∃ t, exec (.splitApply c i) s = .next t ∧
        answers t u (some { img, queue := some q, ctx := some l.ctx })) ∧
      (s.takePool q l = .ok none → s.victim q c i = none → ∃ t, exec (.splitApply c i) s = .next t ∧ answers t s none) ∧
      (∀ v k u, s.takePool q l = .ok none → s.victim q c i = some v → s.split v = some (k, u) →
        ∃ t, exec (.splitApply c i) s = .next t ∧ answers t u (some k) ∧ Image.field k.img 3 = (s.strand v.1 v.2).rnghi ∧
          (t.strand v.1 v.2).rnghi = Image.field k.img 2 ∧ (t.strand v.1 v.2).rnglo = (s.strand v.1 v.2).rnglo) ∧
      ∀ k h, s.poolsKnown q = true → k < 4 → (s.pool (4 * q + k)).hdr = some h → h.count ≠ 0 →
        (∀ j g, k < j → j < 4 → (s.pool (4 * q + j)).hdr = some g → g.count = 0) →
        s.takePool q l = (s.poolPop (4 * q + k) (s.ctxAsid l.ctx) (l.pool k) h).map some) ∧
  (∀ (s : State) (uid c i : Nat) (m : Msg), c < 12288 → i < 4 →
    let u := s.deliver uid
    let v := u.strand c i
    let ends := fun (y : Strand) => (v.sstep && v.ie) = false → ∃ t, exec (.messageDelivery uid) s = .next t ∧
      t = { u.consume uid with cores := t.cores } ∧ GoesOn c i u t y (u.core c)
    u.msg? uid = some m → m.dest = c → (u.core c).dark = false → m.poison = false →
    (∀ img, m.body = .spawnAck c i → v.wait = .spawn img false → ends v) ∧
    (∀ img, m.body = .spawnAck c i → v.wait = .spawn img true → ∃ t, exec (.messageDelivery uid) s = .next t ∧ leaves c i t) ∧
    (∀ d, m.body = .takeAns c i none → v.wait = .take d → ends (v.write d 0)) ∧
    ∀ d k, m.body = .takeAns c i (some k) → v.wait = .take d → ∃ t, exec (.messageDelivery uid) s = .next t ∧
      (t.strand c i).cocoon = some k ∧ (t.strand c i).run = RunState.idle ∧ (c, i) ∉ t.parked ∧ (t.core c).l1 = [])) ∧
  ((∀ (s : State) (c i n : Nat) (k : Cocoon), c < 12288 → i < 4 → (s.strand c i).cocoon = some k → k.ctx = some n →
    s.mayStart c i n = true → s.devHave epLaunch [s.ctxAt n] = true →
    (∀ x ∈ (s.core c).heldPlaced ++ (s.core c).placed, ∀ m, x.ctx = some m → (s.context m).onCores = false) →
    (s.pickupIll k = false → Image.field k.img 0 ≠ 0 →
      ∃ t, exec (.cocoonPickup c i) s = .next t ∧ (c, i) ∉ t.parked ∧
        t.strand c i = { (s.strand c i).load c i k.img (s.ctxAsid n) (s.ctxSvc n) (s.ctxStk n) with
          pc := Image.field k.img 0, cocoon := some { k with img := Image.setSt k.img 1 }
          entry := some { pc := Image.field k.img 0, decls := Image.decls k.img, words := none } }) ∧
    (s.pickupIll k = true → ∃ t, exec (.cocoonPickup c i) s = .next t ∧
      t.reports = s.reports ++ [(4, svcCore (BitVec.ofNat 64 (s.ctxSvc n)))] ∧
      (t.strand c i).cocoon = none ∧ (t.strand c i).left = some (Image.setSt k.img 4) ∧ (c, i) ∈ t.parked)) ∧
  (∀ (s : State) (c n : Nat) (k : Cocoon), c < 12288 → (s.core c).heldPlaced = [] → (s.core c).placed = [k] →
    (s.strand c 0).cocoon = none → k.ctx = some n → s.mayLoad c 0 n = true → s.devHave epLaunch [s.ctxAt n] = true → s.pickupIll k = false →
    Image.field k.img 0 ≠ 0 → ∃ t, exec (.cocoonPickup c 0) s = .next t ∧ (t.core c).placed = [] ∧
      (t.strand c 0).run = RunState.running ∧ (t.strand c 0).cocoon = some { k with img := Image.setSt k.img 1 } ∧
      (t.strand c 0).pc = Image.field k.img 0 ∧ (t.core c).preempt = if s.stays c n then none else some n) ∧
  ∀ (s u : State) (q c i : Nat) (l : Launch) (m : Image), q < 64 → (s.queue q).launch = some l → l.phase = LPhase.running →
    l.stat = 0 → (s.parked.find? fun k => boxHasCluster (s.ctxBox l.ctx) (clusterOf k.1) && s.mayStart k.1 k.2 l.ctx &&
      (s.strand k.1 k.2).cocoon.isNone && !(s.core k.1).placedDue k.2) = some (c, i) →
    (∀ x ∈ s.migrated, x.ctx ≠ l.ctx) → s.takePool q l = .ok (some (m, u)) → i < 4 →
    ∃ t, exec (.parkedDispatch q) s = .next t ∧
      (t.strand c i).cocoon = some { img := m, queue := some q, ctx := some l.ctx } ∧ (c, i) ∉ t.parked)

/-! ## Leases and the TLBs -/

/-- R348, R349, R350, R395, R396, R397: SPRINT asks the power controller, which refuses with the lowest reason or grants a lease; LEASE,
LEASE.EXP and LEASE.REL read and return it; when the timecode has reached its EXP or its energy is spent the lease ends with its tick,
and its holder is told. That what ends a lease is decided when the tick ends, and the reason for a strand without a context, are the
model's choices (log 40). -/
def Obligations.LeasesComplete : Prop :=
  (∀ (s : State) (d : Opd) (p : Pred), Begins .no false p s →
    let k := s.cluster (clusterOf s.cur.1)
    (∀ a : Opd,
      let w := s.me.src 0 a
      (bits w 48 16 = 0 → bits w 19 13 = 0 → ∃ t, exec (.sprint d a p) s = .next t ∧ Blocks s t (.sprint d w)) ∧
      ((bits w 48 16 ≠ 0 ∨ bits w 19 13 ≠ 0) → s.myCore.res = true →
        ∃ t, exec (.sprint d a p) s = .next t ∧ Traps s t 2 s.me.pc s.me.pc)) ∧
    (Unstepped s →
      (∃ t v, exec (.lease d p) s = .next t ∧ Completes s t (s.me.write d v) ∧
        (k.lease = none → k.paused = [] → v = 0) ∧
        (k.lease = none → k.paused ≠ [] → (∀ l ∈ k.paused, l.lstep < 8 ∧ l.strand < 4 ∧ l.energy / 1000000 < 65536) → bits v 62 2 = 2) ∧
        ∀ l, k.lease = some l → l.lstep < 8 → l.strand < 4 → l.energy / 1000000 < 65536 →
          bits v 62 2 = 1 ∧ bits v 59 3 = l.lstep ∧ bits v 57 2 = l.strand ∧ v.getLsbD 56 = s.holds s.cur.1 s.cur.2 l ∧
          bits v 0 16 = l.energy / 1000000 ∧ bits v 16 40 = 0) ∧
      (∃ t, exec (.leaseExp d p) s = .next t ∧
        Completes s t (s.me.write d (match k.lease with | some l => BitVec.ofNat 64 l.exp | none => 0))) ∧
      ((∀ l, k.lease = some l → s.timecode.toNat ≤ l.exp ∧ s.holds s.cur.1 s.cur.2 l = false) →
        ∃ t, exec (.leaseRel d p) s = .next t ∧ Completes s t (s.me.write d 0)) ∧
      (∀ l, k.lease = some l → l.exp < s.timecode.toNat → ∃ t, exec (.leaseRel d p) s = .next t ∧
        (t.cluster (clusterOf s.cur.1)).lease = none ∧ ∃ pend behind,
          t.me = s.past s.cur.1 s.cur.2 (({ s.me with pend, behind }).write d 0)) ∧
      ∀ l, k.lease = some l → s.timecode.toNat ≤ l.exp → s.holds s.cur.1 s.cur.2 l = true → ∃ t, exec (.leaseRel d p) s = .next t ∧
        t = { s with cores := t.cores, clusters := t.clusters, regions := t.regions } ∧
        (t.cluster (clusterOf s.cur.1)).lease = none ∧
        t.me = s.past s.cur.1 s.cur.2 (s.me.write d (BitVec.ofNat 64 (l.energy / 1000000))))) ∧
  (∀ (s : State) (c i : Nat) (d : Opd) (w : W64), c < 12288 → i < 4 → (s.strand c i).wait = .sprint d w →
    ((s.strand c i).sstep && (s.strand c i).ie) = false →
    let ctx := (s.strand c i).cocoon.bind (·.ctx)
    let why := s.sprintReason c ctx w
    let k := s.cluster (clusterOf c)
    let bad := fun (n : Nat) => (n = 1 ∧ 0xE666 ≤ s.melt.toNat) ∨ (n = 2 ∧ s.rfz = true) ∨
      (n = 3 ∧ (k.lease ≠ none ∨ k.leaseTick = some s.timecode.toNat)) ∨ (n = 4 ∧ bits w 16 3 < 5) ∨
      (n = 5 ∧ ((s.region (regionOfCluster (clusterOf c))).mode ≠ 0 ∨ k.fb = true)) ∨
      (n = 6 ∧ ∀ x, ctx = some x → s.ctxLevel x 2 < (bits w 0 16 * 1000 : Nat)) ∨ (n = 7 ∧ (bits w 0 16 = 0 ∨ bits w 32 16 = 0))
    (∀ n, n < why → ¬ bad n) ∧ (why ≠ 0 → bad why) ∧ (why = 0 → ∀ n, ¬ bad n) ∧
    (why ≠ 0 → ∃ t, exec (.sprintRequest c i) s = .next t ∧
      RetiresAt c i s t ((s.strand c i).write d (BitVec.ofNat 64 (2 ^ 63 + why * 2 ^ 56)))) ∧
    (why = 0 → ∃ t, exec (.sprintRequest c i) s = .next t ∧
      (t.cluster (clusterOf c)).lease = some { core := c, strand := i, ctx, lstep := sprintStep w, energy := sprintEn w * 1000000
                                               exp := s.timecode.toNat + sprintDur w * 1000000 } ∧
      t.strand c i = s.past c i ((s.strand c i).write d (BitVec.ofNat 64 (2 ^ 62 + bits w 0 16 + sprintStep w * 2 ^ 16))))) ∧
  ∀ (s : State) (cl : Nat) (l : Lease), cl < 1536 → (s.cluster cl).lease = some l →
    let k := s.cluster cl
    let told := fun (b : Nat) => (s.leasesEnd.cluster cl).lease = none ∧ (l.strand < 4 → (s.strand l.core l.strand).cocoon.isSome = true →
      (s.strand l.core l.strand).cocoon.bind (·.ctx) = l.ctx → (s.leasesEnd.strand l.core l.strand).pend.getLsbD b = true)
    let due := fun (t : State) (k : Cluster) => t = { s with clusters := t.clusters } ∧ (∀ j, j ≠ cl → t.cluster j = s.cluster j) ∧
      t.cluster cl = { k with leaseRow := some (min 2 (k.leaseRow.getD 2)) }
    (s.timecode.toNat < l.exp → exec (.leaseExpiry cl) s = .next s) ∧
    (l.exp ≤ s.timecode.toNat → ∃ t, exec (.leaseExpiry cl) s = .next t ∧ due t k) ∧
    ((∀ e ∈ s.clusters, e.1 ≠ cl → e.2.leaseRow = none) →
      (k.leaseRow = some 2 → (s.melt.toNat < 0xE666 → told 3) ∧ (0xE666 ≤ s.melt.toNat → s.leasesEnd.rfz = true)) ∧
      (k.leaseRow = some 3 → told 3) ∧ (k.leaseRow = some 4 → told 4) ∧
      (k.leaseRow = some 5 → (s.leasesEnd.cluster cl).lease = none ∧
        { l with exp := l.exp - s.timecode.toNat } ∈ (s.leasesEnd.cluster cl).paused)) ∧
    ∀ nj,
      (nj - 28650 < l.energy → ∃ t, exec (.leaseEnergyWindow cl nj) s = .next t ∧ t = { s with clusters := t.clusters } ∧
        t.cluster cl = { s.cluster cl with lease := some { l with energy := l.energy - (nj - 28650) } } ∧
        ∀ k, k ≠ cl → t.cluster k = s.cluster k) ∧
      (l.energy + 28650 ≤ nj → ∃ t, exec (.leaseEnergyWindow cl nj) s = .next t ∧ due t { k with lease := some { l with energy := 0 } })

/-- R43, R44, R45, R354: TLBINV and TLBINV.PG send a bump to the cores of the domain and wait; a core that applies it drops the entries
it names and advances the generation of the ASID's strands; with the last acknowledgement the instruction completes. -/
def Obligations.InvalidationsComplete : Prop :=
  (∀ (s : State) (a : Opd) (p : Pred), Begins .no true p s →
    let v := s.me.src 0 a
    let asid : BitVec 16 := v.setWidth 16
    let sends := fun (i : Instr) (page : Option Nat) => ∃ t mask, exec i s = .next t ∧
      Blocks { s with uid := s.uid + 1, bumps := SMap.set s.bumps s.uid mask
                      bumpReqs := SMap.set s.bumpReqs s.uid (asid, page, s.cur.1, s.cur.2) } t (.tlbinv s.uid) ∧ s.cur.1 ∈ mask ∧
      ∀ n, s.me.cocoon.bind (·.ctx) = some n → ∀ k ∈ s.partition n, k ∈ mask
    (v >>> 16 = 0 → s.ptStores s.cur.1 s.cur.2 = false → sends (.tlbinv a p) none) ∧
    (v >>> 16 = 0 → s.ptStores s.cur.1 s.cur.2 = true → ∃ t, exec (.tlbinv a p) s = .next t ∧ Blocks s t .hold) ∧
    (v >>> 16 ≠ 0 → s.myCore.res = true → ∃ t, exec (.tlbinv a p) s = .next t ∧ Traps s t 2 s.me.pc s.me.pc) ∧
    ∀ b : Opd,
      (∀ va, v >>> 16 = 0 → decodeAddr s.me.stkb (s.me.src 0 b) = some (.glob va) → s.ptStores s.cur.1 s.cur.2 = false →
        sends (.tlbinvPg a b p) (some va)) ∧
      (v >>> 16 = 0 → (∀ va, decodeAddr s.me.stkb (s.me.src 0 b) ≠ some (.glob va)) → s.me.window = false → s.myCore.res = true →
        ∃ t, exec (.tlbinvPg a b p) s = .next t ∧ Traps s t 8 (s.me.src 0 b) s.me.pc)) ∧
  ∀ (s : State) (bid c k i : Nat) (asid : BitVec 16) (page : Option Nat), c < 12288 → i < 4 →
    SMap.get? s.bumpReqs bid = some (asid, page, k, i) →
    let x := s.core c
    (c ∈ SMap.getD s.bumps bid [] → x.bumps = [] → ∃ t, exec (.tlbBump bid c) s = .next t ∧
      (∀ j, j ≠ c → t.core j = s.core j) ∧ t = { s with cores := t.cores } ∧
      (∃ old, (t.core c).bumps = [(bid, old)] ∧ ∀ w, w ∈ old ↔ ∃ k ∈ x.walks, k.asid = asid ∧ k.wid = w) ∧
      (∀ e, (e ∈ (t.core c).tlb1 ↔ e ∈ x.tlb1 ∧ (page = none → e.asid ≠ asid) ∧ ∀ va, page = some va → e.covers asid va = false) ∧
        (e ∈ (t.core c).tlb2 ↔ e ∈ x.tlb2 ∧ (page = none → e.asid ≠ asid) ∧ ∀ va, page = some va → e.covers asid va = false)) ∧
      ∀ j, j < 4 → t.strand c j = if (s.strand c j).asid.setWidth 16 = asid then { s.strand c j with gen := (s.strand c j).gen + 1 }
        else s.strand c j) ∧
    ((∃ b ∈ x.bumps, b.1 = bid ∧ ∃ w ∈ x.walks, w.wid ∈ b.2) → exec (.bumpAck bid c) s = .next s) ∧
    ((∃ b ∈ x.bumps, b.1 = bid) → (∀ b ∈ x.bumps, b.1 = bid → ∀ w ∈ x.walks, w.wid ∉ b.2) →
      (SMap.getD s.bumps bid [] = [c] → (s.strand k i).wait = .tlbinv bid → ((s.strand k i).sstep && (s.strand k i).ie) = false →
        ∃ t, exec (.bumpAck bid c) s = .next t ∧ SMap.get? t.bumpReqs bid = none ∧ (∀ b ∈ (t.core c).bumps, b.1 ≠ bid) ∧
          t.strand k i = s.past k i (s.strand k i)) ∧
      ∀ j, j ≠ c → j ∈ SMap.getD s.bumps bid [] → ∃ t, exec (.bumpAck bid c) s = .next t ∧
        SMap.getD t.bumps bid [] = (SMap.getD s.bumps bid []).filter (· != c) ∧ (∀ b ∈ (t.core c).bumps, b.1 ≠ bid) ∧
        t.strand k i = s.strand k i)

/-! ## The network and boot -/

/-- R48, R49, R50, R51, R55, R57, R58, R60, R62, R67: a router whose neighbours are no cycle behind sends its injection candidate out by the first
productive port with a free slot, where it arrives in the neighbour's cycle after this one, and puts a flit for its own core into its ejection
FIFO, its message holding a reassembly buffer from then on; a candidate that has waited 256 cycles silences the other routers of its
region; a message of no flits or more than 9 is discarded; the message that completed first at its endpoint is delivered, and a poisoned request is
answered and not performed; the host performs a store and its completion is counted. The model's choices: the order of the network's
events and the times that it leaves out (log 21), what a router counts and when a border flit is ready (log 49), and that a message
refused for poison that no access waits for is kept and sent again (log 50). -/
def Obligations.NetworkComplete : Prop :=
  (∀ (s : State) (c : Nat), c < 12288 → s.running = true → s.live c = true → s.cycleDue c = true → (s.router c).border = [] →
    (s.router c).up = [] → (s.router c).back = [] →
    let r := s.router c
    (∀ f rest p,
      let g : Flit := { f with age := (s.timecode >>> 16).setWidth 16 }
      let n := s.router (neighbour c p)
      r.arr = [] → r.inj = f :: rest → r.hold = 0 → (isBaseEp f.dest = true → c ∉ s.targets f.dest) →
      ((s.productive c g).find? fun q => s.slotFree c q [] g) = some p →
      crosses c p = false → ∃ t, exec (.routerCycle c []) s = .next t ∧ (t.router c).waited = 0 ∧ (t.router c).cycle = r.cycle + 1 ∧
        (t.router c).inj = (Router.feed 16 { r with inj := rest }).inj ∧
        (n.cycle = r.cycle → (t.router (neighbour c p)).later = n.later ++ [(inSlot (opposite p) 0, g)]) ∧
        (n.cycle = r.cycle + 1 → (t.router (neighbour c p)).arr = n.arr ++ [(inSlot (opposite p) 0, g)])) ∧
    ∀ (f : Flit) k, r.later = [] → r.arr = [(k, f)] → r.inj = [] → f.dest = c → f.poison = false → f.wellFormed = true →
      (∃ m ∈ s.transit, m.uid = f.uid) → accepts (s.reasmOf c) f = true →
      let b := s.reasmOf c
      ∃ t, exec (.routerCycle c []) s = .next t ∧ (t.router c).arr = [] ∧ t.transit = s.transit ∧
        (t.reasmOf c).fifo = b.fifo ++ [f] ∧
        ((∃ e ∈ b.bufs, e.uid = f.uid) → (t.reasmOf c).bufs = b.bufs) ∧
        ((∀ e ∈ b.bufs, e.uid ≠ f.uid) →
          (t.reasmOf c).bufs = b.bufs ++ [{ uid := f.uid, cls := f.cls, shared := decide (b.room f.cls = 0), got := [] }])) ∧
  (∀ (s : State) (c : Nat), c < 12288 →
    ((s.router c).waited < 256 → exec (.injectionStarvation c) s = .next s) ∧
    (256 ≤ (s.router c).waited → ∃ t, exec (.injectionStarvation c) s = .next t ∧ t = { s with routers := t.routers } ∧
      t.router c = { s.router c with starving := true, waited := 0 } ∧
      ∀ n ∈ regionCores (regionOf c), n ≠ c → t.router n = { s.router n with hold := 16 })) ∧
  (∀ (s : State) (m : Msg), (s.transit.find? fun x => x.uid == m.uid) = some m → s.msg? m.uid = none →
    let left := s.transit.filter (fun x => x.uid != m.uid)
    (m.nf = 0 ∨ 9 < m.nf → ∃ t, exec (.messageDelivery m.uid) s = .next t ∧ t.transit = left ∧ t.inbox = s.inbox) ∧
    (1 ≤ m.nf → m.nf ≤ 9 → m.dest < 13093 → ((s.collect m).reasmOf m.dest).done.head? = some m.uid → m.badHeader = false →
      (m.poison = false → m.dest ≠ epHost → (s.core m.dest).dark = false →
        (∃ r, m.body = .mem r) ∨ (∃ w p a st pr, m.body = .win w p a st pr) ∨ (∃ w c b v pr, m.body = .qpush w c b v pr) ∨
          (∃ w r es, m.body = .logUpd w r es) ∨ (∃ c i k q x d r, m.body = .ans (.strand c i) k q x d r) ∨
          (∃ w r d, m.body = .winAns w r d) →
        ∃ t, exec (.messageDelivery m.uid) s = .next t ∧ t.inbox = s.inbox ++ [m] ∧ ((m.cls = 0 ∨ m.cls = 3) → t.transit = left)) ∧
      (m.poison = true → m.cls = 0 ∨ m.cls = 3 → ∃ t, exec (.messageDelivery m.uid) s = .next t ∧
        t.inbox = s.inbox ∧ Mails { s with transit := left } t m.dest m.src 2 0 (s.poisonAnswer m.body)) ∧
      (∀ b, m.poison = false → m.cls = 2 → m.body = .nack b → s.nackAnswer b = none → ∃ t, exec (.messageDelivery m.uid) s = .next t ∧
        t.inbox = s.inbox ∧ ∃ h, t.held = s.held ++ [h] ∧ h.cancel = false ∧ h.msg.src = m.dest ∧ h.msg.dest = m.src ∧
          h.msg.ticket = 0 ∧ h.msg.cls = b.cls ∧ h.msg.body = b) ∧
      ∀ r c i, m.poison = false → m.dest = epHost → m.cls = 0 → m.body = .mem r → r.op = .write → r.who = .strand c i →
        ∃ t, exec (.messageDelivery m.uid) s = .next t ∧ t.hostMem = s.hostMem.writeLine (128 * r.line) r.data r.mask ∧
          SMap.getD t.hostOut (4 * c + i) 0 = SMap.getD s.hostOut (4 * c + i) 0 + 1 ∧
          Mails { s with transit := left } t epHost m.src 2 0 (.ans r.who 0 0 false none r))) ∧
  ∀ (s : State) (c i : Nat), c < 12288 → i < 4 → ∃ t, exec (.hostCompletion c i) s = .next t ∧ t = { s with hostOut := t.hostOut } ∧
    SMap.getD t.hostOut (4 * c + i) 0 = SMap.getD s.hostOut (4 * c + i) 0 - 1 ∧
    ∀ k, k ≠ 4 * c + i → SMap.getD t.hostOut k 0 = SMap.getD s.hostOut k 0

/-- R114, R115: a refused message is kept with its ticket and sent again as it was; that of a killed strand is given up, its ticket to be
cancelled; a resource accepts a cancel at SERVE, and passes over a ticket that no sender holds, except where the core of the resource is
being saved or restored (that, and what a refusal carries: the model's choice, log 22). -/
def Obligations.TicketsComplete : Prop :=
  (∀ (s : State) (uid : Nat) (m : Msg) (b : Body), s.msg? uid = some m → m.body = .retry b → m.cancel = false →
    (∀ w, b.who = some w → s.whoDead w = false) → ∃ t, exec (.nackRetryReceived uid) s = .next t ∧
      t = { s.consume uid with held := t.held } ∧ ∃ h, t.held = s.held ++ [h] ∧ h.cancel = false ∧ h.msg.src = m.dest ∧
        h.msg.dest = m.src ∧ h.msg.ticket = m.ticket ∧ h.msg.uid = m.uid ∧ h.msg.body = b ∧ h.msg.cls = b.cls ∧ h.msg.nf = b.flits ∧
        h.msg.sb = m.kept) ∧
  (∀ (s : State) (uid : Nat) (m : Msg) (b : Body) (w : Who) (c i : Nat), s.msg? uid = some m → m.body = .retry b → m.cancel = false →
    b.isAmo = false → b.who = some w → (w = .strand c i ∨ (∃ n, w = .fetch c i n) ∨ ∃ n k, w = .pref c i n k) → s.whoDead w = true →
    (m.ticket = 0 → exec (.nackRetryReceived uid) s = .next (s.consume uid)) ∧
    (m.ticket ≠ 0 → ∃ t h, exec (.nackRetryReceived uid) s = .next t ∧ t = { s.consume uid with held := s.held ++ [h] } ∧
      h.cancel = true ∧ h.msg.src = m.dest ∧ h.msg.dest = m.src ∧ h.msg.ticket = m.ticket ∧ h.msg.body = b)) ∧
  (∀ (s : State) (uid : Nat) (h : Held), h ∈ s.held → h.msg.uid = uid → (∀ k ∈ s.held, k.msg.uid = uid → k = h) →
    let again := fun (t : State) => NetOnly { s with held := t.held } t ∧ t.held = s.held.filter (· != h) ∧
      ∃ b : Msg, t.transit = s.transit ++ [b] ∧ b.src = h.msg.src ∧ b.dest = h.msg.dest ∧ b.cls = h.msg.cls ∧
        b.ticket = h.msg.ticket ∧ b.cancel = h.cancel ∧ b.body = h.msg.body
    (h.msg.ticket ≠ 0 → s.inSave h = false → ∃ t, exec (.ticketRetryResend uid) s = .next t ∧ again t) ∧
    (h.msg.ticket = 0 → ∃ t, exec (.freshResend uid) s = .next t ∧ again t)) ∧
  (∀ (s : State) (uid : Nat) (m : Msg), s.msg? uid = some m → m.cancel = true → s.imaging m.dest = false →
    let refused := ∃ t, exec (.ticketCancel uid) s = .next t ∧ NetOnly (s.consume uid) t ∧ ∃ b : Msg, t.transit = s.transit ++ [b] ∧
      b.dest = m.src ∧ b.ticket = m.ticket ∧ b.body = .retry m.body
    (∀ res, s.resource m.dest m.body = some res →
      (m.ticket = (s.tickets res).2 → ∃ t, exec (.ticketCancel uid) s = .next t ∧ (t.tickets res).1 = (s.tickets res).1 ∧
        (t.tickets res).2 = nextTicket (s.tickets res).2 ∧ Mails s t m.dest m.src 2 0 (.okCancel m.body)) ∧
      (m.ticket ≠ (s.tickets res).2 → refused)) ∧
    ∀ who c n midx off mask d, m.body = .redc who c n midx off mask d →
      let g := (s.core c).group n
      let took := SMap.getD g.lines (off / 128) 0
      (m.ticket = took + 1 → ∃ t, exec (.ticketCancel uid) s = .next t ∧ Mails s t m.dest m.src 2 0 (.okCancel m.body) ∧
        SMap.getD ((t.core c).group n).lines (off / 128) 0 = if took + 1 = (boxMembers g.desc).length then 0 else took + 1) ∧
      (m.ticket ≠ took + 1 → refused)) ∧
  ∀ (s : State) (res : Nat), ticketsOut (s.tickets res).1 (s.tickets res).2 ≠ 0 →
    (s.ticketHeld res = true → exec (.ticketAbandon res) s = .next s) ∧
    (s.ticketHeld res = false → res % 8 < 6 → (res % 8 = 1 → s.imaging (res / 512) = false) → ∃ t, exec (.ticketAbandon res) s = .next t ∧
      (t.tickets res).1 = (s.tickets res).1 ∧ (t.tickets res).2 = nextTicket (s.tickets res).2)

/-- R21, R22, R65, R85, R161, R321, R405: the boot ROM records the first thing it finds wrong, and otherwise writes PTCFG and NETDIAM
and clears SEQ; a core reset gives its strands and memories their reset values; the host's reads and writes go to their line's home.
The model's choices: that the two signatures and the form of an image are looked at together, in the order of R405 (log 42); PC 0 and
the run state after a core reset (log 4), and the reset values that no rule gives (log 10). -/
def Obligations.BootAndHostComplete : Prop :=
  (∀ s : State, s.booted = false →
    let f := s.flash
    let rejected := s.mapRejected
    let code := if ¬(f.recordRsa = true ∧ f.recordSlh = true ∧ f.recordFormed = true) then 1
      else if ¬(f.firmwareRsa = true ∧ f.firmwareSlh = true ∧ f.firmwareFormed = true) then 3
      else if rejected = true then 2 else if f.memoryOk = false then 4 else 0
    (code ≠ 0 → exec .boot s = .next { s with booted := true, bootstat := code }) ∧
    (code = 0 → ∃ t, exec .boot s = .next t ∧ t.booted = true ∧ t.bootstat = 0 ∧ t.ptcfg = f.ptcfg &&& 0xFFFF00001F ∧
      (∀ d, s.diameter = some d → t.netdiam = d) ∧ (∀ ln, (t.lineMeta ln).seq = 0) ∧
      t = { s with booted := true, bootstat := 0, ptcfg := t.ptcfg, netdiam := t.netdiam, hmeta := t.hmeta })) ∧
  (∀ (s : State) (c : Nat), c < 12288 → ∃ t, exec (.coreReset c) s = .next t ∧
    (∀ i, i < 4 → t.strand c i = { Strand.reset with run := (t.strand c i).run } ∧
      ((∀ j, (s.strand c j).cocoon = none) → t = { s with cores := t.cores, barGroups := t.barGroups } ∧
        (t.strand c i).run = if (s.core c).fenced then RunState.fenced else RunState.idle)) ∧
    (t.core c).ls = [] ∧ (t.core c).bkmd0 = 0 ∧ (t.core c).bkmd1 = 0 ∧ (t.core c).l1 = [] ∧ (t.core c).icache = [] ∧
      (t.core c).accs = [] ∧ (t.core c).tiles = [] ∧ (t.core c).tlb1 = [] ∧ (t.core c).tlb2 = []) ∧
  ∀ (s : State) (pa : Nat), (2 ^ 40 ≤ pa → exec (.hostRead pa 1) s = .fault .noSuchPlace) ∧ (pa < 2 ^ 40 → s.bar2 = true →
    let home := epSlice (s.homeOf (pa / 128))
    (∀ n, 0 < n → pa % 128 + n ≤ 128 → ∃ t, exec (.hostRead pa n) s = .next t ∧ NetOnly s t ∧
      Mails s t epHost home 0 0 (.mem (.plain .read (pa / 128) (.host 0) none))) ∧
    ∀ (data : List (BitVec 8)) stream, data ≠ [] → pa % 128 + data.length ≤ 128 → (stream = 0 ∨ s.streamBusy stream = false) →
      ∃ t, exec (.hostWrite pa data stream) s = .next t ∧ NetOnly s t ∧
        Mails s t epHost home 0 0 (.mem { op := .write, line := pa / 128, off := pa % 128, mask := byteMask (pa % 128) data.length, data := BitVec.ofNat 1024 (bytesNum data) <<< (8 * (pa % 128)), who := .host stream, asid := none, px := none }))

/-! ## What arrives at a core -/

/-- R28, R38, R41, R105, R106, R116, R176, R177, R375 to R378, R381: a line that a strand waits for is installed, from the local store or from
its home, and one read poisoned is a trap; a window access is performed or refused; the answer to a posted operation frees its journal
entry or leaves it REFUSED with its reason; an accepted push leaves its FREE for QFREE; a walk fills the TLBs or sends a fault message to
the service core; a fault message is queued or counted, and its reply answers the strand: RESUME, FAIL, or CONTAIN, which enters no
handler. That the answer of a fetch is taken only while its page still holds the line is the model's choice (log 9). -/
def Obligations.ArrivalsComplete : Prop :=
  (∀ (s : State) (c i off u : Nat) (line : W64), c < 12288 → i < 4 → (s.strand c i).wait = .fetch line u →
    decodeAddr (s.strand c i).stkb line = some (.loc off) → (s.core c).changing off 64 = false → (s.core c).mode (off / 8192) = 0 →
    let b : BitVec 512 := BitVec.ofNat 512 ((s.core c).ls.num off 64)
    lineParityOk b = true → EnvErr.parity c line true ∉ s.env → EnvErr.parity c line false ∉ s.env →
    ∃ t, exec (.instructionLineFill c i) s = .next t ∧ t = { s with cores := t.cores } ∧
      t.strand c i = { s.strand c i with wait := .no } ∧
      (t.core c).icache.head? = some { line, asid := (s.strand c i).asid.setWidth 16, bytes := b, bad := 0 }) ∧
  (∀ (s : State) (c i n va : Nat) (line : W64) (p : Page) (m : Msg) (kind : Nat) (seq : W32) (px : Bool) (data : Option W1024) (req : MemReq),
    c < 12288 → i < 4 → (s.strand c i).wait = .fetch line n → decodeAddr (s.strand c i).stkb line = some (.glob va) →
    m ∈ s.inbox → m.dest = c → m.body = .ans (.fetch c i n) kind seq px data req →
    (∀ k ∈ s.inbox, k.dest = c → (∃ x, k.body.isOf (.fetch c i x) = true) → k = m) →
    (s.core c).tlbFind ((s.strand c i).asid.setWidth 16) va = some p → p.permits (.fetch (s.strand c i).prv) = true →
    pageAddr p va / 128 = req.line →
    (∀ d, data = some d → lineParityOk (d.extractLsb' (8 * (line.toNat % 128)) 512) = true → EnvErr.parity c line true ∉ s.env →
      EnvErr.parity c line false ∉ s.env → ∃ t, exec (.instructionLineFill c i) s = .next t ∧
        t = { s.consume m.uid with cores := t.cores } ∧ t.strand c i = { s.strand c i with wait := .no } ∧
        (t.core c).icache.head? = some { line, asid := (s.strand c i).asid.setWidth 16, bytes := d.extractLsb' (8 * (line.toNat % 128)) 512, bad := 0 }) ∧
    (data = none → (s.strand c i).window = false → (s.core c).res = true → ∃ t, exec (.instructionLineFill c i) s = .next t ∧
      t = { s.consume m.uid with cores := t.cores } ∧ (t.core c).icache = (s.core c).icache ∧
      t.strand c i = ({ s.strand c i with wait := .no }).enter { num := 12, bad := line } (s.strand c i).pc)) ∧
  (∀ (s : State) (uid : Nat) (m : Msg) (who : Who) (p : Piece) (amo : Option AmoReq) (store prv : Bool), s.msg? uid = some m →
    m.body = .win who p amo store prv → s.imaging m.dest = false →
    let c := m.dest
    let ls := (s.core c).ls
    let gives := fun (ls' : Memory) (cls : Nat) (d : W1024) => ∃ t, exec (.windowAccess uid) s = .next t ∧
      NetOnly { s.consume uid with cores := t.cores } t ∧ (t.core c).ls = ls' ∧ (∀ k, k ≠ c → t.core k = s.core k) ∧
      Mails s t c m.src cls 0 (.winAns who 0 d)
    (∀ k, s.windowRefusal c p.off p.n prv = some k → ∃ t, exec (.windowAccess uid) s = .next t ∧ NetOnly (s.consume uid) t ∧
      Mails s t c m.src 2 0 (.winAns who k 0)) ∧
    (s.windowRefusal c p.off p.n prv = none →
      (∀ a, amo = some a → gives (ls.writeNum p.off (etyWidth a.ty / 8) (amoNew a (ls.num p.off (etyWidth a.ty / 8)))) 1
        (BitVec.ofNat 1024 (ls.num p.off p.n))) ∧
      (amo = none → store = true → p.n ≠ 8 ∨ p.mask ≠ byteMask 0 8 → gives (ls.writeLine p.off p.data p.mask) 2 0) ∧
      (amo = none → store = true → p.n = 8 → p.mask = byteMask 0 8 → gives (ls.writeNum p.off 8 (p.data.toNat % 2 ^ 64)) 2 0) ∧
      (amo = none → store = false → gives ls 1 (BitVec.ofNat 1024 (ls.num p.off p.n))))) ∧
  (∀ (s : State) (uid c j : Nat) (m : Msg), s.msg? uid = some m →
    let e := (s.core c).jent j
    let u := s.strand c e.strand
    e.st = .sent → e.strand < 4 → (∀ k ∈ (s.core c).journal, k.2.heldRed = none) →
    let frees := fun (i : Instr) (u' : Strand) => ∃ t, exec i s = .next t ∧ t = { s.consume uid with cores := t.cores } ∧
      SMap.get? (t.core c).journal j = none ∧ t.strand c e.strand = u'
    let refuses := fun (reason : Nat) (free : W64) => ∃ t, exec (.postedFinalRefusal uid) s = .next t ∧
      t = { s.consume uid with cores := t.cores } ∧ (t.strand c e.strand).qfree = free ∧
      (t.core c).jent j = { e with st := .refused, reason } ∧ (t.strand c e.strand).pend.getLsbD 0 = true ∧
      (t.strand c e.strand).rsc = u.rsc - 1
    (∀ reason, m.body.posted = some (c, j, reason) →
      (reason = 0 → frees (.postedAck uid) { u with rsc := u.rsc - 1 }) ∧ (reason ≠ 0 → refuses reason u.qfree)) ∧
    ∀ kind free adr, m.body = .qack (.journal c j) kind free adr →
      (kind = 0 → frees (.qpushAck uid) { u with rsc := u.rsc - 1, qfree := BitVec.ofNat 64 free, qaddr := e.addr }) ∧
      (kind ≠ 0 → refuses (if kind = 4 then 4 else if kind = 5 then 1 else 2) (BitVec.ofNat 64 free))) ∧
  (∀ (s : State) (wid c : Nat) (w : Walk), s.walkOf wid = some (c, w) → ProbeAns.none ∉ s.probes wid → w.strand < 4 → w.who = .strand w.strand →
    (s.strand c w.strand).wait = .walk → (s.strand c w.strand).fault = none → (s.strand c w.strand).gen = w.gen →
    (∀ v ∈ (s.core c).walks, v.who = w.who → v.wid ≤ wid) →
    (∀ p, classify (s.probes wid) w.asid w.va 0 = .ok p → p.permits w.need = true → ∃ t, exec (.tlbWalkProbe wid) s = .next t ∧
      t.strand c w.strand = { s.strand c w.strand with wait := .no } ∧
      (t.core c).tlb1.head? = some { asid := w.asid, vpn := w.va / 2 ^ pageShift p.sz, page := p }) ∧
    (∀ kind, (classify (s.probes wid) w.asid w.va 0 = .error kind ∨
        kind = 3 ∧ ∃ p, classify (s.probes wid) w.asid w.va 0 = .ok p ∧ p.permits w.need = false) → w.quiet = false → (s.strand c w.strand).window = false →
      s.reachable (svcCore (s.strand c w.strand).svcXyz) = true → ∃ t, exec (.tlbWalkProbe wid) s = .next t ∧
        t.strand c w.strand = { s.strand c w.strand with wait := .walk, fault := some { tag := (s.core c).faultTag, kind, addr := BitVec.ofNat 64 w.va, bad := w.bad, src := 0, idx := 0 } } ∧
        (t.core c).faultTag = (s.core c).faultTag + 1 ∧
        Mails s t c (svcCore (s.strand c w.strand).svcXyz) 0 0 (.faultMsg (svcCore (s.strand c w.strand).svcXyz)
          (faultBytes (BitVec.ofNat 64 w.va) ((s.strand c w.strand).asid.setWidth 16) kind (accCode w.acc) c w.strand (s.core c).faultTag.toNat
            s.timecode (s.strand c w.strand).pc))) ∧
    (∀ kind, (classify (s.probes wid) w.asid w.va 0 = .error kind ∨
        kind = 3 ∧ ∃ p, classify (s.probes wid) w.asid w.va 0 = .ok p ∧ p.permits w.need = false) → w.quiet = true →
      ∃ t, exec (.tlbWalkProbe wid) s = .next t ∧ t.transit = s.transit ∧
        t.strand c w.strand = { s.strand c w.strand with wait := .no, noPage := some w.va })) ∧
  (∀ (s : State) (uid c : Nat) (m : Msg) (data : BitVec 512), s.msg? uid = some m → m.body = .faultMsg c data → m.cancel = false →
    (s.core c).changing (8192 * 62) 1 = false → (s.core c).dark = false → s.imaging c = false →
    let f := (s.core c).fifo 62
    ((s.core c).mode 62 = 2 → m.ticket = 0 → ticketsOut f.next f.serve = 0 →
      (f.count < 127 → f.tail < 128 → (s.core c).ls.wf = true → ∃ t, exec (.faultMailboxPush uid) s = .next t ∧
        (t.core c).fifo 62 = { f with tail := (f.tail + 1) % 128, count := f.count + 1 } ∧
        (t.core c).ls.num (8192 * 62 + 64 * f.tail) 64 = data.toNat ∧ Mails s t c m.src 2 0 (.faultAck 0)) ∧
      (127 ≤ f.count → (s.core c).faultOvf.toNat < 4294967295 → ∃ t, exec (.faultMailboxPush uid) s = .next t ∧
        (t.core c).faultOvf = (s.core c).faultOvf + 1 ∧ (t.strand c 0).pend.getLsbD 7 = true)) ∧
    ((s.core c).mode 62 ≠ 2 → (s.core c).faultOvf.toNat < 4294967295 → ∃ t, exec (.faultMailboxPush uid) s = .next t ∧
      (t.core c).faultOvf = (s.core c).faultOvf + 1 ∧ Mails s t m.dest m.src 2 0 (.retry m.body))) ∧
  ∀ (s : State) (c i : Nat) (w : W64) (f : FaultOut), c < 12288 → i < 4 → (s.core c).replies.find? (fun e => e.1 == i) = some (i, w) →
    (s.strand c i).fault = some f → f.tag = w.extractLsb' 56 8 → f.src = 0 →
    (∀ e ∈ (s.core c).copies, ∀ k, e.2.copy = some k → k.walking = false) → (∀ e ∈ (s.core c).tiles, e.2.job = TileJob.none) →
    (s.strand c i).wait = .walk →
    let u := { s.strand c i with fault := none, wait := .no }
    (bits w 0 8 = 1 → ∃ t, exec (.faultReply c i) s = .next t ∧ t = { s with cores := t.cores } ∧ t.strand c i = u ∧
      (t.core c).replies = (s.core c).replies.erase (i, w)) ∧
    (bits w 0 8 = 3 → ∀ n l, s.launchOf (s.strand c i) = some (n, l) →
      (l.gstop = false → l.cpol % 4 = 1 → (kindCause f.kind, u.pc) ∉ u.retry → ∃ t, exec (.faultReply c i) s = .next t ∧
        t.strand c i = { u with retry := (kindCause f.kind, u.pc) :: u.retry }) ∧
      (l.gstop = false → l.cpol % 4 = 2 → ∃ t, exec (.faultReply c i) s = .next t ∧ (t.strand c i).cocoon = none ∧
        (t.strand c i).run ≠ .running) ∧
      (l.gstop = true → l.stat = 0 → ∃ t l', exec (.faultReply c i) s = .next t ∧ (t.strand c i).cocoon = none ∧
        (t.queue n).launch = some l' ∧ l'.stat = 1 ∧ l'.cause = kindCause f.kind)) ∧
    (bits w 0 8 = 2 → u.window = false → (s.core c).res = true → ∃ t, exec (.faultReply c i) s = .next t ∧
      t = { s with cores := t.cores } ∧ t.strand c i = u.enter { num := kindCause f.kind, bad := f.bad } u.pc)

/-! ## Launches and contexts -/

/-- R359, R360, R361, R363 to R365, R399, R403: a notified queue or engine reads its header and reports an ill-formed one; a queue takes its
next record, once it has read it and its context's descriptor; a launch whose dependences have ended starts at its START on the cores its
context holds, with its allocations added to the levels, empty instruction caches and pools, every free strand parked, and one placed
cocoon at each core of its box; an armed gang launch starts at its tick, and one that is late ends with STAT 6; one whose dependence
failed ends with STAT 3, one with a core that takes no work with STAT 5; and at its end LNUM, TDONE and RESULT go to its record, and
when they have been performed there DONE advances, the queue is free with its STAT, and an MSI-X vector fires. The model's choices: an
engine works on copies of lines, which it reads again before it acts on them next (log 9), and what log 35 says of gangs and STAT. -/
def Obligations.LaunchesComplete : Prop :=
  (∀ (s : State) (k : Nat), k < 80 →
    let ep := hdrHolder k
    let l := s.headerAt k
    let d := s.devLine ep l.2 l.1
    ((∃ m ∈ s.inbox, m.dest = ep ∧ m.body = .hdrNote k) → ∃ t, ∃ m ∈ s.inbox, m.dest = ep ∧ m.body = .hdrNote k ∧
      exec (.queueHeaderNotify k) s = .next t ∧ t.inbox = (s.consume m.uid).inbox ∧ t.reports = s.reports ∧
      (d.busy = false → DevReads t ep l) ∧ (d.busy = true → (t.devLine ep l.2 l.1).want = true)) ∧
    ((∀ m ∈ s.inbox, ¬ (m.dest = ep ∧ m.body = .hdrNote k)) →
      (d.fresh = false → exec (.queueHeaderNotify k) s = .next s) ∧
      (d.fresh = true → ∃ t, exec (.queueHeaderNotify k) s = .next t ∧ (t.devLine ep l.2 l.1) = { d with fresh := false } ∧
        t.transit = s.transit ∧ (s.headerOk k = true → t.reports = s.reports ∧ t.msix = s.msix) ∧
        (s.headerOk k = false → t.reports = s.reports ++ [(5, k)] ∧ t.msix = s.msix ++ [64])))) ∧
  ∀ (s : State) (q : Nat), q < 64 →
    let h := s.queueHdr q
    let x := s.queue q
    let starts := fun (l : Launch) (t : State) =>
      let cores := coreBoxCores (l.word 2)
      let d := fun (u : State) => u.devLine epLaunch false (s.ctxAt l.ctx).1
      (t.queue q).launch = some { l with phase := .running, phaseTicks := s.timecode.toNat
                                         placedLeft := if l.placed then (cores.filter s.takesWork).length else 0 } ∧
      (t.context l.ctx).st = 1 ∧
      (l.placed = true → ∀ c ∈ cores, s.takesWork c = true → ∃ k ∈ (t.core c).placed, k.queue = some q ∧ k.ctx = some l.ctx ∧
        Image.field k.img 0 = l.word 0 ∧ Image.field k.img 4 = l.word 4 ∧ Image.field k.img 7 = s.timecode) ∧
      (∀ c ∈ s.partition l.ctx, (t.core c).icache = [] ∧
        ∀ i, i < 4 → (s.strand c i).run = .idle → (s.strand c i).cocoon = none → (c, i) ∈ t.parked) ∧
      (∀ p, p < 4 → t.pool (4 * q + p) = .reset) ∧
      ((d s).poison = false → lineWord64 (d t).data 4 = lineWord64 (d s).data 4 + l.word 10 ∧
        lineWord64 (d t).data 5 = lineWord64 (d s).data 5 + l.word 11 ∧ lineWord64 (d t).data 6 = lineWord64 (d s).data 6 + l.word 12 * 1000)
    (x.launch = none →
      let a := s.recordAt q (hdrHead h)
      let need := a :: if hdrCtx h < 256 then [s.ctxAt (hdrCtx h)] else []
      ((hdrOn h 128 = false ∨ hdrTail h ≤ hdrHead h) → exec (.launchTake q) s = .next s) ∧
      (hdrOn h 128 = true → hdrHead h < hdrTail h →
        (s.devHave epLaunch need = false → ∃ t, exec (.launchTake q) s = .next t ∧ t.queues = s.queues ∧ ∀ l ∈ need,
          let d := s.devLine epLaunch l.2 l.1
          d.fresh = false → d.busy = false → d.want = false → DevReads t epLaunch l) ∧
        (s.devHave epLaunch need = true → ∃ t l, exec (.launchTake q) s = .next t ∧ (t.queue q).launch = some l ∧
          (∀ k, k ≠ q → t.queue k = s.queue k) ∧ l.num = hdrHead h ∧ l.phase = LPhase.taken ∧ l.ctx = hdrCtx h ∧ l.armed = false ∧
          (∀ k, k < 16 → l.word k = lineWord64 (s.devData epLaunch a) k) ∧
          l.stat = (if s.recordIll q { l with stat := 0 } then 4 else 0) ∧
          DevWrites s t epLaunch (s.queueAt q) 32 8 (hdrHead h + 1) ∧ ∀ l ∈ need, (t.devLine epLaunch l.2 l.1).fresh = false))) ∧
    (∀ l, x.launch = some l →
      let desc := [s.ctxAt l.ctx]
      let ends := fun (stat : Nat) => ∃ t, exec (.launchStart q) s = .next t ∧ (t.queue q).launch = some { l with stat } ∧
        ∀ k, k ≠ q → t.queue k = s.queue k
      let allWork := l.placed = true → l.skipDead = false → ∀ c ∈ coreBoxCores (l.word 2), s.takesWork c = true
      (l.phase = LPhase.taken → l.stat = 0 →
        (s.depsEnded l = false → exec (.launchStart q) s = .next s) ∧
        (s.depsEnded l = true → s.depsFailed l = true → ends 3) ∧
        (s.depsEnded l = true → s.depsFailed l = false → l.gang = false →
          (s.timecode.toNat < l.start → exec (.launchStart q) s = .next s) ∧
          (l.start ≤ s.timecode.toNat →
            (s.devHave epLaunch desc = false → ∃ t, exec (.launchStart q) s = .next t ∧ t.queues = s.queues) ∧
            (s.devHave epLaunch desc = true →
              let u := s.devUsed epLaunch desc
              u.firstReady l.ctx = some q → (s.context l.ctx).onCores = true → u.levelsUp l.ctx = true →
              (allWork → ∃ t, exec (.launchStart q) s = .next t ∧ starts l t) ∧ (¬ allWork → ends 5)))) ∧
        (s.depsEnded l = true → s.depsFailed l = false → l.gang = true → l.start ≤ s.timecode.toNat →
          ((l.armed = false ∨ s.timecode.toNat ≠ l.start ∨ (s.tcMaster = false ∧ s.tcLock = false)) → ends 6) ∧
          (l.armed = true → s.timecode.toNat = l.start → (s.tcMaster = true ∨ s.tcLock = true) → s.launchReady q = true →
            (s.context l.ctx).onCores = true → s.levelsUp l.ctx = true → allWork →
            ∃ t, exec (.launchStart q) s = .next t ∧ starts l t))) ∧
      (l.phase = LPhase.taken ∧ l.stat ≠ 0 ∨ (l.phase = LPhase.running ∨ l.phase = LPhase.killing) ∧ s.finished q l = true →
        let a := s.recordAt q l.num
        let d := (s.devLine epLaunch a.2 a.1).data
        ∃ t, exec (.launchEnd q) s = .next t ∧ (t.queue q).launch = some { l with phase := .closing } ∧ t.devIdle epLaunch a = false ∧
          let e := (t.devLine epLaunch a.2 a.1).data
          (∀ k, k < 13 → lineWord64 e k = lineWord64 d k) ∧ lineWord64 e 13 = BitVec.ofNat 64 l.num ∧ lineWord64 e 14 = s.timecode ∧
          lineWord64 e 15 = BitVec.ofNat 64 (l.stat + 2 ^ 8 * l.cause + 2 ^ 32 * (l.ended % 2 ^ 32))) ∧
      (l.phase = LPhase.closing →
        let a := s.recordAt q l.num
        (s.devIdle epLaunch a = false → exec (.launchEnd q) s = .next s) ∧
        (s.devIdle epLaunch a = true → devKey epLaunch a.2 a.1 ≠ devKey epLaunch false (s.queueAt q).1 →
          ∃ t, exec (.launchEnd q) s = .next t ∧ (t.queue q).launch = none ∧ (t.queue q).lastStat = l.stat ∧
            t.msix = s.msix ++ [q] ∧ (l.stat ≠ 0 → l.num ∈ (t.queue q).failed) ∧
            DevWrites s t epLaunch (s.queueAt q) 40 8 (hdrDone h + 1))))

/-- R357, R366, R367, R368, R369: what a context's levels, its slice, its core time and its energy do to it, and the steps of a resize. The
model's choices: descriptors are read and written as lines that the launch queues hold (log 9); when the last launch's end comes before
the slice and the levels, and what a held gang launch holds off (log 35); what a leaving core's strands do (log 38). -/
def Obligations.ContextsComplete : Prop :=
  (∀ (s : State) (n : Nat), n < 256 →
    let x := s.context n
    let at_ := s.ctxAt n
    let D := s.devLine epLaunch at_.2 at_.1
    let sum := fun k => lineWord64 D.data (4 + k) + lineWord64 D.data (8 + k)
    ((D.fresh = false → ∃ t, exec (.contextLevelIncrement n) s = .next t ∧ t.contexts = s.contexts ∧
        (D.busy = false → D.want = false → DevReads t epLaunch at_)) ∧
     (D.fresh = true → D.poison = false → ∃ t, exec (.contextLevelIncrement n) s = .next t ∧
        let E := t.devLine epLaunch at_.2 at_.1
        E.fresh = false ∧ (∀ k, k < 3 → lineWord64 E.data (4 + k) = sum k ∧ lineWord64 E.data (8 + k) = 0) ∧
        (∀ k, k < 16 → ¬ (4 ≤ k ∧ k ≤ 6) → ¬ (8 ≤ k ∧ k ≤ 10) → lineWord64 E.data k = lineWord64 D.data k) ∧
        (x.st = 2 → (∀ k, k < 3 → 0 < (sum k).toInt) → t.context n = { x with st := 0 }) ∧
        ((x.st ≠ 2 ∨ ∃ k, k < 3 ∧ (sum k).toInt ≤ 0) → t.contexts = s.contexts))) ∧
    ((x.onCores = false ∨ (∀ m ∈ s.sharing n, m ≠ n → s.eligible m = false) ∨ s.lastDone n = true ∨ (s.heldFor n).isSome = true) →
      exec (.timeSliceExpiry n) s = .next s) ∧
    (∀ m ∈ s.sharing n, x.onCores = true → m ≠ n → s.eligible m = true → s.lastDone n = false → s.heldFor n = none →
      (0 < s.ctxSlice n ∧ s.ctxSlice n ≤ s.timecode.toNat - x.since ∨
        ∀ e ∈ s.launchesOf n, e.2.phase ≠ LPhase.running ∧ s.startable e.2 = false) →
      ∃ t, exec (.timeSliceExpiry n) s = .next t ∧ (t.context n).onCores = false ∧ (t.context n).st = 0 ∧
        ∀ c ∈ s.ctxCores n, (t.core c).preempt = some n) ∧
    (let w := s.ctxNbox n
     let taker := bits w 48 8
     let all := (List.range 256).map s.ctxAt
     let u := s.devUsed epLaunch all
     x.resize = 0 → s.devHave epLaunch [at_] = true →
      (bits w 62 2 ≠ 1 → exec (.resizeRequest n) s = .next (s.devUsed epLaunch [at_])) ∧
      (bits w 62 2 = 1 → s.devHave epLaunch all = false → ∃ t, exec (.resizeRequest n) s = .next t ∧ t.contexts = s.contexts) ∧
      (bits w 62 2 = 1 → s.devHave epLaunch all = true →
        ((boxInside w (u.ctxBox n) = false ∨ fillsBox (u.joined n) = false ∨ ∃ m ∈ u.sharing taker, m ≠ taker) →
          ∃ t, exec (.resizeRequest n) s = .next t ∧ t.contexts = s.contexts ∧
            DevWrites u t epLaunch at_ 88 8 (putBits w 62 2 3).toNat) ∧
        (boxInside w (u.ctxBox n) = true → fillsBox (u.joined n) = true → (∀ m ∈ u.sharing taker, m = taker) →
          ∃ t, exec (.resizeRequest n) s = .next t ∧ t = { u with contexts := t.contexts, barGroups := t.barGroups } ∧
            (t.context n).resize = 1 ∧ ∀ k, u.resizeGroup n = some k → (SMap.getD t.barGroups k .reset).held = true))) ∧
    (x.resize = 1 → (s.atBoundary n = false ∨ ∃ e ∈ s.saves, s.leaves n e.1 = true) → exec (.resizeMove n) s = .next s) ∧
    (x.resize = 1 → s.atBoundary n = true → (∀ e ∈ s.saves, s.leaves n e.1 = false) →
      ∃ t, exec (.resizeMove n) s = .next t ∧ (t.context n).resize = 2) ∧
    (x.resize = 2 → (∀ e ∈ s.cores, s.leaves n e.1 = true → e.2.preempt ≠ some n ∧ e.2.strands.toList.any (·.ofCtx n) = false ∧
        ∀ k ∈ e.2.placed ++ e.2.heldPlaced, k.ctx ≠ some n) →
      ∃ t, exec (.resizeMove n) s = .next t ∧ (t.context n).resize = 0)) ∧
  (∀ (s : State) (c i : Nat), c < 12288 → i < 4 → (s.strand c i).rangeStop = true → ∃ t, exec (.rangeStopTimeout c i) s = .next t ∧
    OnlyStrand c i s t ∧ (t.strand c i).rangeStop = false ∧ (t.strand c i).preempting = true ∧ (t.strand c i).pend.getLsbD 6 = true ∧
    (t.strand c i).preResume = (s.strand c i).preResume) ∧
  (∀ (s : State) (c n : Nat), c < 12288 → s.coreUp c = true → (s.core c).fenced = false → (s.core c).contexts = [n] → c ∉ s.charged →
    ∃ t, exec (.coreTimeCharge c) s = .next t ∧ c ∈ t.charged ∧
      DevWrites s t epLaunch (s.ctxAt n) 32 8 (BitVec.ofInt 64 (s.ctxLevel n 0 - 1)).toNat ∧
      SMap.getD (t.region (regionOf c)).coreNs n 0 = SMap.getD (s.region (regionOf c)).coreNs n 0 + 1 ∧
      ((s.devLine epLaunch (s.ctxAt n).2 (s.ctxAt n).1).poison = false → 1 < s.ctxLevel n 0 → 0 < s.ctxLevel n 1 → 0 < s.ctxLevel n 2 →
        t.contexts = s.contexts) ∧
      ((s.devLine epLaunch (s.ctxAt n).2 (s.ctxAt n).1).poison = false → s.ctxLevel n 0 = 1 → (s.context n).st = 1 →
        (s.context n).onCores = true → s.lastDone n = false → (t.context n).st = 2 ∧ (t.context n).onCores = false)) ∧
  ∀ (s : State) (r uj : Nat), r < 96 →
    let cleared := s.modRegion r fun g => { g with coreNs := [] }
    ((s.region r).coreNs = [] → exec (.energyMeterWindow r uj) s = .next cleared) ∧
    ∀ n ns, (s.region r).coreNs = [(n, ns)] → ∃ t, exec (.energyMeterWindow r uj) s = .next t ∧ (t.region r).coreNs = [] ∧
      DevWrites s t epLaunch (s.ctxAt n) 48 8 (BitVec.ofInt 64 (s.ctxLevel n 2 - (uj * ns / 1280000 : Nat))).toNat

/-- R125, R140, R356, R370, R374, R375, R379, R380, R399, R401: the watchdog's three steps, an asynchronous cause taken at a boundary, the
save and the restoring of a core line by line, the kill of a context, and the restart of a halted strand. The model's choices: what the
cores of a context wait for and in what order its images move (log 36), the places in an image that R380 does not order (log 37), and
how the kill of a context and a restart end (log 39). -/
def Obligations.TurnsEndComplete : Prop :=
  (∀ (s : State) (q : Nat) (l : Launch), q < 64 → (s.queue q).launch = some l →
    let w := hdrWatch (s.queueHdr q)
    (l.phase = LPhase.running → l.stat = 0 → w 0 ≠ 0 → s.finished q l = false →
      (s.scheduled l < w 0 → exec (.watchdogW1 q) s = .next s) ∧
      (w 0 ≤ s.scheduled l → w 1 ≠ 0 → ∃ t, exec (.watchdogW1 q) s = .next t ∧
        ((t.queue q).launch.map (·.phase)) = some LPhase.preempting ∧ (t.context l.ctx).onCores = false)) ∧
    (l.phase = LPhase.preempting → l.stat = 0 → s.timecode.toNat - l.phaseTicks < w 1 → exec (.watchdogW2 q) s = .next s) ∧
    (l.phase = LPhase.preempting → l.stat = 0 → w 1 ≤ s.timecode.toNat - l.phaseTicks →
      (∃ e ∈ s.cores, e.2.preempt = some l.ctx) → ∃ t, exec (.watchdogW2 q) s = .next t ∧
        ((t.queue q).launch.map (·.phase)) = some LPhase.killing) ∧
    (l.phase = LPhase.preempting → l.stat = 0 → (∀ e ∈ s.cores, e.2.preempt ≠ some l.ctx) → ∃ t, exec (.launchEnd q) s = .next t ∧
      ((t.queue q).launch.map (·.phase)) = some LPhase.closing ∧ ((t.queue q).launch.map (·.stat)) = some 2 ∧
      ∀ m ∈ t.strandImages ++ t.migrated, m.strand.cocoon.bind (·.queue) ≠ some q) ∧
    (l.phase = LPhase.killing → s.timecode.toNat - l.phaseTicks < w 2 → exec (.watchdogW3 q) s = .next s) ∧
    (l.phase = LPhase.killing → w 2 ≤ s.timecode.toNat - l.phaseTicks → ∃ t, exec (.watchdogW3 q) s = .next t ∧
      (∀ c ∈ s.killing l.ctx, (t.core c).fenced = true) ∧ ∀ c, c ∉ s.killing l.ctx → t.core c = s.core c)) ∧
  (∀ (s : State) (c i b : Nat), c < 12288 → i < 4 → s.coreUp c = true → (s.core c).fenced = false →
    let u := s.strand c i
    u.run = RunState.running → u.saved = false → u.wait = .no → u.dueBit = some b → 3 ≤ b → b < 8 → u.behind.getLsbD b = true →
    let num := if b = 3 then 35 else if b = 4 then 36 else if b = 5 then 37 else if b = 7 then 39
      else if u.preResume then 40 else 38
    ((s.core c).res = true → ∃ t, exec (.asyncDelivery c i) s = .next t ∧ (t.strand c i).pc = 0x7E000 ∧
      (t.strand c i).cause = BitVec.ofNat 64 (num + 256) ∧ (t.strand c i).epc = u.pc ∧ (t.strand c i).prv = true ∧
      (t.strand c i).badaddr = (if b = 7 then (s.core c).faultOvf else 0) ∧ (t.strand c i).ie = false ∧
      (t.strand c i).pend.getLsbD b = (b == 6 && u.preResume && u.preempting) ∧ (t.strand c i).preResume = false ∧ (t.strand c i).g = u.g) ∧
    ((s.core c).res = false → b = 6 → ∃ t, exec (.asyncDelivery c i) s = .next t ∧
      (u.preResume = false → (t.strand c i).saved = true ∧ (t.strand c i).epc = u.pc) ∧
      (u.preResume = true → (t.strand c i).saved = false ∧ (t.strand c i).preResume = false ∧ (t.strand c i).pc = u.pc) ∧
      (t.strand c i).g = u.g)) ∧
  (∀ (s : State) (c n : Nat), c < 12288 → n < 256 →
    let x := s.core c
    let leaving := s.leaving n c
    (SMap.get? s.saves c = none → x.preempt = some n → s.enginesQuiet c n = true → x.openLogs = [] →
      ((∃ e ∈ s.cores, e.2.preempt = some n ∧ SMap.get? s.saves e.1 = none ∧ s.saveReady e.1 n = false) →
        exec (.preemption n c) s = .next s) ∧
      ((∀ e ∈ s.cores, e.2.preempt = some n → s.saveReady e.1 n = true) →
        (s.runsLaunch n = false → s.strandsOf c n = [] → ∃ t, exec (.preemption n c) s = .next t ∧ (t.core c).preempt = none ∧
          (t.core c).ctx = none ∧ (t.core c).tiles = [] ∧ (t.core c).bkmd0 = 0 ∧ t.strandImages = s.strandImages ∧
          t.coreImages = s.coreImages) ∧
        ((s.runsLaunch n = true ∨ s.strandsOf c n ≠ []) → ∃ t v, exec (.preemption n c) s = .next t ∧ SMap.get? t.saves c = some v ∧
          v.ctx = n ∧ v.back = false ∧
          (∀ i, i < 4 → (s.strand c i).ofCtx n = true → ∀ k, (k < 10 ∨ 16 ≤ k ∧ k < 48 ∨ k = 112) → (i, k) ∈ v.left) ∧
          (∀ i a k, i < 4 → (s.strand c i).ofCtx n = true → a < 8 → (x.accOf a).owner = some i → k < 8 → (i, 48 + 8 * a + k) ∈ v.left) ∧
          (leaving = false → (∀ k, (512 ≤ k ∧ k < 512 + 64 * 63 ∨ 4608 ≤ k ∧ k < 5216 ∨ 5280 ≤ k ∧ k < 5312) → (4, k) ∈ v.left) ∧
            (∀ a k, a < 8 → (x.accOf a).owner = none → k < 8 → (4, 5216 + 8 * a + k) ∈ v.left)) ∧
          (leaving = true → ∀ k, (4, k) ∉ v.left)))) ∧
    (∀ v, SMap.get? s.saves c = some v → v.back = false → v.ctx = n →
      (∀ u k rest, v.left = (u, k) :: rest →
        (s.devQuiet c = false → exec (.preemption n c) s = .next s) ∧
        (∀ pa p asid, s.devQuiet c = true → s.imageAt c v u k = some (.ok pa p, asid) → pa < 2 ^ 40 → ∃ t, exec (.preemption n c) s = .next t ∧
          (∃ w, SMap.get? t.saves c = some w ∧ w.left = rest ∧ w.img = v.img ∧ w.back = false ∧ w.ctx = n) ∧
          ∃ m ∈ t.transit, m.src = c ∧ m.dest = (if p.loc then epHost else epSlice (s.homeOf (pa / 128))) ∧ ∃ r, m.body = .mem r ∧
            r.op = .write ∧ r.line = pa / 128 ∧ r.asid = some asid ∧ r.mask = lineMask u k leaving ∧
            r.data = merge 0 (if u < 4 then s.strandLine c u n k else s.coreLine c k) (lineMask u k leaving))) ∧
      (∀ img, v.left = [] → s.devQuiet c = true → v.img = some img →
        (∀ i, i < 4 → (s.strand c i).ofCtx n = true → (i, (s.strand c i).pend) ∈ v.pends) →
        ∃ t, exec (.preemption n c) s = .next t ∧ (t.core c).preempt = none ∧ (t.core c).ctx = none ∧ (t.core c).tiles = [] ∧
          (t.core c).journal = [] ∧ (t.core c).l1 = [] ∧ (leaving = false → img ∈ t.coreImages) ∧
          ∀ i, i < 4 → (s.strand c i).ofCtx n = true → (t.strand c i).cocoon = none ∧
            ∃ m ∈ t.strandImages ++ t.migrated, m.core = c ∧ m.ctx = n ∧ m.slot = i ∧ m.strand.v = (s.strand c i).v ∧
              m.strand.cocoon = (s.strand c i).cocoon))) ∧
  (∀ (s : State) (c n : Nat), c < 12288 → n < 256 →
    let here := fun (m : CoreImage) => m.core == c && m.ctx == n
    let mine := fun (m : StrandImage) => m.core == c && m.ctx == n
    (SMap.get? s.saves c = none → (s.context n).onCores = true → s.levelsUp n = true →
      ((s.imagesDue c n = false ∨ s.mayRestore c n = false) → exec (.resumeRestore n c) s = .next s) ∧
      (s.imagesDue c n = true → s.mayRestore c n = true → ∃ t v, exec (.resumeRestore n c) s = .next t ∧ SMap.get? t.saves c = some v ∧
        v.ctx = n ∧ v.back = true ∧ v.one = none ∧ v.got = [] ∧
        (∀ m ∈ s.strandImages, mine m = true → ∀ k, (k < 10 ∨ 16 ≤ k ∧ k < 113) → (m.slot, k) ∈ v.left) ∧
        ((∃ m ∈ s.coreImages, here m = true) → ∀ k, (512 ≤ k ∧ k < 512 + 64 * 63 ∨ 4608 ≤ k ∧ k < 5312) → (4, k) ∈ v.left))) ∧
    (∀ v, SMap.get? s.saves c = some v → v.back = true → v.ctx = n →
      (∀ u k rest pa p asid, v.left = (u, k) :: rest → s.imageAt c v u k = some (.ok pa p, asid) →
        let at_ : DevAt := (pa / 128, p.loc)
        let d := s.devLine c at_.2 at_.1
        (d.fresh = false → d.busy = false → d.want = false → ∃ t, exec (.resumeRestore n c) s = .next t ∧ DevReads t c at_) ∧
        (d.fresh = true → ∃ t w, exec (.resumeRestore n c) s = .next t ∧ SMap.get? t.saves c = some w ∧ w.left = rest ∧
          w.line u k = s.devData c at_)) ∧
      (∀ m, v.left = [] → v.one = none → s.strandImages.filter mine = [m] → s.coreImages.find? here = none → m.slot < 4 →
        (s.core c).preempt = none → (s.cluster (clusterOf m.core)).paused = [] → ∃ t, exec (.resumeRestore n c) s = .next t ∧
          t.strand c m.slot = s.restored c m.slot m v ∧ (c, m.slot) ∉ t.parked ∧ m ∉ t.strandImages ∧ SMap.get? t.saves c = none ∧
          (∀ a ∈ v.owned m.slot, (t.core c).accOf a = { words := accOfLines fun k => v.line m.slot (48 + 8 * a + k), owner := some m.slot })) ∧
      ∀ m, v.left = [] → v.one = none → s.strandImages.filter mine = [] → s.coreImages.find? here = some m → m.spill = [] → m.refill = [] →
        m.bufs = [] → m.undelivered = [] → ∃ t, exec (.resumeRestore n c) s = .next t ∧ (t.core c).bkmd0 = v.word 4 0x90000 ∧
          (t.core c).ctx = some n ∧ (t.core c).l1 = [] ∧ (t.core c).streams = m.streams ∧
          (∀ a, a < 8 → (t.core c).accOf a = { words := accOfLines fun k => v.line 4 (5216 + 8 * a + k), owner := none }) ∧
          (∀ id, id < 64 → let e := (t.core c).copyId id
            [e.w0, e.w1, e.w2, e.w3] = (List.range 4).map fun k => v.word 4 (0xA5000 + 32 * id + 8 * k)) ∧
          (∀ g, g < 16 → ((t.core c).group g).desc = v.word 4 (0x90000 + 8 * (402 + 2 * g))) ∧
          ∀ k ∈ t.coreImages, ¬ (k.core = c ∧ k.ctx = n))) ∧
  (∀ (s : State) (n : Nat), n < 256 →
    (s.bar2 = false → exec (.killctx n) s = .next s) ∧
    (s.bar2 = true → s.killBusy = false → ∃ t, exec (.killctx n) s = .next t ∧ (t.context n).onCores = false ∧ (t.context n).st = 3 ∧
      t.killBusy = true ∧ t.killCtx = n ∧ ∀ c i, i < 4 → (t.strand c i).ofCtx n = false) ∧
    (s.bar2 = true → s.killBusy = true →
      let k := s.killCtx
      let d := s.ctxAt k
      let u := s.killTensors (s.ctxAsid k)
      (s.devHave epLaunch [d] = false → ∃ t, exec (.killctx n) s = .next t ∧ t.contexts = s.contexts ∧ t.killBusy = true) ∧
      (s.devHave epLaunch [d] = true →
        (u.killDone k = false → exec (.killctx n) s = .next u) ∧
        (u.killDone k = true → u.ctxValid k = true → ∃ t, exec (.killctx n) s = .next t ∧ t.killBusy = u.killBusy ∧
          DevWrites u t epLaunch d 6 2 (u.ctxFlags k / 2 * 2)) ∧
        (u.killDone k = true → u.ctxValid k = false → u.devIdle epLaunch d = true → ∃ t, exec (.killctx n) s = .next t ∧ t.killBusy = false ∧
          (t.context k).st = 0 ∧ t.msix = u.msix ++ [64] ∧ (∀ m ∈ t.strandImages ++ t.migrated, m.ctx ≠ k) ∧ (∀ m ∈ t.coreImages, m.ctx ≠ k) ∧
          ∀ c, (u.core c).ctx = some k → (t.core c).ctx = none ∧ (t.core c).tiles = [] ∧ (t.core c).l1 = [] ∧ (t.core c).bkmd0 = 0)))) ∧
  ∀ (s : State) (c i : Nat), c < 12288 → i < 4 → s.bar2 = true → (s.core c).fenced = false → (s.core c).dark = false →
    ((s.strand c i).run ≠ RunState.halted → exec (.restart c i) s = .next s) ∧
    ((s.strand c i).run = RunState.halted → (s.strand c i).ended = false → ∃ t, exec (.restart c i) s = .next t ∧
      OnlyStrand c i s t ∧ t.strand c i = { s.strand c i with run := .running }) ∧
    ((s.strand c i).run = RunState.halted → (s.strand c i).ended = true → ∃ t, exec (.restart c i) s = .next t ∧
      t.strand c i = { s.strand c i with run := .idle, ended := false } ∧ (c, i) ∈ t.parked)

/-! ## Power and management -/

/-- R68, R69, R383, R387 to R389, R391 to R394: a governor's window records SR and asks for a step within its bounds; a step up waits for
the rail; a network region's window slews its rail by 20 mV (the model's choice, DESIGN CHOICE, assumption log 13) and clears its measures; lost phases
cap clusters and end leases; a cluster whose fallback fails is dark; a gated region that a partition includes is switched on, with a ramp beside a heavy
neighbour, and a region that none includes is gated; MELT starts and ends refreeze. What happens to a step-up that is in progress when a
region falls back, and that a lease ends with its tick, are the model's choices (log 40); so are the windows of a rail that waits (log 49). -/
def Obligations.PowerComplete : Prop :=
  (∀ (s : State) (cl : Nat), cl < 1536 →
    let k := s.cluster cl
    let hi := s.stepCap cl
    let lo := bits k.clcfg 7 3
    ((k.dark = true ∨ (s.region (regionOfCluster cl)).on = false) → ∀ cyc stl, exec (.clusterGovernorWindow cl cyc stl) s = .next s) ∧
    (k.dark = false → (s.region (regionOfCluster cl)).on = true → ∀ cyc stl,
      let sr := if cyc = 0 then 0 else min 255 (256 * stl / cyc)
      ∃ t, exec (.clusterGovernorWindow cl cyc stl) s = .next t ∧ t = { s with clusters := t.clusters, regions := t.regions } ∧
        (t.cluster cl).sr = sr ∧ (t.cluster cl).step = k.step ∧
        (∀ j, j ≠ cl → t.cluster j = s.cluster j) ∧
        (k.want = none → k.leaseTick ≠ some s.timecode.toNat → k.clcfg.getLsbD 0 = true → k.bias = 0 → k.step ≤ hi →
          (bits k.clcfg 24 8 ≤ sr → lo < k.step → 550 ≤ k.volts (k.step - 1) → (t.cluster cl).want = some (k.step - 1)) ∧
          (sr < bits k.clcfg 24 8 → bits k.clcfg 16 8 < sr → lo ≤ k.step → (t.cluster cl).want = none) ∧
          (sr < bits k.clcfg 24 8 → sr ≤ bits k.clcfg 16 8 → lo ≤ k.step → k.step < hi → 550 ≤ k.volts (k.step + 1) →
            (t.cluster cl).want = some (k.step + 1)))) ∧
    (∀ w, k.want = some w → k.queued = none →
      let g := s.region (regionOfCluster cl)
      let mv := if k.fb then 700 else g.vrail
      (k.step < w → (mv : Int) < k.volts w → exec (.clusterStepChange cl) s = .next s) ∧
      ((w ≤ k.step ∨ k.volts w ≤ (mv : Int)) → ∃ t, exec (.clusterStepChange cl) s = .next t ∧
        t = { s with clusters := t.clusters, regions := t.regions } ∧ t.cluster cl = { k with
          step := w, want := none, queued := none, fb := k.fb || (g.mode == 2 && !k.dark && decide (w ≤ hi)) } ∧
        ∀ j, j ≠ cl → t.cluster j = s.cluster j)) ∧
    ((k.fb = false ∨ k.dark = true) → exec (.fallbackFailure cl) s = .next s) ∧
    (k.fb = true → k.dark = false → (∀ c ∈ clusterCores cl, (s.core c).cocoons = []) → s.logs = [] → s.bumps = [] →
      ∃ t, exec (.fallbackFailure cl) s = .next t ∧ (t.cluster cl).dark = true ∧
        ∀ c ∈ clusterCores cl, s.live c = true → (t.core c).dark = true ∧ (t.core c).ls = [] ∧ (t.core c).nodes = (s.core c).nodes)) ∧
  (∀ (s : State) (r : Nat), r < 96 →
    let g := s.region r
    let d := if g.routed = 0 then 0 else 256 * g.defl / g.routed
    let smax := bits g.ngcfg 7 3
    (∃ t, exec (.netGovernorWindow r) s = .next t ∧ t = { s with regions := t.regions } ∧ (t.region r).routed = 0 ∧ (t.region r).defl = 0 ∧
      (t.region r).qmax = 0 ∧ (t.region r).fmax = 0 ∧ (t.region r).nstep = g.nstep ∧ (∀ j, j ≠ r → t.region j = s.region j) ∧
      (g.mode ≠ 2 → g.wantStep = none → g.ngcfg.getLsbD 0 = true → g.nstep < smax →
        (bits g.ngcfg 36 8 ≤ d ∨ bits g.ngcfg 23 5 ≤ g.qmax ∨ bits g.ngcfg 14 4 ≤ g.fmax) →
        (t.region r).wantStep = some (g.nstep + 1)) ∧
      ((g.wantStep.isSome = true ∨ netStep g = g.nstep) → (t.region r).wantStep = g.wantStep ∧
        (t.region r).vrail = if g.vrail < g.vtgt then min g.vtgt (g.vrail + 20) else max g.vtgt (g.vrail - 20))) ∧
    (∀ w, g.wantStep = some w →
      let mv := if g.mode = 2 then 700 else g.vrail
      (g.nstep < w → mv < netVolts w → exec (.netStepChange r) s = .next s) ∧
      (w ≤ g.nstep ∨ netVolts w ≤ mv → ∃ t, exec (.netStepChange r) s = .next t ∧ t = { s with regions := t.regions } ∧
        (t.region r).nstep = w ∧ (t.region r).wantStep = none)) ∧
    (∀ lost,
      let live := g.plive - lost
      let mode := if 12 ≤ live then 0 else if 6 ≤ live then 1 else 2
      ∃ t, exec (.phaseLoss r lost) s = .next t ∧ (t.region r).plive = live ∧ (t.region r).mode = mode ∧
        (mode ≠ g.mode → mode ≠ 0 → ∀ cl ∈ regionClusters r,
          let k := s.cluster cl
          let u := t.cluster cl
          let cap := min (match k.lease with | some l => l.lstep | none => min (bits k.clcfg 10 3) 4) 2
          u.paused = [] ∧ (k.lease ≠ none → u.leaseRow = some (min 4 (k.leaseRow.getD 4))) ∧
          (mode = 2 → k.dark = false → k.step ≤ cap → u.fb = true) ∧
          (cap < k.step → k.want = none → 550 ≤ k.volts cap → u.want = some cap))) ∧
    let wanted := ∃ n, n < 256 ∧ s.ctxValid n = true ∧ ∃ c ∈ regionCores r, boxHasCluster (s.ctxBox n) (clusterOf c) = true
    (∀ heavy : List Nat,
      ((g.ramp = true ∨ g.on = true ∧ wanted) → exec (.regionSwitchOn r heavy) s = .next s) ∧
      (g.ramp = false → ¬ wanted → exec (.regionSwitchOn r heavy) s = .next (s.modRegion r fun g => { g with on := false })) ∧
      (g.on = false → g.ramp = false → wanted →
        ((∃ j ∈ regionNeighbours r, j ∈ heavy) → ∃ t, exec (.regionSwitchOn r heavy) s = .next t ∧ t = { s with regions := t.regions } ∧
          (t.region r).ramp = true ∧ (t.region r).on = false ∧ (t.region r).rampEnd = s.timecode.toNat + 20000 ∧
          ∀ j, j ∈ (t.region r).heavy ↔ j ∈ regionNeighbours r ∧ j ∈ heavy) ∧
        ((∀ j ∈ regionNeighbours r, j ∉ heavy) → exec (.regionSwitchOn r heavy) s = .next (s.modRegion r fun g => { g with on := true })))) ∧
    (g.ramp = true → g.rampEnd ≤ s.timecode.toNat →
      exec (.rampEnd r) s = .next (s.modRegion r fun g => { g with ramp := false, on := true })) ∧
    ((g.ramp = false ∨ s.timecode.toNat < g.rampEnd) → exec (.rampEnd r) s = .next s)) ∧
  ∀ (s : State) (melt : BitVec 16),
    (0xF333 ≤ melt.toNat → ∃ t, exec (.meltPublish melt) s = .next t ∧ t.rfz = true) ∧
    (melt.toNat < 0xF333 → exec (.meltPublish melt) s =
      .next { s with melt, rfz := s.rfz && decide (0x4CCD < melt.toNat) })

/-- R390, R400, R402, R403, R404: a write into the management window stores a register's writable fields; a frame brings the peer's
timecode, and with it accesses of the peer's, one of which at a time goes to its line's home (R85, R321); a follower's correction is kept within 200 ppm; an engine takes its next transfer record, skips an ill-formed one, reads a line at a time at its home and sends it, and then its completion word; RESYNC writes its record, or its buffer where the boot failed. The accesses of a peer one at a time, the
record's line read at the end of the tick, and what a lost link does to LOCK are the model's choices (assumption log 41). -/
def Obligations.ManagementComplete : Prop :=
  (∀ (s : State) (v : W64), s.bar2 = true →
    (s.anyQueueOn = false → exec (.mgmtRegisterWrite 0x8 v) s = .next { s with qbase := v &&& 0xFFFFFFFF80 } ∧
      exec (.mgmtRegisterWrite 0x10 v) s = .next { s with cbase := v &&& 0xFFFFFFFF80 }) ∧
    (s.anyQueueOn = true → exec (.mgmtRegisterWrite 0x8 v) s = .next s ∧ exec (.mgmtRegisterWrite 0x10 v) s = .next s) ∧
    exec (.mgmtRegisterWrite 0x18 v) s = .next { s with tcMaster := v.getLsbD 2 } ∧
    (∀ cl, cl < 1536 → ∃ t, exec (.mgmtRegisterWrite (0x100000 + 32 * cl) v) s = .next t ∧
      t.cluster cl = { s.cluster cl with clcfg := v &&& 0xFFFF1F81 } ∧ t = { s with clusters := t.clusters } ∧
      ∀ j, j ≠ cl → t.cluster j = s.cluster j) ∧
    ∀ c, c < 12288 →
      let base := fun (off : Nat) => SMap.getD s.counts off 0
      ∃ t, exec (.mgmtRegisterWrite (0x280000 + 8 * c) 0) s = .next t ∧
        t.core c = { s.core c with errors := (BitVec.ofNat 64 (s.core c).errors).toNat - (base (0x280000 + 8 * c)).toNat
                                   faultOvf := (s.core c).faultOvf - base (ovfAt c) } ∧
        t = { s with cores := t.cores, counts := t.counts } ∧ SMap.get? t.counts (0x280000 + 8 * c) = none ∧
        ∀ k, k ≠ c → t.core k = s.core k) ∧
  (∀ (s : State) (h : Nat), h < 16 →
    let ep := epOptical h
    let a := s.engineHdr h
    let at_ := hdrRing a + 64 * (hdrHead a % hdrSize a)
    let ln : DevAt := (physLine at_, false)
    let r : Vector W64 8 := Vector.ofFn fun i => lineWord64 (s.devData ep ln) (at_ % 128 / 8 + i.val)
    let e := s.engine h
    (∀ f, s.running = false → exec (.peerFrame h f) s = .next s ∧ ((s.engine h).transfer = none → exec (.transferRecord h) s = .next s)) ∧
    (s.running = true → ∀ tc,
      (e.serving = true ∨ e.inq = [] → exec (.peerFrame h ⟨tc, none⟩) s = .next (s.modEngine h fun x => { x with peerTc := some tc })) ∧
      ∀ pa (data : List (BitVec 8)), pa < 2 ^ 40 → data ≠ [] → pa % 128 + data.length ≤ 128 →
        let w : MemReq := { op := .write, line := pa / 128, off := pa % 128, mask := byteMask (pa % 128) data.length
                            data := BitVec.ofNat 1024 (bytesNum data) <<< (8 * (pa % 128)), who := .peer h, asid := none, px := none }
        let r : MemReq := { op := .read, line := pa / 128, off := pa % 128, mask := 0, data := 0, who := .peer h, asid := none, px := none }
        ∀ x ∈ [(PeerOp.write pa data, w), (.read pa, r)], ∃ t, exec (.peerFrame h ⟨tc, some x.1⟩) s = .next t ∧
          (e.serving = true → t = { s with optical := t.optical } ∧ t.engine h = { e with peerTc := some tc, inq := e.inq ++ [x.2] }) ∧
          (e.serving = false → e.inq = [] → NetOnly { s with optical := t.optical } t ∧
            t.engine h = { e with peerTc := some tc, serving := true } ∧
            Mails s t (epOptical h) (epSlice (s.homeOf (pa / 128))) 0 0 (.mem x.2))) ∧
    ((s.engine h).transfer = none →
      ((hdrOn a 64 = false ∨ hdrTail a ≤ hdrHead a) → exec (.transferRecord h) s = .next s) ∧
      (s.running = true → hdrOn a 64 = true → hdrHead a < hdrTail a →
        let d := s.devLine ep false ln.1
        let hd := fun (u : State) => (u.devLine ep false (s.engineAt h).1).data
        (d.fresh = false → d.busy = false → d.want = false → ∃ t, exec (.transferRecord h) s = .next t ∧ DevReads t ep ln) ∧
        (d.fresh = true → transferIll r = false → ∃ t, exec (.transferRecord h) s = .next t ∧ (t.engine h).transfer = some r ∧
          (t.engine h).done = 0 ∧ DevWrites s t ep (s.engineAt h) (64 * (h % 2) + 32) 8 (hdrHead a + 1)) ∧
        (d.fresh = true → transferIll r = true → ∃ t, exec (.transferRecord h) s = .next t ∧ (t.engine h).transfer = none ∧
          lineWord64 (hd t) (8 * (h % 2) + 4) = BitVec.ofNat 64 (hdrHead a + 1) ∧
          ((s.devLine ep false (s.engineAt h).1).poison = false →
            lineWord64 (hd t) (8 * (h % 2) + 5) = BitVec.ofNat 64 (hdrDone a + 1)) ∧
          (t.engine h).sent = if r[3]?.getD 0 = 0 then (s.engine h).sent
            else (s.engine h).sent ++ [.word (r[3]?.getD 0).toNat 0xFFFFFFFFFFFFFFFF]))) ∧
    ∀ r : Vector W64 8, (s.engine h).transfer = some r →
      let k := (s.engine h).done
      (128 * k < (r[2]?.getD 0).toNat → exec (.completionWordWrite h) s = .next s ∧
        (e.reading = true → exec (.transferRecord h) s = .next s) ∧
        (e.reading = false → ∃ t, exec (.transferRecord h) s = .next t ∧ NetOnly { s with optical := t.optical } t ∧
          t.engine h = { e with reading := true } ∧
          let ln := ((r[1]?.getD 0).toNat + 128 * k) / 128
          Mails s t (epOptical h) (epSlice (s.homeOf ln)) 0 0
            (.mem { op := .read, line := ln, off := 0, mask := 0, data := 0, who := .xfer h, asid := none, px := none })) ∧
        ∀ (m : Msg) kind q px data req, (s.transit.find? fun x => x.uid == m.uid) = some m → s.msg? m.uid = none → 1 ≤ m.nf → m.nf ≤ 9 →
          m.dest = epOptical h → ((s.collect m).reasmOf m.dest).done.head? = some m.uid → m.badHeader = false → m.poison = false →
          m.body = .ans (.xfer h) kind q px data req → ∃ t, exec (.messageDelivery m.uid) s = .next t ∧
            t.engine h = { e with
              reading := false, done := k + 1
              sent := e.sent ++ [.line ((r[0]?.getD 0).toNat + 128 * k) (data.getD 0) (kind == 4)] }) ∧
      ((r[2]?.getD 0).toNat ≤ 128 * k → exec (.transferRecord h) s = .next s ∧ ∃ t, exec (.completionWordWrite h) s = .next t ∧
        (t.engine h).transfer = none ∧ DevWrites s t ep (s.engineAt h) (64 * (h % 2) + 40) 8 (hdrDone a + 1) ∧
        (t.engine h).sent = if r[3]?.getD 0 = 0 then (s.engine h).sent
          else (s.engine h).sent ++ [.word (r[3]?.getD 0).toNat s.timecode])) ∧
  (∀ (s : State) (ofs slew : Int),
    (s.tcMaster = true → ∀ o, exec (.timecodeCorrection o slew) s = .next s) ∧
    (s.tcMaster = false → exec (.timecodeCorrection none slew) s = .next { s with tcLock := false }) ∧
    (s.tcMaster = false → ∃ t, exec (.timecodeCorrection (some ofs) slew) s = .next t ∧
      t = { s with tcOfs := ofs, tcLock := t.tcLock, tcSlew := t.tcSlew } ∧ (t.tcLock = true ↔ -5000 ≤ ofs ∧ ofs ≤ 5000) ∧
      -200 ≤ t.tcSlew ∧ t.tcSlew ≤ 200 ∧ (-200 ≤ slew → slew ≤ 200 → t.tcSlew = slew))) ∧
  ∀ (s : State) (v : W64),
    let a := v &&& 0xFFFFFFFF80
    ((s.booted = false ∨ s.resyncSt = 1) → exec (.resync v) s = .next s) ∧
    (s.booted = true → s.resyncSt ≠ 1 →
      exec (.resync v) s = .next { s with resyncAddr := a, resyncSt := 1, resyncDue := true }) ∧
    (s.resyncDue = true →
      (s.bootstat = 0 → s.resyncTake.resyncSt = s.resyncSt ∧ s.resyncTake.resyncDue = false ∧ ∀ k j, k < 33 → j < 16 →
        lineWord64 (s.resyncTake.devLine epHost false (s.resyncAddr.toNat / 128 + k)).data j =
          BitVec.ofNat 64 ((s.resyncWords true)[16 * k + j]?.getD 0)) ∧
      (s.bootstat ≠ 0 → s.resyncTake = { s with resyncDue := false, resyncSt := 2, msix := s.msix ++ [64]
                                                resyncBuf := (s.resyncWords false).flatMap fun x => leBytes 8 x }))

/-! ## Places and targets -/

/-- R13: the device has 12,288 cores of four strands, 1,536 clusters and 96 regions, and its queues, contexts and engines are numbered to
64, 256 and 16: an event that names another place stops by name, and nothing else. That an event stops so is the model's choice
(assumption log 18): the spec has no such event. -/
def Obligations.NoSuchPlaceStops : Prop :=
  ∀ (s : State) (n j : Nat), let stops := fun (i : Instr) => exec i s = .fault .noSuchPlace
    (12288 ≤ n → ∀ i ∈ [Instr.coreReset n, .routerCycle n [], .injectionStarvation n, .coreTimeCharge n, .instructionLineFill n j,
      .barrierArrival n j, .nodeRelease n j, .spawnAccept n j, .splitApply n j, .cocoonPickup n j, .asyncDelivery n j,
      .timecodeWaitExpiry n j, .sprintRequest n j, .logtIdRequest n j, .grpsetTimeout n j, .hostCompletion n j, .restart n j,
      .rangeStopTimeout n j, .bmodeComplete n j, .faultReply n j, .drainComplete n j, .ofillComplete n j, .loaderPushStart n j,
      .matrixOpStart n j, .matrixOpEnd n j, .tlbBump j n, .bumpAck j n, .preemption j n, .resumeRestore j n], stops i) ∧
    (4 ≤ j → ∀ i ∈ [Instr.instructionLineFill n j, .barrierArrival n j, .spawnAccept n j, .splitApply n j, .cocoonPickup n j,
      .asyncDelivery n j, .timecodeWaitExpiry n j, .sprintRequest n j, .logtIdRequest n j, .grpsetTimeout n j, .hostCompletion n j,
      .restart n j, .rangeStopTimeout n j], stops i) ∧
    (1536 ≤ n → ∀ i ∈ [Instr.clusterGovernorWindow n j j, .clusterStepChange n, .fallbackFailure n, .leaseExpiry n,
      .leaseEnergyWindow n j, .clusterSequencerIntake n], stops i) ∧
    (96 ≤ n → ∀ i ∈ [Instr.netGovernorWindow n, .netStepChange n, .phaseLoss n j, .regionSwitchOn n [j], .rampEnd n,
      .energyMeterWindow n j], stops i) ∧
    (80 ≤ n → stops (.queueHeaderNotify n)) ∧
    (64 ≤ n → ∀ i ∈ [Instr.launchTake n, .launchStart n, .launchEnd n, .parkedDispatch n, .watchdogW1 n,
      .watchdogW2 n, .watchdogW3 n], stops i) ∧
    (256 ≤ n → ∀ i ∈ [Instr.contextLevelIncrement n, .timeSliceExpiry n, .resizeRequest n, .resizeMove n, .killctx n], stops i) ∧
    (16 ≤ n → ∀ i ∈ [Instr.peerFrame n ⟨0, none⟩, .transferRecord n, .completionWordWrite n], stops i)

/-- R181: the line of a PC-relative target is the branch's own line plus the signed line offset, modulo 2^58; bits [5:3] are 0, and the
slot is the immediate's; with the rule's example. -/
def Obligations.BranchTargets : Prop :=
  (∀ (pc : W64) (imm : W48),
    (pcTarget pc imm).extractLsb' 6 58 = pc.extractLsb' 6 58 + (imm.extractLsb' 3 45).signExtend 58 ∧
    (pcTarget pc imm).extractLsb' 3 3 = 0 ∧ (pcTarget pc imm).extractLsb' 0 3 = imm.extractLsb' 0 3) ∧
  pcTarget 0x0000000200000400 0xFFFFFFFFFFF3 = 0x0000000200000383
end

