-- ==== Sys2Proof/Laws/State.lean ====
section
/-!
SUPPORT. Laws of the state's updates: reading a container after a write of it, and one lemma for each field that an update of
a core or of a strand leaves alone.
-/

namespace Sys2Proof.Machine

/-! ## Sparse maps -/

@[simp] theorem SMap.get?_set_same {α : Type} (m : SMap α) (k : Nat) (x : α) : SMap.get? (SMap.set m k x) k = some x := by
  induction m with
  | nil => simp [SMap.set, SMap.get?]
  | cons e m ih =>
    obtain ⟨j, y⟩ := e
    unfold SMap.set
    split
    · simp [SMap.get?]
    · split
      · simp [SMap.get?]
      · rename_i h; simp [SMap.get?, Ne.symm h, ih]

theorem SMap.get?_set_other {α : Type} (m : SMap α) {k j : Nat} (x : α) (h : j ≠ k) :
    SMap.get? (SMap.set m k x) j = SMap.get? m j := by
  induction m with
  | nil => simp [SMap.set, SMap.get?, Ne.symm h]
  | cons e m ih =>
    obtain ⟨i, y⟩ := e
    unfold SMap.set
    split
    · simp [SMap.get?, Ne.symm h]
    · split
      · rename_i hk; subst hk; simp [SMap.get?, Ne.symm h]
      · simp [SMap.get?, ih]

@[simp] theorem SMap.getD_set_same {α : Type} (m : SMap α) (k : Nat) (x d : α) : SMap.getD (SMap.set m k x) k d = x := by
  simp [SMap.getD]

theorem SMap.getD_set_other {α : Type} (m : SMap α) {k j : Nat} (x d : α) (h : j ≠ k) :
    SMap.getD (SMap.set m k x) j d = SMap.getD m j d := by
  simp [SMap.getD, SMap.get?_set_other m x h]

/-! ## Cores and strands -/

@[simp] theorem State.core_setCore_same (s : State) (c : Nat) (x : Core) : (s.setCore c x).core c = x := by
  simp [State.core, State.setCore]

theorem State.core_setCore_other (s : State) {c k : Nat} (x : Core) (h : k ≠ c) : (s.setCore c x).core k = s.core k := by
  simp [State.core, State.setCore, SMap.getD_set_other _ _ _ h]

@[simp] theorem State.core_modCore_same (s : State) (c : Nat) (f : Core → Core) : (s.modCore c f).core c = f (s.core c) := by
  simp [State.modCore]

theorem State.core_modCore_other (s : State) {c k : Nat} (f : Core → Core) (h : k ≠ c) : (s.modCore c f).core k = s.core k :=
  s.core_setCore_other _ h

theorem Core.strand_setStrand_same (x : Core) {i : Nat} (t : Strand) (h : i < 4) : (x.setStrand i t).strand i = t := by
  simp [Core.strand, Core.setStrand, h]

theorem Core.strand_setStrand_other (x : Core) {i j : Nat} (t : Strand) (h : j ≠ i) :
    (x.setStrand i t).strand j = x.strand j := by
  simp [Core.strand, Core.setStrand, Ne.symm h]

theorem State.strand_modStrand_same (s : State) (c : Nat) {i : Nat} (f : Strand → Strand) (h : i < 4) :
    (s.modStrand c i f).strand c i = f (s.strand c i) := by
  simp [State.strand, State.modStrand, State.setStrand, Core.strand_setStrand_same _ _ h]

theorem State.strand_modStrand_other (s : State) {c i k j : Nat} (f : Strand → Strand) (h : (k, j) ≠ (c, i)) :
    (s.modStrand c i f).strand k j = s.strand k j := by
  unfold State.modStrand State.setStrand State.strand
  by_cases hk : k = c
  · subst hk
    have hj : j ≠ i := fun e => h (by rw [e])
    rw [State.core_modCore_same, Core.strand_setStrand_other _ _ hj]
  · rw [State.core_modCore_other _ _ hk]

/-- Changing a strand changes no other part of its core. -/
theorem State.core_modStrand (s : State) (c i k : Nat) (f : Strand → Strand) :
    (s.modStrand c i f).core k = { s.core k with strands := ((s.modStrand c i f).core k).strands } := by
  unfold State.modStrand State.setStrand
  by_cases hk : k = c
  · subst hk; rw [State.core_modCore_same]; rfl
  · rw [State.core_modCore_other _ _ hk]

/-! ## Fields that an update leaves alone -/

@[simp] theorem State.setCore_routers (s : State) (c : Nat) (x : Core) : (s.setCore c x).routers = s.routers := rfl
@[simp] theorem State.setCore_regions (s : State) (c : Nat) (x : Core) : (s.setCore c x).regions = s.regions := rfl
@[simp] theorem State.setCore_transit (s : State) (c : Nat) (x : Core) : (s.setCore c x).transit = s.transit := rfl
@[simp] theorem State.setCore_inbox (s : State) (c : Nat) (x : Core) : (s.setCore c x).inbox = s.inbox := rfl
@[simp] theorem State.setCore_reasm (s : State) (c : Nat) (x : Core) : (s.setCore c x).reasm = s.reasm := rfl
@[simp] theorem State.setCore_held (s : State) (c : Nat) (x : Core) : (s.setCore c x).held = s.held := rfl
@[simp] theorem State.setCore_tags (s : State) (c : Nat) (x : Core) : (s.setCore c x).tags = s.tags := rfl
@[simp] theorem State.setCore_netord (s : State) (c : Nat) (x : Core) : (s.setCore c x).netord = s.netord := rfl
@[simp] theorem State.setCore_netdiam (s : State) (c : Nat) (x : Core) : (s.setCore c x).netdiam = s.netdiam := rfl
@[simp] theorem State.setCore_home (s : State) (c : Nat) (x : Core) : (s.setCore c x).home = s.home := rfl
@[simp] theorem State.setCore_proxies (s : State) (c : Nat) (x : Core) : (s.setCore c x).proxies = s.proxies := rfl
@[simp] theorem State.setCore_preqs (s : State) (c : Nat) (x : Core) : (s.setCore c x).preqs = s.preqs := rfl
@[simp] theorem State.setCore_slices (s : State) (c : Nat) (x : Core) : (s.setCore c x).slices = s.slices := rfl
@[simp] theorem State.setCore_hbm (s : State) (c : Nat) (x : Core) : (s.setCore c x).hbm = s.hbm := rfl
@[simp] theorem State.setCore_hmeta (s : State) (c : Nat) (x : Core) : (s.setCore c x).hmeta = s.hmeta := rfl
@[simp] theorem State.setCore_hostMem (s : State) (c : Nat) (x : Core) : (s.setCore c x).hostMem = s.hostMem := rfl
@[simp] theorem State.setCore_dev (s : State) (c : Nat) (x : Core) : (s.setCore c x).dev = s.dev := rfl
@[simp] theorem State.setCore_hostOut (s : State) (c : Nat) (x : Core) : (s.setCore c x).hostOut = s.hostOut := rfl
@[simp] theorem State.setCore_hbmCorr (s : State) (c : Nat) (x : Core) : (s.setCore c x).hbmCorr = s.hbmCorr := rfl
@[simp] theorem State.setCore_hbmUncorr (s : State) (c : Nat) (x : Core) : (s.setCore c x).hbmUncorr = s.hbmUncorr := rfl
@[simp] theorem State.setCore_tensors (s : State) (c : Nat) (x : Core) : (s.setCore c x).tensors = s.tensors := rfl
@[simp] theorem State.setCore_logs (s : State) (c : Nat) (x : Core) : (s.setCore c x).logs = s.logs := rfl
@[simp] theorem State.setCore_barGroups (s : State) (c : Nat) (x : Core) : (s.setCore c x).barGroups = s.barGroups := rfl
@[simp] theorem State.setCore_devSeqr (s : State) (c : Nat) (x : Core) : (s.setCore c x).devSeqr = s.devSeqr := rfl
@[simp] theorem State.setCore_cluSeqrs (s : State) (c : Nat) (x : Core) : (s.setCore c x).cluSeqrs = s.cluSeqrs := rfl
@[simp] theorem State.setCore_queues (s : State) (c : Nat) (x : Core) : (s.setCore c x).queues = s.queues := rfl
@[simp] theorem State.setCore_contexts (s : State) (c : Nat) (x : Core) : (s.setCore c x).contexts = s.contexts := rfl
@[simp] theorem State.setCore_pools (s : State) (c : Nat) (x : Core) : (s.setCore c x).pools = s.pools := rfl
@[simp] theorem State.setCore_parked (s : State) (c : Nat) (x : Core) : (s.setCore c x).parked = s.parked := rfl
@[simp] theorem State.setCore_migrated (s : State) (c : Nat) (x : Core) : (s.setCore c x).migrated = s.migrated := rfl
@[simp] theorem State.setCore_strandImages (s : State) (c : Nat) (x : Core) : (s.setCore c x).strandImages = s.strandImages := rfl
@[simp] theorem State.setCore_coreImages (s : State) (c : Nat) (x : Core) : (s.setCore c x).coreImages = s.coreImages := rfl
@[simp] theorem State.setCore_saves (s : State) (c : Nat) (x : Core) : (s.setCore c x).saves = s.saves := rfl
@[simp] theorem State.setCore_clusters (s : State) (c : Nat) (x : Core) : (s.setCore c x).clusters = s.clusters := rfl
@[simp] theorem State.setCore_melt (s : State) (c : Nat) (x : Core) : (s.setCore c x).melt = s.melt := rfl
@[simp] theorem State.setCore_rfz (s : State) (c : Nat) (x : Core) : (s.setCore c x).rfz = s.rfz := rfl
@[simp] theorem State.setCore_optical (s : State) (c : Nat) (x : Core) : (s.setCore c x).optical = s.optical := rfl
@[simp] theorem State.setCore_bumps (s : State) (c : Nat) (x : Core) : (s.setCore c x).bumps = s.bumps := rfl
@[simp] theorem State.setCore_bumpReqs (s : State) (c : Nat) (x : Core) : (s.setCore c x).bumpReqs = s.bumpReqs := rfl
@[simp] theorem State.setCore_timecode (s : State) (c : Nat) (x : Core) : (s.setCore c x).timecode = s.timecode := rfl
@[simp] theorem State.setCore_qbase (s : State) (c : Nat) (x : Core) : (s.setCore c x).qbase = s.qbase := rfl
@[simp] theorem State.setCore_cbase (s : State) (c : Nat) (x : Core) : (s.setCore c x).cbase = s.cbase := rfl
@[simp] theorem State.setCore_tcMaster (s : State) (c : Nat) (x : Core) : (s.setCore c x).tcMaster = s.tcMaster := rfl
@[simp] theorem State.setCore_tcLock (s : State) (c : Nat) (x : Core) : (s.setCore c x).tcLock = s.tcLock := rfl
@[simp] theorem State.setCore_tcOfs (s : State) (c : Nat) (x : Core) : (s.setCore c x).tcOfs = s.tcOfs := rfl
@[simp] theorem State.setCore_tcSlew (s : State) (c : Nat) (x : Core) : (s.setCore c x).tcSlew = s.tcSlew := rfl
@[simp] theorem State.setCore_resyncAddr (s : State) (c : Nat) (x : Core) : (s.setCore c x).resyncAddr = s.resyncAddr := rfl
@[simp] theorem State.setCore_resyncSt (s : State) (c : Nat) (x : Core) : (s.setCore c x).resyncSt = s.resyncSt := rfl
@[simp] theorem State.setCore_resyncBuf (s : State) (c : Nat) (x : Core) : (s.setCore c x).resyncBuf = s.resyncBuf := rfl
@[simp] theorem State.setCore_resyncDue (s : State) (c : Nat) (x : Core) : (s.setCore c x).resyncDue = s.resyncDue := rfl
@[simp] theorem State.setCore_killBusy (s : State) (c : Nat) (x : Core) : (s.setCore c x).killBusy = s.killBusy := rfl
@[simp] theorem State.setCore_killCtx (s : State) (c : Nat) (x : Core) : (s.setCore c x).killCtx = s.killCtx := rfl
@[simp] theorem State.setCore_msix (s : State) (c : Nat) (x : Core) : (s.setCore c x).msix = s.msix := rfl
@[simp] theorem State.setCore_reports (s : State) (c : Nat) (x : Core) : (s.setCore c x).reports = s.reports := rfl
@[simp] theorem State.setCore_fencedCount (s : State) (c : Nat) (x : Core) : (s.setCore c x).fencedCount = s.fencedCount := rfl
@[simp] theorem State.setCore_charged (s : State) (c : Nat) (x : Core) : (s.setCore c x).charged = s.charged := rfl
@[simp] theorem State.setCore_counts (s : State) (c : Nat) (x : Core) : (s.setCore c x).counts = s.counts := rfl
@[simp] theorem State.setCore_flash (s : State) (c : Nat) (x : Core) : (s.setCore c x).flash = s.flash := rfl
@[simp] theorem State.setCore_booted (s : State) (c : Nat) (x : Core) : (s.setCore c x).booted = s.booted := rfl
@[simp] theorem State.setCore_bootstat (s : State) (c : Nat) (x : Core) : (s.setCore c x).bootstat = s.bootstat := rfl
@[simp] theorem State.setCore_ptcfg (s : State) (c : Nat) (x : Core) : (s.setCore c x).ptcfg = s.ptcfg := rfl
@[simp] theorem State.setCore_env (s : State) (c : Nat) (x : Core) : (s.setCore c x).env = s.env := rfl
@[simp] theorem State.setCore_agenda (s : State) (c : Nat) (x : Core) : (s.setCore c x).agenda = s.agenda := rfl
@[simp] theorem State.setCore_cur (s : State) (c : Nat) (x : Core) : (s.setCore c x).cur = s.cur := rfl
@[simp] theorem State.setCore_uid (s : State) (c : Nat) (x : Core) : (s.setCore c x).uid = s.uid := rfl
@[simp] theorem State.setCore_draws (s : State) (c : Nat) (x : Core) : (s.setCore c x).draws = s.draws := rfl

@[simp] theorem State.modCore_routers (s : State) (c : Nat) (f : Core → Core) : (s.modCore c f).routers = s.routers := rfl
@[simp] theorem State.modCore_regions (s : State) (c : Nat) (f : Core → Core) : (s.modCore c f).regions = s.regions := rfl
@[simp] theorem State.modCore_transit (s : State) (c : Nat) (f : Core → Core) : (s.modCore c f).transit = s.transit := rfl
@[simp] theorem State.modCore_inbox (s : State) (c : Nat) (f : Core → Core) : (s.modCore c f).inbox = s.inbox := rfl
@[simp] theorem State.modCore_reasm (s : State) (c : Nat) (f : Core → Core) : (s.modCore c f).reasm = s.reasm := rfl
@[simp] theorem State.modCore_held (s : State) (c : Nat) (f : Core → Core) : (s.modCore c f).held = s.held := rfl
@[simp] theorem State.modCore_tags (s : State) (c : Nat) (f : Core → Core) : (s.modCore c f).tags = s.tags := rfl
@[simp] theorem State.modCore_netord (s : State) (c : Nat) (f : Core → Core) : (s.modCore c f).netord = s.netord := rfl
@[simp] theorem State.modCore_netdiam (s : State) (c : Nat) (f : Core → Core) : (s.modCore c f).netdiam = s.netdiam := rfl
@[simp] theorem State.modCore_home (s : State) (c : Nat) (f : Core → Core) : (s.modCore c f).home = s.home := rfl
@[simp] theorem State.modCore_proxies (s : State) (c : Nat) (f : Core → Core) : (s.modCore c f).proxies = s.proxies := rfl
@[simp] theorem State.modCore_preqs (s : State) (c : Nat) (f : Core → Core) : (s.modCore c f).preqs = s.preqs := rfl
@[simp] theorem State.modCore_slices (s : State) (c : Nat) (f : Core → Core) : (s.modCore c f).slices = s.slices := rfl
@[simp] theorem State.modCore_hbm (s : State) (c : Nat) (f : Core → Core) : (s.modCore c f).hbm = s.hbm := rfl
@[simp] theorem State.modCore_hmeta (s : State) (c : Nat) (f : Core → Core) : (s.modCore c f).hmeta = s.hmeta := rfl
@[simp] theorem State.modCore_hostMem (s : State) (c : Nat) (f : Core → Core) : (s.modCore c f).hostMem = s.hostMem := rfl
@[simp] theorem State.modCore_dev (s : State) (c : Nat) (f : Core → Core) : (s.modCore c f).dev = s.dev := rfl
@[simp] theorem State.modCore_hostOut (s : State) (c : Nat) (f : Core → Core) : (s.modCore c f).hostOut = s.hostOut := rfl
@[simp] theorem State.modCore_hbmCorr (s : State) (c : Nat) (f : Core → Core) : (s.modCore c f).hbmCorr = s.hbmCorr := rfl
@[simp] theorem State.modCore_hbmUncorr (s : State) (c : Nat) (f : Core → Core) : (s.modCore c f).hbmUncorr = s.hbmUncorr := rfl
@[simp] theorem State.modCore_tensors (s : State) (c : Nat) (f : Core → Core) : (s.modCore c f).tensors = s.tensors := rfl
@[simp] theorem State.modCore_logs (s : State) (c : Nat) (f : Core → Core) : (s.modCore c f).logs = s.logs := rfl
@[simp] theorem State.modCore_barGroups (s : State) (c : Nat) (f : Core → Core) : (s.modCore c f).barGroups = s.barGroups := rfl
@[simp] theorem State.modCore_devSeqr (s : State) (c : Nat) (f : Core → Core) : (s.modCore c f).devSeqr = s.devSeqr := rfl
@[simp] theorem State.modCore_cluSeqrs (s : State) (c : Nat) (f : Core → Core) : (s.modCore c f).cluSeqrs = s.cluSeqrs := rfl
@[simp] theorem State.modCore_queues (s : State) (c : Nat) (f : Core → Core) : (s.modCore c f).queues = s.queues := rfl
@[simp] theorem State.modCore_contexts (s : State) (c : Nat) (f : Core → Core) : (s.modCore c f).contexts = s.contexts := rfl
@[simp] theorem State.modCore_pools (s : State) (c : Nat) (f : Core → Core) : (s.modCore c f).pools = s.pools := rfl
@[simp] theorem State.modCore_parked (s : State) (c : Nat) (f : Core → Core) : (s.modCore c f).parked = s.parked := rfl
@[simp] theorem State.modCore_migrated (s : State) (c : Nat) (f : Core → Core) : (s.modCore c f).migrated = s.migrated := rfl
@[simp] theorem State.modCore_strandImages (s : State) (c : Nat) (f : Core → Core) : (s.modCore c f).strandImages = s.strandImages := rfl
@[simp] theorem State.modCore_coreImages (s : State) (c : Nat) (f : Core → Core) : (s.modCore c f).coreImages = s.coreImages := rfl
@[simp] theorem State.modCore_saves (s : State) (c : Nat) (f : Core → Core) : (s.modCore c f).saves = s.saves := rfl
@[simp] theorem State.modCore_clusters (s : State) (c : Nat) (f : Core → Core) : (s.modCore c f).clusters = s.clusters := rfl
@[simp] theorem State.modCore_melt (s : State) (c : Nat) (f : Core → Core) : (s.modCore c f).melt = s.melt := rfl
@[simp] theorem State.modCore_rfz (s : State) (c : Nat) (f : Core → Core) : (s.modCore c f).rfz = s.rfz := rfl
@[simp] theorem State.modCore_optical (s : State) (c : Nat) (f : Core → Core) : (s.modCore c f).optical = s.optical := rfl
@[simp] theorem State.modCore_bumps (s : State) (c : Nat) (f : Core → Core) : (s.modCore c f).bumps = s.bumps := rfl
@[simp] theorem State.modCore_bumpReqs (s : State) (c : Nat) (f : Core → Core) : (s.modCore c f).bumpReqs = s.bumpReqs := rfl
@[simp] theorem State.modCore_timecode (s : State) (c : Nat) (f : Core → Core) : (s.modCore c f).timecode = s.timecode := rfl
@[simp] theorem State.modCore_qbase (s : State) (c : Nat) (f : Core → Core) : (s.modCore c f).qbase = s.qbase := rfl
@[simp] theorem State.modCore_cbase (s : State) (c : Nat) (f : Core → Core) : (s.modCore c f).cbase = s.cbase := rfl
@[simp] theorem State.modCore_tcMaster (s : State) (c : Nat) (f : Core → Core) : (s.modCore c f).tcMaster = s.tcMaster := rfl
@[simp] theorem State.modCore_tcLock (s : State) (c : Nat) (f : Core → Core) : (s.modCore c f).tcLock = s.tcLock := rfl
@[simp] theorem State.modCore_tcOfs (s : State) (c : Nat) (f : Core → Core) : (s.modCore c f).tcOfs = s.tcOfs := rfl
@[simp] theorem State.modCore_tcSlew (s : State) (c : Nat) (f : Core → Core) : (s.modCore c f).tcSlew = s.tcSlew := rfl
@[simp] theorem State.modCore_resyncAddr (s : State) (c : Nat) (f : Core → Core) : (s.modCore c f).resyncAddr = s.resyncAddr := rfl
@[simp] theorem State.modCore_resyncSt (s : State) (c : Nat) (f : Core → Core) : (s.modCore c f).resyncSt = s.resyncSt := rfl
@[simp] theorem State.modCore_resyncBuf (s : State) (c : Nat) (f : Core → Core) : (s.modCore c f).resyncBuf = s.resyncBuf := rfl
@[simp] theorem State.modCore_resyncDue (s : State) (c : Nat) (f : Core → Core) : (s.modCore c f).resyncDue = s.resyncDue := rfl
@[simp] theorem State.modCore_killBusy (s : State) (c : Nat) (f : Core → Core) : (s.modCore c f).killBusy = s.killBusy := rfl
@[simp] theorem State.modCore_killCtx (s : State) (c : Nat) (f : Core → Core) : (s.modCore c f).killCtx = s.killCtx := rfl
@[simp] theorem State.modCore_msix (s : State) (c : Nat) (f : Core → Core) : (s.modCore c f).msix = s.msix := rfl
@[simp] theorem State.modCore_reports (s : State) (c : Nat) (f : Core → Core) : (s.modCore c f).reports = s.reports := rfl
@[simp] theorem State.modCore_fencedCount (s : State) (c : Nat) (f : Core → Core) : (s.modCore c f).fencedCount = s.fencedCount := rfl
@[simp] theorem State.modCore_charged (s : State) (c : Nat) (f : Core → Core) : (s.modCore c f).charged = s.charged := rfl
@[simp] theorem State.modCore_counts (s : State) (c : Nat) (f : Core → Core) : (s.modCore c f).counts = s.counts := rfl
@[simp] theorem State.modCore_flash (s : State) (c : Nat) (f : Core → Core) : (s.modCore c f).flash = s.flash := rfl
@[simp] theorem State.modCore_booted (s : State) (c : Nat) (f : Core → Core) : (s.modCore c f).booted = s.booted := rfl
@[simp] theorem State.modCore_bootstat (s : State) (c : Nat) (f : Core → Core) : (s.modCore c f).bootstat = s.bootstat := rfl
@[simp] theorem State.modCore_ptcfg (s : State) (c : Nat) (f : Core → Core) : (s.modCore c f).ptcfg = s.ptcfg := rfl
@[simp] theorem State.modCore_env (s : State) (c : Nat) (f : Core → Core) : (s.modCore c f).env = s.env := rfl
@[simp] theorem State.modCore_agenda (s : State) (c : Nat) (f : Core → Core) : (s.modCore c f).agenda = s.agenda := rfl
@[simp] theorem State.modCore_cur (s : State) (c : Nat) (f : Core → Core) : (s.modCore c f).cur = s.cur := rfl
@[simp] theorem State.modCore_uid (s : State) (c : Nat) (f : Core → Core) : (s.modCore c f).uid = s.uid := rfl
@[simp] theorem State.modCore_draws (s : State) (c : Nat) (f : Core → Core) : (s.modCore c f).draws = s.draws := rfl

@[simp] theorem State.setStrand_routers (s : State) (c i : Nat) (t : Strand) : (s.setStrand c i t).routers = s.routers := rfl
@[simp] theorem State.setStrand_regions (s : State) (c i : Nat) (t : Strand) : (s.setStrand c i t).regions = s.regions := rfl
@[simp] theorem State.setStrand_transit (s : State) (c i : Nat) (t : Strand) : (s.setStrand c i t).transit = s.transit := rfl
@[simp] theorem State.setStrand_inbox (s : State) (c i : Nat) (t : Strand) : (s.setStrand c i t).inbox = s.inbox := rfl
@[simp] theorem State.setStrand_reasm (s : State) (c i : Nat) (t : Strand) : (s.setStrand c i t).reasm = s.reasm := rfl
@[simp] theorem State.setStrand_held (s : State) (c i : Nat) (t : Strand) : (s.setStrand c i t).held = s.held := rfl
@[simp] theorem State.setStrand_tags (s : State) (c i : Nat) (t : Strand) : (s.setStrand c i t).tags = s.tags := rfl
@[simp] theorem State.setStrand_netord (s : State) (c i : Nat) (t : Strand) : (s.setStrand c i t).netord = s.netord := rfl
@[simp] theorem State.setStrand_netdiam (s : State) (c i : Nat) (t : Strand) : (s.setStrand c i t).netdiam = s.netdiam := rfl
@[simp] theorem State.setStrand_home (s : State) (c i : Nat) (t : Strand) : (s.setStrand c i t).home = s.home := rfl
@[simp] theorem State.setStrand_proxies (s : State) (c i : Nat) (t : Strand) : (s.setStrand c i t).proxies = s.proxies := rfl
@[simp] theorem State.setStrand_preqs (s : State) (c i : Nat) (t : Strand) : (s.setStrand c i t).preqs = s.preqs := rfl
@[simp] theorem State.setStrand_slices (s : State) (c i : Nat) (t : Strand) : (s.setStrand c i t).slices = s.slices := rfl
@[simp] theorem State.setStrand_hbm (s : State) (c i : Nat) (t : Strand) : (s.setStrand c i t).hbm = s.hbm := rfl
@[simp] theorem State.setStrand_hmeta (s : State) (c i : Nat) (t : Strand) : (s.setStrand c i t).hmeta = s.hmeta := rfl
@[simp] theorem State.setStrand_hostMem (s : State) (c i : Nat) (t : Strand) : (s.setStrand c i t).hostMem = s.hostMem := rfl
@[simp] theorem State.setStrand_dev (s : State) (c i : Nat) (t : Strand) : (s.setStrand c i t).dev = s.dev := rfl
@[simp] theorem State.setStrand_hostOut (s : State) (c i : Nat) (t : Strand) : (s.setStrand c i t).hostOut = s.hostOut := rfl
@[simp] theorem State.setStrand_hbmCorr (s : State) (c i : Nat) (t : Strand) : (s.setStrand c i t).hbmCorr = s.hbmCorr := rfl
@[simp] theorem State.setStrand_hbmUncorr (s : State) (c i : Nat) (t : Strand) : (s.setStrand c i t).hbmUncorr = s.hbmUncorr := rfl
@[simp] theorem State.setStrand_tensors (s : State) (c i : Nat) (t : Strand) : (s.setStrand c i t).tensors = s.tensors := rfl
@[simp] theorem State.setStrand_logs (s : State) (c i : Nat) (t : Strand) : (s.setStrand c i t).logs = s.logs := rfl
@[simp] theorem State.setStrand_barGroups (s : State) (c i : Nat) (t : Strand) : (s.setStrand c i t).barGroups = s.barGroups := rfl
@[simp] theorem State.setStrand_devSeqr (s : State) (c i : Nat) (t : Strand) : (s.setStrand c i t).devSeqr = s.devSeqr := rfl
@[simp] theorem State.setStrand_cluSeqrs (s : State) (c i : Nat) (t : Strand) : (s.setStrand c i t).cluSeqrs = s.cluSeqrs := rfl
@[simp] theorem State.setStrand_queues (s : State) (c i : Nat) (t : Strand) : (s.setStrand c i t).queues = s.queues := rfl
@[simp] theorem State.setStrand_contexts (s : State) (c i : Nat) (t : Strand) : (s.setStrand c i t).contexts = s.contexts := rfl
@[simp] theorem State.setStrand_pools (s : State) (c i : Nat) (t : Strand) : (s.setStrand c i t).pools = s.pools := rfl
@[simp] theorem State.setStrand_parked (s : State) (c i : Nat) (t : Strand) : (s.setStrand c i t).parked = s.parked := rfl
@[simp] theorem State.setStrand_migrated (s : State) (c i : Nat) (t : Strand) : (s.setStrand c i t).migrated = s.migrated := rfl
@[simp] theorem State.setStrand_strandImages (s : State) (c i : Nat) (t : Strand) : (s.setStrand c i t).strandImages = s.strandImages := rfl
@[simp] theorem State.setStrand_coreImages (s : State) (c i : Nat) (t : Strand) : (s.setStrand c i t).coreImages = s.coreImages := rfl
@[simp] theorem State.setStrand_saves (s : State) (c i : Nat) (t : Strand) : (s.setStrand c i t).saves = s.saves := rfl
@[simp] theorem State.setStrand_clusters (s : State) (c i : Nat) (t : Strand) : (s.setStrand c i t).clusters = s.clusters := rfl
@[simp] theorem State.setStrand_melt (s : State) (c i : Nat) (t : Strand) : (s.setStrand c i t).melt = s.melt := rfl
@[simp] theorem State.setStrand_rfz (s : State) (c i : Nat) (t : Strand) : (s.setStrand c i t).rfz = s.rfz := rfl
@[simp] theorem State.setStrand_optical (s : State) (c i : Nat) (t : Strand) : (s.setStrand c i t).optical = s.optical := rfl
@[simp] theorem State.setStrand_bumps (s : State) (c i : Nat) (t : Strand) : (s.setStrand c i t).bumps = s.bumps := rfl
@[simp] theorem State.setStrand_bumpReqs (s : State) (c i : Nat) (t : Strand) : (s.setStrand c i t).bumpReqs = s.bumpReqs := rfl
@[simp] theorem State.setStrand_timecode (s : State) (c i : Nat) (t : Strand) : (s.setStrand c i t).timecode = s.timecode := rfl
@[simp] theorem State.setStrand_qbase (s : State) (c i : Nat) (t : Strand) : (s.setStrand c i t).qbase = s.qbase := rfl
@[simp] theorem State.setStrand_cbase (s : State) (c i : Nat) (t : Strand) : (s.setStrand c i t).cbase = s.cbase := rfl
@[simp] theorem State.setStrand_tcMaster (s : State) (c i : Nat) (t : Strand) : (s.setStrand c i t).tcMaster = s.tcMaster := rfl
@[simp] theorem State.setStrand_tcLock (s : State) (c i : Nat) (t : Strand) : (s.setStrand c i t).tcLock = s.tcLock := rfl
@[simp] theorem State.setStrand_tcOfs (s : State) (c i : Nat) (t : Strand) : (s.setStrand c i t).tcOfs = s.tcOfs := rfl
@[simp] theorem State.setStrand_tcSlew (s : State) (c i : Nat) (t : Strand) : (s.setStrand c i t).tcSlew = s.tcSlew := rfl
@[simp] theorem State.setStrand_resyncAddr (s : State) (c i : Nat) (t : Strand) : (s.setStrand c i t).resyncAddr = s.resyncAddr := rfl
@[simp] theorem State.setStrand_resyncSt (s : State) (c i : Nat) (t : Strand) : (s.setStrand c i t).resyncSt = s.resyncSt := rfl
@[simp] theorem State.setStrand_resyncBuf (s : State) (c i : Nat) (t : Strand) : (s.setStrand c i t).resyncBuf = s.resyncBuf := rfl
@[simp] theorem State.setStrand_resyncDue (s : State) (c i : Nat) (t : Strand) : (s.setStrand c i t).resyncDue = s.resyncDue := rfl
@[simp] theorem State.setStrand_killBusy (s : State) (c i : Nat) (t : Strand) : (s.setStrand c i t).killBusy = s.killBusy := rfl
@[simp] theorem State.setStrand_killCtx (s : State) (c i : Nat) (t : Strand) : (s.setStrand c i t).killCtx = s.killCtx := rfl
@[simp] theorem State.setStrand_msix (s : State) (c i : Nat) (t : Strand) : (s.setStrand c i t).msix = s.msix := rfl
@[simp] theorem State.setStrand_reports (s : State) (c i : Nat) (t : Strand) : (s.setStrand c i t).reports = s.reports := rfl
@[simp] theorem State.setStrand_fencedCount (s : State) (c i : Nat) (t : Strand) : (s.setStrand c i t).fencedCount = s.fencedCount := rfl
@[simp] theorem State.setStrand_charged (s : State) (c i : Nat) (t : Strand) : (s.setStrand c i t).charged = s.charged := rfl
@[simp] theorem State.setStrand_counts (s : State) (c i : Nat) (t : Strand) : (s.setStrand c i t).counts = s.counts := rfl
@[simp] theorem State.setStrand_flash (s : State) (c i : Nat) (t : Strand) : (s.setStrand c i t).flash = s.flash := rfl
@[simp] theorem State.setStrand_booted (s : State) (c i : Nat) (t : Strand) : (s.setStrand c i t).booted = s.booted := rfl
@[simp] theorem State.setStrand_bootstat (s : State) (c i : Nat) (t : Strand) : (s.setStrand c i t).bootstat = s.bootstat := rfl
@[simp] theorem State.setStrand_ptcfg (s : State) (c i : Nat) (t : Strand) : (s.setStrand c i t).ptcfg = s.ptcfg := rfl
@[simp] theorem State.setStrand_env (s : State) (c i : Nat) (t : Strand) : (s.setStrand c i t).env = s.env := rfl
@[simp] theorem State.setStrand_agenda (s : State) (c i : Nat) (t : Strand) : (s.setStrand c i t).agenda = s.agenda := rfl
@[simp] theorem State.setStrand_cur (s : State) (c i : Nat) (t : Strand) : (s.setStrand c i t).cur = s.cur := rfl
@[simp] theorem State.setStrand_uid (s : State) (c i : Nat) (t : Strand) : (s.setStrand c i t).uid = s.uid := rfl
@[simp] theorem State.setStrand_draws (s : State) (c i : Nat) (t : Strand) : (s.setStrand c i t).draws = s.draws := rfl

@[simp] theorem State.modStrand_routers (s : State) (c i : Nat) (f : Strand → Strand) : (s.modStrand c i f).routers = s.routers := rfl
@[simp] theorem State.modStrand_regions (s : State) (c i : Nat) (f : Strand → Strand) : (s.modStrand c i f).regions = s.regions := rfl
@[simp] theorem State.modStrand_transit (s : State) (c i : Nat) (f : Strand → Strand) : (s.modStrand c i f).transit = s.transit := rfl
@[simp] theorem State.modStrand_inbox (s : State) (c i : Nat) (f : Strand → Strand) : (s.modStrand c i f).inbox = s.inbox := rfl
@[simp] theorem State.modStrand_reasm (s : State) (c i : Nat) (f : Strand → Strand) : (s.modStrand c i f).reasm = s.reasm := rfl
@[simp] theorem State.modStrand_held (s : State) (c i : Nat) (f : Strand → Strand) : (s.modStrand c i f).held = s.held := rfl
@[simp] theorem State.modStrand_tags (s : State) (c i : Nat) (f : Strand → Strand) : (s.modStrand c i f).tags = s.tags := rfl
@[simp] theorem State.modStrand_netord (s : State) (c i : Nat) (f : Strand → Strand) : (s.modStrand c i f).netord = s.netord := rfl
@[simp] theorem State.modStrand_netdiam (s : State) (c i : Nat) (f : Strand → Strand) : (s.modStrand c i f).netdiam = s.netdiam := rfl
@[simp] theorem State.modStrand_home (s : State) (c i : Nat) (f : Strand → Strand) : (s.modStrand c i f).home = s.home := rfl
@[simp] theorem State.modStrand_proxies (s : State) (c i : Nat) (f : Strand → Strand) : (s.modStrand c i f).proxies = s.proxies := rfl
@[simp] theorem State.modStrand_preqs (s : State) (c i : Nat) (f : Strand → Strand) : (s.modStrand c i f).preqs = s.preqs := rfl
@[simp] theorem State.modStrand_slices (s : State) (c i : Nat) (f : Strand → Strand) : (s.modStrand c i f).slices = s.slices := rfl
@[simp] theorem State.modStrand_hbm (s : State) (c i : Nat) (f : Strand → Strand) : (s.modStrand c i f).hbm = s.hbm := rfl
@[simp] theorem State.modStrand_hmeta (s : State) (c i : Nat) (f : Strand → Strand) : (s.modStrand c i f).hmeta = s.hmeta := rfl
@[simp] theorem State.modStrand_hostMem (s : State) (c i : Nat) (f : Strand → Strand) : (s.modStrand c i f).hostMem = s.hostMem := rfl
@[simp] theorem State.modStrand_dev (s : State) (c i : Nat) (f : Strand → Strand) : (s.modStrand c i f).dev = s.dev := rfl
@[simp] theorem State.modStrand_hostOut (s : State) (c i : Nat) (f : Strand → Strand) : (s.modStrand c i f).hostOut = s.hostOut := rfl
@[simp] theorem State.modStrand_hbmCorr (s : State) (c i : Nat) (f : Strand → Strand) : (s.modStrand c i f).hbmCorr = s.hbmCorr := rfl
@[simp] theorem State.modStrand_hbmUncorr (s : State) (c i : Nat) (f : Strand → Strand) : (s.modStrand c i f).hbmUncorr = s.hbmUncorr := rfl
@[simp] theorem State.modStrand_tensors (s : State) (c i : Nat) (f : Strand → Strand) : (s.modStrand c i f).tensors = s.tensors := rfl
@[simp] theorem State.modStrand_logs (s : State) (c i : Nat) (f : Strand → Strand) : (s.modStrand c i f).logs = s.logs := rfl
@[simp] theorem State.modStrand_barGroups (s : State) (c i : Nat) (f : Strand → Strand) : (s.modStrand c i f).barGroups = s.barGroups := rfl
@[simp] theorem State.modStrand_devSeqr (s : State) (c i : Nat) (f : Strand → Strand) : (s.modStrand c i f).devSeqr = s.devSeqr := rfl
@[simp] theorem State.modStrand_cluSeqrs (s : State) (c i : Nat) (f : Strand → Strand) : (s.modStrand c i f).cluSeqrs = s.cluSeqrs := rfl
@[simp] theorem State.modStrand_queues (s : State) (c i : Nat) (f : Strand → Strand) : (s.modStrand c i f).queues = s.queues := rfl
@[simp] theorem State.modStrand_contexts (s : State) (c i : Nat) (f : Strand → Strand) : (s.modStrand c i f).contexts = s.contexts := rfl
@[simp] theorem State.modStrand_pools (s : State) (c i : Nat) (f : Strand → Strand) : (s.modStrand c i f).pools = s.pools := rfl
@[simp] theorem State.modStrand_parked (s : State) (c i : Nat) (f : Strand → Strand) : (s.modStrand c i f).parked = s.parked := rfl
@[simp] theorem State.modStrand_migrated (s : State) (c i : Nat) (f : Strand → Strand) : (s.modStrand c i f).migrated = s.migrated := rfl
@[simp] theorem State.modStrand_strandImages (s : State) (c i : Nat) (f : Strand → Strand) : (s.modStrand c i f).strandImages = s.strandImages := rfl
@[simp] theorem State.modStrand_coreImages (s : State) (c i : Nat) (f : Strand → Strand) : (s.modStrand c i f).coreImages = s.coreImages := rfl
@[simp] theorem State.modStrand_saves (s : State) (c i : Nat) (f : Strand → Strand) : (s.modStrand c i f).saves = s.saves := rfl
@[simp] theorem State.modStrand_clusters (s : State) (c i : Nat) (f : Strand → Strand) : (s.modStrand c i f).clusters = s.clusters := rfl
@[simp] theorem State.modStrand_melt (s : State) (c i : Nat) (f : Strand → Strand) : (s.modStrand c i f).melt = s.melt := rfl
@[simp] theorem State.modStrand_rfz (s : State) (c i : Nat) (f : Strand → Strand) : (s.modStrand c i f).rfz = s.rfz := rfl
@[simp] theorem State.modStrand_optical (s : State) (c i : Nat) (f : Strand → Strand) : (s.modStrand c i f).optical = s.optical := rfl
@[simp] theorem State.modStrand_bumps (s : State) (c i : Nat) (f : Strand → Strand) : (s.modStrand c i f).bumps = s.bumps := rfl
@[simp] theorem State.modStrand_bumpReqs (s : State) (c i : Nat) (f : Strand → Strand) : (s.modStrand c i f).bumpReqs = s.bumpReqs := rfl
@[simp] theorem State.modStrand_timecode (s : State) (c i : Nat) (f : Strand → Strand) : (s.modStrand c i f).timecode = s.timecode := rfl
@[simp] theorem State.modStrand_qbase (s : State) (c i : Nat) (f : Strand → Strand) : (s.modStrand c i f).qbase = s.qbase := rfl
@[simp] theorem State.modStrand_cbase (s : State) (c i : Nat) (f : Strand → Strand) : (s.modStrand c i f).cbase = s.cbase := rfl
@[simp] theorem State.modStrand_tcMaster (s : State) (c i : Nat) (f : Strand → Strand) : (s.modStrand c i f).tcMaster = s.tcMaster := rfl
@[simp] theorem State.modStrand_tcLock (s : State) (c i : Nat) (f : Strand → Strand) : (s.modStrand c i f).tcLock = s.tcLock := rfl
@[simp] theorem State.modStrand_tcOfs (s : State) (c i : Nat) (f : Strand → Strand) : (s.modStrand c i f).tcOfs = s.tcOfs := rfl
@[simp] theorem State.modStrand_tcSlew (s : State) (c i : Nat) (f : Strand → Strand) : (s.modStrand c i f).tcSlew = s.tcSlew := rfl
@[simp] theorem State.modStrand_resyncAddr (s : State) (c i : Nat) (f : Strand → Strand) : (s.modStrand c i f).resyncAddr = s.resyncAddr := rfl
@[simp] theorem State.modStrand_resyncSt (s : State) (c i : Nat) (f : Strand → Strand) : (s.modStrand c i f).resyncSt = s.resyncSt := rfl
@[simp] theorem State.modStrand_resyncBuf (s : State) (c i : Nat) (f : Strand → Strand) : (s.modStrand c i f).resyncBuf = s.resyncBuf := rfl
@[simp] theorem State.modStrand_resyncDue (s : State) (c i : Nat) (f : Strand → Strand) : (s.modStrand c i f).resyncDue = s.resyncDue := rfl
@[simp] theorem State.modStrand_killBusy (s : State) (c i : Nat) (f : Strand → Strand) : (s.modStrand c i f).killBusy = s.killBusy := rfl
@[simp] theorem State.modStrand_killCtx (s : State) (c i : Nat) (f : Strand → Strand) : (s.modStrand c i f).killCtx = s.killCtx := rfl
@[simp] theorem State.modStrand_msix (s : State) (c i : Nat) (f : Strand → Strand) : (s.modStrand c i f).msix = s.msix := rfl
@[simp] theorem State.modStrand_reports (s : State) (c i : Nat) (f : Strand → Strand) : (s.modStrand c i f).reports = s.reports := rfl
@[simp] theorem State.modStrand_fencedCount (s : State) (c i : Nat) (f : Strand → Strand) : (s.modStrand c i f).fencedCount = s.fencedCount := rfl
@[simp] theorem State.modStrand_charged (s : State) (c i : Nat) (f : Strand → Strand) : (s.modStrand c i f).charged = s.charged := rfl
@[simp] theorem State.modStrand_counts (s : State) (c i : Nat) (f : Strand → Strand) : (s.modStrand c i f).counts = s.counts := rfl
@[simp] theorem State.modStrand_flash (s : State) (c i : Nat) (f : Strand → Strand) : (s.modStrand c i f).flash = s.flash := rfl
@[simp] theorem State.modStrand_booted (s : State) (c i : Nat) (f : Strand → Strand) : (s.modStrand c i f).booted = s.booted := rfl
@[simp] theorem State.modStrand_bootstat (s : State) (c i : Nat) (f : Strand → Strand) : (s.modStrand c i f).bootstat = s.bootstat := rfl
@[simp] theorem State.modStrand_ptcfg (s : State) (c i : Nat) (f : Strand → Strand) : (s.modStrand c i f).ptcfg = s.ptcfg := rfl
@[simp] theorem State.modStrand_env (s : State) (c i : Nat) (f : Strand → Strand) : (s.modStrand c i f).env = s.env := rfl
@[simp] theorem State.modStrand_agenda (s : State) (c i : Nat) (f : Strand → Strand) : (s.modStrand c i f).agenda = s.agenda := rfl
@[simp] theorem State.modStrand_cur (s : State) (c i : Nat) (f : Strand → Strand) : (s.modStrand c i f).cur = s.cur := rfl
@[simp] theorem State.modStrand_uid (s : State) (c i : Nat) (f : Strand → Strand) : (s.modStrand c i f).uid = s.uid := rfl
@[simp] theorem State.modStrand_draws (s : State) (c i : Nat) (f : Strand → Strand) : (s.modStrand c i f).draws = s.draws := rfl

@[simp] theorem State.modMe_routers (s : State) (f : Strand → Strand) : (s.modMe f).routers = s.routers := rfl
@[simp] theorem State.modMe_regions (s : State) (f : Strand → Strand) : (s.modMe f).regions = s.regions := rfl
@[simp] theorem State.modMe_transit (s : State) (f : Strand → Strand) : (s.modMe f).transit = s.transit := rfl
@[simp] theorem State.modMe_inbox (s : State) (f : Strand → Strand) : (s.modMe f).inbox = s.inbox := rfl
@[simp] theorem State.modMe_reasm (s : State) (f : Strand → Strand) : (s.modMe f).reasm = s.reasm := rfl
@[simp] theorem State.modMe_held (s : State) (f : Strand → Strand) : (s.modMe f).held = s.held := rfl
@[simp] theorem State.modMe_tags (s : State) (f : Strand → Strand) : (s.modMe f).tags = s.tags := rfl
@[simp] theorem State.modMe_netord (s : State) (f : Strand → Strand) : (s.modMe f).netord = s.netord := rfl
@[simp] theorem State.modMe_netdiam (s : State) (f : Strand → Strand) : (s.modMe f).netdiam = s.netdiam := rfl
@[simp] theorem State.modMe_home (s : State) (f : Strand → Strand) : (s.modMe f).home = s.home := rfl
@[simp] theorem State.modMe_proxies (s : State) (f : Strand → Strand) : (s.modMe f).proxies = s.proxies := rfl
@[simp] theorem State.modMe_preqs (s : State) (f : Strand → Strand) : (s.modMe f).preqs = s.preqs := rfl
@[simp] theorem State.modMe_slices (s : State) (f : Strand → Strand) : (s.modMe f).slices = s.slices := rfl
@[simp] theorem State.modMe_hbm (s : State) (f : Strand → Strand) : (s.modMe f).hbm = s.hbm := rfl
@[simp] theorem State.modMe_hmeta (s : State) (f : Strand → Strand) : (s.modMe f).hmeta = s.hmeta := rfl
@[simp] theorem State.modMe_hostMem (s : State) (f : Strand → Strand) : (s.modMe f).hostMem = s.hostMem := rfl
@[simp] theorem State.modMe_dev (s : State) (f : Strand → Strand) : (s.modMe f).dev = s.dev := rfl
@[simp] theorem State.modMe_hostOut (s : State) (f : Strand → Strand) : (s.modMe f).hostOut = s.hostOut := rfl
@[simp] theorem State.modMe_hbmCorr (s : State) (f : Strand → Strand) : (s.modMe f).hbmCorr = s.hbmCorr := rfl
@[simp] theorem State.modMe_hbmUncorr (s : State) (f : Strand → Strand) : (s.modMe f).hbmUncorr = s.hbmUncorr := rfl
@[simp] theorem State.modMe_tensors (s : State) (f : Strand → Strand) : (s.modMe f).tensors = s.tensors := rfl
@[simp] theorem State.modMe_logs (s : State) (f : Strand → Strand) : (s.modMe f).logs = s.logs := rfl
@[simp] theorem State.modMe_barGroups (s : State) (f : Strand → Strand) : (s.modMe f).barGroups = s.barGroups := rfl
@[simp] theorem State.modMe_devSeqr (s : State) (f : Strand → Strand) : (s.modMe f).devSeqr = s.devSeqr := rfl
@[simp] theorem State.modMe_cluSeqrs (s : State) (f : Strand → Strand) : (s.modMe f).cluSeqrs = s.cluSeqrs := rfl
@[simp] theorem State.modMe_queues (s : State) (f : Strand → Strand) : (s.modMe f).queues = s.queues := rfl
@[simp] theorem State.modMe_contexts (s : State) (f : Strand → Strand) : (s.modMe f).contexts = s.contexts := rfl
@[simp] theorem State.modMe_pools (s : State) (f : Strand → Strand) : (s.modMe f).pools = s.pools := rfl
@[simp] theorem State.modMe_parked (s : State) (f : Strand → Strand) : (s.modMe f).parked = s.parked := rfl
@[simp] theorem State.modMe_migrated (s : State) (f : Strand → Strand) : (s.modMe f).migrated = s.migrated := rfl
@[simp] theorem State.modMe_strandImages (s : State) (f : Strand → Strand) : (s.modMe f).strandImages = s.strandImages := rfl
@[simp] theorem State.modMe_coreImages (s : State) (f : Strand → Strand) : (s.modMe f).coreImages = s.coreImages := rfl
@[simp] theorem State.modMe_saves (s : State) (f : Strand → Strand) : (s.modMe f).saves = s.saves := rfl
@[simp] theorem State.modMe_clusters (s : State) (f : Strand → Strand) : (s.modMe f).clusters = s.clusters := rfl
@[simp] theorem State.modMe_melt (s : State) (f : Strand → Strand) : (s.modMe f).melt = s.melt := rfl
@[simp] theorem State.modMe_rfz (s : State) (f : Strand → Strand) : (s.modMe f).rfz = s.rfz := rfl
@[simp] theorem State.modMe_optical (s : State) (f : Strand → Strand) : (s.modMe f).optical = s.optical := rfl
@[simp] theorem State.modMe_bumps (s : State) (f : Strand → Strand) : (s.modMe f).bumps = s.bumps := rfl
@[simp] theorem State.modMe_bumpReqs (s : State) (f : Strand → Strand) : (s.modMe f).bumpReqs = s.bumpReqs := rfl
@[simp] theorem State.modMe_timecode (s : State) (f : Strand → Strand) : (s.modMe f).timecode = s.timecode := rfl
@[simp] theorem State.modMe_qbase (s : State) (f : Strand → Strand) : (s.modMe f).qbase = s.qbase := rfl
@[simp] theorem State.modMe_cbase (s : State) (f : Strand → Strand) : (s.modMe f).cbase = s.cbase := rfl
@[simp] theorem State.modMe_tcMaster (s : State) (f : Strand → Strand) : (s.modMe f).tcMaster = s.tcMaster := rfl
@[simp] theorem State.modMe_tcLock (s : State) (f : Strand → Strand) : (s.modMe f).tcLock = s.tcLock := rfl
@[simp] theorem State.modMe_tcOfs (s : State) (f : Strand → Strand) : (s.modMe f).tcOfs = s.tcOfs := rfl
@[simp] theorem State.modMe_tcSlew (s : State) (f : Strand → Strand) : (s.modMe f).tcSlew = s.tcSlew := rfl
@[simp] theorem State.modMe_resyncAddr (s : State) (f : Strand → Strand) : (s.modMe f).resyncAddr = s.resyncAddr := rfl
@[simp] theorem State.modMe_resyncSt (s : State) (f : Strand → Strand) : (s.modMe f).resyncSt = s.resyncSt := rfl
@[simp] theorem State.modMe_resyncBuf (s : State) (f : Strand → Strand) : (s.modMe f).resyncBuf = s.resyncBuf := rfl
@[simp] theorem State.modMe_resyncDue (s : State) (f : Strand → Strand) : (s.modMe f).resyncDue = s.resyncDue := rfl
@[simp] theorem State.modMe_killBusy (s : State) (f : Strand → Strand) : (s.modMe f).killBusy = s.killBusy := rfl
@[simp] theorem State.modMe_killCtx (s : State) (f : Strand → Strand) : (s.modMe f).killCtx = s.killCtx := rfl
@[simp] theorem State.modMe_msix (s : State) (f : Strand → Strand) : (s.modMe f).msix = s.msix := rfl
@[simp] theorem State.modMe_reports (s : State) (f : Strand → Strand) : (s.modMe f).reports = s.reports := rfl
@[simp] theorem State.modMe_fencedCount (s : State) (f : Strand → Strand) : (s.modMe f).fencedCount = s.fencedCount := rfl
@[simp] theorem State.modMe_charged (s : State) (f : Strand → Strand) : (s.modMe f).charged = s.charged := rfl
@[simp] theorem State.modMe_counts (s : State) (f : Strand → Strand) : (s.modMe f).counts = s.counts := rfl
@[simp] theorem State.modMe_flash (s : State) (f : Strand → Strand) : (s.modMe f).flash = s.flash := rfl
@[simp] theorem State.modMe_booted (s : State) (f : Strand → Strand) : (s.modMe f).booted = s.booted := rfl
@[simp] theorem State.modMe_bootstat (s : State) (f : Strand → Strand) : (s.modMe f).bootstat = s.bootstat := rfl
@[simp] theorem State.modMe_ptcfg (s : State) (f : Strand → Strand) : (s.modMe f).ptcfg = s.ptcfg := rfl
@[simp] theorem State.modMe_env (s : State) (f : Strand → Strand) : (s.modMe f).env = s.env := rfl
@[simp] theorem State.modMe_agenda (s : State) (f : Strand → Strand) : (s.modMe f).agenda = s.agenda := rfl
@[simp] theorem State.modMe_cur (s : State) (f : Strand → Strand) : (s.modMe f).cur = s.cur := rfl
@[simp] theorem State.modMe_uid (s : State) (f : Strand → Strand) : (s.modMe f).uid = s.uid := rfl
@[simp] theorem State.modMe_draws (s : State) (f : Strand → Strand) : (s.modMe f).draws = s.draws := rfl

@[simp] theorem State.modMyCore_routers (s : State) (f : Core → Core) : (s.modMyCore f).routers = s.routers := rfl
@[simp] theorem State.modMyCore_regions (s : State) (f : Core → Core) : (s.modMyCore f).regions = s.regions := rfl
@[simp] theorem State.modMyCore_transit (s : State) (f : Core → Core) : (s.modMyCore f).transit = s.transit := rfl
@[simp] theorem State.modMyCore_inbox (s : State) (f : Core → Core) : (s.modMyCore f).inbox = s.inbox := rfl
@[simp] theorem State.modMyCore_reasm (s : State) (f : Core → Core) : (s.modMyCore f).reasm = s.reasm := rfl
@[simp] theorem State.modMyCore_held (s : State) (f : Core → Core) : (s.modMyCore f).held = s.held := rfl
@[simp] theorem State.modMyCore_tags (s : State) (f : Core → Core) : (s.modMyCore f).tags = s.tags := rfl
@[simp] theorem State.modMyCore_netord (s : State) (f : Core → Core) : (s.modMyCore f).netord = s.netord := rfl
@[simp] theorem State.modMyCore_netdiam (s : State) (f : Core → Core) : (s.modMyCore f).netdiam = s.netdiam := rfl
@[simp] theorem State.modMyCore_home (s : State) (f : Core → Core) : (s.modMyCore f).home = s.home := rfl
@[simp] theorem State.modMyCore_proxies (s : State) (f : Core → Core) : (s.modMyCore f).proxies = s.proxies := rfl
@[simp] theorem State.modMyCore_preqs (s : State) (f : Core → Core) : (s.modMyCore f).preqs = s.preqs := rfl
@[simp] theorem State.modMyCore_slices (s : State) (f : Core → Core) : (s.modMyCore f).slices = s.slices := rfl
@[simp] theorem State.modMyCore_hbm (s : State) (f : Core → Core) : (s.modMyCore f).hbm = s.hbm := rfl
@[simp] theorem State.modMyCore_hmeta (s : State) (f : Core → Core) : (s.modMyCore f).hmeta = s.hmeta := rfl
@[simp] theorem State.modMyCore_hostMem (s : State) (f : Core → Core) : (s.modMyCore f).hostMem = s.hostMem := rfl
@[simp] theorem State.modMyCore_dev (s : State) (f : Core → Core) : (s.modMyCore f).dev = s.dev := rfl
@[simp] theorem State.modMyCore_hostOut (s : State) (f : Core → Core) : (s.modMyCore f).hostOut = s.hostOut := rfl
@[simp] theorem State.modMyCore_hbmCorr (s : State) (f : Core → Core) : (s.modMyCore f).hbmCorr = s.hbmCorr := rfl
@[simp] theorem State.modMyCore_hbmUncorr (s : State) (f : Core → Core) : (s.modMyCore f).hbmUncorr = s.hbmUncorr := rfl
@[simp] theorem State.modMyCore_tensors (s : State) (f : Core → Core) : (s.modMyCore f).tensors = s.tensors := rfl
@[simp] theorem State.modMyCore_logs (s : State) (f : Core → Core) : (s.modMyCore f).logs = s.logs := rfl
@[simp] theorem State.modMyCore_barGroups (s : State) (f : Core → Core) : (s.modMyCore f).barGroups = s.barGroups := rfl
@[simp] theorem State.modMyCore_devSeqr (s : State) (f : Core → Core) : (s.modMyCore f).devSeqr = s.devSeqr := rfl
@[simp] theorem State.modMyCore_cluSeqrs (s : State) (f : Core → Core) : (s.modMyCore f).cluSeqrs = s.cluSeqrs := rfl
@[simp] theorem State.modMyCore_queues (s : State) (f : Core → Core) : (s.modMyCore f).queues = s.queues := rfl
@[simp] theorem State.modMyCore_contexts (s : State) (f : Core → Core) : (s.modMyCore f).contexts = s.contexts := rfl
@[simp] theorem State.modMyCore_pools (s : State) (f : Core → Core) : (s.modMyCore f).pools = s.pools := rfl
@[simp] theorem State.modMyCore_parked (s : State) (f : Core → Core) : (s.modMyCore f).parked = s.parked := rfl
@[simp] theorem State.modMyCore_migrated (s : State) (f : Core → Core) : (s.modMyCore f).migrated = s.migrated := rfl
@[simp] theorem State.modMyCore_strandImages (s : State) (f : Core → Core) : (s.modMyCore f).strandImages = s.strandImages := rfl
@[simp] theorem State.modMyCore_coreImages (s : State) (f : Core → Core) : (s.modMyCore f).coreImages = s.coreImages := rfl
@[simp] theorem State.modMyCore_saves (s : State) (f : Core → Core) : (s.modMyCore f).saves = s.saves := rfl
@[simp] theorem State.modMyCore_clusters (s : State) (f : Core → Core) : (s.modMyCore f).clusters = s.clusters := rfl
@[simp] theorem State.modMyCore_melt (s : State) (f : Core → Core) : (s.modMyCore f).melt = s.melt := rfl
@[simp] theorem State.modMyCore_rfz (s : State) (f : Core → Core) : (s.modMyCore f).rfz = s.rfz := rfl
@[simp] theorem State.modMyCore_optical (s : State) (f : Core → Core) : (s.modMyCore f).optical = s.optical := rfl
@[simp] theorem State.modMyCore_bumps (s : State) (f : Core → Core) : (s.modMyCore f).bumps = s.bumps := rfl
@[simp] theorem State.modMyCore_bumpReqs (s : State) (f : Core → Core) : (s.modMyCore f).bumpReqs = s.bumpReqs := rfl
@[simp] theorem State.modMyCore_timecode (s : State) (f : Core → Core) : (s.modMyCore f).timecode = s.timecode := rfl
@[simp] theorem State.modMyCore_qbase (s : State) (f : Core → Core) : (s.modMyCore f).qbase = s.qbase := rfl
@[simp] theorem State.modMyCore_cbase (s : State) (f : Core → Core) : (s.modMyCore f).cbase = s.cbase := rfl
@[simp] theorem State.modMyCore_tcMaster (s : State) (f : Core → Core) : (s.modMyCore f).tcMaster = s.tcMaster := rfl
@[simp] theorem State.modMyCore_tcLock (s : State) (f : Core → Core) : (s.modMyCore f).tcLock = s.tcLock := rfl
@[simp] theorem State.modMyCore_tcOfs (s : State) (f : Core → Core) : (s.modMyCore f).tcOfs = s.tcOfs := rfl
@[simp] theorem State.modMyCore_tcSlew (s : State) (f : Core → Core) : (s.modMyCore f).tcSlew = s.tcSlew := rfl
@[simp] theorem State.modMyCore_resyncAddr (s : State) (f : Core → Core) : (s.modMyCore f).resyncAddr = s.resyncAddr := rfl
@[simp] theorem State.modMyCore_resyncSt (s : State) (f : Core → Core) : (s.modMyCore f).resyncSt = s.resyncSt := rfl
@[simp] theorem State.modMyCore_resyncBuf (s : State) (f : Core → Core) : (s.modMyCore f).resyncBuf = s.resyncBuf := rfl
@[simp] theorem State.modMyCore_resyncDue (s : State) (f : Core → Core) : (s.modMyCore f).resyncDue = s.resyncDue := rfl
@[simp] theorem State.modMyCore_killBusy (s : State) (f : Core → Core) : (s.modMyCore f).killBusy = s.killBusy := rfl
@[simp] theorem State.modMyCore_killCtx (s : State) (f : Core → Core) : (s.modMyCore f).killCtx = s.killCtx := rfl
@[simp] theorem State.modMyCore_msix (s : State) (f : Core → Core) : (s.modMyCore f).msix = s.msix := rfl
@[simp] theorem State.modMyCore_reports (s : State) (f : Core → Core) : (s.modMyCore f).reports = s.reports := rfl
@[simp] theorem State.modMyCore_fencedCount (s : State) (f : Core → Core) : (s.modMyCore f).fencedCount = s.fencedCount := rfl
@[simp] theorem State.modMyCore_charged (s : State) (f : Core → Core) : (s.modMyCore f).charged = s.charged := rfl
@[simp] theorem State.modMyCore_counts (s : State) (f : Core → Core) : (s.modMyCore f).counts = s.counts := rfl
@[simp] theorem State.modMyCore_flash (s : State) (f : Core → Core) : (s.modMyCore f).flash = s.flash := rfl
@[simp] theorem State.modMyCore_booted (s : State) (f : Core → Core) : (s.modMyCore f).booted = s.booted := rfl
@[simp] theorem State.modMyCore_bootstat (s : State) (f : Core → Core) : (s.modMyCore f).bootstat = s.bootstat := rfl
@[simp] theorem State.modMyCore_ptcfg (s : State) (f : Core → Core) : (s.modMyCore f).ptcfg = s.ptcfg := rfl
@[simp] theorem State.modMyCore_env (s : State) (f : Core → Core) : (s.modMyCore f).env = s.env := rfl
@[simp] theorem State.modMyCore_agenda (s : State) (f : Core → Core) : (s.modMyCore f).agenda = s.agenda := rfl
@[simp] theorem State.modMyCore_cur (s : State) (f : Core → Core) : (s.modMyCore f).cur = s.cur := rfl
@[simp] theorem State.modMyCore_uid (s : State) (f : Core → Core) : (s.modMyCore f).uid = s.uid := rfl
@[simp] theorem State.modMyCore_draws (s : State) (f : Core → Core) : (s.modMyCore f).draws = s.draws := rfl

@[simp] theorem Core.setStrand_ls (x : Core) (i : Nat) (t : Strand) : (x.setStrand i t).ls = x.ls := rfl
@[simp] theorem Core.setStrand_bkmd0 (x : Core) (i : Nat) (t : Strand) : (x.setStrand i t).bkmd0 = x.bkmd0 := rfl
@[simp] theorem Core.setStrand_bkmd1 (x : Core) (i : Nat) (t : Strand) : (x.setStrand i t).bkmd1 = x.bkmd1 := rfl
@[simp] theorem Core.setStrand_res (x : Core) (i : Nat) (t : Strand) : (x.setStrand i t).res = x.res := rfl
@[simp] theorem Core.setStrand_fifos (x : Core) (i : Nat) (t : Strand) : (x.setStrand i t).fifos = x.fifos := rfl
@[simp] theorem Core.setStrand_l1 (x : Core) (i : Nat) (t : Strand) : (x.setStrand i t).l1 = x.l1 := rfl
@[simp] theorem Core.setStrand_icache (x : Core) (i : Nat) (t : Strand) : (x.setStrand i t).icache = x.icache := rfl
@[simp] theorem Core.setStrand_tiles (x : Core) (i : Nat) (t : Strand) : (x.setStrand i t).tiles = x.tiles := rfl
@[simp] theorem Core.setStrand_slots (x : Core) (i : Nat) (t : Strand) : (x.setStrand i t).slots = x.slots := rfl
@[simp] theorem Core.setStrand_accs (x : Core) (i : Nat) (t : Strand) : (x.setStrand i t).accs = x.accs := rfl
@[simp] theorem Core.setStrand_mxq (x : Core) (i : Nat) (t : Strand) : (x.setStrand i t).mxq = x.mxq := rfl
@[simp] theorem Core.setStrand_copies (x : Core) (i : Nat) (t : Strand) : (x.setStrand i t).copies = x.copies := rfl
@[simp] theorem Core.setStrand_groups (x : Core) (i : Nat) (t : Strand) : (x.setStrand i t).groups = x.groups := rfl
@[simp] theorem Core.setStrand_streams (x : Core) (i : Nat) (t : Strand) : (x.setStrand i t).streams = x.streams := rfl
@[simp] theorem Core.setStrand_journal (x : Core) (i : Nat) (t : Strand) : (x.setStrand i t).journal = x.journal := rfl
@[simp] theorem Core.setStrand_tlb1 (x : Core) (i : Nat) (t : Strand) : (x.setStrand i t).tlb1 = x.tlb1 := rfl
@[simp] theorem Core.setStrand_tlb2 (x : Core) (i : Nat) (t : Strand) : (x.setStrand i t).tlb2 = x.tlb2 := rfl
@[simp] theorem Core.setStrand_walks (x : Core) (i : Nat) (t : Strand) : (x.setStrand i t).walks = x.walks := rfl
@[simp] theorem Core.setStrand_nodes (x : Core) (i : Nat) (t : Strand) : (x.setStrand i t).nodes = x.nodes := rfl
@[simp] theorem Core.setStrand_stalled (x : Core) (i : Nat) (t : Strand) : (x.setStrand i t).stalled = x.stalled := rfl
@[simp] theorem Core.setStrand_slotWait (x : Core) (i : Nat) (t : Strand) : (x.setStrand i t).slotWait = x.slotWait := rfl
@[simp] theorem Core.setStrand_accWait (x : Core) (i : Nat) (t : Strand) : (x.setStrand i t).accWait = x.accWait := rfl
@[simp] theorem Core.setStrand_faultOvf (x : Core) (i : Nat) (t : Strand) : (x.setStrand i t).faultOvf = x.faultOvf := rfl
@[simp] theorem Core.setStrand_faultTag (x : Core) (i : Nat) (t : Strand) : (x.setStrand i t).faultTag = x.faultTag := rfl
@[simp] theorem Core.setStrand_sliceFault (x : Core) (i : Nat) (t : Strand) : (x.setStrand i t).sliceFault = x.sliceFault := rfl
@[simp] theorem Core.setStrand_replies (x : Core) (i : Nat) (t : Strand) : (x.setStrand i t).replies = x.replies := rfl
@[simp] theorem Core.setStrand_errors (x : Core) (i : Nat) (t : Strand) : (x.setStrand i t).errors = x.errors := rfl
@[simp] theorem Core.setStrand_dark (x : Core) (i : Nat) (t : Strand) : (x.setStrand i t).dark = x.dark := rfl
@[simp] theorem Core.setStrand_fenced (x : Core) (i : Nat) (t : Strand) : (x.setStrand i t).fenced = x.fenced := rfl
@[simp] theorem Core.setStrand_heldPlaced (x : Core) (i : Nat) (t : Strand) : (x.setStrand i t).heldPlaced = x.heldPlaced := rfl
@[simp] theorem Core.setStrand_placed (x : Core) (i : Nat) (t : Strand) : (x.setStrand i t).placed = x.placed := rfl
@[simp] theorem Core.setStrand_bumps (x : Core) (i : Nat) (t : Strand) : (x.setStrand i t).bumps = x.bumps := rfl
@[simp] theorem Core.setStrand_preempt (x : Core) (i : Nat) (t : Strand) : (x.setStrand i t).preempt = x.preempt := rfl
@[simp] theorem Core.setStrand_refill (x : Core) (i : Nat) (t : Strand) : (x.setStrand i t).refill = x.refill := rfl
@[simp] theorem Core.setStrand_ctx (x : Core) (i : Nat) (t : Strand) : (x.setStrand i t).ctx = x.ctx := rfl
@[simp] theorem Core.setStrand_scq (x : Core) (i : Nat) (t : Strand) : (x.setStrand i t).scq = x.scq := rfl
@[simp] theorem Core.setStrand_fills (x : Core) (i : Nat) (t : Strand) : (x.setStrand i t).fills = x.fills := rfl
@[simp] theorem Core.setStrand_stamp (x : Core) (i : Nat) (t : Strand) : (x.setStrand i t).stamp = x.stamp := rfl

@[simp] theorem Strand.setG_v (t : Strand) (n : Nat) (x : W64) : (t.setG n x).v = t.v := rfl
@[simp] theorem Strand.setG_k (t : Strand) (n : Nat) (x : W64) : (t.setG n x).k = t.k := rfl
@[simp] theorem Strand.setG_pc (t : Strand) (n : Nat) (x : W64) : (t.setG n x).pc = t.pc := rfl
@[simp] theorem Strand.setG_status (t : Strand) (n : Nat) (x : W64) : (t.setG n x).status = t.status := rfl
@[simp] theorem Strand.setG_cause (t : Strand) (n : Nat) (x : W64) : (t.setG n x).cause = t.cause := rfl
@[simp] theorem Strand.setG_epc (t : Strand) (n : Nat) (x : W64) : (t.setG n x).epc = t.epc := rfl
@[simp] theorem Strand.setG_badaddr (t : Strand) (n : Nat) (x : W64) : (t.setG n x).badaddr = t.badaddr := rfl
@[simp] theorem Strand.setG_pxv (t : Strand) (n : Nat) (x : W64) : (t.setG n x).pxv = t.pxv := rfl
@[simp] theorem Strand.setG_fstat (t : Strand) (n : Nat) (x : W64) : (t.setG n x).fstat = t.fstat := rfl
@[simp] theorem Strand.setG_svcXyz (t : Strand) (n : Nat) (x : W64) : (t.setG n x).svcXyz = t.svcXyz := rfl
@[simp] theorem Strand.setG_asid (t : Strand) (n : Nat) (x : W64) : (t.setG n x).asid = t.asid := rfl
@[simp] theorem Strand.setG_stkb (t : Strand) (n : Nat) (x : W64) : (t.setG n x).stkb = t.stkb := rfl
@[simp] theorem Strand.setG_rnglo (t : Strand) (n : Nat) (x : W64) : (t.setG n x).rnglo = t.rnglo := rfl
@[simp] theorem Strand.setG_rnghi (t : Strand) (n : Nat) (x : W64) : (t.setG n x).rnghi = t.rnghi := rfl
@[simp] theorem Strand.setG_dfCause (t : Strand) (n : Nat) (x : W64) : (t.setG n x).dfCause = t.dfCause := rfl
@[simp] theorem Strand.setG_pend (t : Strand) (n : Nat) (x : W64) : (t.setG n x).pend = t.pend := rfl
@[simp] theorem Strand.setG_behind (t : Strand) (n : Nat) (x : W64) : (t.setG n x).behind = t.behind := rfl
@[simp] theorem Strand.setG_preResume (t : Strand) (n : Nat) (x : W64) : (t.setG n x).preResume = t.preResume := rfl
@[simp] theorem Strand.setG_merrlg (t : Strand) (n : Nat) (x : W64) : (t.setG n x).merrlg = t.merrlg := rfl
@[simp] theorem Strand.setG_ldc (t : Strand) (n : Nat) (x : W64) : (t.setG n x).ldc = t.ldc := rfl
@[simp] theorem Strand.setG_stc (t : Strand) (n : Nat) (x : W64) : (t.setG n x).stc = t.stc := rfl
@[simp] theorem Strand.setG_cpc (t : Strand) (n : Nat) (x : W64) : (t.setG n x).cpc = t.cpc := rfl
@[simp] theorem Strand.setG_tlc (t : Strand) (n : Nat) (x : W64) : (t.setG n x).tlc = t.tlc := rfl
@[simp] theorem Strand.setG_rsc (t : Strand) (n : Nat) (x : W64) : (t.setG n x).rsc = t.rsc := rfl
@[simp] theorem Strand.setG_join (t : Strand) (n : Nat) (x : W64) : (t.setG n x).join = t.join := rfl
@[simp] theorem Strand.setG_qfree (t : Strand) (n : Nat) (x : W64) : (t.setG n x).qfree = t.qfree := rfl
@[simp] theorem Strand.setG_qaddr (t : Strand) (n : Nat) (x : W64) : (t.setG n x).qaddr = t.qaddr := rfl
@[simp] theorem Strand.setG_uprog (t : Strand) (n : Nat) (x : W64) : (t.setG n x).uprog = t.uprog := rfl
@[simp] theorem Strand.setG_retry (t : Strand) (n : Nat) (x : W64) : (t.setG n x).retry = t.retry := rfl
@[simp] theorem Strand.setG_window (t : Strand) (n : Nat) (x : W64) : (t.setG n x).window = t.window := rfl
@[simp] theorem Strand.setG_sawCause (t : Strand) (n : Nat) (x : W64) : (t.setG n x).sawCause = t.sawCause := rfl
@[simp] theorem Strand.setG_sawBad (t : Strand) (n : Nat) (x : W64) : (t.setG n x).sawBad = t.sawBad := rfl
@[simp] theorem Strand.setG_run (t : Strand) (n : Nat) (x : W64) : (t.setG n x).run = t.run := rfl
@[simp] theorem Strand.setG_cocoon (t : Strand) (n : Nat) (x : W64) : (t.setG n x).cocoon = t.cocoon := rfl
@[simp] theorem Strand.setG_wait (t : Strand) (n : Nat) (x : W64) : (t.setG n x).wait = t.wait := rfl
@[simp] theorem Strand.setG_gen (t : Strand) (n : Nat) (x : W64) : (t.setG n x).gen = t.gen := rfl
@[simp] theorem Strand.setG_fault (t : Strand) (n : Nat) (x : W64) : (t.setG n x).fault = t.fault := rfl
@[simp] theorem Strand.setG_preempting (t : Strand) (n : Nat) (x : W64) : (t.setG n x).preempting = t.preempting := rfl
@[simp] theorem Strand.setG_saved (t : Strand) (n : Nat) (x : W64) : (t.setG n x).saved = t.saved := rfl
@[simp] theorem Strand.setG_join4 (t : Strand) (n : Nat) (x : W64) : (t.setG n x).join4 = t.join4 := rfl
@[simp] theorem Strand.setG_entered (t : Strand) (n : Nat) (x : W64) : (t.setG n x).entered = t.entered := rfl
@[simp] theorem Strand.setG_scNo (t : Strand) (n : Nat) (x : W64) : (t.setG n x).scNo = t.scNo := rfl
@[simp] theorem Strand.setG_entry (t : Strand) (n : Nat) (x : W64) : (t.setG n x).entry = t.entry := rfl
@[simp] theorem Strand.setG_midway (t : Strand) (n : Nat) (x : W64) : (t.setG n x).midway = t.midway := rfl
@[simp] theorem Strand.setG_left (t : Strand) (n : Nat) (x : W64) : (t.setG n x).left = t.left := rfl
@[simp] theorem Strand.setG_rangeStop (t : Strand) (n : Nat) (x : W64) : (t.setG n x).rangeStop = t.rangeStop := rfl
@[simp] theorem Strand.setG_ended (t : Strand) (n : Nat) (x : W64) : (t.setG n x).ended = t.ended := rfl
@[simp] theorem Strand.setG_noPage (t : Strand) (n : Nat) (x : W64) : (t.setG n x).noPage = t.noPage := rfl

@[simp] theorem Strand.setV_g (t : Strand) (n : Nat) (x : W1024) : (t.setV n x).g = t.g := rfl
@[simp] theorem Strand.setV_k (t : Strand) (n : Nat) (x : W1024) : (t.setV n x).k = t.k := rfl
@[simp] theorem Strand.setV_pc (t : Strand) (n : Nat) (x : W1024) : (t.setV n x).pc = t.pc := rfl
@[simp] theorem Strand.setV_status (t : Strand) (n : Nat) (x : W1024) : (t.setV n x).status = t.status := rfl
@[simp] theorem Strand.setV_cause (t : Strand) (n : Nat) (x : W1024) : (t.setV n x).cause = t.cause := rfl
@[simp] theorem Strand.setV_epc (t : Strand) (n : Nat) (x : W1024) : (t.setV n x).epc = t.epc := rfl
@[simp] theorem Strand.setV_badaddr (t : Strand) (n : Nat) (x : W1024) : (t.setV n x).badaddr = t.badaddr := rfl
@[simp] theorem Strand.setV_pxv (t : Strand) (n : Nat) (x : W1024) : (t.setV n x).pxv = t.pxv := rfl
@[simp] theorem Strand.setV_fstat (t : Strand) (n : Nat) (x : W1024) : (t.setV n x).fstat = t.fstat := rfl
@[simp] theorem Strand.setV_svcXyz (t : Strand) (n : Nat) (x : W1024) : (t.setV n x).svcXyz = t.svcXyz := rfl
@[simp] theorem Strand.setV_asid (t : Strand) (n : Nat) (x : W1024) : (t.setV n x).asid = t.asid := rfl
@[simp] theorem Strand.setV_stkb (t : Strand) (n : Nat) (x : W1024) : (t.setV n x).stkb = t.stkb := rfl
@[simp] theorem Strand.setV_rnglo (t : Strand) (n : Nat) (x : W1024) : (t.setV n x).rnglo = t.rnglo := rfl
@[simp] theorem Strand.setV_rnghi (t : Strand) (n : Nat) (x : W1024) : (t.setV n x).rnghi = t.rnghi := rfl
@[simp] theorem Strand.setV_dfCause (t : Strand) (n : Nat) (x : W1024) : (t.setV n x).dfCause = t.dfCause := rfl
@[simp] theorem Strand.setV_pend (t : Strand) (n : Nat) (x : W1024) : (t.setV n x).pend = t.pend := rfl
@[simp] theorem Strand.setV_behind (t : Strand) (n : Nat) (x : W1024) : (t.setV n x).behind = t.behind := rfl
@[simp] theorem Strand.setV_preResume (t : Strand) (n : Nat) (x : W1024) : (t.setV n x).preResume = t.preResume := rfl
@[simp] theorem Strand.setV_merrlg (t : Strand) (n : Nat) (x : W1024) : (t.setV n x).merrlg = t.merrlg := rfl
@[simp] theorem Strand.setV_ldc (t : Strand) (n : Nat) (x : W1024) : (t.setV n x).ldc = t.ldc := rfl
@[simp] theorem Strand.setV_stc (t : Strand) (n : Nat) (x : W1024) : (t.setV n x).stc = t.stc := rfl
@[simp] theorem Strand.setV_cpc (t : Strand) (n : Nat) (x : W1024) : (t.setV n x).cpc = t.cpc := rfl
@[simp] theorem Strand.setV_tlc (t : Strand) (n : Nat) (x : W1024) : (t.setV n x).tlc = t.tlc := rfl
@[simp] theorem Strand.setV_rsc (t : Strand) (n : Nat) (x : W1024) : (t.setV n x).rsc = t.rsc := rfl
@[simp] theorem Strand.setV_join (t : Strand) (n : Nat) (x : W1024) : (t.setV n x).join = t.join := rfl
@[simp] theorem Strand.setV_qfree (t : Strand) (n : Nat) (x : W1024) : (t.setV n x).qfree = t.qfree := rfl
@[simp] theorem Strand.setV_qaddr (t : Strand) (n : Nat) (x : W1024) : (t.setV n x).qaddr = t.qaddr := rfl
@[simp] theorem Strand.setV_uprog (t : Strand) (n : Nat) (x : W1024) : (t.setV n x).uprog = t.uprog := rfl
@[simp] theorem Strand.setV_retry (t : Strand) (n : Nat) (x : W1024) : (t.setV n x).retry = t.retry := rfl
@[simp] theorem Strand.setV_window (t : Strand) (n : Nat) (x : W1024) : (t.setV n x).window = t.window := rfl
@[simp] theorem Strand.setV_sawCause (t : Strand) (n : Nat) (x : W1024) : (t.setV n x).sawCause = t.sawCause := rfl
@[simp] theorem Strand.setV_sawBad (t : Strand) (n : Nat) (x : W1024) : (t.setV n x).sawBad = t.sawBad := rfl
@[simp] theorem Strand.setV_run (t : Strand) (n : Nat) (x : W1024) : (t.setV n x).run = t.run := rfl
@[simp] theorem Strand.setV_cocoon (t : Strand) (n : Nat) (x : W1024) : (t.setV n x).cocoon = t.cocoon := rfl
@[simp] theorem Strand.setV_wait (t : Strand) (n : Nat) (x : W1024) : (t.setV n x).wait = t.wait := rfl
@[simp] theorem Strand.setV_gen (t : Strand) (n : Nat) (x : W1024) : (t.setV n x).gen = t.gen := rfl
@[simp] theorem Strand.setV_fault (t : Strand) (n : Nat) (x : W1024) : (t.setV n x).fault = t.fault := rfl
@[simp] theorem Strand.setV_preempting (t : Strand) (n : Nat) (x : W1024) : (t.setV n x).preempting = t.preempting := rfl
@[simp] theorem Strand.setV_saved (t : Strand) (n : Nat) (x : W1024) : (t.setV n x).saved = t.saved := rfl
@[simp] theorem Strand.setV_join4 (t : Strand) (n : Nat) (x : W1024) : (t.setV n x).join4 = t.join4 := rfl
@[simp] theorem Strand.setV_entered (t : Strand) (n : Nat) (x : W1024) : (t.setV n x).entered = t.entered := rfl
@[simp] theorem Strand.setV_scNo (t : Strand) (n : Nat) (x : W1024) : (t.setV n x).scNo = t.scNo := rfl
@[simp] theorem Strand.setV_entry (t : Strand) (n : Nat) (x : W1024) : (t.setV n x).entry = t.entry := rfl
@[simp] theorem Strand.setV_midway (t : Strand) (n : Nat) (x : W1024) : (t.setV n x).midway = t.midway := rfl
@[simp] theorem Strand.setV_left (t : Strand) (n : Nat) (x : W1024) : (t.setV n x).left = t.left := rfl
@[simp] theorem Strand.setV_rangeStop (t : Strand) (n : Nat) (x : W1024) : (t.setV n x).rangeStop = t.rangeStop := rfl
@[simp] theorem Strand.setV_ended (t : Strand) (n : Nat) (x : W1024) : (t.setV n x).ended = t.ended := rfl
@[simp] theorem Strand.setV_noPage (t : Strand) (n : Nat) (x : W1024) : (t.setV n x).noPage = t.noPage := rfl

@[simp] theorem Strand.retired_g (t : Strand) (pc : W64) : (t.retired pc).g = t.g := rfl
@[simp] theorem Strand.retired_v (t : Strand) (pc : W64) : (t.retired pc).v = t.v := rfl
@[simp] theorem Strand.retired_k (t : Strand) (pc : W64) : (t.retired pc).k = t.k := rfl
@[simp] theorem Strand.retired_cause (t : Strand) (pc : W64) : (t.retired pc).cause = t.cause := rfl
@[simp] theorem Strand.retired_epc (t : Strand) (pc : W64) : (t.retired pc).epc = t.epc := rfl
@[simp] theorem Strand.retired_badaddr (t : Strand) (pc : W64) : (t.retired pc).badaddr = t.badaddr := rfl
@[simp] theorem Strand.retired_pxv (t : Strand) (pc : W64) : (t.retired pc).pxv = t.pxv := rfl
@[simp] theorem Strand.retired_fstat (t : Strand) (pc : W64) : (t.retired pc).fstat = t.fstat := rfl
@[simp] theorem Strand.retired_svcXyz (t : Strand) (pc : W64) : (t.retired pc).svcXyz = t.svcXyz := rfl
@[simp] theorem Strand.retired_asid (t : Strand) (pc : W64) : (t.retired pc).asid = t.asid := rfl
@[simp] theorem Strand.retired_stkb (t : Strand) (pc : W64) : (t.retired pc).stkb = t.stkb := rfl
@[simp] theorem Strand.retired_rnglo (t : Strand) (pc : W64) : (t.retired pc).rnglo = t.rnglo := rfl
@[simp] theorem Strand.retired_rnghi (t : Strand) (pc : W64) : (t.retired pc).rnghi = t.rnghi := rfl
@[simp] theorem Strand.retired_dfCause (t : Strand) (pc : W64) : (t.retired pc).dfCause = t.dfCause := rfl
@[simp] theorem Strand.retired_pend (t : Strand) (pc : W64) : (t.retired pc).pend = t.pend := rfl
@[simp] theorem Strand.retired_behind (t : Strand) (pc : W64) : (t.retired pc).behind = t.behind := rfl
@[simp] theorem Strand.retired_preResume (t : Strand) (pc : W64) : (t.retired pc).preResume = t.preResume := rfl
@[simp] theorem Strand.retired_merrlg (t : Strand) (pc : W64) : (t.retired pc).merrlg = t.merrlg := rfl
@[simp] theorem Strand.retired_ldc (t : Strand) (pc : W64) : (t.retired pc).ldc = t.ldc := rfl
@[simp] theorem Strand.retired_stc (t : Strand) (pc : W64) : (t.retired pc).stc = t.stc := rfl
@[simp] theorem Strand.retired_cpc (t : Strand) (pc : W64) : (t.retired pc).cpc = t.cpc := rfl
@[simp] theorem Strand.retired_tlc (t : Strand) (pc : W64) : (t.retired pc).tlc = t.tlc := rfl
@[simp] theorem Strand.retired_rsc (t : Strand) (pc : W64) : (t.retired pc).rsc = t.rsc := rfl
@[simp] theorem Strand.retired_join (t : Strand) (pc : W64) : (t.retired pc).join = t.join := rfl
@[simp] theorem Strand.retired_qfree (t : Strand) (pc : W64) : (t.retired pc).qfree = t.qfree := rfl
@[simp] theorem Strand.retired_qaddr (t : Strand) (pc : W64) : (t.retired pc).qaddr = t.qaddr := rfl
@[simp] theorem Strand.retired_uprog (t : Strand) (pc : W64) : (t.retired pc).uprog = t.uprog := rfl
@[simp] theorem Strand.retired_window (t : Strand) (pc : W64) : (t.retired pc).window = t.window := rfl
@[simp] theorem Strand.retired_sawCause (t : Strand) (pc : W64) : (t.retired pc).sawCause = t.sawCause := rfl
@[simp] theorem Strand.retired_sawBad (t : Strand) (pc : W64) : (t.retired pc).sawBad = t.sawBad := rfl
@[simp] theorem Strand.retired_run (t : Strand) (pc : W64) : (t.retired pc).run = t.run := rfl
@[simp] theorem Strand.retired_cocoon (t : Strand) (pc : W64) : (t.retired pc).cocoon = t.cocoon := rfl
@[simp] theorem Strand.retired_gen (t : Strand) (pc : W64) : (t.retired pc).gen = t.gen := rfl
@[simp] theorem Strand.retired_fault (t : Strand) (pc : W64) : (t.retired pc).fault = t.fault := rfl
@[simp] theorem Strand.retired_preempting (t : Strand) (pc : W64) : (t.retired pc).preempting = t.preempting := rfl
@[simp] theorem Strand.retired_saved (t : Strand) (pc : W64) : (t.retired pc).saved = t.saved := rfl
@[simp] theorem Strand.retired_scNo (t : Strand) (pc : W64) : (t.retired pc).scNo = t.scNo := rfl
@[simp] theorem Strand.retired_entry (t : Strand) (pc : W64) : (t.retired pc).entry = t.entry := rfl
@[simp] theorem Strand.retired_left (t : Strand) (pc : W64) : (t.retired pc).left = t.left := rfl
@[simp] theorem Strand.retired_rangeStop (t : Strand) (pc : W64) : (t.retired pc).rangeStop = t.rangeStop := rfl
@[simp] theorem Strand.retired_ended (t : Strand) (pc : W64) : (t.retired pc).ended = t.ended := rfl

@[simp] theorem Strand.revert_g (t : Strand) : (t.revert).g = t.g := rfl
@[simp] theorem Strand.revert_v (t : Strand) : (t.revert).v = t.v := rfl
@[simp] theorem Strand.revert_k (t : Strand) : (t.revert).k = t.k := rfl
@[simp] theorem Strand.revert_pc (t : Strand) : (t.revert).pc = t.pc := rfl
@[simp] theorem Strand.revert_cause (t : Strand) : (t.revert).cause = t.cause := rfl
@[simp] theorem Strand.revert_epc (t : Strand) : (t.revert).epc = t.epc := rfl
@[simp] theorem Strand.revert_badaddr (t : Strand) : (t.revert).badaddr = t.badaddr := rfl
@[simp] theorem Strand.revert_fstat (t : Strand) : (t.revert).fstat = t.fstat := rfl
@[simp] theorem Strand.revert_svcXyz (t : Strand) : (t.revert).svcXyz = t.svcXyz := rfl
@[simp] theorem Strand.revert_asid (t : Strand) : (t.revert).asid = t.asid := rfl
@[simp] theorem Strand.revert_stkb (t : Strand) : (t.revert).stkb = t.stkb := rfl
@[simp] theorem Strand.revert_rnglo (t : Strand) : (t.revert).rnglo = t.rnglo := rfl
@[simp] theorem Strand.revert_rnghi (t : Strand) : (t.revert).rnghi = t.rnghi := rfl
@[simp] theorem Strand.revert_dfCause (t : Strand) : (t.revert).dfCause = t.dfCause := rfl
@[simp] theorem Strand.revert_pend (t : Strand) : (t.revert).pend = t.pend := rfl
@[simp] theorem Strand.revert_behind (t : Strand) : (t.revert).behind = t.behind := rfl
@[simp] theorem Strand.revert_preResume (t : Strand) : (t.revert).preResume = t.preResume := rfl
@[simp] theorem Strand.revert_merrlg (t : Strand) : (t.revert).merrlg = t.merrlg := rfl
@[simp] theorem Strand.revert_ldc (t : Strand) : (t.revert).ldc = t.ldc := rfl
@[simp] theorem Strand.revert_stc (t : Strand) : (t.revert).stc = t.stc := rfl
@[simp] theorem Strand.revert_cpc (t : Strand) : (t.revert).cpc = t.cpc := rfl
@[simp] theorem Strand.revert_tlc (t : Strand) : (t.revert).tlc = t.tlc := rfl
@[simp] theorem Strand.revert_rsc (t : Strand) : (t.revert).rsc = t.rsc := rfl
@[simp] theorem Strand.revert_join (t : Strand) : (t.revert).join = t.join := rfl
@[simp] theorem Strand.revert_qfree (t : Strand) : (t.revert).qfree = t.qfree := rfl
@[simp] theorem Strand.revert_qaddr (t : Strand) : (t.revert).qaddr = t.qaddr := rfl
@[simp] theorem Strand.revert_uprog (t : Strand) : (t.revert).uprog = t.uprog := rfl
@[simp] theorem Strand.revert_retry (t : Strand) : (t.revert).retry = t.retry := rfl
@[simp] theorem Strand.revert_window (t : Strand) : (t.revert).window = t.window := rfl
@[simp] theorem Strand.revert_sawCause (t : Strand) : (t.revert).sawCause = t.sawCause := rfl
@[simp] theorem Strand.revert_sawBad (t : Strand) : (t.revert).sawBad = t.sawBad := rfl
@[simp] theorem Strand.revert_run (t : Strand) : (t.revert).run = t.run := rfl
@[simp] theorem Strand.revert_cocoon (t : Strand) : (t.revert).cocoon = t.cocoon := rfl
@[simp] theorem Strand.revert_wait (t : Strand) : (t.revert).wait = t.wait := rfl
@[simp] theorem Strand.revert_gen (t : Strand) : (t.revert).gen = t.gen := rfl
@[simp] theorem Strand.revert_fault (t : Strand) : (t.revert).fault = t.fault := rfl
@[simp] theorem Strand.revert_preempting (t : Strand) : (t.revert).preempting = t.preempting := rfl
@[simp] theorem Strand.revert_saved (t : Strand) : (t.revert).saved = t.saved := rfl
@[simp] theorem Strand.revert_join4 (t : Strand) : (t.revert).join4 = t.join4 := rfl
@[simp] theorem Strand.revert_entered (t : Strand) : (t.revert).entered = t.entered := rfl
@[simp] theorem Strand.revert_scNo (t : Strand) : (t.revert).scNo = t.scNo := rfl
@[simp] theorem Strand.revert_entry (t : Strand) : (t.revert).entry = t.entry := rfl
@[simp] theorem Strand.revert_midway (t : Strand) : (t.revert).midway = t.midway := rfl
@[simp] theorem Strand.revert_left (t : Strand) : (t.revert).left = t.left := rfl
@[simp] theorem Strand.revert_rangeStop (t : Strand) : (t.revert).rangeStop = t.rangeStop := rfl
@[simp] theorem Strand.revert_ended (t : Strand) : (t.revert).ended = t.ended := rfl
@[simp] theorem Strand.revert_noPage (t : Strand) : (t.revert).noPage = t.noPage := rfl

@[simp] theorem Strand.jump_g (t : Strand) (pc : W64) : (t.jump pc).g = t.g := rfl
@[simp] theorem Strand.jump_v (t : Strand) (pc : W64) : (t.jump pc).v = t.v := rfl
@[simp] theorem Strand.jump_k (t : Strand) (pc : W64) : (t.jump pc).k = t.k := rfl
@[simp] theorem Strand.jump_status (t : Strand) (pc : W64) : (t.jump pc).status = t.status := rfl
@[simp] theorem Strand.jump_cause (t : Strand) (pc : W64) : (t.jump pc).cause = t.cause := rfl
@[simp] theorem Strand.jump_epc (t : Strand) (pc : W64) : (t.jump pc).epc = t.epc := rfl
@[simp] theorem Strand.jump_badaddr (t : Strand) (pc : W64) : (t.jump pc).badaddr = t.badaddr := rfl
@[simp] theorem Strand.jump_pxv (t : Strand) (pc : W64) : (t.jump pc).pxv = t.pxv := rfl
@[simp] theorem Strand.jump_fstat (t : Strand) (pc : W64) : (t.jump pc).fstat = t.fstat := rfl
@[simp] theorem Strand.jump_svcXyz (t : Strand) (pc : W64) : (t.jump pc).svcXyz = t.svcXyz := rfl
@[simp] theorem Strand.jump_asid (t : Strand) (pc : W64) : (t.jump pc).asid = t.asid := rfl
@[simp] theorem Strand.jump_stkb (t : Strand) (pc : W64) : (t.jump pc).stkb = t.stkb := rfl
@[simp] theorem Strand.jump_rnglo (t : Strand) (pc : W64) : (t.jump pc).rnglo = t.rnglo := rfl
@[simp] theorem Strand.jump_rnghi (t : Strand) (pc : W64) : (t.jump pc).rnghi = t.rnghi := rfl
@[simp] theorem Strand.jump_dfCause (t : Strand) (pc : W64) : (t.jump pc).dfCause = t.dfCause := rfl
@[simp] theorem Strand.jump_pend (t : Strand) (pc : W64) : (t.jump pc).pend = t.pend := rfl
@[simp] theorem Strand.jump_behind (t : Strand) (pc : W64) : (t.jump pc).behind = t.behind := rfl
@[simp] theorem Strand.jump_preResume (t : Strand) (pc : W64) : (t.jump pc).preResume = t.preResume := rfl
@[simp] theorem Strand.jump_merrlg (t : Strand) (pc : W64) : (t.jump pc).merrlg = t.merrlg := rfl
@[simp] theorem Strand.jump_ldc (t : Strand) (pc : W64) : (t.jump pc).ldc = t.ldc := rfl
@[simp] theorem Strand.jump_stc (t : Strand) (pc : W64) : (t.jump pc).stc = t.stc := rfl
@[simp] theorem Strand.jump_cpc (t : Strand) (pc : W64) : (t.jump pc).cpc = t.cpc := rfl
@[simp] theorem Strand.jump_tlc (t : Strand) (pc : W64) : (t.jump pc).tlc = t.tlc := rfl
@[simp] theorem Strand.jump_rsc (t : Strand) (pc : W64) : (t.jump pc).rsc = t.rsc := rfl
@[simp] theorem Strand.jump_join (t : Strand) (pc : W64) : (t.jump pc).join = t.join := rfl
@[simp] theorem Strand.jump_qfree (t : Strand) (pc : W64) : (t.jump pc).qfree = t.qfree := rfl
@[simp] theorem Strand.jump_qaddr (t : Strand) (pc : W64) : (t.jump pc).qaddr = t.qaddr := rfl
@[simp] theorem Strand.jump_uprog (t : Strand) (pc : W64) : (t.jump pc).uprog = t.uprog := rfl
@[simp] theorem Strand.jump_retry (t : Strand) (pc : W64) : (t.jump pc).retry = t.retry := rfl
@[simp] theorem Strand.jump_window (t : Strand) (pc : W64) : (t.jump pc).window = t.window := rfl
@[simp] theorem Strand.jump_sawCause (t : Strand) (pc : W64) : (t.jump pc).sawCause = t.sawCause := rfl
@[simp] theorem Strand.jump_sawBad (t : Strand) (pc : W64) : (t.jump pc).sawBad = t.sawBad := rfl
@[simp] theorem Strand.jump_run (t : Strand) (pc : W64) : (t.jump pc).run = t.run := rfl
@[simp] theorem Strand.jump_cocoon (t : Strand) (pc : W64) : (t.jump pc).cocoon = t.cocoon := rfl
@[simp] theorem Strand.jump_gen (t : Strand) (pc : W64) : (t.jump pc).gen = t.gen := rfl
@[simp] theorem Strand.jump_fault (t : Strand) (pc : W64) : (t.jump pc).fault = t.fault := rfl
@[simp] theorem Strand.jump_preempting (t : Strand) (pc : W64) : (t.jump pc).preempting = t.preempting := rfl
@[simp] theorem Strand.jump_saved (t : Strand) (pc : W64) : (t.jump pc).saved = t.saved := rfl
@[simp] theorem Strand.jump_entered (t : Strand) (pc : W64) : (t.jump pc).entered = t.entered := rfl
@[simp] theorem Strand.jump_scNo (t : Strand) (pc : W64) : (t.jump pc).scNo = t.scNo := rfl
@[simp] theorem Strand.jump_entry (t : Strand) (pc : W64) : (t.jump pc).entry = t.entry := rfl
@[simp] theorem Strand.jump_left (t : Strand) (pc : W64) : (t.jump pc).left = t.left := rfl
@[simp] theorem Strand.jump_rangeStop (t : Strand) (pc : W64) : (t.jump pc).rangeStop = t.rangeStop := rfl
@[simp] theorem Strand.jump_ended (t : Strand) (pc : W64) : (t.jump pc).ended = t.ended := rfl

end Sys2Proof.Machine
end

