-- ==== Sys2Proof/Laws/Ops.lean ====
section
/-!
SUPPORT. What the shared operations can do, each said once: how an instruction begins, retires and completes.
-/

namespace Sys2Proof.Machine

/-! ## One strand only -/

theorem OnlyStrand.refl (c i : Nat) (s : State) : OnlyStrand c i s s := ⟨rfl, fun _ => rfl, fun _ _ _ => rfl⟩

theorem OnlyStrand.trans {c i : Nat} {s t u : State} (h : OnlyStrand c i s t) (g : OnlyStrand c i t u) : OnlyStrand c i s u := by
  obtain ⟨h1, h2, h3⟩ := h
  obtain ⟨g1, g2, g3⟩ := g
  refine ⟨?_, fun k => ?_, fun k j e => (g3 k j e).trans (h3 k j e)⟩
  · rw [g1, h1]
  · rw [g2 k, h2 k]

theorem State.modStrand_only (s : State) (c i : Nat) (f : Strand → Strand) : OnlyStrand c i s (s.modStrand c i f) :=
  ⟨rfl, fun k => s.core_modStrand c i k f, fun _ _ h => s.strand_modStrand_other f h⟩

theorem State.me_modMe (s : State) (f : Strand → Strand) (h : s.cur.2 < 4) : (s.modMe f).me = f s.me :=
  s.strand_modStrand_same _ f h

/-- Two changes of one strand are one. -/
theorem State.modStrand_modStrand (s : State) (c i : Nat) (f g : Strand → Strand) (h : i < 4) :
    ((s.modStrand c i f).modStrand c i g).strand c i = g (f (s.strand c i)) := by
  rw [State.strand_modStrand_same _ _ _ h, State.strand_modStrand_same _ _ _ h]

/-! ## Beginning -/

/-- An instruction that begins runs its body under the descriptor in force. -/
theorem State.begin_body {x : PxSpec} {pr : Bool} {p : Pred} {s : State} (h : Begins x pr p s) (body : Desc → State) :
    s.begin_ x pr p body = body s.me.desc := by
  obtain ⟨-, hx, hp, hq⟩ := h
  unfold State.begin_
  cases hpx : s.me.px
  · cases pr <;> simp_all
  · obtain ⟨h1, h2, h3⟩ := hx hpx
    cases pr <;> simp_all

/-- Without a pending prefix an instruction begins when its mode and its predicate allow it. -/
theorem Begins.of_plain {x : PxSpec} {pr : Bool} {p : Pred} {s : State} (h : s.cur.2 < 4) (hx : s.me.px = false)
    (hp : pr = true → s.me.prv = true) (hq : s.me.predOn p = true) : Begins x pr p s :=
  ⟨h, fun e => by simp [hx] at e, hp, hq⟩

/-! ## Retiring -/

/-- Where STEP is not armed, retiring adds nothing. -/
theorem State.stepTrap_off {s : State} {c i : Nat} (h : ((s.strand c i).sstep && (s.strand c i).ie) = false) :
    s.stepTrap c i = s := by
  simp [State.stepTrap, h]

@[simp] theorem setBit5_sstep (t : Strand) (w : W64) (h : t.status = setBit w 5 false) : t.sstep = w.getLsbD 11 := by
  simp [Strand.sstep, h, setBit]

@[simp] theorem setBit5_ie (t : Strand) (w : W64) (h : t.status = setBit w 5 false) : t.ie = w.getLsbD 10 := by
  simp [Strand.ie, h, setBit]

@[simp] theorem Strand.retired_sstep (t : Strand) (pc : W64) : (t.retired pc).sstep = t.sstep :=
  setBit5_sstep _ t.status rfl

@[simp] theorem Strand.retired_ie (t : Strand) (pc : W64) : (t.retired pc).ie = t.ie := setBit5_ie _ t.status rfl

/-- The group joined at the next line depends on the strand's PC and on the members it has noted. -/
theorem State.joinOf_modStrand (s : State) (c i : Nat) (f : Strand → Strand) (h : i < 4)
    (hpc : (f (s.strand c i)).pc = (s.strand c i).pc) (hj : (f (s.strand c i)).join4 = (s.strand c i).join4) :
    (s.modStrand c i f).joinOf c i = s.joinOf c i := by
  simp only [State.joinOf, s.strand_modStrand_same c f h, hpc, hj]

/-- What retiring a strand's instruction does where no STEP follows. -/
theorem State.retireAt_after (s : State) (c i : Nat) (f : Strand → Strand) (h : i < 4)
    (hu : ((f (s.strand c i)).sstep && (f (s.strand c i)).ie) = false)
    (hpc : (f (s.strand c i)).pc = (s.strand c i).pc) (hj : (f (s.strand c i)).join4 = (s.strand c i).join4) :
    RetiresAt c i s ((s.modStrand c i f).retireAt c i) (f (s.strand c i)) := by
  have j := s.joinOf_modStrand c i f h hpc hj
  have e : ((s.modStrand c i f).modStrand c i fun t =>
      { t.retired (pcNext t.pc) with join4 := (s.modStrand c i f).joinOf c i }).strand c i = s.past c i (f (s.strand c i)) := by
    rw [State.strand_modStrand_same _ _ _ h, State.strand_modStrand_same _ _ _ h, j]
    rfl
  have hst : ((s.past c i (f (s.strand c i))).sstep && (s.past c i (f (s.strand c i))).ie) = false := by
    have a : (s.past c i (f (s.strand c i))).sstep = (f (s.strand c i)).sstep :=
      Strand.retired_sstep (f (s.strand c i)) (pcNext (f (s.strand c i)).pc)
    have b : (s.past c i (f (s.strand c i))).ie = (f (s.strand c i)).ie :=
      Strand.retired_ie (f (s.strand c i)) (pcNext (f (s.strand c i)).pc)
    rw [a, b]; exact hu
  have fin : (s.modStrand c i f).retireAt c i = (s.modStrand c i f).modStrand c i fun t =>
      { t.retired (pcNext t.pc) with join4 := (s.modStrand c i f).joinOf c i } := by
    unfold State.retireAt
    exact State.stepTrap_off (by rw [e]; exact hst)
  rw [fin]
  exact ⟨(s.modStrand_only _ _ f).trans (State.modStrand_only _ _ _ _), e⟩

/-- An instruction that only changes its strand's registers completes. -/
theorem State.finish_completes (s : State) (f : Strand → Strand) (h : s.cur.2 < 4)
    (hu : ((f s.me).sstep && (f s.me).ie) = false)
    (hpc : (f s.me).pc = s.me.pc) (hj : (f s.me).join4 = s.me.join4) : Completes s (s.finish f) (f s.me) :=
  s.retireAt_after s.cur.1 s.cur.2 f h hu hpc hj

/-- A strand with the STATUS of one that takes no STEP takes none. -/
theorem Strand.unstepped_of_status {t u : Strand} (h : u.status = t.status) (hu : (t.sstep && t.ie) = false) :
    (u.sstep && u.ie) = false := by
  have a : u.sstep = t.sstep := by simp [Strand.sstep, h]
  have b : u.ie = t.ie := by simp [Strand.ie, h]
  rw [a, b]; exact hu

@[simp] theorem Strand.write_pc (t : Strand) (d : Opd) (x : W64) : (t.write d x).pc = t.pc := by
  cases d <;> simp [Strand.write, Strand.setG, Strand.setK] <;> split <;> simp

@[simp] theorem Strand.write_join4 (t : Strand) (d : Opd) (x : W64) : (t.write d x).join4 = t.join4 := by
  cases d <;> simp [Strand.write, Strand.setG, Strand.setK] <;> split <;> simp

@[simp] theorem Strand.write_status (t : Strand) (d : Opd) (x : W64) : (t.write d x).status = t.status := by
  cases d <;> simp [Strand.write, Strand.setG, Strand.setK] <;> split <;> simp

@[simp] theorem Strand.writeV_pc (t : Strand) (d : Opd) (x : W1024) : (t.writeV d x).pc = t.pc := by
  cases d <;> rfl

@[simp] theorem Strand.writeV_join4 (t : Strand) (d : Opd) (x : W1024) : (t.writeV d x).join4 = t.join4 := by
  cases d <;> rfl

@[simp] theorem Strand.writeV_status (t : Strand) (d : Opd) (x : W1024) : (t.writeV d x).status = t.status := by
  cases d <;> rfl

/-- An instruction that writes one scalar or mask destination completes. -/
theorem State.finish_write (s : State) (f : Strand → Strand) (d : Opd) (x : W64) (h : s.cur.2 < 4) (hu : Unstepped s)
    (hf : f s.me = s.me.write d x) : Completes s (s.finish f) (s.me.write d x) := by
  rw [← hf]
  exact s.finish_completes f h (by rw [hf]; exact Strand.unstepped_of_status (by simp) hu) (by rw [hf]; simp) (by rw [hf]; simp)

end Sys2Proof.Machine
end

