-- ==== Sys2Proof/Laws/Memory.lean ====
section
/-!
SUPPORT. Memory: a read after a write, and that every memory operation keeps the canonical form.
-/

namespace Sys2Proof.Machine

/-! ## The canonical form -/

theorem Memory.wfFrom_mono {m : Memory} {lo lo' : Nat} (h : lo' ≤ lo) (hm : Memory.wfFrom lo m = true) :
    Memory.wfFrom lo' m = true := by
  cases m with
  | nil => rfl
  | cons e m =>
    simp only [Memory.wfFrom, Bool.and_eq_true, decide_eq_true_eq] at hm ⊢
    exact ⟨⟨by omega, hm.1.2⟩, hm.2⟩

/-- Below its first address a canonical memory reads as 0. -/
theorem Memory.read_below {m : Memory} {lo a : Nat} (hm : Memory.wfFrom lo m = true) (h : a < lo) : m.read a = 0 := by
  induction m generalizing lo with
  | nil => rfl
  | cons e m ih =>
    obtain ⟨j, y⟩ := e
    simp only [Memory.wfFrom, Bool.and_eq_true, decide_eq_true_eq] at hm
    have hj : j ≠ a := by omega
    have := ih (lo := j + 1) hm.2 (by omega)
    simpa [Memory.read, SMap.getD, SMap.get?, hj] using this

theorem Memory.wfFrom_drop {m : Memory} {lo : Nat} (a : Nat) (hm : Memory.wfFrom lo m = true) :
    Memory.wfFrom lo (m.drop a) = true := by
  induction m generalizing lo with
  | nil => rfl
  | cons e m ih =>
    obtain ⟨j, y⟩ := e
    simp only [Memory.drop]
    have hm' := hm
    simp only [Memory.wfFrom, Bool.and_eq_true, decide_eq_true_eq] at hm'
    split
    · exact Memory.wfFrom_mono (by omega) hm'.2
    · split
      · exact hm
      · simp only [Memory.wfFrom, Bool.and_eq_true, decide_eq_true_eq]
        exact ⟨hm'.1, ih hm'.2⟩

theorem Memory.wfFrom_set {m : Memory} {lo a : Nat} {b : Byte} (hm : Memory.wfFrom lo m = true) (h : lo ≤ a) (hb : b ≠ 0) :
    Memory.wfFrom lo (SMap.set m a b) = true := by
  have hb' : (b != 0) = true := bne_iff_ne.mpr hb
  induction m generalizing lo with
  | nil => simp only [SMap.set, Memory.wfFrom, Bool.and_eq_true, decide_eq_true_eq]; exact ⟨⟨h, hb'⟩, trivial⟩
  | cons e m ih =>
    obtain ⟨j, y⟩ := e
    have hm' := hm
    simp only [Memory.wfFrom, Bool.and_eq_true, decide_eq_true_eq] at hm'
    simp only [SMap.set]
    split
    · simp only [Memory.wfFrom, Bool.and_eq_true, decide_eq_true_eq]
      exact ⟨⟨h, hb'⟩, ⟨by omega, hm'.1.2⟩, hm'.2⟩
    · split
      · simp only [Memory.wfFrom, Bool.and_eq_true, decide_eq_true_eq]
        subst_vars
        exact ⟨⟨h, hb'⟩, hm'.2⟩
      · simp only [Memory.wfFrom, Bool.and_eq_true, decide_eq_true_eq]
        exact ⟨hm'.1, ih hm'.2 (by omega)⟩

/-- A write of a byte keeps the canonical form. -/
theorem Memory.wf_write {m : Memory} (a : Nat) (b : Byte) (hm : m.wf = true) : (m.write a b).wf = true := by
  unfold Memory.write
  split
  · exact Memory.wfFrom_drop a hm
  · exact Memory.wfFrom_set hm (Nat.zero_le _) ‹_›

theorem Memory.wf_writeBytes {m : Memory} (a : Nat) (l : List Byte) (hm : m.wf = true) : (m.writeBytes a l).wf = true := by
  induction l generalizing m a with
  | nil => exact hm
  | cons b l ih => exact ih (a + 1) (Memory.wf_write a b hm)

theorem Memory.wf_writeNum {m : Memory} (a n x : Nat) (hm : m.wf = true) : (m.writeNum a n x).wf = true :=
  Memory.wf_writeBytes a _ hm

theorem Memory.wf_writeLine {m : Memory} (a : Nat) (d : W1024) (mask : BitVec 128) (hm : m.wf = true) :
    (m.writeLine a d mask).wf = true := by
  unfold Memory.writeLine
  generalize List.range 128 = l
  induction l generalizing m with
  | nil => exact hm
  | cons i l ih =>
    simp only [List.foldl_cons]
    apply ih
    split
    · exact Memory.wf_write _ _ hm
    · exact hm

theorem Memory.wfFrom_filter {m : Memory} {lo : Nat} (p : Host.Cell → Bool) (hm : Memory.wfFrom lo m = true) :
    Memory.wfFrom lo (m.filter p) = true := by
  induction m generalizing lo with
  | nil => rfl
  | cons e m ih =>
    obtain ⟨j, y⟩ := e
    simp only [Memory.wfFrom, Bool.and_eq_true, decide_eq_true_eq] at hm
    simp only [List.filter_cons]
    split
    · simp only [Memory.wfFrom, Bool.and_eq_true, decide_eq_true_eq]
      exact ⟨hm.1, ih hm.2⟩
    · exact Memory.wfFrom_mono (by omega) (ih hm.2)

theorem Memory.wf_zero {m : Memory} (a n : Nat) (hm : m.wf = true) : (m.zero a n).wf = true :=
  Memory.wfFrom_filter _ hm

/-! ## Read after write -/

theorem Memory.read_drop_same {m : Memory} {lo : Nat} (a : Nat) (hm : Memory.wfFrom lo m = true) : (m.drop a).read a = 0 := by
  induction m generalizing lo with
  | nil => rfl
  | cons e m ih =>
    obtain ⟨j, y⟩ := e
    have hm' := hm
    simp only [Memory.wfFrom, Bool.and_eq_true, decide_eq_true_eq] at hm'
    simp only [Memory.drop]
    split
    · subst_vars; exact Memory.read_below hm'.2 (by omega)
    · split
      · exact Memory.read_below (lo := j) (by simp only [Memory.wfFrom, Bool.and_eq_true, decide_eq_true_eq]; exact ⟨⟨Nat.le_refl _, hm'.1.2⟩, hm'.2⟩) (by omega)
      · have := ih hm'.2
        simpa [Memory.read, SMap.getD, SMap.get?, ‹¬ j = a›] using this

theorem Memory.read_drop_other (m : Memory) {a k : Nat} (h : k ≠ a) : (m.drop a).read k = m.read k := by
  induction m with
  | nil => rfl
  | cons e m ih =>
    obtain ⟨j, y⟩ := e
    simp only [Memory.drop]
    split
    · subst_vars; simp [Memory.read, SMap.getD, SMap.get?, Ne.symm h]
    · split
      · rfl
      · simp only [Memory.read, SMap.getD, SMap.get?] at ih ⊢
        split <;> simp_all

/-- A byte that was written reads as written. -/
theorem Memory.read_write_same {m : Memory} (a : Nat) (b : Byte) (hm : m.wf = true) : (m.write a b).read a = b := by
  unfold Memory.write
  split
  · subst_vars; exact Memory.read_drop_same a hm
  · simp [Memory.read]

/-- A write leaves every other address alone. -/
theorem Memory.read_write_other (m : Memory) {a k : Nat} (b : Byte) (h : k ≠ a) : (m.write a b).read k = m.read k := by
  unfold Memory.write
  split
  · exact Memory.read_drop_other m h
  · exact SMap.getD_set_other m b 0 h

theorem Memory.read_writeBytes_other (m : Memory) {a k : Nat} (l : List Byte) (h : k < a ∨ a + l.length ≤ k) :
    (m.writeBytes a l).read k = m.read k := by
  induction l generalizing m a with
  | nil => rfl
  | cons b l ih =>
    simp only [List.length_cons] at h
    simp only [Memory.writeBytes]
    rw [ih _ (by omega), Memory.read_write_other _ _ (by omega)]

theorem Memory.read_writeBytes {m : Memory} (a i : Nat) (l : List Byte) (hm : m.wf = true) (h : i < l.length) :
    (m.writeBytes a l).read (a + i) = l[i] := by
  induction l generalizing m a i with
  | nil => simp at h
  | cons b l ih =>
    simp only [Memory.writeBytes]
    cases i with
    | zero =>
      rw [Memory.read_writeBytes_other _ _ (by omega)]
      exact Memory.read_write_same a b hm
    | succ i =>
      have := ih (a + 1) i (Memory.wf_write a b hm) (by simpa using h)
      simpa [Nat.add_assoc, Nat.add_comm 1 i] using this

theorem leBytes_length (n x : Nat) : (leBytes n x).length = n := by
  induction n generalizing x with
  | zero => rfl
  | succ n ih => simp [leBytes, ih]

/-- A number written outside a range of addresses leaves the range alone. -/
theorem Memory.read_writeNum_other (m : Memory) {a k : Nat} (n x : Nat) (h : k < a ∨ a + n ≤ k) :
    (m.writeNum a n x).read k = m.read k :=
  Memory.read_writeBytes_other m _ (by rw [leBytes_length]; exact h)

end Sys2Proof.Machine
end

