-- ==== Sys2Proof/Laws/Operands.lean ====
section
/-!
SUPPORT. Lanes read back from a packed register, masks and integers read back, and how a lane-wise instruction completes.
-/

namespace Sys2Proof.Machine

/-! ## Lanes -/

theorem packNat_lt (w : Nat) (l : List Nat) : packNat w l < 2 ^ (w * l.length) := by
  induction l with
  | nil => simp [packNat]
  | cons x l ih =>
    have hx : x % 2 ^ w < 2 ^ w := Nat.mod_lt _ (Nat.two_pow_pos w)
    have e : 2 ^ (w * (l.length + 1)) = 2 ^ w * 2 ^ (w * l.length) := by rw [Nat.mul_add, Nat.mul_one, Nat.pow_add, Nat.mul_comm]
    simp only [packNat, List.length_cons, e]
    calc x % 2 ^ w + 2 ^ w * packNat w l < 2 ^ w + 2 ^ w * packNat w l := by omega
      _ = 2 ^ w * (packNat w l + 1) := by rw [Nat.mul_add, Nat.mul_one, Nat.add_comm]
      _ ≤ 2 ^ w * 2 ^ (w * l.length) := Nat.mul_le_mul_left _ ih

theorem packNat_get (w : Nat) (l : List Nat) (i : Nat) :
    packNat w l / 2 ^ (w * i) % 2 ^ w = l[i]?.getD 0 % 2 ^ w := by
  induction l generalizing i with
  | nil => simp [packNat]
  | cons x l ih =>
    cases i with
    | zero => simp [packNat, Nat.add_mul_mod_self_left]
    | succ i =>
      have e : 2 ^ (w * (i + 1)) = 2 ^ w * 2 ^ (w * i) := by rw [Nat.mul_add, Nat.mul_one, Nat.pow_add, Nat.mul_comm]
      have hx : x % 2 ^ w / 2 ^ w = 0 := Nat.div_eq_of_lt (Nat.mod_lt _ (Nat.two_pow_pos w))
      rw [e, ← Nat.div_div_eq_div_mul, packNat, Nat.add_mul_div_left _ _ (Nat.two_pow_pos w), hx, Nat.zero_add, ih i]
      simp

/-- A lane of a packed register is the number packed there; lanes above those packed are 0. -/
theorem lane_packLanes (w : Nat) (l : List Nat) (i : Nat) (h : w * l.length ≤ 1024) :
    lane w (packLanes w l) i = l[i]?.getD 0 % 2 ^ w := by
  have hlt : packNat w l < 2 ^ 1024 := Nat.lt_of_lt_of_le (packNat_lt w l) (Nat.pow_le_pow_right (by omega) h)
  simp only [lane, packLanes, BitVec.toNat_ushiftRight, BitVec.toNat_ofNat, Nat.mod_eq_of_lt hlt, Nat.shiftRight_eq_div_pow]
  exact packNat_get w l i

theorem lane_lt (w : Nat) (x : W1024) (i : Nat) : lane w x i < 2 ^ w := Nat.mod_lt _ (Nat.two_pow_pos w)

@[simp] theorem Strand.addFlags_pc (t : Strand) (f : Flags) : (t.addFlags f).pc = t.pc := rfl
@[simp] theorem Strand.addFlags_join4 (t : Strand) (f : Flags) : (t.addFlags f).join4 = t.join4 := rfl
@[simp] theorem Strand.addFlags_status (t : Strand) (f : Flags) : (t.addFlags f).status = t.status := rfl

theorem laneRun_get (act : Nat → Bool) (w n : Nat) (old : W1024) (f : Nat → FRes) (i : Nat) (h : i < n) :
    ((laneRun act w n old f).map (·.bits))[i]?.getD 0 % 2 ^ w = if act i then (f i).bits % 2 ^ w else lane w old i := by
  simp only [laneRun, List.map_map, List.getElem?_map, List.getElem?_range h, Option.map_some, Option.getD_some,
    Function.comp_apply]
  cases act i
  · simp [Nat.mod_eq_of_lt (lane_lt w old i)]
  · simp

/-- A lane-wise write of a vector register completes as R264 says. -/
theorem State.vecOut_laneWise (s : State) (d : Opd) (p : Pred) (w : Nat) (f : Nat → FRes) (h : s.cur.2 < 4)
    (hu : Unstepped s) : LaneWise s (s.vecOut d p w f) d p w f := by
  refine ⟨_, fun i hi => ?_, s.finish_completes _ h (Strand.unstepped_of_status (t := s.me) ?_ hu) ?_ ?_⟩
  · rw [lane_packLanes _ _ _ (by simp [laneRun]; exact Nat.mul_div_le 1024 w)]
    exact laneRun_get _ _ _ _ _ _ hi
  all_goals simp

/-! ## Integers of a width -/

theorem asInt_mod (sg : Bool) (w x : Nat) : asInt sg w (x % 2 ^ w) = asInt sg w x := by
  simp [asInt]

@[simp] theorem ofInt_asInt (sg : Bool) (w x : Nat) : ofInt w (asInt sg w x) = x % 2 ^ w := by
  unfold ofInt asInt
  have hp : (0 : Int) < (2 ^ w : Nat) := by exact_mod_cast Nat.two_pow_pos w
  have hl : ((x % 2 ^ w : Nat) : Int) < (2 ^ w : Nat) := by exact_mod_cast Nat.mod_lt _ (Nat.two_pow_pos w)
  simp only
  split
  · have : ((x % 2 ^ w : Nat) : Int) - 2 ^ w = ((x % 2 ^ w : Nat) : Int) - (2 ^ w : Nat) := by simp
    rw [this, Int.sub_emod_right, Int.emod_eq_of_lt (by omega) hl]
    exact Int.toNat_natCast _
  · rw [Int.emod_eq_of_lt (by omega) hl]
    exact Int.toNat_natCast _

end Sys2Proof.Machine
end

