-- ==== Sys2Proof/Machine/Decif.lean ====
section
/-!
DEFINITION. What the assembler decif makes of a source (R199, R201 to R206), after its lines have been read into statements:
expressions, fetch lines, data and records. The machine never runs it (DEDUCED, assumption log 45).
-/

namespace Sys2Proof.Machine

/-! ## Expressions (R199) -/

inductive AsmOp where
  | add | sub | mul | div | rem | shl | shr | and | or | xor
  deriving DecidableEq, Repr

inductive AsmExpr where
  | num (v : W64)
  | ref (name : String)
  | neg (a : AsmExpr)
  | not (a : AsmExpr)
  | bin (op : AsmOp) (a b : AsmExpr)
  deriving DecidableEq, Repr

abbrev Symbols := List (String × W64)

def asmBin : AsmOp → W64 → W64 → Option W64
  | .add, a, b => some (a + b)
  | .sub, a, b => some (a - b)
  | .mul, a, b => some (a * b)
  | .div, a, b => if b = 0 then none else some (a.sdiv b)
  | .rem, a, b => if b = 0 then none else some (a.srem b)
  | .shl, a, b => some (a <<< b.toNat)
  | .shr, a, b => some (a.sshiftRight b.toNat)
  | .and, a, b => some (a &&& b)
  | .or, a, b => some (a ||| b)
  | .xor, a, b => some (a ^^^ b)

/-- The value of an expression in 64-bit two's complement; none where decif refuses it. -/
def AsmExpr.eval (env : Symbols) : AsmExpr → Option W64
  | .num v => some v
  | .ref n => env.lookup n
  | .neg a => (a.eval env).map fun v => -v
  | .not a => (a.eval env).map fun v => ~~~v
  | .bin op a b =>
    match a.eval env, b.eval env with
    | some x, some y => asmBin op x y
    | _, _ => none

/-- The names in an expression. -/
def AsmExpr.names : AsmExpr → List String
  | .num _ => []
  | .ref n => [n]
  | .neg a => a.names
  | .not a => a.names
  | .bin _ a b => a.names ++ b.names

/-- Whether a value fits an unsigned field, or a signed one. -/
def fitsField (w : Nat) (signed : Bool) (v : W64) : Bool :=
  if signed then decide (-(2 ^ (w - 1) : Int) ≤ v.toInt) && decide (v.toInt < 2 ^ (w - 1)) else decide (v.toNat < 2 ^ w)

/-! ## Statements -/

/-- What an instruction's word takes from an expression: a branch target (R181), or the value of a field. -/
inductive AsmFix where
  | none
  | branch (e : AsmExpr)
  | field (e : AsmExpr) (lo w : Nat) (signed : Bool)
  deriving DecidableEq, Repr

/-- An instruction: its word without what `fix` gives it. -/
structure AsmInsn where
  word : W96
  fix : AsmFix := .none
  deriving DecidableEq, Repr

/-- The instruction that a word encodes. -/
def AsmInsn.instr (i : AsmInsn) : Instr := (decode i.word).toOption.getD .nop

def AsmInsn.isFmt (i : AsmInsn) : Bool := match i.instr with | .fmt _ => true | _ => false
def AsmInsn.isCall (i : AsmInsn) : Bool := match i.instr with | .call _ _ => true | _ => false

/-- Whether an instruction takes a prefix (R197, R265). -/
def takesPx : Instr → Bool
  | .add _ | .sub _ | .mul _ | .mulh _ | .div _ | .rem _ | .and _ | .or _ | .xor _ | .andn _ | .shl _ | .shr _ | .sar _ | .rot _
  | .min _ | .max _ | .cmp _ | .clz _ | .popc _ | .brev _ | .fadd _ | .fsub _ | .fmul _ | .fma _ | .fdiv _ | .fsqrt _ | .fmin _
  | .fmax _ | .fcmp _ | .cvt _ => true
  | .vadd _ | .vsub _ | .vmul _ | .vmulH _ | .vfma _ | .vmin _ | .vmax _ | .vabs _ | .vneg _ | .vand _ | .vandN _ | .vor _ | .vxor _
  | .vshl _ | .vshr _ | .vsar _ | .vcvt _ | .vreduce _ | .vscan _ | .viota _ | .vrns _ => true
  | .mma _ | .adrn _ _ _ _ _ _ _ _ => true
  | _ => false

/-- The operands of an instruction that name registers but for its predicate, and those of them that it writes (R187); NEXTI writes g63
(R261), CALL and JMP.L g61. -/
def operandsOf : Instr → List Opd × List Opd
  | .movi d _ _ | .movhi d _ _ | .qfree d _ | .qfreeAddr d _ | .tstat d _ _ | .tstatTime d _ _ | .cpyq d _ _ _ _ | .btst _ d _ _
  | .take d _ | .lease d _ | .leaseExp d _ | .leaseRel d _ | .sysr d _ _ | .timec d _ | .mmz d _ _ | .aclaim d _ | .arels d _ =>
    ([d], [d])
  | .add x | .sub x | .mul x | .mulh x | .div x | .rem x | .and x | .or x | .xor x | .andn x | .shl x | .shr x | .sar x | .rot x
  | .min x | .max x | .fadd x | .fsub x | .fmul x | .fdiv x | .fmin x | .fmax x | .vadd x | .vsub x | .vmul x | .vmulH x | .vmin x
  | .vmax x | .vand x | .vandN x | .vor x | .vxor x | .vshl x | .vshr x | .vsar x | .vperm x | .vrot x | .vbcast x | .vextr x
  | .vinsl x => ([x.d, x.a, x.b], [x.d])
  | .cmp x | .fcmp x | .vcmp x | .brc x => ([x.d, x.a, x.b], [x.d])
  | .sel x => ([x.d, x.a, x.b, x.c], [x.d])
  | .clz x | .popc x | .brev x | .fsqrt x | .vabs x | .vneg x | .viota x | .vmov x | .vcompress x | .vexpand x | .kpop x =>
    ([x.d, x.a], [x.d])
  | .ext x | .ins x => ([x.d, x.a], [x.d])
  | .fma x | .vfma x | .vsel x => ([x.d, x.a, x.b, x.c], [x.d])
  | .cvt x | .vcvt x => ([x.d, x.a], [x.d])
  | .vrcp x | .vrsq x | .vsqrt x | .vexp2 x | .vlog2 x | .vtanh x | .vrns x | .vcrt x | .kopNot x | .kmov x =>
    ([x.d, x.a], [x.d])
  | .vreduce x | .vscan x => ([x.d, x.a], [x.d])
  | .vradd x | .vraddSub x | .vrmul x | .kopAnd x | .kopOr x | .kopXor x | .kopAndn x => ([x.d, x.a, x.b], [x.d])
  | .call _ _ => ([.g 61], [.g 61])
  | .ret _ => ([.g 61], [])
  | .jmp a _ | .sysw a _ _ | .tlbinv a _ | .bcfg a _ _ | .spawn a _ | .logtRet a _ | .grpset _ a _ | .suspend a _ _ => ([a], [])
  | .jmpL a _ => ([a, .g 61], [.g 61])
  | .loop a _ _ => ([a], [a])
  | .ld x | .ldv x | .ldvs x | .gather x | .qpop x => ([x.d, x.a, x.b, x.c], [x.d])
  | .st x | .stP x | .stv x | .stvs x | .scatter x | .qpush x => ([x.d, x.a, x.b, x.c], [])
  | .pref x | .prefPx x | .cinv x | .cwb x => ([x.a], [])
  | .tdef _ a _ _ => ([a], [])
  | .tldv d row col _ _ => ([d, row, col], [d])
  | .tstv row col data _ _ => ([row, col, data], [])
  | .tupd x | .tupdv x => ([x.a, x.b, x.c], [])
  | .logt d x => ([d, x.a], [d])
  | .tlogQuery d a _ | .tlogCompact d a _ | .tlogSync d a _ | .sprint d a _ | .timecWait d a _ | .amov d a _ | .amovV d a _ _
  | .amovA d a _ _ => ([d, a], [d])
  | .cpyG2l x | .cpyL2g x | .cpyL2r x | .cpyMcast x | .cpyRedc x => ([x.dst, x.src, x.shp], [])
  | .subs a b _ _ _ _ | .bcfgGrp a b _ _ | .tlbinvPg a b _ | .uprog _ a b _ _ => ([a, b], [])
  | .nexti _ _ => ([.g 63], [.g 63])
  | .amo x => ([x.d, x.a, x.b, x.c], [x.d])
  | .red x => ([x.a, x.b, x.c], [])
  | .mma x | .mmu x => ([x.d], [x.d])
  | .ald d x => ([d, x.a], [d])
  | .adrn clr a b c _ _ _ _ => ([a, b, c], if clr then [a] else [])
  | _ => ([], [])

/-- Whether an operand names a register. -/
def Opd.names : Opd → Bool
  | .g _ | .v _ | .k _ | .acc _ => true
  | _ => false

/-- The mask register of a predicated instruction: PM of its word, 0 where it has none (R186, R189). -/
def AsmInsn.mask (i : AsmInsn) : List Opd :=
  let k := i.word.extractLsb' 49 3
  if k = 0 then [] else [.k k.toFin]

def AsmInsn.operands (i : AsmInsn) : List Opd := (operandsOf i.instr).1.filter Opd.names ++ i.mask
def AsmInsn.writes (i : AsmInsn) : List Opd := (operandsOf i.instr).2.filter Opd.names

/-- A float constant: a fraction, an infinity or the canonical NaN (R203). -/
inductive AsmFloat where
  | frac (neg : Bool) (num den : Nat)
  | inf (neg : Bool)
  | nan
  deriving DecidableEq, Repr

inductive AsmRecord where
  | tile | shape | cocoon | launch
  deriving DecidableEq, Repr

/-- A statement of a source. -/
inductive AsmStmt where
  | sect (text : Bool)
  | label (name : String)
  | insn (i : AsmInsn)
  | pair | target | line | endproc
  | proc (name : String)
  | align (n : Nat)
  | ints (width : Nat) (es : List AsmExpr)
  | floats (f : Fmt) (xs : List AsmFloat)
  | equ (name : String) (e : AsmExpr)
  | record (kind : AsmRecord) (keys : List (String × List AsmExpr))
  deriving DecidableEq, Repr

def AsmStmt.exprs : AsmStmt → List AsmExpr
  | .insn i => (match i.fix with | .none => [] | .branch e => [e] | .field e _ _ _ => [e])
  | .ints _ es => es
  | .equ _ e => [e]
  | .record _ ks => ks.flatMap (·.2)
  | _ => []

/-! ## Laying out (R201 to R203) -/

/-- A slot of a line: its instruction, whether it may be entered, and whether it joins the slot before it. -/
structure AsmSlot where
  insn : AsmInsn
  tgt : Bool
  joined : Bool
  deriving DecidableEq, Repr

/-- A piece of .data. -/
inductive AsmDatum where
  | bytes (l : List (BitVec 8))
  | int (width : Nat) (e : AsmExpr)
  | record (kind : AsmRecord) (keys : List (String × List AsmExpr))
  deriving DecidableEq, Repr

def AsmRecord.size : AsmRecord → Nat
  | .tile => 24 | .shape => 256 | .cocoon => 64 | .launch => 128
def AsmRecord.align : AsmRecord → Nat
  | .tile => 8 | .shape => 256 | .cocoon => 64 | .launch => 128

def AsmDatum.size : AsmDatum → Nat
  | .bytes l => l.length
  | .int w _ => w
  | .record k _ => k.size

/-- What laying a source out has done so far: the full lines, the slots of the present one, the names that wait for the next
slot, the directives that wait for it, how many more instructions join, the data with its size, and the names' values. -/
structure AsmState where
  text : Bool := true
  lines : List (List AsmSlot) := []
  cur : List AsmSlot := []
  names : List String := []
  /-- Labels of .data that wait for the next datum, and names defined by labels that still wait (R203, R204). -/
  marks : List String := []
  equs : List (String × AsmExpr) := []
  target : Bool := false
  pairs : Nat := 0
  join : Nat := 0
  fmt : Bool := false
  data : List AsmDatum := []
  size : Nat := 0
  syms : Symbols := []
  deriving DecidableEq, Repr

/-- An instruction that does nothing. -/
def AsmSlot.nop : AsmSlot := { insn := { word := 0 }, tgt := false, joined := false }

/-- Ends the present line; slots left empty hold NOP. -/
def AsmState.flush (a : AsmState) : AsmState :=
  if a.cur.isEmpty then a
  else { a with lines := a.lines ++ [(a.cur ++ List.replicate 5 AsmSlot.nop).take 5], cur := [] }

def AsmState.define (a : AsmState) (name : String) (v : W64) : Option AsmState :=
  if (a.syms.lookup name).isSome then none else some { a with syms := a.syms ++ [(name, v)] }

/-- Defines the names whose expressions have become known. -/
def AsmState.settle (a : AsmState) : Option AsmState :=
  a.equs.foldlM (fun (a : AsmState) x =>
    if x.2.names.all fun n => (a.syms.lookup n).isSome then
      (x.2.eval a.syms).bind fun v => ({ a with equs := a.equs.filter (· != x) }).define x.1 v
    else some a) a

/-- Gives the waiting names the PC of the next slot (R178). -/
def AsmState.bind (a : AsmState) (tbase : W64) : Option AsmState :=
  let pc := tbase + BitVec.ofNat 64 (64 * a.lines.length + a.cur.length)
  (a.names.foldlM (fun (a : AsmState) n => a.define n pc) { a with names := [] }).bind (·.settle)

/-- Gives the waiting labels of .data the address of the next datum. -/
def AsmState.mark (a : AsmState) (dbase : W64) : Option AsmState :=
  (a.marks.foldlM (fun (a : AsmState) n => a.define n (dbase + BitVec.ofNat 64 a.size)) { a with marks := [] }).bind (·.settle)

/-- .equ: its expression may name what has been defined before it, labels that wait for their address included. -/
def AsmState.equ (a : AsmState) (n : String) (e : AsmExpr) : Option AsmState :=
  if (a.names ++ a.marks ++ a.equs.map (·.1)).contains n then none
  else if e.names.all fun x => (a.syms.lookup x).isSome then (e.eval a.syms).bind fun v => a.define n v
  else if e.names.all fun x => (a.syms.lookup x).isSome || (a.names ++ a.marks ++ a.equs.map (·.1)).contains x then
    some { a with equs := a.equs ++ [(n, e)] }
  else none

/-- Places an instruction in the next slot. -/
def AsmState.place (a : AsmState) (tbase : W64) (used : List String) (i : AsmInsn) : Option AsmState :=
  let a := if a.cur.length = 5 then a.flush else a
  let tgt := a.target || a.names.any used.contains
  if a.fmt && !takesPx i.instr then none
  else
    match a.bind tbase with
    | none => none
    | some a => some { a with
        cur := a.cur ++ [{ insn := i, tgt, joined := decide (0 < a.join) }], target := false
        join := a.join - 1 + a.pairs, pairs := 0, fmt := i.isFmt }

/-- Pads .data with zero bytes to a multiple of n, counted from the start of the section, as .align in .text counts its lines (R203 does not
say from where; DEDUCED, assumption log 45). -/
def AsmState.padTo (a : AsmState) (n : Nat) : AsmState :=
  let k := (n - a.size % n) % n
  { a with data := a.data ++ [.bytes (List.replicate k 0)], size := a.size + k }

def AsmState.emit (a : AsmState) (d : AsmDatum) : AsmState := { a with data := a.data ++ [d], size := a.size + d.size }

/-- The bits of a float constant, rounded RNE (R145). -/
def AsmFloat.bits (f : Fmt) : AsmFloat → Option Nat
  | .frac _ _ 0 => none
  | .frac neg 0 _ => some (f.sign neg)
  | .frac neg m n =>
    let (q, e, st) := quot 400 m n
    some (roundF f .plain neg q e st).bits
  | .inf neg => some (f.sign neg + f.inf)
  | .nan => some f.nan

/-- One statement, in order. `used` holds the names that appear in any expression. A label binds to what follows it: in .data before the
padding of .align, but after that of a record, which belongs to the record; in .text to the next instruction, which a .line or .align
before it puts in a new line (R203 does not say which; DEDUCED, assumption log 45). -/
def AsmState.stmt (tbase dbase : W64) (used : List String) (a : AsmState) : AsmStmt → Option AsmState
  | .sect t => some { a with text := t }
  | .label n =>
    if a.text then some { a with names := a.names ++ [n] } else some { a with marks := a.marks ++ [n] }
  | .insn i => if a.text then a.place tbase used i else none
  | .pair => if a.text then some { a with pairs := a.pairs + 1 } else none
  | .target => if a.text then some { a with target := true } else none
  | .line | .endproc => if a.text && a.join = 0 && a.pairs = 0 then some a.flush else none
  | .proc n =>
    if a.text && a.join = 0 && a.pairs = 0 then some { a.flush with names := a.names ++ [n], target := true } else none
  | .align n =>
    if n = 0 || n &&& (n - 1) != 0 then none
    else if !a.text then (a.mark dbase).map (·.padTo n)
    else if n % 64 != 0 || a.join != 0 || a.pairs != 0 then none
    else
      let a := a.flush
      let k := (n / 64 - a.lines.length % (n / 64)) % (n / 64)
      some { a with lines := a.lines ++ List.replicate k (List.replicate 5 AsmSlot.nop) }
  | .ints w es => if a.text then none else (a.mark dbase).map fun a => es.foldl (fun a e => a.emit (.int w e)) a
  | .floats f xs =>
    if a.text then none
    else (a.mark dbase).bind fun a => xs.foldlM (fun a x => (x.bits f).map fun b => a.emit (.bytes (leBytes (f.width / 8) b))) a
  | .equ n e => a.equ n e
  | .record k ks => if a.text then none else ((a.padTo k.align).mark dbase).map (·.emit (.record k ks))

/-! ## Records (R204, R205) -/

/-- The fields of a record's keys: the number of the value in the key's list, the field's lowest bit and width, and whether it
is signed. -/
def asmField (kind : AsmRecord) (key : String) : List (Nat × Nat × Bool) :=
  match kind, key with
  | .launch, "pc" => [(0, 64, false)]
  | .launch, "asid" => [(64, 16, false)]
  | .launch, "kind" => [(96, 1, false)]
  | .launch, "gang" => [(97, 1, false)]
  | .launch, "gstop" => [(98, 1, false)]
  | .launch, "skipdead" => [(99, 1, false)]
  | .launch, "box" => (List.range 6).map fun i => (128 + 8 * i, 8, false)
  | .launch, "pool" => [(192, 64, false)]
  | .launch, "arg" => [(256, 64, false)]
  | .launch, "dep0" => [(376, 6, false), (320, 48, false), (382, 1, false)]
  | .launch, "dep1" => [(440, 6, false), (384, 48, false), (446, 1, false)]
  | .launch, "start" => [(448, 64, false)]
  | .launch, "gangid" => [(576, 32, false)]
  | .launch, "bcore" => [(640, 64, false)]
  | .launch, "bhbm" => [(704, 64, false)]
  | .launch, "ben" => [(768, 64, false)]
  | .cocoon, "pc" => [(0, 64, false)]
  | .cocoon, "asid" => [(64, 16, false)]
  | .cocoon, "domain" => [(80, 16, false)]
  | .cocoon, "kind" => [(96, 2, false)]
  | .cocoon, "prio" => [(98, 2, false)]
  | .cocoon, "state" => [(100, 3, false)]
  | .cocoon, "grain" => [(112, 16, false)]
  | .cocoon, "lo" => [(128, 64, false)]
  | .cocoon, "hi" => [(192, 64, false)]
  | .cocoon, "arg0" => [(256, 64, false)]
  | .cocoon, "arg1" => [(320, 64, false)]
  | .cocoon, "tiles" => (List.range 4).map fun i => (384 + 16 * i, 16, false)
  | .cocoon, "tcode" => [(448, 64, false)]
  | .tile, "home" => [(0, 56, false)]
  | .tile, "rows" => [(64, 13, false)]
  | .tile, "cols" => [(77, 13, false)]
  | .tile, "fmt" => [(90, 4, false)]
  | .tile, "loc" => [(94, 1, false)]
  | .tile, "slot" => [(96, 4, false)]
  | .tile, "off" => [(100, 19, false)]
  | .tile, "hpitch" => [(128, 44, false)]
  | .tile, "lpitch" => [(176, 16, false)]
  | .shape, "esz" => [(120, 3, false)]
  | _, _ => []

/-- Puts values into fields; none where one does not fit. -/
def asmPut (x : Nat) : List (Nat × Nat × Bool) → List W64 → Option Nat
  | _, [] => some x
  | [], _ => none
  | (lo, w, sg) :: fs, v :: vs => if fitsField w sg v then asmPut (x + v.toNat % 2 ^ w * 2 ^ lo) fs vs else none

/-- A dimension of a shape record (R90): entry d at bits [128d, 128d + 128). -/
def asmDim (d : Nat) : List (Nat × Nat × Bool) := [(128 * d, 32, false), (128 * d + 32, 44, true), (128 * d + 76, 44, true)]

/-- Adds one key of a record; `d` counts the dimensions so far. -/
def asmKey (kind : AsmRecord) (x : Nat) (d : Nat) (key : String) (vs : List W64) : Option Nat :=
  if kind = .shape && key = "dim" then if vs.length = 3 then asmPut x (asmDim d) vs else none
  else if kind = .launch && key = "cpol" then
    if vs.length = 1 then asmPut x [(512, 16, false)] vs
    else if vs.length = 8 then asmPut x ((List.range 8).map fun i => (512 + 2 * i, 2, false)) vs
    else none
  else if kind = .launch && (key = "dep0" || key = "dep1") then
    if vs.length = 3 then asmPut (x + 2 ^ (if key = "dep0" then 383 else 447)) (asmField kind key) vs else none
  else
    let fs := asmField kind key
    if fs.isEmpty || vs.isEmpty || (key = "box" && vs.length != 6) then none else asmPut x fs vs

/-- The names that a key's value may be instead of an expression (R118, R205). -/
def asmName (kind : AsmRecord) (key : String) (e : AsmExpr) : Option W64 :=
  let pick := fun (l : List String) (n : String) => (l.idxOf? n).map (BitVec.ofNat 64)
  match kind, key, e with
  | .launch, "kind", .ref n => pick ["placed", "pool"] n
  | .cocoon, "kind", .ref n => pick ["plain", "placed", "range"] n
  | .tile, "fmt", .ref n =>
    pick ["BF16", "FP16", "FP32", "I8", "I16", "I32", "UI8", "UI16", "UI32", "RN8", "RN4", "RA", "I64", "UI64"] n
  | _, _, _ => none

/-- The bytes of a record; none where decif refuses it. -/
def asmRecord (env : Symbols) (kind : AsmRecord) (keys : List (String × List AsmExpr)) : Option Nat :=
  let single := keys.filter fun k => !(kind == .shape && k.1 == "dim")
  let dims := (keys.filter fun k => k.1 == "dim").length
  let put := keys.foldlM (fun (a : Nat × Nat × Nat) (k : String × List AsmExpr) =>
    (k.2.mapM fun (x : AsmExpr) => asmName kind k.1 x <|> x.eval env).bind fun vs => (asmKey kind a.1 a.2.1 k.1 vs).map fun x =>
      if k.1 = "dim" then (x, a.2.1 + 1, a.2.2 * ((vs.headD 0).toNat)) else (x, a.2.1, a.2.2)) (0, 0, 1)
  match put with
  | none => none
  | some (x, d, e) =>
    if single.any fun k => decide (1 < (single.filter fun (j : String × List AsmExpr) => j.1 == k.1).length) then none
    else
      match kind with
      | .shape => if dims = 0 || 16 < dims || 2 ^ 40 ≤ e then none else some (x + (d - 1) * 2 ^ 124)
      | .tile =>
        let w : Nat → W64 := fun k => BitVec.ofNat 64 (x / 2 ^ (64 * k))
        let t : Tile := { Tile.reset with w0 := w 0, w1 := w 1, w2 := w 2 }
        if t.illShaped || (t.home != (0 : W64) && (tileVa t.home.toNat).isNone) || (!t.loc && decide (524288 < t.off + t.span)) then none
        else some x
      | _ => some x

/-! ## The image -/

/-- The bytes of a datum. -/
def AsmDatum.image (env : Symbols) : AsmDatum → Option (List (BitVec 8))
  | .bytes l => some l
  | .int w e =>
    (e.eval env).bind fun v => if fitsField (8 * w) true v || fitsField (8 * w) false v then some (leBytes w v.toNat) else none
  | .record k ks => (asmRecord env k ks).map (leBytes k.size)

/-- A PC-relative target whose slot field names no slot (R257). -/
def slotless : Instr → Bool
  | .br t _ | .call t _ | .loop _ t _ | .nexti t _ => decide (5 ≤ t.toNat % 8)
  | .brc x => decide (5 ≤ x.imm.toNat % 8)
  | _ => false

/-- An instruction's word in the line at an address (R181, R199). A target in a slot from 5 to 7 is refused (R257), and the value of a MOVI
may be one of a signed or of an unsigned field (R242). -/
def AsmInsn.image (env : Symbols) (at_ : W64) (i : AsmInsn) : Option W96 :=
  match i.fix with
  | .none => if slotless i.instr then none else some i.word
  | .branch e => (e.eval env).bind fun v =>
      let d := (v >>> 6).toInt - (at_ >>> 6).toInt
      if -(2 ^ 44 : Int) ≤ d && d < 2 ^ 44 && v.toNat % 8 < 5 then
        some (i.word ||| BitVec.ofNat 96 ((d % 2 ^ 45).toNat * 8 + (v &&& 7).toNat))
      else none
  | .field e lo w signed => (e.eval env).bind fun v =>
      let either := match i.instr with | .movi _ _ _ => true | _ => false
      if fitsField w signed v || (either && fitsField w (!signed) v) then some (i.word ||| BitVec.ofNat 96 (v.toNat % 2 ^ w * 2 ^ lo)) else none

/-- A line of words with its TGT, TMPL and PAR (R175 to R177, R201). -/
def asmLine (ws : List W96) (tgt tmpl : Nat) : BitVec 512 :=
  let body := ws.foldr (fun w n => w.toNat + 2 ^ 96 * n) 0
  BitVec.ofNat 512 (body + 2 ^ 480 * (tgt + 2 ^ 8 * tmpl + 2 ^ 16 * xorBytes body 60))

/-- Whether a member of a group reads or writes a register that an earlier member writes. -/
def asmClash : List Opd → List AsmSlot → Bool
  | _, [] => false
  | w, x :: l =>
    let w := if x.joined then w else []
    x.insn.operands.any w.contains || asmClash (w ++ x.insn.writes) l

/-- Sets TGT of the slots that follow a CALL in sequential flow (R201). -/
def asmAfterCall : Bool → List AsmSlot → List AsmSlot
  | _, [] => []
  | c, x :: l => { x with tgt := x.tgt || c } :: asmAfterCall x.insn.isCall l

/-- The lines of .text, five slots each; none where a group is refused (R202). -/
def asmText (env : Symbols) (tbase : W64) (slots : List AsmSlot) : Option (List (BitVec 512)) :=
  if asmClash [] slots || slots.any fun x => x.tgt && x.joined then none
  else
    let line := fun k => (slots.drop (5 * k)).take 5
    let flag := fun (l : List AsmSlot) (f : AsmSlot → Bool) =>
      (l.zipIdx.foldl (fun n x => if f x.1 then n + 2 ^ x.2 else n) 0 : Nat)
    let n := slots.length / 5
    let out : Option (List (BitVec 512)) := (List.range n).mapM fun k =>
      ((line k).mapM fun (x : AsmSlot) => x.insn.image env (tbase + BitVec.ofNat 64 (64 * k))).map fun (ws : List W96) =>
        asmLine ws (flag (line k) (·.tgt)) (flag ((line k).drop 1 ++ (line (k + 1)).take 1) (·.joined))
    out.bind fun ls =>
      let legal := ls.zipIdx.all fun x =>
        [0, 1, 2, 3, 4].all (fun s => groupLegal (groupOf x.1 s)) &&
          (!lineTmpl x.1 4 || match ls[x.2 + 1]? with
            | some y => groupLegal (groupOf x.1 4 ++ groupOf y 0)
            | none => false)
      let known := ls.all fun x => [0, 1, 2, 3, 4].all fun s => (decode (slotWord x s)).toOption.isSome
      if legal && known then some ls else none

/-- The image of a source: the lines of .text and the bytes of .data, for sections that lie at given addresses; none where
decif refuses it (R206). -/
def assemble (tbase dbase : W64) (src : List AsmStmt) : Option (List (BitVec 512) × List (BitVec 8)) :=
  let used := src.flatMap fun x => x.exprs.flatMap (·.names)
  (src.foldlM (fun (a : AsmState) x => a.stmt tbase dbase used x) ({} : AsmState)).bind fun a =>
    if a.join != 0 || a.pairs != 0 || a.fmt then none
    else
      let a := if a.cur.length = 5 then a.flush else a
      let named := a.names.any used.contains
      ((a.bind tbase).bind (·.mark dbase)).bind fun a =>
        let a := if named && !a.cur.isEmpty then { a with cur := a.cur ++ [{ AsmSlot.nop with tgt := true }] } else a
        let slots := asmAfterCall false (a.flush.lines.flatten)
        (asmText a.syms tbase slots).bind fun ls =>
          (a.data.mapM fun (x : AsmDatum) => x.image a.syms).map fun (d : List (List (BitVec 8))) => (ls, d.flatten)

end Sys2Proof.Machine
end

