-- ==== Sys2Proof/Tests/Slice0.lean ====
section
/-!
SUPPORT. Small tests: ill-formed terms, words written out from the spec's encodings, single steps whose results the spec
states, and for every statement with hypotheses a state that meets them.
-/

open Sys2Proof Sys2Proof.Machine

namespace Sys2Proof.Tests

set_option maxRecDepth 8000
-- One theorem after another: many at once would each hold a thread while the kernel is busy.
set_option Elab.async false

/-- Predicate k0, not inverted. -/
def p0 : Pred := ⟨0, false⟩

/-! ## Ill-formed terms: each fails one check of WellFormed (R187 to R193, R231, R302, R303) -/

/-- A term that passes every check. -/
theorem test_wf_add : (Instr.add ⟨.i32, .g 1, .g 2, .imm, 7, p0⟩).wellFormed = true := by decide
/-- ADD takes integer types only. -/
theorem test_wf_type : (Instr.add ⟨.bf16, .g 1, .g 2, .g 3, 0, p0⟩).wellFormed = false := by decide
/-- The destination is a scalar register. -/
theorem test_wf_dest : (Instr.add ⟨.i32, .v 1, .g 2, .g 3, 0, p0⟩).wellFormed = false := by decide
/-- The immediate stands only where the operand kind has it. -/
theorem test_wf_source : (Instr.add ⟨.i32, .g 1, .imm, .g 3, 7, p0⟩).wellFormed = false := by decide
/-- IMM is 0 where no operand names it. -/
theorem test_wf_imm : (Instr.add ⟨.i32, .g 1, .g 2, .g 3, 7, p0⟩).wellFormed = false := by decide
/-- k0 inverted is no predicate. -/
theorem test_wf_pred : (Instr.nop.wellFormed, (Instr.ret ⟨0, true⟩).wellFormed) = (true, false) := by decide
/-- Conditions UN and OR are for floats. -/
theorem test_wf_cond : (Instr.cmp ⟨.un, .i32, .g 1, .g 2, .g 3, 0, p0⟩).wellFormed = false := by decide
/-- A field ends at bit 63 at most. -/
theorem test_wf_field : (Instr.ext ⟨false, .g 1, .g 2, 1, 63, p0⟩).wellFormed = false := by decide
/-- INS has no signed form. -/
theorem test_wf_ins : (Instr.ins ⟨true, .g 1, .g 2, 1, 3, p0⟩).wellFormed = false := by decide
/-- VREDUCE has no bitwise operation on floats. -/
theorem test_wf_reduce : (Instr.vreduce ⟨.and, .fp32, .g 1, .v 2, p0⟩).wellFormed = false := by decide
/-- A load has no release order. -/
theorem test_wf_order : (Instr.ld ⟨.rel, .clu, 3, .g 1, .g 2, .none, .none, 0, p0⟩).wellFormed = false := by decide
/-- An access without order names scope CORE. -/
theorem test_wf_scope : (Instr.ld ⟨.none, .dev, 3, .g 1, .g 2, .none, .none, 0, p0⟩).wellFormed = false := by decide
/-- Vector elements have 1, 2, 4 or 8 bytes. -/
theorem test_wf_size : (Instr.ldv ⟨.none, .core, 6, .v 1, .g 2, .none, .none, 0, p0⟩).wellFormed = false := by decide
/-- Only a reduce-copy has a member index. -/
theorem test_wf_member : (Instr.cpyG2l ⟨.g 1, .g 2, .g 3, 1, 0, 0, p0⟩).wellFormed = false := by decide
/-- Only a multicast or a reduce-copy names a group entry. -/
theorem test_wf_group : (Instr.cpyL2g ⟨.g 1, .g 2, .g 3, 0, 1, 0, p0⟩).wellFormed = false := by decide
/-- RED has no SWAP. -/
theorem test_wf_red : (Instr.red ⟨.none, .core, false, .none, .g 2, .g 3, .none, .swap, .i32, 0, p0⟩).wellFormed = false := by
  decide
/-- AMO is never posted. -/
theorem test_wf_amo : (Instr.amo ⟨.p, .core, false, .g 1, .g 2, .g 3, .none, .add, .i32, 0, p0⟩).wellFormed = false := by decide
/-- The tagged form is for 32-bit types. -/
theorem test_wf_tagged : (Instr.amo ⟨.none, .core, true, .g 1, .g 2, .g 3, .none, .add, .i64, 0, p0⟩).wellFormed = false := by
  decide
/-- At most 32 groups. -/
theorem test_wf_groups : (Instr.mma ⟨false, .acc 0, 0, 1, 33, p0⟩).wellFormed = false := by decide
/-- MMU has no 16-bit form. -/
theorem test_wf_mmu : (Instr.mmu ⟨true, .acc 0, 0, 1, 1, p0⟩).wellFormed = false := by decide
/-- A fence orders something. -/
theorem test_wf_fence : (Instr.fence .dev 0 0 p0).wellFormed = false := by decide
/-- An arrival adds only from another node. -/
theorem test_wf_arrival : (Instr.arv .dev false 3 0 p0).wellFormed = false := by decide
/-- An event names a place that there is (R13). -/
theorem test_wf_core : ((Instr.coreReset 12287).wellFormed, (Instr.coreReset 12288).wellFormed) = (true, false) := by decide
theorem test_wf_region : (Instr.rampEnd 96).wellFormed = false := by decide
theorem test_wf_cluster : (Instr.leaseExpiry 1536).wellFormed = false := by decide
theorem test_wf_queue : (Instr.launchTake 64).wellFormed = false := by decide
theorem test_wf_context : (Instr.killctx 256).wellFormed = false := by decide
theorem test_wf_strand : (Instr.asyncDelivery 0 4).wellFormed = false := by decide
theorem test_wf_optical : (Instr.transferRecord 16).wellFormed = false := by decide

/-! ## Words of the spec's encodings, bit by bit -/

theorem test_decode_nop : decodeTableWord 96 0 = some .nop := by decide +kernel
theorem test_decode_fadd : decodeTableWord 96 0x200206102800000000000000 = some (.fadd ⟨.fp32, .g 3, .g 4, .g 5, 0, p0⟩) := by
  decide +kernel
theorem test_decode_movi : decodeTableWord 96 0x010012000000800000001000 = some (.movi (.g 9) 0x800000001000 p0) := by
  decide +kernel
theorem test_decode_movhi : decodeTableWord 96 0x020012000000000000000000 = some (.movhi (.g 9) 0 p0) := by decide +kernel
theorem test_decode_fmt : decodeTableWord 96 0x38000000000000000DCB0000 = some (.fmt 0x0DCB0000) := by decide +kernel
theorem test_decode_mma : decodeTableWord 96 0xC001D0000000000000001004 = some (.mma ⟨true, .acc 0, 0, 1, 4, p0⟩) := by
  decide +kernel
theorem test_decode_arv : decodeTableWord 96 0xD018000000000000000000F3 = some (.arv .dev true 7 3 p0) := by decide +kernel
theorem test_decode_sprint : decodeTableWord 96 0xE0000E100000000000000000 = some (.sprint (.g 7) (.g 4) p0) := by
  decide +kernel


/-! ## Small states -/

/-- A strand running in the user's code of its local store. -/
def run0 : Strand := { Strand.reset with pc := 0x1000, run := .running }

/-- A device with one core out of reset, its handler resident. -/
def bench (t : Strand) (f : Core → Core) : State :=
  let k : Core := { Core.reset with res := true }
  { State.reset with booted := true, cores := [(0, f { k with strands := k.strands.set 0 t })] }

/-- The bench with a running strand and nothing else. -/
def b0 : State := bench run0 id

theorem b0_begins (x : PxSpec) (priv : Bool) : Begins x priv p0 b0 :=
  ⟨by decide, fun h => absurd h (by decide +kernel), fun _ => by decide +kernel, by decide +kernel⟩

theorem b0_unstepped : Unstepped b0 := by unfold Unstepped; decide +kernel

/-- A strand with an accepted prefix pending: FMT SF=I8. -/
def bPx : State := bench { run0 with status := 0xA0, pxv := 0x09800000 } id

/-- Lines of NOPs whose five slots are targets. -/
def tgtLine (line : W64) : ILine := { line, asid := 0, bytes := 0x1F <<< 480, bad := 0 }

/-- The line at 0x1000 and the one after it in the instruction cache. -/
def bJump (t : Strand) : State := bench t fun k => { k with icache := [tgtLine 0x1000, tgtLine 0x1040] }

/-- A page of 64 KiB at physical 0x400000 that permits everything, at address 2^32. -/
def page0 : Page := { sz := 0, ppn := 64, rd := true, wr := true, ex := true, usr := true, loc := false, cp := 0 }

/-- A device with page tables and that page in its TLB. -/
def bMem (t : Strand) (f : Core → Core) : State :=
  { bench t (fun k => f { k with tlb1 := [{ asid := 0, vpn := 0x10000, page := page0 }] }) with ptcfg := 5 }


theorem ok_of {ε α : Type} {e : Except ε α} {v : α} (h : e.toOption = some v) : e = .ok v := by
  cases e with
  | ok x => simpa [Except.toOption] using h
  | error x => simp [Except.toOption] at h

theorem next_of {o : Res} (h : (match o with | .next _ => true | _ => false) = true) : ∃ t, o = .next t := by
  cases o <;> simp_all

/-! ## Steps whose results the spec's examples state -/

def strandWith (rs : List (Nat × W64)) : Strand := { run0 with g := rs.foldl (fun g r => g.setIfInBounds r.1 r.2) (Vector.replicate 64 0) }
/-- A vector of 32-bit lanes from lane 0. -/
def lanes32 (l : List Nat) : W1024 := BitVec.ofNat 1024 (l.foldr (fun x n => x + 2 ^ 32 * n) 0)
/-- What one instruction leaves of its strand. -/
def after (i : Instr) (t : Strand) : Option Strand := match exec i (bench t id) with | .next s => some s.me | _ => none
def gAfter (i : Instr) (t : Strand) (n : Nat) : Option W64 := (after i t).map (·.readG n)

/-- R244's table. -/
theorem test_div_i32 : (gAfter (.div ⟨.i32, .g 3, .g 1, .g 2, 0, p0⟩) (strandWith [(1, 7), (2, 0xFFFFFFFFFFFFFFFE)]) 3,
    gAfter (.div ⟨.i32, .g 3, .g 1, .g 2, 0, p0⟩) (strandWith [(1, 0x80000000), (2, 0xFFFFFFFF)]) 3) =
    (some 0xFFFFFFFFFFFFFFFD, some 0xFFFFFFFF80000000) := by decide +kernel
theorem test_div_by_zero : (gAfter (.div ⟨.ui32, .g 3, .g 1, .g 2, 0, p0⟩) (strandWith [(1, 0xFFFFFFFFFFFFFFF0)]) 3,
    gAfter (.rem ⟨.ui32, .g 3, .g 1, .g 2, 0, p0⟩) (strandWith [(1, 0xFFFFFFFFFFFFFFF0)]) 3) =
    (some 0xFFFFFFFF, some 0xFFFFFFF0) := by decide +kernel
/-- R246: a shift count is taken modulo the width. -/
theorem test_shl_count : gAfter (.shl ⟨.i32, .g 3, .g 1, .imm, 33, p0⟩) (strandWith [(1, 1)]) 3 = some 2 := by decide +kernel
/-- R242: the two words that build a GLOBAL address. -/
theorem test_movi : gAfter (.movi (.g 9) 0x800000001000 p0) run0 9 = some 0xFFFF800000001000 := by decide +kernel
theorem test_movhi : gAfter (.movhi (.g 9) 0 p0) (strandWith [(9, 0xFFFF800000001000)]) 9 = some 0x0000800000001000 := by decide +kernel
/-- R243: FMT SAT, and without. -/
theorem test_add_saturates : (gAfter (.add ⟨.i16, .g 1, .g 2, .g 3, 0, p0⟩) { strandWith [(2, 30000), (3, 10000)] with status := 0xA0, pxv := 0x8000 } 1,
    gAfter (.add ⟨.i16, .g 1, .g 2, .g 3, 0, p0⟩) (strandWith [(2, 30000), (3, 10000)]) 1) = (some 32767, some 0xFFFFFFFFFFFF9C40) := by
  decide +kernel
/-- R255: the tie of CVT.BF16.F32, and R148's conversion of 2^31. -/
theorem test_cvt_tie : gAfter (.cvt ⟨.bf16, .fp32, .g 2, .g 1, 0, p0⟩) (strandWith [(1, 0x3F808000)]) 2 = some 0x3F80 := by decide +kernel
theorem test_cvt_clamps : gAfter (.cvt ⟨.i32, .fp32, .g 2, .g 1, 0, p0⟩) (strandWith [(1, 0x4F000000)]) 2 = some 0x7FFFFFFF := by decide +kernel
/-- R276, R277: the tree and the scan of one vector. -/
def treeStrand : Strand :=
  { run0 with v := run0.v.set 9 (lanes32 [0x4B800000, 0x3F800000, 0x3F800000, 0xCB800000]), k := run0.k.set 3 0xF }
theorem test_vreduce : gAfter (.vreduce ⟨.add, .fp32, .g 4, .v 9, ⟨3, false⟩⟩) treeStrand 4 = some 0x3F800000 := by decide +kernel
theorem test_vscan : (after (.vscan ⟨.add, .fp32, .v 5, .v 9, ⟨3, false⟩⟩) treeStrand).map (·.readV 5) =
    some (lanes32 [0x4B800000, 0x4B800000, 0x4B800000, 0]) := by decide +kernel
/-- R281. -/
theorem test_vcompress : (after (.vcompress ⟨.i32, .v 2, .v 1, 0, ⟨4, false⟩⟩)
    { run0 with v := run0.v.set 1 (lanes32 [50, 51, 52, 53, 54]), k := run0.k.set 4 0x16 }).map (·.readV 2) = some (lanes32 [51, 52, 54]) := by
  decide +kernel
/-- R284. -/
theorem test_kmov : (after (.kmov ⟨.k 1, .imm, 0xFFFFFFFFFFFF, p0⟩) run0).map (·.readK 1) = some 0xFFFFFFFFFFFFFFFF := by decide +kernel
/-- R216: SCATTER, the lanes in ascending order. -/
theorem test_scatter : (match exec (.scatter ⟨.none, .core, 2, .none, .g 4, .v 5, .v 6, 0, ⟨1, false⟩⟩)
      (bench { strandWith [(4, 0x1000)] with
        v := (run0.v.set 5 (lanes32 [0, 8, 0, 4])).set 6 (lanes32 [10, 11, 12, 13]), k := run0.k.set 1 0xF } id) with
    | .next s => [0x1000, 0x1004, 0x1008].map fun a => s.myCore.ls.num a 4
    | _ => []) = [12, 13, 11] := by decide +kernel
/-- R168, R351: TRAP. -/
theorem test_trap : (after (.trap 0x1234 p0) { run0 with status := 0x400 }).map (fun t => (t.cause, t.badaddr, t.epc, t.pc, t.status)) =
    some (19, 0x1234, 0x1001, 0x7E000, 0x280) := by decide +kernel
/-- R13, R14: the core of 01_cube.md's example. -/
theorem test_places : (coreNum 21 13 9, clusterOf 7349, regionOf 7349, proxyOf 7349, attachCore 461) = (7349, 874, 54, 461, 7349) := by decide
theorem test_window : decodeAddr 0 0xFE0000012DA80000 = some (.win 7349 0) := by decide +kernel
/-- R30, R32: the two lines of 02_memory_and_addresses.md's example. -/
theorem test_home : (hbmOf 1000000, State.reset.homeOf 1000000, hbmOf 8589934591, State.reset.homeOf 8589934591) = (0, 250, 0, 511) := by
  decide +kernel
/-- R82: the recall's fold, copy by copy. -/
theorem test_recall_fold : (foldCopy (.fadd, .fp32) (foldCopy (.fadd, .fp32) (foldCopy (.fadd, .fp32) 0x3F800000 1 0x4B800000) 1 0x3F800000) 1
    0x3F800000) = 0x4B800000 := by decide +kernel
/-- R135: TLOG.COMPACT. -/
theorem test_compact : (compactLog .i32 ([(3, LogOp.add, 5), (3, .add, 2), (9, .max, 4), (3, .add, 1), (9, .store, 10), (9, .max, 12),
      (9, .max, 7)].map fun e => ⟨0, e.1, e.2.1, e.2.2⟩)).map (fun e => (e.elem, e.op, e.val)) =
    [(3, .add, 7), (3, .add, 1), (9, .store, 10), (9, .max, 12)] := by decide +kernel
/-- R154, R156: the residues of −10,291, and their drain with both scales. -/
theorem test_residue : (raOfInt (-10291), raValue 0x3D8F37C2, drainElem true .fp32 3 false 0x3EC00000 0x3D800000 0x3D8F37C2) =
    (0x3D8F37C2, -10291, 0xC3713200) := by decide +kernel
/-- R152: one rounding for a group of sixteen products. -/
theorem test_mma_group : mmaElem .bf16 ⟨0x3F803F80, 16, 128⟩ ⟨BitVec.ofNat 32768 (0x3F80 + 0x3F80 * 2 ^ 256), 16, 16⟩ 1 0 0 0x4B800000 = 0x4B800001 := by
  decide +kernel
/-- R157, R299: the max-plus program of the example. -/
theorem test_mmu_max_plus : mmuElem { i32 := false, const := 0, steps := [0x1040, 0x64C0] } ⟨0x3E8040803FC0, 16, 128⟩
    ⟨BitVec.ofNat 32768 (0x4000 + 0xBF80 * 2 ^ 256 + 0x3F00 * 2 ^ 512), 16, 16⟩ 1 0 0 0xFF800000 = 0x40600000 := by decide +kernel
/-- R329, R330: the example's release, its record and its biases. -/
def skewState : State :=
  { State.reset with
    booted := true
    timecode := 1660
    barGroups := [(64 * 3, { BarGroup.reset with
      word := 0x0A00C802D8000800, done := [(0, 1000), (1, 900), (2, 1400), (3, 1000)], due := [0, 1, 2, 3] })]
    cores := (List.range 4).map fun c => (c, { Core.reset with nodes := Core.reset.nodes.set 3 (putBits 0x4000 48 16 5) }) }
theorem test_skew : (match exec (.groupRelease 3 0) skewState with
    | .next s => some ((s.barGroup 3 0).skew[0], (s.barGroup 3 0).rel, (s.cluster 0).bias, (s.cluster 1).bias)
    | _ => none) = some (0x00050000000101F4, [(0, 1660), (1, 1670), (2, 1680), (3, 1690)], -1, 1) := by decide +kernel
/-- R210, R208: the sign-extended halfword. -/
theorem test_ld_half : (match exec (.ld ⟨.none, .core, 5, .g 3, .g 1, .none, .none, 0, p0⟩)
      (bench (strandWith [(1, 0x2000)]) fun k => { k with ls := [(0x2000, 0x34), (0x2001, 0x82)] }) with
    | .next s => some (s.me.readG 3) | _ => none) = some 0xFFFFFFFFFFFF8234 := by decide +kernel
/-- R303: CAS that succeeds, in the local store. -/
theorem test_amo_cas : (match exec (.amo ⟨.none, .core, false, .g 5, .g 6, .g 7, .g 8, .cas, .i32, 8, p0⟩)
      (bench (strandWith [(6, 0x2000), (7, 9), (8, 5)]) fun k => { k with ls := [(0x2008, 5)] }) with
    | .next s => some (s.me.readG 5, s.myCore.ls) | _ => none) = some (5, [(0x2008, 9)]) := by decide +kernel
/-- R351: HALT in user mode raises PRIVILEGE. -/
theorem test_halt_user : (after (.halt p0) { run0 with status := 0 }).map (fun t => (t.cause, t.run)) = some (7, .running) := by decide +kernel
/-- R352: ERET. -/
theorem test_eret : (after (.eret p0) { run0 with status := 0x280, epc := 0x1044 }).map (fun t => (t.pc, t.status)) = some (0x1044, 0x600) := by
  decide +kernel
/-- R257: the example's BRC, not taken. -/
theorem test_brc : (after (.brc ⟨.lt, .i64, .none, .g 4, .g 5, 0xFFFFFFFFFFF8, p0⟩) (strandWith [(4, 5), (5, 5)])).map (·.pc) = some 0x1001 := by
  decide +kernel
/-- R111, R222: QPOP takes the entry at HEAD. -/
theorem test_qpop : (match exec (.qpop ⟨.none, .core, 0, .v 3, .g 1, .none, .none, 0, p0⟩)
      (bench (strandWith [(1, 0x2000)]) fun k =>
        { k with bkmd0 := 8, ls := [(0x3FC0, 7)], fifos := [(1, { Fifo.reset with head := 127, count := 1 })] }) with
    | .next s => some (s.me.readV 3, (s.myCore.fifo 1).head, (s.myCore.fifo 1).count) | _ => none) = some (7, 0, 0) := by decide +kernel

/-! ## Witnesses: states and operands that meet the hypotheses of each statement -/

/-- Without a prefix, and with FMT SF=I8 pending. -/
theorem witness_ScalarIntegerCompletes :
    (Begins .narrowSat false p0 b0 ∧ Unstepped b0) ∧ (Begins .narrow false p0 bPx ∧ bPx.me.px = true ∧ Unstepped bPx) := by
  unfold Begins Unstepped; decide +kernel

/-- The corner of R244: the least number by −1. -/
theorem witness_IntegerResults :
    (0x80 < 2 ^ etyWidth .i8 ∧ 0xFF < 2 ^ etyWidth .i8 ∧ asInt true 8 0x80 = -(2 ^ (8 - 1)) ∧ asInt true 8 0xFF = -1) ∧
    (5 : Nat) < 2 ^ etyWidth .ui8 ∧ asInt false 8 5 ≠ 0 := by decide

theorem witness_ScalarMovesComplete :
    (Begins .narrow false p0 b0 ∧ Unstepped b0) ∧ ETy.i32.isInt = true ∧ (63 : Fin 64).val + (0 : Fin 64).val + 1 ≤ 64 ∧
    (0x80 : Nat) < 2 ^ 8 := by
  refine ⟨⟨b0_begins _ _, b0_unstepped⟩, ?_⟩; decide

theorem witness_ScalarFloatCompletes :
    Begins .round false p0 b0 ∧ Unstepped b0 ∧ ETy.fp32.isFlt = true ∧ Begins (cvtPx b0.me.desc .fp32 .bf16) false p0 b0 :=
  ⟨b0_begins _ _, b0_unstepped, by decide, b0_begins _ _⟩

/-- A quiet and a signalling NaN, infinities, zeros and finite values of BF16. -/
theorem witness_ScalarFloatCompletes_values :
    let r := readF .bf16 false
    (r 0x7FC0).isNan = true ∧ (r 0x7FC0).isSig = false ∧ (r 0x7F81).isSig = true ∧ (r 0x7F80).isInf = true ∧ r 0x7F80 = .inf false ∧
      (r 0xFF80).neg = true ∧ (r 0x8000).isZero = true ∧ (r 0x8000).isFin = true ∧ (r 0x3F80).isFin = true ∧
      (r 0x3F80).isZero = false ∧ (r 0x7F7F).isFin = true ∧ (0x7F81 : Nat) < 2 ^ Fmt.bf16.width := by decide +kernel

/-- Sums, differences and products of finite values that are not 0 and that are. -/
theorem witness_ScalarFloatCompletes_sums :
    (readF .bf16 false 0x3F80).rat = 1 ∧ (readF .bf16 false 0xBF80).rat = -1 ∧ (readF .bf16 false 0x8000).rat = 0 := by
  have h1 : readF .bf16 false 0x3F80 = .fin false 128 (-7) := by decide +kernel
  have h2 : readF .bf16 false 0xBF80 = .fin true 128 (-7) := by decide +kernel
  have h3 : readF .bf16 false 0x8000 = .fin true 0 (-133) := by decide +kernel
  rw [h1, h2, h3]
  norm_num [FVal.rat]

/-- A test for `Enterable` that computes. -/
def enters (s : State) (pc : W64) : Bool :=
  pcOk pc && match s.fetch s.cur.1 s.cur.2 (pcLine pc) with
    | .line l => lineTgt l.bytes (pcSlot pc)
    | _ => false

theorem enterable_of {s : State} {pc : W64} (h : enters s pc = true) : Enterable s pc := by
  unfold enters at h
  revert h
  cases hf : s.fetch s.cur.1 s.cur.2 (pcLine pc) with
  | line l => intro h; exact ⟨by simp_all, l, hf, by simp_all⟩
  | _ => intro h; simp at h

/-- The link and g1 point into the line 0x1040, and g2 counts a LOOP. -/
def bLoop (r : W64) : State := bJump { run0 with g := (((Vector.replicate 64 0).set 61 0x1044).set 1 0x1040).set 2 r }

/-- Transfers to the line 0x1040; LOOP with 0, 1 and 2; a range with one index and an empty one; a target in no slot. -/
theorem witness_BranchesComplete :
    (Begins .no false p0 (bLoop 2) ∧ Unstepped (bLoop 2) ∧ Enterable (bLoop 2) (pcTarget (bLoop 2).me.pc 0x0C) ∧
      pcTarget (bLoop 2).me.pc 0x0C = 0x1044 ∧ Enterable (bLoop 2) ((bLoop 2).me.readG 61) ∧
      Enterable (bLoop 2) ((bLoop 2).me.src 0 (.g 1)) ∧ 1 < ((bLoop 2).me.src 0 (.g 2)).toNat ∧
      (bLoop 1).me.src 0 (.g 2) = 1 ∧ (bLoop 0).me.src 0 (.g 2) = 0 ∧ cmpI .eq 1 1 = true ∧ cmpI .eq 1 2 = false) ∧
    (let s := bJump { run0 with rnglo := 7, rnghi := 8 }
     s.me.rangeStop = false ∧ s.me.rnglo.toNat < s.me.rnghi.toNat ∧ Begins .no false p0 s) ∧
    ((bLoop 2).me.rangeStop = false ∧ (bLoop 2).me.rnghi.toNat ≤ (bLoop 2).me.rnglo.toNat) ∧
    pcOk (pcTarget b0.me.pc 5) = false ∧ pcOk (b0.me.src 0 .zero + 8) = false ∧ b0.myCore.res = true := by
  refine ⟨⟨?_, ?_, enterable_of ?_, ?_, enterable_of ?_, enterable_of ?_, ?_⟩, ?_⟩ <;> first | unfold Begins | unfold Unstepped | skip
  all_goals decide +kernel

/-- The two clauses about a PC that is not well formed: a jump to g1 and a return to g61. -/
theorem witness_BranchesComplete_pc :
    let s := bench { run0 with g := (((Vector.replicate 64 0).set 61 5).set 1 8) } id
    Begins .no false p0 s ∧ s.myCore.res = true ∧ pcOk (s.me.src 0 (.g 1)) = false ∧ pcOk (s.me.readG 61) = false := by
  unfold Begins; decide +kernel

/-- Transfers to g1, to g61 and to a label in a line whose slots are no targets. -/
theorem witness_BranchesComplete_targets :
    let s := bench { run0 with g := ((((Vector.replicate 64 0).set 61 0x1044).set 1 0x1044).set 2 2) } fun k =>
      { k with icache := [{ tgtLine 0x1040 with bytes := 0 }] }
    (Begins .no false p0 s ∧ s.myCore.res = true ∧ pcTarget s.me.pc 0x0C = 0x1044 ∧ pcOk 0x1044 = true ∧ s.me.src 0 (.g 1) = 0x1044 ∧
      s.me.readG 61 = 0x1044 ∧ 1 < (s.me.src 0 (.g 2)).toNat ∧ s.me.rangeStop = false ∧ s.me.rnghi.toNat ≤ s.me.rnglo.toNat ∧
      cmpI .eq 1 1 = true) ∧
    ∃ l, s.fetch s.cur.1 s.cur.2 (pcLine 0x1044) = .line l ∧ lineTgt l.bytes (pcSlot 0x1044) = false := by
  refine ⟨?_, _, rfl, ?_⟩
  · unfold Begins; decide +kernel
  · decide +kernel

theorem witness_FmtCompletes : Begins .no false ⟨0, false⟩ b0 ∧ Unstepped b0 := ⟨b0_begins _ _, b0_unstepped⟩

theorem witness_TrapEntryEffect : ({ num := 255, bad := 0 } : Cause).num < 256 := by decide

theorem witness_EretCompletes :
    Begins .no true p0 b0 ∧ pcOk b0.me.epc = true ∧ ¬ (b0.me.preempting = true ∧ (b0.me.cause.setWidth 8).toNat = 38) ∧
      b0.me.cause.getLsbD 9 = false := ⟨b0_begins _ _, by decide +kernel⟩

/-- A strand that waits for the present timecode, and one of a later timecode. -/
theorem witness_TrapTimecHaltComplete :
    (Begins .no true p0 b0 ∧ Begins .no false p0 b0 ∧ Unstepped b0 ∧ b0.myCore.res = true) ∧
    (b0.me.src 0 (.g 1)).toNat ≤ b0.timecode.toNat ∧
    (let s := bench { run0 with g := (Vector.replicate 64 0).set 1 1 } id
     Begins .no false p0 s ∧ s.timecode.toNat < (s.me.src 0 (.g 1)).toNat) ∧
    (let s := bench { run0 with wait := .timec (.g 1) 0 } id
     (s.strand 0 0).wait = .timec (.g 1) 0 ∧ (0 : W64).toNat ≤ s.timecode.toNat ∧
       ((s.strand 0 0).sstep && (s.strand 0 0).ie) = false) := by
  refine ⟨⟨b0_begins _ _, b0_begins _ _, b0_unstepped, by decide +kernel⟩, by decide +kernel, ?_, by decide +kernel⟩
  unfold Begins; decide +kernel

/-- A prefix pending; a predicate of 0; user mode; SSTEP and IE set. -/
theorem witness_BeforeAndAfterAnInstruction :
    (bPx.cur.2 < 4 ∧ bPx.me.px = true ∧ bPx.myCore.res = true) ∧
    (b0.me.px = false ∧ b0.me.predOn ⟨1, false⟩ = false ∧ Unstepped b0) ∧
    (let s := bench { run0 with status := 0 } id
     s.me.px = false ∧ s.me.prv = false ∧ s.myCore.res = true) ∧
    (let s := bench { run0 with status := 0xC80 } id
     (s.me.sstep && s.me.ie) = true ∧ s.myCore.res = true ∧ Begins .no false ⟨0, false⟩ s ∧ Begins .narrowSat false p0 s) := by
  unfold Begins Unstepped; decide +kernel

/-- CAUSE (R at most) in a privileged mode, SYSW of RES, an unassigned number, and EPC in user mode. -/
theorem witness_SystemRegistersComplete :
    (Begins .no false p0 b0 ∧ Unstepped b0 ∧ sysAccess 1 = some (.none, .write) ∧ b0.me.prv = true ∧
      b0.sysRefuse 0x032 (b0.me.src 0 (.g 1)) = none ∧ sysAccess 0x032 = some (.none, .write) ∧ sysAccess 0xFFF = none ∧
      (let r := (b0.past 0 0 b0.me).sysSet 0x032 0; (r.sstep && r.ie) = false)) ∧
    (let s := bench { run0 with status := 0 } id
     s.me.prv = false ∧ sysAccess 2 = some (.none, .write) ∧ Begins .no false p0 s ∧ s.myCore.res = true) := by
  refine ⟨⟨b0_begins _ _, b0_unstepped, by decide +kernel⟩, ?_⟩
  unfold Begins; decide +kernel

/-- A register that user code only reads, one that nobody writes, values refused, and 0 and another value for an error entry. -/
theorem witness_SystemRegistersComplete_refused :
    (let s := bench { run0 with status := 0, g := ((Vector.replicate 64 0).set 1 0x4000).set 2 0x10000 } fun k => { k with bkmd1 := 1 <<< 62 }
     Begins .no false p0 s ∧ s.myCore.res = true ∧ sysAccess 7 = some (.read, .write) ∧ s.me.prv = false) ∧
    (let s := bench { run0 with g := (((Vector.replicate 64 0).set 1 0x4000).set 2 0x10000).set 3 1 } fun k => { k with bkmd1 := 1 <<< 62 }
     Begins .no false p0 s ∧ s.myCore.res = true ∧ Unstepped s ∧ sysAccess 9 = some (.read, .read) ∧ sysAccess 6 = some (.read, .write) ∧
      sysAccess 7 = some (.read, .write) ∧ sysAccess 0x32 = some (.none, .write) ∧ s.me.prv = true ∧
      2 ^ 14 ≤ (s.me.src 0 (.g 1)).toNat ∧ 2 ^ 16 ≤ (s.me.src 0 (.g 2)).toNat ∧ (s.me.src 0 (.g 3)).toNat % 2 = 1 ∧
      s.myCore.mode 63 ≠ 0 ∧ s.me.src 0 (.g 4) = 0 ∧ s.me.src 0 (.g 3) ≠ 0) := by
  unfold Begins Unstepped; decide +kernel

theorem witness_VectorArithmeticCompletes :
    (Instr.vadd ⟨.i32, .v 1, .v 2, .v 3, 0, p0⟩).wellFormed = true ∧ (Instr.vfma ⟨.fp32, .v 1, .v 2, .v 3, .v 4, 0, p0⟩).wellFormed = true ∧
    (Instr.vabs ⟨.fp32, .v 1, .v 2, 0, p0⟩).wellFormed = true ∧ Begins .narrowSat false noPred b0 ∧ Begins .round false noPred b0 ∧
    Begins (.byType .i32 .narrowSat .round) false noPred bPx ∧ Unstepped b0 := by
  refine ⟨by decide, by decide, by decide, b0_begins _ _, b0_begins _ _, ?_, b0_unstepped⟩
  unfold Begins; decide +kernel

theorem witness_VcmpCompletes :
    (Instr.vcmp ⟨.lt, .fp32, .k 1, .v 2, .v 3, 0, p0⟩).wellFormed = true ∧ Begins .no false noPred b0 ∧ Unstepped b0 :=
  ⟨by decide, b0_begins _ _, b0_unstepped⟩

theorem witness_VectorConvertCompletes :
    Begins ⟨true, [.i8, .ui8], [.i8, .ui8], false, !(b0.me.desc.dstTy .bf16).isFlt, true⟩ false noPred b0 ∧
    Begins .no false noPred b0 ∧ Unstepped b0 := ⟨b0_begins _ _, b0_begins _ _, b0_unstepped⟩

theorem witness_VectorMovesComplete :
    Begins .narrow false noPred b0 ∧ Begins .no false noPred b0 ∧ Unstepped b0 := ⟨b0_begins _ _, b0_begins _ _, b0_unstepped⟩

/-- Lane 0 active, and with k1 = 0 not active. -/
theorem witness_VectorAcrossLanesComplete :
    Begins (.byType .fp32 .narrow .round) false noPred b0 ∧ Begins .no false noPred b0 ∧ Unstepped b0 ∧
    b0.me.active p0 32 0 = true ∧ b0.me.active ⟨1, false⟩ 32 0 = false :=
  ⟨b0_begins _ _, b0_begins _ _, b0_unstepped, by decide +kernel⟩

theorem witness_VectorResiduesComplete :
    (Begins ⟨true, [.rn8, .rn4], [], false, false, false⟩ false noPred b0 ∧ Begins .no false noPred b0 ∧ Unstepped b0) ∧
    (-536870400 : Int) ≤ -536870400 ∧ (536870399 : Int) < 536870400 :=
  ⟨⟨b0_begins _ _, b0_begins _ _, b0_unstepped⟩, by decide⟩

theorem witness_MasksComplete : Begins .no false p0 b0 ∧ Unstepped b0 ∧ (7 : Fin 8) ≠ 0 :=
  ⟨b0_begins _ _, b0_unstepped, by decide⟩

/-! ### Memory -/

/-- A load of eight bytes at [g1]. -/
def ldAt (d : Opd) : MemA := ⟨.none, .core, 3, d, .g 1, .none, .none, 0, p0⟩
/-- A store of eight bytes of g2 at [g1]. -/
def stAt (o : MOrd) : MemA := ⟨o, if o = .rel then .dev else .core, 3, .none, .g 1, .g 2, .none, 0, p0⟩
/-- An atomic addition of g2 at [g1]. -/
def amAt (o : MOrd) (d : Opd) : Am := ⟨o, if o = .none then .core else .dev, false, d, .g 1, .g 2, .none, .add, .i64, 0, p0⟩

/-- The bench with an address in g1. -/
def bAt (a : W64) : State := bench { run0 with g := (Vector.replicate 64 0).set 1 a } id
/-- The bench with page tables, with an address in g1. -/
def gAt (a : W64) : State := bMem { run0 with g := (Vector.replicate 64 0).set 1 a } id

/-- The last eight bytes of the local store in privileged mode, and four lanes in a row. -/
theorem witness_LoadsComplete :
    (let s := bAt 0x7FFF8
     Begins .no false p0 s ∧ Unstepped s ∧ s.me.ldc < 64 ∧ LocalOk s (memAddr (ldAt (.g 3)) s.me) (szBytes 3) 0x7FFF8) ∧
    (let s := bAt 0x2000
     Begins .no false noPred s ∧ Unstepped s ∧ s.me.ldc < 64 ∧
       ∀ i, i < 128 / 8 → s.me.active p0 64 i = true → LocalOk s (memAddr (ldAt (.v 3)) s.me + BitVec.ofNat 64 (8 * i)) 8 (0x2000 + 8 * i)) := by
  unfold Begins Unstepped LocalOk; decide +kernel

theorem witness_StoresComplete :
    let s := bAt 0x2000
    Begins .no false p0 s ∧ Begins .no false noPred s ∧ Unstepped s ∧ s.myCore.ls.wf = true ∧ s.me.stc < 64 ∧
      s.released 0 0 .dev = true ∧ LocalOk s (memAddr (stAt .rel) s.me) (szBytes 3) 0x2000 ∧
      ∀ i, i < 128 / 8 → s.me.active p0 64 i = true → LocalOk s (memAddr (stAt .rel) s.me + BitVec.ofNat 64 (8 * i)) 8 (0x2000 + 8 * i) := by
  unfold Begins Unstepped LocalOk; decide +kernel

theorem gAt_ok (n : Need) (h : page0.permits n = true) : GlobalOk (gAt 0x100000080) 0x100000080 8 n page0 0x400080 :=
  ⟨by decide, by decide +kernel, 0x100000080, .inl rfl, by decide +kernel, h, by decide⟩

/-- A load of a line that the first-level cache holds, one of a line that it does not, a store, an atomic and their answers. -/
theorem witness_GlobalAccessesComplete :
    (let s := gAt 0x100000080
     Begins .no false p0 s ∧ Unstepped s ∧ s.me.ldc < 64 ∧ s.me.stc < 64 ∧ s.released 0 0 .dev = true ∧
       memAddr (ldAt (.g 3)) s.me = 0x100000080 ∧ memAddr (stAt .rel) s.me = 0x100000080 ∧ amAddr (amAt .rel (.g 3)) s.me = 0x100000080 ∧
       s.accessStalls [mkPiece 8 0 (0, 0x100000080) (.mem 0x400080 false true)] true true = false ∧
       s.accessStalls [mkPiece 8 0 (0, 0x100000080) (.mem 0x400080 false true)] false false = false ∧
       s.myCore.l1Find (0x400080 / 128) = none ∧ s.myCore.filling (0x400080 / 128) = false ∧
       ∀ n ∈ [Need.load true, .store true, .amo true], page0.permits n = true) := by
  unfold Begins Unstepped; decide +kernel

/-- A message that has arrived and waits to be handled. -/
def msg0 (src dest : Nat) (body : Body) : Msg :=
  { uid := 7, src, via := src, dest, cls := 0, tag := 0, nf := 1, ticket := 0, cancel := false, poison := false, body }
def State.withMsg (s : State) (m : Msg) : State := { s with inbox := [m] }

def piece0 : Piece := mkPiece 8 0 (0, 0x100000080) (.mem 0x400080 false true)
/-- A strand that waits for the answer to an access. -/
def bAns (e : AccEnd) (amo : Option AmoReq) (kind : Nat) : State :=
  State.withMsg (bench { run0 with wait := .access { last := e, amo, cur := some piece0, todo := [], acc := 0 } } id)
    (msg0 12288 0 (.ans (.strand 0 0) kind 1 false (some 5) (.plain .read (0x400080 / 128) (.strand 0 0) (some 0))))

/-- The answers to a load, a store and an atomic, and a poisoned one. -/
theorem witness_GlobalAccessesComplete_answers :
    (∀ e ∈ [AccEnd.load (.g 3) 3 none, .store, .amo (.g 3) false none none], ∀ k ∈ [0, 4],
      let s := bAns e (some ⟨.add, .i64, 1, 0⟩) k
      (s.msg? 7).isSome = true ∧ (s.strand 0 0).wait = .access { last := e, amo := some ⟨.add, .i64, 1, 0⟩, cur := some piece0, todo := [], acc := 0 } ∧
      piece0.win = false ∧ piece0.place = 0x400080 / 128 ∧ piece0.lanes = [(0, piece0.off)] ∧
      ((s.strand 0 0).sstep && (s.strand 0 0).ie) = false ∧ (s.core 0).res = true ∧ (s.strand 0 0).window = false) := by
  decide +kernel

/-- A page with LOC = 1, and a store that hits a line to which another store of the core is on its way. -/
theorem witness_GlobalAccessesComplete_others :
    (let p := { page0 with loc := true }
     let s := { bench run0 (fun k => { k with tlb1 := [{ asid := 0, vpn := 0x10000, page := p }] }) with ptcfg := 5 }
     s.myCore.tlbFind 0 0x100000080 = some p ∧ p.permits (.amo true) = true ∧ s.myCore.res = true ∧ s.me.window = false) ∧
    (let s := bMem run0 fun k => { k with
        bkmd0 := 1, l1 := [{ way := 0, set := 1, line := 0x8001, data := 5, stamp := 0 }]
        journal := [(0, { Journal.reset with st := .sent, strand := 1, piece := some { piece0 with off := 64, addr := 0x1000000C0 } })] }
     (s.myCore.l1Find 0x8001).isSome = true ∧ s.writePending 0 0x8001 = true ∧ s.accessStalls [piece0] false false = false) := by
  decide +kernel

/-- The window of core 1, and the answers of that core. -/
theorem witness_GlobalAccessesComplete_window :
    (let s := bAt 0xFE00000000082000
     let q := mkPiece 8 0 (0, 0xFE00000000082000) (.win 1 0x2000)
     Begins .no false p0 s ∧ WindowOk s (memAddr (ldAt (.g 3)) s.me) 8 1 0x2000 ∧ s.me.ldc < 64 ∧ s.me.stc < 64 ∧
       s.accessStalls [q] true false = false ∧ s.accessStalls [q] false false = false ∧ s.released 0 0 .dev = true ∧
       s.pushPending 0 0 [((0, amAddr (amAt .none (.g 3)) s.me), .win 1 0x2000)] 8 = false) ∧
    (∀ e ∈ [AccEnd.load (.g 3) 3 none, .store, .amo (.g 3) false none none], ∀ k ∈ [0, 4],
      let q := mkPiece 8 0 (0, 0xFE00000000082000) (.win 1 0x2000)
      let a : Access := { last := e, amo := some ⟨.add, .i64, 1, 0⟩, cur := some q, todo := [], acc := 0 }
      let m := msg0 1 0 (.winAns (.strand 0 0) k 5)
      let s := State.withMsg (bench { run0 with wait := .access a } id) m
      s.msg? 7 = some m ∧ (s.strand 0 0).wait = .access a ∧ q.win = true ∧ q.place = m.src ∧ q.lanes = [(0, 0)]) := by
  unfold Begins WindowOk; decide +kernel

/-- The line in the first-level cache: bank 0 a cache bank. -/
theorem witness_GlobalAccessesComplete_hit :
    let s := bMem run0 fun k => { k with bkmd0 := 1, l1 := [{ way := 0, set := 1, line := 0x8001, data := 5, stamp := 0 }] }
    (s.myCore.l1Find (0x400080 / 128)).isSome = true ∧ page0.loc = false ∧ page0.cp = 0 ∧ memAcq (ldAt (.g 3)) = none ∧
      s.accessStalls [mkPiece 8 0 (0, 0x100000080) (.mem 0x400080 false true)] true false = false := by decide +kernel

theorem witness_PostedOperationsComplete :
    let s := gAt 0x100000080
    Unstepped s ∧ s.accessStalls [piece0] false false = false ∧ s.me.rsc < 64 ∧ s.myCore.freeJent = some 0 ∧ Begins .no false p0 s ∧
      GlobalOk s 0x100000080 8 (.store s.me.prv) page0 0x400080 ∧ s.released 0 0 .dev = true ∧
      ∀ e ∈ s.myCore.journal, e.2.st ≠ .sent ∨ e.2.opk ≠ 2 := by
  unfold Unstepped Begins
  refine ⟨?_, ?_, ?_, ?_, ?_, gAt_ok _ ?_, ?_⟩ <;> decide +kernel

/-- Not aligned; a hole; the reserved bank in user mode (0x7E000 is its first byte); one byte before it no refusal. -/
theorem witness_AccessTraps :
    (Begins .no false p0 (bAt 1) ∧ (bAt 1).myCore.res = true ∧ (bAt 1).me.window = false ∧ (memAddr (ldAt (.g 3)) (bAt 1).me).toNat % 8 ≠ 0) ∧
    ((0x80000 : W64).toNat % 8 = 0 ∧ decodeSpan 0 0x80000 8 = .error 0x80000) ∧
    (let s := bench { run0 with status := 0, g := (Vector.replicate 64 0).set 1 0x7E000 } id
     Begins .no false p0 s ∧ localOf 0 0 0x7E000 8 = some 0x7E000 ∧ s.myCore.changing 0x7E000 8 = false ∧
       s.myCore.localRefusal 0x7E000 8 false = some 9) ∧
    (∀ k, 0x7DFF8 / 8192 ≤ k → k ≤ (0x7DFF8 + 8 - 1) / 8192 → (bAt 1).myCore.mode k = 0) ∧
    (0x7DFF8 + 8 ≤ 516096 ∧ 516096 < 0x7E000 + 1 ∧ 0x7DFF8 + 8 ≤ 524288) ∧
    (let x := { Core.reset with bkmd0 := 1 }; x.mode 0 ≠ 0) ∧
    LocalOk (bAt 0x2000) (amAddr (amAt .none .none) (bAt 0x2000).me) 8 0x2000 := by
  refine ⟨?_, ⟨by decide, rfl⟩, ?_, ?_, by decide, by decide +kernel, ?_⟩
  · unfold Begins; decide +kernel
  · unfold Begins; decide +kernel
  · intro k h1 h2
    obtain rfl : k = 62 := by omega
    decide +kernel
  · unfold LocalOk; decide +kernel

/-- An atomic in the local store, one that asks for its ticket, and one that holds it. -/
theorem witness_AtomicsComplete :
    (let s := bAt 0x2000
     Begins .no false p0 s ∧ Unstepped s ∧ s.myCore.ls.wf = true ∧ s.me.ldc < 64 ∧ LocalOk s (amAddr (amAt .sc (.g 3)) s.me) 8 0x2000 ∧
       s.released 0 0 .dev = true ∧ s.me.wait ≠ .sc (seqrOf .dev 0) true ∧
       s.pushPending 0 0 [((0, amAddr (amAt .sc (.g 3)) s.me), .loc 0x2000)] 8 = false) ∧
    (let s := bench { run0 with g := (Vector.replicate 64 0).set 1 0x2000, wait := .sc (seqrOf .dev 0) true, scNo := some 5 } id
     s.me.wait = .sc (seqrOf .dev 0) true ∧ s.me.scNo = some 5 ∧ Begins .no false p0 s ∧ LocalOk s (amAddr (amAt .sc (.g 3)) s.me) 8 0x2000 ∧
       s.released 0 0 .dev = true ∧ s.pushPending 0 0 [((0, amAddr (amAt .sc (.g 3)) s.me), .loc 0x2000)] 8 = false) ∧
    (0xFFFFFFFF : Nat) < 2 ^ etyWidth .i32 := by
  unfold Begins Unstepped LocalOk; decide +kernel

/-- An address that does not translate, one in a line that a cache bank could take, and one with a reduction copy at the proxy. -/
theorem witness_CacheControlCompletes :
    (Begins .no false p0 b0 ∧ Unstepped b0 ∧ (b0.quietLine 0 0 0x1000).toOption = some none) ∧
    (let s := { b0 with ptcfg := 5 }
     (s.quietLine 0 0 0x100000080).toOption = none) := by
  unfold Begins Unstepped; decide +kernel

theorem witness_CacheControlCompletes_lines :
    (let s := bMem run0 fun k => { k with bkmd0 := 1 }
     Begins .no false p0 s ∧ (s.quietLine 0 0 0x100000080).toOption = some (some (0x8001, page0)) ∧ page0.loc = false ∧ page0.cp = 0 ∧
       s.myCore.ways ≠ [] ∧ s.myCore.l1Find 0x8001 = none ∧ s.myCore.filling 0x8001 = false ∧ s.writePending 0 0x8001 = false ∧
       s.routeOf 0 0x8001 true ≠ s.homeOf 0x8001 ∧ s.proxyLine (s.routeOf 0 0x8001 true) 0x8001 = none ∧
       s.myCore.postedTo 0 0x8001 false = false ∧ s.flushPending 0x8001 = false) ∧
    (let s := bMem run0 fun k => { k with bkmd0 := 1, fills := [⟨none, 0x8001, 0⟩] }
     s.myCore.filling 0x8001 = true) := by
  unfold Begins; decide +kernel

theorem witness_CacheControlCompletes_waits :
    (let s := (bench run0 fun k => { k with strands := k.strands }).modStrand 0 3 fun t => { t with wait := .fetch 0x1000 9 }
     Begins .no false p0 s ∧ (s.strand 0 3).wait = .fetch 0x1000 9) ∧
    (let s := { bMem run0 id with proxies := [(pkey (proxyOf 0) 0x8001, { u := some (.add, .i32), data := 0, touched := 1, seq := 0, poison := false, stamp := 0, asid := none })] }
     s.myCore.ways = [] ∧ (s.quietLine 0 0 0x100000080).toOption = some (some (0x8001, page0)) ∧ s.myCore.postedTo 0 0x8001 false = false ∧
       (s.proxyLine (proxyOf 0) 0x8001).any (fun u => u.u.isSome) = true) := by
  unfold Begins; decide +kernel

theorem witness_CacheControlCompletes_nofetch : NoFetch b0 := by
  intro j line u h
  have : (b0.strand 0 j).wait = .no := by rcases j with _ | _ | _ | _ | j <;> rfl
  exact absurd (this.symm.trans h) (by simp)

/-- The last bank before its BMODE and while its strand waits for the change. -/
theorem witness_BmodeCompletes :
    (let s := bench run0 fun k => { k with res := false }
     Begins .no false p0 s ∧ s.myCore.tileInBank 63 = false ∧ (s.myCore.fifo 63).count = 0 ∧ (s.myCore.fifo 63).next = (s.myCore.fifo 63).serve ∧
       s.myCore.res = false) ∧
    (let s := bench { run0 with wait := .bmode 63 2 } fun k => { k with res := false }
     (s.strand 0 0).wait = .bmode 63 2 ∧ (∀ j, j < 0 → ∀ n, (s.strand 0 j).wait ≠ .bmode 63 n) ∧ (s.core 0).ls.wf = true ∧
       (∀ e ∈ (s.core 0).copies, ∀ k, e.2.copy = some k → k.inBank 0 63 = false) ∧
       (∀ e ∈ (s.core 0).l1, e.way = 63 → s.writePending 0 e.line = false) ∧
       ((s.strand 0 0).sstep && (s.strand 0 0).ie) = false) := by
  refine ⟨?_, ?_, ?_, ?_, ?_, ?_, ?_⟩
  · unfold Begins; decide +kernel
  · decide +kernel
  · intro j h; omega
  · decide +kernel
  · intro e he; exact (List.not_mem_nil he).elim
  · intro e he; exact (List.not_mem_nil he).elim
  · decide +kernel

/-- Counters at their fields and one above; paths quiet and busy; a group entry free and in use. -/
theorem witness_WaitsComplete :
    Begins .no false p0 b0 ∧ Unstepped b0 ∧ b0.me.ldc ≤ (0 : BitVec 7).toNat ∧ 64 ≤ (64 : BitVec 7).toNat ∧
    (let s := bench { run0 with ldc := 1 } id
     Begins .no false p0 s ∧ ¬ (64 ≤ (0 : BitVec 7).toNat ∨ s.me.ldc ≤ (0 : BitVec 7).toNat) ∧ s.pathQuiet 0 0 0 = false) ∧
    (∀ j, j < 7 → b0.pathQuiet 0 0 j = true) ∧ b0.forwardsDue (b0.forwarding 0 fun _ => true) = [] ∧ b0.groupCheck 0 = none ∧ (b0.myCore.group 15).draining = false ∧
    (let s := bench run0 fun k => { k with groups := [(15, { desc := 0x0001020101000000, gen := 0, drain := 1, lines := [] })] }
     (s.myCore.group 15).draining = true ∧ Begins .no false p0 s ∧ Unstepped s) := by
  unfold Begins Unstepped; decide +kernel

/-- A core whose bank 1 is a queue with some entries. -/
def bFifo (n : Nat) : State :=
  bench { run0 with g := (Vector.replicate 64 0).set 1 0x2000 } fun k =>
    { k with bkmd0 := 8, fifos := [(1, { Fifo.reset with tail := n, count := n })] }

/-- A push; pops of an empty queue and of one with an entry; a push that arrives at a queue with 126 and finds room for one. -/
theorem witness_QueuesComplete :
    (let s := bFifo 0
     Begins .no false p0 s ∧ Unstepped s ∧ decodeAddr s.me.stkb (memAddr (ldAt (.v 3)) s.me) = some (.loc 0x2000) ∧
       s.released 0 0 .dev = true ∧ s.me.rsc < 64 ∧ s.myCore.freeJent = some 0 ∧ s.myCore.changing 0x2000 1 = false ∧
       s.myCore.mode (0x2000 / 8192) = 2 ∧ (s.myCore.fifo 1).count = 0) ∧
    ((bFifo 1).myCore.fifo 1).count ≠ 0 ∧
    (let s := State.withMsg (bFifo 126) (msg0 1 0 (.qpush (.journal 1 0) 0 1 5 false))
     (s.msg? 7).isSome = true ∧ (s.core 0).dark = false ∧ (s.core 0).changing (8192 * 1) 1 = false ∧ (s.core 0).mode 1 = 2 ∧
       ((s.core 0).fifo 1).count < 127 ∧ ((s.core 0).fifo 1).next = ((s.core 0).fifo 1).serve ∧ (s.core 0).ls.wf = true) := by
  unfold Begins Unstepped; decide +kernel

/-! ### Tiles -/

/-- A tile of FP32, 4 rows and 16 columns, its local range at 0x4000 and its home at 2^32. -/
def tile0 (st : Nat) : Tile :=
  { Tile.reset with w0 := 0x100000000, w1 := 0x4000 <<< 36 ||| 2 <<< 26 ||| 16 <<< 13 ||| 4, w2 := 64 <<< 48 ||| 64, w3 := BitVec.ofNat 64 st }
def bTile (st : Nat) : State :=
  bMem { run0 with g := ((Vector.replicate 64 0).set 1 0x3000).set 2 3 } fun k => { k with tiles := [(63, tile0 st)] }

/-- An entry that is EMPTY and one that is READY, and its 24 bytes in the local store. -/
theorem witness_TilesComplete :
    (∀ st ∈ [0, 2], let s := bTile st
      let e := s.myCore.tile 63
      Begins .no false p0 s ∧ Unstepped s ∧ e.state = st ∧ s.me.tlc < 64 ∧ s.loggedTile (s.me.asid.setWidth 16) e = .ok none ∧
        (e.lines[0]?).map (·.home) = some 0x100000000 ∧ tileVa 0x100000000 = some 0x100000000 ∧ s.ptsh ≠ 0 ∧
        s.myCore.tlbFind (s.me.asid.setWidth 16) 0x100000000 = some page0 ∧ e.logDirty = false ∧ e.logged = none ∧ e.refilling = false ∧ e.fillOrder = [0, 1]) ∧
    ((bTile 0).fillCause 63 = none ∧ page0.permits (.load true) = true ∧ (bTile 0).myCore.changing 0x4000 256 = false) ∧
    ((bTile 2).myCore.tile 63).home ≠ 0 ∧ (bTile 2).tileChecks 63 ((bTile 2).myCore.tile 63) = none ∧
      page0.permits (.store true) = true ∧
    (let s := bMem { run0 with g := (Vector.replicate 64 0).set 1 0x3000 } fun k =>
      { k with ls := (k.ls.writeNum 0x3000 8 0x100000000).writeNum 0x3008 8 (0x4000 <<< 36 ||| 2 <<< 26 ||| 16 <<< 13 ||| 4) |>.writeNum 0x3010 8 (64 <<< 48 ||| 64) }
     let w := fun k => BitVec.ofNat 64 (s.myCore.ls.num (0x3000 + 8 * k) 8)
     decodeAddr s.me.stkb (s.me.src 0 (.g 1)) = some (.loc 0x3000) ∧ s.myCore.changing 0x3000 24 = false ∧
       s.myCore.notScr 0x3000 24 = none ∧ s.defineCause 63 (w 0) (w 1) (w 2) = none ∧ 0x3000 + 24 ≤ 516096) ∧
    (let s := bench run0 fun k => { k with tiles := [(63, { tile0 1 with refilling := true })] }
     (s.myCore.tile 63).refilling = true ∧ Begins .no false p0 s) ∧
    (let e := { tile0 2 with w3 := 1 <<< 22 ||| 2 }
     let s := bMem run0 fun k => { k with tiles := [(63, e)] }
     (s.loggedTile (s.me.asid.setWidth 16) e).toOption = some none ∧ e.strm = true ∧ e.state = 2 ∧ e.home ≠ 0 ∧ s.tileChecks 63 e = none) := by
  unfold Begins Unstepped
  refine ⟨?_, ?_, ?_, ?_, ?_, ?_, ?_, rfl, ?_⟩
  case refine_1 =>
    intro st h
    simp only [List.mem_cons, List.not_mem_nil, or_false] at h
    rcases h with rfl | rfl
    all_goals refine ⟨?_, ?_, ?_, ?_, rfl, ?_⟩ <;> decide +kernel
  all_goals decide +kernel

/-- The last row and the last four columns of the tile. -/
theorem witness_TileAccessesComplete :
    let s := bench { run0 with g := ((Vector.replicate 64 0).set 1 3).set 2 12 } fun k => { k with tiles := [(63, tile0 2)] }
    let e := s.myCore.tile 63
    Begins .no false noPred s ∧ Unstepped s ∧ e.loc = false ∧ e.state = 2 ∧ (s.me.src 0 (.g 1)).toNat < e.rows ∧
      (s.me.src 0 (.g 2)).toNat < e.cols ∧ e.ety = .fp32 ∧ s.myCore.ls.wf = true ∧
      ∀ i, i < 32 → s.me.active p0 32 i = true → 12 + i < e.cols →
        s.myCore.localRefusal (e.off + 3 * e.lpitch + 12 * 4 + i * 4) 4 s.me.prv = none := by
  unfold Begins Unstepped; decide +kernel

/-- A slot tile of BF16, 16 by 128, in slot 15, EMPTY; and its source in the scratchpad. -/
def bSlot (b : Option Nat) : State :=
  bench { run0 with g := (Vector.replicate 64 0).set 1 0x3000 } fun k =>
    { k with
      tiles := [(0, { tile0 2 with w1 := 0x4000 <<< 36 ||| 128 <<< 13 ||| 16, w2 := 256 <<< 48 ||| 256 }),
                (1, { tile0 0 with w1 := 15 <<< 32 ||| 1 <<< 30 ||| 128 <<< 13 ||| 16, w2 := 256 })]
      slots := [(15, { Slot.reset with bound := b })] }

/-- A slot that is free, bound to the entry, and bound to another; a ring of the last two entries; a stream to end. -/
theorem witness_SlotsAndStreamsComplete :
    (∀ b ∈ [none, some 1, some 2], let s := bSlot b
      Begins .no false p0 s ∧ Unstepped s ∧ (s.myCore.tile 1).state = 0 ∧ (s.myCore.tile 1).loc = true ∧
        (s.myCore.tile 1).slotNo = 15 ∧ (s.myCore.slot 15).bound = b ∧ s.myCore.slotWait = [] ∧ (s.myCore.tile 1).refilling = false ∧
        (s.myCore.tile 0).state = 2 ∧ (s.myCore.tile 0).loc = false ∧ (s.myCore.tile 0).ety = (s.myCore.tile 1).ety ∧
        (s.myCore.tile 0).rows = (s.myCore.tile 1).rows ∧ (s.myCore.tile 0).cols = (s.myCore.tile 1).cols ∧ s.me.tlc < 64 ∧
        (s.myCore.tile 1).logged = none ∧ s.myCore.mxq = []) ∧
    (let s := bench { run0 with g := (Vector.replicate 64 0).set 1 0x3000 } fun k => { k with ls := k.ls.writeNum 0x3000 4 5, tiles := [(62, tile0 0), (63, tile0 0)] }
     (62 : Fin 64).val + (1 : Fin 16).val + 1 ≤ 64 ∧ SMap.get? s.myCore.streams 3 = none ∧
       s.myCore.shapePlace s.me.stkb (s.me.src 0 (.g 1)) s.me.prv = .ok 0x3000 ∧ (s.myCore.shapeAt 0x3000).2 = false ∧
       (∀ d ∈ (s.myCore.shapeAt 0x3000).1.dims, d.2.2 = 0) ∧
       ∀ j, j ≤ 1 → let g := s.myCore.tile (62 + j)
         g.state = 0 ∧ g.refilling = false ∧ g.rows ≠ 0 ∧ g.cols ≠ 0 ∧ g = s.myCore.tile 62) ∧
    (∀ e ∈ [true, false],
      let s := bench run0 fun k => { k with streams := [(3, { tf := 0, rn := 2, base := 0, shape := { esz := 1, dims := [] }, next := 0, origin := 0, priv := false, asid := 0, ending := e, pushing := e })] }
      (SMap.get? s.myCore.streams 3).map (·.ending) = some e) ∧
    (let s := bench run0 fun k => { k with tiles := [(63, { tile0 1 with job := .ofill 0x4000 64 16 256 false 3 })] }
     (s.tile 0 63).job = .ofill 0x4000 64 16 256 false 3 ∧ 16 * 256 ≤ 4096) := by
  unfold Begins Unstepped
  refine ⟨?_, ⟨by decide, ?_, rfl, ?_, ?_, fun j h => ?_⟩, ?_, ?_⟩
  case refine_5 =>
    obtain rfl | rfl : j = 0 ∨ j = 1 := by omega
    all_goals decide +kernel
  all_goals decide +kernel

/-! ### Homes and proxies: line 5 of the page table, whose home is slice 0 -/

def hl0 : HomeLine :=
  { st := some .S, data := 0, v := 0, up := none, poison := false, seq := 1, logPend := none, asid := none, busy := .no, ops := [], stamp := 0 }
def req0 (op : MemOp) (px : Option Nat) : MemReq := { MemReq.plain op 5 (.strand 0 0) (some 0) with px }
def bHome (h : HomeLine) (m : Msg) : State := State.withMsg { State.reset with booted := true, ptcfg := 5, home := [(5, h)] } m

/-- Each kind of request at a quiet line without copies, and a write to a line with a copy in its layer and another's. -/
theorem witness_HomesComplete :
    (∀ op ∈ [MemOp.read, .write, .amo ⟨.add, .i32, 1, 0⟩, .red ⟨.add, .i32, 1, 0⟩, .grant .add .i32, .lock 0, .entry 0 ⟨0, 0, .add, 1⟩],
      ∀ px ∈ [none, some 100],
        let s := bHome hl0 (msg0 0 (epSlice 0) (.mem (req0 op px)))
        HomeTakes s 7 (msg0 0 (epSlice 0) (.mem (req0 op px))) (req0 op px) ∧ HomeQuiet s 5 hl0 ∧ hl0.logPend = none ∧ hl0.v = 0 ∧
          hl0.st ≠ some .L) ∧
    (let h := { hl0 with v := 0x8001 }
     let s := bHome h (msg0 0 (epSlice 0) (.mem (req0 .write none)))
     HomeTakes s 7 (msg0 0 (epSlice 0) (.mem (req0 .write none))) (req0 .write none) ∧ HomeQuiet s 5 h ∧ h.v ≠ 0 ∧
       s.layerSlices h.v ≠ []) := by
  unfold HomeTakes HomeQuiet; decide +kernel

def hop0 : HomeOp := { req := { req0 .read none with asid := none }, src := 0, tag := 3 }

/-- A read and a write that have arrived at the line's HBM controller. -/
theorem witness_HomesComplete_hbm :
    ∀ b ∈ [Body.hbmRd 5, .hbmWr 5 9 2 false],
      let m := msg0 (epSlice 0) (epHbm 0) b
      let s := bHome hl0 m
      (s.deliver 7).msg? 7 = some m ∧ 12288 ≤ m.dest ∧ m.dest ≠ epHost ∧ (s.deliver 7).env = [] ∧ (s.deliver 7).hbm.wf = true := by
  decide +kernel

/-- Slice 50's reduction copy with one element touched. -/
def part50 : UPart := { sl := 50, touched := 1, part := 4, poison := false, asid := none }

/-- A fill with a read waiting; a victim's write-back; acknowledgements with two and one outstanding, and of a recall; a recall whose
copy is in; a flush that comes by itself. -/
theorem witness_HomesComplete_steps :
    (let b := msg0 (epHbm 0) (epSlice 0) (.hbmData 5 9 4 false)
     let s := bHome { hl0 with st := none, busy := .fill, ops := [hop0] } b
     (s.homeLine 5).busy = .fill ∧ (s.homeLine 5).ops = [hop0] ∧ hop0.req.op = .read ∧ hop0.req.line = 5 ∧ hop0.req.px = none ∧
       hop0.req.asid = none ∧ hop0.tag ≠ 256 ∧ s.hbmAnswer 5 = some b ∧ (s.setMates 5).length < 12 ∧ (s.lineMeta 5).logPend = none ∧
       s.env = []) ∧
    (let b := msg0 (epHbm 0) (epSlice 0) (.hbmWrote 5)
     let s := bHome { hl0 with st := some .M, busy := .wb } b
     (s.homeLine 5).busy = .wb ∧ (s.homeLine 5).ops = [] ∧ (s.homeLine 5).st = some .M ∧ (s.homeLine 5).asid = none ∧
       s.inbox.find? (fun m => m.body == .hbmWrote 5) = some b) ∧
    (∀ b ∈ [HBusy.inval 2 [msg0 5 0 (.ok 0)], .inval 1 [msg0 5 0 (.ok 0)], .recall 1 []],
      let s := bHome { hl0 with busy := b } (msg0 (epSlice 50) (epSlice 0) (.ack 5 { part50 with touched := 0, part := 0 }))
      s.msg? 7 = some (msg0 (epSlice 50) (epSlice 0) (.ack 5 { part50 with touched := 0, part := 0 })) ∧ (s.homeLine 5).busy = b ∧ (s.homeLine 5).ops = [] ∧
        (s.homeLine 5).st.isSome = true ∧ (msg0 5 0 (.ok 0)).tag ≠ 256) ∧
    (let s := bHome { hl0 with busy := .recall 0 [part50], up := some (.add, .i32) } (msg0 0 0 (.ok 0))
     s.flying 5 = [] ∧ (s.homeLine 5).busy = .recall 0 [part50] ∧ (1 : BitVec 32) ≠ 0 ∧
       (s.homeLine 5).up = some (.add, .i32) ∧ (s.homeLine 5).ops = [] ∧ (s.homeLine 5).st.isSome = true) ∧
    (let m := msg0 (epSlice 50) (epSlice 0) (.mem (req0 (.flush (.add, .i32) part50) none))
     let s := bHome hl0 m
     s.msg? 7 = some m ∧ m.cancel = false ∧ s.homeOf 5 < 768 ∧ m.dest = epSlice (s.homeOf 5) ∧ (s.homeLine 5).st.isSome = true ∧
       (s.homeLine 5).busy ≠ .fill ∧ s.env = []) := by
  decide +kernel

/-- Slice 50's view of line 5, with a copy or without. -/
def bProxy (p : Option ProxyLine) (q : Option ProxyReq) (m : Msg) : State :=
  State.withMsg
    { State.reset with
      booted := true, ptcfg := 5
      proxies := (match p with | some p => [(pkey 50 5, p)] | none => [])
      preqs := (match q with | some q => [(pkey 50 5, q)] | none => []) } m
def pl0 (u : Option (AmoOp × ETy)) : ProxyLine := { u, data := 9, touched := 1, seq := 1, poison := false, stamp := 0, asid := none }

/-- Each kind of request with no copy, a shared copy and a reduction copy; the home's answers, also for a line called back; an
invalidation and a recall. -/
theorem witness_ProxiesComplete :
    (∀ op ∈ [MemOp.read, .write, .amo ⟨.add, .i32, 1, 0⟩, .red ⟨.add, .i32, 1, 0⟩],
      ∀ p ∈ [none, some (pl0 none), some (pl0 (some (.add, .i32)))],
        let m := msg0 0 (epSlice 50) (.mem (req0 op none))
        let s := bProxy p none m
        ProxyTakes s 7 m (req0 op none) 50 ∧ s.proxyLine 50 5 = p ∧ SMap.get? s.preqs (pkey 50 5) = none) ∧
    (∀ e ∈ [(MemOp.read, 1), (.grant .add .i32, 2)], ∀ marked ∈ [true, false],
      let w := msg0 0 (epSlice 50) (.mem (req0 (if e.2 = 1 then .read else .red ⟨.add, .i32, 1, 0⟩) none))
      let m := msg0 (epSlice 0) (epSlice 50) (.ans (.proxy 50) e.2 1 false (some 9) (req0 e.1 (some 50)))
      let q : ProxyReq := { grant := if e.2 = 1 then none else some (.add, .i32), marked, waiting := [w] }
      let s := bProxy none (some q) m
      s.msg? 7 = some m ∧ SMap.get? s.preqs (pkey 50 5) = some q ∧ (s.proxySet 50 5).length < 4 ∧ s.env = [] ∧
        ((s.proxySet 50 5).filter fun e => e.2.u.isSome).length < 2) ∧
    (∀ b ∈ [Body.inval 5, .recall 5], ∀ p ∈ [none, some (pl0 none), some (pl0 (some (.add, .i32)))],
      let m := msg0 (epSlice 0) (epSlice 50) b
      let s := bProxy p none m
      s.msg? 7 = some m ∧ m.dest = epSlice 50 ∧ s.env = [] ∧ s.proxyLine 50 5 = p) ∧
    (let q : ProxyReq := { grant := none, marked := false, waiting := [] }
     SMap.get? (bProxy none (some q) (msg0 (epSlice 0) (epSlice 50) (.inval 5))).preqs (pkey 50 5) = some q) := by
  unfold ProxyTakes; decide +kernel

/-! ### Logs -/

/-- A logged tensor of one tile of 2 by 32 I32 elements, at physical 0x400000, id 3. -/
def tensor0 (st : TensorSt) : Tensor :=
  { desc := #v[0x100000000, 0, 1 <<< 48 ||| 1 <<< 32 ||| 32 <<< 16 ||| 2, 5 <<< 44 ||| 128, 64, 0, 0, 0]
    pbase := 0x400000, asid := 0, svc := 0, priv := false, core := 0, st, failed := false }
def rec0 : Nat := 3 * 2 ^ 24
def bLog (t : Strand) (st : TensorSt) (x : LogRec) : State :=
  { bMem t id with tensors := [(3, tensor0 st)], logs := [(rec0, x)] }

def ent0 : LogEntry := ⟨0, 0, .add, 1⟩

/-- A tile update that names the tile's last element, and lanes with no entry. -/
theorem witness_LogInstructionsComplete :
    let s := bLog { run0 with g := ((Vector.replicate 64 0).set 1 3).set 2 63 } .active .reset
    let d := s.tensor (bits (s.me.src 0 (.g 1)) 0 8)
    Unstepped s ∧ Begins .no false p0 s ∧ d.st = .active ∧ d.asid = s.me.asid.setWidth 16 ∧ bits (s.me.src 0 (.g 1)) 32 32 = 0 ∧
      bits (s.me.src 0 (.g 1)) 8 24 < d.ntr * d.ntc ∧ (s.me.src 0 (.g 2)).toNat < d.tr * d.tc ∧ s.me.rsc < 64 ∧
      s.myCore.freeJent = some 0 ∧ rec0 = bits (s.me.src 0 (.g 1)) 0 8 * 2 ^ 24 + bits (s.me.src 0 (.g 1)) 8 24 ∧
      (s.tileNamed (s.me.src 0 (.g 1)) 0).toOption = some rec0 ∧ s.me.wait = .no ∧
      ((List.range 32).filter (s.me.active ⟨1, false⟩ 32)) = [] := by
  unfold Begins Unstepped; decide +kernel

/-- A TLOG sync that has its answer, with nothing and with something in the log of the core's entry. -/
theorem witness_LogInstructionsComplete_sync :
    ∀ q ∈ [[], [ent0]],
      let s := bench { run0 with wait := .sync (.g 3) rec0 5 } fun k => { k with tiles := [(63, { Tile.reset with w3 := 1, logged := some (3, 0), log := q })] }
      Begins .no false p0 s ∧ Unstepped s ∧ s.me.wait = .sync (.g 3) rec0 5 ∧ s.myCore.unapplied rec0 = !q.isEmpty := by
  unfold Begins Unstepped; decide +kernel

/-- Each form at the log home: of a record resident at the asking core with and without entries before it, and of one that is not. -/
theorem witness_LogInstructionsComplete_tlog :
    ∀ f ∈ [TlogForm.query, .compact, .sync], ∀ x ∈ [LogRec.reset, { LogRec.reset with st := .res 0 63 },
        { LogRec.reset with st := .res 0 63, lseq := 1, fwdOut := [(0x8000, 1)] }],
      let m := msg0 0 (epSlice ((bLog run0 .active x).logHome rec0)) (.tlog 0 0 rec0 f)
      let s := State.withMsg (bLog run0 .active x) m
      let u := s.deliver 7
      u.msg? 7 = some m ∧ 12288 ≤ m.dest ∧ m.dest ≠ epHost ∧ m.cancel = false ∧ u.logRec rec0 = x ∧ x.placing = false ∧ x.ending = false ∧
        x.st ≠ .spillWait ∧ x.spill = 0 ∧ (compactLog (u.recFmt rec0) x.entries).length ≤ 64 ∧ (x.fwdOut ≠ [] → x.synced x.lseq = false) := by
  decide +kernel

/-- A declaration: an instruction that finds its descriptor. -/
theorem witness_LogInstructionsComplete_logt :
    let s := bMem { run0 with g := (Vector.replicate 64 0).set 1 0x3000 } fun k =>
      { k with ls := (((k.ls.writeNum 0x3000 8 0x100000000).writeNum 0x3010 8 (1 <<< 48 ||| 1 <<< 32 ||| 32 <<< 16 ||| 2)).writeNum
                        0x3018 8 (5 <<< 44 ||| 128)).writeNum 0x3020 8 64 }
    let desc : Vector W64 8 := Vector.ofFn fun i => BitVec.ofNat 64 (s.myCore.ls.num (0x3000 + 8 * i.val) 8)
    let n : Tensor := { desc, pbase := 0, asid := 0, svc := s.me.svcXyz, priv := s.me.prv, core := s.cur.1, st := .active
                        failed := false }
    Begins .no false p0 s ∧ decodeAddr s.me.stkb (s.me.src 0 (.g 1)) = some (.loc 0x3000) ∧ s.myCore.changing 0x3000 64 = false ∧
      s.myCore.mode (0x3000 / 8192) = 0 ∧ s.myCore.reserved 0x3000 64 s.me.prv = false ∧ n.illFormed = false ∧
      s.overlapsTensor 0 n = false ∧ (tileVa n.base).isSome = true ∧ s.ptsh ≠ 0 ∧
      n.cap = 64 ∧ s.myCore.tlbFind 0 n.base = some page0 ∧ page0.permits ⟨false, false, false, true⟩ = true ∧
      page0.rd = true ∧ page0.wr = true ∧ s.me.prv = true ∧
      n.base / 2 ^ pageShift page0.sz = (n.base + n.size - 1) / 2 ^ pageShift page0.sz := by
  unfold Begins; decide +kernel

/-- Declarations at the sequencer: a free id, none, and an overlap; and a retire whose logs are quiet. -/
theorem witness_LogInstructionsComplete_requests :
    (let m := msg0 0 epDevSeqr (.logt 0 0 (tensor0 .active))
     let s := State.withMsg b0 m
     let mine := fun (m : Msg) => m.dest == epDevSeqr &&
       (match m.body with | .logt _ _ _ => true | .logtRet _ _ id => s.tensorQuiet id | _ => false)
     s.inbox.find? mine = some m ∧ s.overlapsTensor 0 (tensor0 .active) = false ∧ s.freeTensorId = some 0 ∧
       (bLog run0 .active .reset).overlapsTensor 0 (tensor0 .active) = true) ∧
    { b0 with tensors := (List.range 256).map fun i => (i, { tensor0 .active with asid := 1 }) }.freeTensorId = none ∧
    (let m := msg0 0 epDevSeqr (.logtRet 0 0 3)
     let s := State.withMsg (bLog run0 .retiring .reset) m
     s.tensorQuiet 3 = true ∧ s.inbox = [m]) := by
  decide +kernel

/-- Retirements: of a tensor with a record in LOG and of a FAILED one. -/
theorem witness_LogInstructionsComplete_retire :
    ∀ st ∈ [TensorSt.active, .failed],
      let x := { LogRec.reset with st := .log }
      let s := bLog { run0 with g := (Vector.replicate 64 0).set 1 3 } st x
      Begins .no false p0 s ∧ bits (s.me.src 0 (.g 1)) 0 8 = 3 ∧ bits (s.me.src 0 (.g 1)) 8 56 = 0 ∧
        (s.tensor 3).asid = s.me.asid.setWidth 16 ∧ (s.tensor 3).st = st ∧ (rec0, x) ∈ s.logs ∧ recTensor rec0 = 3 ∧ x.placing = false := by
  unfold Begins; decide +kernel

/-- The answers of the sequencer and of a log home. -/
theorem witness_LogInstructionsComplete_answers :
    ∀ e ∈ [(Body.logtAns 0 0 (some 7), Wait.logt (.g 3)), (.logtAns 0 0 none, .logtRet 3), (.tlogAns 0 0 9, .tlog (.g 3) rec0 .query),
        (.tlogAns 0 0 9, .tlog (.g 3) rec0 .sync)],
      let m := msg0 epDevSeqr 0 e.1
      let s := State.withMsg (bench { run0 with wait := e.2 } id) m
      let u := s.deliver 7
      u.msg? 7 = some m ∧ (u.core 0).dark = false ∧ m.poison = false ∧ ((u.strand 0 0).sstep && (u.strand 0 0).ie) = false ∧
        (u.strand 0 0).wait = e.2 ∧ (u.core 0).unapplied rec0 = false := by
  decide +kernel

def bLogMsg (st : TensorSt) (x : LogRec) (h : HomeLine) (b : Body) : State :=
  State.withMsg { bLog run0 st x with home := [(0x8000, h)] } (msg0 0 (epSlice ((bLog run0 st x).logHome rec0)) b)

/-- The states of the record that the clauses name, each with its message. -/
theorem witness_LogHomesComplete :
    (let s := bLogMsg .active { LogRec.reset with st := .log } hl0 (.logUpd (.journal 0 0) rec0 [ent0])
     let x := s.logRec rec0
     (s.msg? 7).isSome = true ∧ (s.tensor (recTensor rec0)).st = .active ∧ x.st = .log ∧ x.marks = 0 ∧ x.fwdQ = [] ∧ x.next = x.serve ∧
       x.spill = 0 ∧ x.placing = false ∧ x.ending = false ∧
       x.fwdOut = [] ∧ x.firstAck = [] ∧ x.forwards (s.recLine rec0 0) = false ∧ x.entries.length + 1 < 3 * 64 / 4 ∧ s.onChip (epSlice 0 - 12288) + 1 ≤ 4096) ∧
    ((bLogMsg .failed .reset hl0 (.ok 0)).tensor (recTensor rec0)).st ≠ .active ∧
    (let s := bLogMsg .active { LogRec.reset with st := .log, entries := [ent0, { ent0 with elem := 32 }] } hl0 (.pull 0x8000 rec0)
     let x := s.logRec rec0
     x.st = .log ∧ x.placing = false ∧ x.ending = false ∧ x.spill = 0 ∧ (x.entries.filter fun e => s.recLine rec0 e.elem == 0x8000).length ≤ 28 ∧
       s.recLine rec0 0 = 0x8000 ∧ (x.entries.filter fun e => s.recLine rec0 e.elem != 0x8000) ≠ [] ∧ x.entries.length ≤ 64) ∧
    ((bLogMsg .active .reset hl0 (.pull 0x8000 rec0)).logRec rec0).st = .idle := by
  decide +kernel

/-- Answers to a PULL: the last, empty and with an entry, and one that another follows. -/
theorem witness_LogHomesComplete_pulled :
    ∀ e ∈ [([], true), ([], false), ([ent0], false)],
      let s := bLogMsg .active .reset { hl0 with busy := .pull, logPend := some rec0 } (.pullAns 0x8000 rec0 e.1 e.2 false)
      (s.msg? 7).isSome = true ∧ (s.homeLine 0x8000).busy = .pull ∧ (s.homeLine 0x8000).ops = [] ∧ (s.homeLine 0x8000).st.isSome = true ∧
        (s.homeLine 0x8000).logPend = some rec0 := by
  decide +kernel

theorem witness_LogHomesComplete_residency :
    (let s := bLogMsg .active .reset hl0 (.open_ rec0 0 63)
     let x := s.logRec rec0
     (s.tensor (recTensor rec0)).st ≠ .free ∧ (s.tensor (recTensor rec0)).failed = false ∧ (s.core 0).dark = false ∧ x.placing = false ∧
       x.st = .idle ∧ x.fwdOut = [] ∧ x.fwdQ = [] ∧ x.marks = 0 ∧ x.clears = 0 ∧
       (s.recsOf (s.logHome rec0)).length < 512 ∧ x.openNext = x.openServe) ∧
    (let s := bLogMsg .active { LogRec.reset with st := .res 0 63 } hl0 (.close rec0 0 0 1 [])
     let x := s.logRec rec0
     x.st = .res 0 63 ∧ x.ending = false ∧ x.closing = [] ∧ x.spill = 0 ∧ x.hold = [] ∧ s.transit.any (·.body.fwdOf rec0) = false ∧
       s.inbox.any (·.body.fwdOf rec0) = false ∧ s.held.any (·.msg.body.fwdOf rec0) = false ∧ x.fwdQ = [] ∧ x.entries = []) ∧
    (let s := bLogMsg .active { LogRec.reset with st := .log, entries := [ent0], fwdOut := [(0x8000, 1)] } hl0 (.fwdAck rec0 0x8000)
     (s.logRec rec0).fwdOut = [(0x8000, 1)] ∧ (s.logRec rec0).firstAck = [] ∧ (s.logRec rec0).syncs = [] ∧ (s.logRec rec0).ending = false) ∧
    (let b := msg0 0 (epSlice 0) (.logUpd (.journal 0 0) rec0 [ent0])
     let s := bLogMsg .active { LogRec.reset with st := .log, entries := [ent0], marks := 1, firstAck := [(b, 1)] } hl0 (.logMarkAck rec0 0x8000)
     (s.logRec rec0).marks = 1 ∧ (s.logRec rec0).firstAck = [(b, 1)] ∧ (s.logRec rec0).st = .log ∧ (s.logRec rec0).entries ≠ [] ∧
       (s.logRec rec0).fwdOut = [] ∧ (s.logRec rec0).fwdQ = []) ∧
    1 < ((bLogMsg .active { LogRec.reset with marks := 2 } hl0 (.logMarkAck rec0 0x8000)).logRec rec0).marks := by
  decide +kernel

/-- A forwarded entry for a READY and for a FILLING entry; a line that is unlocked; the storer before and after its writes. -/
theorem witness_LogHomesComplete_storer :
    (∀ st ∈ [1, 2],
      let s := State.withMsg { bLog run0 .active { LogRec.reset with st := .res 0 63 } with
          cores := [(0, { Core.reset with tiles := [(63, { tile0 st with logged := some (3, 0) })] })] }
        (msg0 (epSlice 0) 0 (.fwd rec0 0 63 ent0))
      let y := s.tile 0 63
      (s.msg? 7).isSome = true ∧ y.logged.map recOf = some rec0 ∧ y.job = .none ∧ y.next = y.serve ∧ y.state = st ∧ y.log.length < 23) ∧
    (let q := { MemReq.plain (.unlock rec0 1) 0x8000 (.storer rec0) none with data := 5 }
     let m := msg0 0 (epSlice 0) (.mem q)
     let s := { bLogMsg .active .reset { hl0 with busy := .locked rec0 } (.ok 0) with inbox := [m] }
     s.msg? 7 = some m ∧ s.homeOf 0x8000 < 768 ∧ (s.homeLine 0x8000).busy = .locked rec0 ∧ (s.homeLine 0x8000).ops = []) ∧
    (let s := bLogMsg .active { LogRec.reset with st := .force, entries := [ent0], wrote := true, writes := 1 } hl0
       (.ans (.storer rec0) 0 1 false none (req0 .read none))
     let mine := fun (b : Msg) => match b.body with | .ans (.storer k) _ _ _ _ _ => k == rec0 | _ => false
     rec0 < 2 ^ 32 ∧ (s.logRec rec0).st = .force ∧ (s.logRec rec0).closing = [] ∧ (s.logRec rec0).wrote = true ∧
       (s.logRec rec0).writes ≤ (s.inbox.filter mine).length) ∧
    (let s := { bLog run0 .active { LogRec.reset with st := .force, entries := [ent0] } with
        home := [(0x8000, { hl0 with busy := .locked rec0 }), (0x8001, { hl0 with busy := .locked rec0 })]
        inbox := [msg0 (epSlice 0) 0 (.lockAns rec0 0x8000 (some 0)), msg0 (epSlice 0) 0 (.lockAns rec0 0x8001 (some 0))] }
     (s.logRec rec0).wrote = false ∧ (s.logRec rec0).spill = 0 ∧ (s.lockAnswers rec0).length = (s.recLines rec0).length) := by
  decide +kernel

/-! ### Copies and engines -/

/-- A shape record at 0x3000: `n` elements of 4 bytes in a row. -/
def shapeLs (n : Nat) : Memory := Memory.writeNum [] 0x3000 16 (n + 4 * 2 ^ 32 + 4 * 2 ^ 76 + 2 * 2 ^ 120)
/-- g1 the source, g2 the destination, g3 the shape; the group entry 15 a box of cores 0 and 1, of a kind. -/
def bCopy (src dst : W64) (n gk : Nat) : State :=
  bMem { run0 with g := (((Vector.replicate 64 0).set 1 src).set 2 dst).set 3 0x3000 } fun k =>
    { k with ls := shapeLs n, groups := [(15, { desc := 0x0000010102000000 ||| BitVec.ofNat 64 (gk * 2 ^ 48), gen := 0, drain := 0, lines := [] })] }

/-- Each kind of copy with its places, of no element and of one; records that are DONE and ACTIVE. -/
theorem witness_CopiesComplete :
    (∀ m ∈ [(0, (0x100000080 : W64), (0x2000 : W64), 0), (1, 0x2000, 0x100000080, 0), (2, 0x2000, 0xFE00000000080000, 0),
        (5, 0x2000, 0x4000, 1), (6, 0x2000, 0xFE00000000080000, 2)], ∀ n ∈ [0, 1],
      let s := bCopy m.2.1 m.2.2.1 n m.2.2.2
      let h := (s.myCore.shapeAt 0x3000).1
      Begins .no false p0 s ∧ Unstepped s ∧ (s.myCore.copyId 63).copy = none ∧ s.me.cpc < 64 ∧
        (m.1 = 5 → s.myCore.grpWaits 15 = false ∧ bits (s.myCore.group 15).desc 48 3 = 1) ∧ (s.myCore.shapeAt 0x3000).2 = false ∧
        s.myCore.changing 0x3000 256 = false ∧ s.copyStalls m.1 h m.2.1 m.2.2.1 = false ∧ s.copyChecks m.1 (if m.1 = 5 then (s.myCore.group 15).desc else 0) h m.2.1 m.2.2.1 = none ∧
        h.count = n) ∧
    ((bCopy 0 0 1 0).myCore.shapePlace 0 0x3000 true).toOption = some 0x3000 ∧
    (∀ g ∈ [0, 1], (bCopy 0 0 1 g).myCore.tlbFind 0 0x100000080 = some page0 ∧ (bCopy 0 0 1 g).ptsh ≠ 0) ∧
    page0.permits (.load true) = true ∧ page0.permits (.store true) = true ∧
    decodeAddr 0 0x100000080 = some (.glob 0x100000080) ∧ pageAddr page0 0x100000080 = 0x400080 ∧
    decodeAddr 0 0xFE00000000080000 = some (.win 1 0) ∧ decodeAddr 0 0x4000 = some (.loc 0x4000) ∧
    2 ≤ bits (2 : W64) 0 2 ∧ bits (1 : W64) 0 2 < 2 := by
  unfold Begins Unstepped
  decide +kernel

def copy0 (kind out : Nat) : Copy :=
  { kind, strand := 3, priv := true, asid := 0, stkb := 0, pc := 0, src := 0x2000, dst := 0, shape := { esz := 4, dims := [(1, 4, 4)] }
    elem := 0, out, box := 0, grp := 0, midx := 0, walking := false, stopped := false, killed := false, failed := none, acked := false, old := [] }
def stream0 : Stream :=
  { tf := 63, rn := 1, base := 0x100000000, shape := { esz := 1, dims := [(1, 0, 0)] }, next := 0, origin := 3, priv := true, asid := 0
    ending := false, pushing := false }
def bTiles (st : Nat) (job : TileJob) : State :=
  bMem run0 fun k => { k with tiles := [(63, { tile0 st with job })], streams := [(3, stream0)] }

/-- A copy's data for a place that takes them and for one that does not; the last acknowledgement; a contribution in its order, early,
and with a MIDX that is not its sender's. -/
theorem witness_EnginesComplete :
    (let m := msg0 1 0 (.copyWr (.copy 1 0) 0 0x2000 1 0xFF)
     let s := State.withMsg b0 m
     s.msg? 7 = some m ∧ (s.core 0).ls.wf = true ∧ s.imaging 0 = false ∧ s.copyRefusal 0 0x2000 1 (s.copyPrv (.copy 1 0)) = 0) ∧
    (let s := bench run0 fun k => { k with bkmd0 := 8 }
     s.copyRefusal 0 0x2000 1 false ≠ 0) ∧
    (let m := msg0 1 0 (.copyAck (.copy 0 63) none 0 0)
     let s := State.withMsg (bench run0 fun k => { k with copies := [(63, { CopyId.reset with w0 := 1, copy := some (copy0 2 1) })] }) m
     s.msg? 7 = some m ∧ ((s.core 0).copyId 63).copy = some (copy0 2 1) ∧ (copy0 2 1).elem + 1 = (copy0 2 1).shape.count ∧
       (copy0 2 1).stopped = false ∧ (copy0 2 1).killed = false ∧ (copy0 2 1).failed = none ∧
       ∀ i, i < 4 → (s.strand 0 i).wait = .no) ∧
    (∀ at_ ∈ [0, 1],
      let m := msg0 0 0 (.redc (.copy 0 1) 0 15 0 0x2000 0xF 5)
      let s := State.withMsg
        (bench run0 fun k => { k with groups := [(15, { desc := 0x0002010102000000, gen := 0, drain := 0, lines := [(0x2000 / 128, at_)] })] }) m
      let g := (s.core 0).group 15
      s.msg? 7 = some m ∧ bits g.desc 48 3 = 2 ∧ memberIx g.desc 0 = some 0 ∧ SMap.getD g.lines (0x2000 / 128) 0 = at_ ∧
        s.copyRefusal 0 (0x2000 / 128 * 128) 0xF (s.copyPrv (.copy 0 1)) = 0 ∧ (s.core 0).ls.wf = true ∧
        0 + 1 < (boxMembers g.desc).length) := by
  decide +kernel

/-- The last line of a fill on its arrival, with a header. -/
def fillLine (hdr : W64) : State :=
  State.withMsg (bTiles 1 (.fill [1] 1 none 3 true)) { msg0 0 0 (.fillData 0 63 1 0xFF 9) with hdr }

/-- A line that a fill's reader has read; the fill's last line, with its sequence and with another. -/
theorem witness_EnginesComplete_tiles :
    (let m := msg0 (epSlice 0) 0 (.ans (.tile 0 63 0 1) 0 1 false (some 9) (req0 .read none))
     let s := State.withMsg (bTiles 1 (.fill [1] 1 none 3 true)) m
     s.msg? 7 = some m ∧ (s.tile 0 63).job = .fill [1] 1 none 3 true ∧ ((s.tile 0 63).lines[1]?).map (·.scale) = some false) ∧
    (let e := (fillLine 0).tile 0 63
     ((fillLine 0).msg? 7).isSome = true ∧ e.fseq = 0 ∧ e.job = .fill [1] 1 none 3 true ∧ (e.lines[1]?).isSome = true ∧
       e.loc = false ∧ e.residue = false ∧ e.logged = none) ∧
    bits (0 : W64) 52 12 = 0 ∧ bits (0x0050000000000000 : W64) 52 12 ≠ 0 := by
  decide +kernel

/-- An opening; a drain. -/
theorem witness_EnginesComplete_opening :
    (let m := msg0 (epSlice 0) 0 (.openAns rec0 0 63)
     let s := State.withMsg (bTiles 1 (.opening none 3 true)) m
     let e := s.tile 0 63
     s.msg? 7 = some m ∧ e.job = .opening none 3 true ∧ e.fillOrder = [0, 1] ∧ (e.lines[0]?).map (·.home) = some 0x100000000 ∧
       tileVa 0x100000000 = some 0x100000000 ∧ s.ptsh ≠ 0 ∧ (s.core 0).tlbFind e.asid 0x100000000 = some page0) ∧
    page0.permits (.load true) = true ∧
    (let s := bTiles 3 (.drain [] 0 true 3 true)
     (s.tile 0 63).job = .drain [] 0 true 3 true ∧ (s.tile 0 63).logged = none) := by
  decide +kernel

/-- A line of a ring entry that drains, at the storer of its home. -/
theorem witness_EnginesComplete_ring :
    let m := msg0 0 (epHbm 0) (.fillData 0 63 1 0xFF 9)
    let s := State.withMsg (bTiles 3 (.drain [1] 1 true 3 true)) m
    let e := s.tile 0 63
    s.msg? 7 = some m ∧ 12288 ≤ m.dest ∧ e.job = .drain [1] 1 true 3 true ∧ (e.lines[1]?).map (·.home) = some 0x100000080 ∧
      tileVa 0x100000080 = some 0x100000080 ∧ s.ptsh ≠ 0 ∧ (s.core 0).tlbFind e.asid 0x100000080 = some page0 ∧
      page0.permits (.store true) = true := by
  decide +kernel

/-- A push. -/
theorem witness_EnginesComplete_push :
    (let s := bTiles 0 .none
     let e := { s.tile 0 63 with w0 := stream0.shape.src stream0.base stream0.next &&& 0xFFFFFFFFFFFFFF }
     SMap.get? (s.core 0).streams 3 = some stream0 ∧ (s.core 0).preempt = none ∧ s.imaging 0 = false ∧ stream0.pushing = false ∧ stream0.ending = false ∧
       stream0.next < stream0.shape.count ∧ (s.tile 0 63).state = 0 ∧
       s.pushCause 0 e stream0 (stream0.shape.src stream0.base stream0.next) = none ∧ e.fillOrder = [0, 1] ∧
       (s.loggedTile stream0.asid e).toOption = some none ∧
       (e.lines[0]?).map (·.home) = some 0x100000000 ∧ (s.core 0).tlbFind stream0.asid 0x100000000 = some page0 ∧
       page0.permits (.load stream0.priv) = true) := by
  decide +kernel

/-- A GRPSET whose entry drains and whose entry has drained; and the sequencers. -/
theorem witness_EnginesComplete_sequencers :
    (∀ n ∈ [0, 1],
      let s := bench { run0 with wait := .grpset 15 0 } fun k => { k with groups := [(15, { desc := 0x0001010102000000, gen := 0, drain := n, lines := [] })] }
      (s.strand 0 0).wait = .grpset 15 0 ∧ ((s.core 0).group 15).draining = decide (n = 1) ∧ (s.core 0).res = true ∧
        ((s.strand 0 0).sstep && (s.strand 0 0).ie) = false ∧ ∀ j, j < 4 → j ≠ 0 → (s.strand 0 j).wait = .no) ∧
    (let s := { bench { run0 with wait := .sc 2048 false } (fun k => { k with scq := [(0, 0)] }) with
        devSeqr := { queue := [⟨0, 0, 1⟩], holder := none, gone := [] }
        cluSeqrs := [(0, { intake := [(0, 1)], queue := [(0, 0)], holder := none })] }
     s.devSeqr.holder = none ∧ s.devSeqr.queue = [⟨0, 0, 1⟩] ∧ (s.core 0).scq = [(0, 0)] ∧ (s.strand 0 0).wait = .sc (2048 + 0) false ∧
       (SMap.getD s.cluSeqrs 0 .reset).intake = [(0, 1)] ∧ (SMap.getD s.cluSeqrs 0 .reset).queue = [(0, 0)] ∧
       (SMap.getD s.cluSeqrs 0 .reset).holder = none ∧ (s.cluster 0).dark = false) := by
  decide +kernel

/-! ### The matrix unit -/

/-- Accumulator 0 owned by strand 0, 1 free, 2 owned by strand 3; slots 0 and 1 bound to READY tiles of a format. -/
def bMx (ety : W64) (g1 g2 : W64) (q : List MxOp) : State :=
  let w1 : W64 := 1 <<< 30 ||| ety <<< 26 ||| 256 <<< 13 ||| 16
  bench { run0 with g := ((Vector.replicate 64 0).set 1 g1).set 2 g2 } fun k =>
    { k with
      accs := [(0, { Acc.reset with owner := some 0 }), (2, { Acc.reset with owner := some 3 })]
      slots := [(0, { Slot.reset with bound := some 0 }), (1, { Slot.reset with bound := some 1 })]
      tiles := [(0, { tile0 2 with w1 }), (1, { tile0 2 with w1 })]
      mxq := q }

theorem witness_MatrixIssueCompletes :
    (let s := bMx 0 0x2000 64 []
     Unstepped s ∧ (s.myCore.mxq.filter (·.phase == .queued)).length < 8 ∧ (s.myCore.accOf 0).owner = some 0 ∧
       Begins ⟨true, [.rn8, .rn4], [], false, false, false⟩ false p0 s ∧ Begins .no false p0 s ∧ s.me.uprog.i32 = false ∧
       (∀ o ∈ [(0, 0), (1, 1)], (s.myCore.slot o.1).bound = some o.2 ∧ (s.myCore.tile o.2).state = 2 ∧ (s.myCore.tile o.2).ety = .bf16) ∧
       16 * (mmK .bf16 / 16) ≤ mmK .bf16 ∧ decodeAddr s.me.stkb (s.me.src 0 (.g 1)) = some (.loc 0x2000) ∧
       (s.me.src 0 (.g 1)).toNat % 64 = 0 ∧ s.myCore.changing 0x2000 1024 = false ∧ s.myCore.notScr 0x2000 1024 = none ∧
       s.myCore.reserved 0x2000 1024 s.me.prv = false ∧ s.myCore.tileBusy 0x2000 1024 = false ∧ Begins (adrnPx s.me.desc) false p0 s ∧
       adrnTy s.me.desc = .fp32 ∧ 16 * 4 ≤ (s.me.src 0 (.g 2)).toNat ∧ (s.me.src 0 (.g 2)).toNat < 524288 ∧
       (s.myCore.accOf 1).owner = none ∧ s.myCore.accBusy 1 = false ∧ s.myCore.accBusy 0 = false ∧ s.myCore.accWait = [] ∧
       (s.myCore.accOf 2).owner = some 3 ∧ s.myCore.res = true) ∧
    (let w : W64 := 0x504004C0
     ((List.range 2).map fun k => (w.extractLsb' (16 * k) 16)).any stepBad = false ∧ w >>> 32 = 0) ∧
    (let s := bMx 8 0 0 []
     (s.myCore.tile 0).ety = .ui32) := by
  unfold Begins Unstepped; decide +kernel

/-- Each kind of operation at the head of the queue, running, and past its last pipe cycle. -/
theorem witness_MatrixOperationsComplete :
    ∀ k ∈ [MxKind.mma 0 0 1 8 .bf16, .mmu 0 0 1 8 .reset, .mmz 0 5, .amov 0 1, .amovV 31 0 7, .amovA 0 7 5, .ald 0 0x2000,
        .adrn 0 true 0x2000 64 false .fp32 0 false 0 0], ∀ phase ∈ [MxPhase.queued, .running, .past],
      let m : MxOp := { id := 9, strand := 3, kind := k, phase, bytes := [] }
      let s := bMx 0 0 0 [m]
      s.coreUp 0 = true ∧ s.env = [] ∧ (s.core 0).mxq = m :: [] ∧ (∀ e ∈ ([] : List MxOp), e.id ≠ m.id) ∧ (s.core 0).ls.wf = true ∧
        16 * (etyWidth .fp32 / 8) ≤ 64 ∧ ∀ e ∈ (s.core 0).mxq, e.bytes = [] := by
  decide +kernel

/-- An ADRN past its last pipe cycle, with bytes to write. -/
theorem witness_MatrixOperationsComplete_drain :
    let m : MxOp :=
      { id := 9, strand := 3, kind := .adrn 0 true 0x2000 64 false .fp32 0 false 0 0, phase := .past
        bytes := drainBytes 0x2000 64 4 fun _ _ => 5 }
    (∀ q, ((bMx 0 0 0 q).core 0).mxq = q) ∧ m.phase = .past ∧ m.bytes = drainBytes 0x2000 64 4 (fun _ _ => 5) ∧ 16 * 4 ≤ 64 ∧
      ((bMx 0 0 0 []).core 0).ls.wf = true :=
  ⟨fun _ => rfl, rfl, rfl, by decide, by decide⟩

/-! ### Barriers -/

/-- A node word: a member of group 63 that waits for one arrival, with its arrivals and its episode. -/
def node0 (cnt epi : Nat) : W64 := putBits (putBits 0x403F 43 5 cnt) 48 16 epi
/-- A group word: level 2, cluster 0, alternating phases with bias, a slack of 64 ns. -/
def group0 : W64 := 0x01D0000000 ||| 0x80000000
/-- A device whose core 0 has a node of channel 15. -/
def bBar (t : Strand) (w : W64) (g : BarGroup) : State :=
  { bench t (fun k => { k with nodes := k.nodes.set 15 w }) with barGroups := [(64 * 15 + 63, g)] }

/-- Arrivals at a member, at a core without a node and at a dead core; episodes equal and not; a node full and not; a free node to be
configured and a group; a complete group; a release that is due and one that is not. -/
theorem witness_BarriersComplete :
    (let s := bBar run0 (node0 0 1) { BarGroup.reset with word := group0 }
     Begins .no false p0 s ∧ Unstepped s ∧ s.live (s.arvNode false 0) = true ∧ nodeM ((s.core 0).node 15) = true ∧
       s.released 0 0 .dev = true ∧ nodeM (s.myCore.node 15) = true ∧ nodeEpi (s.myCore.node 15) ≠ (s.me.join[15]?.getD 0).toNat ∧
       nodeM ((s.core (s.arvNode true 7)).node 15) = false ∧ s.myCore.res = true) ∧
    (let s := bBar run0 (node0 0 0) .reset
     nodeEpi (s.myCore.node 15) = (s.me.join[15]?.getD 0).toNat) ∧
    (let s := { b0 with flash := { Flash.full with coreBad := [1] } }
     Begins .no false p0 s ∧ s.live (s.arvNode true 1) = false) ∧
    (∀ cnt ∈ [0, 1],
      let s := bBar { run0 with wait := .arrival 0 15 } (node0 cnt 0) .reset
      (s.strand 0 0).wait = .arrival 0 15 ∧ nodeFull ((s.core 0).node 15) = decide (cnt = 1) ∧ SMap.getD (s.core 0).stalled 15 [] = [] ∧
        (s.barGroup 15 63).due = [] ∧ s.members 15 63 = [0]) ∧
    (let s := { bench { run0 with g := ((Vector.replicate 64 0).set 1 0x403F).set 2 63 } id with
        barGroups := [(64 * 15 + 63, { BarGroup.reset with word := group0 })] }
     let v := s.me.src 0 (.g 1)
     Begins .no true p0 s ∧ bits v 15 28 = 0 ∧ bits v 6 4 = 0 ∧ nodeCnt (s.myCore.node 15) = 0 ∧ nodeM v = true ∧
       groupLvl (s.barGroup 15 (nodeGix v)).word = 2 ∧ boxHasCluster (groupBox group0) (clusterOf 0) = true ∧
       bits group0 22 5 = 0 ∧ s.groupIll 15 63 group0 = false ∧ s.members 15 63 = [] ∧ (s.barGroup 15 63).rel = []) ∧
    (let s := bBar run0 (node0 1 1) { BarGroup.reset with word := group0, done := [(0, 100)], due := [0] }
     (s.barGroup 15 63).due = [0] ∧ SMap.get? (s.barGroup 15 63).done 0 = some 100 ∧ nodeEpi ((s.core 0).node 15) = 1 ∧
       groupLvl group0 ≠ 0 ∧ groupPh group0 = true ∧ groupAdj group0 = true ∧ (s.barGroup 15 63).rel = []) ∧
    (∀ time ∈ [0, 1],
      let s := bBar run0 (node0 1 1) { BarGroup.reset with word := group0, rel := [(0, time)], epi := 1 }
      SMap.get? (s.barGroup 15 (nodeGix ((s.core 0).node 15))).rel 0 = some time ∧ (s.barGroup 15 63).held = false ∧
        s.rampHolds group0 = false ∧ s.timecode.toNat = 0) := by
  unfold Begins Unstepped
  refine ⟨?_, ?_, ?_, ?_, ?_, ?_, ?_⟩ <;> decide +kernel

/-! ### Cocoons, launches and contexts -/

/-- A line with some of its 64-bit words. -/
def wordsLine (ws : List (Nat × Nat)) : W1024 := BitVec.ofNat 1024 (ws.foldr (fun w n => n + w.2 * 2 ^ (64 * w.1)) 0)
def words (ws : List (Nat × Nat)) : HomeLine := { hl0 with st := some .M, data := wordsLine ws }

/-- Lines that engines have read: endpoint, line and what it holds. -/
def lineOf (d : W1024) (fresh : Bool) : DevLine := { data := d, poison := false, fresh, want := false, busy := false, todo := 0, asid := none }
def devs (l : List (Nat × Nat × W1024)) : SMap DevLine :=
  l.foldl (fun m e => SMap.set m (devKey e.1 false e.2.1) (lineOf e.2.2 true)) []

/-- A queue's launch of context 1: its record names a start PC, core 0 and pools at 2^32. -/
def launch0 (phase : LPhase) (flags stat : Nat) : Launch :=
  { num := 0, record := ((((Vector.replicate 16 0).set 0 0x1000).set 1 (BitVec.ofNat 64 (flags * 2 ^ 32))).set 2 0x010101000000).set 3 0x100000000
    phase, armed := false, ctx := 1, sched := 0, phaseTicks := 0, ended := 0, placedLeft := 0, stat, cause := 0, causeBy := 0
    killDue := false }

/-- A cocoon of that launch, of a kind. -/
def cocoon0 (kind : Nat) : Cocoon :=
  { img := (((Vector.replicate 8 0).set 0 0x1000).set 1 (BitVec.ofNat 64 (kind * 2 ^ 32))).set 3 8, queue := some 0, ctx := some 1 }

/-- A pool's ring of some size with a cocoon count, from HEAD 0 to TAIL. -/
def ring0 (size count tail : Nat) : PoolHdr :=
  { base := 0x100001000, size, head := 0, tail, count, prevw := Vector.replicate 8 0, prevr := Vector.replicate 8 0 }

/-- A device with page tables that map the page at 2^32 to 0x20000000, context 1 on cluster 0, queue 0 with a launch, and pool 0 of
the launch with `count` cocoons from HEAD to TAIL; the engines have read the lines that they need. -/
def dev0 (t : Strand) (l : Option Launch) (size count tail : Nat) : State :=
  let b := fun (sz vpn : Nat) => State.bucketAddr { State.reset with ptcfg := 5 } 0 sz vpn / 128
  { bench t id with
    ptcfg := 5, qbase := 0x10000000, cbase := 0x10010000
    queues := [(0, { Queue.reset with launch := l })]
    contexts := [(1, { Context.reset with st := 1, onCores := true })]
    regions := [(0, { Region.reset with on := true })]
    pools := (0, { next := 1, serve := 1, read := true, hdr := some (ring0 size count tail) }) ::
      [1, 2, 3].map fun k => (k, { next := 1, serve := 1, read := true, hdr := none })
    dev := devs
      [(epLaunch, 0x10000000 / 128, wordsLine [(0, 0x30000000), (1, 16 + 2 ^ 32), (2, 1), (3, 1), (6, 1 + 2 ^ 16 + 2 ^ 32)]),
       (epLaunch, 0x10010080 / 128, wordsLine [(0, 2 ^ 48), (2, 0x010101000000), (4, 5), (5, 5), (6, 5000)]),
       (epSequencer, b 0 0x10000, BitVec.ofNat 1024 (0x2000 * 2 ^ 16 + 31 * 2 ^ 65 + 0x10000 * 2 ^ 88)),
       (epSequencer, b 1 (0x100000000 / 2 ^ pageShift 1), 0), (epSequencer, b 2 (0x100000000 / 2 ^ pageShift 2), 0),
       (epSequencer, 0x20001000 / 128, 0)] }
/-- A strand that works on a cocoon of the launch. -/
def worker (kind : Nat) (w : Wait) : Strand := { run0 with cocoon := some (cocoon0 kind), wait := w, g := (Vector.replicate 64 0).set 1 0x2000 }
/-- An idle strand. -/
def idler (k : Option Cocoon) : Strand := { run0 with run := .idle, cocoon := k }
def runs0 : Option Launch := some (launch0 .running 1 0)
/-- The device with a strand 1 as well. -/
def dev1 (t u : Strand) (size count tail : Nat) : State :=
  (dev0 t runs0 size count tail).modCore 0 fun k => { k with strands := k.strands.set 1 u }
/-- Whether an operation of the sequencer has what it needs, and what it gives. -/
def found (e : Except State (Option (Image × State))) : Option Bool := e.toOption.map (·.isSome)

/-- SPAWN, SUSPEND, DONE, YIELD and TAKE: a record in the local store; a cocoon of kind 1 and of kind 0; a strand with posted work; and
a record that has been read or written. -/
theorem witness_CocoonsComplete :
    (∀ k ∈ [0, 1],
      let s := dev0 (worker k .no) runs0 1024 0 0
      Begins .no false p0 s ∧ s.recordCause (s.me.src 0 (.g 1)) = none ∧ decodeAddr s.me.stkb (s.me.src 0 (.g 1)) = some (.loc 0x2000) ∧
        s.myCore.changing 0x2000 64 = false ∧ s.spawnIll (Vector.replicate 8 0) = false ∧ s.spawnIll ((Vector.replicate 8 0).set 1 0x300000000) = true ∧
        s.released 0 0 .dev = true ∧ s.leaveReady 0 0 = true ∧ s.me.cocoon = some (cocoon0 k) ∧ Image.decls (cocoon0 k).img = [] ∧
        (s.queue 0).launch = runs0 ∧ Image.kind (s.me.record 0 0) = k ∧ s.me.wait = .no) ∧
    (let s := dev0 { worker 0 .no with rsc := 1 } runs0 1024 0 0
     s.leaveReady 0 0 = false ∧ s.myCore.res = true) ∧
    (let s := dev0 (worker 0 (.record (Vector.replicate 8 0))) runs0 1024 0 0
     s.me.wait = .record (Vector.replicate 8 0) ∧ Begins .no false p0 s) := by
  unfold Begins
  refine ⟨?_, ?_, ?_⟩ <;> decide +kernel

/-- A record in GLOBAL. -/
theorem witness_CocoonsComplete_global :
    let s := gAt 0x100000080
    let q := recordPiece (pageAddr page0 0x100000080) page0 0x100000080 (s.me.record 0x2000 2)
    s.recordCause 0x100000080 = none ∧ decodeAddr s.me.stkb 0x100000080 = some (.glob 0x100000080) ∧
      s.myCore.tlbFind 0 0x100000080 = some page0 ∧ page0.permits (.load true) = true ∧ page0.permits (.store true) = true ∧
      s.myCore.lineHeld q = false ∧ (s.myCore.l1Find q.place).isSome = false ∧ s.myCore.postedOverlap 0 q = false ∧ s.leaveReady 0 0 = true := by
  decide +kernel

/-- A TAKE with no launch, with empty pools and without a victim, with one, and with a cocoon in a pool. -/
theorem witness_CocoonsComplete_take :
    let m := msg0 0 epSequencer (.take 0 0)
    let at_ := fun (s : State) => State.withMsg s m
    ((at_ b0).seqMsg (fun b => match b with | .take k j => k == 0 && j == 0 | _ => false) = some m ∧ b0.launchOf (b0.strand 0 0) = none ∧
      b0.quiet 0 0 = true ∧ (b0.modStrand 0 0 fun t => { t with rsc := 1 }).quiet 0 0 = false) ∧
    (let s := at_ (dev0 (worker 0 .no) runs0 1024 0 0)
     s.launchOf (s.strand 0 0) = some (0, launch0 .running 1 0) ∧ s.poolsKnown 0 = true ∧
       found (s.takePool 0 (launch0 .running 1 0)) = some false ∧ s.victim 0 0 0 = none) ∧
    (let s := at_ (dev1 (worker 0 .no) (worker 0x10002 .no |> fun t => { t with rnghi := 8 }) 1024 0 0)
     found (s.takePool 0 (launch0 .running 1 0)) = some false ∧ s.victim 0 0 0 = some (0, 1) ∧ (s.split (0, 1)).isSome = true) ∧
    (let s := at_ (dev0 (worker 0 .no) runs0 1024 1 65)
     found (s.takePool 0 (launch0 .running 1 0)) = some true ∧ (s.pool 0).hdr = some (ring0 1024 1 65) ∧ (s.pool 1).hdr = none) := by
  refine ⟨?_, ?_, ?_, ?_⟩ <;> decide +kernel

/-- A cocoon at its pool: one with 65 free bytes and one with 64. -/
theorem witness_CocoonsComplete_accept :
    ∀ e ∈ [(960, 65), (961, 64)],
      let m := msg0 0 epSequencer (.spawn 0 0 (cocoon0 0).img)
      let s := State.withMsg (dev0 (worker 0 (.spawn (cocoon0 0).img false)) runs0 1024 1 (e.1 - 1)) m
      let h := ring0 1024 1 (e.1 - 1)
      let img := Image.setSt ((cocoon0 0).img.setIfInBounds 7 s.timecode) 0
      s.seqMsg (fun b => match b with | .spawn k j _ => k == 0 && j == 0 | _ => false) = some m ∧ m.ticket = 0 ∧
        s.launchOf (s.strand 0 0) = some (0, launch0 .running 1 0) ∧ Image.prio (cocoon0 0).img = 0 ∧ (s.pool 0).read = true ∧
        (s.pool 0).hdr = some h ∧ h.free = e.2 ∧ ticketsOut (s.pool 0).next (s.pool 0).serve = 0 ∧
        (s.seqReach (s.ctxAsid 1) (.store true)
          (h.lines h.tail (entryBytes h.prevw img).length ++ hdrLines ((launch0 .running 1 0).pool 0)).eraseDups).toOption.map (·.isSome) = some true := by
  decide +kernel

/-- What the sequencer answers. -/
theorem witness_CocoonsComplete_answers :
    ∀ e ∈ [(Body.spawnAck 0 0, Wait.spawn (cocoon0 0).img false), (.spawnAck 0 0, .spawn (cocoon0 0).img true), (.takeAns 0 0 none, .take (.g 1)),
        (.takeAns 0 0 (some (cocoon0 0)), .take (.g 1))],
      let m := msg0 epSequencer 0 e.1
      let s := State.withMsg (dev0 (worker 0 e.2) runs0 1024 0 0) m
      let u := s.deliver 7
      u.msg? 7 = some m ∧ (u.core 0).dark = false ∧ m.poison = false ∧ (u.strand 0 0).wait = e.2 ∧
        ((u.strand 0 0).sstep && (u.strand 0 0).ie) = false := by
  decide +kernel

/-- Pickups: a cocoon given to a strand, an ill-formed one, a placed one at its core, and one in a pool for a parked strand. -/
theorem witness_CocoonsComplete_pickup :
    (∀ k ∈ [0, 3],
      let s := dev0 (idler (some (cocoon0 k))) runs0 1024 0 0
      (s.strand 0 0).cocoon = some (cocoon0 k) ∧ s.mayStart 0 0 1 = true ∧ (s.core 0).heldPlaced ++ (s.core 0).placed = [] ∧
        s.devHave epLaunch [s.ctxAt 1] = true ∧
        s.pickupIll (cocoon0 k) = decide (k = 3) ∧ Image.decls (cocoon0 k).img = [] ∧ Image.field (cocoon0 k).img 0 ≠ 0) ∧
    (let s := (dev0 (idler none) runs0 1024 0 0).modCore 0 fun x => { x with placed := [cocoon0 1] }
     (s.core 0).heldPlaced = [] ∧ (s.core 0).placed = [cocoon0 1] ∧ (s.strand 0 0).cocoon = none ∧ s.mayLoad 0 0 1 = true ∧
       s.devHave epLaunch [s.ctxAt 1] = true ∧ s.pickupIll (cocoon0 1) = false) ∧
    (let s := { dev0 (idler none) runs0 1024 1 65 with parked := [(0, 0)] }
     let l := launch0 .running 1 0
     (s.queue 0).launch = some l ∧ (s.parked.find? fun k => boxHasCluster (s.ctxBox l.ctx) (clusterOf k.1) && s.mayStart k.1 k.2 l.ctx &&
       (s.strand k.1 k.2).cocoon.isNone && !(s.core k.1).placedDue k.2) = some (0, 0) ∧ s.migrated = [] ∧ found (s.takePool 0 l) = some true) := by
  refine ⟨?_, ?_, ?_⟩ <;> decide +kernel

/-! ### Leases, invalidations, the network, boot -/

/-- A lease of core 0's strand, with two energy units left. -/
def lease0 (exp : Nat) : Lease := { core := 0, strand := 0, ctx := none, lstep := 7, energy := 2000000, exp }
def bLease (t : Strand) (l : Option Lease) (melt : BitVec 16) : State :=
  { bench t id with clusters := [(0, { Cluster.reset with lease := l })], melt }

theorem witness_LeasesComplete :
    (Begins .no false p0 b0 ∧ Unstepped b0 ∧ bits (b0.me.src 0 (.g 1)) 48 16 = 0 ∧ bits (b0.me.src 0 (.g 1)) 19 13 = 0 ∧
      (b0.cluster (clusterOf 0)).lease = none ∧ (b0.cluster (clusterOf 0)).paused = []) ∧
    (let s := bLease run0 (some (lease0 5)) 0
     (s.cluster (clusterOf 0)).lease = some (lease0 5) ∧ s.holds 0 0 (lease0 5) = true ∧ (lease0 5).lstep < 8 ∧ (lease0 5).strand < 4 ∧
       (lease0 5).energy / 1000000 < 65536) ∧
    (∀ e ∈ [(0, true), (5, false)],
      let l := { lease0 e.1 with strand := if e.2 then 0 else 1 }
      let s := { bLease run0 (some l) 0 with timecode := 1 }
      if e.2 then l.exp < s.timecode.toNat else s.timecode.toNat ≤ l.exp ∧ s.holds 0 0 l = false) ∧
    (let s := { bench run0 id with clusters := [(0, { Cluster.reset with paused := [lease0 5] })] }
     (s.cluster (clusterOf 0)).lease = none ∧ (s.cluster (clusterOf 0)).paused = [lease0 5]) ∧
    bits (0x80000 : W64) 19 13 ≠ 0 ∧ 28651 - 28650 < (lease0 0).energy ∧ (lease0 0).energy + 28650 ≤ 2028650 := by
  unfold Begins Unstepped
  refine ⟨?_, ?_, ?_, ?_, ?_⟩ <;> decide +kernel

/-- A request refused for its step, and one granted on the context's energy. -/
theorem witness_LeasesComplete_request :
    (let s := bLease { run0 with wait := .sprint (.g 1) 0x100040001 } none 0
     (s.strand 0 0).wait = .sprint (.g 1) 0x100040001 ∧ s.sprintReason 0 none 0x100040001 = 4) ∧
    (dev0 (worker 0 (.sprint (.g 1) 0x3200060001)) runs0 1024 0 0).sprintReason 0 (some 1) 0x3200060001 = 0 := by
  refine ⟨?_, ?_⟩ <;> decide +kernel

/-- Before, at and after EXP, with MELT below and at the refreeze level. -/
theorem witness_LeasesComplete_expiry :
    ((bLease run0 (some (lease0 1)) 0xE665).cluster 0).lease = some (lease0 1) ∧ (bLease run0 none 0).timecode.toNat < (lease0 1).exp ∧
    (lease0 0).exp ≤ (bLease run0 none 0).timecode.toNat ∧ (bLease run0 none 0xE665).melt.toNat < 0xE666 ∧
    0xE666 ≤ (bLease run0 none 0xE666).melt.toNat := by decide +kernel

/-- What is due when the tick ends, for a holder that works for no context. -/
theorem witness_LeasesComplete_row :
    ∀ r ∈ [2, 3, 4, 5],
      let s := { bench { run0 with cocoon := some { cocoon0 0 with ctx := none } } id with
        clusters := [(0, { Cluster.reset with lease := some (lease0 1), leaseRow := some r })] }
      (s.cluster 0).leaseRow = some r ∧ (∀ e ∈ s.clusters, e.1 ≠ 0 → e.2.leaseRow = none) ∧
        (s.strand 0 0).cocoon.isSome = true ∧ (s.strand 0 0).cocoon.bind (·.ctx) = (lease0 1).ctx := by
  decide +kernel

/-- A walk of strand 0 for a load. -/
def walk0 : Walk :=
  { wid := 4, who := .strand 0, strand := 0, gen := 0, asid := 0, va := 0x100000000, bad := 0x100000000, acc := .load
    rd := true, wr := false, ex := false, priv := true, pc := 0x1000, quiet := false }

/-- An invalidation that can begin and one of an ill-formed ASID; a core that has not taken a bump yet. -/
theorem witness_InvalidationsComplete :
    (Begins .no true p0 b0 ∧ (b0.me.src 0 (.g 1)) >>> 16 = 0 ∧ b0.ptStores 0 0 = false ∧ b0.me.window = false ∧ b0.myCore.res = true ∧
      decodeAddr b0.me.stkb 0x100000000 = some (.glob 0x100000000) ∧ decodeAddr b0.me.stkb 0 = some (.loc 0)) ∧
    (let s := bench { run0 with g := (Vector.replicate 64 0).set 1 0x10000 } id
     (s.me.src 0 (.g 1)) >>> 16 ≠ 0) ∧
    (let s := { bMem { run0 with wait := .tlbinv 9 } id with bumpReqs := [(9, (0, none, 0, 0))], bumps := [(9, [0])] }
     SMap.get? s.bumpReqs 9 = some (0, none, 0, 0) ∧ 0 ∈ SMap.getD s.bumps 9 [] ∧ (s.core 0).bumps = []) := by
  unfold Begins
  decide +kernel

/-- A core that has taken a bump, with a walk to wait for and without, the last one to answer and not. -/
theorem witness_InvalidationsComplete_ack :
    (∀ l ∈ [[0], [0, 5]], ∀ old ∈ [[], [4]],
      let s := { bench { run0 with wait := .tlbinv 9 } (fun k => { k with bumps := [(9, old)], walks := [walk0] }) with
        bumpReqs := [(9, (0, none, 0, 0))], bumps := [(9, l)] }
      (∃ b ∈ (s.core 0).bumps, b.1 = 9) ∧ SMap.getD s.bumps 9 [] = l ∧ (s.strand 0 0).wait = .tlbinv 9 ∧
        ((s.strand 0 0).sstep && (s.strand 0 0).ie) = false ∧
        if old = [] then ∀ b ∈ (s.core 0).bumps, b.1 = 9 → ∀ w ∈ (s.core 0).walks, w.wid ∉ b.2
        else ∃ b ∈ (s.core 0).bumps, b.1 = 9 ∧ ∃ w ∈ (s.core 0).walks, w.wid ∈ b.2) := by
  decide +kernel

/-- A flit of a message for an endpoint. -/
def flit0 (dest : Nat) : Flit := { uid := 7, fidx := 0, nf := 1, dest, cls := 0, age := 0, sb := 0, poison := false }

/-- A candidate that goes out, its neighbour in the same cycle and one ahead. -/
theorem witness_NetworkComplete :
    ∀ n ∈ [0, 1],
      let s := { b0 with routers := [(0, { Router.reset with inj := [flit0 1] }), (1, { Router.reset with cycle := n })] }
      s.running = true ∧ s.live 0 = true ∧ s.cycleDue 0 = true ∧ (s.router 0).border = [] ∧ (s.router 0).up = [] ∧
        (s.router 0).back = [] ∧ (s.router 0).arr = [] ∧ (s.router 0).hold = 0 ∧ (s.router 1).cycle = (s.router 0).cycle + n ∧
        isBaseEp (flit0 1).dest = false ∧
        ((s.productive 0 { flit0 1 with age := (s.timecode >>> 16).setWidth 16 }).find?
          fun q => s.slotFree 0 q [] { flit0 1 with age := (s.timecode >>> 16).setWidth 16 }) = some 0 ∧
        crosses 0 0 = false ∧ neighbour 0 0 = 1 := by
  decide +kernel

/-- A flit that has arrived for its core, its message holding a buffer already and not; a router that has waited. -/
theorem witness_NetworkComplete_arrival :
    (∀ bufs ∈ [[], [{ uid := 7, cls := 0, shared := false, got := [] : Buf }]],
      let s := { b0 with
        routers := [(0, { Router.reset with arr := [(0, flit0 0)] })], transit := [msg0 1 0 (.mem (req0 .read none))]
        reasm := [(0, { Reasm.reset with bufs })] }
      (s.router 0).arr = [(0, flit0 0)] ∧ (s.router 0).inj = [] ∧ (s.router 0).later = [] ∧ s.cycleDue 0 = true ∧
        (flit0 0).wellFormed = true ∧ (∃ m ∈ s.transit, m.uid = 7) ∧ (s.reasmOf 0).bufs = bufs ∧
        accepts (s.reasmOf 0) (flit0 0) = true) ∧
    (∀ n ∈ [255, 256], let s := { b0 with routers := [(0, { Router.reset with waited := n })] }
      (s.router 0).waited = n) := by
  decide +kernel

/-- A message that has completed at a core, poisoned and not; one of no flits and of 10; a store of the host's memory. -/
theorem witness_NetworkComplete_delivery :
    (∀ m ∈ [msg0 1 0 (.mem (req0 .read none)), { msg0 1 0 (.mem (req0 .read none)) with poison := true },
        msg0 0 epHost (.mem (req0 .write none)), { msg0 1 0 (.nack (.inval 5)) with cls := 2 }],
      let s := { b0 with
        transit := [m], reasm := [(m.dest, { Reasm.reset with bufs := [{ uid := 7, cls := 0, shared := false, got := [0] }], done := [7] })] }
      (s.transit.find? fun x => x.uid == m.uid) = some m ∧ s.msg? m.uid = none ∧ m.dest < 13093 ∧
        ((s.collect m).reasmOf m.dest).done.head? = some m.uid ∧ m.badHeader = false ∧ (s.core m.dest).dark = false ∧
        s.nackAnswer (.inval 5) = none) ∧
    ∀ nf ∈ [0, 10],
      let m := { msg0 1 0 (.mem (req0 .read none)) with nf }
      let s := { b0 with transit := [m] }
      (s.transit.find? fun x => x.uid == m.uid) = some m ∧ s.msg? m.uid = none ∧ (m.nf = 0 ∨ 9 < m.nf) := by
  decide +kernel

theorem witness_TicketsComplete :
    (let m := { msg0 (epSlice 0) 0 (.retry (.mem (req0 .read none))) with ticket := 5 }
     let s := State.withMsg (bAns (.load (.g 3) 3 none) none 0) m
     s.msg? 7 = some m ∧ m.cancel = false ∧ s.whoDead (.strand 0 0) = false) ∧
    (∀ w ∈ [Who.strand 0 0, .fetch 0 0 9, .pref 0 0 9 true], ∀ t ∈ [0, 5],
      let b := Body.mem { req0 .read none with who := w }
      let m := { msg0 (epSlice 0) 0 (.retry b) with ticket := t }
      let s := State.withMsg (bench { run0 with run := .idle } id) m
      s.msg? 7 = some m ∧ b.isAmo = false ∧ b.who = some w ∧ s.whoDead w = true) ∧
    (∀ t ∈ [0, 5],
      let h : Held := { msg := { msg0 0 (epSlice 0) (.mem (req0 .read none)) with ticket := t }, cancel := false }
      let s := { b0 with held := [h] }
      h ∈ s.held ∧ h.msg.uid = 7 ∧ (∀ k ∈ s.held, k.msg.uid = 7 → k = h) ∧ h.msg.ticket = t ∧ s.inSave h = false) ∧
    (∀ t ∈ [1, 2],
      let m := { msg0 0 (epSlice 0) (.mem (req0 .read none)) with ticket := t, cancel := true }
      let s := State.withMsg { b0 with slices := [(0, { Slice.reset with next := 3 })] } m
      s.msg? 7 = some m ∧ s.resource m.dest m.body = some 0 ∧ s.imaging m.dest = false ∧ s.tickets 0 = (3, 1)) ∧
    (∀ t ∈ [1, 2],
      let m := { msg0 0 0 (.redc (.copy 0 1) 0 15 0 0x2000 0xF 5) with ticket := t, cancel := true }
      let s := State.withMsg (bCopy 0 0 1 2) m
      s.msg? 7 = some m ∧ SMap.getD ((s.core 0).group 15).lines (0x2000 / 128) 0 = 0 ∧ (boxMembers ((s.core 0).group 15).desc).length = 2) ∧
    (let s := { b0 with slices := [(0, { Slice.reset with next := 3 })] }
     ticketsOut (s.tickets 0).1 (s.tickets 0).2 ≠ 0 ∧ s.ticketHeld 0 = false ∧ 0 % 8 < 6) ∧
    (let s := { b0 with
        slices := [(0, { Slice.reset with next := 3 })]
        held := [{ msg := { msg0 0 (epSlice 0) (.mem (req0 .read none)) with ticket := 1 }, cancel := false }] }
     s.ticketHeld 0 = true) := by
  decide +kernel

/-- A device before its boot with a record that is not signed, and a byte of the last line for the host. -/
theorem witness_BootAndHostComplete :
    State.reset.booted = false ∧ { Flash.full with recordSlh := false }.recordSlh = false ∧ b0.bar2 = true ∧
    2 ^ 40 - 1 < 2 ^ 40 ∧ (2 ^ 40 - 1) % 128 + 1 ≤ 128 ∧ b0.streamBusy 1 = false ∧ (b0.strand 0 0).cocoon = none := by
  decide +kernel

def winPiece : Piece := { piece0 with win := true, off := 0x2000, n := 8, mask := byteMask 0 8 }

/-- A strand that waits for a line of global memory, and the answer. -/
def bLine (data : Option W1024) : State :=
  State.withMsg (bMem { run0 with wait := .fetch 0x100000000 3, pc := 0x100000000 } id)
    (msg0 (epSlice 0) 0 (.ans (.fetch 0 0 3) 0 1 false data (MemReq.plain .read 0x8000 (.fetch 0 0 3) (some 0))))

/-- A strand that waits for a line of its local store, or for one of global memory, which comes whole, or poisoned. -/
theorem witness_ArrivalsComplete_lines :
    (let s := bench { run0 with wait := .fetch 0x1000 0 } id
     (s.strand 0 0).wait = .fetch 0x1000 0 ∧ decodeAddr (s.strand 0 0).stkb 0x1000 = some (.loc 0x1000) ∧
       (s.core 0).changing 0x1000 64 = false ∧ (s.core 0).mode (0x1000 / 8192) = 0 ∧
       lineParityOk (BitVec.ofNat 512 ((s.core 0).ls.num 0x1000 64)) = true ∧ s.env = []) ∧
    (((bLine none).strand 0 0).wait = .fetch 0x100000000 3 ∧
      decodeAddr ((bLine none).strand 0 0).stkb 0x100000000 = some (.glob 0x100000000) ∧
      ((bLine none).core 0).tlbFind (((bLine none).strand 0 0).asid.setWidth 16) 0x100000000 = some page0 ∧
      page0.permits (.fetch ((bLine none).strand 0 0).prv) = true ∧ pageAddr page0 0x100000000 / 128 = 0x8000 ∧
      ((bLine none).strand 0 0).window = false ∧ ((bLine none).core 0).res = true) ∧
    lineParityOk ((0 : W1024).extractLsb' (8 * ((0x100000000 : W64).toNat % 128)) 512) = true ∧
    ∀ data, (bLine data).cores = (bLine none).cores ∧ (bLine data).env = [] ∧
      (bLine data).inbox = [msg0 (epSlice 0) 0 (.ans (.fetch 0 0 3) 0 1 false data (MemReq.plain .read 0x8000 (.fetch 0 0 3) (some 0)))] :=
  ⟨by decide +kernel, ⟨by decide +kernel, by decide +kernel, by decide +kernel, by decide +kernel, by decide +kernel, by decide +kernel,
    by decide +kernel⟩, by decide +kernel, fun _ => ⟨rfl, rfl, rfl⟩⟩

/-- Window accesses that are taken and refused; the answers to a posted operation and to a push. -/
theorem witness_ArrivalsComplete :
    (let m := msg0 1 0 (.win (.strand 1 0) winPiece none true false)
     let s := State.withMsg b0 m
     s.msg? 7 = some m ∧ s.imaging m.dest = false ∧ s.windowRefusal m.dest 0x2000 8 false = none ∧
       (s.windowRefusal 0 0x7E000 8 false).isSome = true) ∧
    winPiece.n = 8 ∧ winPiece.mask = byteMask 0 8 ∧
    (∀ b ∈ [Body.ans (.journal 0 63) 0 1 false none (req0 .write none), .winAns (.journal 0 63) 2 0, .qack (.journal 0 63) 0 9 0,
        .qack (.journal 0 63) 5 0 0],
      let s := State.withMsg (bench { run0 with rsc := 1 } fun k => { k with journal := [(63, { Journal.reset with st := .sent })] }) (msg0 1 0 b)
      let e := (s.core 0).jent 63
      (s.msg? 7).isSome = true ∧ e.st = .sent ∧ e.strand < 4 ∧ ∀ k ∈ (s.core 0).journal, k.2.heldRed = none) := by
  decide +kernel

/-- A strand whose walk ended in a fault, and the reply to it. -/
def bReply (act : Nat) (l : Launch) : State :=
  let f : FaultOut := { tag := 7, kind := 0, addr := 0, bad := 0, src := 0, idx := 0 }
  (dev0 { worker 0 .walk with fault := some f } (some l) 1024 0 0).modCore 0 fun k =>
    { k with replies := [(0, BitVec.ofNat 64 (7 * 2 ^ 56 + act))] }

/-- RESUME, FAIL and CONTAIN, of a launch whose faults are retried, end the task, or end the launch. -/
theorem witness_ArrivalsComplete_replies :
    ∀ act ∈ [1, 2, 3], ∀ cpol ∈ [0, 1, 2], ∀ gstop ∈ [true, false],
      let l0 := launch0 .running (if gstop then 5 else 1) 0
      let l := { l0 with record := l0.record.set 8 (BitVec.ofNat 64 cpol) }
      let s := bReply act l
      (s.core 0).replies.find? (fun e => e.1 == 0) = some (0, BitVec.ofNat 64 (7 * 2 ^ 56 + act)) ∧
        (s.strand 0 0).fault.map (fun f => (f.tag, f.src)) = some ((BitVec.ofNat 64 (7 * 2 ^ 56 + act)).extractLsb' 56 8, 0) ∧
        bits (BitVec.ofNat 64 (7 * 2 ^ 56 + act)) 0 8 = act ∧ (s.core 0).copies = [] ∧ (s.core 0).tiles = [] ∧
        (s.strand 0 0).wait = .walk ∧ s.launchOf (s.strand 0 0) = some (0, l) ∧ l.gstop = gstop ∧ l.cpol % 4 = cpol ∧ l.stat = 0 ∧
        (s.strand 0 0).retry = [] ∧ (s.strand 0 0).window = false ∧ (s.core 0).res = true := by
  decide +kernel

theorem witness_ArrivalsComplete_mailbox :
    ∀ e ∈ [(126, (0x2000000000000000 : W64)), (127, 0x2000000000000000), (0, 0)],
      let m := msg0 1 0 (.faultMsg 0 5)
      let s := State.withMsg (bench run0 fun k => { k with bkmd1 := e.2, fifos := [(62, { Fifo.reset with count := e.1 })] }) m
      let f := (s.core 0).fifo 62
      s.msg? 7 = some m ∧ (s.core 0).changing (8192 * 62) 1 = false ∧ (s.core 0).dark = false ∧ (s.core 0).mode 62 = (if e.2 = 0 then 0 else 2) ∧
        s.imaging 0 = false ∧ ticketsOut f.next f.serve = 0 ∧ f.count = e.1 ∧ f.tail < 128 ∧ (s.core 0).faultOvf.toNat < 4294967295 ∧ (s.core 0).ls.wf = true := by
  decide +kernel

/-- The three answers of a walk: no bucket holds the page, or the first does. -/
def bWalk (d : W1024) (quiet : Bool) : State :=
  { bench { run0 with wait := .walk } (fun k => { k with walks := [{ walk0 with quiet }] }) with
    inbox := [0, 1, 2].map fun i => msg0 0 0 (.ans (.walk 0 4 i) 0 0 false (some (if i = 0 then d else 0)) (req0 .read none)) }

def entry0 : W1024 := BitVec.ofNat 1024 (0x2000 * 2 ^ 16 + 31 * 2 ^ 65 + 0x10000 * 2 ^ 88)
/-- The same page without its read permission. -/
def entry1 : W1024 := BitVec.ofNat 1024 (0x2000 * 2 ^ 16 + 23 * 2 ^ 65 + 0x10000 * 2 ^ 88)

theorem witness_ArrivalsComplete_walk (d : W1024) (h : d ∈ [0, entry0, entry1]) (quiet : Bool) :
    let s := bWalk d quiet
    let w := { walk0 with quiet }
    (s.walkOf 4) = some (0, w) ∧ ProbeAns.none ∉ s.probes 4 ∧ w.who = .strand w.strand ∧ (s.strand 0 0).wait = .walk ∧
      (s.strand 0 0).fault = none ∧ (s.strand 0 0).gen = w.gen ∧ (s.strand 0 0).window = false ∧
      s.reachable (svcCore (s.strand 0 0).svcXyz) = true ∧ ∀ v ∈ (s.core 0).walks, v.who = w.who → v.wid ≤ 4 := by
  simp only [List.mem_cons, List.not_mem_nil, or_false] at h
  rcases h with rfl | rfl | rfl <;> cases quiet <;> refine ⟨?_, ?_, ?_, ?_, ?_, ?_, ?_, ?_, ?_⟩ <;> decide +kernel

/-- A page that permits the load, one that does not, and none. -/
theorem witness_ArrivalsComplete_walk_ends :
    (classify ((bWalk entry0 false).probes 4) 0 0x100000000 0).toOption = some { page0 with ppn := 0x2000 } ∧
    page0.permits walk0.need = true ∧
    (classify ((bWalk entry1 false).probes 4) 0 0x100000000 0).toOption = some { page0 with ppn := 0x2000, rd := false } ∧
    Page.permits { page0 with rd := false } walk0.need = false ∧
    (classify ((bWalk 0 false).probes 4) 0 0x100000000 0).toOption = none := by
  refine ⟨?_, ?_, ?_, ?_, ?_⟩ <;> decide +kernel

/-! ### Launches, contexts and turns -/

/-- A notice of a queue's and of an engine's header; a header that has not been read, and ones that have, in order and not. -/
theorem witness_LaunchesComplete_headers :
    (∀ k ∈ [0, 63, 64, 79], ∀ busy ∈ [true, false],
      let ep := hdrHolder k
      let m := msg0 (epSlice 0) ep (.hdrNote k)
      let s := { State.withMsg b0 m with dev := [(devKey ep (b0.headerAt k).2 (b0.headerAt k).1, { lineOf 0 false with busy })] }
      m ∈ s.inbox ∧ m.dest = ep ∧ (s.devLine ep (s.headerAt k).2 (s.headerAt k).1).busy = busy) ∧
    b0.inbox = [] ∧ (b0.devLine epLaunch (b0.headerAt 0).2 (b0.headerAt 0).1).fresh = false ∧
    (∀ e ∈ [(1, true), (0, false)],
      let s := { b0 with dev := devs [(epLaunch, 0, wordsLine [(1, e.1 * 16)])] }
      (s.devLine epLaunch (s.headerAt 0).2 (s.headerAt 0).1).fresh = true ∧ s.headerOk 0 = e.2) := by
  decide +kernel

/-- The record of `launch0` as a line that the launch queues hold. -/
def State.withRecord (s : State) : State :=
  { s with dev := SMap.set s.dev (devKey epLaunch false (0x30000000 / 128)) (lineOf (wordsLine [(0, 0x1000), (2, 0x010101000000), (3, 0x100000000)]) true) }

/-- A queue that is off or has no record, one with a record to be read, and one whose record has come. -/
theorem witness_LaunchesComplete_take :
    (b0.queue 0).launch = none ∧ hdrOn (b0.queueHdr 0) 128 = false ∧
    (let s := dev0 run0 none 1024 0 0
     (s.queue 0).launch = none ∧ hdrOn (s.queueHdr 0) 128 = true ∧ hdrHead (s.queueHdr 0) < hdrTail (s.queueHdr 0) ∧
       s.devHave epLaunch [s.recordAt 0 0, s.ctxAt 1] = false ∧ (s.devLine epLaunch false (s.recordAt 0 0).1) = .reset) ∧
    (let s := State.withRecord (dev0 run0 none 1024 0 0)
     hdrHead (s.queueHdr 0) = 0 ∧ hdrCtx (s.queueHdr 0) = 1 ∧ s.devHave epLaunch [s.recordAt 0 0, s.ctxAt 1] = true ∧
       (s.devLine epLaunch false (s.queueAt 0).1).busy = false ∧ (s.devLine epLaunch false (s.queueAt 0).1).want = false) := by
  refine ⟨?_, ?_, ?_, ?_⟩ <;> decide +kernel

/-- A launch that waits for another, one whose dependence failed, one before its START, and one whose context's descriptor is to be read. -/
theorem witness_LaunchesComplete_waits :
    (let l := { launch0 .taken 0 0 with record := (launch0 .taken 0 0).record.set 5 0x8000000000000001 }
     (dev0 run0 (some l) 1024 0 0).depsEnded l = false) ∧
    (let l := { launch0 .taken 0 0 with record := (launch0 .taken 0 0).record.set 5 0xC100000000000000 }
     let s := { dev0 run0 (some l) 1024 0 0 with
        queues := [(0, { Queue.reset with launch := some l }), (1, { Queue.reset with failed := [0] })]
        dev := devs [(epLaunch, 0x10000080 / 128, wordsLine [(5, 1)])] }
     s.depsEnded l = true ∧ s.depsFailed l = true) ∧
    (let l := { launch0 .taken 0 0 with record := (launch0 .taken 0 0).record.set 7 9 }
     let s := dev0 run0 (some l) 1024 0 0
     s.depsEnded l = true ∧ s.depsFailed l = false ∧ l.gang = false ∧ s.timecode.toNat < l.start) ∧
    (let l := launch0 .taken 0 0
     let s := { dev0 run0 (some l) 1024 0 0 with dev := [] }
     s.depsEnded l = true ∧ s.depsFailed l = false ∧ l.start ≤ s.timecode.toNat ∧ s.devHave epLaunch [s.ctxAt l.ctx] = false) := by
  refine ⟨?_, ?_, ?_, ?_⟩ <;> decide +kernel

/-- A launch that starts, on a core that takes work and on one that does not; a gang launch at its START, armed and late. -/
theorem witness_LaunchesComplete_starts :
    (∀ fenced ∈ [true, false],
      let l := launch0 .taken 0 0
      let s := (dev0 run0 (some l) 1024 0 0).modCore 0 fun k => { k with fenced }
      let u := s.devUsed epLaunch [s.ctxAt 1]
      (s.queue 0).launch = some l ∧ s.depsEnded l = true ∧ s.depsFailed l = false ∧ l.gang = false ∧ l.start ≤ s.timecode.toNat ∧
        s.devHave epLaunch [s.ctxAt 1] = true ∧ u.firstReady 1 = some 0 ∧ (s.context 1).onCores = true ∧ u.levelsUp 1 = true ∧
        l.placed = true ∧ l.skipDead = false ∧ coreBoxCores (l.word 2) = [0] ∧ s.takesWork 0 = !fenced ∧
        (s.devLine epLaunch false (s.ctxAt 1).1).poison = false) ∧
    (∀ armed ∈ [true, false],
      let l := { launch0 .taken 2 0 with armed }
      let s := { dev0 run0 (some l) 1024 0 0 with tcMaster := true }
      (s.queue 0).launch = some l ∧ s.depsEnded l = true ∧ s.depsFailed l = false ∧ l.gang = true ∧ s.timecode.toNat = l.start ∧
        l.armed = armed ∧ s.launchReady 0 = true ∧ (s.context 1).onCores = true ∧ s.levelsUp 1 = true ∧ l.placed = true ∧
        s.takesWork 0 = true) := by
  refine ⟨?_, ?_⟩ <;> decide +kernel

/-- A launch whose work is over and one that was refused; one whose record has been written, and one whose record has not. -/
theorem witness_LaunchesComplete_ends :
    (dev0 run0 runs0 1024 0 0).finished 0 (launch0 .running 1 0) = true ∧ (launch0 .taken 0 4).stat ≠ 0 ∧
    ∀ busy ∈ [true, false],
      let l := launch0 .closing 0 4
      let d := dev0 run0 (some l) 1024 0 0
      let s := { d with dev := SMap.set d.dev (devKey epLaunch false (0x30000000 / 128)) { lineOf 0 true with busy } }
      (s.queue 0).launch = some l ∧ s.devIdle epLaunch (s.recordAt 0 l.num) = !busy ∧ l.stat ≠ 0 ∧
        devKey epLaunch (s.recordAt 0 l.num).2 (s.recordAt 0 l.num).1 ≠ devKey epLaunch false (s.queueAt 0).1 := by
  refine ⟨?_, ?_, ?_⟩ <;> decide +kernel

/-- Lines that an engine holds, read and not yet acted on. -/
def State.withDev (s : State) (ep : Nat) (l : List (Nat × W1024)) : State :=
  { s with dev := l.foldl (fun m e => SMap.set m (devKey ep false e.1) (lineOf e.2 true)) s.dev }

/-- A context's descriptor to be read; its increments, which bring its levels up after a loss, and do not. -/
theorem witness_ContextsComplete_levels :
    (b0.devLine epLaunch (b0.ctxAt 0).2 (b0.ctxAt 0).1) = .reset ∧
    ∀ st ∈ [1, 2], ∀ up ∈ [0, 5],
      let s := { State.withDev (dev0 run0 none 1024 0 0) epLaunch [(0x10010080 / 128, wordsLine [(0, 2 ^ 48), (8, up), (9, up), (10, up)])] with
        contexts := [(1, { Context.reset with st })] }
      let D := s.devLine epLaunch (s.ctxAt 1).2 (s.ctxAt 1).1
      D.fresh = true ∧ D.poison = false ∧ (s.context 1).st = st ∧
        ∀ k, k < 3 → lineWord64 D.data (4 + k) + lineWord64 D.data (8 + k) = BitVec.ofNat 64 up := by
  decide +kernel

/-- A strand that its range stop times out; a core whose context has core time left, and its last tick of it; measures of a region. -/
theorem witness_ContextsComplete :
    (let s := bench { run0 with rangeStop := true } id
     (s.strand 0 0).rangeStop = true) ∧
    (∀ n ∈ [1, 5],
      let s := State.withDev (dev0 (worker 0 .no) runs0 1024 0 0) epLaunch
        [(0x10010080 / 128, wordsLine [(0, 2 ^ 48), (2, 0x010101000000), (4, n), (5, 5), (6, 5000)])]
      s.coreUp 0 = true ∧ (s.core 0).fenced = false ∧ (s.core 0).contexts = [1] ∧ s.charged = [] ∧
        (s.devLine epLaunch (s.ctxAt 1).2 (s.ctxAt 1).1).poison = false ∧ s.ctxLevel 1 0 = n ∧ 0 < s.ctxLevel 1 1 ∧ 0 < s.ctxLevel 1 2 ∧
        (s.context 1).st = 1 ∧ (s.context 1).onCores = true ∧ s.lastDone 1 = false) ∧
    (let s := { b0 with regions := [(0, { Region.reset with coreNs := [(1, 5)] })] }
     (s.region 0).coreNs = [(1, 5)] ∧ (b0.region 0).coreNs = [] ∧ (b0.context 0).onCores = false) := by
  refine ⟨?_, ?_, ?_⟩ <;> decide +kernel

/-- Context 1 on the cores with a slice, and context 2 beside it with a launch of its own. -/
def dev2 (mine : Option Launch) (tc : W64) : State :=
  let d := State.withDev (dev0 (worker 0 .no) mine 1024 0 0) epLaunch
    [(0x10010080 / 128, wordsLine [(0, 2 ^ 48), (2, 0x010101000000), (3, 5), (4, 5), (5, 5), (6, 5)]),
     (0x10010100 / 128, wordsLine [(0, 2 ^ 48), (2, 0x010101000000), (4, 5), (5, 5), (6, 5)])]
  { d with
    timecode := tc
    queues := d.queues ++ [(1, { Queue.reset with launch := some { launch0 .running 1 0 with ctx := 2 } })]
    cores := d.cores.map fun e => (e.1, { e.2 with ctx := some 1 }) }

/-- A slice that is spent, and a context with no launch to run. -/
theorem witness_ContextsComplete_slice :
    ∀ e ∈ [(runs0, (9 : W64)), (none, 0)],
      let s := dev2 e.1 e.2
      2 ∈ s.sharing 1 ∧ (s.context 1).onCores = true ∧ s.eligible 2 = true ∧ s.lastDone 1 = false ∧ s.heldFor 1 = none ∧
        (e.1 ≠ none → 0 < s.ctxSlice 1 ∧ s.ctxSlice 1 ≤ s.timecode.toNat - (s.context 1).since) ∧
        (e.1 = none → s.launchesOf 1 = []) := by
  decide +kernel

/-- Context 1 on clusters 0 and 1 asks to give cluster 1 to context 2, or not; with all descriptors read, or its own alone. -/
def devN (resize box ask : Nat) (all : Bool) : State :=
  let d := dev0 run0 none 1024 0 0
  { d with
    contexts := [(1, { Context.reset with st := 1, onCores := true, resize })]
    dev := ((List.range 256).filter fun k => all || k == 1).map fun k => (devKey epLaunch false (0x10010000 / 128 + k), lineOf (wordsLine
      (if k = 1 then [(0, 2 ^ 48), (2, 0x010102000000), (11, box + 2 * 2 ^ 48 + ask * 2 ^ 62)]
       else if k = 2 then [(0, 2 ^ 48), (2, 0x010101000002)] else [])) true) }

theorem witness_ContextsComplete_resize_asks :
    (∀ ask ∈ [0, 1], let s := devN 0 0x010101000000 ask false
      (s.context 1).resize = 0 ∧ s.devHave epLaunch [s.ctxAt 1] = true ∧ bits (s.ctxNbox 1) 62 2 = ask ∧
        s.devHave epLaunch ((List.range 256).map s.ctxAt) = false) ∧
    (devN 0 0x010101000000 1 true).devHave epLaunch ((List.range 256).map (devN 0 0x010101000000 1 true).ctxAt) = true := by
  refine ⟨?_, ?_⟩ <;> decide +kernel

/-- The device with all descriptors used. -/
def devU (box : Nat) : State := (devN 0 box 1 true).devUsed epLaunch ((List.range 256).map (devN 0 box 1 true).ctxAt)

theorem witness_ContextsComplete_resize :
    (boxInside ((devN 0 0x010101000000 1 true).ctxNbox 1) ((devU 0x010101000000).ctxBox 1) = true ∧
      fillsBox ((devU 0x010101000000).joined 1) = true ∧ ∀ m ∈ (devU 0x010101000000).sharing 2, m = 2) ∧
    boxInside ((devN 0 0x010101000005 1 true).ctxNbox 1) ((devU 0x010101000005).ctxBox 1) = false := by
  refine ⟨⟨?_, ?_, ?_⟩, ?_⟩ <;> decide +kernel

/-- A move that waits for a save of a leaving core, one that begins, and one that ends. -/
theorem witness_ContextsComplete_moves :
    (let s := { devN 1 0x010101000001 1 false with saves := [(0, { ctx := 1, back := false, one := none, left := [], got := [], img := none, pends := [] })] }
     (s.context 1).resize = 1 ∧ ∃ e ∈ s.saves, s.leaves 1 e.1 = true) ∧
    (let s := devN 1 0x010101000001 1 false
     s.atBoundary 1 = true ∧ s.saves = []) ∧
    (let s := devN 2 0x010101000000 1 false
     (s.context 1).resize = 2 ∧ ∀ e ∈ s.cores, s.leaves 1 e.1 = false) := by
  refine ⟨?_, ?_, ?_⟩ <;> decide +kernel

/-! ### The ends of turns, power, management -/

/-- Watchdog phases with W1, W2 and W3 of 100,000 ticks, before and after their time. -/
def devW (phase : LPhase) (tc : W64) : State :=
  { dev0 (worker 0 .no) (some (launch0 phase 1 0)) 1024 0 0 with timecode := tc }

theorem witness_TurnsEndComplete_watchdog :
    (((devW .running 99999).queue 0).launch = some (launch0 .running 1 0) ∧
      ((List.range 3).all fun k => hdrWatch ((devW .running 99999).queueHdr 0) k == 100000) = true ∧
      (launch0 .running 1 0).stat = 0 ∧ (devW .running 99999).finished 0 (launch0 .running 1 0) = false) ∧
    ((devW .running 99999).scheduled (launch0 .running 1 0) < 100000 ∧ 100000 ≤ (devW .running 100000).scheduled (launch0 .running 1 0)) ∧
    (((devW .preempting 99999).queue 0).launch = some (launch0 .preempting 1 0) ∧
      (devW .preempting 99999).timecode.toNat - (launch0 .preempting 1 0).phaseTicks < 100000 ∧
      ∀ e ∈ (devW .preempting 99999).cores, e.2.preempt ≠ some 1) ∧
    (∃ e ∈ ((devW .preempting 100000).modCore 0 fun k => { k with preempt := some 1 }).cores, e.2.preempt = some 1) ∧
    100000 ≤ (devW .killing 100000).timecode.toNat - (launch0 .killing 1 0).phaseTicks := by
  refine ⟨⟨?_, ?_, ?_, ?_⟩, ⟨?_, ?_⟩, ⟨?_, ?_, ?_⟩, ?_, ?_⟩ <;> decide +kernel

/-- Each cause due at a strand's boundary, with the handler resident and, for a pre-emption and a resumption, without. -/
theorem witness_TurnsEndComplete_async :
    (∀ b ∈ [3, 4, 5, 6, 7],
      let s := bench { run0 with status := 0x480, pend := BitVec.ofNat 64 (2 ^ b), behind := 0xFF } id
      s.coreUp 0 = true ∧ (s.core 0).fenced = false ∧ (s.strand 0 0).run = .running ∧ (s.strand 0 0).saved = false ∧
        (s.strand 0 0).wait = .no ∧ (s.strand 0 0).dueBit = some b ∧ (s.strand 0 0).behind.getLsbD b = true ∧ (s.core 0).res = true) ∧
    (∀ preResume ∈ [true, false],
      let s := bench { run0 with status := 0x480, pend := 0x40, behind := 0xFF, preResume } fun k => { k with res := false }
      (s.strand 0 0).dueBit = some 6 ∧ (s.core 0).res = false ∧ (s.strand 0 0).preResume = preResume) := by
  refine ⟨?_, ?_⟩ <;> decide +kernel

/-- A core on which a context's strand, whose stack lies in a page that the TLB holds, is to be saved: not yet at rest, and at rest. -/
def devP (saved : Bool) : State :=
  (dev0 { worker 0 .no with saved, stkb := 0x100000000 } runs0 1024 0 0).modCore 0 fun k =>
    { k with preempt := some 1, ctx := some 1, tlb1 := [{ asid := 0, vpn := 0x10000, page := page0 }] }
/-- A save or a restore with some lines left. -/
def save0 (back : Bool) (left : List (Nat × Nat)) (img : Option CoreImage) : Save :=
  { ctx := 1, back, one := none, left, got := [], img, pends := [(0, 0)] }
def simg0 : StrandImage :=
  { ctx := 1, core := 0, slot := 3, strand := { worker 0 .no with stkb := 0x100000000 }, journal := [], spill := [], migrated := false, dest := none }
def cimg0 : CoreImage :=
  { ctx := 1, core := 0, stkb := 0x100000000, tiles := [], copies := [], groups := [], streams := [], journal := [], spill := [], refill := []
    bufs := [], done := [], undelivered := [] }
/-- The line of memory of a line of an image. -/
def imageLine (s : State) (v : Save) (u k : Nat) : Option (Nat × Bool × BitVec 16) :=
  match s.imageAt 0 v u k with
  | some (.ok pa p, asid) => some (pa, p.loc, asid)
  | _ => none

/-- A save that waits for another core, one that is to list its lines, one of a core where nothing is to be saved, and one of a core that
its context leaves. -/
theorem witness_TurnsEndComplete_saves :
    (let s := devP true
     s.saves = [] ∧ (s.core 0).preempt = some 1 ∧ s.enginesQuiet 0 1 = true ∧ (s.core 0).openLogs = [] ∧ s.runsLaunch 1 = true ∧
       s.leaving 1 0 = false ∧ (∀ e ∈ s.cores, e.2.preempt = some 1 → s.saveReady e.1 1 = true) ∧ (s.strand 0 0).ofCtx 1 = true) ∧
    (let s := { devP true with transit := [msg0 1 0 (.qpush (.journal 1 0) 0 1 5 false)] }
     (s.core 0).preempt = some 1 ∧ s.enginesQuiet 0 1 = true ∧ (s.core 0).openLogs = [] ∧
       ∃ e ∈ s.cores, e.2.preempt = some 1 ∧ SMap.get? s.saves e.1 = none ∧ s.saveReady e.1 1 = false) ∧
    (let s := (dev0 (idler none) none 1024 0 0).modCore 0 fun k => { k with preempt := some 1, ctx := some 1 }
     (s.core 0).preempt = some 1 ∧ s.enginesQuiet 0 1 = true ∧ (s.core 0).openLogs = [] ∧ s.runsLaunch 1 = false ∧ s.strandsOf 0 1 = [] ∧
       ∀ e ∈ s.cores, e.2.preempt = some 1 → s.saveReady e.1 1 = true) ∧
    (let s := { State.withDev (devP true) epLaunch [(0x10010080 / 128, wordsLine [(0, 2 ^ 48), (2, 0x010102000000), (11, 0x010101000001)])] with
        contexts := [(1, { Context.reset with st := 1, onCores := true, resize := 2 })] }
     s.leaving 1 0 = true ∧ s.runsLaunch 1 = true ∧ ∀ e ∈ s.cores, e.2.preempt = some 1 → s.saveReady e.1 1 = true) := by
  refine ⟨?_, ?_, ?_, ?_⟩ <;> decide +kernel

/-- A save with a line to write, while the line before it is still on its way and not; and a save with none left. -/
theorem witness_TurnsEndComplete_saved :
    (∀ out ∈ [true, false],
      let d := { devP true with saves := [(0, save0 false [(0, 0)] none)] }
      let s := if out then State.withDev d 0 [(5, 0)] else d
      SMap.get? s.saves 0 = some (save0 false [(0, 0)] none) ∧ s.devQuiet 0 = !out ∧
        (out = false → imageLine s (save0 false [(0, 0)] none) 0 0 = some (0x400000, false, 0))) ∧
    (let s := { devP true with saves := [(0, save0 false [] (some cimg0))] }
     SMap.get? s.saves 0 = some (save0 false [] (some cimg0)) ∧ s.devQuiet 0 = true ∧
       ∀ i, i < 4 → (s.strand 0 i).ofCtx 1 = true → (i, (s.strand 0 i).pend) ∈ (save0 false [] (some cimg0)).pends) := by
  refine ⟨?_, ?_⟩ <;> decide +kernel

/-- A core with images to restore, and without; a restore with a line to read, and with it read; and restores with all lines read, of a strand
and of a core. -/
theorem witness_TurnsEndComplete_images :
    (∀ strandImages ∈ [[], [simg0]],
      let s := { dev0 (idler none) runs0 1024 0 0 with strandImages }
      s.saves = [] ∧ (s.context 1).onCores = true ∧ s.levelsUp 1 = true ∧ s.imagesDue 0 1 = !strandImages.isEmpty ∧
        s.mayRestore 0 1 = true) ∧
    (let s := { dev0 (idler none) runs0 1024 0 0 with coreImages := [cimg0] }
     s.imagesDue 0 1 = true ∧ s.mayRestore 0 1 = true) ∧
    (∀ read ∈ [true, false],
      let v := save0 true [(3, 0)] none
      let d := ({ dev0 (idler none) runs0 1024 0 0 with strandImages := [simg0], saves := [(0, v)] }).modCore 0 fun k =>
        { k with tlb1 := [{ asid := 0, vpn := 0x10000, page := page0 }] }
      let s := if read then State.withDev d 0 [(0x400000 / 128, 7)] else d
      SMap.get? s.saves 0 = some v ∧ imageLine s v 3 0 = some (0x400000, false, 0) ∧
        (s.devLine 0 false (0x400000 / 128)).fresh = read ∧ (s.devLine 0 false (0x400000 / 128)).busy = false ∧
        (s.devLine 0 false (0x400000 / 128)).want = false) ∧
    (let s := { dev0 (idler none) runs0 1024 0 0 with strandImages := [simg0], saves := [(0, save0 true [] none)] }
     SMap.get? s.saves 0 = some (save0 true [] none) ∧ (s.strandImages.filter fun m => m.core == 0 && m.ctx == 1) = [simg0] ∧
       s.coreImages = [] ∧ simg0.slot < 4 ∧ (s.core 0).preempt = none ∧ (s.cluster (clusterOf 0)).paused = []) ∧
    (let s := { dev0 (idler none) runs0 1024 0 0 with coreImages := [cimg0], saves := [(0, save0 true [] none)] }
     (s.strandImages.filter fun m => m.core == 0 && m.ctx == 1) = [] ∧ (s.coreImages.find? fun m => m.core == 0 && m.ctx == 1) = some cimg0) := by
  refine ⟨?_, ?_, ?_, ?_, ?_⟩ <;> decide +kernel

/-- Kills: not begun, with the context's descriptor to be read, with work left, with the descriptor still valid, and at their end; strands
that RESTART finds. -/
theorem witness_TurnsEndComplete_kills :
    State.reset.bar2 = false ∧ b0.bar2 = true ∧ b0.killBusy = false ∧
    (let s := { dev0 run0 none 1024 0 0 with killBusy := true, killCtx := 1, dev := [] }
     s.bar2 = true ∧ s.killBusy = true ∧ s.devHave epLaunch [s.ctxAt s.killCtx] = false) ∧
    (let s := { devP true with killBusy := true, killCtx := 1 }
     let u := s.killTensors (s.ctxAsid s.killCtx)
     s.devHave epLaunch [s.ctxAt s.killCtx] = true ∧ u.killDone s.killCtx = false) ∧
    (∀ valid ∈ [true, false],
      let d := (dev0 run0 none 1024 0 0).modCore 0 fun k => { k with ctx := some 1 }
      let s := { State.withDev d epLaunch [(0x10010080 / 128, wordsLine [(0, if valid then 2 ^ 48 else 0)])] with killBusy := true, killCtx := 1 }
      let u := s.killTensors (s.ctxAsid s.killCtx)
      s.devHave epLaunch [s.ctxAt s.killCtx] = true ∧ u.killDone 1 = true ∧ u.ctxValid 1 = valid ∧ u.devIdle epLaunch (s.ctxAt 1) = true ∧
        (u.core 0).ctx = some 1) ∧
    (∀ b ∈ [true, false],
      let s := bench { run0 with run := .halted, ended := b } id
      s.bar2 = true ∧ (s.core 0).dark = false ∧ (s.core 0).fenced = false ∧ (s.strand 0 0).run = .halted ∧ (s.strand 0 0).ended = b) := by
  refine ⟨?_, ?_, ?_, ?_, ?_, ?_, ?_⟩ <;> decide +kernel

/-- A cluster at step 4 in a region that is on, with a request up that its rail carries and one that it does not. -/
def bPower (k : Cluster) (g : Region) : State := { b0 with clusters := [(0, k)], regions := [(0, g)] }

theorem witness_PowerComplete :
    (let s := bPower Cluster.reset { Region.reset with on := true }
     (s.cluster 0).dark = false ∧ (s.region (regionOfCluster 0)).on = true ∧ (s.cluster 0).want = none ∧ (s.cluster 0).leaseTick ≠ some s.timecode.toNat ∧ (s.cluster 0).clcfg.getLsbD 0 = true ∧
       (s.cluster 0).bias = 0 ∧ (s.cluster 0).step ≤ s.stepCap 0 ∧ bits (s.cluster 0).clcfg 7 3 < (s.cluster 0).step ∧
       550 ≤ (s.cluster 0).volts ((s.cluster 0).step - 1)) ∧
    (let s := bPower { Cluster.reset with want := some 7 } { Region.reset with on := true, vrail := 550 }
     (s.cluster 0).want = some 7 ∧ (s.cluster 0).queued = none ∧ (s.cluster 0).step < 7 ∧
       (s.region (regionOfCluster 0)).mode ≠ 2 ∧ ((s.region (regionOfCluster 0)).vrail : Int) < (s.cluster 0).volts 7) ∧
    (let s := bPower { Cluster.reset with want := some 3 } Region.reset
     (s.cluster 0).want = some 3 ∧ 3 ≤ (s.cluster 0).step) ∧
    (let s := bPower { Cluster.reset with fb := true } Region.reset
     (s.cluster 0).fb = true ∧ (s.cluster 0).dark = false ∧ (∀ c ∈ clusterCores 0, (s.core c).cocoons = []) ∧ s.logs = [] ∧ s.bumps = []) ∧
    (let s := bPower Cluster.reset { Region.reset with qmax := 31, nstep := 3 }
     (s.region 0).mode ≠ 2 ∧ (s.region 0).wantStep = none ∧ (s.region 0).ngcfg.getLsbD 0 = true ∧
       (s.region 0).nstep < bits (s.region 0).ngcfg 7 3 ∧ bits (s.region 0).ngcfg 23 5 ≤ (s.region 0).qmax) ∧
    (let s := bPower Cluster.reset { Region.reset with wantStep := some 7, vrail := 749 }
     (s.region 0).wantStep = some 7 ∧ (s.region 0).nstep < 7 ∧ (s.region 0).mode ≠ 2 ∧ (s.region 0).vrail < netVolts 7) ∧
    (let s := bPower Cluster.reset { Region.reset with wantStep := some 7, vrail := 750 }
     netVolts 7 ≤ (s.region 0).vrail) ∧
    ((b0.region 0).ramp = false ∧ b0.regionWanted 0 = false) ∧
    ((b0.region 0).plive - 1 < 12 ∧ 6 ≤ (b0.region 0).plive - 6 ∧ (b0.region 0).plive - 7 < 6) ∧
    (let s := bPower Cluster.reset { Region.reset with ramp := true }
     (s.region 0).ramp = true ∧ (s.region 0).rampEnd ≤ s.timecode.toNat) ∧
    (0xF333 ≤ (0xF333 : BitVec 16).toNat ∧ (0xF332 : BitVec 16).toNat < 0xF333) := by
  refine ⟨?_, ?_, ?_, ?_, ?_, ?_, ?_, ?_, ?_, ?_, ?_⟩ <;> decide +kernel

/-- A gated region to which a valid context's box reaches, and one whose ramp runs. -/
theorem witness_PowerComplete_switch :
    (let s := { dev0 run0 none 1024 0 0 with regions := [] }
     (s.region 0).on = false ∧ (s.region 0).ramp = false ∧ s.ctxValid 1 = true ∧ 0 ∈ regionCores 0 ∧
       boxHasCluster (s.ctxBox 1) (clusterOf 0) = true ∧ 1 ∈ regionNeighbours 0 ∧ 0 ∉ regionNeighbours 0) ∧
    (b0.region 0).ramp = false ∧ (∀ n, n < 256 → b0.ctxValid n = false) ∧ (b0.cluster 0).want = none ∧
    ({ b0 with regions := [(0, { Region.reset with ramp := true, rampEnd := 1 })] }.region 0).ramp = true := by
  refine ⟨?_, ?_, ?_, ?_, ?_⟩ <;> decide +kernel

/-- A lease on a cluster above step 2 whose region loses phases. -/
theorem witness_PowerComplete_phases :
    (let s := bPower Cluster.reset { Region.reset with on := true, plive := 12 }
     (s.cluster 0).dark = false ∧ (s.cluster 0).want = none ∧ 2 < (s.cluster 0).step ∧ 550 ≤ (s.cluster 0).volts 2 ∧
       (s.region 0).plive - 1 < 12 ∧ (s.region 0).mode = 0 ∧ 0 ∈ regionClusters 0) ∧
    (bPower { Cluster.reset with step := 2 } { Region.reset with plive := 6 }).cluster 0 = { Cluster.reset with step := 2 } := by
  refine ⟨?_, ?_⟩ <;> decide +kernel

/-- Engine 0's ring with a record, of which word 3 is given; and a transfer in progress. -/
def devE (words3 : Nat) (x : Optical) : State :=
  State.withDev { b0 with qbase := 0x10000000, optical := [(0, x)] } (epOptical 0)
    [(0x10002000 / 128, wordsLine [(0, 0x30000000), (1, 16 + 2 ^ 32), (3, 1)]), (0x30000000 / 128, wordsLine [(2, 128), (3, words3)])]

/-- Queues on and off, and RESYNC; a ring that is off, one with a record to be read, and records read, well formed and not. -/
theorem witness_ManagementComplete :
    (b0.bar2 = true ∧ b0.anyQueueOn = false ∧ (dev0 run0 none 1024 0 0).anyQueueOn = true) ∧
    ((b0.engine 0).transfer = none ∧ hdrOn (b0.engineHdr 0) 64 = false ∧ b0.running = true ∧ State.reset.running = false) ∧
    (∀ w ∈ [(8, false), (9, true)], let s := devE w.1 .reset
      let a := s.engineHdr 0
      let at_ := hdrRing a + 64 * (hdrHead a % hdrSize a)
      let r : Vector W64 8 := Vector.ofFn fun i => lineWord64 (s.devData (epOptical 0) (physLine at_, false)) (at_ % 128 / 8 + i.val)
      hdrOn a 64 = true ∧ hdrHead a < hdrTail a ∧ (s.devLine (epOptical 0) false (physLine at_)).fresh = true ∧ transferIll r = w.2 ∧
        (s.devLine (epOptical 0) false (s.engineAt 0).1).poison = false) ∧
    (let s := { devE 8 .reset with dev := SMap.erase (devE 8 .reset).dev (devKey (epOptical 0) false (0x30000000 / 128)) }
     hdrOn (s.engineHdr 0) 64 = true ∧ s.devLine (epOptical 0) false (0x30000000 / 128) = .reset) ∧
    (b0.tcMaster = false ∧ b0.booted = true ∧ b0.resyncSt ≠ 1 ∧
      ∀ bootstat ∈ [0, 2], { b0 with bootstat, resyncDue := true }.resyncDue = true ∧ { b0 with bootstat, resyncDue := true }.bootstat = bootstat) := by
  refine ⟨?_, ?_, ?_, ?_, ?_⟩ <;> decide +kernel

/-- A transfer of one line: to be read, being read, with its line's answer, and done; an engine that serves its peer and one that does
not; the last byte of the memory. -/
theorem witness_ManagementComplete_engine :
    let r : Vector W64 8 := #v[0, 0, 128, 8, 0, 0, 0, 0]
    (∀ k ∈ [0, 1], ∀ reading ∈ [true, false],
      let s := devE 8 { Optical.reset with transfer := some r, done := k, reading }
      (s.engine 0).transfer = some r ∧ (s.engine 0).done = k ∧ (s.engine 0).reading = reading ∧
        128 * 0 < (r[2]?.getD 0).toNat ∧ (r[2]?.getD 0).toNat ≤ 128 * 1) ∧
    (let m := msg0 (epSlice 0) (epOptical 0) (.ans (.xfer 0) 0 1 false (some 5) (req0 .read none))
     let s := { devE 8 { Optical.reset with transfer := some r, reading := true } with
        transit := [m]
        reasm := [(m.dest, { Reasm.reset with bufs := [{ uid := 7, cls := 0, shared := false, got := [0] }], done := [7] })] }
     (s.transit.find? fun x => x.uid == m.uid) = some m ∧ s.msg? m.uid = none ∧ m.badHeader = false ∧
       ((s.collect m).reasmOf m.dest).done.head? = some m.uid) ∧
    (∀ b ∈ [true, false], let s := devE 8 { Optical.reset with serving := b }
      s.running = true ∧ (s.engine 0).serving = b ∧ (s.engine 0).inq = []) ∧
    (2 ^ 40 - 1) % 128 + [(5 : BitVec 8)].length ≤ 128 := by
  refine ⟨?_, ?_, ?_, ?_⟩ <;> decide +kernel

theorem witness_NoSuchPlaceStops : 12288 ≤ 12288 ∧ 4 ≤ 4 ∧ 1536 ≤ 1536 ∧ 96 ≤ 96 ∧ 80 ≤ 80 ∧ 64 ≤ 64 ∧ 256 ≤ 256 ∧ 16 ≤ 16 := by decide

/-! ### Decoding, steps, memories -/

/-- A well-formed instruction with a word of its own. -/
theorem witness_DecodeEncode :
    (Instr.fadd ⟨.fp32, .g 3, .g 4, .g 5, 0, p0⟩).wellFormed = true ∧
    encode (.fadd ⟨.fp32, .g 3, .g 4, .g 5, 0, p0⟩) = some 0x200206102800000000000000 := by decide +kernel

theorem witness_EncodeDecode : decode 0x200206102800000000000000 = .ok (.fadd ⟨.fp32, .g 3, .g 4, .g 5, 0, p0⟩) :=
  ok_of (by decide +kernel)

/-- Slot 4 of a line of NOPs, just arrived at, before its strand's turn and in it. -/
def bStep : State := { bJump { run0 with pc := 0x1004, entered := true } with cur := (12288, 0) }
def uStep : State := { bStep with cur := (0, 0) }

theorem witness_StepRunsDecoded :
    (bStep.agenda = [] ∧ bStep.defaultTurn = .strand 0 0) ∧
    (uStep.canRun 0 0 = true ∧ uStep.asyncDeliver 0 0 = none ∧ (uStep.strand 0 0).entryDue = none ∧ pcOk (uStep.strand 0 0).pc = true) ∧
    (EnvErr.parity 0 (pcLine (uStep.strand 0 0).pc) false ∉ uStep.env ∧ (tgtLine 0x1000).bad ≠ 2 ∧
      lineReserved (tgtLine 0x1000).bytes = false ∧ lineTgt (tgtLine 0x1000).bytes 4 = true ∧
      groupLegal (groupOf (tgtLine 0x1000).bytes 4) = true) ∧
    (uStep.core 0).vectorPending 0 (slotWord (tgtLine 0x1000).bytes 4) = false ∧
    (decode (slotWord (tgtLine 0x1000).bytes 4)).toOption = some .nop ∧
    (match uStep.fetch 0 0 (pcLine (uStep.strand 0 0).pc) with | .line l => decide (l = tgtLine 0x1000) | _ => false) = true := by
  refine ⟨?_, ?_, ?_, ?_, ?_, ?_⟩ <;> decide +kernel

/-- The waits with which an instruction issues, and one that its strand leaves first. -/
theorem witness_StepRunsDecoded_waits :
    ∀ w ∈ [Wait.no, .hold, .sc 0 true, .forwards [], .sync .none 0 5, .record 0],
      let s := uStep.modStrand 0 0 fun t => { t with wait := w }
      (s.strand 0 0).wait = w ∧ s.canRun 0 0 = true ∧ s.asyncDeliver 0 0 = none := by
  decide +kernel

/-- A device with a byte in HBM, in host memory and in a local store, and a step of it. -/
theorem witness_MemoryStaysCanonical :
    ({ bench run0 (fun k => { k with ls := [(0, 1), (5, 2)] }) with hbm := [(7, 1)], hostMem := [(8, 1)] }).Canonical ∧
    (∃ t, step bStep = .next t) :=
  ⟨by unfold State.Canonical; decide +kernel, next_of (by decide +kernel)⟩

/-- A bit of PENDING_ASYNC that SYSW has set with nothing behind it clears at the next boundary, with IE = 0 (R374). -/
theorem test_pend_clears :
    (match exec (.asyncDelivery 0 0) (bench { run0 with pend := 0xA } id) with
      | .next t => decide ((t.strand 0 0).pend = 0 ∧ (t.strand 0 0).pc = run0.pc ∧ (t.strand 0 0).cause = run0.cause)
      | _ => false) = true := by decide +kernel

/-- A SPRINT in the tick of another lease event of its cluster is refused with reason 3 (R348, R397). -/
theorem test_sprint_same_tick :
    ({ bench run0 id with clusters := [(0, { Cluster.reset with leaseTick := some 0 })] }).sprintReason 0 none 0x100050001 = 3 := by
  decide +kernel

/-- The line that R206 packs from FADD.F32 and VFMA.F32 in one group. -/
theorem test_decif_line :
    assemble 0 0 [.target, .pair, .insn { word := 0x200206102800000000000000 }, .insn { word := 0x4302830A1C44000000000000 }, .line] =
    some ([(0x008C0101#32 : BitVec 32) ++ (0#288 : BitVec 288) ++ (0x4302830A1C44000000000000#96 : W96) ++
      (0x200206102800000000000000#96 : W96)], []) := by decide +kernel

/-- The image of an operand tile, as the cube program's data table gives it. -/
theorem test_decif_tile :
    asmRecord [] .tile [("loc", [.num 1]), ("fmt", [.num 1]), ("rows", [.num 16]), ("cols", [.num 128]), ("hpitch", [.num 256])] =
    some (0x44100010 * 2 ^ 64 + 0x100 * 2 ^ 128) := by decide +kernel

theorem witness_ResetState : 12287 < 12288 ∧ 3 < 4 := by decide

end Sys2Proof.Tests
end

section
/-!
SUPPORT. Messages that are sent: what sending one leaves unchanged, said once for every sender.
-/

namespace Sys2Proof.Machine

/-- Queueing a message's flits changes the routers at most. -/
theorem State.inject_routers (s : State) (m : Msg) : s.inject m = { s with routers := (s.inject m).routers } := by
  unfold State.inject
  split
  · rfl
  · split <;> rfl

/-- A message that is sent stands last among those on their way, under a fresh uid and with its header. -/
theorem State.sendMsg_effect (s : State) (m : Msg) :
    s.sendMsg m = { s with
      uid := s.uid + 1, transit := s.transit ++ [{ m with uid := s.uid, hdr := s.header m }], routers := (s.sendMsg m).routers } := by
  unfold State.sendMsg
  dsimp only
  split
  · rfl
  · exact State.inject_routers _ _

/-- A request puts one message on its way: the sender's tags, the messages and the routers change at most. -/
theorem State.request_effect (s : State) (src dest cls nf ticket : Nat) (body : Body) :
    NetOnly s (s.request src dest cls nf ticket body) ∧
      Mails s (s.request src dest cls nf ticket body) src dest cls ticket body := by
  unfold State.request State.requestMsg
  rw [State.sendMsg_effect]
  split <;> exact ⟨rfl, _, rfl, rfl, rfl, rfl, rfl, rfl, rfl, rfl⟩

end Sys2Proof.Machine
end

section
/-!
SUPPORT. A turn: the turn that a step takes, and the instruction that a strand's turn runs (R23, R175 to R185, R194).
-/

namespace Sys2Proof.Machine

/-- A step takes the turn at the head of the agenda, or the default one where the agenda is empty. -/
theorem step_eq_takeTurn {s : State} {t : Turn} {rest : List Turn}
    (h : s.agenda = t :: rest ∨ s.agenda = [] ∧ rest = [] ∧ s.defaultTurn = t) :
    step s = takeTurn t { s with agenda := rest } := by
  unfold step
  rcases h with h | ⟨h, rfl, rfl⟩
  · rw [h]
  · rw [h]
    exact congrArg (takeTurn s.defaultTurn) (show s = { s with agenda := [] } by rw [← h])

/-- The waits with which a strand issues its instruction in its turn. -/
def Wait.issues : Wait → Bool
  | .no | .hold | .sc _ true | .forwards _ | .sync _ _ _ | .record _ => true
  | _ => false

/-- A strand's turn runs the instruction that it issues, where no asynchronous cause and no entry of a cocoon comes first: `u` is the state
in its turn, and `v` the one in which it has left a hold. -/
theorem strandTurn_of_issue {s u v t : State} {c i : Nat} {ins : Instr} (hc : c < 12288) (hi : i < 4)
    (hu : u = { s with cur := (c, i) }) (hv : u.freed = v) (hrun : u.canRun c i = true) (hd : u.asyncDeliver c i = none)
    (hw : (u.strand c i).wait.issues = true) (he : v.me.entryDue = none) (hr : v.issue = .run ins t) :
    strandTurn c i s = exec ins t := by
  have hrun' : s.canRun c i = true := by rw [hu] at hrun; exact hrun
  unfold strandTurn
  rw [if_neg (by simp [hc, hi]), if_neg (by simp [hrun'])]
  simp only [← hu, hd]
  split
  case h_1 h => rw [h] at hw; cases hw
  case h_2 h => rw [h] at hw; cases hw
  case h_9 => unfold Wait.issues at hw; split at hw <;> simp_all
  all_goals simp only [hv, he, hr]

/-- A strand that issues its instruction no longer holds an interrupt off (R379). -/
theorem State.freed_eq (s : State) :
    s.freed = if s.me.wait = .hold then s.modMe fun t => { t with wait := .no } else s := by
  unfold State.freed
  split
  · next h => rw [if_pos h]
  · next h => rw [if_neg h]

/-- Where no read of the line at the PC fails, the instruction cache stays as it is (R177). -/
theorem State.cachedParity_of_clean {s : State} {c i : Nat} {line : W64} (h : EnvErr.parity c line false ∉ s.env) :
    s.cachedParity c i line = s := by
  simp [State.cachedParity, h]

/-- A line that meets no cause of the PC, of the line or of the group is read without a change (R176 to R179, R183, R184). -/
theorem State.lineAt_ok {s : State} {c i : Nat} {l : ILine} (hcur : s.cur = (c, i))
    (hp : EnvErr.parity c (pcLine (s.strand c i).pc) false ∉ s.env) (hpc : pcOk (s.strand c i).pc = true)
    (hf : s.fetch c i (pcLine (s.strand c i).pc) = .line l) (hb : l.bad < 2) (hr : lineReserved l.bytes = false)
    (hg : groupLegal (groupOf l.bytes (pcSlot (s.strand c i).pc)) = true)
    (hj : pcSlot (s.strand c i).pc = 0 → groupLegal ((s.strand c i).join4 ++ groupOf l.bytes 0) = true) :
    s.lineAt = .ok (l, s) := by
  unfold State.lineAt
  simp only [hcur, State.cachedParity_of_clean hp, hpc, hf, hr, hg, Nat.not_le.mpr hb, Bool.not_true, Bool.false_or, Bool.false_eq_true,
    if_false]
  rw [if_neg]
  simpa using hj

/-- The instruction issues whose word decodes, where the line is as it should be, a target where the strand has just arrived, and no AMOV.V
of the strand has still to write a register that it names (R180, R194, R286). -/
theorem State.issue_run {s : State} {c i : Nat} {l : ILine} {ins : Instr} (hcur : s.cur = (c, i)) (hl : s.lineAt = .ok (l, s))
    (ht : (s.strand c i).entered = true → lineTgt l.bytes (pcSlot (s.strand c i).pc) = true)
    (hv : (s.core c).vectorPending i (slotWord l.bytes (pcSlot (s.strand c i).pc)) = false)
    (hd : decode (slotWord l.bytes (pcSlot (s.strand c i).pc)) = .ok ins) :
    s.issue = .run ins (s.modStrand c i (·.keepJoin l.bytes)) := by
  unfold State.issue
  simp only [hl, State.me, State.myCore, State.modMe, hcur, hd, hv, Bool.false_eq_true, if_false]
  rw [if_neg]
  simpa using ht

/-- Settles O35: the strand, which no longer holds an interrupt off, issues what the word of its slot decodes to. -/
theorem stepRunsDecoded : Obligations.StepRunsDecoded := by
  unfold Obligations.StepRunsDecoded
  intro s u v c i rest hc hi hturn hu hv he
  have hfree : u.freed = v := by rw [hv, State.freed_eq, hu]; rfl
  have hcur : v.cur = (c, i) := by rw [hv, hu]; split <;> rfl
  refine ⟨fun l ins hrun hd hw hpc hp hf hb hr ht hg hj hvp hdec => ?_, fun e r h => step_eq_takeTurn (.inl h)⟩
  have hissues : (u.strand c i).wait.issues = true := by
    by_cases hh : (u.strand c i).wait = .hold
    · rw [hh]; rfl
    · rw [hv, if_neg hh] at hw
      rcases hw with h | ⟨q, h⟩ | ⟨f, h⟩ | ⟨d, f, w, h⟩ | ⟨w, h⟩ <;> rw [h] <;> rfl
  have hissue := State.issue_run hcur (State.lineAt_ok hcur hp hpc hf hb hr hg hj) ht hvp hdec
  rw [step_eq_takeTurn hturn]
  refine strandTurn_of_issue hc hi hu hfree hrun hd hissues ?_ hissue
  rw [State.me, hcur]
  exact he

end Sys2Proof.Machine
end

section
/-!
SUPPORT. Events that name a place the device does not have (R13).
-/

namespace Sys2Proof.Machine

/-- An arm that first checks its place stops by name where the check fails (R13). -/
theorem stops_of_misplaced {b : Bool} {r : Res} (h : b = false) :
    (if !b then Host.Outcome.fault Fault.noSuchPlace else r) = .fault .noSuchPlace := if_pos (by rw [h]; rfl)

/-- Settles O59: the first thing that each of these arms does is the check of its place. -/
theorem noSuchPlaceStops : Obligations.NoSuchPlaceStops := by
  unfold Obligations.NoSuchPlaceStops
  intro s n j
  have outside : ∀ {k m : Nat}, m ≤ k → decide (k < m) = false := fun h => decide_eq_false (Nat.not_lt.mpr h)
  simp only [List.forall_mem_cons, List.not_mem_nil, false_implies, implies_true, and_true]
  refine ⟨fun core => ?_, fun strand => ?_, fun cluster => ?_, fun region => ?_, fun header => ?_, fun queue => ?_,
    fun context => ?_, fun engine => ?_⟩
  · and_intros <;> exact stops_of_misplaced (by simp only [outside core, Bool.false_and])
  · and_intros <;> exact stops_of_misplaced (by simp only [outside strand, Bool.and_false])
  · and_intros <;> exact stops_of_misplaced (outside cluster)
  · and_intros <;> exact stops_of_misplaced (outside region)
  · exact stops_of_misplaced (outside header)
  · and_intros <;> exact stops_of_misplaced (outside queue)
  · and_intros <;> exact stops_of_misplaced (outside context)
  · and_intros <;> exact stops_of_misplaced (outside engine)

end Sys2Proof.Machine
end

section
/-!
SUPPORT. Boot, the reset of a core and the host's accesses, each said once (R21, R65, R85, R161, R405).
-/

namespace Sys2Proof.Machine

/-! ## Sparse maps -/

/-- Changing every entry of a map changes what is found there. -/
theorem SMap.get?_map {α β : Type} (f : α → β) (m : SMap α) (k : Nat) :
    SMap.get? (m.map fun e => (e.1, f e.2)) k = (SMap.get? m k).map f := by
  induction m with
  | nil => rfl
  | cons e m ih =>
    simp only [List.map_cons, SMap.get?]
    split
    · rfl
    · exact ih

/-! ## Boot -/

/-- An image is taken as signed when both signatures verify and its form is right (R20). -/
theorem Flash.recordSigned_iff (f : Flash) :
    f.recordSigned = true ↔ f.recordRsa = true ∧ f.recordSlh = true ∧ f.recordFormed = true := by
  simp [Flash.recordSigned, and_assoc]

theorem Flash.firmwareSigned_iff (f : Flash) :
    f.firmwareSigned = true ↔ f.firmwareRsa = true ∧ f.firmwareSlh = true ∧ f.firmwareFormed = true := by
  simp [Flash.firmwareSigned, and_assoc]

/-- BOOTSTAT is the number of the first thing that the boot ROM finds wrong (R405). -/
theorem State.bootCode_eq (s : State) :
    s.bootCode = if ¬(s.flash.recordRsa = true ∧ s.flash.recordSlh = true ∧ s.flash.recordFormed = true) then 1
      else if ¬(s.flash.firmwareRsa = true ∧ s.flash.firmwareSlh = true ∧ s.flash.firmwareFormed = true) then 3
      else if s.mapRejected = true then 2 else if s.flash.memoryOk = false then 4 else 0 := by
  unfold State.bootCode
  simp only [← Flash.recordSigned_iff, ← Flash.firmwareSigned_iff, Bool.not_eq_true, Bool.not_eq_eq_eq_not, Bool.not_true]

/-- The rings around a core are those of the live graph, which says nothing of the boot (R61). -/
theorem State.spread_setBoot (s : State) (b : Bool) (n k d : Nat) (seen front : List Nat) :
    State.spread { s with booted := b, bootstat := n } k d seen front = s.spread k d seen front := by
  induction k generalizing d seen front with
  | zero => rfl
  | succ k ih =>
    have hf : State.frontier { s with booted := b, bootstat := n } seen front = s.frontier seen front := rfl
    simp only [State.spread, hf, ih]

theorem State.diameter_setBoot (s : State) (b : Bool) (n : Nat) :
    State.diameter { s with booted := b, bootstat := n } = s.diameter := by
  have hl : State.liveList { s with booted := b, bootstat := n } = s.liveList := rfl
  have hf : State.full { s with booted := b, bootstat := n } = s.full := rfl
  simp only [State.diameter, hl, hf, State.spread_setBoot]

/-- What is kept of a line beside it, with SEQ cleared. -/
def LineMeta.cleared (e : LineMeta) : LineMeta := { e with seq := 0 }

/-- What a boot that finds nothing wrong leaves (R65, R405). -/
def State.bootDone (s : State) : State :=
  { s with
    booted := true, bootstat := 0, ptcfg := s.flash.ptcfg &&& 0xFFFF00001F, netdiam := s.diameter.getD 0
    hmeta := s.hmeta.map fun e => (e.1, e.2.cleared) }

theorem exec_boot_ok {s : State} (hb : s.booted = false) (h : s.bootCode = 0) : exec .boot s = .next s.bootDone := by
  refine (if_neg (by simp [hb])).trans ((if_pos h).trans ?_)
  rw [State.diameter_setBoot, h]
  rfl

theorem exec_boot_bad {s : State} (hb : s.booted = false) (h : s.bootCode ≠ 0) :
    exec .boot s = .next { s with booted := true, bootstat := s.bootCode } :=
  (if_neg (by simp [hb])).trans (if_neg h)

/-- Boot clears the SEQ of every line (R73, R405). -/
theorem State.bootDone_seq (s : State) (ln : Nat) : (s.bootDone.lineMeta ln).seq = 0 := by
  have h : SMap.get? s.bootDone.hmeta ln = (SMap.get? s.hmeta ln).map LineMeta.cleared :=
    SMap.get?_map LineMeta.cleared s.hmeta ln
  rw [State.lineMeta, SMap.getD, h]
  cases SMap.get? s.hmeta ln <;> rfl

/-! ## The reset of a core -/

/-- The cocoons of a core have ended (R161, R381). -/
def State.endCocoons (s : State) (c : Nat) : State :=
  (List.range 4).foldl (fun s i => if (s.strand c i).cocoon.isSome then s.killStrand c i else s) s

/-- A core's nodes have left their groups (R324). -/
def State.leaveGroups (s : State) (c : Nat) : State :=
  { s with barGroups := s.barGroups.map fun (e : Nat × BarGroup) =>
      (e.1, { e.2 with done := SMap.erase e.2.done c, due := e.2.due.filter (· != c), rel := SMap.erase e.2.rel c }) }

/-- A core after its reset: what is not the core's own to lose stays. -/
def Core.afterReset (x : Core) : Core :=
  { Core.reset with
    dark := x.dark, fenced := x.fenced, bumps := x.bumps, errors := x.errors, placed := x.placed, heldPlaced := x.heldPlaced
    preempt := x.preempt, sliceFault := x.sliceFault, replies := x.replies.filter fun e => e.1 == 4
    strands := Vector.replicate 4 { Strand.reset with run := if x.fenced then .fenced else .idle } }

theorem exec_coreReset (s : State) {c : Nat} (h : c < 12288) :
    exec (.coreReset c) s = .next (((s.endCocoons c).leaveGroups c).setCore c ((s.endCocoons c).core c).afterReset) :=
  if_neg (by simp [h])

/-- A core without cocoons has none to end. -/
theorem State.endCocoons_of_none {s : State} {c : Nat} (h : ∀ i, (s.strand c i).cocoon = none) : s.endCocoons c = s :=
  List.foldl_fixed' (fun i => by simp [h i]) _

theorem Core.afterReset_strand (x : Core) {i : Nat} (h : i < 4) :
    x.afterReset.strand i = { Strand.reset with run := if x.fenced then .fenced else .idle } := by
  simp [Core.strand, Core.afterReset, h]

/-! ## The host's accesses -/

/-- A read of the host within one line is a request to the line's home (R85, R399). -/
theorem exec_hostRead {s : State} {pa n : Nat} (hp : pa < 2 ^ 40) (hb : s.bar2 = true) (hn : 0 < n) (hl : pa % 128 + n ≤ 128) :
    exec (.hostRead pa n) s =
      .next (s.request epHost (epSlice (s.homeOf (pa / 128))) 0 1 0 (.mem (.plain .read (pa / 128) (.host 0) none))) := by
  have ho : (!s.bar2 || decide (n = 0) || decide (128 < pa % 128 + n)) = false := by
    simp [hb, hl, hn.ne']
  exact (if_neg (by simpa using hp)).trans (if_neg (ne_true_of_eq_false ho))

/-- The write of bytes within one line that the host makes as a stream. -/
def hostWriteReq (pa : Nat) (data : List (BitVec 8)) (stream : Nat) : MemReq :=
  { op := .write, line := pa / 128, off := pa % 128, mask := byteMask (pa % 128) data.length
    data := BitVec.ofNat 1024 (bytesNum data) <<< (8 * (pa % 128)), who := .host stream, asid := none, px := none }

/-- A write of the host within one line is a request to the line's home, where no write of its stream is unanswered (R321, R399). -/
theorem exec_hostWrite {s : State} {pa stream : Nat} {data : List (BitVec 8)} (hp : pa < 2 ^ 40) (hb : s.bar2 = true) (hd : data ≠ [])
    (hl : pa % 128 + data.length ≤ 128) (hs : stream = 0 ∨ s.streamBusy stream = false) :
    exec (.hostWrite pa data stream) s =
      .next (s.request epHost (epSlice (s.homeOf (pa / 128))) 0 3 0 (.mem (hostWriteReq pa data stream))) := by
  have he : data.isEmpty = false := by simpa using hd
  have ht : (stream != 0 && s.streamBusy stream) = false := by
    rcases hs with rfl | hs
    · rfl
    · rw [hs, Bool.and_false]
  have ho : (!s.bar2 || data.isEmpty || decide (128 < pa % 128 + data.length) || (stream != 0 && s.streamBusy stream)) = false := by
    simp only [hb, he, ht, decide_eq_false (Nat.not_lt.mpr hl)]; rfl
  exact (if_neg (by simpa using hp)).trans (if_neg (ne_true_of_eq_false ho))

/-- Settles O52: boot by its code, a core reset by what it leaves of the core, the host's accesses as requests to the line's home. -/
theorem bootAndHostComplete : Obligations.BootAndHostComplete := by
  unfold Obligations.BootAndHostComplete
  refine ⟨fun s hb => ?_, fun s c hc => ⟨_, exec_coreReset s hc, fun i hi => ?_, ?_⟩, fun s pa => ⟨fun h => ?_, fun h hbar => ?_⟩⟩
  · dsimp only
    rw [← State.bootCode_eq]
    exact ⟨exec_boot_bad hb, fun h => ⟨_, exec_boot_ok hb h, rfl, rfl, rfl, fun d hd => by simp [State.bootDone, hd], s.bootDone_seq, rfl⟩⟩
  · have hstrand := Core.afterReset_strand ((s.endCocoons c).core c) hi
    refine ⟨?_, fun hnone => ?_⟩
    · simp [State.strand, hstrand]
    · rw [State.endCocoons_of_none hnone] at hstrand ⊢
      exact ⟨rfl, by simp [State.strand, hstrand]⟩
  · rw [State.core_setCore_same]
    exact ⟨rfl, rfl, rfl, rfl, rfl, rfl, rfl, rfl, rfl⟩
  · exact stops_of_misplaced (decide_eq_false (Nat.not_lt.mpr h))
  · exact ⟨fun n hn hl => ⟨_, exec_hostRead h hbar hn hl, State.request_effect _ _ _ _ _ _ _⟩,
      fun data stream hd hl hs => ⟨_, exec_hostWrite h hbar hd hl hs, State.request_effect _ _ _ _ _ _ _⟩⟩

end Sys2Proof.Machine
end

section
/-!
SUPPORT. How an instruction ends in a trap or in a wait, each said once (R168, R373); and what a sparse map holds once a key is erased.
-/

namespace Sys2Proof.Machine

/-- A synchronous cause outside a trap window, or one of the instruction itself, enters the handler where the core is resident. -/
theorem State.raiseAt_eq_enter {s : State} {c i num : Nat} {bad : W64} {via : Via} (hres : (s.core c).res = true)
    (hw : (s.strand c i).window = false ∨ via = .instr) :
    s.raiseAt c i num bad via = s.modStrand c i (·.enter { num, bad } (s.strand c i).pc) := by
  unfold State.raiseAt State.takeTrap
  rcases hw with hw | rfl
  · simp [hres, hw]
  · simp [hres]

theorem State.traps_of_raise {s : State} {num : Nat} {bad : W64} {via : Via} (hi : s.cur.2 < 4) (hres : s.myCore.res = true)
    (hw : s.me.window = false ∨ via = .instr) : Traps s (s.raise num bad via) num bad s.me.pc := by
  have he : s.raise num bad via = s.modMe (·.enter { num, bad } s.me.pc) := State.raiseAt_eq_enter hres hw
  rw [he]
  exact ⟨s.modStrand_only _ _ _, s.me_modMe _ hi⟩

theorem State.traps_of_raisePc {s : State} {num : Nat} (hi : s.cur.2 < 4) (hres : s.myCore.res = true) :
    Traps s (s.raisePc num) num s.me.pc s.me.pc :=
  State.traps_of_raise hi hres (.inr rfl)

theorem State.traps_of_raiseAcc {s : State} {num : Nat} {bad : W64} (hi : s.cur.2 < 4) (hres : s.myCore.res = true)
    (hw : s.me.window = false) : Traps s (s.raiseAcc num bad) num bad s.me.pc :=
  State.traps_of_raise hi hres (.inl hw)

theorem State.blocks_of_block {s : State} (w : Wait) (hi : s.cur.2 < 4) : Blocks s (s.block w) w :=
  ⟨s.modStrand_only _ _ fun t => { t with wait := w }, s.me_modMe _ hi⟩

theorem State.blocks_of_hold {s : State} (hi : s.cur.2 < 4) : Blocks s s.hold .hold := State.blocks_of_block .hold hi

/-- Retiring a strand's instruction where no STEP follows. -/
theorem State.retireAt_retires (s : State) (c : Nat) {i : Nat} (h : i < 4) (hu : ((s.strand c i).sstep && (s.strand c i).ie) = false) :
    RetiresAt c i s (s.retireAt c i) (s.strand c i) := by
  have he : (s.modStrand c i fun t => { t.retired (pcNext t.pc) with join4 := s.joinOf c i }).strand c i = s.past c i (s.strand c i) :=
    s.strand_modStrand_same c _ h
  have hs : (((s.strand c i).retired (pcNext (s.strand c i).pc)).sstep && ((s.strand c i).retired (pcNext (s.strand c i).pc)).ie) = false := by
    rw [Strand.retired_sstep, Strand.retired_ie]; exact hu
  have hr : s.retireAt c i = s.modStrand c i fun t => { t.retired (pcNext t.pc) with join4 := s.joinOf c i } :=
    State.stepTrap_off (by rw [he]; exact hs)
  rw [hr]
  exact ⟨s.modStrand_only _ _ _, he⟩

/-- What a map holds at a key is the default or one of its entries. -/
theorem SMap.getD_mem_or {α : Type} (m : SMap α) (k : Nat) (d : α) : SMap.getD m k d = d ∨ (k, SMap.getD m k d) ∈ m := by
  induction m with
  | nil => exact .inl rfl
  | cons e m ih =>
    obtain ⟨j, x⟩ := e
    by_cases hj : j = k
    · simp [SMap.getD, SMap.get?, hj]
    · simpa [SMap.getD, SMap.get?, hj, Ne.symm hj] using ih

/-- An entry of a map after a write is the one written or one of before. -/
theorem SMap.mem_set {α : Type} {m : SMap α} {k : Nat} {x : α} {e : Nat × α} (h : e ∈ SMap.set m k x) : e = (k, x) ∨ e ∈ m := by
  induction m with
  | nil => simpa [SMap.set] using h
  | cons a m ih =>
    obtain ⟨j, y⟩ := a
    unfold SMap.set at h
    split at h
    · simpa using h
    · split at h <;> grind

@[simp] theorem SMap.get?_erase_same {α : Type} (m : SMap α) (k : Nat) : SMap.get? (SMap.erase m k) k = none := by
  induction m with
  | nil => rfl
  | cons e m ih =>
    obtain ⟨j, x⟩ := e
    by_cases hj : j = k
    · simpa [SMap.erase, hj] using ih
    · simpa [SMap.erase, SMap.get?, hj] using ih

end Sys2Proof.Machine
end

section
/-!
PROOFS. Invalidation of translations: TLBINV and TLBINV.PG, the bump of a core and its acknowledgement (R43 to R45, R354).
-/

namespace Sys2Proof.Machine

/-- The cores that an invalidation is sent to: the strand's own and, under a context, those of its partition. -/
theorem State.bumpAll_blocks {s : State} (hi : s.cur.2 < 4) (asid : BitVec 16) (page : Option Nat) :
    ∃ mask, Blocks { s with uid := s.uid + 1, bumps := SMap.set s.bumps s.uid mask
                            bumpReqs := SMap.set s.bumpReqs s.uid (asid, page, s.cur.1, s.cur.2) }
        (s.bumpAll asid page) (.tlbinv s.uid) ∧ s.cur.1 ∈ mask ∧
      ∀ n, s.me.cocoon.bind (·.ctx) = some n → ∀ k ∈ s.partition n, k ∈ mask := by
  refine ⟨_, State.blocks_of_block _ hi, ?_, ?_⟩
  · split
    · split
      · rename_i hc; simpa using hc
      · exact List.mem_cons_self
    · exact List.mem_singleton_self _
  · intro n hn k hk
    rw [hn]
    dsimp only
    split
    · exact hk
    · exact List.mem_cons_of_mem _ hk

section Issue

variable {s : State} {a b : Opd} {p : Pred} (hb : Begins .no true p s)
include hb

theorem exec_tlbinv : exec (.tlbinv a p) s = .next (if s.me.src 0 a >>> 16 != 0 then s.raisePc cIllegalEncoding
    else if s.ptStores s.cur.1 s.cur.2 then s.hold else s.bumpAll ((s.me.src 0 a).setWidth 16) none) :=
  congrArg _ (State.begin_body hb _)

theorem exec_tlbinvPg_glob {va : Nat} (ha : s.me.src 0 a >>> 16 = 0) (hd : decodeAddr s.me.stkb (s.me.src 0 b) = some (.glob va))
    (hp : s.ptStores s.cur.1 s.cur.2 = false) :
    exec (.tlbinvPg a b p) s = .next (s.bumpAll ((s.me.src 0 a).setWidth 16) (some va)) := by
  refine congrArg _ ((State.begin_body hb _).trans ?_)
  simp only [ha, hd, hp, bne_self_eq_false, Bool.false_eq_true, if_false]

theorem exec_tlbinvPg_notGlob (ha : s.me.src 0 a >>> 16 = 0) (hd : ∀ va, decodeAddr s.me.stkb (s.me.src 0 b) ≠ some (.glob va)) :
    exec (.tlbinvPg a b p) s = .next (s.raiseAcc cAperture (s.me.src 0 b)) := by
  refine congrArg _ ((State.begin_body hb _).trans ?_)
  simp only [ha, bne_self_eq_false, Bool.false_eq_true, if_false]

end Issue

/-- A bump that a core applies: it has none under way, so none of the same ASID. -/
theorem exec_tlbBump_applies {s : State} {bid c k i : Nat} {asid : BitVec 16} {page : Option Nat} (hc : c < 12288)
    (hr : SMap.get? s.bumpReqs bid = some (asid, page, k, i)) (hm : c ∈ SMap.getD s.bumps bid []) (he : (s.core c).bumps = []) :
    exec (.tlbBump bid c) s = .next (s.modCore c fun x =>
      { x.bump asid page with bumps := x.bumps ++ [(bid, (x.walks.filter (·.asid == asid)).map (·.wid))] }) := by
  refine (if_neg (by simp [hc])).trans ?_
  rw [hr]
  exact if_neg (by simp [hm, he])

/-- What a core that applies a bump keeps of its TLBs. -/
theorem Core.mem_bump_tlb (x : Core) (asid : BitVec 16) (page : Option Nat) (e : TlbEntry) :
    (e ∈ (x.bump asid page).tlb1 ↔ e ∈ x.tlb1 ∧ (page = none → e.asid ≠ asid) ∧ ∀ va, page = some va → e.covers asid va = false) ∧
    (e ∈ (x.bump asid page).tlb2 ↔ e ∈ x.tlb2 ∧ (page = none → e.asid ≠ asid) ∧ ∀ va, page = some va → e.covers asid va = false) := by
  cases page <;> simp [Core.bump]

theorem Core.strand_bump (x : Core) (asid : BitVec 16) (page : Option Nat) {j : Nat} (hj : j < 4) :
    (x.bump asid page).strand j =
      if (x.strand j).asid.setWidth 16 = asid then { x.strand j with gen := (x.strand j).gen + 1 } else x.strand j := by
  simp [Core.strand, Core.bump, hj]

/-- A core has a walk of before a bump under way. -/
theorem Core.oldWalk_iff (x : Core) (bid : Nat) :
    x.oldWalk bid = true ↔ ∃ b ∈ x.bumps, b.1 = bid ∧ ∃ w ∈ x.walks, w.wid ∈ b.2 := by
  simp [Core.oldWalk]

/-- A core that has acknowledged a bump. -/
def Core.acked (x : Core) (bid : Nat) : Core := { x with bumps := x.bumps.filter (·.1 != bid) }

theorem State.acked_bumps (s : State) (bid c : Nat) : ∀ b ∈ ((s.modCore c (·.acked bid)).core c).bumps, b.1 ≠ bid := by
  simp [Core.acked]

theorem exec_bumpAck {s : State} {bid c k i : Nat} {asid : BitVec 16} {page : Option Nat} (hc : c < 12288)
    (hr : SMap.get? s.bumpReqs bid = some (asid, page, k, i)) :
    exec (.bumpAck bid c) s =
      if !(s.core c).bumps.any (·.1 == bid) || (s.core c).oldWalk bid then .next s
      else
        let left := (SMap.getD s.bumps bid []).filter (· != c)
        let s := s.modCore c (·.acked bid)
        if left.isEmpty then
          let s := { s with bumps := SMap.erase s.bumps bid, bumpReqs := SMap.erase s.bumpReqs bid }
          .next (if (s.strand k i).wait = .tlbinv bid then s.retireAt k i else s)
        else .next { s with bumps := SMap.set s.bumps bid left } := by
  refine (if_neg (by simp [hc])).trans ?_
  rw [hr]
  rfl

/-- An acknowledgement waits for the walks of before the bump. -/
theorem exec_bumpAck_waits {s : State} {bid c k i : Nat} {asid : BitVec 16} {page : Option Nat} (hc : c < 12288)
    (hr : SMap.get? s.bumpReqs bid = some (asid, page, k, i))
    (hw : ∃ b ∈ (s.core c).bumps, b.1 = bid ∧ ∃ w ∈ (s.core c).walks, w.wid ∈ b.2) : exec (.bumpAck bid c) s = .next s := by
  rw [exec_bumpAck hc hr, if_pos (by simp [(Core.oldWalk_iff _ _).mpr hw])]

/-- A strand is as before where its core has acknowledged a bump. -/
theorem State.strand_acked (s : State) (bid c k i : Nat) : (s.modCore c (·.acked bid)).strand k i = s.strand k i := by
  by_cases hk : k = c
  · subst hk; rw [State.strand, State.core_modCore_same]; rfl
  · rw [State.strand, State.core_modCore_other _ _ hk]; rfl

section Acknowledge

variable {s : State} {bid c k i : Nat} {asid : BitVec 16} {page : Option Nat} (hc : c < 12288)
  (hr : SMap.get? s.bumpReqs bid = some (asid, page, k, i)) (ha : ∃ b ∈ (s.core c).bumps, b.1 = bid)
  (ho : ∀ b ∈ (s.core c).bumps, b.1 = bid → ∀ w ∈ (s.core c).walks, w.wid ∉ b.2)
include hc hr ha ho

theorem exec_bumpAck_last (hl : SMap.getD s.bumps bid [] = [c]) (hw : (s.strand k i).wait = .tlbinv bid) :
    exec (.bumpAck bid c) s = .next (State.retireAt { s.modCore c (·.acked bid) with
      bumps := SMap.erase s.bumps bid, bumpReqs := SMap.erase s.bumpReqs bid } k i) := by
  have hold : (s.core c).oldWalk bid ≠ true := fun h => by
    obtain ⟨b, hb, e, w, hw, hm⟩ := (Core.oldWalk_iff _ _).mp h
    exact ho b hb e w hw hm
  rw [exec_bumpAck hc hr, if_neg (by simpa [hold] using ha)]
  simp only [hl]
  refine (if_pos (by simp)).trans (congrArg _ (if_pos ?_))
  exact (congrArg Strand.wait (s.strand_acked bid c k i)).trans hw

theorem exec_bumpAck_more {j : Nat} (hj : j ≠ c) (hm : j ∈ SMap.getD s.bumps bid []) :
    exec (.bumpAck bid c) s = .next { s.modCore c (·.acked bid) with
      bumps := SMap.set s.bumps bid ((SMap.getD s.bumps bid []).filter (· != c)) } := by
  have hold : (s.core c).oldWalk bid ≠ true := fun h => by
    obtain ⟨b, hb, e, w, hw, hm⟩ := (Core.oldWalk_iff _ _).mp h
    exact ho b hb e w hw hm
  rw [exec_bumpAck hc hr, if_neg (by simpa [hold] using ha)]
  exact if_neg (by simpa using ⟨j, hm, hj⟩)

end Acknowledge

/-- Settles O49: an instruction that begins sends its bump by `State.bumpAll_blocks`, a core applies it by `Core.bump`, and the
acknowledgement splits on the walks of before the bump and on whether it is the last. -/
theorem invalidationsComplete : Obligations.InvalidationsComplete := by
  unfold Obligations.InvalidationsComplete
  refine ⟨fun s a p hb => ?_, fun s bid c k i asid page hc hi hr => ?_⟩
  · obtain ⟨hi, -⟩ := id hb
    refine ⟨fun ha hp => ?_, fun ha hp => ?_, fun ha hres => ?_, fun b => ⟨fun va ha hd hp => ?_, fun ha hd hw hres => ?_⟩⟩
    · obtain ⟨mask, hm⟩ := State.bumpAll_blocks hi ((s.me.src 0 a).setWidth 16) none
      exact ⟨_, mask, (exec_tlbinv hb).trans (by simp only [ha, hp, bne_self_eq_false, Bool.false_eq_true, if_false]), hm⟩
    · exact ⟨_, (exec_tlbinv hb).trans (by simp only [ha, hp, bne_self_eq_false, Bool.false_eq_true, if_false, if_true]),
        State.blocks_of_hold hi⟩
    · exact ⟨_, (exec_tlbinv hb).trans (congrArg _ (if_pos (bne_iff_ne.mpr ha))), State.traps_of_raisePc hi hres⟩
    · obtain ⟨mask, hm⟩ := State.bumpAll_blocks hi ((s.me.src 0 a).setWidth 16) (some va)
      exact ⟨_, mask, exec_tlbinvPg_glob hb ha hd hp, hm⟩
    · exact ⟨_, exec_tlbinvPg_notGlob hb ha hd, State.traps_of_raiseAcc hi hres hw⟩
  · refine ⟨fun hm he => ?_, exec_bumpAck_waits hc hr, fun ha ho => ?_⟩
    · refine ⟨_, exec_tlbBump_applies hc hr hm he, fun j hj => State.core_modCore_other _ _ hj, rfl, ?_, ?_, ?_⟩
      · refine ⟨_, by rw [State.core_modCore_same, he]; rfl, fun w => ?_⟩
        simp [and_assoc]
      · rw [State.core_modCore_same]
        exact Core.mem_bump_tlb _ asid page
      · intro j hj
        rw [State.strand, State.core_modCore_same]
        exact Core.strand_bump _ asid page hj
    · refine ⟨fun hl hw hst => ?_, fun j hj hm => ?_⟩
      · have hs := s.strand_acked bid c k i
        obtain ⟨⟨ht, hcore, -⟩, hp⟩ := State.retireAt_retires { s.modCore c (·.acked bid) with
          bumps := SMap.erase s.bumps bid, bumpReqs := SMap.erase s.bumpReqs bid } k hi ((congrArg (fun u => u.sstep && u.ie) hs).trans hst)
        refine ⟨_, exec_bumpAck_last hc hr ha ho hl hw, ?_, ?_, hp.trans ?_⟩
        · rw [ht]; exact SMap.get?_erase_same _ _
        · rw [hcore]; exact s.acked_bumps bid c
        · exact congrArg (fun u => { u.retired (pcNext u.pc) with join4 := if pcSlot u.pc < 4 then [] else u.join4 }) hs
      · exact ⟨_, exec_bumpAck_more hc hr ha ho hj hm, SMap.getD_set_same _ _ _ _, s.acked_bumps bid c, s.strand_acked bid c k i⟩

end Sys2Proof.Machine
end

section
/-!
PROOFS. The traps of scalar accesses: alignment, apertures and what the banks, tiles and modes refuse, in the order of R210, and RED
in the local store (R25, R105, R110, R121, R304, R309).
-/

namespace Sys2Proof.Machine

/-! ## One lane -/

theorem State.checkLane_misaligned {s : State} {c i n : Nat} {acc : AccTy} {need : Need} {a : W64} (ha : a.toNat % n ≠ 0) :
    s.checkLane c i n acc need a = .error (s.raiseAcc cAlign a) :=
  if_pos (bne_iff_ne.mpr ha)

theorem State.checkLane_outside {s : State} {c i n : Nat} {acc : AccTy} {need : Need} {a b : W64} (ha : a.toNat % n = 0)
    (hd : decodeSpan (s.strand c i).stkb a n = .error b) : s.checkLane c i n acc need a = .error (s.raiseAcc cAperture b) := by
  simp [State.checkLane, State.target, localOf, ha, hd]

/-- The places of an address that lies in a core's own local store (R24). -/
theorem decodeSpan_of_localOf {c n off : Nat} {stkb a : W64} (h : localOf c stkb a n = some off) :
    decodeSpan stkb a n = .ok (.loc off) ∨ decodeSpan stkb a n = .ok (.win c off) := by
  unfold localOf at h
  split at h
  · simp_all
  · split at h <;> simp_all
  · cases h

theorem State.checkLane_refused {s : State} {c i n off k : Nat} {acc : AccTy} {need : Need} {a : W64} (ha : a.toNat % n = 0)
    (hl : localOf c (s.strand c i).stkb a n = some off) (hc : (s.core c).changing off n = false)
    (hr : (s.core c).localRefusal off n need.prv = some k) : s.checkLane c i n acc need a = .error (s.raiseAcc k a) := by
  have ht : s.target c (s.strand c i).stkb a n need.prv = .error (k, a) := by
    rcases decodeSpan_of_localOf hl with hd | hd <;> simp [State.target, hd, hr]
  simp [State.checkLane, ha, hl, hc, ht]

/-- A load or a store whose one lane ends in a trap ends in it. -/
theorem exec_access_of_checkLane {x : MemA} {s t : State} (hb : Begins .no false x.p s)
    (h : ∀ acc need, Need.prv need = s.me.prv → s.checkLane s.cur.1 s.cur.2 (szBytes x.sz) acc need (memAddr x s.me) = .error t) :
    ∀ i ∈ [Instr.ld x, .st x, .stP x], exec i s = .next t := by
  have hl : ∀ acc need, Need.prv need = s.me.prv →
      s.checkLanes s.cur.1 s.cur.2 (szBytes x.sz) acc need [(0, memAddr x s.me)] = .stop t := fun acc need hn => by
    simp only [State.checkLanes, h acc need hn]
  intro i hi
  simp only [List.mem_cons, List.not_mem_nil, or_false] at hi
  rcases hi with rfl | rfl | rfl
  · exact congrArg _ ((State.begin_body hb _).trans (by simp only [State.loadLanes, hl _ (.load s.me.prv) rfl]))
  · exact congrArg _ ((State.begin_body hb _).trans (by simp only [State.storeLanes, hl _ (.store s.me.prv) rfl]))
  · exact congrArg _ ((State.begin_body hb _).trans (by simp only [State.storeLanes, hl _ (.store s.me.prv) rfl]))

/-! ## What the banks, tiles and modes refuse -/

/-- The banks that an access touches include one in another mode. -/
theorem Core.modeRefused_iff (x : Core) (off n : Nat) :
    ((List.range ((off + n - 1) / 8192 + 1 - off / 8192)).any fun k => x.mode (off / 8192 + k) != 0) = true ↔
      ∃ k, off / 8192 ≤ k ∧ k ≤ (off + n - 1) / 8192 ∧ x.mode k ≠ 0 := by
  simp only [List.any_eq_true, List.mem_range, bne_iff_ne]
  constructor
  · rintro ⟨k, hk, hm⟩
    exact ⟨off / 8192 + k, by omega, by omega, hm⟩
  · rintro ⟨k, hb, he, hm⟩
    exact ⟨k - off / 8192, by omega, by rwa [Nat.add_sub_cancel' hb]⟩

theorem Core.localRefusal_mode {x : Core} {off n : Nat} {prv : Bool}
    (h : ∃ k, off / 8192 ≤ k ∧ k ≤ (off + n - 1) / 8192 ∧ x.mode k ≠ 0) : x.localRefusal off n prv = some cBankMode :=
  if_pos ((x.modeRefused_iff off n).mpr h)

/-- Where every bank is in mode 0, the last bank is the supervisor's while the core is resident, and then the tiles are asked. -/
theorem Core.localRefusal_plain {x : Core} {off n : Nat} {prv : Bool} (ho : off + n ≤ 524288)
    (h : ∀ k, off / 8192 ≤ k → k ≤ (off + n - 1) / 8192 → x.mode k = 0) :
    x.localRefusal off n prv = if 516096 < off + n ∧ x.res = true ∧ prv = false then some cProtection
      else if x.tileBusy off n then some cTileState else none := by
  have hm : ¬ ((List.range ((off + n - 1) / 8192 + 1 - off / 8192)).any fun k => x.mode (off / 8192 + k) != 0) = true := fun e => by
    obtain ⟨k, hb, he, hk⟩ := (x.modeRefused_iff off n).mp e
    exact hk (h k hb he)
  have he : (off + n - 1) / 8192 = 63 ↔ 516096 < off + n := by omega
  refine (if_neg hm).trans (if_congr ?_ rfl rfl)
  simp [he, and_assoc]

/-! ## The statement -/

/-- RED traps where its address lies in a local store (R304). -/
theorem exec_red_local {x : Am} {s : State} {off : Nat} (hb : Begins .no false x.p s)
    (hl : LocalOk s (amAddr x s.me) (etyWidth x.ty / 8) off) : exec (.red x) s = .next (s.raiseAcc cAperture (amAddr x s.me)) := by
  obtain ⟨ha, ho, -, -⟩ := hl
  refine congrArg _ ((State.begin_body hb _).trans ?_)
  rcases decodeSpan_of_localOf ho with hd | hd <;> simp [ha, hd]

/-- Settles O23: each cause is the outcome of the check of the access's one lane, in the order of R210; what the core refuses is read off
`Core.localRefusal`. -/
theorem accessTraps : Obligations.AccessTraps := by
  unfold Obligations.AccessTraps
  refine ⟨fun x s hb hres hw i hi => ?_, fun x off n prv _ ho => ⟨Core.localRefusal_mode, fun hm => ?_⟩, fun x s off hb hres hw hl => ?_⟩
  · obtain ⟨h4, -⟩ := id hb
    refine ⟨fun ha => ?_, fun b ha hd => ?_, fun off k ha hl hc hr => ?_⟩
    · exact ⟨_, exec_access_of_checkLane hb (fun _ _ _ => State.checkLane_misaligned ha) i hi, State.traps_of_raiseAcc h4 hres hw⟩
    · exact ⟨_, exec_access_of_checkLane hb (fun _ _ _ => State.checkLane_outside ha hd) i hi, State.traps_of_raiseAcc h4 hres hw⟩
    · exact ⟨_, exec_access_of_checkLane hb (fun _ _ hn => State.checkLane_refused ha hl hc (hn ▸ hr)) i hi,
        State.traps_of_raiseAcc h4 hres hw⟩
  · rw [Core.localRefusal_plain ho hm]
    refine ⟨fun h1 h2 h3 => if_pos ⟨h1, h2, h3⟩, fun h => if_neg fun ⟨h1, h2, h3⟩ => ?_⟩
    rcases h with h | h | h
    · omega
    · simp [h2] at h
    · simp [h3] at h
  · exact ⟨_, exec_red_local hb hl, State.traps_of_raiseAcc hb.1 hres hw⟩

end Sys2Proof.Machine
end

section
/-!
SUPPORT. What a message sent, an answer taken from the inbox and an update of one core leave of the other cores and strands.
-/

namespace Sys2Proof.Machine

/-- An answer puts one message on its way, as a request does. -/
theorem State.answer_effect (s : State) (src dest cls nf tag : Nat) (body : Body) :
    NetOnly s (s.answer src dest cls nf tag body) ∧ Mails s (s.answer src dest cls nf tag body) src dest cls 0 body := by
  unfold State.answer State.sendTag State.sendVia
  rw [State.sendMsg_effect]
  exact ⟨rfl, _, rfl, rfl, rfl, rfl, rfl, rfl, rfl, rfl⟩

/-- A refusal that asks for another try puts the message back on its way as the body of one to its sender (R112). -/
theorem State.refuse_retry_effect (s : State) (m : Msg) (k : Nat) (hc : m.cancel = false) :
    NetOnly s (s.refuse m (.retry k)) ∧ Mails s (s.refuse m (.retry k)) m.dest m.src 2 k (.retry m.body) := by
  simp only [State.refuse]
  rw [State.sendMsg_effect]
  exact ⟨rfl, _, rfl, rfl, rfl, rfl, rfl, hc, rfl, rfl⟩

theorem NetOnly.core {s t : State} (h : NetOnly s t) (c : Nat) : t.core c = s.core c := by
  rw [NetOnly] at h; rw [h]; rfl

theorem NetOnly.strand {s t : State} (h : NetOnly s t) (c i : Nat) : t.strand c i = s.strand c i := by
  rw [State.strand, h.core]; rfl

/-- Messages that are sent after a change of the cores are the only other change. -/
theorem NetOnly.of_cores {s t : State} {l : SMap Core} (h : NetOnly { s with cores := l } t) : NetOnly { s with cores := t.cores } t := by
  rw [NetOnly] at h ⊢; rw [h]

theorem State.strand_modCore_keep (s : State) (c k j : Nat) {f : Core → Core} (h : ∀ x, (f x).strands = x.strands) :
    (s.modCore c f).strand k j = s.strand k j := by
  by_cases hk : k = c
  · subst hk; rw [State.strand, State.core_modCore_same, Core.strand, h]; rfl
  · rw [State.strand, State.core_modCore_other _ _ hk]; rfl

end Sys2Proof.Machine
end

section
/-!
PROOFS. Instruction lines that arrive (R28, R176, R177).
-/

namespace Sys2Proof.Machine

theorem find?_eq_some_of_unique {α : Type} {l : List α} {q : α → Bool} {a : α} (ha : a ∈ l) (hq : q a = true)
    (h : ∀ b ∈ l, q b = true → b = a) : l.find? q = some a := by
  cases hf : l.find? q with
  | none => exact absurd hq (List.find?_eq_none.mp hf a ha)
  | some b => rw [h b (List.mem_of_find?_eq_some hf) (List.find?_some hf)]

/-- A line read whole is installed first in its core's instruction cache, and its strand waits no longer. -/
theorem State.installILine_installs {s : State} {c i : Nat} {line : W64} {b : BitVec 512} (hi : i < 4) (hp : lineParityOk b = true)
    (h2 : EnvErr.parity c line true ∉ s.env) (h1 : EnvErr.parity c line false ∉ s.env) :
    s.installILine c i line b = { s with cores := (s.installILine c i line b).cores } ∧
      (s.installILine c i line b).strand c i = { s.strand c i with wait := .no } ∧
      ((s.installILine c i line b).core c).icache.head? =
        some { line, asid := (s.strand c i).asid.setWidth 16, bytes := b, bad := 0 } := by
  have e2 : s.env.contains (.parity c line true) = false := by simpa using h2
  have e1 : s.env.contains (.parity c line false) = false := by simpa using h1
  simp only [State.installILine, e1, e2, hp, Bool.false_eq_true, if_false, Bool.not_false, Bool.and_true, if_true]
  refine ⟨rfl, ?_, ?_⟩
  · rw [State.strand_modStrand_same _ _ _ hi, State.strand_modCore_keep]
    exact fun _ => rfl
  · rw [State.core_modStrand, State.core_modCore_same]
    rfl

/-- A strand that waits for a line of its own local store has it installed from there (R28). -/
theorem exec_instructionLineFill_local {s : State} {c i off n : Nat} {line : W64} (hc : c < 12288) (hi : i < 4)
    (hw : (s.strand c i).wait = .fetch line n) (hd : decodeAddr (s.strand c i).stkb line = some (.loc off))
    (hch : (s.core c).changing off 64 = false) (hm : (s.core c).mode (off / 8192) = 0) :
    exec (.instructionLineFill c i) s = .next (s.installILine c i line (BitVec.ofNat 512 ((s.core c).ls.num off 64))) := by
  refine (if_neg (by simp [hc, hi])).trans ?_
  simp only [hw, hd, hch, hm, bne_self_eq_false, Bool.false_eq_true, if_false]

section Home

variable {s : State} {c i n va : Nat} {line : W64} {p : Page} {m : Msg} {kind : Nat} {seq : W32} {px : Bool} {data : Option W1024}
  {req : MemReq} (hc : c < 12288) (hi : i < 4) (hw : (s.strand c i).wait = .fetch line n)
  (hd : decodeAddr (s.strand c i).stkb line = some (.glob va)) (hm : m ∈ s.inbox) (hmc : m.dest = c)
  (hb : m.body = .ans (.fetch c i n) kind seq px data req)
  (hone : ∀ k ∈ s.inbox, k.dest = c → (∃ x, k.body.isOf (.fetch c i x) = true) → k = m)
  (hp : (s.core c).tlbFind ((s.strand c i).asid.setWidth 16) va = some p) (hx : p.permits (.fetch (s.strand c i).prv) = true)
  (hl : pageAddr p va / 128 = req.line)
include hc hi hw hd hm hmc hb hone hp hx hl

/-- The answer to the fetch of a line whose page still holds it (R176, log 9). -/
theorem exec_instructionLineFill_home : exec (.instructionLineFill c i) s = .next (data.elim
    (((s.consume m.uid).modStrand c i fun t => { t with wait := .no }).raiseAt c i cMemPoison line .fetch)
    fun d => (s.consume m.uid).installILine c i line (d.extractLsb' (8 * (line.toNat % 128)) 512)) := by
  refine (if_neg (by simp [hc, hi])).trans ?_
  dsimp only
  rw [find?_eq_some_of_unique hm (by simp [hmc, hb]) fun k hk hq => hone k hk ?_ ?_]
  · have hp' : ((s.consume m.uid).core c).tlbFind ((s.strand c i).asid.setWidth 16) va = some p := hp
    simp only [hw, hd, hb, hp', hx, hl, Option.filter_some, beq_self_eq_true, if_true, Option.any_some, Bool.and_self, Bool.not_true,
      Bool.false_eq_true, if_false]
    cases data <;> rfl
  · simp only [Bool.and_eq_true, beq_iff_eq] at hq
    exact hq.1
  · simp only [Bool.and_eq_true, beq_iff_eq] at hq
    obtain ⟨-, hq⟩ := hq
    split at hq
    · rename_i j i' x _ _ _ _ _ hk
      obtain ⟨rfl, rfl⟩ : j = c ∧ i' = i := by simpa using hq
      exact ⟨x, by simp [hk, Body.isOf]⟩
    · cases hq

end Home

/-- A line read poisoned is a trap of its strand, which enters the handler (R177). -/
theorem State.raiseAt_modStrand {s : State} {c i num : Nat} {bad : W64} {via : Via} {f : Strand → Strand} (hi : i < 4)
    (hw : (f (s.strand c i)).window = false) (hres : (s.core c).res = true) :
    let t := (s.modStrand c i f).raiseAt c i num bad via
    t = { s with cores := t.cores } ∧ (∀ k, t.core k = { s.core k with strands := (t.core k).strands }) ∧
      t.strand c i = (f (s.strand c i)).enter { num, bad } (f (s.strand c i)).pc := by
  have hs : (s.modStrand c i f).strand c i = f (s.strand c i) := s.strand_modStrand_same c f hi
  have hr : ((s.modStrand c i f).core c).res = true := by rw [State.core_modStrand]; exact hres
  rw [State.raiseAt_eq_enter hr (.inl (by rw [hs]; exact hw)), hs]
  obtain ⟨ht, hc, -⟩ := (s.modStrand_only c i f).trans
    (State.modStrand_only (s.modStrand c i f) c i (·.enter { num, bad } (f (s.strand c i)).pc))
  exact ⟨ht, hc, by rw [State.strand_modStrand_same _ _ _ hi, hs]⟩

end Sys2Proof.Machine
end

section
/-!
PROOFS. Window accesses that arrive and answers to posted operations (R105, R106, R375, R376).
-/

namespace Sys2Proof.Machine

section Window

variable {s : State} {uid : Nat} {m : Msg} {who : Who} {p : Piece} {amo : Option AmoReq} {store prv : Bool} (hm : s.msg? uid = some m)
  (hb : m.body = .win who p amo store prv) (hi : s.imaging m.dest = false)
include hm hb hi

theorem exec_windowAccess_refused {k : Nat} (hk : s.windowRefusal m.dest p.off p.n prv = some k) :
    exec (.windowAccess uid) s = .next ((s.consume uid).answer m.dest m.src 2 1 m.tag (.winAns who k 0)) := by
  have hk' : (s.consume uid).windowRefusal m.dest p.off p.n prv = some k := hk
  change execWindowAccess uid s = _
  simp only [execWindowAccess, hm, hb, hi, hk', Bool.false_eq_true, if_false]

/-- A window access that is not refused: what it does to the store of the core it arrives at, and its answer. -/
theorem exec_windowAccess_performed (hk : s.windowRefusal m.dest p.off p.n prv = none) :
    let ls := (s.core m.dest).ls
    let old := BitVec.ofNat 1024 (ls.num p.off p.n)
    exec (.windowAccess uid) s = .next (match amo with
      | some a => ((s.consume uid).modCore m.dest fun x =>
          { x with ls := ls.writeNum p.off (etyWidth a.ty / 8) (amoNew a (ls.num p.off (etyWidth a.ty / 8))) }).answer m.dest m.src 1 3 m.tag
            (.winAns who 0 old)
      | none => if store then ((s.consume uid).modCore m.dest fun x =>
          if p.n = 8 && p.mask == byteMask 0 8 then x.storeLocal p.off 8 (p.data.toNat % 2 ^ 64)
          else { x with ls := ls.writeLine p.off p.data p.mask }).answer m.dest m.src 2 1 m.tag (.winAns who 0 0)
        else (s.consume uid).answer m.dest m.src 1 3 m.tag (.winAns who 0 old)) := by
  have hk' : (s.consume uid).windowRefusal m.dest p.off p.n prv = none := hk
  change execWindowAccess uid s = _
  simp only [execWindowAccess, hm, hb, hi, hk', Bool.false_eq_true, if_false]
  cases amo with
  | some a => rfl
  | none => cases store <;> rfl

end Window

/-- An answer sent after a change of one core. -/
theorem State.answer_modCore (s : State) (c : Nat) (f : Core → Core) (src dest cls nf tag : Nat) (body : Body) :
    let t := (s.modCore c f).answer src dest cls nf tag body
    NetOnly { s with cores := t.cores } t ∧ t.core c = f (s.core c) ∧ (∀ k, k ≠ c → t.core k = s.core k) ∧
      Mails s t src dest cls 0 body := by
  obtain ⟨hn, hm⟩ := (s.modCore c f).answer_effect src dest cls nf tag body
  exact ⟨hn.of_cores, (hn.core c).trans (s.core_modCore_same c f), fun k hk => (hn.core k).trans (s.core_modCore_other f hk), hm⟩

@[simp] theorem Core.storeLocal_ls (x : Core) (off n v : Nat) : (x.storeLocal off n v).ls = x.ls.writeNum off n v := by
  unfold Core.storeLocal
  dsimp only
  split <;> rfl

theorem windowAccess_arrives {s : State} {uid : Nat} {m : Msg} {who : Who} {p : Piece} {amo : Option AmoReq} {store prv : Bool}
    (hm : s.msg? uid = some m) (hb : m.body = .win who p amo store prv) (hi : s.imaging m.dest = false) :
    let c := m.dest
    let ls := (s.core c).ls
    let gives := fun (ls' : Memory) (cls : Nat) (d : W1024) => ∃ t, exec (.windowAccess uid) s = .next t ∧
      NetOnly { s.consume uid with cores := t.cores } t ∧ (t.core c).ls = ls' ∧ (∀ k, k ≠ c → t.core k = s.core k) ∧
      Mails s t c m.src cls 0 (.winAns who 0 d)
    s.windowRefusal c p.off p.n prv = none →
      (∀ a, amo = some a → gives (ls.writeNum p.off (etyWidth a.ty / 8) (amoNew a (ls.num p.off (etyWidth a.ty / 8)))) 1
        (BitVec.ofNat 1024 (ls.num p.off p.n))) ∧
      (amo = none → store = true → p.n ≠ 8 ∨ p.mask ≠ byteMask 0 8 → gives (ls.writeLine p.off p.data p.mask) 2 0) ∧
      (amo = none → store = true → p.n = 8 → p.mask = byteMask 0 8 → gives (ls.writeNum p.off 8 (p.data.toNat % 2 ^ 64)) 2 0) ∧
      (amo = none → store = false → gives ls 1 (BitVec.ofNat 1024 (ls.num p.off p.n))) := by
  intro c ls gives hk
  have he := exec_windowAccess_performed hm hb hi hk
  refine ⟨?_, ?_, ?_, ?_⟩
  · rintro a rfl
    obtain ⟨hn, hc, ho, hs⟩ := (s.consume uid).answer_modCore m.dest (fun x =>
      { x with ls := ls.writeNum p.off (etyWidth a.ty / 8) (amoNew a (ls.num p.off (etyWidth a.ty / 8))) }) c m.src 1 3 m.tag
      (.winAns who 0 (BitVec.ofNat 1024 (ls.num p.off p.n)))
    exact ⟨_, he, hn, congrArg Core.ls hc, ho, hs⟩
  · rintro rfl rfl hp
    obtain ⟨hn, hc, ho, hs⟩ := (s.consume uid).answer_modCore m.dest (fun x =>
      if p.n = 8 && p.mask == byteMask 0 8 then x.storeLocal p.off 8 (p.data.toNat % 2 ^ 64)
      else { x with ls := ls.writeLine p.off p.data p.mask }) c m.src 2 1 m.tag (.winAns who 0 0)
    exact ⟨_, he, hn, (congrArg Core.ls hc).trans (congrArg Core.ls (if_neg (by simpa [← imp_iff_not_or] using hp))), ho, hs⟩
  · rintro rfl rfl h8 hp
    obtain ⟨hn, hc, ho, hs⟩ := (s.consume uid).answer_modCore m.dest (fun x =>
      if p.n = 8 && p.mask == byteMask 0 8 then x.storeLocal p.off 8 (p.data.toNat % 2 ^ 64)
      else { x with ls := ls.writeLine p.off p.data p.mask }) c m.src 2 1 m.tag (.winAns who 0 0)
    exact ⟨_, he, hn, (congrArg Core.ls hc).trans ((congrArg Core.ls (if_pos (by simp [h8, hp]))).trans (Core.storeLocal_ls _ _ _ _)), ho, hs⟩
  · rintro rfl rfl
    obtain ⟨hn, hs⟩ := (s.consume uid).answer_effect c m.src 1 3 m.tag (.winAns who 0 (BitVec.ofNat 1024 (ls.num p.off p.n)))
    exact ⟨_, he, NetOnly.of_cores (l := s.cores) hn, congrArg Core.ls (hn.core c), fun k _ => hn.core k, hs⟩

/-! ## Posted operations -/

/-- Where no RED of the core is held back, none goes on its way. -/
theorem State.redNext_of_none {s : State} {c : Nat} (e : Journal) (h : ∀ k ∈ (s.core c).journal, k.2.heldRed = none) :
    s.redNext c e = s := by
  unfold State.redNext
  dsimp only
  rw [List.filter_eq_nil_iff.mpr fun k hk => by simp [h k hk]]
  rfl

section Posted

variable {s : State} {c j : Nat} (hst : ((s.core c).jent j).st = .sent) (h4 : ((s.core c).jent j).strand < 4)
  (hred : ∀ k ∈ (s.core c).journal, k.2.heldRed = none)
include hst h4 hred

/-- The answer that a posted operation has been performed frees its journal entry (R106). -/
theorem State.postedAnswer_frees : let e := (s.core c).jent j
    let t := s.postedAnswer c j 0
    t = { s with cores := t.cores } ∧ SMap.get? (t.core c).journal j = none ∧
      t.strand c e.strand = { s.strand c e.strand with rsc := (s.strand c e.strand).rsc - 1 } := by
  intro e t
  have he : t = ((s.modCore c fun x => { x with journal := SMap.erase x.journal j }).modStrand c e.strand
      fun t => { t with rsc := t.rsc - 1 }).redNext c e := by
    have h4' : ¬ 4 ≤ e.strand := Nat.not_le.mpr h4
    simp only [t, State.postedAnswer, hst, bne_self_eq_false, Bool.false_eq_true, if_false, if_true, decide_true, Bool.or_true]
    rw [if_neg h4']
  rw [State.redNext_of_none] at he
  · rw [he]
    refine ⟨rfl, ?_, ?_⟩
    · rw [State.core_modStrand, State.core_modCore_same]
      exact SMap.get?_erase_same _ _
    · rw [State.strand_modStrand_same _ _ _ h4, State.strand_modCore_keep]
      exact fun _ => rfl
  · rw [State.core_modStrand, State.core_modCore_same]
    exact fun k hk => hred k (List.mem_of_mem_filter hk)

/-- The answer that a posted operation is refused for good leaves its entry REFUSED with the reason, and one cause pending (R375, R376). -/
theorem State.postedAnswer_refuses {reason : Nat} (hr : reason ≠ 0) : let e := (s.core c).jent j
    let t := s.postedAnswer c j reason
    t = { s with cores := t.cores } ∧ (t.strand c e.strand).qfree = (s.strand c e.strand).qfree ∧
      (t.core c).jent j = { e with st := .refused, reason } ∧ (t.strand c e.strand).pend.getLsbD 0 = true ∧
      (t.strand c e.strand).rsc = (s.strand c e.strand).rsc - 1 := by
  intro e t
  have hnone : e.heldRed = none := by
    rcases SMap.getD_mem_or (s.core c).journal j .reset with h | h
    · exact (congrArg Journal.heldRed h).trans rfl
    · exact hred _ h
  have he : t = (((s.modCore c (·.setJent j { e with st := .refused, reason, heldRed := none })).modStrand c e.strand
      fun t => { t with rsc := t.rsc - 1 }).pendBit c e.strand 0).redNext c e := by
    have h4' : ¬ 4 ≤ ((s.core c).jent j).strand := Nat.not_le.mpr h4
    have h4e : ¬ ((s.core c).jent j).strand = 4 := Nat.ne_of_lt h4
    simp only [t, e, State.postedAnswer, hst, h4', h4e, hr, bne_self_eq_false, decide_false, Bool.or_self, Bool.false_eq_true, if_false]
  rw [State.redNext_of_none] at he
  · have hs : t.strand c e.strand = { s.strand c e.strand with
        rsc := (s.strand c e.strand).rsc - 1, pend := setBit (s.strand c e.strand).pend 0 true
        behind := (s.strand c e.strand).behind ||| ((1 : BitVec 8) <<< 0) } := by
      rw [he, State.pendBit, State.strand_modStrand_same _ _ _ h4, State.strand_modStrand_same _ _ _ h4, State.strand_modCore_keep]
      exact fun _ => rfl
    refine ⟨by rw [he]; rfl, by rw [hs], ?_, by rw [hs]; simp [setBit], by rw [hs]⟩
    rw [he, State.pendBit, Core.jent, State.core_modStrand, State.core_modStrand, State.core_modCore_same]
    exact (SMap.getD_set_same _ _ _ _).trans (by rw [← hnone])
  · rw [State.pendBit, State.core_modStrand, State.core_modStrand, State.core_modCore_same]
    intro k hk
    rcases SMap.mem_set hk with rfl | hk
    · rfl
    · exact hred k hk

end Posted

/-- The FREE that an accepted push's answer leaves for QFREE (R112). -/
theorem State.keepFree_keeps {s : State} {c j : Nat} (free : Nat) (hst : ((s.core c).jent j).st = .sent)
    (h4 : ((s.core c).jent j).strand < 4) : let e := (s.core c).jent j
    let t := s.keepFree c j free
    t = { s with cores := t.cores } ∧ t.core c = { s.core c with strands := (t.core c).strands } ∧
      t.strand c e.strand = { s.strand c e.strand with qfree := BitVec.ofNat 64 free, qaddr := e.addr } := by
  intro e t
  have he : t = s.modStrand c e.strand fun t => { t with qfree := BitVec.ofNat 64 free, qaddr := e.addr } :=
    if_pos (by simp [hst, h4])
  rw [he]
  exact ⟨rfl, State.core_modStrand _ _ _ _ _, State.strand_modStrand_same _ _ _ h4⟩

section Push

variable {s : State} {c j : Nat} (hst : ((s.core c).jent j).st = .sent) (h4 : ((s.core c).jent j).strand < 4)
  (hred : ∀ k ∈ (s.core c).journal, k.2.heldRed = none)
include hst h4 hred

/-- The answer to an accepted push frees its entry and leaves its FREE. -/
theorem State.pushAnswer_frees (free : Nat) : let e := (s.core c).jent j
    let t := (s.keepFree c j free).postedAnswer c j 0
    t = { s with cores := t.cores } ∧ SMap.get? (t.core c).journal j = none ∧ t.strand c e.strand =
      { s.strand c e.strand with rsc := (s.strand c e.strand).rsc - 1, qfree := BitVec.ofNat 64 free, qaddr := e.addr } := by
  obtain ⟨ht, hcore, hs⟩ := State.keepFree_keeps free hst h4
  have he : ((s.keepFree c j free).core c).jent j = (s.core c).jent j := by rw [hcore]; rfl
  obtain ⟨gt, gj, gs⟩ := State.postedAnswer_frees (s := s.keepFree c j free) (by rw [he]; exact hst) (by rw [he]; exact h4)
    (by rw [hcore]; exact hred)
  refine ⟨gt.trans (by rw [ht]), gj, ?_⟩
  rw [he] at gs
  rw [gs, hs]

theorem State.pushAnswer_refuses (free : Nat) {reason : Nat} (hr : reason ≠ 0) : let e := (s.core c).jent j
    let t := (s.keepFree c j free).postedAnswer c j reason
    t = { s with cores := t.cores } ∧ (t.strand c e.strand).qfree = BitVec.ofNat 64 free ∧
      (t.core c).jent j = { e with st := .refused, reason } ∧ (t.strand c e.strand).pend.getLsbD 0 = true ∧
      (t.strand c e.strand).rsc = (s.strand c e.strand).rsc - 1 := by
  obtain ⟨ht, hcore, hs⟩ := State.keepFree_keeps free hst h4
  have he : ((s.keepFree c j free).core c).jent j = (s.core c).jent j := by rw [hcore]; rfl
  obtain ⟨gt, gf, gj, gp, gr⟩ := State.postedAnswer_refuses (s := s.keepFree c j free) (by rw [he]; exact hst) (by rw [he]; exact h4)
    (by rw [hcore]; exact hred) hr
  rw [he] at gf gj gp gr
  rw [hs] at gf gr
  exact ⟨gt.trans (by rw [ht]), gf, gj, gp, gr⟩

end Push

theorem exec_postedAck {s : State} {uid c j : Nat} {m : Msg} (hm : s.msg? uid = some m) (hb : m.body.posted = some (c, j, 0)) :
    exec (.postedAck uid) s = .next ((s.consume uid).postedAnswer c j 0) := by
  change execPostedAck uid s = _
  simp only [execPostedAck, hm, Option.bind_some, hb, if_true]

theorem exec_postedFinalRefusal {s : State} {uid c j reason : Nat} {m : Msg} (hm : s.msg? uid = some m)
    (hb : m.body.posted = some (c, j, reason)) (hr : reason ≠ 0) :
    exec (.postedFinalRefusal uid) s = .next ((s.consume uid).postedAnswer c j reason) := by
  change execPostedFinalRefusal uid s = _
  simp only [execPostedFinalRefusal, hm]
  split
  · simp_all [Body.posted]
  · simp only [hb, hr, if_false]

theorem exec_qpushAck {s : State} {uid c j free : Nat} {m : Msg} {adr} (hm : s.msg? uid = some m)
    (hb : m.body = .qack (.journal c j) 0 free adr) :
    exec (.qpushAck uid) s = .next (((s.consume uid).keepFree c j free).postedAnswer c j 0) := by
  change execQpushAck uid s = _
  simp only [execQpushAck, hm, Option.map_some, hb, if_true]

theorem exec_postedFinalRefusal_push {s : State} {uid c j kind free : Nat} {m : Msg} {adr} (hm : s.msg? uid = some m)
    (hb : m.body = .qack (.journal c j) kind free adr) (hk : kind ≠ 0) :
    exec (.postedFinalRefusal uid) s =
      .next (((s.consume uid).keepFree c j free).postedAnswer c j (if kind = 4 then 4 else if kind = 5 then 1 else 2)) := by
  change execPostedFinalRefusal uid s = _
  simp only [execPostedFinalRefusal, hm, hb, hk, if_false]

end Sys2Proof.Machine
end

section
/-!
PROOFS. The end of a walk: the TLBs filled, no page, or a fault message to the service core (R38, R41, R377).
-/

namespace Sys2Proof.Machine

/-- The state once a walk's answers are taken: they have left the inbox, and the walk its core. -/
def State.walkTaken (s : State) (wid c : Nat) : State :=
  { s with inbox := s.inbox.filter fun m => match m.body with | .ans (.walk _ k _) _ _ _ _ _ => k != wid | _ => true }.modCore c
    fun x => { x with walks := x.walks.filter (·.wid != wid) }

/-- What a strand's walk without a translation does: one of a quiet access notes that there is no page. -/
def State.walkFault (s : State) (c : Nat) (w : Walk) (kind : Nat) : State :=
  if w.quiet then s.modStrand c w.strand fun t => { t with wait := .no, noPage := some w.va }
  else (s.modStrand c w.strand fun t => { t with wait := .no }).strandFault c w.strand kind w.va w.bad w.acc

theorem State.strand_walkTaken (s : State) (wid c k j : Nat) : (s.walkTaken wid c).strand k j = s.strand k j :=
  State.strand_modCore_keep _ c k j fun _ => rfl

theorem State.core_walkTaken (s : State) (wid c : Nat) :
    (s.walkTaken wid c).core c = { s.core c with walks := (s.core c).walks.filter (·.wid != wid) } :=
  State.core_modCore_same _ _ _

theorem State.reachable_walkTaken (s : State) (wid c k : Nat) : (s.walkTaken wid c).reachable k = s.reachable k := by
  have hd : ((s.walkTaken wid c).core k).dark = (s.core k).dark := by
    by_cases hk : k = c
    · subst hk; rw [State.core_walkTaken]
    · exact congrArg Core.dark (State.core_modCore_other _ _ hk)
  rw [State.reachable, hd]
  rfl

section Walk

variable {s : State} {wid c : Nat} {w : Walk} (hof : s.walkOf wid = some (c, w)) (hans : ProbeAns.none ∉ s.probes wid)
  (hwho : w.who = .strand w.strand) (hwait : (s.strand c w.strand).wait = .walk) (hgen : (s.strand c w.strand).gen = w.gen)
  (hlast : ∀ v ∈ (s.core c).walks, v.who = w.who → v.wid ≤ wid)
include hof hans hwho hwait hgen hlast

/-- The newest walk of a strand that waits for one, with every answer there. -/
theorem exec_tlbWalkProbe : exec (.tlbWalkProbe wid) s = .next (match classify (s.probes wid) w.asid w.va 0 with
    | .error kind => (s.walkTaken wid c).walkFault c w kind
    | .ok p => if p.permits w.need then
        ({ (s.walkTaken wid c).modCore c (·.tlbFill s.draws { asid := w.asid, vpn := w.va / 2 ^ pageShift p.sz, page := p }) with
          draws := s.draws + 1 }).modStrand c w.strand fun t => { t with wait := .no }
      else (s.walkTaken wid c).walkFault c w kPerm) := by
  have hw' : ((s.walkTaken wid c).strand c w.strand).wait = .walk := by rw [State.strand_walkTaken]; exact hwait
  have hg' : ((s.walkTaken wid c).strand c w.strand).gen = w.gen := by rw [State.strand_walkTaken]; exact hgen
  have hl' : (((s.walkTaken wid c).core c).walks.any fun v => v.who == w.who && decide (wid < v.wid)) = false := by
    rw [State.core_walkTaken]
    simp only [List.any_eq_false, Bool.and_eq_true, beq_iff_eq, decide_eq_true_eq, not_and, Nat.not_lt]
    exact fun v hv => hlast v (List.mem_of_mem_filter hv)
  change execTlbWalkProbe wid s = _
  unfold execTlbWalkProbe
  rw [hof]
  refine (if_neg (by simpa using hans)).trans ?_
  extract_lets u v mine goOn fault
  have hmine : mine = true := by
    have hw : (v.strand c w.strand).wait = .walk := hw'
    have hl : ((v.core c).walks.any fun v => v.who == w.who && decide (wid < v.wid)) = false := hl'
    simp only [mine, hw, hl, ← hwho, beq_self_eq_true, Bool.not_false, Bool.and_self]
  have hgo : ∀ s, goOn s = s.modStrand c w.strand fun t => { t with wait := .no } := fun s => by
    simp only [goOn, hwho, hmine, if_true]
  have hfault : ∀ s kind, fault s kind = s.walkFault c w kind := fun s kind => by
    simp only [fault, hwho, hmine, Bool.not_true, Bool.false_eq_true, if_false, State.walkFault]
  have hg : ¬ ((v.strand c w.strand).gen != w.gen) = true := by rw [bne_iff_ne, not_not]; exact hg'
  rw [if_neg hg]
  clear_value goOn fault
  cases hcl : classify (s.probes wid) w.asid w.va 0 with
  | error kind => exact congrArg _ (hfault v kind)
  | ok p =>
    by_cases hp : p.permits w.need = true
    · simp only [hp, if_true, hgo]
      rfl
    · simp only [hp, hfault]
      rfl

theorem exec_tlbWalkProbe_fault {kind : Nat} (hk : classify (s.probes wid) w.asid w.va 0 = .error kind ∨
    kind = 3 ∧ ∃ p, classify (s.probes wid) w.asid w.va 0 = .ok p ∧ p.permits w.need = false) :
    exec (.tlbWalkProbe wid) s = .next ((s.walkTaken wid c).walkFault c w kind) := by
  refine (exec_tlbWalkProbe hof hans hwho hwait hgen hlast).trans (congrArg _ ?_)
  rcases hk with hk | ⟨rfl, p, hk, hp⟩
  · rw [hk]
  · rw [hk]
    exact if_neg (by simp [hp])

end Walk

theorem head?_tlbPut (cap seed : Nat) (l : List TlbEntry) (e : TlbEntry) : (tlbPut cap seed l e).head? = some e := by
  unfold tlbPut
  dsimp only
  split <;> rfl

/-- A walk that found its page: the strand goes on, and the page is the last used of the TLBs. -/
theorem State.walkTaken_fills (s : State) (wid c : Nat) {i : Nat} (hi : i < 4) (e : TlbEntry) :
    let t := ({ (s.walkTaken wid c).modCore c (·.tlbFill s.draws e) with draws := s.draws + 1 }).modStrand c i fun t => { t with wait := .no }
    t.strand c i = { s.strand c i with wait := .no } ∧ (t.core c).tlb1.head? = some e := by
  generalize hu : { (s.walkTaken wid c).modCore c (·.tlbFill s.draws e) with draws := s.draws + 1 } = u
  have hc : u.core c = ((s.walkTaken wid c).core c).tlbFill s.draws e := by
    rw [← hu]
    exact State.core_modCore_same (s.walkTaken wid c) c (·.tlbFill s.draws e)
  have hs : u.strand c i = s.strand c i := by
    rw [State.strand, hc]
    exact s.strand_walkTaken wid c c i
  refine ⟨by rw [State.strand_modStrand_same _ _ _ hi, hs], ?_⟩
  rw [State.core_modStrand, hc]
  exact head?_tlbPut _ _ _ _

theorem State.walkFault_quiet {s : State} {c kind : Nat} {w : Walk} (hi : w.strand < 4) (hq : w.quiet = true) :
    (s.walkFault c w kind).transit = s.transit ∧
      (s.walkFault c w kind).strand c w.strand = { s.strand c w.strand with wait := .no, noPage := some w.va } := by
  rw [State.walkFault, if_pos hq]
  exact ⟨rfl, State.strand_modStrand_same _ _ _ hi⟩

/-- A fault message goes to the service core under the core's next tag (R377). -/
theorem State.sendFault_effect (s : State) (c : Nat) (svc addr : W64) (asid : BitVec 16) (kind acc i : Nat) (pc : W64) :
    let t := s.sendFault c svc addr asid kind acc i pc
    (∀ j, t.strand c j = s.strand c j) ∧ (t.core c).faultTag = (s.core c).faultTag + 1 ∧
      Mails s t c (svcCore svc) 0 0 (.faultMsg (svcCore svc) (faultBytes addr asid kind acc c i (s.core c).faultTag.toNat s.timecode pc)) := by
  obtain ⟨hn, hm⟩ := (s.modCore c fun x => { x with faultTag := x.faultTag + 1 }).request_effect c (svcCore svc) 0 2 0
    (.faultMsg (svcCore svc) (faultBytes addr asid kind acc c i (s.core c).faultTag.toNat s.timecode pc))
  refine ⟨fun j => (hn.strand c j).trans (State.strand_modCore_keep _ _ _ _ fun _ => rfl), ?_, hm⟩
  exact congrArg Core.faultTag ((hn.core c).trans (State.core_modCore_same _ _ _))

theorem State.walkFault_sends {s : State} {c kind : Nat} {w : Walk} (hi : w.strand < 4) (hq : w.quiet = false)
    (hf : (s.strand c w.strand).fault = none) (hw : (s.strand c w.strand).window = false)
    (hr : s.reachable (svcCore (s.strand c w.strand).svcXyz) = true) :
    let u := s.strand c w.strand
    let t := s.walkFault c w kind
    t.strand c w.strand = { u with wait := .walk, fault := some { tag := (s.core c).faultTag, kind, addr := BitVec.ofNat 64 w.va, bad := w.bad, src := 0, idx := 0 } } ∧
      (t.core c).faultTag = (s.core c).faultTag + 1 ∧
      Mails s t c (svcCore u.svcXyz) 0 0 (.faultMsg (svcCore u.svcXyz)
        (faultBytes (BitVec.ofNat 64 w.va) (u.asid.setWidth 16) kind (accCode w.acc) c w.strand (s.core c).faultTag.toNat s.timecode u.pc)) := by
  intro u t
  let v := s.modStrand c w.strand fun t => { t with wait := .no }
  have hv : v.strand c w.strand = { u with wait := .no } := s.strand_modStrand_same c _ hi
  have hc : (v.core c).faultTag = (s.core c).faultTag := by rw [State.core_modStrand]
  have hrv : v.reachable (svcCore u.svcXyz) = true := by
    rw [← hr, State.reachable, State.core_modStrand]
    rfl
  have ht : t = (v.sendFault c u.svcXyz (BitVec.ofNat 64 w.va) (u.asid.setWidth 16) kind (accCode w.acc) w.strand u.pc).modStrand c w.strand
      fun t => { t with fault := some { tag := (s.core c).faultTag, kind, addr := BitVec.ofNat 64 w.va, bad := w.bad, src := 0, idx := 0 }, wait := .walk } := by
    change s.walkFault c w kind = _
    rw [State.walkFault, if_neg (by simp [hq])]
    change v.strandFault c w.strand kind w.va w.bad w.acc = _
    have hw' : u.window = false := hw
    have hf' : u.fault = none := hf
    simp only [State.strandFault, hv, hw', hf', hrv, hc, Option.isSome_none, Bool.not_true, Bool.false_eq_true, if_false]
  obtain ⟨hs, htag, m, hmail⟩ := v.sendFault_effect c u.svcXyz (BitVec.ofNat 64 w.va) (u.asid.setWidth 16) kind (accCode w.acc) w.strand u.pc
  rw [ht]
  refine ⟨?_, ?_, m, ?_⟩
  · rw [State.strand_modStrand_same _ _ _ hi, hs, hv]
  · rw [State.core_modStrand]
    exact htag.trans (congrArg (· + 1) hc)
  · rw [← hc]
    exact hmail

end Sys2Proof.Machine
end

section
/-!
PROOFS. Fault messages that arrive at a service core: queued in its mailbox or counted (R116, R377).
-/

namespace Sys2Proof.Machine

theorem leNat_leBytes (n x : Nat) : leNat (leBytes n x) = x % 2 ^ (8 * n) := by
  induction n generalizing x with
  | zero => exact (Nat.mod_one x).symm
  | succ n ih =>
    rw [leBytes, leNat, ih, Nat.mul_succ, Nat.add_comm (8 * n), pow_add, Nat.mod_mul]
    rfl

theorem Memory.bytes_writeBytes {m : Memory} (a : Nat) (l : List Byte) (hm : m.wf = true) :
    ∀ (k n : Nat), k + n = l.length → (m.writeBytes a l).bytes (a + k) n = l.drop k := by
  intro k n
  induction n generalizing k with
  | zero => exact fun h => (List.drop_eq_nil_of_le (Nat.le_of_eq h.symm)).symm
  | succ n ih =>
    intro h
    have hk : k < l.length := by omega
    rw [Memory.bytes, Memory.read_writeBytes a k l hm hk, Nat.add_assoc, ih (k + 1) (by omega), List.drop_eq_getElem_cons hk]

/-- A number reads as it was written, in as many bytes as it was written to. -/
theorem Memory.num_writeNum {m : Memory} (a n x : Nat) (hm : m.wf = true) : (m.writeNum a n x).num a n = x % 2 ^ (8 * n) := by
  have h := Memory.bytes_writeBytes a (leBytes n x) hm 0 n (by rw [leBytes_length, Nat.zero_add])
  exact (congrArg leNat h).trans (leNat_leBytes n x)

theorem Memory.num_writeNum_bitVec {m : Memory} {w n : Nat} (a : Nat) (x : BitVec w) (hw : w = 8 * n) (hm : m.wf = true) :
    (m.writeNum a n x.toNat).num a n = x.toNat := by
  subst hw
  exact (Memory.num_writeNum a n x.toNat hm).trans (Nat.mod_eq_of_lt x.isLt)

/-- The count of fault messages that found no place (R116). -/
def State.countLost (s : State) (c : Nat) : State :=
  s.modCore c fun x => { x with faultOvf := BitVec.ofNat 64 (satAdd x.faultOvf.toNat 1 4294967295) }

theorem State.countLost_faultOvf {s : State} {c : Nat} (h : (s.core c).faultOvf.toNat < 4294967295) :
    ((s.countLost c).core c).faultOvf = (s.core c).faultOvf + 1 := by
  rw [State.countLost, State.core_modCore_same]
  change BitVec.ofNat 64 (satAdd (s.core c).faultOvf.toNat 1 4294967295) = _
  rw [satAdd, Nat.min_eq_left h]
  apply BitVec.eq_of_toNat_eq
  simp [BitVec.toNat_add]

section Mailbox

variable {s : State} {uid c : Nat} {m : Msg} {data : BitVec 512} (hm : s.msg? uid = some m) (hb : m.body = .faultMsg c data)
  (hcan : m.cancel = false) (hch : (s.core c).changing (8192 * 62) 1 = false) (hd : (s.core c).dark = false)
  (him : s.imaging c = false)
include hm hb hcan hch hd him

theorem exec_faultMailboxPush_noMailbox (hmode : (s.core c).mode 62 ≠ 2) :
    exec (.faultMailboxPush uid) s = .next (((s.consume uid).countLost c).refuse m (.retry 0)) := by
  change execFaultMailboxPush uid s = _
  simp only [execFaultMailboxPush, hm, hb, hcan, hch, hd, him, Bool.or_self, Bool.false_eq_true, if_false, bne_iff_ne, ne_eq, hmode,
    not_false_eq_true, if_true]
  rfl

/-- A fault message without a ticket at a mailbox with none outstanding. -/
theorem exec_faultMailboxPush_mailbox (hmode : (s.core c).mode 62 = 2) (ht : m.ticket = 0)
    (ho : ticketsOut ((s.core c).fifo 62).next ((s.core c).fifo 62).serve = 0) : let f := (s.core c).fifo 62
    let u := fun (next : Nat) => (s.consume uid).modCore c (·.setFifo 62 { f with next })
    exec (.faultMailboxPush uid) s = .next (if f.count < 127 then
        ((u f.next).modCore c (·.fifoPush 62 data)).answer c m.src 2 1 m.tag (.faultAck 0)
      else (((u (nextTicket f.next)).countLost c).pendBit c 0 7).refuse m (.retry f.next)) := by
  intro f u
  change execFaultMailboxPush uid s = _
  by_cases hf : f.count < 127
  · have hr : ticketRule (decide (f.count < 127)) f.next f.serve m.ticket false = (.accept, f.next, f.serve) := by
      simp [ticketRule, ht, f, ho, show ((s.core c).fifo 62).count < 127 from hf]
    simp only [execFaultMailboxPush, hm, hb, hcan, hch, hd, him, Bool.or_self, Bool.false_eq_true, if_false, hmode, bne_self_eq_false]
    rw [hr, if_pos hf]
    rfl
  · have hr : ticketRule (decide (f.count < 127)) f.next f.serve m.ticket false = (.retry f.next, nextTicket f.next, f.serve) := by
      simp [ticketRule, ht, f, ho, show ¬ ((s.core c).fifo 62).count < 127 from hf]
    simp only [execFaultMailboxPush, hm, hb, hcan, hch, hd, him, Bool.or_self, Bool.false_eq_true, if_false, hmode, bne_self_eq_false]
    rw [hr, if_neg hf]
    rfl

end Mailbox

/-- A mailbox's place and count after a message is queued (R113). -/
theorem Core.fifoPush_queues {x : Core} (f : Fifo) (data : BitVec 512) (hls : x.ls.wf = true) :
    let y := (x.setFifo 62 f).fifoPush 62 data
    y.fifo 62 = { f with tail := (f.tail + 1) % 128, count := f.count + 1 } ∧ y.ls.num (8192 * 62 + 64 * f.tail) 64 = data.toNat := by
  have hg : (x.setFifo 62 f).fifo 62 = f := SMap.getD_set_same _ _ _ _
  refine ⟨(SMap.getD_set_same _ _ _ _).trans (by rw [hg]), ?_⟩
  simp only [Core.fifoPush, hg]
  exact Memory.num_writeNum_bitVec _ data rfl hls

/-- A message that finds the mailbox full is counted, and cause 7 of strand 0 is pending (R116). -/
theorem State.countLost_pend {s : State} {c : Nat} (m : Msg) (k : Nat) (hc : m.cancel = false) (h : (s.core c).faultOvf.toNat < 4294967295) :
    let t := ((s.countLost c).pendBit c 0 7).refuse m (.retry k)
    (t.core c).faultOvf = (s.core c).faultOvf + 1 ∧ (t.strand c 0).pend.getLsbD 7 = true := by
  obtain ⟨hn, -⟩ := ((s.countLost c).pendBit c 0 7).refuse_retry_effect m k hc
  refine ⟨?_, ?_⟩
  · rw [hn.core, State.pendBit, State.core_modStrand]
    exact State.countLost_faultOvf h
  · rw [hn.strand, State.pendBit, State.strand_modStrand_same _ _ _ (by decide)]
    simp [setBit]

end Sys2Proof.Machine
end

section
/-!
PROOFS. The service core's reply to a fault message: RESUME, FAIL and CONTAIN (R377, R378, R381).
-/

namespace Sys2Proof.Machine

/-- No engine of a core has work that a reply could set going: no copy walks, and no tile has a job. -/
def Core.enginesIdle (x : Core) : Prop :=
  (∀ e ∈ x.copies, ∀ k, e.2.copy = some k → k.walking = false) ∧ ∀ e ∈ x.tiles, e.2.job = TileJob.none

theorem foldl_eq_of_fixed {α β : Type} {f : α → β → α} {a : α} {l : List β} (h : ∀ b ∈ l, f a b = a) : l.foldl f a = a := by
  induction l with
  | nil => rfl
  | cons b l ih =>
    rw [List.foldl_cons, h b List.mem_cons_self]
    exact ih fun x hx => h x (List.mem_cons_of_mem _ hx)

theorem State.enginesGo_of_idle {s : State} {c : Nat} (h : (s.core c).enginesIdle) : s.enginesGo c = s := by
  obtain ⟨hcopy, htile⟩ := h
  unfold State.enginesGo
  dsimp only
  rw [foldl_eq_of_fixed fun e he => ?_, foldl_eq_of_fixed fun e he => ?_]
  · split
    · rename_i k hk
      exact if_neg (by simp [hcopy e he k hk])
    · rfl
  · rw [htile e he]

/-- What an end of a strand leaves of its core and of the launches, until its cocoon is counted: no engine with work, and the queues. -/
def State.Quiet (c : Nat) (qs : SMap Queue) (s : State) : Prop := (s.core c).enginesIdle ∧ s.queues = qs

namespace State.Quiet

variable {c : Nat} {qs : SMap Queue} {s t : State}

theorem of_same (h : s.Quiet c qs) (hc : (t.core c).copies = (s.core c).copies) (ht : (t.core c).tiles = (s.core c).tiles)
    (hq : t.queues = s.queues) : t.Quiet c qs := by
  obtain ⟨⟨h1, h2⟩, h3⟩ := h
  exact ⟨⟨by rw [hc]; exact h1, by rw [ht]; exact h2⟩, hq.trans h3⟩

theorem modStrand (h : s.Quiet c qs) (k i : Nat) (f : Strand → Strand) : (s.modStrand k i f).Quiet c qs :=
  h.of_same (by rw [State.core_modStrand]) (by rw [State.core_modStrand]) rfl

theorem netOnly (h : s.Quiet c qs) (hn : NetOnly s t) : t.Quiet c qs :=
  h.of_same (by rw [hn.core]) (by rw [hn.core]) (by rw [NetOnly] at hn; rw [hn])

theorem modCore (h : s.Quiet c qs) {f : Core → Core} (hf : (s.core c).enginesIdle → (f (s.core c)).enginesIdle) :
    (s.modCore c f).Quiet c qs :=
  ⟨by rw [State.core_modCore_same]; exact hf h.1, h.2⟩

theorem modCore_keep (h : s.Quiet c qs) (k : Nat) {f : Core → Core} (hc : ∀ x, (f x).copies = x.copies) (ht : ∀ x, (f x).tiles = x.tiles) :
    (s.modCore k f).Quiet c qs := by
  by_cases hk : c = k
  · subst hk
    exact h.modCore fun ⟨h1, h2⟩ => ⟨by rw [hc]; exact h1, by rw [ht]; exact h2⟩
  · exact h.of_same (by rw [State.core_modCore_other _ _ hk]) (by rw [State.core_modCore_other _ _ hk]) rfl

theorem foldl {α : Type} {f : State → α → State} (hf : ∀ s a, s.Quiet c qs → (f s a).Quiet c qs) (l : List α) (h : s.Quiet c qs) :
    (l.foldl f s).Quiet c qs := by
  induction l generalizing s with
  | nil => exact h
  | cons a l ih => exact ih (hf s a h)

theorem withdrawSc (h : s.Quiet c qs) (i : Nat) (sent : Bool) : (s.withdrawSc c i sent).Quiet c qs := by
  unfold State.withdrawSc
  extract_lets cl u v
  have hu : u.Quiet c qs := by
    unfold u
    split
    · split
      · exact h
      · exact (h.modStrand c i _).netOnly (State.request_effect _ _ _ _ _ _ _).1
    · exact h
  have hv : v.Quiet c qs := by
    unfold v
    split
    · exact hu.of_same rfl rfl rfl
    · exact hu
  exact hv.modCore_keep c (fun _ => rfl) fun _ => rfl

theorem unstall (h : s.Quiet c qs) (k i : Nat) : (s.unstall k i).Quiet c qs :=
  foldl (fun s k hs => by
    split
    · exact hs
    · exact hs.modCore_keep k (fun _ => rfl) fun _ => rfl) _ h

theorem killTiles (h : s.Quiet c qs) (i : Nat) (gone : Nat → Nat) : (s.killTiles c i gone).Quiet c qs := by
  obtain ⟨⟨-, htile⟩, -⟩ := id h
  unfold State.killTiles
  rw [foldl_eq_of_fixed fun e he => by rw [htile e he]]
  exact h

/-- The engines of a core whose copies stop at a strand's end have no work after it that they had not before. -/
theorem stopCopies {x : Core} (h : x.enginesIdle) (i : Nat) (gone : Nat → Nat) :
    ∀ e ∈ x.copies.map fun (e : Nat × CopyId) => (e.1, e.2.stop i (gone e.1)), ∀ k, e.2.copy = some k → k.walking = false := by
  intro e he k hk
  obtain ⟨a, ha, rfl⟩ := List.mem_map.mp he
  have hidle := h.1 a ha
  simp only [CopyId.stop] at hk
  split at hk
  · rename_i cp hcp
    split at hk
    · exact hidle k hk
    · split at hk
      · cases hk
      · cases hk
        exact hidle cp hcp
  · exact hidle k hk

theorem modTile (h : s.Quiet c qs) (t : Nat) {f : Tile → Tile} (hf : ∀ e, (f e).job = e.job) : (s.modTile c t f).Quiet c qs := by
  refine h.modCore fun ⟨h1, h2⟩ => ⟨h1, fun e he => ?_⟩
  rcases SMap.mem_set he with rfl | he
  · refine (hf _).trans ?_
    rcases SMap.getD_mem_or (s.core c).tiles t .reset with hr | hm
    · exact (congrArg Tile.job hr).trans rfl
    · exact h2 _ hm
  · exact h2 e he

theorem streamStop (h : s.Quiet c qs) (sid : Nat) : (s.streamStop c sid).Quiet c qs := by
  unfold State.streamStop
  split
  · exact h
  · split
    · exact h
    · refine modCore_keep ?_ c (fun _ => rfl) fun _ => rfl
      exact foldl (fun s j hs => hs.modTile _ fun e => by split <;> rfl) _ h

theorem pushEnded (h : s.Quiet c qs) (sid : Nat) : (s.pushEnded c sid).Quiet c qs := by
  unfold State.pushEnded
  split
  · exact h
  · exact h.modCore_keep c (fun _ => rfl) fun _ => rfl

end State.Quiet

theorem State.countEnded_core (s : State) (k : Cocoon) (c : Nat) : (s.countEnded k).core c = s.core c := by
  unfold State.countEnded
  split <;> rfl

theorem State.countEnded_queues {s t : State} (k : Cocoon) (h : t.queues = s.queues) : (t.countEnded k).queues = (s.countEnded k).queues := by
  unfold State.countEnded
  split
  · exact h
  · simp only [State.modQueue, State.queue, h]

/-- A strand at its end: no cocoon, not running, and the engines of its core as they were. Its launch, where it has one, is counted. -/
theorem State.killStrand_ends {s : State} {c i : Nat} (hi : i < 4) (h : (s.core c).enginesIdle) : let t := s.killStrand c i
    (t.core c).enginesIdle ∧ (t.strand c i).cocoon = none ∧ (t.strand c i).run ≠ .running ∧
      t.queues = match (s.strand c i).cocoon with
        | some k => (s.countEnded k).queues
        | none => s.queues := by
  intro e
  have he : s.killStrand c i = e := rfl
  clear_value e
  unfold State.killStrand at he
  extract_lets x t sent mine gone u v held w y z a b at he
  have hu : u.Quiet c s.queues := ⟨h, rfl⟩
  clear_value u
  have hv : v.Quiet c s.queues := (hu.withdrawSc i sent).unstall c i
  clear_value v
  have hw : w.Quiet c s.queues := hv.killTiles i _
  clear_value w
  have hy : y.Quiet c s.queues := hw.modCore fun hx => ⟨State.Quiet.stopCopies hx i fun id => held fun w => w == .copy c id, hx.2⟩
  clear_value y
  have hz : z.Quiet c s.queues := State.Quiet.foldl (fun s e hs => by
    split
    · exact (hs.streamStop e.1).pushEnded e.1
    · exact hs) _ hy
  clear_value z
  have ha : (a.core c).enginesIdle ∧ a.queues = match t.cocoon with
      | some k => (s.countEnded k).queues
      | none => s.queues := by
    unfold a
    generalize t.cocoon = q
    cases q with
    | some k => exact ⟨by rw [State.countEnded_core]; exact hz.1, State.countEnded_queues k hz.2⟩
    | none => exact hz
  clear_value a
  have hb : (b.core c).enginesIdle ∧ (b.strand c i).cocoon = none ∧ (b.strand c i).run ≠ .running ∧ b.queues = a.queues := by
    unfold b
    rw [State.strand_modStrand_same _ _ _ hi, State.core_modStrand]
    refine ⟨ha.1, rfl, fun hrun => ?_, rfl⟩
    split at hrun
    · simp_all
    · cases hrun
  clear_value b
  have hp : e.core c = b.core c ∧ e.strand c i = b.strand c i ∧ e.queues = b.queues := by
    rw [← he]
    unfold State.park
    split
    · split <;> exact ⟨rfl, rfl, rfl⟩
    · exact ⟨rfl, rfl, rfl⟩
  obtain ⟨hcore, hstrand, hqueues⟩ := hp
  obtain ⟨hidle, hcocoon, hrun, hcounted⟩ := hb
  rw [hcore, hstrand, hqueues, hcounted]
  exact ⟨hidle, hcocoon, hrun, ha.2⟩

/-! ## The reply -/

/-- A strand that waits for the reply to its fault message, once it has it. -/
def Strand.replied (t : Strand) : Strand := { t with fault := none, wait := .no }

section Reply

variable {s : State} {c i : Nat} {w : W64} {f : FaultOut} (hc : c < 12288) (hi : i < 4)
  (hr : (s.core c).replies.find? (fun e => e.1 == i) = some (i, w)) (hf : (s.strand c i).fault = some f)
  (htag : f.tag = w.extractLsb' 56 8) (hsrc : f.src = 0) (hw : (s.strand c i).wait = .walk)

/-- The state once a reply is taken: the strand has no fault outstanding, and waits no longer. -/
def State.replyTaken (s : State) (c i : Nat) (w : W64) : State :=
  (s.modCore c fun x => { x with replies := x.replies.erase (i, w) }).modStrand c i Strand.replied

theorem State.replyTaken_strand (hi : i < 4) : (s.replyTaken c i w).strand c i = (s.strand c i).replied := by
  rw [State.replyTaken, State.strand_modStrand_same _ _ _ hi, State.strand_modCore_keep]
  exact fun _ => rfl

theorem State.replyTaken_core : (s.replyTaken c i w).core c =
    { s.core c with replies := (s.core c).replies.erase (i, w), strands := ((s.replyTaken c i w).core c).strands } := by
  conv_lhs => rw [State.replyTaken, State.core_modStrand, State.core_modCore_same]
  rfl

include hc hi hr hf htag hsrc hw

theorem exec_faultReply {act : Nat} (ha : bits w 0 8 = act) (h1 : 1 ≤ act) (h3 : act ≤ 3) : exec (.faultReply c i) s = .next (
    (if act = 1 then s.replyTaken c i w
     else if act = 2 then (s.replyTaken c i w).raiseAt c i (kindCause f.kind) f.bad .access
     else (s.replyTaken c i w).contain c i (kindCause f.kind) false false 0).enginesGo c) := by
  let u := s.modCore c fun x => { x with replies := x.replies.erase (i, w) }
  have hu : u.strand c i = s.strand c i := State.strand_modCore_keep _ _ _ _ fun _ => rfl
  have hi4 : i ≠ 4 := Nat.ne_of_lt hi
  have hf' : (u.strand c i).fault = some f := by rw [hu]; exact hf
  have ht : u.modStrand c i (fun t => { t with fault := none, wait := if t.wait = .walk then .no else t.wait }) = s.replyTaken c i w := by
    have hx : (fun t : Strand => { t with fault := none, wait := if t.wait = .walk then .no else t.wait }) (u.strand c i) = (u.strand c i).replied := by
      rw [hu]; simp [Strand.replied, hw]
    exact congrArg (u.setStrand c i) hx
  refine (if_neg (by simp [hc]; omega)).trans ?_
  rw [hr]
  change (match if i = 4 then (u.core c).sliceFault else (u.strand c i).fault with
    | some f => _
    | none => _) = _
  rw [if_neg hi4, hf']
  subst ha
  refine (if_pos (by simp [htag, h1, h3])).trans (congrArg _ ((if_neg hi4).trans ?_))
  unfold State.faultAnswer
  rw [ht, hsrc]
  rfl

end Reply

/-! ## Containment (R378, R381) -/

section Contain

variable {s : State} {c i num n : Nat} {l : Launch} (hl : s.launchOf (s.strand c i) = some (n, l))
include hl

/-- A RETRY level of the policy, where the cause has not been tried again at this PC, tries the instruction again. -/
theorem State.contain_retry (hg : l.gstop = false) (hp : l.cpol % 4 = 1) (hr : (num, (s.strand c i).pc) ∉ (s.strand c i).retry) :
    s.contain c i num false false 0 =
      s.modStrand c i fun t => { t with wait := .no, retry := (num, (s.strand c i).pc) :: t.retry } := by
  have hv : s.consult c l.cpol false ((s.strand c i).retry.contains (num, (s.strand c i).pc)) (8 - 0) 0 = .retry := by
    simp [State.consult, State.unit, hp, hr]
  unfold State.contain
  simp only [hl, hg, Bool.false_eq_true, if_false, hv]

/-- A level of the policy that kills the strand's own unit ends the strand. -/
theorem State.contain_kill (hg : l.gstop = false) (hp : l.cpol % 4 = 2) :
    s.contain c i num false false 0 = s.killStrand c i := by
  have hv : ∀ again, s.consult c l.cpol false again (8 - 0) 0 = .kill 0 [c] := fun again => by
    simp [State.consult, State.unit, hp]
  unfold State.contain
  simp only [hl, hg, Bool.false_eq_true, if_false, hv]
  rfl

/-- A launch that stops at a fault of any of its strands fails, and the strand ends. -/
theorem State.contain_stop (hg : l.gstop = true) :
    s.contain c i num false false 0 = (s.failLaunch c i n num).killStrand c i := by
  unfold State.contain
  simp only [hl, hg, if_true]

end Contain

/-- The launch of a strand is that of its cocoon's queue. -/
theorem State.launchOf_eq_some {s : State} {t : Strand} {n : Nat} {l : Launch} (h : s.launchOf t = some (n, l)) :
    ∃ k, t.cocoon = some k ∧ k.queue = some n ∧ (s.queue n).launch = some l := by
  unfold State.launchOf at h
  split at h
  · rename_i q hq
    obtain ⟨k, hk, hkq⟩ := Option.bind_eq_some_iff.mp hq
    obtain ⟨m, hm, he⟩ := Option.map_eq_some_iff.mp h
    obtain ⟨rfl, rfl⟩ := Prod.mk.inj he
    exact ⟨k, hk, hkq, hm⟩
  · cases h

theorem State.queue_modQueue_same (s : State) (q : Nat) (f : Queue → Queue) : (s.modQueue q f).queue q = f (s.queue q) :=
  SMap.getD_set_same _ _ _ _

/-- The launch of a strand that ends once the launch has failed holds the cause (R381). -/
theorem State.failLaunch_killStrand {s : State} {c i n num : Nat} {l : Launch} (hi : i < 4) (h : (s.core c).enginesIdle)
    (hl : s.launchOf (s.strand c i) = some (n, l)) (hs : l.stat = 0) :
    ∃ l', (((s.failLaunch c i n num).killStrand c i).queue n).launch = some l' ∧ l'.stat = 1 ∧ l'.cause = num := by
  obtain ⟨k, hk, hkq, hlaunch⟩ := State.launchOf_eq_some hl
  have hq : (s.failLaunch c i n num).queue n = { s.queue n with
      launch := some { l with stat := 1, cause := num, causeBy := 4 * c + i, killDue := true } } := by
    rw [State.failLaunch, State.queue_modQueue_same, hlaunch]
    simp [hs]
  obtain ⟨-, -, -, hends⟩ := State.killStrand_ends (s := s.failLaunch c i n num) (c := c) hi h
  have hstrand : ((s.failLaunch c i n num).strand c i).cocoon = some k := hk
  rw [hstrand] at hends
  have hcount : ((s.failLaunch c i n num).countEnded k).queue n = _ :=
    (congrArg (fun u : State => u.queue n) (by unfold State.countEnded; rw [hkq])).trans (State.queue_modQueue_same _ _ _)
  have hgone : ((s.failLaunch c i n num).killStrand c i).queue n = ((s.failLaunch c i n num).countEnded k).queue n :=
    congrArg (fun m : SMap Queue => SMap.getD m n .reset) hends
  rw [hgone, hcount, hq]
  exact ⟨_, rfl, rfl, rfl⟩

end Sys2Proof.Machine
end

section
/-!
PROOFS. What arrives at a core: the statement, from the parts above.
-/

namespace Sys2Proof.Machine

/-- The state after a reply to RESUME or FAIL has the engines of before, which have no work. -/
theorem State.replyTaken_idle {s : State} {c i : Nat} {w : W64} (h : (s.core c).enginesIdle) :
    ((s.replyTaken c i w).core c).enginesIdle := by
  rw [State.replyTaken_core]
  exact h

/-- Settles O53: a line, a window access, an answer, a walk, a fault message and a reply, each by the equation of its event and the effect
of the state it ends in. -/
theorem arrivalsComplete : Obligations.ArrivalsComplete := by
  unfold Obligations.ArrivalsComplete
  refine ⟨?line, ?home, ?window, ?posted, ?walk, ?mailbox, ?reply⟩
  case line =>
    intro s c i off u line hc hi hw hd hch hm b hp h2 h1
    exact ⟨_, exec_instructionLineFill_local hc hi hw hd hch hm, State.installILine_installs hi hp h2 h1⟩
  case home =>
    intro s c i n va line p m kind seq px data req hc hi hw hd hm hmc hb hone hp hx hl
    have he := exec_instructionLineFill_home hc hi hw hd hm hmc hb hone hp hx hl
    refine ⟨?_, ?_⟩
    · rintro d rfl hpar h2 h1
      exact ⟨_, he, State.installILine_installs (s := s.consume m.uid) hi hpar h2 h1⟩
    · rintro rfl hwin hres
      obtain ⟨ht, hcore, hs⟩ := State.raiseAt_modStrand (s := s.consume m.uid) (c := c) (num := cMemPoison) (bad := line) (via := .fetch)
        (f := fun t => { t with wait := .no }) hi hwin hres
      exact ⟨_, he, ht, by rw [Option.elim_none, hcore]; rfl, hs⟩
  case window =>
    intro s uid m who p amo store prv hm hb him
    refine ⟨fun k hk => ?_, windowAccess_arrives hm hb him⟩
    exact ⟨_, exec_windowAccess_refused hm hb him hk, (s.consume uid).answer_effect _ _ _ _ _ _⟩
  case posted =>
    intro s uid c j m hm e u hst h4 hred frees refuses
    refine ⟨fun reason hb => ⟨?_, fun hr => ?_⟩, fun kind free adr hb => ⟨?_, fun hk => ?_⟩⟩
    · rintro rfl
      exact ⟨_, exec_postedAck hm hb, State.postedAnswer_frees (s := s.consume uid) hst h4 hred⟩
    · exact ⟨_, exec_postedFinalRefusal hm hb hr, State.postedAnswer_refuses (s := s.consume uid) hst h4 hred hr⟩
    · rintro rfl
      exact ⟨_, exec_qpushAck hm hb, State.pushAnswer_frees (s := s.consume uid) hst h4 hred free⟩
    · exact ⟨_, exec_postedFinalRefusal_push hm hb hk, State.pushAnswer_refuses (s := s.consume uid) hst h4 hred free (by split_ifs <;> decide)⟩
  case walk =>
    intro s wid c w hof hans hi hwho hwait hfault hgen hlast
    refine ⟨fun p hcl hp => ?_, fun kind hk hq hwin hreach => ?_, fun kind hk hq => ?_⟩
    · exact ⟨_, (exec_tlbWalkProbe hof hans hwho hwait hgen hlast).trans (by simp only [hcl, hp, if_true]),
        s.walkTaken_fills wid c hi _⟩
    · have hs := s.strand_walkTaken wid c c w.strand
      have h := State.walkFault_sends (s := s.walkTaken wid c) (c := c) (kind := kind) hi hq (by rw [hs]; exact hfault) (by rw [hs]; exact hwin)
        (by rw [hs, State.reachable_walkTaken]; exact hreach)
      rw [hs, State.core_walkTaken] at h
      exact ⟨_, exec_tlbWalkProbe_fault hof hans hwho hwait hgen hlast hk, h⟩
    · obtain ⟨ht, hs⟩ := State.walkFault_quiet (s := s.walkTaken wid c) (c := c) (kind := kind) hi hq
      rw [s.strand_walkTaken] at hs
      exact ⟨_, exec_tlbWalkProbe_fault hof hans hwho hwait hgen hlast hk, ht, hs⟩
  case mailbox =>
    intro s uid c m data hm hb hcan hch hd him f
    refine ⟨fun hmode ht ho => ⟨fun hcount htail hls => ?_, fun hcount hovf => ?_⟩, fun hmode hovf => ?_⟩
    · have he := (exec_faultMailboxPush_mailbox hm hb hcan hch hd him hmode ht ho).trans (congrArg Host.Outcome.next (if_pos hcount))
      obtain ⟨-, hcore, -, hmail⟩ := ((s.consume uid).modCore c (·.setFifo 62 f)).answer_modCore c (·.fifoPush 62 data) c m.src 2 1 m.tag
        (.faultAck 0)
      rw [State.core_modCore_same] at hcore
      obtain ⟨hfifo, hnum⟩ := Core.fifoPush_queues (x := s.core c) f data hls
      exact ⟨_, he, (congrArg (·.fifo 62) hcore).trans hfifo, (congrArg (·.ls.num (8192 * 62 + 64 * f.tail) 64) hcore).trans hnum, hmail⟩
    · have he := (exec_faultMailboxPush_mailbox hm hb hcan hch hd him hmode ht ho).trans
        (congrArg Host.Outcome.next (if_neg (Nat.not_lt.mpr hcount)))
      have hcore : (((s.consume uid).modCore c (·.setFifo 62 { f with next := nextTicket f.next })).core c).faultOvf = (s.core c).faultOvf := by
        rw [State.core_modCore_same]
        rfl
      have h := State.countLost_pend m f.next hcan (by rw [hcore]; exact hovf)
      rw [hcore] at h
      exact ⟨_, he, h⟩
    · refine ⟨_, exec_faultMailboxPush_noMailbox hm hb hcan hch hd him hmode, ?_⟩
      obtain ⟨hn, hmail⟩ := ((s.consume uid).countLost c).refuse_retry_effect m 0 hcan
      exact ⟨by rw [hn.core]; exact State.countLost_faultOvf hovf, hmail⟩
  case reply =>
    intro s c i w f hc hi hr hf htag hsrc hcopy htile hwait u
    have hidle := State.replyTaken_idle (i := i) (w := w) (show (s.core c).enginesIdle from ⟨hcopy, htile⟩)
    have hs : (s.replyTaken c i w).strand c i = u := State.replyTaken_strand hi
    have he := fun {act : Nat} => exec_faultReply (act := act) hc hi hr hf htag hsrc hwait
    refine ⟨fun ha => ?_, fun ha n l hl => ⟨fun hg hp hre => ?_, fun hg hp => ?_, fun hg hstat => ?_⟩, fun ha hwin hres => ?_⟩
    · have h := he ha (by decide) (by decide)
      rw [if_pos rfl, State.enginesGo_of_idle hidle] at h
      exact ⟨_, h, rfl, hs, by rw [State.replyTaken_core]⟩
    · have hl' : (s.replyTaken c i w).launchOf ((s.replyTaken c i w).strand c i) = some (n, l) := by rw [hs]; exact hl
      have h := he ha (by decide) (by decide)
      rw [if_neg (by decide), if_neg (by decide), State.contain_retry hl' hg hp (by rw [hs]; exact hre),
        State.enginesGo_of_idle (by rw [State.core_modStrand]; exact hidle)] at h
      exact ⟨_, h, by rw [State.strand_modStrand_same _ _ _ hi, hs]⟩
    · have hl' : (s.replyTaken c i w).launchOf ((s.replyTaken c i w).strand c i) = some (n, l) := by rw [hs]; exact hl
      obtain ⟨hends, hcocoon, hrun, -⟩ := State.killStrand_ends hi hidle
      have h := he ha (by decide) (by decide)
      rw [if_neg (by decide), if_neg (by decide), State.contain_kill hl' hg hp, State.enginesGo_of_idle hends] at h
      exact ⟨_, h, hcocoon, hrun⟩
    · have hl' : (s.replyTaken c i w).launchOf ((s.replyTaken c i w).strand c i) = some (n, l) := by rw [hs]; exact hl
      obtain ⟨l', hq, hst, hca⟩ := State.failLaunch_killStrand (num := kindCause f.kind) hi hidle hl' hstat
      obtain ⟨hends, hcocoon, -, -⟩ := State.killStrand_ends (s := (s.replyTaken c i w).failLaunch c i n (kindCause f.kind)) (c := c) hi hidle
      have h := he ha (by decide) (by decide)
      rw [if_neg (by decide), if_neg (by decide), State.contain_stop hl' hg, State.enginesGo_of_idle hends] at h
      exact ⟨_, l', h, hcocoon, hq, hst, hca⟩
    · have h := he ha (by decide) (by decide)
      rw [if_neg (by decide), if_pos rfl, State.raiseAt_eq_enter (by rw [State.replyTaken_core]; exact hres) (.inl (by rw [hs]; exact hwin)),
        State.enginesGo_of_idle (by rw [State.core_modStrand]; exact hidle)] at h
      exact ⟨_, h, rfl, by rw [State.strand_modStrand_same _ _ _ hi, hs]⟩

end Sys2Proof.Machine
end

section
/-!
PROOFS. Every step keeps every memory canonical (R30, R36, R103): the network, the homes and the proxies.
For each function of the model that gives a state, one lemma: the state it gives has canonical memories where the one it takes has. A
branch of the function ends in a record update that leaves the memories alone, in a function said above, or in one of the writes of
`Laws/Memory`; so a lemma names the functions that its branches end in. `X_ls` says of an update of a core that it leaves the store.
-/

namespace Sys2Proof.Machine

variable {s : State}

/-! ## Updates of the state -/

theorem foldl_canonical {α : Type} {f : State → α → State} (hf : ∀ s x, s.Canonical → (f s x).Canonical) (l : List α)
    {s : State} (h : s.Canonical) : (l.foldl f s).Canonical :=
  List.foldlRecOn l f h fun s hs a _ => hf s a hs

theorem Core.foldl_wf {α : Type} {f : Core → α → Core} (hf : ∀ x a, x.ls.wf = true → (f x a).ls.wf = true) (l : List α)
    {x : Core} (h : x.ls.wf = true) : (l.foldl f x).ls.wf = true :=
  List.foldlRecOn l f h fun x hx a _ => hf x a hx

theorem Memory.foldl_wf {α : Type} {f : Memory → α → Memory} (hf : ∀ m x, m.wf = true → (f m x).wf = true) (l : List α)
    {m : Memory} (h : m.wf = true) : (l.foldl f m).wf = true :=
  List.foldlRecOn l f h fun m hm a _ => hf m a hm

theorem State.Canonical.of_next (h : s.Canonical) {t} (ht : (.next s : Res) = .next t) : t.Canonical := by
  cases ht
  exact h

/-- A core that no write has reached has an empty store. -/
theorem State.core_ls_wf (h : s.Canonical) (c) : (s.core c).ls.wf = true := by
  obtain ⟨-, -, hcores⟩ := h
  rcases SMap.getD_mem_or s.cores c .reset with e | e
  · rw [State.core, e]
    rfl
  · exact hcores _ e

/-- A core set keeps the memories canonical where its own store is. -/
theorem State.setCore_canonical (h : s.Canonical) (c x) (hx : x.ls.wf = true) : (s.setCore c x).Canonical := by
  obtain ⟨hhbm, hhost, hcores⟩ := h
  refine ⟨hhbm, hhost, fun e he => ?_⟩
  rcases SMap.mem_set he with rfl | he
  · exact hx
  · exact hcores e he

theorem State.modCore_canonical (h : s.Canonical) (c f) (hf : (f (s.core c)).ls.wf = true) : (s.modCore c f).Canonical :=
  State.setCore_canonical h c _ hf

theorem State.modMyCore_canonical (h : s.Canonical) (f) (hf : (f (s.core s.cur.1)).ls.wf = true) : (s.modMyCore f).Canonical :=
  State.setCore_canonical h _ _ hf

theorem State.setStrand_canonical (h : s.Canonical) (c i t) : (s.setStrand c i t).Canonical :=
  State.setCore_canonical h c _ (State.core_ls_wf h c)

theorem State.modStrand_canonical (h : s.Canonical) (c i f) : (s.modStrand c i f).Canonical := State.setStrand_canonical h _ _ _

theorem State.modMe_canonical (h : s.Canonical) (f) : (s.modMe f).Canonical := State.modStrand_canonical h _ _ _

theorem Core.setMode_ls (x : Core) (b m) : (x.setMode b m).ls = x.ls := by
  grind [Core.setMode]

theorem State.modRegion_canonical (h : s.Canonical) (r f) : (s.modRegion r f).Canonical := h

theorem State.modCluster_canonical (h : s.Canonical) (cl f) : (s.modCluster cl f).Canonical := h

theorem Core.setTile_ls (x : Core) (n e) : (x.setTile n e).ls = x.ls := rfl

theorem Core.modTile_ls (x : Core) (e f) : (x.modTile e f).ls = x.ls := rfl

theorem Core.setSlot_ls (x : Core) (o e) : (x.setSlot o e).ls = x.ls := rfl

theorem Core.setAcc_ls (x : Core) (a e) : (x.setAcc a e).ls = x.ls := rfl

theorem Core.setCopyId_ls (x : Core) (i e) : (x.setCopyId i e).ls = x.ls := rfl

theorem Core.setGroup_ls (x : Core) (n e) : (x.setGroup n e).ls = x.ls := rfl

theorem Core.setJent_ls (x : Core) (j e) : (x.setJent j e).ls = x.ls := rfl

theorem State.modRouter_canonical (h : s.Canonical) (c f) : (s.modRouter c f).Canonical := h

theorem State.setLineMeta_canonical (h : s.Canonical) (ln m) : (s.setLineMeta ln m).Canonical := h

theorem State.modSlice_canonical (h : s.Canonical) (sl f) : (s.modSlice sl f).Canonical := h

theorem State.modQueue_canonical (h : s.Canonical) (q f) : (s.modQueue q f).Canonical := h

theorem State.modContext_canonical (h : s.Canonical) (n f) : (s.modContext n f).Canonical := h

theorem State.setBarGroup_canonical (h : s.Canonical) (ch gix b) : (s.setBarGroup ch gix b).Canonical := h

theorem State.setLogRec_canonical (h : s.Canonical) (r x) : (s.setLogRec r x).Canonical := h

theorem State.modLogRec_canonical (h : s.Canonical) (r f) : (s.modLogRec r f).Canonical := h

theorem State.report_canonical (h : s.Canonical) (code place) : (s.report code place).Canonical := h

/-! ## The network -/

theorem State.inject_canonical (h : s.Canonical) (m) : (s.inject m).Canonical := by
  grind [State.inject, State.modRouter_canonical]

theorem State.sendMsg_canonical (h : s.Canonical) (m) : (s.sendMsg m).Canonical := by
  grind [State.sendMsg, State.inject_canonical, State.Canonical]

theorem State.sendVia_canonical (h : s.Canonical) (src via dest cls nf tag ticket body) :
    (s.sendVia src via dest cls nf tag ticket body).Canonical := State.sendMsg_canonical h _

theorem State.sendTag_canonical (h : s.Canonical) (src dest cls nf tag ticket body) :
    (s.sendTag src dest cls nf tag ticket body).Canonical := State.sendVia_canonical h _ _ _ _ _ _ _ _

theorem State.requestMsg_canonical (h : s.Canonical) (m) : (s.requestMsg m).Canonical := by
  grind [State.requestMsg, State.sendMsg_canonical, State.Canonical]

theorem State.request_canonical (h : s.Canonical) (src dest cls nf ticket body) :
    (s.request src dest cls nf ticket body).Canonical := State.requestMsg_canonical h _

theorem State.answer_canonical (h : s.Canonical) (src dest cls nf tag body) : (s.answer src dest cls nf tag body).Canonical :=
  State.sendTag_canonical h _ _ _ _ _ _ _

theorem State.releaseTag_canonical (h : s.Canonical) (ep tag) : (s.releaseTag ep tag).Canonical := by
  grind [State.releaseTag, State.inject_canonical, State.Canonical]

theorem State.consume_canonical (h : s.Canonical) (uid) : (s.consume uid).Canonical := h

theorem State.ask_canonical (h : s.Canonical) (src dest b) : (s.ask src dest b).Canonical := State.request_canonical h _ _ _ _ _ _

theorem State.modReasm_canonical (h : s.Canonical) (ep f) : (s.modReasm ep f).Canonical := h

theorem State.discard_canonical (h : s.Canonical) (ep uid) : (s.discard ep uid).Canonical := h

theorem State.eject_canonical (h : s.Canonical) (f) : (s.eject f).Canonical := by
  grind [State.eject, State.discard_canonical, State.modReasm_canonical, State.Canonical]

theorem State.refuseFlit_canonical (h : s.Canonical) (f) : (s.refuseFlit f).Canonical := by
  grind [State.refuseFlit, State.Canonical]

theorem State.sendOut_canonical (h : s.Canonical) (c p u f) : (s.sendOut c p u f).Canonical := by
  grind [State.sendOut, State.modRouter_canonical]

theorem State.place_canonical {p : State × Used × Nat × List (Nat × Flit) × Nat} (h : p.1.Canonical) (s : State) (c a) :
    (s.place c p a).1.Canonical := by
  grind [State.place, State.eject_canonical, State.refuseFlit_canonical, State.sendOut_canonical]

theorem State.takeBorder_canonical (h : s.Canonical) (c k taken) : (s.takeBorder c k taken).1.Canonical := by
  induction k generalizing s taken with
  | zero => exact h
  | succ k ih => grind [State.takeBorder, State.modRouter_canonical]

theorem State.checkLinks_canonical (h : s.Canonical) (c l es) : (s.checkLinks c l es).1.Canonical := by
  induction l generalizing s es with
  | nil => exact h
  | cons a l ih => grind [State.checkLinks, State.modRegion_canonical, State.report_canonical]

theorem State.sendCandidate_canonical (h : s.Canonical) (c u) : (s.sendCandidate c u).Canonical := by
  grind [State.sendCandidate, State.modRouter_canonical, State.eject_canonical, State.refuseFlit_canonical,
    State.sendOut_canonical]

theorem State.foldl_place_canonical {p : State × Used × Nat × List (Nat × Flit) × Nat} (h : p.1.Canonical) (s : State) (c l) :
    (List.foldl (State.place s c) p l).1.Canonical := by
  induction l generalizing p with
  | nil => exact h
  | cons a l ih => exact ih (State.place_canonical h s c a)

theorem State.routerCycle_canonical (h : s.Canonical) (c errs) : (s.routerCycle c errs).Canonical := by
  grind [State.routerCycle, State.modRouter_canonical, State.takeBorder_canonical, State.checkLinks_canonical, State.foldl_place_canonical,
    State.modRegion_canonical, State.sendCandidate_canonical]

theorem State.starve_canonical (h : s.Canonical) (c) : (s.starve c).Canonical := by
  grind [State.starve, State.modRouter_canonical, foldl_canonical]

theorem State.collect_canonical (h : s.Canonical) (m) : (s.collect m).Canonical := by
  grind [State.collect, State.modReasm_canonical, foldl_canonical]

theorem State.arrive_canonical (h : s.Canonical) (m) : (s.arrive m).Canonical := by
  grind [State.arrive, State.releaseTag_canonical, State.report_canonical, State.answer_canonical, State.Canonical]

theorem State.deliver_canonical (h : s.Canonical) (uid) : (s.deliver uid).Canonical := by
  grind [State.deliver, State.discard_canonical, State.collect_canonical, State.arrive_canonical, State.modReasm_canonical,
    State.Canonical]

/-! ## Home lines and answers -/

theorem State.setHome_canonical (h : s.Canonical) (ln j) : (s.setHome ln j).Canonical := h

theorem State.setTensor_canonical (h : s.Canonical) (id e) : (s.setTensor id e).Canonical := h

theorem State.freeRec_canonical (h : s.Canonical) (r) : (s.freeRec r).Canonical := by
  grind [State.freeRec, State.answer_canonical, State.modLogRec_canonical, State.ask_canonical, foldl_canonical]

theorem State.countPoison_canonical (h : s.Canonical) (ln before after) : (s.countPoison ln before after).Canonical := by
  grind [State.countPoison, State.modSlice_canonical]

theorem State.meetCorrected_canonical (h : s.Canonical) (sl e) : (s.meetCorrected sl e).Canonical := by
  grind [State.meetCorrected, State.modSlice_canonical, State.Canonical]

theorem State.meetHomeError_canonical (h : s.Canonical) (ln) : (s.meetHomeError ln).Canonical := by
  grind [State.meetHomeError, State.meetCorrected_canonical, State.modSlice_canonical, State.ask_canonical,
    State.setHome_canonical, State.countPoison_canonical, State.Canonical]

/-! ## Engines' copies of lines -/

theorem State.setDev_canonical (h : s.Canonical) (ep loc ln d) : (s.setDev ep loc ln d).Canonical := h

theorem State.devGo_canonical (h : s.Canonical) (ep l) : (s.devGo ep l).Canonical := by
  grind [State.devGo, State.ask_canonical, State.setDev_canonical]

theorem State.devServe_canonical (h : s.Canonical) (m) : (s.devServe m).Canonical := by
  grind [State.devServe, State.devGo_canonical, State.setDev_canonical, State.consume_canonical]

theorem State.devAsk_canonical (h : s.Canonical) (ep asid l) : (s.devAsk ep asid l).Canonical :=
  State.devGo_canonical (State.setDev_canonical h _ _ _ _) _ _

theorem State.devWant_canonical (h : s.Canonical) (ep asid ls) : (s.devWant ep asid ls).Canonical := by
  grind [State.devWant, State.devAsk_canonical, foldl_canonical]

theorem State.devUsed_canonical (h : s.Canonical) (ep ls) : (s.devUsed ep ls).Canonical := by
  grind [State.devUsed, State.setDev_canonical, foldl_canonical]

theorem State.devPut_canonical (h : s.Canonical) (ep l x mask asid) : (s.devPut ep l x mask asid).Canonical :=
  State.devGo_canonical (State.setDev_canonical h _ _ _ _) _ _

theorem State.devPutNum_canonical (h : s.Canonical) (ep l i n x asid) : (s.devPutNum ep l i n x asid).Canonical :=
  State.devPut_canonical h _ _ _ _ _

theorem State.ctxPut_canonical (h : s.Canonical) (n k x) : (s.ctxPut n k x).Canonical := State.devPutNum_canonical h _ _ _ _ _ _

theorem Core.askPreempt_ls (x : Core) (n) : (x.askPreempt n).ls = x.ls := rfl

theorem State.askPreempt_canonical (h : s.Canonical) (n) : (s.askPreempt n).Canonical := by
  grind [State.askPreempt, State.modCore_canonical, Core.askPreempt_ls, foldl_canonical, State.core_ls_wf]

theorem State.stopClock_canonical (h : s.Canonical) (n) : (s.stopClock n).Canonical := h

theorem State.deschedule_canonical (h : s.Canonical) (n st) : (s.deschedule n st).Canonical := by
  grind [State.deschedule, State.stopClock_canonical, State.askPreempt_canonical, State.modContext_canonical]

theorem State.charge_canonical (h : s.Canonical) (n k amount) : (s.charge n k amount).Canonical := State.ctxPut_canonical h _ _ _

theorem State.chargeHbm_canonical (h : s.Canonical) (asid) : (s.chargeHbm asid).Canonical := by
  grind [State.chargeHbm, State.charge_canonical]

theorem State.refuse_canonical (h : s.Canonical) (m o) : (s.refuse m o).Canonical := by
  cases o <;> grind [State.refuse, State.sendMsg_canonical, State.answer_canonical]

/-! ## Homes and proxies -/

theorem State.post_canonical (h : s.Canonical) (m) : (s.post m).Canonical := by
  grind [State.post, State.sendVia_canonical]

theorem State.callCopies_canonical (h : s.Canonical) (ln v body) : (s.callCopies ln v body).1.Canonical := by
  grind [State.callCopies, State.ask_canonical, foldl_canonical]

theorem State.notify_canonical (h : s.Canonical) (ln) : (s.notify ln).Canonical := by
  grind [State.notify, State.ask_canonical]

theorem State.startInval_canonical (h : s.Canonical) (ln j held) : (s.startInval ln j held).Canonical := by
  grind [State.startInval, State.callCopies_canonical, State.post_canonical, State.setHome_canonical, foldl_canonical]

theorem State.startRecall_canonical (h : s.Canonical) (ln j) : (s.startRecall ln j).Canonical := State.callCopies_canonical h _ _ _

theorem State.foldFlush_canonical (h : s.Canonical) (ln u p) : (s.foldFlush ln u p).Canonical := State.countPoison_canonical h _ _ _

theorem State.homeOp_canonical (h : s.Canonical) (ln j o rest) : (s.homeOp ln j o rest).Canonical := by
  grind [State.homeOp, State.post_canonical, State.setHome_canonical, State.startRecall_canonical, State.startInval_canonical,
    State.ask_canonical, State.notify_canonical, State.foldFlush_canonical]

theorem State.homeRun_canonical (h : s.Canonical) (ln k) : (s.homeRun ln k).Canonical := by
  induction k generalizing s with
  | zero => exact h
  | succ k ih =>
    grind [State.homeRun, State.setHome_canonical, State.ask_canonical, State.meetHomeError_canonical, State.homeOp_canonical, State.Canonical]

theorem State.homeGo_canonical (h : s.Canonical) (ln) : (s.homeGo ln).Canonical := State.homeRun_canonical h _ _

theorem State.entryRule_canonical (h : s.Canonical) (sl m) : (s.entryRule sl m).2.Canonical := h

theorem State.homeAccept_canonical (h : s.Canonical) (m r) : (s.homeAccept m r).Canonical := by
  grind [State.homeAccept, State.entryRule_canonical, State.setHome_canonical, State.homeGo_canonical, State.refuse_canonical]

theorem State.copyAcked_canonical (h : s.Canonical) (ln p) : (s.copyAcked ln p).Canonical := by
  grind [State.copyAcked, State.homeGo_canonical, State.post_canonical, State.setHome_canonical, foldl_canonical]

theorem State.recallFold_canonical (h : s.Canonical) (ln) : (s.recallFold ln).Canonical := by
  grind [State.recallFold, State.homeGo_canonical, State.setHome_canonical, State.countPoison_canonical]

theorem State.evictFor_canonical (h : s.Canonical) (ln) : (s.evictFor ln).Canonical := by
  grind [State.evictFor, State.homeGo_canonical, State.setHome_canonical]

theorem State.installLine_canonical (h : s.Canonical) (m ln data seq poison) : (s.installLine m ln data seq poison).Canonical := by
  grind [State.installLine, State.countPoison_canonical, State.consume_canonical, State.homeGo_canonical,
    State.chargeHbm_canonical, State.setHome_canonical]

theorem State.hbmFill_canonical (h : s.Canonical) (ln) : (s.hbmFill ln).Canonical := by
  grind [State.hbmFill, State.installLine_canonical, State.evictFor_canonical]

theorem State.writebackDone_canonical (h : s.Canonical) (ln) : (s.writebackDone ln).Canonical := by
  grind [State.writebackDone, State.consume_canonical, State.setLineMeta_canonical, State.ask_canonical, State.setHome_canonical,
    State.homeGo_canonical, State.chargeHbm_canonical]

theorem State.unpulled_canonical (h : s.Canonical) (ln) : (s.unpulled ln).Canonical := by
  grind [State.unpulled, State.homeGo_canonical, State.setHome_canonical]

theorem State.hbmServe_canonical (h : s.Canonical) (m) : (s.hbmServe m).Canonical := by
  grind [State.hbmServe, State.consume_canonical, State.answer_canonical, State.setLineMeta_canonical, State.Canonical, Memory.wf_writeLine]

theorem State.pulled_canonical (h : s.Canonical) (ln r es more bad) : (s.pulled ln r es more bad).Canonical := by
  grind [State.pulled, State.countPoison_canonical, State.ask_canonical, State.setHome_canonical, State.homeGo_canonical]

theorem State.logMark_canonical (h : s.Canonical) (ln r) : (s.logMark ln r).Canonical := by
  grind [State.logMark, State.setHome_canonical, State.setLineMeta_canonical]

theorem State.logClear_canonical (h : s.Canonical) (ln) : (s.logClear ln).Canonical := by
  grind [State.logClear, State.setLineMeta_canonical, State.setHome_canonical]

theorem State.storerWrite_canonical (h : s.Canonical) (m r rec n) : (s.storerWrite m r rec n).Canonical := by
  grind [State.storerWrite, State.answer_canonical, State.consume_canonical, State.homeGo_canonical, State.setHome_canonical]

theorem State.setProxy_canonical (h : s.Canonical) (sl ln p) : (s.setProxy sl ln p).Canonical := h

theorem State.dropProxy_canonical (h : s.Canonical) (sl ln) : (s.dropProxy sl ln).Canonical := h

theorem State.meetProxyError_canonical (h : s.Canonical) (sl ln) : (s.meetProxyError sl ln).Canonical := by
  grind [State.meetProxyError, State.meetCorrected_canonical, State.modSlice_canonical, State.setProxy_canonical,
    State.dropProxy_canonical, State.Canonical]

theorem State.partialFlush_canonical (h : s.Canonical) (sl ln) : (s.partialFlush sl ln).Canonical := by
  grind [State.partialFlush, State.meetProxyError_canonical, State.dropProxy_canonical, State.modSlice_canonical,
    State.ask_canonical]

theorem State.proxyRoom_canonical (h : s.Canonical) (sl ln wantU) : (s.proxyRoom sl ln wantU).Canonical := by
  grind [State.proxyRoom, State.partialFlush_canonical]

theorem State.forward_canonical (h : s.Canonical) (m ln) : (s.forward m ln).Canonical :=
  State.sendMsg_canonical (State.consume_canonical h _) _

theorem State.proxyWait_canonical (h : s.Canonical) (sl ln q m) : (s.proxyWait sl ln q m).Canonical := h

theorem State.proxyTake_canonical (h : s.Canonical) (sl m r) : (s.proxyTake sl m r).Canonical := by
  grind [State.proxyTake, State.meetProxyError_canonical, State.forward_canonical, State.setProxy_canonical,
    State.consume_canonical, State.answer_canonical, State.proxyWait_canonical, State.ask_canonical, State.dropProxy_canonical]

theorem State.proxyServe_canonical (h : s.Canonical) (m r) : (s.proxyServe m r).Canonical := by
  grind [State.proxyServe, State.meetProxyError_canonical, State.proxyTake_canonical, State.entryRule_canonical,
    State.refuse_canonical]

theorem State.proxyGoOn_canonical (h : s.Canonical) (sl ms) : (s.proxyGoOn sl ms).Canonical := by
  grind [State.proxyGoOn, State.proxyTake_canonical, foldl_canonical]

theorem State.proxyFilled_canonical (h : s.Canonical) (sl ln kind seq data) : (s.proxyFilled sl ln kind seq data).Canonical := by
  unfold State.proxyFilled
  split
  · exact h
  · rename_i q _
    extract_lets s1 s2
    have h2 : s2.Canonical := by
      grind [State.proxyRoom_canonical, State.setProxy_canonical, State.Canonical]
    clear_value s2
    grind [State.answer_canonical, State.proxyGoOn_canonical]

theorem State.proxyGranted_canonical (h : s.Canonical) (sl ln kind seq) : (s.proxyGranted sl ln kind seq).Canonical := by
  grind [State.proxyGranted, State.setProxy_canonical, State.proxyRoom_canonical, State.proxyGoOn_canonical,
    State.forward_canonical, State.Canonical, foldl_canonical]

theorem State.proxyCalled_canonical (h : s.Canonical) (m ln) : (s.proxyCalled m ln).Canonical := by
  grind [State.proxyCalled, State.consume_canonical, State.meetProxyError_canonical, State.dropProxy_canonical,
    State.answer_canonical, State.Canonical]

end Sys2Proof.Machine
end

section
/-!
PROOFS. Every step keeps every memory canonical (R30, R36, R103): traps, accesses and the engines' lines.
-/

namespace Sys2Proof.Machine

variable {s : State}

/-! ## Traps, retiring and the ends of strands -/

theorem State.modTile_canonical (h : s.Canonical) (c e f) : (s.modTile c e f).Canonical :=
  State.modCore_canonical h _ _ (State.core_ls_wf h _)

theorem State.sendClose_canonical (h : s.Canonical) (c r es) : (s.sendClose c r es).Canonical := by
  grind [State.sendClose, State.ask_canonical, foldl_canonical]

theorem State.tileEmpty_canonical (h : s.Canonical) (c e) : (s.tileEmpty c e).Canonical := by
  grind [State.tileEmpty, State.sendClose_canonical, State.modTile_canonical]

theorem State.tlcDown_canonical (h : s.Canonical) (c i) : (s.tlcDown c i).Canonical := State.modStrand_canonical h _ _ _

theorem State.tileStop_canonical (h : s.Canonical) (c e out next origin killed) :
    (s.tileStop c e out next origin killed).Canonical := by
  grind [State.tileStop, State.tileEmpty_canonical, State.modTile_canonical, State.tlcDown_canonical]

theorem State.streamStop_canonical (h : s.Canonical) (c sid) : (s.streamStop c sid).Canonical := by
  grind [State.streamStop, State.modTile_canonical, State.modCore_canonical, foldl_canonical, State.core_ls_wf]

theorem State.pushEnded_canonical (h : s.Canonical) (c sid) : (s.pushEnded c sid).Canonical := by
  grind [State.pushEnded, State.modCore_canonical, State.core_ls_wf]

theorem State.endTicket_canonical (h : s.Canonical) (k) : (s.endTicket k).Canonical := State.request_canonical h _ _ _ _ _ _

theorem State.withdrawSc_canonical (h : s.Canonical) (c i sent) : (s.withdrawSc c i sent).Canonical := by
  grind [State.withdrawSc, State.endTicket_canonical, State.modStrand_canonical, State.modCore_canonical, State.Canonical,
    State.core_ls_wf]

theorem State.unstall_canonical (h : s.Canonical) (c i) : (s.unstall c i).Canonical := by
  grind [State.unstall, State.modCore_canonical, foldl_canonical, State.core_ls_wf]

theorem Core.unwait_ls (x : Core) (i) : (x.unwait i).ls = x.ls := rfl

theorem Core.freeAccs_ls (x : Core) (i) : (x.freeAccs i).ls = x.ls := rfl

theorem State.park_canonical (h : s.Canonical) (c i) : (s.park c i).Canonical := by
  grind [State.park, State.Canonical]

theorem Core.killJournal_ls (x : Core) (i gone) : (x.killJournal i gone).ls = x.ls := rfl

theorem State.killTiles_canonical (h : s.Canonical) (c i gone) : (s.killTiles c i gone).Canonical := by
  grind [State.killTiles, State.tileStop_canonical, foldl_canonical]

theorem State.countEnded_canonical (h : s.Canonical) (k) : (s.countEnded k).Canonical := by
  grind [State.countEnded, State.modQueue_canonical]

theorem State.killStrand_canonical (h : s.Canonical) (c i) : (s.killStrand c i).Canonical := by
  grind [State.killStrand, State.unstall_canonical, State.withdrawSc_canonical, State.killTiles_canonical,
    State.modCore_canonical, Core.killJournal_ls, Core.freeAccs_ls, Core.unwait_ls, State.pushEnded_canonical,
    State.streamStop_canonical, State.countEnded_canonical, State.modStrand_canonical, State.park_canonical, State.Canonical,
    foldl_canonical, State.core_ls_wf]

theorem State.dropPlaced_canonical (h : s.Canonical) (c q) : (s.dropPlaced c q).Canonical := by
  grind [State.dropPlaced, State.countEnded_canonical, State.modCore_canonical, foldl_canonical, State.core_ls_wf]

theorem State.killCore_canonical (h : s.Canonical) (c q) : (s.killCore c q).Canonical := by
  grind [State.killCore, State.killStrand_canonical, State.dropPlaced_canonical, foldl_canonical]

theorem State.dropImages_canonical (h : s.Canonical) (q) : (s.dropImages q).Canonical := by
  grind [State.dropImages, State.countEnded_canonical, State.Canonical, foldl_canonical]

theorem State.killLaunch_canonical (h : s.Canonical) (q) : (s.killLaunch q).Canonical := by
  grind [State.killLaunch, State.killCore_canonical, State.dropImages_canonical, foldl_canonical]

theorem State.endLaunch_canonical (h : s.Canonical) (q stat cause) : (s.endLaunch q stat cause).Canonical :=
  State.killLaunch_canonical (State.modQueue_canonical h _ _) _

theorem State.failLaunch_canonical (h : s.Canonical) (c i q cause) : (s.failLaunch c i q cause).Canonical := h

theorem State.killsDue_canonical (h : s.Canonical) : s.killsDue.Canonical := by
  grind [State.killsDue, State.killLaunch_canonical, State.modQueue_canonical, foldl_canonical]

theorem State.sendFault_canonical (h : s.Canonical) (c svc addr asid kind acc src pc) :
    (s.sendFault c svc addr asid kind acc src pc).Canonical := by
  grind [State.sendFault, State.modCore_canonical, State.request_canonical, State.core_ls_wf]

theorem State.killUnit_canonical (h : s.Canonical) (c i l q cores) : (s.killUnit c i l q cores).Canonical := by
  cases q <;> grind [State.killUnit, State.killStrand_canonical, State.killCore_canonical, foldl_canonical]

theorem State.passOut_canonical (h : s.Canonical) (c i q num) : (s.passOut c i q num).Canonical := by
  cases q <;> grind [State.passOut, State.failLaunch_canonical, State.killStrand_canonical]

theorem State.contain_canonical (h : s.Canonical) (c i num async entered l0) : (s.contain c i num async entered l0).Canonical := by
  grind [State.contain, State.passOut_canonical, State.killStrand_canonical, State.failLaunch_canonical,
    State.modStrand_canonical, State.killUnit_canonical]

theorem State.fence_canonical (h : s.Canonical) (c) : (s.fence c).Canonical := by
  grind [State.fence, State.modCore_canonical, State.report_canonical, State.Canonical, State.core_ls_wf]

theorem State.doubleFault_canonical (h : s.Canonical) (c i num via addr) : (s.doubleFault c i num via addr).Canonical := by
  grind [State.doubleFault, State.modStrand_canonical, State.sendFault_canonical, State.fence_canonical, State.contain_canonical]

theorem State.takeTrap_canonical (h : s.Canonical) (c i x epc via) : (s.takeTrap c i x epc via).Canonical := by
  grind [State.takeTrap, State.doubleFault_canonical, State.modStrand_canonical, State.contain_canonical]

theorem State.raiseAt_canonical (h : s.Canonical) (c i num bad via) : (s.raiseAt c i num bad via).Canonical :=
  State.takeTrap_canonical h _ _ _ _ _

theorem State.raise_canonical (h : s.Canonical) (num bad via) : (s.raise num bad via).Canonical := State.raiseAt_canonical h _ _ _ _ _

theorem State.raisePc_canonical (h : s.Canonical) (num) : (s.raisePc num).Canonical := State.raise_canonical h _ _ _

theorem State.raise0_canonical (h : s.Canonical) (num) : (s.raise0 num).Canonical := State.raise_canonical h _ _ _

theorem State.raiseAcc_canonical (h : s.Canonical) (num bad) : (s.raiseAcc num bad).Canonical := State.raise_canonical h _ _ _

theorem State.pendBit_canonical (h : s.Canonical) (c i b) : (s.pendBit c i b).Canonical := State.modStrand_canonical h _ _ _

theorem State.stepTrap_canonical (h : s.Canonical) (c i) : (s.stepTrap c i).Canonical := by
  grind [State.stepTrap, State.takeTrap_canonical]

theorem State.retireTo_canonical (h : s.Canonical) (c i pc) : (s.retireTo c i pc).Canonical :=
  State.stepTrap_canonical (State.modStrand_canonical h _ _ _) _ _

theorem State.retireAt_canonical (h : s.Canonical) (c i) : (s.retireAt c i).Canonical :=
  State.stepTrap_canonical (State.modStrand_canonical h _ _ _) _ _

theorem State.retire_canonical (h : s.Canonical) : s.retire.Canonical := State.retireAt_canonical h _ _

theorem State.finish_canonical (h : s.Canonical) (f) : (s.finish f).Canonical := State.retire_canonical (State.modMe_canonical h _)

theorem State.finishLate_canonical (h : s.Canonical) (f) : (s.finishLate f).Canonical :=
  State.stepTrap_canonical (State.modStrand_canonical h _ _ _) _ _

theorem State.stall_canonical (h : s.Canonical) : s.stall.Canonical := State.modMe_canonical h _

theorem State.hold_canonical (h : s.Canonical) : s.hold.Canonical := State.modMe_canonical h _

theorem State.block_canonical (h : s.Canonical) (w) : (s.block w).Canonical := State.modMe_canonical h _

theorem State.begin__canonical (h : s.Canonical) (px privileged p) {body : Desc → State} (hb : ∀ d, (body d).Canonical) :
    (s.begin_ px privileged p body).Canonical := by
  grind [State.begin_, State.raisePc_canonical, State.retire_canonical]

/-! ## Accesses, posted operations and faults -/

theorem canonical_of_begin (h : s.Canonical) {px privileged p} {body : Desc → State} (hb : ∀ d, (body d).Canonical) {t}
    (ht : (.next (s.begin_ px privileged p body) : Res) = .next t) : t.Canonical := by
  cases ht
  exact State.begin__canonical h px privileged p hb

theorem State.lsView_canonical (h : s.Canonical) (c) : (s.lsView c).1.Canonical := by
  grind [State.lsView, State.Canonical]

theorem Core.tlbFill_ls (x : Core) (seed e) : (x.tlbFill seed e).ls = x.ls := rfl

theorem State.startWalk_canonical (h : s.Canonical) (c w) : (s.startWalk c w).Canonical := by
  grind [State.startWalk, State.modCore_canonical, State.ask_canonical, State.core_ls_wf]

theorem State.walkStrand_canonical (h : s.Canonical) (c i va bad acc n quiet) : (s.walkStrand c i va bad acc n quiet).Canonical := by
  grind [State.walkStrand, State.startWalk_canonical, State.modStrand_canonical]

theorem State.quietXlate_canonical (h : s.Canonical) (c i va n) {t} (ht : s.quietXlate c i va n = .error t) : t.Canonical := by
  grind [State.quietXlate, State.walkStrand_canonical]

theorem State.quietLine_canonical (h : s.Canonical) (c i a) {t} (ht : s.quietLine c i a = .error t) : t.Canonical := by
  grind [State.quietLine, State.quietXlate_canonical]

theorem State.strandFault_canonical (h : s.Canonical) (c i kind va bad acc) : (s.strandFault c i kind va bad acc).Canonical := by
  grind [State.strandFault, State.doubleFault_canonical, State.modStrand_canonical, State.raiseAt_canonical,
    State.sendFault_canonical]

theorem State.xlate_canonical (h : s.Canonical) (c i va bad acc n) {t} (ht : s.xlate c i va bad acc n = .busy t) : t.Canonical := by
  grind [State.xlate, State.walkStrand_canonical, State.strandFault_canonical]

theorem Core.l1Drop_ls (x : Core) (ln) : (x.l1Drop ln).ls = x.ls := rfl

theorem Core.l1Touch_ls (x : Core) (ln) : (x.l1Touch ln).ls = x.ls := rfl

theorem Core.l1Put_ls (x : Core) (ln d) : (x.l1Put ln d).ls = x.ls := by
  grind [Core.l1Put, Core.l1Drop_ls]

theorem Core.l1Write_ls (x : Core) (ln d mask) : (x.l1Write ln d mask).ls = x.ls := rfl

theorem Core.l1Clear_ls (x : Core) : x.l1Clear.ls = x.ls := rfl

theorem State.acquire_canonical (h : s.Canonical) (c scope) : (s.acquire c scope).Canonical := by
  cases scope <;> grind [State.acquire, State.modCore_canonical, Core.l1Clear_ls, State.core_ls_wf]

theorem Core.noFill_ls (x : Core) (ln) : (x.noFill ln).ls = x.ls := rfl

theorem State.checkLane_canonical (h : s.Canonical) (c i n acc need a)
    {t} (ht : s.checkLane c i n acc need a = .error t) : t.Canonical := by
  grind [State.checkLane, State.raiseAcc_canonical, State.modStrand_canonical, State.xlate_canonical]

theorem State.checkLanes_canonical (h : s.Canonical) (c i n acc need l) {t} (ht : s.checkLanes c i n acc need l = .stop t) : t.Canonical := by
  induction l generalizing t <;> grind [State.checkLanes, State.checkLane_canonical]

theorem Core.storeLocal_wf {x : Core} (h : x.ls.wf = true) (off n v) : (x.storeLocal off n v).ls.wf = true := by
  have := Memory.wf_writeNum off n v h
  grind [Core.storeLocal]

theorem State.sendPiece_canonical (h : s.Canonical) (c who asid prv p op cls) : (s.sendPiece c who asid prv p op cls).Canonical := by
  unfold State.sendPiece
  grind [State.request_canonical]

theorem State.accessDone_canonical (h : s.Canonical) (c i a) : (s.accessDone c i a).Canonical := by
  grind [State.accessDone, State.modStrand_canonical, State.retireAt_canonical, State.acquire_canonical,
    State.withdrawSc_canonical]

theorem State.accessGo_canonical (h : s.Canonical) (c i a k) : (s.accessGo c i a k).Canonical := by
  induction k generalizing s a with
  | zero => exact h
  | succ k ih =>
    unfold State.accessGo
    grind [State.accessDone_canonical, State.modStrand_canonical, State.modCore_canonical, State.sendPiece_canonical, Core.l1Touch_ls,
      Core.noFill_ls, Core.l1Write_ls, Core.l1Drop_ls, State.core_ls_wf]

theorem State.accessFail_canonical (h : s.Canonical) (c i num bad a) : (s.accessFail c i num bad a).Canonical := by
  unfold State.accessFail
  generalize a.last = l
  cases l <;> grind [State.modCore_canonical, State.core_ls_wf, State.modStrand_canonical, State.withdrawSc_canonical,
    State.raiseAt_canonical]

theorem State.startAccess_canonical (h : s.Canonical) (a) : (s.startAccess a).Canonical :=
  State.accessGo_canonical (State.modMe_canonical h _) _ _ _ _

theorem State.postPiece_canonical (h : s.Canonical) (c i p opk amo) {t} (ht : s.postPiece c i p opk amo = some t) : t.Canonical := by
  unfold State.postPiece at ht
  grind [State.modCore_canonical, State.core_ls_wf, State.modStrand_canonical, State.sendPiece_canonical, Core.noFill_ls, Core.l1Drop_ls,
    Core.setJent_ls]

theorem State.postAll_canonical (h : s.Canonical) (c i amo ps) : (s.postAll c i amo ps).Canonical := by
  induction ps generalizing s with
  | nil => grind [State.postAll, State.modStrand_canonical, State.retireAt_canonical]
  | cons p ps ih => grind [State.postAll, State.postPiece_canonical, State.modStrand_canonical]

theorem State.fetch_canonical (h : s.Canonical) (c i line) {t} (ht : s.fetch c i line = .busy t) : t.Canonical := by
  grind [State.fetch, State.modStrand_canonical, State.xlate_canonical, State.ask_canonical, State.Canonical]

theorem State.installILine_canonical (h : s.Canonical) (c i line b) : (s.installILine c i line b).Canonical := by
  grind [State.installILine, State.modCore_canonical, State.modStrand_canonical, State.Canonical, State.core_ls_wf]

theorem State.transfer_canonical (h : s.Canonical) (pc f) : (s.transfer pc f).Canonical := by
  grind [State.transfer, State.raise_canonical, State.fetch_canonical, State.retireTo_canonical, State.modMe_canonical,
    State.stall_canonical]

/-! ## Copies, fills and drains -/

theorem State.engineFault_canonical (h : s.Canonical) (c e kind) {t} (ht : s.engineFault c e kind = .waits t) : t.Canonical := by
  grind [State.engineFault, State.sendFault_canonical, State.modStrand_canonical]

theorem State.engineXlate_canonical (h : s.Canonical) (c e) {t} (ht : s.engineXlate c e = .waits t) : t.Canonical := by
  grind [State.engineXlate, State.engineFault_canonical, State.startWalk_canonical]

theorem State.engineReq_canonical (h : s.Canonical) (c src who asid pa p direct op mask data sb) :
    (s.engineReq c src who asid pa p direct op mask data sb).Canonical := State.requestMsg_canonical h _

theorem Core.writePiece_wf {x : Core} (h : x.ls.wf = true) (e p v) : (x.writePiece e p v).ls.wf = true := by
  grind [Core.writePiece, Memory.wf_writeNum, Memory.wf_writeLine, Memory.wf_zero, Memory.foldl_wf, Core.foldl_wf,
    Core.setSlot_ls]

theorem Core.writeLine_wf {x : Core} (h : x.ls.wf = true) (e l d) : (x.writeLine e l d).ls.wf = true := by
  grind [Core.writeLine, Memory.wf_writeNum, Memory.wf_writeLine, Memory.wf_zero, Memory.foldl_wf, Core.foldl_wf,
    Core.writePiece_wf]

theorem Core.putSb_wf {x : Core} (h : x.ls.wf = true) (e k sb) : (x.putSb e k sb).ls.wf = true := by
  grind [Core.putSb, Memory.wf_writeNum, Memory.wf_writeLine, Memory.wf_zero, Memory.foldl_wf, Core.foldl_wf, Core.setSlot_ls]

theorem Core.applyEntry_wf {x : Core} (h : x.ls.wf = true) (e tc fmt l) : (x.applyEntry e tc fmt l).ls.wf = true := by
  grind [Core.applyEntry, Memory.wf_writeNum, Memory.wf_writeLine, Memory.wf_zero, Memory.foldl_wf, Core.foldl_wf]

theorem State.tileFault_canonical (h : s.Canonical) (c e num bad) : (s.tileFault c e num bad).Canonical := by
  grind [State.tileFault, State.modTile_canonical, State.pendBit_canonical, State.pushEnded_canonical, State.streamStop_canonical,
    State.tileStop_canonical]

theorem State.tileMismatch_canonical (h : s.Canonical) (c e) : (s.tileMismatch c e).Canonical := by
  grind [State.tileMismatch, State.pendBit_canonical, State.modTile_canonical, State.pushEnded_canonical,
    State.streamStop_canonical, State.tileStop_canonical]

theorem State.slotClean_canonical (h : s.Canonical) (c e) : (s.slotClean c e).Canonical := by
  grind [State.slotClean, State.Canonical]

theorem State.fillDone_canonical (h : s.Canonical) (c t) : (s.fillDone c t).Canonical := by
  unfold State.fillDone
  grind [State.modCore_canonical, State.core_ls_wf, Core.foldl_wf, Core.applyEntry_wf, State.slotClean_canonical, State.modTile_canonical,
    State.pushEnded_canonical, State.tlcDown_canonical]

theorem State.fillGo_canonical (h : s.Canonical) (c t) : (s.fillGo c t).Canonical := by
  unfold State.fillGo
  dsimp only
  split
  · exact State.fillDone_canonical h c t
  · grind [State.tileFault_canonical, State.engineXlate_canonical, State.engineReq_canonical, State.modTile_canonical]
  · exact h

theorem State.zeroSlot_canonical (h : s.Canonical) (c o ws) : (s.zeroSlot c o ws).Canonical := by
  grind [State.zeroSlot, State.modCore_canonical, Core.setSlot_ls, State.Canonical, State.core_ls_wf]

theorem State.zeroScales_canonical (h : s.Canonical) (c o ws) : (s.zeroScales c o ws).Canonical := by
  grind [State.zeroScales, State.modCore_canonical, Core.setSlot_ls, State.Canonical, State.core_ls_wf]

theorem State.zeroDrained_canonical (h : s.Canonical) (c e) : (s.zeroDrained c e).Canonical := by
  grind [State.zeroDrained, State.zeroSlot_canonical, State.zeroScales_canonical]

theorem State.drainXlate_canonical (h : s.Canonical) (c e o priv ring p)
    {t} (ht : s.drainXlate c e o priv ring p = .waits t) : t.Canonical := by
  grind [State.drainXlate, State.engineXlate_canonical]

theorem State.drainGo_canonical (h : s.Canonical) (c e) : (s.drainGo c e).Canonical := by
  grind [State.drainGo, State.modTile_canonical, State.zeroDrained_canonical, State.requestMsg_canonical,
    State.drainXlate_canonical, State.tileFault_canonical, State.engineReq_canonical]

theorem State.ringStore_canonical (h : s.Canonical) (m c e k mask data) : (s.ringStore m c e k mask data).Canonical := by
  grind [State.ringStore, State.answer_canonical, State.consume_canonical, State.drainXlate_canonical, State.tileFault_canonical,
    State.modTile_canonical, State.engineReq_canonical, State.tileStop_canonical]

theorem State.fillReads_canonical (h : s.Canonical) (c e sid o priv) : (s.fillReads c e sid o priv).Canonical :=
  State.fillGo_canonical (State.modTile_canonical h _ _ _) _ _

theorem State.fillBegin_canonical (h : s.Canonical) (c e sid o priv asid pc) : (s.fillBegin c e sid o priv asid pc).Canonical := by
  grind [State.fillBegin, State.modTile_canonical, State.tileFault_canonical, State.fillReads_canonical, State.ask_canonical]

theorem State.drainBegin_canonical (h : s.Canonical) (c e o priv asid pc) : (s.drainBegin c e o priv asid pc).Canonical :=
  State.drainGo_canonical (State.modTile_canonical h _ _ _) _ _

theorem State.copyEnd_canonical (h : s.Canonical) (c id st cause bad) : (s.copyEnd c id st cause bad).Canonical := by
  grind [State.copyEnd, State.modStrand_canonical, State.modCore_canonical, Core.setCopyId_ls, State.pendBit_canonical,
    State.core_ls_wf]

theorem State.copyFault_canonical (h : s.Canonical) (c id num bad) : (s.copyFault c id num bad).Canonical := by
  grind [State.copyFault, State.copyEnd_canonical, State.modCore_canonical, Core.setCopyId_ls, State.core_ls_wf]

theorem Core.modCopy_ls (x : Core) (id f) : (x.modCopy id f).ls = x.ls := rfl

theorem State.copyGo_canonical (h : s.Canonical) (c id) : (s.copyGo c id).Canonical := by
  grind [State.copyGo, State.copyEnd_canonical, State.modCore_canonical, Core.modCopy_ls, State.engineXlate_canonical,
    State.copyFault_canonical, State.engineReq_canonical, State.request_canonical, Core.setGroup_ls, State.Canonical,
    foldl_canonical, State.core_ls_wf, State.myCore]

theorem State.copyWrote_canonical (h : s.Canonical) (c id gen cause bad) : (s.copyWrote c id gen cause bad).Canonical := by
  grind [State.copyWrote, State.modCore_canonical, Core.setGroup_ls, Core.setCopyId_ls, State.copyFault_canonical,
    State.copyEnd_canonical, State.copyGo_canonical, State.core_ls_wf]

theorem State.imageSkip_canonical (h : s.Canonical) (c) : (s.imageSkip c).Canonical := by
  grind [State.imageSkip, State.Canonical]

theorem State.engineGo_canonical (h : s.Canonical) (c who) : (s.engineGo c who).Canonical := by
  cases who <;> grind [State.engineGo, State.copyGo_canonical, State.fillGo_canonical, State.drainGo_canonical]

theorem State.ringDrop_canonical (h : s.Canonical) (c e) : (s.ringDrop c e).Canonical := by
  grind [State.ringDrop, State.answer_canonical, State.consume_canonical]

theorem State.engineEnd_canonical (h : s.Canonical) (c who num bad) : (s.engineEnd c who num bad).Canonical := by
  cases who <;> grind [State.engineEnd, State.imageSkip_canonical, State.copyFault_canonical, State.ringDrop_canonical,
    State.modTile_canonical, State.tileFault_canonical]

theorem State.enginesGo_canonical (h : s.Canonical) (c) : (s.enginesGo c).Canonical := by
  grind [State.enginesGo, State.copyGo_canonical, State.fillGo_canonical, State.drainGo_canonical, foldl_canonical]

end Sys2Proof.Machine
end

section
/-!
PROOFS. Every step keeps every memory canonical (R30, R36, R103): logged tensors.
-/

namespace Sys2Proof.Machine

variable {s : State}

/-! ## Log homes -/

theorem State.sendMarks_canonical (h : s.Canonical) (r) : (s.sendMarks r).Canonical := by
  grind [State.sendMarks, State.modLogRec_canonical, State.ask_canonical, foldl_canonical]

theorem State.freeIfEmpty_canonical (h : s.Canonical) (r) : (s.freeIfEmpty r).Canonical := by
  grind [State.freeIfEmpty, State.freeRec_canonical]

theorem State.logAnswer_canonical (h : s.Canonical) (m kind seq) : (s.logAnswer m kind seq).Canonical := by
  grind [State.logAnswer, State.answer_canonical]

theorem State.fwdSend_canonical (h : s.Canonical) (r ln e) : (s.fwdSend r ln e).Canonical := by
  grind [State.fwdSend, State.ask_canonical]

theorem State.fwdGo_canonical (h : s.Canonical) (r) : (s.fwdGo r).Canonical := by
  have key : ∀ (l : List (Nat × Nat × LogEntry)) (a : State × List (Nat × Nat) × List (Nat × Nat × LogEntry)), a.1.Canonical →
      (l.foldl (fun a q => if a.2.1.any (·.1 == q.1) || a.2.2.any (·.1 == q.1) then (a.1, a.2.1, a.2.2 ++ [q])
        else (a.1.fwdSend r q.1 q.2.2, (q.1, q.2.1) :: a.2.1, a.2.2)) a).1.Canonical := by
    intro l
    induction l with
    | nil => exact fun _ h => h
    | cons q l ih => exact fun a ha => ih _ (by grind [State.fwdSend_canonical])
  grind [State.fwdGo, State.modLogRec_canonical]

theorem State.ackReady_canonical (h : s.Canonical) (r) : (s.ackReady r).Canonical := by
  grind [State.ackReady, State.logAnswer_canonical, State.modLogRec_canonical, foldl_canonical]

theorem State.tlogAnswer_canonical (h : s.Canonical) (m q) : (s.tlogAnswer m q).Canonical := by
  grind [State.tlogAnswer, State.answer_canonical]

theorem State.syncReady_canonical (h : s.Canonical) (r) : (s.syncReady r).Canonical := by
  grind [State.syncReady, State.tlogAnswer_canonical, State.modLogRec_canonical, foldl_canonical]

theorem State.forceStart_canonical (h : s.Canonical) (r) : (s.forceStart r).Canonical := by
  grind [State.forceStart, State.modSlice_canonical, State.modLogRec_canonical, State.ask_canonical, foldl_canonical]

theorem State.forceOldest_canonical (h : s.Canonical) (sl) : (s.forceOldest sl).Canonical := by
  grind [State.forceOldest, State.forceStart_canonical]

theorem State.nackHeld_canonical (h : s.Canonical) (r) : (s.nackHeld r).Canonical := by
  grind [State.nackHeld, State.logAnswer_canonical, State.modLogRec_canonical, foldl_canonical]

theorem State.failTensor_canonical (h : s.Canonical) (id) : (s.failTensor id).Canonical := by
  grind [State.failTensor, State.setTensor_canonical, State.modLogRec_canonical, State.nackHeld_canonical,
    State.syncReady_canonical, State.freeIfEmpty_canonical, foldl_canonical]

theorem State.freeTensor_canonical (h : s.Canonical) (id) : (s.freeTensor id).Canonical := h

theorem State.spillFault_canonical (h : s.Canonical) (r kind va) : (s.spillFault r kind va).Canonical := by
  grind [State.spillFault, State.failTensor_canonical, State.sendFault_canonical, State.modLogRec_canonical,
    State.modCore_canonical, State.core_ls_wf]

theorem State.spillXlate_canonical (h : s.Canonical) (r rd wr ks l) {t} (ht : s.spillXlate r rd wr ks l = .error t) : t.Canonical := by
  induction ks generalizing l with
  | nil => simp [State.spillXlate] at ht
  | cons k ks ih => grind [State.spillXlate, State.spillFault_canonical, State.startWalk_canonical]

theorem State.spillRead_error_canonical (h : s.Canonical) (r) {t} (ht : s.spillRead r = .error t) : t.Canonical := by
  grind [State.spillRead, State.spillXlate_canonical, State.devUsed_canonical, State.devWant_canonical]

theorem State.spillRead_ok_canonical (h : s.Canonical) (r) {k t} (ht : s.spillRead r = .ok (t, k)) : t.Canonical := by
  grind [State.spillRead, State.spillXlate_canonical, State.devUsed_canonical, State.devWant_canonical]

theorem State.spillWrite_error_canonical (h : s.Canonical) (r chip k tail)
    {t} (ht : s.spillWrite r chip k tail = .error t) : t.Canonical := by
  grind [State.spillWrite, State.spillXlate_canonical, State.devPutNum_canonical, State.modLogRec_canonical]

theorem State.spillWrite_ok_canonical (h : s.Canonical) (r chip k tail) {t} (ht : s.spillWrite r chip k tail = .ok t) : t.Canonical := by
  unfold State.spillWrite at ht
  dsimp only at ht
  split at ht
  · cases ht
  · cases ht
    exact State.modLogRec_canonical (foldl_canonical (fun v e hv => State.devPutNum_canonical hv _ _ _ _ _ _) _ h) _ _

theorem State.rewriteLog_error_canonical (h : s.Canonical) (r es) {t} (ht : s.rewriteLog r es = .error t) : t.Canonical := by
  grind [State.rewriteLog, State.spillWrite_error_canonical, State.spillWrite_ok_canonical]

theorem State.rewriteLog_ok_canonical (h : s.Canonical) (r es) {t} (ht : s.rewriteLog r es = .ok t) : t.Canonical := by
  grind [State.rewriteLog, State.spillWrite_error_canonical, State.spillWrite_ok_canonical]

theorem State.compactRec_error_canonical (h : s.Canonical) (r) {t} (ht : s.compactRec r = .error t) : t.Canonical := by
  unfold State.compactRec at ht
  split at ht
  · cases ht; exact State.spillRead_error_canonical h r (by assumption)
  · exact State.rewriteLog_error_canonical (State.spillRead_ok_canonical h r (by assumption)) _ _ ht

theorem State.compactRec_ok_canonical (h : s.Canonical) (r) {t} (ht : s.compactRec r = .ok t) : t.Canonical := by
  unfold State.compactRec at ht
  split at ht
  · cases ht
  · exact State.rewriteLog_ok_canonical (State.spillRead_ok_canonical h r (by assumption)) _ _ ht

theorem State.placeHeld_error_canonical (h : s.Canonical) (r) {t} (ht : s.placeHeld r = .error t) : t.Canonical := by
  unfold State.placeHeld at ht
  dsimp only at ht
  split at ht
  · split at ht
    · grind [State.spillRead_error_canonical]
    · rename_i hr
      exact State.rewriteLog_error_canonical (State.spillRead_ok_canonical h _ hr) _ _ ht
  · exact State.spillWrite_error_canonical h _ _ _ _ ht

theorem State.placeHeld_ok_canonical (h : s.Canonical) (r) {t} (ht : s.placeHeld r = .ok t) : t.Canonical := by
  unfold State.placeHeld at ht
  dsimp only at ht
  split at ht
  · split at ht
    · cases ht
    · rename_i hr
      exact State.rewriteLog_ok_canonical (State.spillRead_ok_canonical h _ hr) _ _ ht
  · exact State.spillWrite_ok_canonical h _ _ _ _ ht

theorem State.placed_canonical (h : s.Canonical) (r) : (s.placed r).Canonical := by
  grind [State.placed, State.modLogRec_canonical, State.ackReady_canonical, State.fwdGo_canonical, State.forceStart_canonical,
    State.freeIfEmpty_canonical]

theorem State.spillGo_canonical (h : s.Canonical) (r) : (s.spillGo r).Canonical := by
  grind [State.spillGo, State.placeHeld_error_canonical, State.placeHeld_ok_canonical, State.placed_canonical]

theorem State.spillResume_canonical (h : s.Canonical) (r) : (s.spillResume r).Canonical :=
  State.spillGo_canonical (State.modLogRec_canonical h _ _) _

theorem State.spillsGo_canonical (h : s.Canonical) (sl) : (s.spillsGo sl).Canonical := by
  grind [State.spillsGo, State.spillGo_canonical, foldl_canonical]

theorem State.storerApply_canonical (h : s.Canonical) (r) : (s.storerApply r).Canonical := by
  unfold State.storerApply
  dsimp only
  split
  · exact h
  · split
    · grind [State.spillRead_error_canonical]
    · rename_i u es hr
      have hu := State.spillRead_ok_canonical h _ hr
      refine State.modLogRec_canonical (foldl_canonical (fun v a hv => ?_) _ ?_) _ _
      · grind [State.ask_canonical]
      · exact hu

theorem State.storerDone_canonical (h : s.Canonical) (r) : (s.storerDone r).Canonical := by
  grind [State.storerDone, State.freeRec_canonical, State.Canonical]

theorem State.logAccept_canonical (h : s.Canonical) (m r es) : (s.logAccept m r es).Canonical := by
  grind [State.logAccept, State.sendMarks_canonical, State.modLogRec_canonical, State.spillGo_canonical,
    State.setLogRec_canonical]

theorem State.logUpdate_canonical (h : s.Canonical) (m who r es) : (s.logUpdate m who r es).Canonical := by
  grind [State.logUpdate, State.answer_canonical, State.consume_canonical, State.refuse_canonical, State.forceOldest_canonical,
    State.compactRec_error_canonical, State.compactRec_ok_canonical, State.modLogRec_canonical, State.logAccept_canonical,
    State.forceStart_canonical]

theorem State.logPull_canonical (h : s.Canonical) (m ln r) : (s.logPull m ln r).Canonical := by
  unfold State.logPull
  dsimp only
  split
  · grind [State.consume_canonical, State.answer_canonical]
  · split
    · exact h
    · split
      · exact State.spillRead_error_canonical h r (by assumption)
      · rename_i hr
        have hu := State.spillRead_ok_canonical h r hr
        split
        · exact State.rewriteLog_error_canonical hu _ _ (by assumption)
        · rename_i hw
          have := State.rewriteLog_ok_canonical hu _ _ hw
          grind [State.consume_canonical, State.answer_canonical, State.modLogRec_canonical, State.freeIfEmpty_canonical]

theorem State.logUnpull_canonical (h : s.Canonical) (m ln r) : (s.logUnpull m ln r).Canonical := by
  grind [State.logUnpull, State.answer_canonical, State.modLogRec_canonical, State.consume_canonical]

theorem State.closeEnd_canonical (h : s.Canonical) (r) : (s.closeEnd r).Canonical := by
  grind [State.closeEnd, State.answer_canonical, State.syncReady_canonical, State.modLogRec_canonical, State.freeRec_canonical,
    State.spillGo_canonical, State.sendMarks_canonical, State.forceOldest_canonical, foldl_canonical]

theorem State.logClosed_canonical (h : s.Canonical) (r es) : (s.logClosed r es).Canonical := by
  grind [State.logClosed, State.modLogRec_canonical, State.closeEnd_canonical, State.fwdGo_canonical, State.Canonical]

theorem State.logClose_canonical (h : s.Canonical) (m r core parts) : (s.logClose m r core parts).Canonical := by
  grind [State.logClose, State.answer_canonical, State.consume_canonical, State.modLogRec_canonical, State.logClosed_canonical]

theorem State.logOpen_canonical (h : s.Canonical) (m r core tile) : (s.logOpen m r core tile).Canonical := by
  grind [State.logOpen, State.answer_canonical, State.consume_canonical, State.refuse_canonical, State.forceOldest_canonical,
    State.modLogRec_canonical, State.failTensor_canonical, State.logClosed_canonical]

theorem State.fwdAcked_canonical (h : s.Canonical) (r ln) : (s.fwdAcked r ln).Canonical := by
  grind [State.fwdAcked, State.freeIfEmpty_canonical, State.closeEnd_canonical, State.syncReady_canonical,
    State.ackReady_canonical, State.fwdGo_canonical, State.modLogRec_canonical]

theorem State.markAcked_canonical (h : s.Canonical) (r) : (s.markAcked r).Canonical := by
  grind [State.markAcked, State.freeIfEmpty_canonical, State.ackReady_canonical, State.modLogRec_canonical]

theorem State.tlogServe_canonical (h : s.Canonical) (m c r form) : (s.tlogServe m c r form).Canonical := by
  cases form <;> grind [State.tlogServe, State.consume_canonical, State.tlogAnswer_canonical, State.compactRec_error_canonical,
    State.compactRec_ok_canonical, State.modLogRec_canonical]

theorem State.fwdArrive_canonical (h : s.Canonical) (m r c n e) : (s.fwdArrive m r c n e).Canonical := by
  grind [State.fwdArrive, State.answer_canonical, State.consume_canonical, State.modTile_canonical, State.modCore_canonical,
    Core.applyEntry_wf, State.refuse_canonical, State.core_ls_wf]

/-! ## Updates of logged tiles -/

theorem State.sendUpdate_canonical (h : s.Canonical) (g es) : (s.sendUpdate g es).Canonical := by
  grind [State.sendUpdate, State.raiseAcc_canonical, State.retire_canonical, State.hold_canonical, State.modMe_canonical,
    State.modMyCore_canonical, Core.setJent_ls, State.ask_canonical, State.core_ls_wf]

theorem execLogt_canonical (h : s.Canonical) (d x) {t} (ht : execLogt d x s = .next t) : t.Canonical := by
  refine canonical_of_begin h (fun _ => ?_) ht
  grind (splits := 20) [State.hold_canonical, State.raise0_canonical, State.xlate_canonical, State.block_canonical,
    State.ask_canonical, State.raiseAcc_canonical]

theorem execLogtRet_canonical (h : s.Canonical) (a p) {t} (ht : execLogtRet a p s = .next t) : t.Canonical := by
  grind [execLogtRet, State.begin__canonical, State.raise0_canonical, State.setTensor_canonical, State.forceStart_canonical,
    State.block_canonical, State.ask_canonical, foldl_canonical]

theorem State.tlog_canonical (h : s.Canonical) (d a form) : (s.tlog d a form).Canonical := by
  grind [State.tlog, State.raiseAcc_canonical, State.block_canonical, State.ask_canonical]

theorem execTlogSync_canonical (h : s.Canonical) (d a p) {t} (ht : execTlogSync d a p s = .next t) : t.Canonical := by
  grind [execTlogSync, State.begin__canonical, State.finish_canonical, State.tlog_canonical]

theorem State.wakeRaise_canonical (h : s.Canonical) (c i num via) : (s.wakeRaise c i num via).Canonical :=
  State.raiseAt_canonical (State.modStrand_canonical h _ _ _) _ _ _ _ _

theorem State.tlogAnswered_canonical (h : s.Canonical) (m c i w) : (s.tlogAnswered m c i w).Canonical := by
  grind [State.tlogAnswered, State.consume_canonical, State.wakeRaise_canonical, State.modStrand_canonical,
    State.retireAt_canonical]

theorem State.logtAnswered_canonical (h : s.Canonical) (m c i res) : (s.logtAnswered m c i res).Canonical := by
  unfold State.logtAnswered
  cases res <;> grind [State.consume_canonical, State.wakeRaise_canonical, State.modStrand_canonical, State.retireAt_canonical]

end Sys2Proof.Machine
end

section
/-!
PROOFS. Every step keeps every memory canonical (R30, R36, R103): memory, barrier and vector instructions.
-/

namespace Sys2Proof.Machine

variable {s : State}

/-! ## Loads, stores and queues -/

theorem State.loadLanes_canonical (h : s.Canonical) (x n join lanes last old) : (s.loadLanes x n join lanes last old).Canonical := by
  grind [State.loadLanes, State.checkLanes_canonical, State.hold_canonical, State.lsView_canonical, State.startAccess_canonical]

theorem Core.storeLanes_wf {x : Core} (h : x.ls.wf = true) (n) (data : Nat → Nat) (l : List (Lane × Spot)) :
    (l.foldl (fun (k : Core) (e : Lane × Spot) => match e.2 with
      | .loc off => k.storeLocal off n (data e.1.1)
      | _ => k) x).ls.wf = true :=
  Core.foldl_wf (fun k e hk => by
    split
    · exact Core.storeLocal_wf hk _ _ _
    · exact hk) l h

theorem State.storeLanes_canonical (h : s.Canonical) (x n join lanes data) : (s.storeLanes x n join lanes data).Canonical := by
  unfold State.storeLanes
  dsimp only
  split
  · exact State.checkLanes_canonical h _ _ _ _ _ _ (by assumption)
  · rename_i l _
    have hl := Core.storeLanes_wf (State.core_ls_wf h s.cur.1) n data l
    split
    · exact State.hold_canonical h
    · split
      · exact State.hold_canonical h
      · split
        · exact State.postAll_canonical (State.modMyCore_canonical h _ hl) _ _ _ _
        · exact State.startAccess_canonical (State.modMyCore_canonical h _ hl) _

theorem State.loadVec_canonical (h : s.Canonical) (x join addr) : (s.loadVec x join addr).Canonical :=
  State.loadLanes_canonical h _ _ _ _ _ _

theorem State.storeVec_canonical (h : s.Canonical) (x join data addr) : (s.storeVec x join data addr).Canonical :=
  State.storeLanes_canonical h _ _ _ _ _

theorem State.prefetch_canonical (h : s.Canonical) (a keep) : (s.prefetch a keep).Canonical := by
  grind [State.prefetch, State.quietLine_canonical, State.retire_canonical, State.hold_canonical, State.ask_canonical,
    State.modMyCore_canonical, State.core_ls_wf]

theorem Core.iDrop_ls (x : Core) (f) : (x.iDrop f).ls = x.ls := rfl

theorem execCinv_canonical (h : s.Canonical) (x) {t} (ht : execCinv x s = .next t) : t.Canonical := by
  grind [execCinv, State.begin__canonical, State.quietLine_canonical, State.modMyCore_canonical, Core.noFill_ls, Core.l1Drop_ls,
    State.retire_canonical, Core.iDrop_ls, State.core_ls_wf]

theorem execCinvData_canonical (h : s.Canonical) (p) {t} (ht : execCinvData p s = .next t) : t.Canonical := by
  grind [execCinvData, State.begin__canonical, State.retire_canonical, State.modMyCore_canonical, Core.l1Clear_ls,
    State.core_ls_wf]

theorem execCinvInstr_canonical (h : s.Canonical) (p) {t} (ht : execCinvInstr p s = .next t) : t.Canonical := by
  grind [execCinvInstr, State.begin__canonical, State.retire_canonical, State.modMyCore_canonical, Core.iDrop_ls,
    State.core_ls_wf]

theorem execCinvAll_canonical (h : s.Canonical) (p) {t} (ht : execCinvAll p s = .next t) : t.Canonical := by
  grind [execCinvAll, State.begin__canonical, State.retire_canonical, State.modMyCore_canonical, Core.iDrop_ls, Core.l1Clear_ls,
    State.core_ls_wf]

theorem execCwb_canonical (h : s.Canonical) (x) {t} (ht : execCwb x s = .next t) : t.Canonical := by
  grind [execCwb, State.begin__canonical, State.quietLine_canonical, State.retire_canonical, State.hold_canonical,
    State.partialFlush_canonical]

theorem execBmode_canonical (h : s.Canonical) (mode bank p) {t} (ht : execBmode mode bank p s = .next t) : t.Canonical := by
  grind [execBmode, State.begin__canonical, State.raiseAcc_canonical, State.block_canonical]

theorem execQpush_canonical (h : s.Canonical) (x) {t} (ht : execQpush x s = .next t) : t.Canonical := by
  grind [execQpush, State.begin__canonical, State.hold_canonical, State.modMe_canonical, State.modMyCore_canonical,
    Core.setJent_ls, State.retire_canonical, State.request_canonical, State.raiseAcc_canonical, State.core_ls_wf]

theorem execQpop_canonical (h : s.Canonical) (x) {t} (ht : execQpop x s = .next t) : t.Canonical := by
  grind [execQpop, State.begin__canonical, State.stall_canonical, State.raiseAcc_canonical, State.modMyCore_canonical,
    State.modMe_canonical, State.retire_canonical, State.acquire_canonical, State.core_ls_wf]

theorem execWait_canonical (h : s.Canonical) (l sc c e p) {t} (ht : execWait l sc c e p s = .next t) : t.Canonical := by
  grind [execWait, State.begin__canonical, State.retire_canonical, State.stall_canonical]

theorem execFence_canonical (h : s.Canonical) (scope later earlier p)
    {t} (ht : execFence scope later earlier p s = .next t) : t.Canonical := by
  grind [execFence, State.begin__canonical, State.retire_canonical, State.modMyCore_canonical, Core.l1Clear_ls,
    State.block_canonical, State.stall_canonical, State.core_ls_wf]

/-! ## Atomics -/

theorem State.askTicket_canonical (h : s.Canonical) (scope) : (s.askTicket scope).Canonical := by
  cases scope <;> grind [State.askTicket, State.modMyCore_canonical, State.core_ls_wf, State.modMe_canonical, State.request_canonical,
    State.block_canonical, State.Canonical]

theorem State.amoLocal_canonical (h : s.Canonical) (x off) : (s.amoLocal x off).Canonical := by
  grind [State.amoLocal, State.modMyCore_canonical, State.core_ls_wf, Memory.wf_writeNum, State.modMe_canonical, State.withdrawSc_canonical,
    State.acquire_canonical, State.retire_canonical]

theorem execAmo_canonical (h : s.Canonical) (x) {t} (ht : execAmo x s = .next t) : t.Canonical := by
  grind [execAmo, State.begin__canonical, State.checkLanes_canonical, State.withdrawSc_canonical, State.raiseAcc_canonical,
    State.hold_canonical, State.askTicket_canonical, State.amoLocal_canonical, State.startAccess_canonical]

theorem execRed_canonical (h : s.Canonical) (x) {t} (ht : execRed x s = .next t) : t.Canonical := by
  grind [execRed, State.begin__canonical, State.raiseAcc_canonical, State.checkLanes_canonical, State.hold_canonical,
    State.postAll_canonical]

theorem State.granted_canonical (h : s.Canonical) (seqr k) : (s.granted seqr k).Canonical := State.modStrand_canonical h _ _ _

theorem State.scServe_canonical (h : s.Canonical) (m) : (s.scServe m).Canonical := by
  grind [State.scServe, State.consume_canonical, State.answer_canonical, State.wakeRaise_canonical, State.withdrawSc_canonical,
    State.granted_canonical, State.Canonical]

/-! ## Barriers -/

theorem Core.setNode_ls (x : Core) (ch w) : (x.setNode ch w).ls = x.ls := rfl

theorem execArv_canonical (h : s.Canonical) (scope other m ch p) {t} (ht : execArv scope other m ch p s = .next t) : t.Canonical := by
  grind [execArv, State.begin__canonical, State.raisePc_canonical, State.raise0_canonical, State.stall_canonical,
    State.block_canonical]

theorem execWtb_canonical (h : s.Canonical) (scope ch p) {t} (ht : execWtb scope ch p s = .next t) : t.Canonical := by
  grind [execWtb, State.begin__canonical, State.raise0_canonical, State.stall_canonical, State.retire_canonical,
    State.acquire_canonical]

theorem State.groupDone_canonical (h : s.Canonical) (ch gix) : (s.groupDone ch gix).Canonical := by
  grind [State.groupDone, State.setBarGroup_canonical]

theorem execBcfg_canonical (h : s.Canonical) (a ch p) {t} (ht : execBcfg a ch p s = .next t) : t.Canonical := by
  grind [execBcfg, State.begin__canonical, State.raisePc_canonical, State.raise0_canonical, State.retire_canonical,
    State.groupDone_canonical, State.modMyCore_canonical, Core.setNode_ls, State.core_ls_wf]

theorem execBcfgGrp_canonical (h : s.Canonical) (a b ch p) {t} (ht : execBcfgGrp a b ch p s = .next t) : t.Canonical := by
  grind [execBcfgGrp, State.begin__canonical, State.raisePc_canonical, State.raise0_canonical, State.retire_canonical,
    State.setBarGroup_canonical]

theorem State.acceptArrival_canonical (h : s.Canonical) (c i node ch) : (s.acceptArrival c i node ch).Canonical := by
  grind [State.acceptArrival, State.modCore_canonical, Core.setNode_ls, State.groupDone_canonical, State.setBarGroup_canonical,
    State.modStrand_canonical, State.retireAt_canonical, State.core_ls_wf]

theorem execBarrierArrival_canonical (h : s.Canonical) (c i) {t} (ht : execBarrierArrival c i s = .next t) : t.Canonical := by
  grind [execBarrierArrival, State.modCore_canonical, State.acceptArrival_canonical, State.core_ls_wf]

theorem State.unbias_canonical (h : s.Canonical) (me) : (s.unbias me).Canonical := h

theorem execGroupRelease_canonical (h : s.Canonical) (ch gix) {t} (ht : execGroupRelease ch gix s = .next t) : t.Canonical := by
  unfold execGroupRelease at ht
  split at ht
  · cases ht
  · extract_lets g w ms l tl tf epi cls lastCl comp at_ low skew v me u at ht
    have hu : u.Canonical := State.unbias_canonical (State.setBarGroup_canonical h _ _ _) _
    clear_value skew low u
    grind [foldl_canonical, State.modCluster_canonical]

theorem execNodeRelease_canonical (h : s.Canonical) (c ch) {t} (ht : execNodeRelease c ch s = .next t) : t.Canonical := by
  grind [execNodeRelease, State.setBarGroup_canonical, State.modCore_canonical, Core.setNode_ls, State.core_ls_wf]

/-! ## Boot and reset -/

theorem execBoot_canonical (h : s.Canonical) {t} (ht : execBoot s = .next t) : t.Canonical := by
  grind [execBoot, State.Canonical]

theorem State.endCocoons_canonical (h : s.Canonical) (c) : (s.endCocoons c).Canonical :=
  foldl_canonical (fun v i hv => by grind [State.killStrand_canonical]) _ h

theorem State.leaveGroups_canonical (h : s.Canonical) (c) : (s.leaveGroups c).Canonical := h

theorem execCoreReset_canonical (h : s.Canonical) (c) {t} (ht : execCoreReset c s = .next t) : t.Canonical := by
  by_cases hc : c < 12288
  · have he : execCoreReset c s = _ := exec_coreReset s hc
    rw [he] at ht
    obtain rfl := Host.Outcome.next.inj ht
    have hl : ((s.endCocoons c).leaveGroups c).Canonical := State.leaveGroups_canonical (State.endCocoons_canonical h c) c
    exact State.setCore_canonical hl c _ rfl
  · simp [execCoreReset, hc] at ht

/-! ## Transfers -/

theorem execBrc_canonical (h : s.Canonical) (x) {t} (ht : execBrc x s = .next t) : t.Canonical := by
  grind [execBrc, State.begin__canonical, State.transfer_canonical, State.retire_canonical]

theorem execLoop_canonical (h : s.Canonical) (a tgt p) {t} (ht : execLoop a tgt p s = .next t) : t.Canonical := by
  grind [execLoop, State.begin__canonical, State.retire_canonical, State.finish_canonical, State.transfer_canonical]

/-! ## Vectors -/

theorem State.vecOut_canonical (h : s.Canonical) (d p w f) : (s.vecOut d p w f).Canonical := State.finish_canonical h _

theorem vecInstr_canonical (h : s.Canonical) (op fop int flt x) {t} (ht : vecInstr op fop int flt x s = .next t) : t.Canonical :=
  canonical_of_begin h (fun _ => State.vecOut_canonical h _ _ _ _) ht

theorem vecInt_canonical (h : s.Canonical) (op px x) {t} (ht : vecInt op px x s = .next t) : t.Canonical :=
  vecInstr_canonical h _ _ _ _ _ ht

theorem vecMove_canonical (h : s.Canonical) (px ty d p f) {t} (ht : vecMove px ty d p f s = .next t) : t.Canonical :=
  canonical_of_begin h (fun _ => State.vecOut_canonical h _ _ _ _) ht

theorem vecFun_canonical (h : s.Canonical) (f x) {t} (ht : vecFun f x s = .next t) : t.Canonical :=
  canonical_of_begin h (fun _ => State.vecOut_canonical h _ _ _ _) ht

theorem execVadd_canonical (h : s.Canonical) (x) {t} (ht : execVadd x s = .next t) : t.Canonical := vecInstr_canonical h _ _ _ _ _ ht

theorem execVsub_canonical (h : s.Canonical) (x) {t} (ht : execVsub x s = .next t) : t.Canonical := vecInstr_canonical h _ _ _ _ _ ht

theorem execVmul_canonical (h : s.Canonical) (x) {t} (ht : execVmul x s = .next t) : t.Canonical := vecInstr_canonical h _ _ _ _ _ ht

theorem execVmulH_canonical (h : s.Canonical) (x) {t} (ht : execVmulH x s = .next t) : t.Canonical := vecInt_canonical h _ _ _ ht

theorem execVmin_canonical (h : s.Canonical) (x) {t} (ht : execVmin x s = .next t) : t.Canonical := vecInstr_canonical h _ _ _ _ _ ht

theorem execVmax_canonical (h : s.Canonical) (x) {t} (ht : execVmax x s = .next t) : t.Canonical := vecInstr_canonical h _ _ _ _ _ ht

theorem vecSign_canonical (h : s.Canonical) (f g x) {t} (ht : vecSign f g x s = .next t) : t.Canonical :=
  canonical_of_begin h (fun _ => State.vecOut_canonical h _ _ _ _) ht

theorem execVabs_canonical (h : s.Canonical) (x) {t} (ht : execVabs x s = .next t) : t.Canonical := vecSign_canonical h _ _ _ ht

theorem execVneg_canonical (h : s.Canonical) (x) {t} (ht : execVneg x s = .next t) : t.Canonical := vecSign_canonical h _ _ _ ht

theorem execVand_canonical (h : s.Canonical) (x) {t} (ht : execVand x s = .next t) : t.Canonical := vecInt_canonical h _ _ _ ht

theorem execVandN_canonical (h : s.Canonical) (x) {t} (ht : execVandN x s = .next t) : t.Canonical := vecInt_canonical h _ _ _ ht

theorem execVor_canonical (h : s.Canonical) (x) {t} (ht : execVor x s = .next t) : t.Canonical := vecInt_canonical h _ _ _ ht

theorem execVxor_canonical (h : s.Canonical) (x) {t} (ht : execVxor x s = .next t) : t.Canonical := vecInt_canonical h _ _ _ ht

theorem execVshl_canonical (h : s.Canonical) (x) {t} (ht : execVshl x s = .next t) : t.Canonical := vecInt_canonical h _ _ _ ht

theorem execVshr_canonical (h : s.Canonical) (x) {t} (ht : execVshr x s = .next t) : t.Canonical := vecInt_canonical h _ _ _ ht

theorem execVsar_canonical (h : s.Canonical) (x) {t} (ht : execVsar x s = .next t) : t.Canonical := vecInt_canonical h _ _ _ ht

theorem execVsel_canonical (h : s.Canonical) (x) {t} (ht : execVsel x s = .next t) : t.Canonical := by
  grind [execVsel, vecMove_canonical]

theorem execVrcp_canonical (h : s.Canonical) (x) {t} (ht : execVrcp x s = .next t) : t.Canonical := vecFun_canonical h _ _ ht

theorem execVrsq_canonical (h : s.Canonical) (x) {t} (ht : execVrsq x s = .next t) : t.Canonical := vecFun_canonical h _ _ ht

theorem execVsqrt_canonical (h : s.Canonical) (x) {t} (ht : execVsqrt x s = .next t) : t.Canonical := vecFun_canonical h _ _ ht

theorem execVexp2_canonical (h : s.Canonical) (x) {t} (ht : execVexp2 x s = .next t) : t.Canonical := vecFun_canonical h _ _ ht

theorem execVlog2_canonical (h : s.Canonical) (x) {t} (ht : execVlog2 x s = .next t) : t.Canonical := vecFun_canonical h _ _ ht

theorem execVtanh_canonical (h : s.Canonical) (x) {t} (ht : execVtanh x s = .next t) : t.Canonical := vecFun_canonical h _ _ ht

theorem execVperm_canonical (h : s.Canonical) (x) {t} (ht : execVperm x s = .next t) : t.Canonical := vecMove_canonical h _ _ _ _ _ ht

theorem execVrot_canonical (h : s.Canonical) (x) {t} (ht : execVrot x s = .next t) : t.Canonical := vecMove_canonical h _ _ _ _ _ ht

theorem execVbcast_canonical (h : s.Canonical) (x) {t} (ht : execVbcast x s = .next t) : t.Canonical := vecMove_canonical h _ _ _ _ _ ht

theorem execVextr_canonical (h : s.Canonical) (x) {t} (ht : execVextr x s = .next t) : t.Canonical := by
  grind [execVextr, State.begin__canonical, State.finish_canonical, State.retire_canonical]

theorem execVinsl_canonical (h : s.Canonical) (x) {t} (ht : execVinsl x s = .next t) : t.Canonical := by
  grind [execVinsl, State.begin__canonical, State.finish_canonical, State.retire_canonical]

theorem execViota_canonical (h : s.Canonical) (x) {t} (ht : execViota x s = .next t) : t.Canonical := vecMove_canonical h _ _ _ _ _ ht

theorem execVmov_canonical (h : s.Canonical) (x) {t} (ht : execVmov x s = .next t) : t.Canonical := vecMove_canonical h _ _ _ _ _ ht

theorem execVexpand_canonical (h : s.Canonical) (x) {t} (ht : execVexpand x s = .next t) : t.Canonical := vecMove_canonical h _ _ _ _ _ ht

theorem vecRa_canonical (h : s.Canonical) (f x) {t} (ht : vecRa f x s = .next t) : t.Canonical :=
  canonical_of_begin h (fun _ => State.vecOut_canonical h _ _ _ _) ht

theorem execVradd_canonical (h : s.Canonical) (x) {t} (ht : execVradd x s = .next t) : t.Canonical := vecRa_canonical h _ _ ht

theorem execVraddSub_canonical (h : s.Canonical) (x) {t} (ht : execVraddSub x s = .next t) : t.Canonical := vecRa_canonical h _ _ ht

theorem execVrmul_canonical (h : s.Canonical) (x) {t} (ht : execVrmul x s = .next t) : t.Canonical := vecRa_canonical h _ _ ht

theorem maskInstr_canonical (h : s.Canonical) (f x) {t} (ht : maskInstr f x s = .next t) : t.Canonical :=
  canonical_of_begin h (fun _ => State.finish_canonical h _) ht

theorem execKopAnd_canonical (h : s.Canonical) (x) {t} (ht : execKopAnd x s = .next t) : t.Canonical := maskInstr_canonical h _ _ ht

theorem execKopOr_canonical (h : s.Canonical) (x) {t} (ht : execKopOr x s = .next t) : t.Canonical := maskInstr_canonical h _ _ ht

theorem execKopXor_canonical (h : s.Canonical) (x) {t} (ht : execKopXor x s = .next t) : t.Canonical := maskInstr_canonical h _ _ ht

theorem execKopAndn_canonical (h : s.Canonical) (x) {t} (ht : execKopAndn x s = .next t) : t.Canonical := maskInstr_canonical h _ _ ht

end Sys2Proof.Machine
end

section
/-!
PROOFS. Every step keeps every memory canonical (R30, R36, R103): tiles, copies, arrivals and the matrix unit.
-/

namespace Sys2Proof.Machine

variable {s : State}

/-! ## Tiles, slots and streams -/

theorem State.tileWrite_canonical (h : s.Canonical) (e w0 w1 w2) : (s.tileWrite e w0 w1 w2).Canonical := State.modTile_canonical h _ _ _

theorem State.tileDefine_canonical (h : s.Canonical) (e w0 w1 w2) : (s.tileDefine e w0 w1 w2).Canonical := by
  grind [State.tileDefine, State.stall_canonical, State.raiseAcc_canonical, State.retire_canonical, State.tileWrite_canonical]

theorem execTdef_canonical (h : s.Canonical) (e a off p) {t} (ht : execTdef e a off p s = .next t) : t.Canonical := by
  grind [execTdef, State.begin__canonical, State.raiseAcc_canonical, State.hold_canonical, State.tileDefine_canonical]

theorem State.fillFor_canonical (h : s.Canonical) (e) : (s.fillFor e).Canonical := by
  grind [State.fillFor, State.modMe_canonical, State.modTile_canonical, State.fillBegin_canonical]

theorem execTfill_canonical (h : s.Canonical) (e p) {t} (ht : execTfill e p s = .next t) : t.Canonical := by
  grind [execTfill, State.begin__canonical, State.stall_canonical, State.hold_canonical, State.raiseAcc_canonical,
    State.retire_canonical, State.fillFor_canonical]

theorem State.drainFor_canonical (h : s.Canonical) (e) : (s.drainFor e).Canonical := by
  grind [State.drainFor, State.modMe_canonical, State.modTile_canonical, State.drainBegin_canonical]

theorem State.drainChecked_canonical (h : s.Canonical) (e) : (s.drainChecked e).Canonical := by
  grind [State.drainChecked, State.raise0_canonical, State.hold_canonical, State.raiseAcc_canonical, State.retire_canonical,
    State.drainFor_canonical]

theorem execTdrain_canonical (h : s.Canonical) (e p) {t} (ht : execTdrain e p s = .next t) : t.Canonical := by
  grind [execTdrain, State.begin__canonical, State.stall_canonical, State.drainChecked_canonical]

theorem execTrel_canonical (h : s.Canonical) (e p) {t} (ht : execTrel e p s = .next t) : t.Canonical := by
  grind [execTrel, State.begin__canonical, State.stall_canonical, State.raise0_canonical, State.drainChecked_canonical,
    State.retire_canonical, State.tileEmpty_canonical]

theorem State.tileElem_canonical (h : s.Canonical) (e row col) {t} (ht : s.tileElem e row col = .error t) : t.Canonical := by
  grind [State.tileElem, State.raise0_canonical, State.stall_canonical, State.raiseAcc_canonical]

theorem execTldv_canonical (h : s.Canonical) (d row col e p) {t} (ht : execTldv d row col e p s = .next t) : t.Canonical := by
  grind [execTldv, State.begin__canonical, State.tileElem_canonical, State.raiseAcc_canonical, State.lsView_canonical,
    State.vecOut_canonical]

theorem Core.tileStore_wf {x : Core} (h : x.ls.wf = true) (a w i v) : (x.tileStore a w i v).ls.wf = true := by
  grind [Core.tileStore, Memory.wf_writeNum, Memory.wf_writeLine, Memory.wf_zero, Memory.foldl_wf, Core.foldl_wf,
    Core.storeLocal_wf]

theorem execTstv_canonical (h : s.Canonical) (row col data e p) {t} (ht : execTstv row col data e p s = .next t) : t.Canonical := by
  refine canonical_of_begin h (fun _ => ?_) ht
  dsimp only
  split
  · exact State.tileElem_canonical h _ _ _ (by assumption)
  · split
    · exact State.raiseAcc_canonical h _ _
    · exact State.retire_canonical (State.modMyCore_canonical h _
        (Core.foldl_wf (fun x i hx => Core.tileStore_wf hx _ _ _ _) _ (State.core_ls_wf h s.cur.1)))

theorem execOclaim_canonical (h : s.Canonical) (o e p) {t} (ht : execOclaim o e p s = .next t) : t.Canonical := by
  grind [execOclaim, State.begin__canonical, State.stall_canonical, State.raise0_canonical, State.modMyCore_canonical,
    State.retire_canonical, Core.setSlot_ls, State.core_ls_wf, State.myCore]

theorem execOfill_canonical (h : s.Canonical) (e src p) {t} (ht : execOfill e src p s = .next t) : t.Canonical := by
  grind [execOfill, State.begin__canonical, State.stall_canonical, State.raise0_canonical, State.hold_canonical,
    State.modMe_canonical, State.retire_canonical, State.modTile_canonical]

theorem execOrels_canonical (h : s.Canonical) (o p) {t} (ht : execOrels o p s = .next t) : t.Canonical := by
  grind [execOrels, State.begin__canonical, State.retire_canonical, State.raise0_canonical, State.hold_canonical,
    State.tileEmpty_canonical, State.modMyCore_canonical, Core.setSlot_ls, State.core_ls_wf]

theorem execSubs_canonical (h : s.Canonical) (base shp e rn1 sid p)
    {t} (ht : execSubs base shp e rn1 sid p s = .next t) : t.Canonical := by
  grind [execSubs, State.begin__canonical, State.raisePc_canonical, State.stall_canonical, State.raise0_canonical,
    State.raiseAcc_canonical, State.modTile_canonical, State.retire_canonical, State.modMyCore_canonical, foldl_canonical,
    State.core_ls_wf]

/-! ## Copies as they are issued -/

theorem State.copyIssue_canonical (h : s.Canonical) (kind x) : (s.copyIssue kind x).Canonical := by
  have hset := fun (e : CopyId) => State.modMyCore_canonical h (·.setCopyId x.id e) (State.core_ls_wf h s.cur.1)
  unfold State.copyIssue
  dsimp only
  split
  · exact State.hold_canonical h
  · split
    · exact State.raiseAcc_canonical h _ _
    · split
      · exact State.raise0_canonical h _
      · split
        · exact State.hold_canonical h
        · split
          · exact State.raiseAcc_canonical h _ _
          · split
            · exact State.raisePc_canonical h _
            · split
              · exact State.retire_canonical (hset _)
              · exact State.retire_canonical (State.copyGo_canonical (State.modMe_canonical (hset _) _) _ _)

theorem execCpyq_canonical (h : s.Canonical) (d clr word id p) {t} (ht : execCpyq d clr word id p s = .next t) : t.Canonical := by
  grind [execCpyq, State.begin__canonical, State.modMe_canonical, State.retire_canonical, State.modMyCore_canonical,
    Core.setCopyId_ls, State.core_ls_wf]

theorem Core.writeGroup_ls (x : Core) (n d) : (x.writeGroup n d).ls = x.ls := rfl

theorem execGrpset_canonical (h : s.Canonical) (n a p) {t} (ht : execGrpset n a p s = .next t) : t.Canonical := by
  grind [execGrpset, State.begin__canonical, State.raise_canonical, State.block_canonical, State.retire_canonical,
    State.modMyCore_canonical, Core.writeGroup_ls, State.core_ls_wf]

/-! ## What arrives at a core -/

theorem execWindowAccess_canonical (h : s.Canonical) (uid) {t} (ht : execWindowAccess uid s = .next t) : t.Canonical := by
  unfold execWindowAccess at ht
  split at ht
  · split at ht
    · grind [State.consume_canonical, State.modCore_canonical, State.core_ls_wf, Memory.wf_writeLine, Memory.wf_writeNum,
        Core.storeLocal_wf, State.answer_canonical]
    · grind
  · grind

theorem State.accessReply_canonical (h : s.Canonical) (c i a p r) : (s.accessReply c i a p r).Canonical := by
  grind [State.accessReply, State.accessFail_canonical, State.accessGo_canonical, State.modCore_canonical, Core.l1Put_ls,
    State.core_ls_wf]

theorem State.strandReply_canonical (h : s.Canonical) (uid f) {t} (ht : s.strandReply uid f = .next t) : t.Canonical := by
  unfold State.strandReply at ht
  split at ht
  · grind
  · split at ht
    · split at ht <;> grind [State.accessReply_canonical, State.withdrawSc_canonical, State.consume_canonical]
    · grind

theorem execLoadResponse_canonical (h : s.Canonical) (uid) {t} (ht : execLoadResponse uid s = .next t) : t.Canonical := by
  grind [execLoadResponse, State.consume_canonical, State.modCore_canonical, Core.l1Put_ls, State.strandReply_canonical,
    State.core_ls_wf]

theorem execStoreAnswer_canonical (h : s.Canonical) (uid) {t} (ht : execStoreAnswer uid s = .next t) : t.Canonical :=
  State.strandReply_canonical h _ _ ht

theorem execAmoAnswer_canonical (h : s.Canonical) (uid) {t} (ht : execAmoAnswer uid s = .next t) : t.Canonical :=
  State.strandReply_canonical h _ _ ht

theorem State.redNext_canonical (h : s.Canonical) (c e) : (s.redNext c e).Canonical := by
  grind [State.redNext, State.sendPiece_canonical, State.modCore_canonical, Core.setJent_ls, State.core_ls_wf]

theorem State.postedAnswer_canonical (h : s.Canonical) (c j reason) : (s.postedAnswer c j reason).Canonical := by
  grind [State.postedAnswer, State.modCore_canonical, Core.setJent_ls, State.modStrand_canonical, State.pendBit_canonical,
    State.redNext_canonical, State.core_ls_wf]

theorem execPostedAck_canonical (h : s.Canonical) (uid) {t} (ht : execPostedAck uid s = .next t) : t.Canonical := by
  grind [execPostedAck, State.postedAnswer_canonical, State.consume_canonical]

theorem State.keepFree_canonical (h : s.Canonical) (c j free) : (s.keepFree c j free).Canonical := by
  grind [State.keepFree, State.modStrand_canonical]

theorem execQpushAck_canonical (h : s.Canonical) (uid) {t} (ht : execQpushAck uid s = .next t) : t.Canonical := by
  grind [execQpushAck, State.postedAnswer_canonical, State.keepFree_canonical, State.consume_canonical]

theorem execPostedFinalRefusal_canonical (h : s.Canonical) (uid) {t} (ht : execPostedFinalRefusal uid s = .next t) : t.Canonical := by
  grind [execPostedFinalRefusal, State.consume_canonical, State.postedAnswer_canonical, State.keepFree_canonical]

theorem Core.fifoPush_wf {x : Core} (h : x.ls.wf = true) (b data) : (x.fifoPush b data).ls.wf = true := by
  grind [Core.fifoPush, Memory.wf_writeNum, Memory.wf_writeLine, Memory.wf_zero, Memory.foldl_wf, Core.foldl_wf]

theorem execQpushArrival_canonical (h : s.Canonical) (uid) {t} (ht : execQpushArrival uid s = .next t) : t.Canonical := by
  grind [execQpushArrival, State.answer_canonical, State.consume_canonical, State.modCore_canonical, Core.fifoPush_wf,
    State.refuse_canonical, State.core_ls_wf]

theorem execBmodeComplete_canonical (h : s.Canonical) (c bank) {t} (ht : execBmodeComplete c bank s = .next t) : t.Canonical := by
  grind [execBmodeComplete, State.modCore_canonical, State.core_ls_wf, Core.setMode_ls, Memory.wf_zero, State.retireAt_canonical]

theorem execTlbWalkProbe_canonical (h : s.Canonical) (wid) {t} (ht : execTlbWalkProbe wid s = .next t) : t.Canonical := by
  unfold execTlbWalkProbe at ht
  split at ht
  · exact h.of_next ht
  · extract_lets ans u v mine goOn fault at ht
    split at ht
    · exact h.of_next ht
    · have hu : u.Canonical := h
      have hv : v.Canonical := State.modCore_canonical hu _ _ (State.core_ls_wf h _)
      have hg : ∀ s : State, s.Canonical → (goOn s).Canonical := by
        grind [State.modStrand_canonical, State.spillGo_canonical, State.engineGo_canonical]
      have hf : ∀ (s : State) kind, s.Canonical → (fault s kind).Canonical := by
        intro s kind hs
        simp only [fault]
        split
        · split
          · exact hs
          · split
            · exact State.modStrand_canonical hs _ _ _
            · exact State.strandFault_canonical (State.modStrand_canonical hs _ _ _) _ _ _ _ _ _
        · exact State.spillFault_canonical hs _ _ _
        · split
          · exact hs
          · split
            · exact hs
            · exact State.engineFault_canonical hs _ _ _ (by assumption)
            · exact State.engineEnd_canonical hs _ _ _ _
      clear_value v goOn fault
      grind [State.modCore_canonical, State.core_ls_wf, Core.tlbFill_ls, State.Canonical]

theorem State.faultAnswer_canonical (h : s.Canonical) (c i f act) : (s.faultAnswer c i f act).Canonical := by
  grind [State.faultAnswer, State.modStrand_canonical, State.engineGo_canonical, State.engineEnd_canonical,
    State.contain_canonical, State.raiseAt_canonical, State.enginesGo_canonical]

theorem State.sliceAnswer_canonical (h : s.Canonical) (c f act) : (s.sliceAnswer c f act).Canonical := by
  grind [State.sliceAnswer, State.modCore_canonical, State.spillsGo_canonical, State.spillResume_canonical,
    State.failTensor_canonical, State.core_ls_wf]

theorem execFaultReply_canonical (h : s.Canonical) (c idx) {t} (ht : execFaultReply c idx s = .next t) : t.Canonical := by
  grind [execFaultReply, State.modCore_canonical, State.sliceAnswer_canonical, State.faultAnswer_canonical, State.core_ls_wf]

theorem execFaultMailboxPush_canonical (h : s.Canonical) (uid) {t} (ht : execFaultMailboxPush uid s = .next t) : t.Canonical := by
  unfold execFaultMailboxPush at ht
  have hu := State.consume_canonical h uid
  split at ht
  · split at ht
    · extract_lets x f count at ht
      have hcount : ∀ s : State, s.Canonical → (count s).Canonical := fun s h => State.modCore_canonical h _ _ (State.core_ls_wf h _)
      clear_value count
      grind [State.modCore_canonical, State.core_ls_wf, Core.fifoPush_wf, State.answer_canonical, State.refuse_canonical,
        State.pendBit_canonical]
    · extract_lets c v w at ht
      have hv : w.Canonical := foldl_canonical (fun v i hv => by grind [State.faultAnswer_canonical]) _ hu
      clear_value w
      grind [State.sliceAnswer_canonical]
    · exact h.of_next ht
  · exact h.of_next ht

/-! ## The engines' events -/

theorem State.groupGo_canonical (h : s.Canonical) (c n) : (s.groupGo c n).Canonical := by
  grind [State.groupGo, State.retireAt_canonical, State.modCore_canonical, Core.writeGroup_ls, foldl_canonical, State.core_ls_wf]

theorem execGrpsetTimeout_canonical (h : s.Canonical) (c i) {t} (ht : execGrpsetTimeout c i s = .next t) : t.Canonical := by
  grind [execGrpsetTimeout, State.raiseAt_canonical, State.modStrand_canonical, State.groupGo_canonical]

theorem State.selfAck_canonical (h : s.Canonical) (c body) : (s.selfAck c body).Canonical := h

theorem execCopyDestWrite_canonical (h : s.Canonical) (uid) {t} (ht : execCopyDestWrite uid s = .next t) : t.Canonical := by
  unfold execCopyDestWrite at ht
  split at ht
  · split at ht
    · grind [State.consume_canonical, State.modCore_canonical, State.core_ls_wf, Memory.wf_writeLine, State.answer_canonical]
    · extract_lets s1 cause at ht
      split at ht
      · grind
      · have h1 : s1.Canonical := State.consume_canonical h uid
        grind [State.modCore_canonical, State.core_ls_wf, Memory.wf_writeNum, State.selfAck_canonical]
    · grind
  · grind

theorem State.drainAnswer_canonical (h : s.Canonical) (c e poison) : (s.drainAnswer c e poison).Canonical := by
  grind [State.drainAnswer, State.modTile_canonical, State.tileFault_canonical, State.drainGo_canonical, State.tileStop_canonical]

theorem execCopyWriteAck_canonical (h : s.Canonical) (uid) {t} (ht : execCopyWriteAck uid s = .next t) : t.Canonical := by
  grind [execCopyWriteAck, State.copyWrote_canonical, State.consume_canonical, State.groupGo_canonical,
    State.drainAnswer_canonical]

theorem Memory.wf_combineLine {m : Memory} (h : m.wf = true) (op off mask data) : (combineLine op m off mask data).wf = true :=
  Memory.foldl_wf (fun m e h => by grind [Memory.wf_writeNum]) _ h

theorem execRedcContribution_canonical (h : s.Canonical) (uid) {t} (ht : execRedcContribution uid s = .next t) : t.Canonical := by
  grind [execRedcContribution, State.consume_canonical, State.answer_canonical, State.refuse_canonical, State.modCore_canonical,
    State.core_ls_wf, Memory.wf_combineLine, State.groupGo_canonical]

theorem State.fillRead_canonical (h : s.Canonical) (m c e sseq lidx kind data) :
    (s.fillRead m c e sseq lidx kind data).Canonical := by
  grind [State.fillRead, State.tileStop_canonical, State.fillGo_canonical, State.modTile_canonical, State.requestMsg_canonical,
    State.tileFault_canonical]

theorem State.fillWrite_canonical (h : s.Canonical) (m c e lidx data) : (s.fillWrite m c e lidx data).Canonical := by
  grind [State.fillWrite, State.answer_canonical, State.consume_canonical, State.tileStop_canonical, State.tileMismatch_canonical,
    State.fillGo_canonical, State.modCore_canonical, State.modTile_canonical, Core.putSb_wf, Core.writeLine_wf, State.core_ls_wf]

theorem State.dataLost_canonical (h : s.Canonical) (c e lidx) : (s.dataLost c e lidx).Canonical := by
  grind [State.dataLost, State.tileFault_canonical, State.modTile_canonical, State.tileStop_canonical]

theorem execFillDataMessage_canonical (h : s.Canonical) (uid) {t} (ht : execFillDataMessage uid s = .next t) : t.Canonical := by
  grind [execFillDataMessage, State.fillRead_canonical, State.consume_canonical, State.fillWrite_canonical,
    State.ringStore_canonical, State.dataLost_canonical]

theorem execDrainComplete_canonical (h : s.Canonical) (c e) {t} (ht : execDrainComplete c e s = .next t) : t.Canonical := by
  grind [execDrainComplete, State.tlcDown_canonical, State.tileEmpty_canonical]

theorem execOpenGrant_canonical (h : s.Canonical) (uid) {t} (ht : execOpenGrant uid s = .next t) : t.Canonical := by
  grind [execOpenGrant, State.consume_canonical, State.tileFault_canonical, State.fillReads_canonical, State.tileStop_canonical]

theorem execOfillComplete_canonical (h : s.Canonical) (c e) {t} (ht : execOfillComplete c e s = .next t) : t.Canonical := by
  grind [execOfillComplete, State.modCore_canonical, State.slotClean_canonical, Core.setSlot_ls, State.tlcDown_canonical,
    State.modTile_canonical, State.core_ls_wf]

theorem execLoaderPushStart_canonical (h : s.Canonical) (c sid) {t} (ht : execLoaderPushStart c sid s = .next t) : t.Canonical := by
  grind [execLoaderPushStart, State.modCore_canonical, State.modTile_canonical, State.fillBegin_canonical,
    State.tileFault_canonical, State.core_ls_wf]

theorem execScTicketGrant_canonical (h : s.Canonical) (seqr) {t} (ht : execScTicketGrant seqr s = .next t) : t.Canonical := by
  grind [execScTicketGrant, State.request_canonical, State.granted_canonical, State.Canonical]

theorem execClusterSequencerIntake_canonical (h : s.Canonical) (cl)
    {t} (ht : execClusterSequencerIntake cl s = .next t) : t.Canonical := by
  grind [execClusterSequencerIntake, State.Canonical]

/-! ## Asynchronous causes -/

theorem State.withdraw_canonical (h : s.Canonical) (c i) : (s.withdraw c i).Canonical := by
  grind [State.withdraw, State.unstall_canonical, State.withdrawSc_canonical, State.modCore_canonical, Core.unwait_ls,
    State.enginesGo_canonical, State.modStrand_canonical, State.Canonical, State.core_ls_wf]

theorem State.settle_canonical (h : s.Canonical) (c i) : (s.settle c i).Canonical := State.modStrand_canonical h _ _ _

theorem State.deliverBit_canonical (h : s.Canonical) (c i b) : (s.deliverBit c i b).1.Canonical := by
  unfold State.deliverBit
  grind [State.modStrand_canonical, State.modCore_canonical, State.core_ls_wf, State.settle_canonical, Core.setCopyId_ls,
    State.modTile_canonical]

theorem State.asyncDeliver_canonical (h : s.Canonical) (c i) {t} (ht : s.asyncDeliver c i = some t) : t.Canonical := by
  grind [State.asyncDeliver, State.modStrand_canonical, State.deliverBit_canonical, State.withdraw_canonical,
    State.takeTrap_canonical]

/-! ## Matrix operations -/

theorem State.record_canonical (h : s.Canonical) (c i z) : (s.record c i z).Canonical := by
  grind [State.record, State.modStrand_canonical, foldl_canonical]

theorem State.accWritten_canonical (h : s.Canonical) (c a ws) : (s.accWritten c a ws).Canonical := h

theorem State.accZeroed_canonical (h : s.Canonical) (c a ws) : (s.accZeroed c a ws).Canonical := by
  grind [State.accZeroed, State.accWritten_canonical, State.modCore_canonical, Core.setAcc_ls, State.core_ls_wf]

theorem State.operandRead_canonical (h : s.Canonical) (c w z o cols) : (s.operandRead c w z o cols).Canonical :=
  State.zeroSlot_canonical h _ _ _

theorem State.putAcc_canonical (h : s.Canonical) (c a v) : (s.putAcc c a v).Canonical := by
  grind [State.putAcc, State.accWritten_canonical, State.modCore_canonical, Core.setAcc_ls, State.core_ls_wf]

theorem State.mxProduct_canonical (h : s.Canonical) (c m acc sa sb n f) : (s.mxProduct c m acc sa sb n f).Canonical := by
  grind [State.mxProduct, State.operandRead_canonical, State.record_canonical, State.putAcc_canonical]

theorem State.mxRun_canonical (h : s.Canonical) (c m) : (s.mxRun c m).Canonical := by
  grind [State.mxRun, State.mxProduct_canonical, State.putAcc_canonical, State.accZeroed_canonical, State.record_canonical,
    State.modStrand_canonical, State.modCore_canonical, Core.setAcc_ls, State.accWritten_canonical, State.lsView_canonical,
    State.zeroScales_canonical, State.core_ls_wf]

theorem State.mxIssue_canonical (h : s.Canonical) (k) : (s.mxIssue k).Canonical := by
  grind [State.mxIssue, State.hold_canonical, State.retire_canonical, State.modMyCore_canonical, State.Canonical,
    State.core_ls_wf]

theorem State.withAccs_canonical (h : s.Canonical) (l) {f : State} (hf : f.Canonical) : (s.withAccs l f).Canonical := by
  grind [State.withAccs, State.raise0_canonical]

theorem State.slotReady_canonical (h : s.Canonical) (o) {t} (ht : s.slotReady o = .error t) : t.Canonical := by
  grind [State.slotReady, State.raise0_canonical, State.stall_canonical]

theorem State.mmIssue_canonical (h : s.Canonical) (x ty k) : (s.mmIssue x ty k).Canonical := by
  grind [State.mmIssue, State.withAccs_canonical, State.slotReady_canonical, State.raise0_canonical, State.mxIssue_canonical]

theorem execMmz_canonical (h : s.Canonical) (d fill p) {t} (ht : execMmz d fill p s = .next t) : t.Canonical := by
  grind [execMmz, State.begin__canonical, State.withAccs_canonical, State.mxIssue_canonical]

theorem execAmov_canonical (h : s.Canonical) (d a p) {t} (ht : execAmov d a p s = .next t) : t.Canonical := by
  grind [execAmov, State.begin__canonical, State.withAccs_canonical, State.mxIssue_canonical]

theorem execAmovV_canonical (h : s.Canonical) (d a r p) {t} (ht : execAmovV d a r p s = .next t) : t.Canonical := by
  grind [execAmovV, State.begin__canonical, State.withAccs_canonical, State.mxIssue_canonical]

theorem execAmovA_canonical (h : s.Canonical) (d a r p) {t} (ht : execAmovA d a r p s = .next t) : t.Canonical := by
  grind [execAmovA, State.begin__canonical, State.withAccs_canonical, State.mxIssue_canonical]

theorem State.mxRange_canonical (h : s.Canonical) (a n bad) {t} (ht : s.mxRange a n bad = .error t) : t.Canonical := by
  grind [State.mxRange, State.raiseAcc_canonical, State.hold_canonical]

theorem execAld_canonical (h : s.Canonical) (d x) {t} (ht : execAld d x s = .next t) : t.Canonical := by
  grind [execAld, State.begin__canonical, State.withAccs_canonical, State.mxRange_canonical, State.mxIssue_canonical]

theorem execAdrn_canonical (h : s.Canonical) (clr a b c ssa ssb off p)
    {t} (ht : execAdrn clr a b c ssa ssb off p s = .next t) : t.Canonical := by
  grind [execAdrn, State.begin__canonical, State.withAccs_canonical, State.mxRange_canonical, State.mxIssue_canonical]

theorem execAclaim_canonical (h : s.Canonical) (d p) {t} (ht : execAclaim d p s = .next t) : t.Canonical := by
  grind [execAclaim, State.begin__canonical, State.retire_canonical, State.modMyCore_canonical, Core.setAcc_ls,
    State.stall_canonical, State.core_ls_wf, State.myCore]

theorem execArels_canonical (h : s.Canonical) (d p) {t} (ht : execArels d p s = .next t) : t.Canonical := by
  grind [execArels, State.begin__canonical, State.retire_canonical, State.raise0_canonical, State.hold_canonical,
    State.modMyCore_canonical, Core.setAcc_ls, State.core_ls_wf]

theorem execUprog_canonical (h : s.Canonical) (i32 a b ns p) {t} (ht : execUprog i32 a b ns p s = .next t) : t.Canonical := by
  grind [execUprog, State.begin__canonical, State.raisePc_canonical, State.finish_canonical]

theorem State.meetCoreErrors_canonical (h : s.Canonical) (c) : (s.meetCoreErrors c).Canonical := by
  grind [State.meetCoreErrors, State.modCore_canonical, State.Canonical, State.core_ls_wf]

theorem execMatrixOpStart_canonical (h : s.Canonical) (c pipe) {t} (ht : execMatrixOpStart c pipe s = .next t) : t.Canonical := by
  grind [execMatrixOpStart, State.mxRun_canonical, State.modCore_canonical, State.meetCoreErrors_canonical, State.core_ls_wf]

theorem Memory.wf_putBytes {m : Memory} (h : m.wf = true) (l) : (putBytes m l).wf = true :=
  Memory.foldl_wf (fun _ _ h => Memory.wf_writeNum _ _ _ h) l h

theorem execMatrixOpEnd_canonical (h : s.Canonical) (c op) {t} (ht : execMatrixOpEnd c op s = .next t) : t.Canonical := by
  have hls := State.core_ls_wf h c
  have hw := fun l => Memory.wf_putBytes hls l
  grind [execMatrixOpEnd, State.modCore_canonical]

end Sys2Proof.Machine
end

section
/-!
PROOFS. Every step keeps every memory canonical (R30, R36, R103): tasks, power, system instructions and images.
-/

namespace Sys2Proof.Machine

variable {s : State}

/-! ## Fetch and issue -/

theorem State.cachedParity_canonical (h : s.Canonical) (c i line) : (s.cachedParity c i line).Canonical := by
  grind [State.cachedParity, State.modCore_canonical, State.Canonical, State.core_ls_wf]

theorem Core.parityOnce_ls (x : Core) (line) : (x.parityOnce line).ls = x.ls := rfl

theorem State.lineAt_error_canonical (h : s.Canonical) {t} (ht : s.lineAt = .error t) : t.Canonical := by
  grind [State.lineAt, State.cachedParity_canonical, State.raise_canonical, State.fetch_canonical, State.modCore_canonical,
    Core.parityOnce_ls, State.core_ls_wf]

theorem State.lineAt_ok_canonical (h : s.Canonical) {k t} (ht : s.lineAt = .ok (k, t)) : t.Canonical := by
  grind [State.lineAt, State.cachedParity_canonical, State.raise_canonical, State.fetch_canonical, State.modCore_canonical,
    Core.parityOnce_ls]

theorem State.issue_stop_canonical (h : s.Canonical) {t} (ht : s.issue = .stop t) : t.Canonical := by
  grind [State.issue, State.lineAt_error_canonical, State.lineAt_ok_canonical, State.raise_canonical, State.stall_canonical,
    State.modMe_canonical]

theorem State.issue_run_canonical (h : s.Canonical) {i t} (ht : s.issue = .run i t) : t.Canonical := by
  grind [State.issue, State.lineAt_error_canonical, State.lineAt_ok_canonical, State.raise_canonical, State.stall_canonical,
    State.modMe_canonical]

/-! ## Tasks and cocoons -/

theorem State.seqReach_canonical (h : s.Canonical) (asid n as) {t} (ht : s.seqReach asid n as = .error t) : t.Canonical := by
  grind [State.seqReach, State.devWant_canonical]

theorem State.seqDone_canonical (h : s.Canonical) (asid as ls) : (s.seqDone asid as ls).Canonical := State.devUsed_canonical h _ _

theorem State.seqPut_canonical (h : s.Canonical) (ls a n x) : (s.seqPut ls a n x).Canonical := State.devPutNum_canonical h _ _ _ _ _ _

theorem State.setPool_canonical (h : s.Canonical) (key x) : (s.setPool key x).Canonical := h

theorem State.poolRead_canonical (h : s.Canonical) (q l prio) : (s.poolRead q l prio).Canonical := by
  grind [State.poolRead, State.seqReach_canonical, State.seqDone_canonical, State.setPool_canonical, State.devWant_canonical]

theorem State.poolsRead_canonical (h : s.Canonical) (q l) : (s.poolsRead q l).Canonical := by
  grind [State.poolsRead, State.poolRead_canonical, foldl_canonical]

theorem State.poolsGo_canonical (h : s.Canonical) : s.poolsGo.Canonical := by
  grind [State.poolsGo, State.poolsRead_canonical, foldl_canonical]

theorem State.imagePut_canonical (h : s.Canonical) (ls a m) : (s.imagePut ls a m).Canonical := by
  grind [State.imagePut, State.seqPut_canonical, foldl_canonical]

theorem State.poolLost_canonical (h : s.Canonical) (key) : (s.poolLost key).Canonical := h

theorem State.poolPush_error_canonical (h : s.Canonical) (key asid a j m)
    {t} (ht : s.poolPush key asid a j m = .error t) : t.Canonical := by
  grind [State.poolPush, State.seqReach_canonical, State.poolLost_canonical, State.seqPut_canonical, State.imagePut_canonical,
    State.seqDone_canonical, State.setPool_canonical]

theorem State.poolPush_ok_canonical (h : s.Canonical) (key asid a j m)
    {t} (ht : s.poolPush key asid a j m = .ok t) : t.Canonical := by
  grind [State.poolPush, State.seqReach_canonical, State.poolLost_canonical, State.seqPut_canonical, State.imagePut_canonical,
    State.seqDone_canonical, State.setPool_canonical, foldl_canonical]

theorem State.poolPop_error_canonical (h : s.Canonical) (key asid a j)
    {t} (ht : s.poolPop key asid a j = .error t) : t.Canonical := by
  grind [State.poolPop, State.seqReach_canonical, State.poolLost_canonical, State.devWant_canonical, State.seqDone_canonical,
    State.imagePut_canonical, State.seqPut_canonical, State.setPool_canonical]

theorem State.poolPop_ok_canonical (h : s.Canonical) (key asid a j)
    {k t} (ht : s.poolPop key asid a j = .ok (k, t)) : t.Canonical := by
  grind [State.poolPop, State.seqReach_canonical, State.poolLost_canonical, State.devWant_canonical, State.seqDone_canonical,
    State.imagePut_canonical, State.seqPut_canonical, State.setPool_canonical]

theorem State.takePool_error_canonical (h : s.Canonical) (q l) {t} (ht : s.takePool q l = .error t) : t.Canonical := by
  unfold State.takePool at ht
  split at ht
  · cases ht; exact State.poolsRead_canonical h q l
  · split at ht
    · cases ht
    · rename_i k hdr _
      cases hp : s.poolPop (4 * q + k) (s.ctxAsid l.ctx) (l.pool k) hdr with
      | error u => rw [hp] at ht; cases ht; exact State.poolPop_error_canonical h _ _ _ _ hp
      | ok r => rw [hp] at ht; cases ht

theorem State.takePool_ok_canonical (h : s.Canonical) (q l) {k t} (ht : s.takePool q l = .ok (some (k, t))) : t.Canonical := by
  unfold State.takePool at ht
  split at ht
  · cases ht
  · split at ht
    · cases ht
    · rename_i k hdr _
      cases hp : s.poolPop (4 * q + k) (s.ctxAsid l.ctx) (l.pool k) hdr with
      | error u => rw [hp] at ht; cases ht
      | ok r => rw [hp] at ht; cases ht; exact State.poolPop_ok_canonical h _ _ _ _ hp

theorem State.asStrand_canonical {f : State → State} (hf : ∀ s : State, s.Canonical → (f s).Canonical) (h : s.Canonical) (c i) :
    (s.asStrand c i f).Canonical := by
  have := hf { s with cur := (c, i) } h
  exact this

theorem State.giveUp_canonical (h : s.Canonical) (c i) : (s.giveUp c i).Canonical := by
  grind [State.giveUp, State.asStrand_canonical, State.drainFor_canonical, State.tileEmpty_canonical, State.modCore_canonical,
    Core.freeAccs_ls, foldl_canonical, State.core_ls_wf]

theorem State.leave_canonical (h : s.Canonical) (c i) : (s.leave c i).Canonical := by
  grind [State.leave, State.park_canonical, State.modStrand_canonical, State.giveUp_canonical]

theorem State.recordPage_canonical (h : s.Canonical) (a acc n) {t} (ht : s.recordPage a acc n = .error t) : t.Canonical := by
  grind [State.recordPage, State.xlate_canonical]

theorem State.recordGo_canonical (h : s.Canonical) (last pa p a m) : (s.recordGo last pa p a m).Canonical :=
  State.accessGo_canonical h _ _ _ _

theorem execSuspend_canonical (h : s.Canonical) (a tgt p) {t} (ht : execSuspend a tgt p s = .next t) : t.Canonical := by
  refine canonical_of_begin h (fun _ => ?_) ht
  grind [State.leave_canonical, State.raiseAcc_canonical, State.recordPage_canonical, State.stall_canonical, foldl_canonical,
    State.modMyCore_canonical, State.core_ls_wf, Core.storeLocal_wf, State.recordGo_canonical]

theorem State.countMine_canonical (h : s.Canonical) (c i) : (s.countMine c i).Canonical := by
  grind [State.countMine, State.modStrand_canonical, State.countEnded_canonical]

theorem execDone_canonical (h : s.Canonical) (p) {t} (ht : execDone p s = .next t) : t.Canonical := by
  grind [execDone, State.begin__canonical, State.stall_canonical, State.leave_canonical, State.countMine_canonical]

theorem State.sendCocoon_canonical (h : s.Canonical) (m leave) : (s.sendCocoon m leave).Canonical :=
  State.block_canonical (State.ask_canonical h _ _ _) _

theorem State.yieldTo_canonical (h : s.Canonical) (pc) : (s.yieldTo pc).Canonical := by
  grind [State.yieldTo, State.stall_canonical, State.leave_canonical, State.modMyCore_canonical, State.sendCocoon_canonical,
    State.core_ls_wf]

theorem execNexti_canonical (h : s.Canonical) (tgt p) {t} (ht : execNexti tgt p s = .next t) : t.Canonical := by
  grind [execNexti, State.begin__canonical, State.yieldTo_canonical, State.finish_canonical, State.transfer_canonical]

theorem State.spawnRead_canonical (h : s.Canonical) (m) : (s.spawnRead m).Canonical := by
  grind [State.spawnRead, State.raise0_canonical, State.stall_canonical, State.sendCocoon_canonical]

theorem execSpawn_canonical (h : s.Canonical) (a p) {t} (ht : execSpawn a p s = .next t) : t.Canonical := by
  grind [execSpawn, State.begin__canonical, State.spawnRead_canonical, State.raiseAcc_canonical, State.recordPage_canonical,
    State.stall_canonical, State.recordGo_canonical]

theorem State.spawnServe_canonical (h : s.Canonical) (m c i img) : (s.spawnServe m c i img).Canonical := by
  unfold State.spawnServe
  dsimp only
  split
  · grind [State.consume_canonical, State.answer_canonical]
  · split
    · exact State.poolRead_canonical h _ _ _
    · split
      · split
        · exact State.poolPush_error_canonical h _ _ _ _ _ (by assumption)
        · rename_i hp
          have := State.poolPush_ok_canonical h _ _ _ _ _ hp
          grind [State.consume_canonical, State.setPool_canonical, State.answer_canonical]
      · grind [State.consume_canonical, State.setPool_canonical, State.refuse_canonical]

theorem execSpawnAccept_canonical (h : s.Canonical) (c i) {t} (ht : execSpawnAccept c i s = .next t) : t.Canonical := by
  grind [execSpawnAccept, State.spawnServe_canonical]

theorem State.spawnAcked_canonical (h : s.Canonical) (m c i) : (s.spawnAcked m c i).Canonical := by
  grind [State.spawnAcked, State.consume_canonical, State.wakeRaise_canonical, State.leave_canonical, State.retireAt_canonical]

theorem State.split_canonical (h : s.Canonical) (v) {k t} (ht : s.split v = some (k, t)) : t.Canonical := by
  simp only [State.split, Option.map_eq_some_iff, Prod.mk.injEq] at ht
  obtain ⟨k, -, -, rfl⟩ := ht
  exact State.modStrand_canonical h _ _ _

theorem State.handOver_canonical (h : s.Canonical) (c i k) : (s.handOver c i k).Canonical := by
  grind [State.handOver, State.modStrand_canonical, State.acquire_canonical, State.Canonical]

theorem State.taken_canonical (h : s.Canonical) (c i k) : (s.taken c i k).Canonical := by
  grind [State.taken, State.handOver_canonical, State.leave_canonical, State.countMine_canonical]

theorem execTake_canonical (h : s.Canonical) (d p) {t} (ht : execTake d p s = .next t) : t.Canonical := by
  grind [execTake, State.begin__canonical, State.stall_canonical, State.block_canonical, State.ask_canonical]

theorem State.findWork_error_canonical (h : s.Canonical) (q l c i) {t} (ht : s.findWork q l c i = .error t) : t.Canonical := by
  grind [State.findWork, State.takePool_error_canonical, State.takePool_ok_canonical, State.split_canonical]

theorem State.findWork_ok_canonical (h : s.Canonical) (q l c i) {k t} (ht : s.findWork q l c i = .ok (some (k, t))) : t.Canonical := by
  unfold State.findWork at ht
  split at ht
  · cases ht
  · rename_i hp
    cases ht
    exact State.takePool_ok_canonical h q l hp
  · obtain ⟨v, -, hv⟩ := Option.bind_eq_some_iff.mp (Except.ok.inj ht)
    exact State.split_canonical h v hv

theorem execSplitApply_canonical (h : s.Canonical) (c i) {t} (ht : execSplitApply c i s = .next t) : t.Canonical := by
  unfold execSplitApply at ht
  dsimp only at ht
  split at ht
  · cases ht
  · split at ht
    · cases ht; exact h
    · split at ht
      · grind [State.consume_canonical, State.answer_canonical]
      · split at ht
        · cases ht; exact h
        · split at ht
          · cases ht; exact State.findWork_error_canonical h _ _ _ _ (by assumption)
          · rename_i hf
            have := State.findWork_ok_canonical h _ _ _ _ hf
            grind [State.consume_canonical, State.answer_canonical]
          · grind [State.consume_canonical, State.answer_canonical]

theorem State.taken?_canonical (h : s.Canonical) (m c i k) : (s.taken? m c i k).Canonical := by
  unfold State.taken?
  cases k <;> grind [State.consume_canonical, State.countEnded_canonical, State.wakeRaise_canonical, State.taken_canonical,
    State.modStrand_canonical, State.retireAt_canonical, State.handOver_canonical]

theorem State.readDecl_canonical (h : s.Canonical) (img) : (s.readDecl img).Canonical := by
  grind [State.readDecl, State.raiseAcc_canonical, State.checkLanes_canonical, State.accessGo_canonical]

theorem State.applyDecl_canonical (h : s.Canonical) (e n fill ws rest) : (s.applyDecl e n fill ws rest).Canonical := by
  grind [State.applyDecl, State.modMe_canonical, State.raiseAcc_canonical, State.tileWrite_canonical, State.fillFor_canonical]

theorem State.enterCocoon_canonical (h : s.Canonical) (e) : (s.enterCocoon e).Canonical := by
  grind [State.enterCocoon, State.readDecl_canonical, State.applyDecl_canonical, State.lineAt_error_canonical,
    State.lineAt_ok_canonical, State.raise_canonical, State.modMe_canonical]

theorem State.pickUp_canonical (h : s.Canonical) (c i k) : (s.pickUp c i k).Canonical := by
  grind [State.pickUp, State.park_canonical, State.modStrand_canonical, State.report_canonical, State.countEnded_canonical,
    State.modCore_canonical, State.core_ls_wf]

theorem execCocoonPickup_canonical (h : s.Canonical) (c i) {t} (ht : execCocoonPickup c i s = .next t) : t.Canonical := by
  grind [execCocoonPickup, State.devWant_canonical, State.devUsed_canonical, State.pickUp_canonical, State.modCore_canonical,
    Core.askPreempt_ls, State.Canonical, State.core_ls_wf]

/-! ## Events of the network -/

theorem execRouterCycle_canonical (h : s.Canonical) (c errs) {t} (ht : execRouterCycle c errs s = .next t) : t.Canonical := by
  grind [execRouterCycle, State.routerCycle_canonical]

theorem execInjectionStarvation_canonical (h : s.Canonical) (c) {t} (ht : execInjectionStarvation c s = .next t) : t.Canonical := by
  grind [execInjectionStarvation, State.starve_canonical]

theorem State.hostServe_canonical (h : s.Canonical) (m r) : (s.hostServe m r).Canonical := by
  unfold State.hostServe
  grind [State.consume_canonical, State.answer_canonical, State.Canonical, Memory.wf_writeLine]

theorem State.darkAnswer_canonical (h : s.Canonical) (m) : (s.darkAnswer m).Canonical := by
  grind [State.darkAnswer, State.endTicket_canonical]

theorem State.modEngine_canonical (h : s.Canonical) (j f) : (s.modEngine j f).Canonical := h

theorem State.peerNext_canonical (h : s.Canonical) (j) : (s.peerNext j).Canonical := by
  grind [State.peerNext, State.request_canonical, State.modEngine_canonical]

theorem State.peerServe_canonical (h : s.Canonical) (m) : (s.peerServe m).Canonical := by
  grind [State.peerServe, State.peerNext_canonical, State.modEngine_canonical, State.consume_canonical]

theorem State.resyncWrote_canonical (h : s.Canonical) : s.resyncWrote.Canonical := by
  grind [State.resyncWrote, State.Canonical]

theorem State.devAnswer_canonical (h : s.Canonical) (m ep) : (s.devAnswer m ep).Canonical := by
  grind [State.devAnswer, State.devServe_canonical, State.poolsGo_canonical, State.resyncWrote_canonical,
    State.spillsGo_canonical]

theorem State.serve_canonical (h : s.Canonical) (m) : (s.serve m).Canonical := by
  grind [State.serve, State.scServe_canonical, State.peerServe_canonical, State.devAnswer_canonical, State.tlogServe_canonical,
    State.tlogAnswered_canonical, State.logtAnswered_canonical, State.spawnAcked_canonical, State.taken?_canonical,
    State.unpulled_canonical, State.consume_canonical, State.hbmServe_canonical]

theorem execMessageDelivery_canonical (h : s.Canonical) (uid) {t} (ht : execMessageDelivery uid s = .next t) : t.Canonical := by
  grind [execMessageDelivery, State.deliver_canonical, State.darkAnswer_canonical, State.consume_canonical,
    State.hostServe_canonical, State.devAnswer_canonical, State.serve_canonical]

theorem execHostCompletion_canonical (h : s.Canonical) (c i) {t} (ht : execHostCompletion c i s = .next t) : t.Canonical := by
  grind [execHostCompletion, State.Canonical]

theorem execNackRetryReceived_canonical (h : s.Canonical) (uid) {t} (ht : execNackRetryReceived uid s = .next t) : t.Canonical := by
  unfold execNackRetryReceived at ht
  split at ht
  · split at ht
    · extract_lets u dead v m' at ht
      have hv : v.Canonical := by
        grind [State.consume_canonical, State.modCore_canonical, State.core_ls_wf, State.copyWrote_canonical, State.tileStop_canonical]
      clear_value v
      split at ht <;> cases ht <;> exact hv
    · exact h.of_next ht
  · exact h.of_next ht

theorem State.resend_canonical (h : s.Canonical) (j) : (s.resend j).Canonical := by
  grind [State.resend, State.requestMsg_canonical, State.Canonical]

theorem execTicketRetryResend_canonical (h : s.Canonical) (uid) {t} (ht : execTicketRetryResend uid s = .next t) : t.Canonical := by
  grind [execTicketRetryResend, State.resend_canonical]

theorem execFreshResend_canonical (h : s.Canonical) (uid) {t} (ht : execFreshResend uid s = .next t) : t.Canonical := by
  grind [execFreshResend, State.resend_canonical]

theorem Core.setFifo_ls (x : Core) (b f) : (x.setFifo b f).ls = x.ls := rfl

theorem State.serveOn_canonical (h : s.Canonical) (res) : (s.serveOn res).Canonical := by
  grind [State.serveOn, State.modSlice_canonical, State.modCore_canonical, Core.setFifo_ls, State.setPool_canonical,
    State.modLogRec_canonical, State.modTile_canonical, State.core_ls_wf]

theorem State.redcCancel_canonical (h : s.Canonical) (m c n line) : (s.redcCancel m c n line).Canonical := by
  grind [State.redcCancel, State.refuse_canonical, State.modCore_canonical, Core.setGroup_ls, State.core_ls_wf]

theorem execTicketCancel_canonical (h : s.Canonical) (uid) {t} (ht : execTicketCancel uid s = .next t) : t.Canonical := by
  grind [execTicketCancel, State.redcCancel_canonical, State.consume_canonical, State.refuse_canonical, State.serveOn_canonical]

theorem execTicketAbandon_canonical (h : s.Canonical) (res) {t} (ht : execTicketAbandon res s = .next t) : t.Canonical := by
  grind [execTicketAbandon, State.serveOn_canonical]

theorem execInstructionLineFill_canonical (h : s.Canonical) (c i) {t} (ht : execInstructionLineFill c i s = .next t) : t.Canonical := by
  unfold execInstructionLineFill at ht
  split at ht
  · cases ht
  · extract_lets u num any mine at ht
    have hc := fun m : Msg => State.consume_canonical h m.uid
    split at ht
    · split at ht
      · grind [State.modStrand_canonical, State.installILine_canonical]
      · grind
      · extract_lets v at ht
        rename_i m _ _
        have hv : v.Canonical := hc m
        clear_value v
        split at ht
        · extract_lets here at ht
          clear_value here
          grind [State.modStrand_canonical, State.installILine_canonical, State.raiseAt_canonical]
        · exact hv.of_next ht
    · grind

/-! ## Power and sprints -/

theorem State.aim_canonical (h : s.Canonical) (r) : (s.aim r).Canonical := h

theorem State.requestStep_canonical (h : s.Canonical) (cl step) : (s.requestStep cl step).Canonical := by
  grind [State.requestStep, State.modCluster_canonical, State.aim_canonical]

theorem State.recap_canonical (h : s.Canonical) (cl) : (s.recap cl).Canonical := by
  grind [State.recap, State.requestStep_canonical]

theorem State.fallback_canonical (h : s.Canonical) (cl) : (s.fallback cl).Canonical := by
  grind [State.fallback, State.modCluster_canonical]

theorem execClusterStepChange_canonical (h : s.Canonical) (cl) {t} (ht : execClusterStepChange cl s = .next t) : t.Canonical := by
  grind [execClusterStepChange, State.fallback_canonical, State.aim_canonical, State.modCluster_canonical,
    State.requestStep_canonical]

theorem execClusterGovernorWindow_canonical (h : s.Canonical) (cl cyc stl)
    {t} (ht : execClusterGovernorWindow cl cyc stl s = .next t) : t.Canonical := by
  grind [execClusterGovernorWindow, State.modCluster_canonical, State.requestStep_canonical]

theorem execNetGovernorWindow_canonical (h : s.Canonical) (r) {t} (ht : execNetGovernorWindow r s = .next t) : t.Canonical := by
  grind [execNetGovernorWindow, State.modRegion_canonical, State.aim_canonical]

theorem execNetStepChange_canonical (h : s.Canonical) (r) {t} (ht : execNetStepChange r s = .next t) : t.Canonical := by
  grind [execNetStepChange, State.aim_canonical, State.modRegion_canonical]

theorem State.tellHolder_canonical (h : s.Canonical) (l b) : (s.tellHolder l b).Canonical := by
  grind [State.tellHolder, State.pendBit_canonical, State.Canonical]

theorem State.leaseEvent_canonical (h : s.Canonical) (cl) : (s.leaseEvent cl).Canonical := by
  grind [State.leaseEvent, State.aim_canonical, State.modCluster_canonical]

theorem State.endLease_canonical (h : s.Canonical) (cl bit) : (s.endLease cl bit).Canonical := by
  grind [State.endLease, State.recap_canonical, State.modCluster_canonical, State.leaseEvent_canonical,
    State.tellHolder_canonical]

theorem State.leaseDue_canonical (h : s.Canonical) (cl row) : (s.leaseDue cl row).Canonical := h

theorem State.startRefreeze_canonical (h : s.Canonical) : s.startRefreeze.Canonical := by
  grind [State.startRefreeze, State.leaseDue_canonical, State.Canonical, foldl_canonical]

theorem State.expireLease_canonical (h : s.Canonical) (cl) : (s.expireLease cl).Canonical := by
  grind [State.expireLease, State.endLease_canonical, State.startRefreeze_canonical]

theorem State.returnLeases_canonical (h : s.Canonical) (pick) : (s.returnLeases pick).Canonical := by
  grind [State.returnLeases, State.endLease_canonical, State.modCluster_canonical, foldl_canonical]

theorem State.pauseLease_canonical (h : s.Canonical) (cl) : (s.pauseLease cl).Canonical := by
  grind [State.pauseLease, State.tellHolder_canonical, State.recap_canonical, State.modCluster_canonical,
    State.leaseEvent_canonical, foldl_canonical]

theorem State.pauseLeases_canonical (h : s.Canonical) (c n) : (s.pauseLeases c n).Canonical := by
  grind [State.pauseLeases, State.leaseDue_canonical]

theorem State.leasesEnd_canonical (h : s.Canonical) : s.leasesEnd.Canonical := by
  grind [State.leasesEnd, State.expireLease_canonical, State.endLease_canonical, State.pauseLease_canonical, foldl_canonical]

theorem State.resumeLease_canonical (h : s.Canonical) (c0 i0 c i ctx) : (s.resumeLease c0 i0 c i ctx).Canonical := by
  grind [State.resumeLease, State.modCluster_canonical, State.leaseEvent_canonical, State.requestStep_canonical,
    State.pendBit_canonical]

theorem execSprint_canonical (h : s.Canonical) (d a p) {t} (ht : execSprint d a p s = .next t) : t.Canonical := by
  grind [execSprint, State.begin__canonical, State.raisePc_canonical, State.block_canonical]

theorem execSprintRequest_canonical (h : s.Canonical) (c i) {t} (ht : execSprintRequest c i s = .next t) : t.Canonical := by
  grind [execSprintRequest, State.requestStep_canonical, State.modCluster_canonical, State.leaseEvent_canonical,
    State.retireAt_canonical, State.modStrand_canonical]

theorem execLeaseRel_canonical (h : s.Canonical) (d p) {t} (ht : execLeaseRel d p s = .next t) : t.Canonical := by
  grind [execLeaseRel, State.begin__canonical, State.finish_canonical, State.expireLease_canonical, State.endLease_canonical]

theorem execLeaseExpiry_canonical (h : s.Canonical) (cl) {t} (ht : execLeaseExpiry cl s = .next t) : t.Canonical := by
  grind [execLeaseExpiry, State.leaseDue_canonical]

theorem execLeaseEnergyWindow_canonical (h : s.Canonical) (cl nj) {t} (ht : execLeaseEnergyWindow cl nj s = .next t) : t.Canonical := by
  unfold execLeaseEnergyWindow at ht
  generalize 28650 = n at ht
  grind [State.modCluster_canonical, State.leaseDue_canonical]

theorem execMeltPublish_canonical (h : s.Canonical) (melt) {t} (ht : execMeltPublish melt s = .next t) : t.Canonical := by
  grind [execMeltPublish, State.startRefreeze_canonical, State.Canonical]

theorem State.modeEnds_canonical (h : s.Canonical) (cl mode) : (s.modeEnds cl mode).Canonical := by
  grind [State.modeEnds, State.tellHolder_canonical, State.leaseDue_canonical, State.modCluster_canonical,
    State.fallback_canonical, State.recap_canonical, foldl_canonical]

theorem execPhaseLoss_canonical (h : s.Canonical) (r lost) {t} (ht : execPhaseLoss r lost s = .next t) : t.Canonical := by
  grind [execPhaseLoss, State.modRegion_canonical, State.aim_canonical, State.modeEnds_canonical, foldl_canonical]

theorem State.gateRegions_canonical (h : s.Canonical) : s.gateRegions.Canonical := by
  grind [State.gateRegions, State.modRegion_canonical, foldl_canonical]

theorem execRegionSwitchOn_canonical (h : s.Canonical) (r heavy) {t} (ht : execRegionSwitchOn r heavy s = .next t) : t.Canonical := by
  grind [execRegionSwitchOn, State.modRegion_canonical]

theorem execRampEnd_canonical (h : s.Canonical) (r) {t} (ht : execRampEnd r s = .next t) : t.Canonical := by
  grind [execRampEnd, State.modRegion_canonical]

/-! ## System registers and invalidations -/

theorem State.sysSetWide_canonical (h : s.Canonical) (c r v) : (s.sysSetWide c r v).Canonical := by
  unfold State.sysSetWide
  grind [State.modCore_canonical, State.core_ls_wf, State.modRegion_canonical, State.Canonical]

theorem execSysr_canonical (h : s.Canonical) (d reg p) {t} (ht : execSysr d reg p s = .next t) : t.Canonical := by
  grind [execSysr, State.raisePc_canonical, State.begin__canonical, State.finish_canonical]

theorem execSysw_canonical (h : s.Canonical) (a reg p) {t} (ht : execSysw a reg p s = .next t) : t.Canonical := by
  grind [execSysw, State.raisePc_canonical, State.begin__canonical, State.finishLate_canonical, State.sysSetWide_canonical]

theorem execEret_canonical (h : s.Canonical) (p) {t} (ht : execEret p s = .next t) : t.Canonical := by
  grind [execEret, State.begin__canonical, State.raise_canonical, State.modMe_canonical, State.contain_canonical]

theorem execTimecWait_canonical (h : s.Canonical) (d a p) {t} (ht : execTimecWait d a p s = .next t) : t.Canonical := by
  grind [execTimecWait, State.begin__canonical, State.finish_canonical, State.block_canonical]

theorem execTimecodeWaitExpiry_canonical (h : s.Canonical) (c i) {t} (ht : execTimecodeWaitExpiry c i s = .next t) : t.Canonical := by
  grind [execTimecodeWaitExpiry, State.retireAt_canonical, State.modStrand_canonical]

theorem State.bumpAll_canonical (h : s.Canonical) (asid page) : (s.bumpAll asid page).Canonical := State.block_canonical h _

theorem execTlbinv_canonical (h : s.Canonical) (a p) {t} (ht : execTlbinv a p s = .next t) : t.Canonical := by
  grind [execTlbinv, State.begin__canonical, State.raisePc_canonical, State.hold_canonical, State.bumpAll_canonical]

theorem execTlbinvPg_canonical (h : s.Canonical) (a b p) {t} (ht : execTlbinvPg a b p s = .next t) : t.Canonical := by
  grind [execTlbinvPg, State.begin__canonical, State.raisePc_canonical, State.hold_canonical, State.bumpAll_canonical,
    State.raiseAcc_canonical]

theorem Core.bump_ls (x : Core) (asid page) : (x.bump asid page).ls = x.ls := rfl

theorem execTlbBump_canonical (h : s.Canonical) (bid c) {t} (ht : execTlbBump bid c s = .next t) : t.Canonical := by
  grind [execTlbBump, State.modCore_canonical, Core.bump_ls, State.core_ls_wf]

theorem execBumpAck_canonical (h : s.Canonical) (bid c) {t} (ht : execBumpAck bid c s = .next t) : t.Canonical := by
  grind [execBumpAck, State.modCore_canonical, State.retireAt_canonical, State.Canonical, State.core_ls_wf]

/-! ## Queues' turns -/

theorem State.unarm_canonical (h : s.Canonical) (q hit) : (s.unarm q hit).Canonical := h

theorem State.startTurn_canonical (h : s.Canonical) (n) : (s.startTurn n).Canonical := h

theorem State.onTurn_canonical (h : s.Canonical) (n) {t} (ht : s.onTurn n = some t) : t.Canonical := by
  grind [State.onTurn, State.startTurn_canonical]

theorem State.armTurn_canonical (h : s.Canonical) (n) {t} (ht : s.armTurn n = some t) : t.Canonical := by
  grind [State.armTurn, State.startTurn_canonical]

/-! ## Saved images -/

theorem State.saveDrain_canonical (h : s.Canonical) (c e) : (s.saveDrain c e).Canonical := by
  grind [State.saveDrain, State.modCore_canonical, State.drainBegin_canonical, State.modStrand_canonical, State.core_ls_wf]

theorem State.spillNet_canonical (h : s.Canonical) (m) : (s.spillNet m).Canonical := h

theorem State.unspillNet_canonical (h : s.Canonical) (m) : (s.unspillNet m).Canonical := by
  grind [State.unspillNet, State.modReasm_canonical, State.Canonical, foldl_canonical]

theorem State.cancelTickets_canonical (h : s.Canonical) (c) : (s.cancelTickets c).Canonical := h

theorem State.zeroCore_canonical (h : s.Canonical) (c) : (s.zeroCore c).Canonical := by
  grind [State.zeroCore, State.zeroScales_canonical, State.zeroSlot_canonical, State.accZeroed_canonical, foldl_canonical]

theorem State.cleanCore_canonical (h : s.Canonical) (c) : (s.cleanCore c).Canonical := h

theorem State.setSave_canonical (h : s.Canonical) (c v) : (s.setSave c v).Canonical := h

theorem State.saveBegin_canonical (h : s.Canonical) (c n) : (s.saveBegin c n).Canonical := by
  grind [State.saveBegin, State.modReasm_canonical, State.spillNet_canonical, State.setSave_canonical, State.zeroCore_canonical,
    State.cancelTickets_canonical]

theorem State.imageAt_canonical (h : s.Canonical) (c v u k) {t a} (ht : s.imageAt c v u k = some (.waits t, a)) : t.Canonical := by
  grind [State.imageAt, State.engineXlate_canonical]

theorem Core.emptied_wf {x : Core} (h : x.ls.wf = true) (n) : (x.emptied n).ls.wf = true := by
  simp only [Core.emptied]
  split
  · exact Memory.wf_zero _ _ h
  · rfl

theorem State.saveCore_canonical (h : s.Canonical) (c n img) : (s.saveCore c n img).Canonical := by
  grind [State.saveCore, State.cleanCore_canonical, State.modCore_canonical, State.pauseLeases_canonical, Core.emptied_wf,
    State.park_canonical, State.Canonical, foldl_canonical, State.core_ls_wf]

theorem State.saveLine_canonical (h : s.Canonical) (c v) : (s.saveLine c v).Canonical := by
  grind [State.saveLine, State.imageAt_canonical, State.imageSkip_canonical, State.setSave_canonical, State.devPut_canonical,
    State.saveCore_canonical]

theorem State.leaveCore_canonical (h : s.Canonical) (c n) : (s.leaveCore c n).Canonical := by
  grind [State.leaveCore, State.cleanCore_canonical, State.modCore_canonical, State.cancelTickets_canonical, Core.emptied_wf,
    State.core_ls_wf]

theorem execPreemption_canonical (h : s.Canonical) (ctx c) {t} (ht : execPreemption ctx c s = .next t) : t.Canonical := by
  grind [execPreemption, State.saveLine_canonical, State.saveDrain_canonical, State.leaveCore_canonical,
    State.saveBegin_canonical, foldl_canonical]

theorem State.resendSpill_canonical (h : s.Canonical) (c i e) : (s.resendSpill c i e).Canonical := by
  grind [State.resendSpill, State.modCore_canonical, Core.setJent_ls, State.request_canonical, State.core_ls_wf]

theorem State.placeRefused_canonical (h : s.Canonical) (c l) : (s.placeRefused c l).Canonical := by
  grind [State.placeRefused, State.modCore_canonical, Core.setJent_ls, foldl_canonical, State.core_ls_wf]

theorem Memory.wf_writeLines {m : Memory} (h : m.wf = true) (l : List Nat) (a : Nat → Nat) (d : Nat → W1024) (mask) :
    (l.foldl (fun m k => m.writeLine (a k) (d k) mask) m).wf = true :=
  Memory.foldl_wf (fun _ _ h => Memory.wf_writeLine _ _ _ h) l h

theorem State.restoreStrand_canonical (h : s.Canonical) (c i m v) : (s.restoreStrand c i m v).Canonical := by
  have hls := State.core_ls_wf h c
  have hset := fun (x : Core) a e (hx : x.ls.wf = true) => (congrArg Memory.wf (Core.setAcc_ls x a e)).trans hx
  unfold State.restoreStrand
  extract_lets t u v w z
  have hv : v.Canonical := by
    refine State.modCore_canonical h _ _ (Core.foldl_wf (fun x a hx => hset _ _ _ hx) _ ?_)
    split
    · dsimp only
      exact Memory.wf_writeLines hls _ _ _ _
    · exact hls
  have hw : w.Canonical := foldl_canonical (fun s a hs => State.accWritten_canonical hs _ _ _) _ hv
  have hz : z.Canonical := hw
  exact State.resumeLease_canonical hz _ _ _ _ _

theorem Core.fromImage_wf {x : Core} (h : x.ls.wf = true) (m v) : (x.fromImage m v).ls.wf = true := by
  grind [Core.fromImage, Memory.wf_writeNum, Memory.wf_writeLine, Memory.wf_zero, Memory.foldl_wf, Core.foldl_wf]

theorem State.restoreCore_canonical (h : s.Canonical) (m v) : (s.restoreCore m v).Canonical := by
  grind [State.restoreCore, State.unspillNet_canonical, State.cleanCore_canonical, State.modCore_canonical, Core.fromImage_wf,
    State.core_ls_wf]

theorem State.restoreRest_canonical (h : s.Canonical) (m v) : (s.restoreRest m v).Canonical := by
  grind [State.restoreRest, State.placeRefused_canonical, State.resendSpill_canonical, State.fillBegin_canonical,
    State.modTile_canonical, State.modStrand_canonical, foldl_canonical]

theorem State.restoreBegin_canonical (h : s.Canonical) (c n) : (s.restoreBegin c n).Canonical := by
  grind [State.restoreBegin, State.setSave_canonical, State.modCore_canonical, State.core_ls_wf]

theorem State.restoreEnd_canonical (h : s.Canonical) (c n v) : (s.restoreEnd c n v).Canonical := by
  grind [State.restoreEnd, State.restoreCore_canonical, State.restoreStrand_canonical, State.restoreRest_canonical,
    State.Canonical, foldl_canonical]

theorem State.adoptEnd_canonical (h : s.Canonical) (c i v) : (s.adoptEnd c i v).Canonical := by
  grind [State.adoptEnd, State.park_canonical, State.restoreStrand_canonical, State.placeRefused_canonical,
    State.resendSpill_canonical, State.Canonical, foldl_canonical]

theorem State.restoreLine_canonical (h : s.Canonical) (c v) : (s.restoreLine c v).Canonical := by
  grind [State.restoreLine, State.imageAt_canonical, State.imageSkip_canonical, State.setSave_canonical, State.devUsed_canonical,
    State.devWant_canonical, State.adoptEnd_canonical, State.restoreEnd_canonical]

theorem execResumeRestore_canonical (h : s.Canonical) (ctx c) {t} (ht : execResumeRestore ctx c s = .next t) : t.Canonical := by
  grind [execResumeRestore, State.restoreLine_canonical, State.onTurn_canonical, State.restoreBegin_canonical]

theorem State.adopt_canonical (h : s.Canonical) (c i m) : (s.adopt c i m).Canonical := h

theorem State.dispatch_canonical (h : s.Canonical) (q l c i) : (s.dispatch q l c i).Canonical := by
  grind [State.dispatch, State.adopt_canonical, State.findWork_error_canonical, State.findWork_ok_canonical,
    State.handOver_canonical]

theorem execParkedDispatch_canonical (h : s.Canonical) (q) {t} (ht : execParkedDispatch q s = .next t) : t.Canonical := by
  grind [execParkedDispatch, State.dispatch_canonical]

theorem execAsyncDelivery_canonical (h : s.Canonical) (c i) {t} (ht : execAsyncDelivery c i s = .next t) : t.Canonical := by
  cases hd : s.asyncDeliver c i <;> grind [execAsyncDelivery, State.asyncDeliver_canonical]

end Sys2Proof.Machine
end

section
/-!
PROOFS. Every step keeps every memory canonical (R30, R36, R103): launches, slices, resizes and scalar instructions.
-/

namespace Sys2Proof.Machine

variable {s : State}

/-! ## Launches and contexts -/

theorem execQueueHeaderNotify_canonical (h : s.Canonical) (k) {t} (ht : execQueueHeaderNotify k s = .next t) : t.Canonical := by
  grind [execQueueHeaderNotify, State.devAsk_canonical, State.consume_canonical, State.devUsed_canonical, State.report_canonical]

theorem execLaunchTake_canonical (h : s.Canonical) (q) {t} (ht : execLaunchTake q s = .next t) : t.Canonical := by
  grind [execLaunchTake, State.devWant_canonical, State.devPutNum_canonical, State.devUsed_canonical, State.modQueue_canonical]

theorem State.addLevel_canonical (h : s.Canonical) (n k x) : (s.addLevel n k x).Canonical := by
  grind [State.addLevel, State.ctxPut_canonical]

theorem State.parkAll_canonical (h : s.Canonical) (n) : (s.parkAll n).Canonical := by
  grind [State.parkAll, State.park_canonical, foldl_canonical]

theorem State.refuseLaunch_canonical (h : s.Canonical) (q stat) : (s.refuseLaunch q stat).Canonical := h

theorem State.startLaunch_canonical (h : s.Canonical) (q l) : (s.startLaunch q l).Canonical := by
  grind [State.startLaunch, State.addLevel_canonical, State.modCore_canonical, State.setPool_canonical, State.parkAll_canonical,
    State.modQueue_canonical, State.unarm_canonical, State.modContext_canonical, foldl_canonical, State.core_ls_wf]

theorem State.startOrDead_canonical (h : s.Canonical) (q l) : (s.startOrDead q l).Canonical := by
  grind [State.startOrDead, State.refuseLaunch_canonical, State.startLaunch_canonical]

theorem State.gangStart_canonical (h : s.Canonical) (q l) : (s.gangStart q l).Canonical := by
  grind [State.gangStart, State.onTurn_canonical, State.refuseLaunch_canonical, State.startOrDead_canonical]

theorem execLaunchStart_canonical (h : s.Canonical) (q) {t} (ht : execLaunchStart q s = .next t) : t.Canonical := by
  unfold execLaunchStart at ht
  split at ht
  · cases ht
  · split at ht
    · exact h.of_next ht
    · extract_lets now d arms v at ht
      have hv : v.Canonical := State.devUsed_canonical h _ _
      clear_value v arms
      grind [State.refuseLaunch_canonical, State.gangStart_canonical, State.devWant_canonical, State.armTurn_canonical,
        State.modQueue_canonical, State.onTurn_canonical, State.startOrDead_canonical]

theorem State.startGangs_canonical (h : s.Canonical) : s.startGangs.Canonical := by
  grind [State.startGangs, State.gangStart_canonical, foldl_canonical]

theorem State.closeLaunch_canonical (h : s.Canonical) (q l) : (s.closeLaunch q l).Canonical := by
  grind [State.closeLaunch, State.devPutNum_canonical, State.returnLeases_canonical, State.modQueue_canonical,
    State.modContext_canonical]

theorem State.launchDone_canonical (h : s.Canonical) (q l) : (s.launchDone q l).Canonical := by
  grind [State.launchDone, State.devPutNum_canonical, State.modQueue_canonical, State.Canonical]

theorem State.leaveImages_canonical (h : s.Canonical) (q l) : (s.leaveImages q l).Canonical := by
  grind [State.leaveImages, State.dropPlaced_canonical, State.Canonical, foldl_canonical]

theorem execLaunchEnd_canonical (h : s.Canonical) (q) {t} (ht : execLaunchEnd q s = .next t) : t.Canonical := by
  grind [execLaunchEnd, State.launchDone_canonical, State.closeLaunch_canonical, State.leaveImages_canonical]

theorem execContextLevelIncrement_canonical (h : s.Canonical) (ctx)
    {t} (ht : execContextLevelIncrement ctx s = .next t) : t.Canonical := by
  grind [execContextLevelIncrement, State.devWant_canonical, State.ctxPut_canonical, State.addLevel_canonical,
    State.devUsed_canonical, State.modContext_canonical]

theorem execTimeSliceExpiry_canonical (h : s.Canonical) (ctx) {t} (ht : execTimeSliceExpiry ctx s = .next t) : t.Canonical := by
  grind [execTimeSliceExpiry, State.deschedule_canonical]

theorem State.chargeCore_canonical (h : s.Canonical) (c) : (s.chargeCore c).Canonical := by
  grind [State.chargeCore, State.modRegion_canonical, State.charge_canonical, State.Canonical, foldl_canonical]

theorem State.levelSpent_canonical (h : s.Canonical) (n) : (s.levelSpent n).Canonical := by
  grind [State.levelSpent, State.deschedule_canonical]

theorem execCoreTimeCharge_canonical (h : s.Canonical) (c) {t} (ht : execCoreTimeCharge c s = .next t) : t.Canonical := by
  grind [execCoreTimeCharge, State.chargeCore_canonical, State.levelSpent_canonical, foldl_canonical]

theorem execEnergyMeterWindow_canonical (h : s.Canonical) (r uj) {t} (ht : execEnergyMeterWindow r uj s = .next t) : t.Canonical := by
  grind [execEnergyMeterWindow, State.modRegion_canonical, State.levelSpent_canonical, State.charge_canonical, foldl_canonical]

theorem State.chargeTick_canonical (h : s.Canonical) : s.chargeTick.Canonical := by
  grind [State.chargeTick, State.chargeCore_canonical, State.levelSpent_canonical, State.Canonical, foldl_canonical]

theorem State.fenceRest_canonical (h : s.Canonical) (n) : (s.fenceRest n).Canonical := by
  grind [State.fenceRest, State.fence_canonical, foldl_canonical]

theorem State.modLaunch_canonical (h : s.Canonical) (q f) : (s.modLaunch q f).Canonical := h

theorem State.forceKill_canonical (h : s.Canonical) (q l) : (s.forceKill q l).Canonical := by
  grind [State.forceKill, State.modLaunch_canonical, State.endLaunch_canonical, State.fenceRest_canonical]

theorem execWatchdogW1_canonical (h : s.Canonical) (q) {t} (ht : execWatchdogW1 q s = .next t) : t.Canonical := by
  grind [execWatchdogW1, State.modLaunch_canonical, State.deschedule_canonical, State.pendBit_canonical,
    State.forceKill_canonical, foldl_canonical]

theorem execWatchdogW2_canonical (h : s.Canonical) (q) {t} (ht : execWatchdogW2 q s = .next t) : t.Canonical := by
  grind [execWatchdogW2, State.forceKill_canonical]

theorem execWatchdogW3_canonical (h : s.Canonical) (q) {t} (ht : execWatchdogW3 q s = .next t) : t.Canonical := by
  grind [execWatchdogW3, State.fenceRest_canonical]

/-! ## Slices' events -/

theorem State.atHome_canonical (h : s.Canonical) (uid f) {t} (ht : s.atHome uid f = .next t) : t.Canonical := by
  grind [State.atHome, State.homeAccept_canonical]

theorem State.atProxy_canonical (h : s.Canonical) (uid f) {t} (ht : s.atProxy uid f = .next t) : t.Canonical := by
  grind [State.atProxy, State.proxyServe_canonical]

theorem execHomeRead_canonical (h : s.Canonical) (uid) {t} (ht : execHomeRead uid s = .next t) : t.Canonical :=
  State.atHome_canonical h _ _ ht

theorem execHomeWrite_canonical (h : s.Canonical) (uid) {t} (ht : execHomeWrite uid s = .next t) : t.Canonical := by
  grind [execHomeWrite, State.storerWrite_canonical, State.homeAccept_canonical]

theorem execHomeRed_canonical (h : s.Canonical) (uid) {t} (ht : execHomeRed uid s = .next t) : t.Canonical :=
  State.atHome_canonical h _ _ ht

theorem execUGrantRequest_canonical (h : s.Canonical) (uid) {t} (ht : execUGrantRequest uid s = .next t) : t.Canonical :=
  State.atHome_canonical h _ _ ht

theorem execLockingRead_canonical (h : s.Canonical) (uid) {t} (ht : execLockingRead uid s = .next t) : t.Canonical :=
  State.atHome_canonical h _ _ ht

theorem execLineHomeLogEntry_canonical (h : s.Canonical) (uid) {t} (ht : execLineHomeLogEntry uid s = .next t) : t.Canonical :=
  State.atHome_canonical h _ _ ht

theorem execPartialFlush_canonical (h : s.Canonical) (uid) {t} (ht : execPartialFlush uid s = .next t) : t.Canonical := by
  grind [execPartialFlush, State.meetHomeError_canonical, State.foldFlush_canonical, State.consume_canonical,
    State.answer_canonical, State.homeAccept_canonical]

theorem execHbmLineFill_canonical (h : s.Canonical) (ln) {t} (ht : execHbmLineFill ln s = .next t) : t.Canonical := by
  grind [execHbmLineFill, State.hbmFill_canonical]

theorem execVictimWritebackDone_canonical (h : s.Canonical) (ln) {t} (ht : execVictimWritebackDone ln s = .next t) : t.Canonical := by
  grind [execVictimWritebackDone, State.writebackDone_canonical]

theorem execRecallFold_canonical (h : s.Canonical) (ln) {t} (ht : execRecallFold ln s = .next t) : t.Canonical := by
  grind [execRecallFold, State.recallFold_canonical]

theorem execInvalidationAck_canonical (h : s.Canonical) (uid) {t} (ht : execInvalidationAck uid s = .next t) : t.Canonical := by
  grind [execInvalidationAck, State.copyAcked_canonical, State.consume_canonical]

theorem execProxyLoad_canonical (h : s.Canonical) (uid) {t} (ht : execProxyLoad uid s = .next t) : t.Canonical :=
  State.atProxy_canonical h _ _ ht

theorem execProxyStore_canonical (h : s.Canonical) (uid) {t} (ht : execProxyStore uid s = .next t) : t.Canonical :=
  State.atProxy_canonical h _ _ ht

theorem execProxyRed_canonical (h : s.Canonical) (uid) {t} (ht : execProxyRed uid s = .next t) : t.Canonical :=
  State.atProxy_canonical h _ _ ht

theorem execProxyAmo_canonical (h : s.Canonical) (uid) {t} (ht : execProxyAmo uid s = .next t) : t.Canonical :=
  State.atProxy_canonical h _ _ ht

theorem execProxyFillAnswer_canonical (h : s.Canonical) (uid) {t} (ht : execProxyFillAnswer uid s = .next t) : t.Canonical := by
  grind [execProxyFillAnswer, State.proxyFilled_canonical, State.consume_canonical]

theorem execProxyGrantAnswer_canonical (h : s.Canonical) (uid) {t} (ht : execProxyGrantAnswer uid s = .next t) : t.Canonical := by
  grind [execProxyGrantAnswer, State.proxyGranted_canonical, State.consume_canonical]

theorem execProxyInvalidation_canonical (h : s.Canonical) (uid) {t} (ht : execProxyInvalidation uid s = .next t) : t.Canonical := by
  grind [execProxyInvalidation, State.proxyCalled_canonical]

theorem execProxyRecall_canonical (h : s.Canonical) (uid) {t} (ht : execProxyRecall uid s = .next t) : t.Canonical := by
  grind [execProxyRecall, State.proxyCalled_canonical]

theorem execHostWrite_canonical (h : s.Canonical) (pa data stream)
    {t} (ht : execHostWrite pa data stream s = .next t) : t.Canonical := by
  grind [execHostWrite, State.request_canonical]

theorem execHostRead_canonical (h : s.Canonical) (pa n) {t} (ht : execHostRead pa n s = .next t) : t.Canonical := by
  grind [execHostRead, State.request_canonical]

theorem execLogmark_canonical (h : s.Canonical) (uid) {t} (ht : execLogmark uid s = .next t) : t.Canonical := by
  grind [execLogmark, State.answer_canonical, State.logMark_canonical, State.consume_canonical]

theorem execLogclear_canonical (h : s.Canonical) (uid) {t} (ht : execLogclear uid s = .next t) : t.Canonical := by
  grind [execLogclear, State.answer_canonical, State.logClear_canonical, State.consume_canonical]

theorem execPullResponse_canonical (h : s.Canonical) (uid) {t} (ht : execPullResponse uid s = .next t) : t.Canonical := by
  grind [execPullResponse, State.pulled_canonical, State.consume_canonical]

theorem execLogUpdate_canonical (h : s.Canonical) (uid) {t} (ht : execLogUpdate uid s = .next t) : t.Canonical := by
  grind [execLogUpdate, State.logUpdate_canonical]

theorem execPull_canonical (h : s.Canonical) (uid) {t} (ht : execPull uid s = .next t) : t.Canonical := by
  grind [execPull, State.logPull_canonical]

theorem execUnpull_canonical (h : s.Canonical) (uid) {t} (ht : execUnpull uid s = .next t) : t.Canonical := by
  grind [execUnpull, State.logUnpull_canonical]

theorem execLogOpen_canonical (h : s.Canonical) (uid) {t} (ht : execLogOpen uid s = .next t) : t.Canonical := by
  grind [execLogOpen, State.logOpen_canonical]

theorem execLogClose_canonical (h : s.Canonical) (uid) {t} (ht : execLogClose uid s = .next t) : t.Canonical := by
  grind [execLogClose, State.logClose_canonical]

theorem execForwardedEntryAck_canonical (h : s.Canonical) (uid) {t} (ht : execForwardedEntryAck uid s = .next t) : t.Canonical := by
  grind [execForwardedEntryAck, State.fwdAcked_canonical, State.consume_canonical]

theorem execLogmarkAck_canonical (h : s.Canonical) (uid) {t} (ht : execLogmarkAck uid s = .next t) : t.Canonical := by
  grind [execLogmarkAck, State.markAcked_canonical, State.consume_canonical, State.modLogRec_canonical]

theorem execStorerApplyWrite_canonical (h : s.Canonical) (rec) {t} (ht : execStorerApplyWrite rec s = .next t) : t.Canonical := by
  grind [execStorerApplyWrite, State.storerApply_canonical]

theorem execStorerDone_canonical (h : s.Canonical) (rec) {t} (ht : execStorerDone rec s = .next t) : t.Canonical := by
  grind [execStorerDone, State.storerDone_canonical]

theorem execForwardedEntry_canonical (h : s.Canonical) (uid) {t} (ht : execForwardedEntry uid s = .next t) : t.Canonical := by
  grind [execForwardedEntry, State.fwdArrive_canonical]

theorem State.logtServe_canonical (h : s.Canonical) (m) : (s.logtServe m).Canonical := by
  grind [State.logtServe, State.answer_canonical, State.consume_canonical, State.setTensor_canonical, State.freeTensor_canonical]

theorem execLogtIdRequest_canonical (h : s.Canonical) (c i) {t} (ht : execLogtIdRequest c i s = .next t) : t.Canonical := by
  grind [execLogtIdRequest, State.logtServe_canonical]

/-! ## Resizes -/

theorem State.modGroup_canonical (h : s.Canonical) (key f) : (s.modGroup key f).Canonical := h

theorem State.setNbox_canonical (h : s.Canonical) (n st) : (s.setNbox n st).Canonical := State.ctxPut_canonical h _ _ _

theorem execResizeRequest_canonical (h : s.Canonical) (ctx) {t} (ht : execResizeRequest ctx s = .next t) : t.Canonical := by
  grind [execResizeRequest, State.devWant_canonical, State.devUsed_canonical, State.setNbox_canonical, State.modGroup_canonical,
    State.modContext_canonical]

theorem Core.leaveNow_ls (x : Core) (n) : (x.leaveNow n).ls = x.ls := rfl

theorem State.migrateImages_canonical (h : s.Canonical) (n) : (s.migrateImages n).Canonical := h

theorem State.beginMove_canonical (h : s.Canonical) (n) : (s.beginMove n).Canonical := by
  grind [State.beginMove, State.modContext_canonical, State.migrateImages_canonical, State.modCore_canonical, Core.leaveNow_ls,
    foldl_canonical, State.core_ls_wf]

theorem State.moveGroup_canonical (h : s.Canonical) (n key) : (s.moveGroup n key).Canonical := by
  grind [State.moveGroup, State.modCore_canonical, Core.setNode_ls, State.modGroup_canonical, foldl_canonical, State.core_ls_wf]

theorem State.endMove_canonical (h : s.Canonical) (n) : (s.endMove n).Canonical := by
  grind [State.endMove, State.returnLeases_canonical, State.modCore_canonical, Core.bump_ls, State.moveGroup_canonical,
    State.ctxPut_canonical, State.gateRegions_canonical, State.modContext_canonical, State.setNbox_canonical,
    State.parkAll_canonical, foldl_canonical, State.core_ls_wf]

theorem execResizeMove_canonical (h : s.Canonical) (ctx) {t} (ht : execResizeMove ctx s = .next t) : t.Canonical := by
  grind [execResizeMove, State.beginMove_canonical, State.endMove_canonical]

theorem execRangeStopTimeout_canonical (h : s.Canonical) (c i) {t} (ht : execRangeStopTimeout c i s = .next t) : t.Canonical := by
  grind [execRangeStopTimeout, State.modStrand_canonical]

theorem Core.darkened_wf (x : Core) : x.darkened.ls.wf = true := rfl

theorem State.darkCause_canonical (h : s.Canonical) (c q) : (s.darkCause c q).Canonical := by
  grind [State.darkCause, State.failLaunch_canonical, State.killCore_canonical, foldl_canonical]

theorem State.darkCore_canonical (h : s.Canonical) (c) : (s.darkCore c).Canonical := by
  grind [State.darkCore, State.unstall_canonical, State.withdrawSc_canonical, State.countEnded_canonical, State.setCore_canonical,
    Core.darkened_wf, State.logClosed_canonical, State.failTensor_canonical, State.groupDone_canonical, State.Canonical,
    foldl_canonical]

theorem State.settleBumps_canonical (h : s.Canonical) : s.settleBumps.Canonical := by
  grind [State.settleBumps, State.retireAt_canonical, State.Canonical, foldl_canonical]

theorem execFallbackFailure_canonical (h : s.Canonical) (cl) {t} (ht : execFallbackFailure cl s = .next t) : t.Canonical := by
  grind [execFallbackFailure, State.returnLeases_canonical, State.darkCore_canonical, State.settleBumps_canonical,
    State.modCluster_canonical, State.darkCause_canonical, State.Canonical, foldl_canonical]

theorem State.dropLogged_canonical (h : s.Canonical) (id) : (s.dropLogged id).Canonical := by
  grind [State.dropLogged, State.Canonical]

theorem State.killTensors_canonical (h : s.Canonical) (asid) : (s.killTensors asid).Canonical := by
  grind [State.killTensors, State.failTensor_canonical, State.freeRec_canonical, State.dropLogged_canonical, foldl_canonical]

theorem State.freeTensors_canonical (h : s.Canonical) (asid) : (s.freeTensors asid).Canonical := by
  grind [State.freeTensors, State.freeTensor_canonical, foldl_canonical]

theorem State.endKill_canonical (h : s.Canonical) (n) : (s.endKill n).Canonical := by
  grind [State.endKill, State.freeTensors_canonical, State.cleanCore_canonical, State.modCore_canonical, Core.emptied_wf,
    State.modGroup_canonical, State.gateRegions_canonical, State.modContext_canonical, State.Canonical, foldl_canonical,
    State.core_ls_wf]

theorem State.killGo_canonical (h : s.Canonical) (n) : (s.killGo n).Canonical := by
  grind [State.killGo, State.devWant_canonical, State.killTensors_canonical, State.devPutNum_canonical, State.endKill_canonical,
    State.devUsed_canonical]

theorem execKillctx_canonical (h : s.Canonical) (ctx) {t} (ht : execKillctx ctx s = .next t) : t.Canonical := by
  grind [execKillctx, State.killGo_canonical, State.endLaunch_canonical, State.killStrand_canonical, State.returnLeases_canonical,
    State.devAsk_canonical, State.modContext_canonical, State.Canonical, foldl_canonical]

theorem execRestart_canonical (h : s.Canonical) (c i) {t} (ht : execRestart c i s = .next t) : t.Canonical := by
  grind [execRestart, State.park_canonical, State.modStrand_canonical]

/-! ## Management -/

theorem State.clearCounter_canonical (h : s.Canonical) (off) : (s.clearCounter off).Canonical := by
  grind [State.clearCounter, State.modSlice_canonical, State.modCore_canonical, State.modRegion_canonical, State.Canonical,
    State.core_ls_wf]

theorem execMgmtRegisterWrite_canonical (h : s.Canonical) (off val)
    {t} (ht : execMgmtRegisterWrite off val s = .next t) : t.Canonical := by
  grind [execMgmtRegisterWrite, State.modCluster_canonical, State.clearCounter_canonical, State.Canonical]

theorem execResync_canonical (h : s.Canonical) (adr) {t} (ht : execResync adr s = .next t) : t.Canonical := by
  grind [execResync, State.Canonical]

theorem State.resyncTake_canonical (h : s.Canonical) : s.resyncTake.Canonical := by
  grind [State.resyncTake, State.devPut_canonical, State.Canonical, foldl_canonical]

theorem execPeerFrame_canonical (h : s.Canonical) (j frame) {t} (ht : execPeerFrame j frame s = .next t) : t.Canonical := by
  grind [execPeerFrame, State.modEngine_canonical, State.peerNext_canonical]

theorem execTimecodeCorrection_canonical (h : s.Canonical) (ofs slew) {t} (ht : execTimecodeCorrection ofs slew s = .next t) : t.Canonical := by
  cases ofs <;> grind [execTimecodeCorrection, State.Canonical]

theorem State.enginePut_canonical (h : s.Canonical) (j i x) : (s.enginePut j i x).Canonical := State.devPutNum_canonical h _ _ _ _ _ _

theorem State.transferEnd_canonical (h : s.Canonical) (j r v) : (s.transferEnd j r v).Canonical :=
  State.enginePut_canonical (State.modEngine_canonical h _ _) _ _ _

theorem execTransferRecord_canonical (h : s.Canonical) (j) {t} (ht : execTransferRecord j s = .next t) : t.Canonical := by
  grind [execTransferRecord, State.request_canonical, State.modEngine_canonical, State.devWant_canonical,
    State.enginePut_canonical, State.devUsed_canonical, State.transferEnd_canonical]

theorem execCompletionWordWrite_canonical (h : s.Canonical) (j) {t} (ht : execCompletionWordWrite j s = .next t) : t.Canonical := by
  grind [execCompletionWordWrite, State.transferEnd_canonical]

theorem State.tickEnd_canonical (h : s.Canonical) : s.tickEnd.Canonical := by
  grind [State.tickEnd, State.resyncTake_canonical, State.chargeTick_canonical, State.leasesEnd_canonical,
    State.killsDue_canonical, State.startGangs_canonical, State.Canonical]

/-! ## Scalar instructions -/

theorem intInstr_canonical (h : s.Canonical) (op px x) {t} (ht : intInstr op px x s = .next t) : t.Canonical :=
  canonical_of_begin h (fun _ => State.finish_canonical h _) ht

theorem fltInstr_canonical (h : s.Canonical) (op px x) {t} (ht : fltInstr op px x s = .next t) : t.Canonical :=
  canonical_of_begin h (fun _ => State.finish_canonical h _) ht

theorem countInstr_canonical (h : s.Canonical) (f x) {t} (ht : countInstr f x s = .next t) : t.Canonical :=
  canonical_of_begin h (fun _ => State.finish_canonical h _) ht

theorem cmpInstr_canonical (h : s.Canonical) (px x) {t} (ht : cmpInstr px x s = .next t) : t.Canonical :=
  canonical_of_begin h (fun _ => State.finish_canonical h _) ht

theorem execAdd_canonical (h : s.Canonical) (x) {t} (ht : execAdd x s = .next t) : t.Canonical := intInstr_canonical h _ _ _ ht

theorem execSub_canonical (h : s.Canonical) (x) {t} (ht : execSub x s = .next t) : t.Canonical := intInstr_canonical h _ _ _ ht

theorem execMul_canonical (h : s.Canonical) (x) {t} (ht : execMul x s = .next t) : t.Canonical := intInstr_canonical h _ _ _ ht

theorem execMulh_canonical (h : s.Canonical) (x) {t} (ht : execMulh x s = .next t) : t.Canonical := intInstr_canonical h _ _ _ ht

theorem execDiv_canonical (h : s.Canonical) (x) {t} (ht : execDiv x s = .next t) : t.Canonical := intInstr_canonical h _ _ _ ht

theorem execRem_canonical (h : s.Canonical) (x) {t} (ht : execRem x s = .next t) : t.Canonical := intInstr_canonical h _ _ _ ht

theorem execAnd_canonical (h : s.Canonical) (x) {t} (ht : execAnd x s = .next t) : t.Canonical := intInstr_canonical h _ _ _ ht

theorem execOr_canonical (h : s.Canonical) (x) {t} (ht : execOr x s = .next t) : t.Canonical := intInstr_canonical h _ _ _ ht

theorem execXor_canonical (h : s.Canonical) (x) {t} (ht : execXor x s = .next t) : t.Canonical := intInstr_canonical h _ _ _ ht

theorem execAndn_canonical (h : s.Canonical) (x) {t} (ht : execAndn x s = .next t) : t.Canonical := intInstr_canonical h _ _ _ ht

theorem execShl_canonical (h : s.Canonical) (x) {t} (ht : execShl x s = .next t) : t.Canonical := intInstr_canonical h _ _ _ ht

theorem execShr_canonical (h : s.Canonical) (x) {t} (ht : execShr x s = .next t) : t.Canonical := intInstr_canonical h _ _ _ ht

theorem execSar_canonical (h : s.Canonical) (x) {t} (ht : execSar x s = .next t) : t.Canonical := intInstr_canonical h _ _ _ ht

theorem execRot_canonical (h : s.Canonical) (x) {t} (ht : execRot x s = .next t) : t.Canonical := intInstr_canonical h _ _ _ ht

theorem execMin_canonical (h : s.Canonical) (x) {t} (ht : execMin x s = .next t) : t.Canonical := intInstr_canonical h _ _ _ ht

theorem execMax_canonical (h : s.Canonical) (x) {t} (ht : execMax x s = .next t) : t.Canonical := intInstr_canonical h _ _ _ ht

theorem execCmp_canonical (h : s.Canonical) (x) {t} (ht : execCmp x s = .next t) : t.Canonical := cmpInstr_canonical h _ _ ht

theorem execClz_canonical (h : s.Canonical) (x) {t} (ht : execClz x s = .next t) : t.Canonical := countInstr_canonical h _ _ ht

theorem execPopc_canonical (h : s.Canonical) (x) {t} (ht : execPopc x s = .next t) : t.Canonical := countInstr_canonical h _ _ ht

theorem execFadd_canonical (h : s.Canonical) (x) {t} (ht : execFadd x s = .next t) : t.Canonical := fltInstr_canonical h _ _ _ ht

theorem execFsub_canonical (h : s.Canonical) (x) {t} (ht : execFsub x s = .next t) : t.Canonical := fltInstr_canonical h _ _ _ ht

theorem execFmul_canonical (h : s.Canonical) (x) {t} (ht : execFmul x s = .next t) : t.Canonical := fltInstr_canonical h _ _ _ ht

theorem execFdiv_canonical (h : s.Canonical) (x) {t} (ht : execFdiv x s = .next t) : t.Canonical := fltInstr_canonical h _ _ _ ht

theorem execFmin_canonical (h : s.Canonical) (x) {t} (ht : execFmin x s = .next t) : t.Canonical := fltInstr_canonical h _ _ _ ht

theorem execFmax_canonical (h : s.Canonical) (x) {t} (ht : execFmax x s = .next t) : t.Canonical := fltInstr_canonical h _ _ _ ht

theorem execFcmp_canonical (h : s.Canonical) (x) {t} (ht : execFcmp x s = .next t) : t.Canonical := cmpInstr_canonical h _ _ ht

end Sys2Proof.Machine
end

section
/-!
PROOFS. Every step keeps every memory canonical (R30, R36, R103): every instruction, every turn, every step.
-/

namespace Sys2Proof.Machine

variable {s : State}

/-! ## Every instruction and event -/

/-- Every instruction and every event keeps every memory canonical, each by the lemma of its own. -/
theorem exec_canonical (h : s.Canonical) (i) {t} (ht : exec i s = .next t) : t.Canonical := by
  cases i with
  | nop => exact canonical_of_begin h (fun _ => State.retire_canonical h) ht
  | movi _ _ _ => exact canonical_of_begin h (fun _ => State.finish_canonical h _) ht
  | movhi _ _ _ => exact canonical_of_begin h (fun _ => State.finish_canonical h _) ht
  | add x => exact execAdd_canonical h x ht
  | sub x => exact execSub_canonical h x ht
  | mul x => exact execMul_canonical h x ht
  | mulh x => exact execMulh_canonical h x ht
  | div x => exact execDiv_canonical h x ht
  | rem x => exact execRem_canonical h x ht
  | and x => exact execAnd_canonical h x ht
  | or x => exact execOr_canonical h x ht
  | xor x => exact execXor_canonical h x ht
  | andn x => exact execAndn_canonical h x ht
  | shl x => exact execShl_canonical h x ht
  | shr x => exact execShr_canonical h x ht
  | sar x => exact execSar_canonical h x ht
  | rot x => exact execRot_canonical h x ht
  | min x => exact execMin_canonical h x ht
  | max x => exact execMax_canonical h x ht
  | cmp x => exact execCmp_canonical h x ht
  | sel _ => exact canonical_of_begin h (fun _ => State.finish_canonical h _) ht
  | clz x => exact execClz_canonical h x ht
  | popc x => exact execPopc_canonical h x ht
  | brev _ => exact canonical_of_begin h (fun _ => State.finish_canonical h _) ht
  | ext _ => exact canonical_of_begin h (fun _ => State.finish_canonical h _) ht
  | ins _ => exact canonical_of_begin h (fun _ => State.finish_canonical h _) ht
  | fadd x => exact execFadd_canonical h x ht
  | fsub x => exact execFsub_canonical h x ht
  | fmul x => exact execFmul_canonical h x ht
  | fma _ => exact canonical_of_begin h (fun _ => State.finish_canonical h _) ht
  | fdiv x => exact execFdiv_canonical h x ht
  | fsqrt _ => exact canonical_of_begin h (fun _ => State.finish_canonical h _) ht
  | fmin x => exact execFmin_canonical h x ht
  | fmax x => exact execFmax_canonical h x ht
  | fcmp x => exact execFcmp_canonical h x ht
  | cvt _ => exact canonical_of_begin h (fun _ => State.finish_canonical h _) ht
  | br _ _ => exact canonical_of_begin h (fun _ => State.transfer_canonical h _ _) ht
  | brc x => exact execBrc_canonical h x ht
  | call _ _ => exact canonical_of_begin h (fun _ => State.transfer_canonical h _ _) ht
  | ret _ => exact canonical_of_begin h (fun _ => State.transfer_canonical h _ _) ht
  | jmp _ _ => exact canonical_of_begin h (fun _ => State.transfer_canonical h _ _) ht
  | jmpL _ _ => exact canonical_of_begin h (fun _ => State.transfer_canonical h _ _) ht
  | loop a tgt p => exact execLoop_canonical h a tgt p ht
  | nexti tgt p => exact execNexti_canonical h tgt p ht
  | fmt _ => exact canonical_of_begin h (fun _ => State.stepTrap_canonical (State.modMe_canonical h _) _ _) ht
  | vadd x => exact execVadd_canonical h x ht
  | vsub x => exact execVsub_canonical h x ht
  | vmul x => exact execVmul_canonical h x ht
  | vmulH x => exact execVmulH_canonical h x ht
  | vfma _ => exact canonical_of_begin h (fun _ => State.vecOut_canonical h _ _ _ _) ht
  | vmin x => exact execVmin_canonical h x ht
  | vmax x => exact execVmax_canonical h x ht
  | vabs x => exact execVabs_canonical h x ht
  | vneg x => exact execVneg_canonical h x ht
  | vand x => exact execVand_canonical h x ht
  | vandN x => exact execVandN_canonical h x ht
  | vor x => exact execVor_canonical h x ht
  | vxor x => exact execVxor_canonical h x ht
  | vshl x => exact execVshl_canonical h x ht
  | vshr x => exact execVshr_canonical h x ht
  | vsar x => exact execVsar_canonical h x ht
  | vcmp _ => exact canonical_of_begin h (fun _ => State.finish_canonical h _) ht
  | vsel x => exact execVsel_canonical h x ht
  | vcvt _ => exact canonical_of_begin h (fun _ => State.finish_canonical h _) ht
  | vrcp x => exact execVrcp_canonical h x ht
  | vrsq x => exact execVrsq_canonical h x ht
  | vsqrt x => exact execVsqrt_canonical h x ht
  | vexp2 x => exact execVexp2_canonical h x ht
  | vlog2 x => exact execVlog2_canonical h x ht
  | vtanh x => exact execVtanh_canonical h x ht
  | vreduce _ => exact canonical_of_begin h (fun _ => State.finish_canonical h _) ht
  | vscan _ => exact canonical_of_begin h (fun _ => State.vecOut_canonical h _ _ _ _) ht
  | vperm x => exact execVperm_canonical h x ht
  | vrot x => exact execVrot_canonical h x ht
  | vbcast x => exact execVbcast_canonical h x ht
  | vextr x => exact execVextr_canonical h x ht
  | vinsl x => exact execVinsl_canonical h x ht
  | viota x => exact execViota_canonical h x ht
  | vmov x => exact execVmov_canonical h x ht
  | vcompress _ => exact canonical_of_begin h (fun _ => State.finish_canonical h _) ht
  | vexpand x => exact execVexpand_canonical h x ht
  | vrns _ => exact canonical_of_begin h (fun _ => State.vecOut_canonical h _ _ _ _) ht
  | vcrt _ => exact canonical_of_begin h (fun _ => State.vecOut_canonical h _ _ _ _) ht
  | vradd x => exact execVradd_canonical h x ht
  | vraddSub x => exact execVraddSub_canonical h x ht
  | vrmul x => exact execVrmul_canonical h x ht
  | kopAnd x => exact execKopAnd_canonical h x ht
  | kopOr x => exact execKopOr_canonical h x ht
  | kopXor x => exact execKopXor_canonical h x ht
  | kopAndn x => exact execKopAndn_canonical h x ht
  | kopNot _ => exact canonical_of_begin h (fun _ => State.finish_canonical h _) ht
  | kmov _ => exact canonical_of_begin h (fun _ => State.finish_canonical h _) ht
  | kpop _ => exact canonical_of_begin h (fun _ => State.finish_canonical h _) ht
  | ld _ => exact canonical_of_begin h (fun _ => State.loadLanes_canonical h _ _ _ _ _ _) ht
  | st _ => exact canonical_of_begin h (fun _ => State.storeLanes_canonical h _ _ _ _ _) ht
  | stP _ => exact canonical_of_begin h (fun _ => State.storeLanes_canonical h _ _ _ _ _) ht
  | ldv _ => exact canonical_of_begin h (fun _ => State.loadVec_canonical h _ _ _) ht
  | stv _ => exact canonical_of_begin h (fun _ => State.storeVec_canonical h _ _ _ _) ht
  | ldvs _ => exact canonical_of_begin h (fun _ => State.loadVec_canonical h _ _ _) ht
  | stvs _ => exact canonical_of_begin h (fun _ => State.storeVec_canonical h _ _ _ _) ht
  | gather _ => exact canonical_of_begin h (fun _ => State.loadVec_canonical h _ _ _) ht
  | scatter _ => exact canonical_of_begin h (fun _ => State.storeVec_canonical h _ _ _ _) ht
  | pref _ => exact canonical_of_begin h (fun _ => State.prefetch_canonical h _ _) ht
  | prefPx _ => exact canonical_of_begin h (fun _ => State.prefetch_canonical h _ _) ht
  | cinv x => exact execCinv_canonical h x ht
  | cinvData p => exact execCinvData_canonical h p ht
  | cinvInstr p => exact execCinvInstr_canonical h p ht
  | cinvAll p => exact execCinvAll_canonical h p ht
  | cwb x => exact execCwb_canonical h x ht
  | bmode mode bank p => exact execBmode_canonical h mode bank p ht
  | qpush x => exact execQpush_canonical h x ht
  | qpop x => exact execQpop_canonical h x ht
  | qfree _ _ => exact canonical_of_begin h (fun _ => State.finish_canonical h _) ht
  | qfreeAddr _ _ => exact canonical_of_begin h (fun _ => State.finish_canonical h _) ht
  | tdef t a off p => exact execTdef_canonical h t a off p ht
  | tfill t p => exact execTfill_canonical h t p ht
  | tdrain t p => exact execTdrain_canonical h t p ht
  | trel t p => exact execTrel_canonical h t p ht
  | tstat _ _ _ => exact canonical_of_begin h (fun _ => State.finish_canonical h _) ht
  | tstatTime _ _ _ => exact canonical_of_begin h (fun _ => State.finish_canonical h _) ht
  | tldv d row col t p => exact execTldv_canonical h d row col t p ht
  | tstv row col data t p => exact execTstv_canonical h row col data t p ht
  | tupd _ => exact canonical_of_begin h (fun _ => State.sendUpdate_canonical h _ _) ht
  | tupdv _ => exact canonical_of_begin h (fun _ => State.sendUpdate_canonical h _ _) ht
  | logt d x => exact execLogt_canonical h d x ht
  | logtRet a p => exact execLogtRet_canonical h a p ht
  | tlogQuery _ _ _ => exact canonical_of_begin h (fun _ => State.tlog_canonical h _ _ _) ht
  | tlogCompact _ _ _ => exact canonical_of_begin h (fun _ => State.tlog_canonical h _ _ _) ht
  | tlogSync d a p => exact execTlogSync_canonical h d a p ht
  | cpyG2l _ => exact canonical_of_begin h (fun _ => State.copyIssue_canonical h _ _) ht
  | cpyL2g _ => exact canonical_of_begin h (fun _ => State.copyIssue_canonical h _ _) ht
  | cpyL2r _ => exact canonical_of_begin h (fun _ => State.copyIssue_canonical h _ _) ht
  | cpyMcast _ => exact canonical_of_begin h (fun _ => State.copyIssue_canonical h _ _) ht
  | cpyRedc _ => exact canonical_of_begin h (fun _ => State.copyIssue_canonical h _ _) ht
  | cpyq d clr word id p => exact execCpyq_canonical h d clr word id p ht
  | oclaim o t p => exact execOclaim_canonical h o t p ht
  | ofill t src p => exact execOfill_canonical h t src p ht
  | orels o p => exact execOrels_canonical h o p ht
  | subs base shp t rn1 sid p => exact execSubs_canonical h base shp t rn1 sid p ht
  | unsubs _ _ => exact canonical_of_begin h (fun _ => State.retire_canonical (State.streamStop_canonical h _ _)) ht
  | grpset n a p => exact execGrpset_canonical h n a p ht
  | wait l k c t p => exact execWait_canonical h l k c t p ht
  | fence scope later earlier p => exact execFence_canonical h scope later earlier p ht
  | amo x => exact execAmo_canonical h x ht
  | red x => exact execRed_canonical h x ht
  | mma _ => exact canonical_of_begin h (fun _ => State.mmIssue_canonical h _ _ _) ht
  | mmz d fill p => exact execMmz_canonical h d fill p ht
  | amov d a p => exact execAmov_canonical h d a p ht
  | amovV d a r p => exact execAmovV_canonical h d a r p ht
  | amovA d a r p => exact execAmovA_canonical h d a r p ht
  | ald d x => exact execAld_canonical h d x ht
  | adrn clr a b c ssa ssb off p => exact execAdrn_canonical h clr a b c ssa ssb off p ht
  | aclaim d p => exact execAclaim_canonical h d p ht
  | arels d p => exact execArels_canonical h d p ht
  | uprog i32 a b ns p => exact execUprog_canonical h i32 a b ns p ht
  | mmu _ => exact canonical_of_begin h (fun _ => State.mmIssue_canonical h _ _ _) ht
  | arv scope other m ch p => exact execArv_canonical h scope other m ch p ht
  | wtb scope ch p => exact execWtb_canonical h scope ch p ht
  | btst _ _ _ _ => exact canonical_of_begin h (fun _ => State.finish_canonical h _) ht
  | bcfg a ch p => exact execBcfg_canonical h a ch p ht
  | bcfgGrp a b ch p => exact execBcfgGrp_canonical h a b ch p ht
  | spawn a p => exact execSpawn_canonical h a p ht
  | take d p => exact execTake_canonical h d p ht
  | suspend a tgt p => exact execSuspend_canonical h a tgt p ht
  | done p => exact execDone_canonical h p ht
  | yield _ _ => exact canonical_of_begin h (fun _ => State.yieldTo_canonical h _) ht
  | sprint d a p => exact execSprint_canonical h d a p ht
  | lease _ _ => exact canonical_of_begin h (fun _ => State.finish_canonical h _) ht
  | leaseExp _ _ => exact canonical_of_begin h (fun _ => State.finish_canonical h _) ht
  | leaseRel d p => exact execLeaseRel_canonical h d p ht
  | trap _ _ => exact canonical_of_begin h (fun _ => State.takeTrap_canonical h _ _ _ _ _) ht
  | eret p => exact execEret_canonical h p ht
  | sysr d reg p => exact execSysr_canonical h d reg p ht
  | sysw a reg p => exact execSysw_canonical h a reg p ht
  | tlbinv a p => exact execTlbinv_canonical h a p ht
  | tlbinvPg a b p => exact execTlbinvPg_canonical h a b p ht
  | brk _ _ => exact canonical_of_begin h (fun _ => State.takeTrap_canonical h _ _ _ _ _) ht
  | timec _ _ => exact canonical_of_begin h (fun _ => State.finish_canonical h _) ht
  | timecWait d a p => exact execTimecWait_canonical h d a p ht
  | halt _ => exact canonical_of_begin h (fun _ => State.report_canonical (State.finish_canonical h _) _ _) ht
  | coreReset c => exact execCoreReset_canonical h c ht
  | boot => exact execBoot_canonical h ht
  | instructionLineFill c i => exact execInstructionLineFill_canonical h c i ht
  | routerCycle c errs => exact execRouterCycle_canonical h c errs ht
  | injectionStarvation c => exact execInjectionStarvation_canonical h c ht
  | messageDelivery uid => exact execMessageDelivery_canonical h uid ht
  | netGovernorWindow r => exact execNetGovernorWindow_canonical h r ht
  | netStepChange r => exact execNetStepChange_canonical h r ht
  | ticketRetryResend uid => exact execTicketRetryResend_canonical h uid ht
  | freshResend uid => exact execFreshResend_canonical h uid ht
  | ticketCancel uid => exact execTicketCancel_canonical h uid ht
  | ticketAbandon res => exact execTicketAbandon_canonical h res ht
  | nackRetryReceived uid => exact execNackRetryReceived_canonical h uid ht
  | homeRead uid => exact execHomeRead_canonical h uid ht
  | homeWrite uid => exact execHomeWrite_canonical h uid ht
  | homeRed uid => exact execHomeRed_canonical h uid ht
  | uGrantRequest uid => exact execUGrantRequest_canonical h uid ht
  | hbmLineFill ln => exact execHbmLineFill_canonical h ln ht
  | victimWritebackDone ln => exact execVictimWritebackDone_canonical h ln ht
  | invalidationAck uid => exact execInvalidationAck_canonical h uid ht
  | recallFold ln => exact execRecallFold_canonical h ln ht
  | partialFlush uid => exact execPartialFlush_canonical h uid ht
  | proxyLoad uid => exact execProxyLoad_canonical h uid ht
  | proxyStore uid => exact execProxyStore_canonical h uid ht
  | proxyRed uid => exact execProxyRed_canonical h uid ht
  | proxyAmo uid => exact execProxyAmo_canonical h uid ht
  | proxyFillAnswer uid => exact execProxyFillAnswer_canonical h uid ht
  | proxyGrantAnswer uid => exact execProxyGrantAnswer_canonical h uid ht
  | proxyInvalidation uid => exact execProxyInvalidation_canonical h uid ht
  | proxyRecall uid => exact execProxyRecall_canonical h uid ht
  | hostWrite pa data stream => exact execHostWrite_canonical h pa data stream ht
  | hostRead pa n => exact execHostRead_canonical h pa n ht
  | windowAccess uid => exact execWindowAccess_canonical h uid ht
  | loadResponse uid => exact execLoadResponse_canonical h uid ht
  | storeAnswer uid => exact execStoreAnswer_canonical h uid ht
  | amoAnswer uid => exact execAmoAnswer_canonical h uid ht
  | postedAck uid => exact execPostedAck_canonical h uid ht
  | postedFinalRefusal uid => exact execPostedFinalRefusal_canonical h uid ht
  | qpushArrival uid => exact execQpushArrival_canonical h uid ht
  | qpushAck uid => exact execQpushAck_canonical h uid ht
  | bmodeComplete c bank => exact execBmodeComplete_canonical h c bank ht
  | tlbWalkProbe wid => exact execTlbWalkProbe_canonical h wid ht
  | faultMailboxPush uid => exact execFaultMailboxPush_canonical h uid ht
  | faultReply c idx => exact execFaultReply_canonical h c idx ht
  | tlbBump bid c => exact execTlbBump_canonical h bid c ht
  | bumpAck bid c => exact execBumpAck_canonical h bid c ht
  | copyDestWrite uid => exact execCopyDestWrite_canonical h uid ht
  | copyWriteAck uid => exact execCopyWriteAck_canonical h uid ht
  | redcContribution uid => exact execRedcContribution_canonical h uid ht
  | fillDataMessage uid => exact execFillDataMessage_canonical h uid ht
  | drainComplete c t => exact execDrainComplete_canonical h c t ht
  | loaderPushStart c sid => exact execLoaderPushStart_canonical h c sid ht
  | grpsetTimeout c i => exact execGrpsetTimeout_canonical h c i ht
  | matrixOpStart c pipe => exact execMatrixOpStart_canonical h c pipe ht
  | matrixOpEnd c op => exact execMatrixOpEnd_canonical h c op ht
  | scTicketGrant seqr => exact execScTicketGrant_canonical h seqr ht
  | clusterSequencerIntake cl => exact execClusterSequencerIntake_canonical h cl ht
  | logtIdRequest c i => exact execLogtIdRequest_canonical h c i ht
  | logUpdate uid => exact execLogUpdate_canonical h uid ht
  | logmark uid => exact execLogmark_canonical h uid ht
  | logclear uid => exact execLogclear_canonical h uid ht
  | pull uid => exact execPull_canonical h uid ht
  | pullResponse uid => exact execPullResponse_canonical h uid ht
  | unpull uid => exact execUnpull_canonical h uid ht
  | logOpen uid => exact execLogOpen_canonical h uid ht
  | logClose uid => exact execLogClose_canonical h uid ht
  | forwardedEntry uid => exact execForwardedEntry_canonical h uid ht
  | lockingRead uid => exact execLockingRead_canonical h uid ht
  | storerApplyWrite rec => exact execStorerApplyWrite_canonical h rec ht
  | storerDone rec => exact execStorerDone_canonical h rec ht
  | barrierArrival c i => exact execBarrierArrival_canonical h c i ht
  | groupRelease ch gix => exact execGroupRelease_canonical h ch gix ht
  | nodeRelease c ch => exact execNodeRelease_canonical h c ch ht
  | cocoonPickup c i => exact execCocoonPickup_canonical h c i ht
  | parkedDispatch q => exact execParkedDispatch_canonical h q ht
  | spawnAccept c i => exact execSpawnAccept_canonical h c i ht
  | splitApply c i => exact execSplitApply_canonical h c i ht
  | queueHeaderNotify q => exact execQueueHeaderNotify_canonical h q ht
  | launchTake q => exact execLaunchTake_canonical h q ht
  | launchStart q => exact execLaunchStart_canonical h q ht
  | launchEnd q => exact execLaunchEnd_canonical h q ht
  | contextLevelIncrement ctx => exact execContextLevelIncrement_canonical h ctx ht
  | timeSliceExpiry ctx => exact execTimeSliceExpiry_canonical h ctx ht
  | energyMeterWindow r uj => exact execEnergyMeterWindow_canonical h r uj ht
  | resizeRequest ctx => exact execResizeRequest_canonical h ctx ht
  | resizeMove ctx => exact execResizeMove_canonical h ctx ht
  | watchdogW1 q => exact execWatchdogW1_canonical h q ht
  | watchdogW2 q => exact execWatchdogW2_canonical h q ht
  | watchdogW3 q => exact execWatchdogW3_canonical h q ht
  | asyncDelivery c i => exact execAsyncDelivery_canonical h c i ht
  | preemption ctx c => exact execPreemption_canonical h ctx c ht
  | resumeRestore ctx c => exact execResumeRestore_canonical h ctx c ht
  | clusterGovernorWindow cl cyc stl => exact execClusterGovernorWindow_canonical h cl cyc stl ht
  | clusterStepChange cl => exact execClusterStepChange_canonical h cl ht
  | phaseLoss r lost => exact execPhaseLoss_canonical h r lost ht
  | fallbackFailure cl => exact execFallbackFailure_canonical h cl ht
  | regionSwitchOn r heavy => exact execRegionSwitchOn_canonical h r heavy ht
  | rampEnd r => exact execRampEnd_canonical h r ht
  | meltPublish melt => exact execMeltPublish_canonical h melt ht
  | leaseEnergyWindow cl nj => exact execLeaseEnergyWindow_canonical h cl nj ht
  | leaseExpiry cl => exact execLeaseExpiry_canonical h cl ht
  | killctx ctx => exact execKillctx_canonical h ctx ht
  | resync adr => exact execResync_canonical h adr ht
  | restart c i => exact execRestart_canonical h c i ht
  | mgmtRegisterWrite off val => exact execMgmtRegisterWrite_canonical h off val ht
  | peerFrame j frame => exact execPeerFrame_canonical h j frame ht
  | timecodeCorrection ofs slew => exact execTimecodeCorrection_canonical h ofs slew ht
  | transferRecord j => exact execTransferRecord_canonical h j ht
  | completionWordWrite j => exact execCompletionWordWrite_canonical h j ht
  | coreTimeCharge c => exact execCoreTimeCharge_canonical h c ht
  | timecodeWaitExpiry c i => exact execTimecodeWaitExpiry_canonical h c i ht
  | rangeStopTimeout c i => exact execRangeStopTimeout_canonical h c i ht
  | sprintRequest c i => exact execSprintRequest_canonical h c i ht
  | ofillComplete c t => exact execOfillComplete_canonical h c t ht
  | openGrant uid => exact execOpenGrant_canonical h uid ht
  | logmarkAck uid => exact execLogmarkAck_canonical h uid ht
  | lineHomeLogEntry uid => exact execLineHomeLogEntry_canonical h uid ht
  | forwardedEntryAck uid => exact execForwardedEntryAck_canonical h uid ht
  | hostCompletion c i => exact execHostCompletion_canonical h c i ht

/-! ## A turn and a step -/

theorem State.freed_canonical (h : s.Canonical) : s.freed.Canonical := by
  grind [State.freed, State.modMe_canonical]

/-- The turn of a strand that has left its hold. -/
theorem freed_turn_canonical (h : s.Canonical) {t} (ht : (match s.me.entryDue with
    | some e => .next (s.enterCocoon e)
    | none => match s.issue with
      | .run ins s => exec ins s
      | .stop s => .next s) = Host.Outcome.next t) : t.Canonical := by
  split at ht
  · exact (State.enterCocoon_canonical h _).of_next ht
  · split at ht
    · exact exec_canonical (State.issue_run_canonical h (by assumption)) _ ht
    · exact (State.issue_stop_canonical h (by assumption)).of_next ht

theorem strandTurn_canonical (h : s.Canonical) (c i) {t} (ht : strandTurn c i s = .next t) : t.Canonical := by
  unfold strandTurn at ht
  split at ht
  · cases ht
  · split at ht
    · exact h.of_next ht
    · extract_lets v u at ht
      have hv : v.Canonical := h
      clear_value v
      split at ht
      · cases ht
        exact State.asyncDeliver_canonical hv _ _ (by assumption)
      · split at ht
        · cases ht
          exact State.postAll_canonical hv _ _ _ _
        · cases ht
          split
          · exact State.accessGo_canonical hv _ _ _ _
          · exact hv
        case h_9 => exact hv.of_next ht
        all_goals exact freed_turn_canonical (State.freed_canonical hv) ht

theorem tickTurn_canonical (h : s.Canonical) {t} (ht : tickTurn s = .next t) : t.Canonical := by
  grind [tickTurn, State.tickEnd_canonical, State.Canonical]

theorem takeTurn_canonical (h : s.Canonical) (u) {t} (ht : takeTurn u s = .next t) : t.Canonical := by
  cases u with
  | strand c i => exact strandTurn_canonical h c i ht
  | event e => exact exec_canonical h e ht
  | tick => exact tickTurn_canonical h ht

theorem step_canonical (h : s.Canonical) {t} (ht : step s = .next t) : t.Canonical := by
  unfold step at ht
  split at ht
  · rename_i u rest _
    exact takeTurn_canonical (s := { s with agenda := rest }) h u ht
  · exact takeTurn_canonical h _ ht

/-- Settles O36: `step_canonical`, which follows the turn that the step takes to its instruction or event. -/
theorem memoryStaysCanonical : Obligations.MemoryStaysCanonical := by
  unfold Obligations.MemoryStaysCanonical
  exact fun s t h ht => step_canonical h ht

end Sys2Proof.Machine
end

section
/-!
SUPPORT. Routers: reading one after a change of it or of another, and what a cycle of a router does whose borders and base port bring
nothing (R48, R55, R58, R60, R67).
-/

namespace Sys2Proof.Machine

/-! ## Routers -/

@[simp] theorem State.router_modRouter_same (s : State) (c : Nat) (f : Router → Router) : (s.modRouter c f).router c = f (s.router c) :=
  SMap.getD_set_same _ _ _ _

theorem State.router_modRouter_other (s : State) {c k : Nat} (f : Router → Router) (h : k ≠ c) : (s.modRouter c f).router k = s.router k :=
  SMap.getD_set_other _ _ _ h

/-- A change that leaves a router as it is leaves every router as it is. -/
theorem State.router_modRouter_of_fixed {s : State} {c : Nat} {f : Router → Router} (h : f (s.router c) = s.router c) (k : Nat) :
    (s.modRouter c f).router k = s.router k := by
  by_cases hk : k = c
  · subst hk; rw [State.router_modRouter_same, h]
  · exact s.router_modRouter_other f hk

/-- Feeding the injection queue goes by what waits and whose turn it is, and changes nothing else. -/
theorem Router.feed_eq (k : Nat) (r : Router) : Router.feed k r = { r with
    inj := (Router.feed k r).inj, outCore := (Router.feed k r).outCore, outSlice := (Router.feed k r).outSlice
    turnSlice := (Router.feed k r).turnSlice } := by
  induction k generalizing r with
  | zero => rfl
  | succ k ih =>
    unfold Router.feed
    split
    · rfl
    · split
      · rfl
      · exact ih _
      · exact ih _
      · split <;> exact ih _

theorem Router.feed_inj_congr (k : Nat) {r q : Router} (hi : r.inj = q.inj) (hc : r.outCore = q.outCore) (hs : r.outSlice = q.outSlice)
    (ht : r.turnSlice = q.turnSlice) : (Router.feed k r).inj = (Router.feed k q).inj := by
  induction k generalizing r q with
  | zero => exact hi
  | succ k ih =>
    unfold Router.feed
    rw [hi, hc, hs, ht]
    split
    · exact hi
    · split
      · exact hi
      · exact ih rfl rfl rfl rfl
      · exact ih rfl rfl rfl rfl
      · split <;> exact ih rfl rfl rfl rfl

/-! ## Distances -/

/-- Distances are those of the live graph, which says nothing of the routers and the regions. -/
theorem State.dist_setNet (s : State) (x : SMap Router) (y : SMap Region) (u d : Nat) :
    State.dist { s with routers := x, regions := y } u d = s.dist u d := by
  have hr : ∀ k n seen front, State.ringSearch { s with routers := x, regions := y } u k n seen front = s.ringSearch u k n seen front := by
    intro k
    induction k with
    | zero => exact fun _ _ _ => rfl
    | succ k ih =>
      intro n seen front
      have hf : State.frontier { s with routers := x, regions := y } (front ++ seen) front = s.frontier (front ++ seen) front := rfl
      simp only [State.ringSearch, hf, ih]
  have ht : State.targets { s with routers := x, regions := y } d = s.targets d := rfl
  have hl : State.full { s with routers := x, regions := y } = s.full := rfl
  simp only [State.dist, ht, hl, hr]

theorem State.productive_setNet (s : State) (x : SMap Router) (y : SMap Region) (c : Nat) (f : Flit) :
    State.productive { s with routers := x, regions := y } c f = s.productive c f := by
  have hp : ∀ q, State.portState { s with routers := x, regions := y } c q = s.portState c q := fun _ => rfl
  have hq : State.prefPorts { s with routers := x, regions := y } f.cls = s.prefPorts f.cls := rfl
  simp only [State.productive, State.dist_setNet, hp, hq]

/-- A productive port is a link port, and it leads away from the router (R55). -/
theorem State.productive_port {s : State} {c p : Nat} {f : Flit} (h : p ∈ s.productive c f) : p ≠ 7 ∧ neighbour c p ≠ c := by
  simp only [State.productive, List.mem_filter, Bool.and_eq_true, decide_eq_true_eq] at h
  obtain ⟨hp, -, hd⟩ := h
  refine ⟨?_, fun he => ?_⟩
  · rintro rfl
    simp only [State.prefPorts, dimOrder] at hp
    split at hp <;> simp at hp
  · rw [he] at hd
    exact lt_irrefl _ hd

/-! ## The parts of a cycle -/

/-- Without link errors the arrivals stay as they are; the region's counts may be written again (R49). -/
theorem State.checkLinks_noErrs (s : State) (c : Nat) (l : List (Nat × Flit)) : ∃ y, s.checkLinks c l [] = ({ s with regions := y }, l) := by
  induction l generalizing s with
  | nil => exact ⟨s.regions, rfl⟩
  | cons a l ih =>
    obtain ⟨y, hy⟩ := ih (s.modRegion (regionOf c) fun r =>
      { r with lcorr := satAdd r.lcorr 0 65535, lpois := satAdd r.lpois 0 255, ldrop := satAdd r.ldrop 0 255 })
    refine ⟨y, ?_⟩
    simp only [State.checkLinks, List.headD_nil, List.tail_nil, linkCheck, if_true, hy]
    rfl

theorem State.takeBorder_empty {s : State} {c : Nat} (h : (s.router c).border = []) (k : Nat) : s.takeBorder c k [] = (s, []) := by
  cases k with
  | zero => rfl
  | succ k => simp [State.takeBorder, h, bySeniority]

/-- A router's cycle begins: its arrivals are taken up, and the counts of the regions are `y`. -/
def State.openCycle (s : State) (c : Nat) (y : SMap Region) : State :=
  { s with regions := y }.modRouter c fun r => { r with arr := [] }

/-- What a router's cycle ends with: the injection candidate, and the arrivals of the next cycle (R48, R58). -/
def State.endCycle (s : State) (c : Nat) (u : Used) (keep : List (Nat × Flit)) : State :=
  (s.sendCandidate c u).modRouter c fun r => { r with cycle := r.cycle + 1, arr := keep ++ r.later, later := [] }

/-- A cycle of a router whose borders and base port bring nothing places its arrivals and ends (R58). -/
theorem State.routerCycle_eq {s : State} {c : Nat} (hb : (s.router c).border = []) (hu : (s.router c).up = []) (hk : (s.router c).back = []) :
    ∃ y, ∀ w u ej keep defl,
      (bySeniority (s.router c).arr).foldl ((s.openCycle c y).place c) (s.openCycle c y, [], 0, [], 0) = (w, u, ej, keep, defl) →
        ∃ z, s.routerCycle c [] = State.endCycle { w with regions := z } c u keep := by
  let a := s.modRouter c fun r => { r with arr := [], back := r.back.drop 2, up := r.up.drop (2 - r.back.length) }
  have ha : a = s.modRouter c fun r => { r with arr := [] } := by
    simp only [a, State.modRouter, hu, hk, List.drop_nil]
  obtain ⟨y, hy⟩ := a.checkLinks_noErrs c (s.router c).arr
  have hbase : (s.router c).fromBase ((s.timecode >>> 16).setWidth 16) = [] := by simp [Router.fromBase, hu, hk]
  have htake : ∀ k, a.takeBorder c k [] = (a, []) := fun k =>
    State.takeBorder_empty (by simp only [a, State.router_modRouter_same]; exact hb) k
  refine ⟨y, fun w u ej keep defl hfold => ?_⟩
  have hopen : { a with regions := y } = s.openCycle c y := by rw [ha]; rfl
  apply Exists.intro
  unfold State.routerCycle
  simp only [hbase, List.append_nil]
  rw [htake]
  simp only [List.map_nil, List.append_nil]
  rw [hy]
  simp only [hopen, hfold]
  rfl

/-- A router without arrivals only sends its candidate. -/
theorem State.routerCycle_noArrivals {s : State} {c : Nat} (hb : (s.router c).border = []) (hu : (s.router c).up = [])
    (hk : (s.router c).back = []) (ha : (s.router c).arr = []) :
    ∃ v, (∃ x y, v = { s with routers := x, regions := y }) ∧ (∀ k, v.router k = s.router k) ∧ s.routerCycle c [] = v.endCycle c [] [] := by
  obtain ⟨y, h⟩ := State.routerCycle_eq hb hu hk
  obtain ⟨z, hz⟩ := h _ _ _ _ _ (by rw [ha])
  refine ⟨_, ⟨_, z, rfl⟩, fun k => ?_, hz⟩
  exact State.router_modRouter_of_fixed (s := s) (f := fun r => { r with arr := [] }) (by rw [← ha]) k

end Sys2Proof.Machine
end

section
/-!
PROOFS. A cycle of a router: the injection candidate that goes out, a flit that has arrived for the router's core, and starvation (R48, R55,
R58, R60, R62).
-/

namespace Sys2Proof.Machine

theorem exec_routerCycle {s : State} {c : Nat} (hc : c < 12288) (hr : s.running = true) (hl : s.live c = true) (hd : s.cycleDue c = true) :
    exec (.routerCycle c []) s = .next (s.routerCycle c []) :=
  (if_neg (by simp [hc])).trans (if_neg (by simp [hr, hl, hd]))

/-! ## The injection candidate -/

/-- A router that injects a flit counts anew and feeds its injection queue (R59, R60). -/
def Router.injected (r : Router) (rest : List Flit) : Router :=
  Router.feed 16 { r with inj := rest, waited := 0, starving := false, hold := r.hold - 1 }

/-- The candidate goes out by the first productive port with a free slot (R58). -/
theorem State.sendCandidate_sends {s : State} {c p : Nat} {f : Flit} {rest : List Flit} (hi : (s.router c).inj = f :: rest)
    (hh : (s.router c).hold = 0) (hb : isBaseEp f.dest = true → c ∉ s.targets f.dest) :
    let g : Flit := { f with age := (s.timecode >>> 16).setWidth 16 }
    ((s.productive c g).find? fun q => s.slotFree c q [] g) = some p →
      s.sendCandidate c [] = (s.sendOut c p [] g).modRouter c (·.injected rest) := by
  intro g hp
  have hbase : (isBaseEp f.dest && (s.targets f.dest).contains c) = false := by simpa using hb
  unfold State.sendCandidate
  simp only [hi, hh, decide_true, Bool.true_or, Bool.true_and, hbase, Bool.false_eq_true, if_false, if_true, g] at hp ⊢
  rw [hp]
  rfl

/-- By a link that crosses no border a flit arrives in the neighbour's cycle after this one (R48). -/
theorem State.sendOut_link {s : State} {c p : Nat} (f : Flit) (hp : p ≠ 7) (hx : crosses c p = false) :
    s.sendOut c p [] f = s.modRouter (neighbour c p) fun r =>
      if r.cycle ≤ (s.router c).cycle then { r with later := r.later ++ [(inSlot (opposite p) 0, f)] }
      else { r with arr := r.arr ++ [(inSlot (opposite p) 0, f)] } := by
  unfold State.sendOut
  simp only [if_neg hp, hx, Bool.false_eq_true, if_false]
  rfl

/-- Whether a slot is free goes by the border FIFOs of the neighbours, which a state with the same routers has. -/
theorem State.slotFree_congr {s v : State} (hl : v.flash = s.flash) (hr : ∀ k, v.router k = s.router k) (c p : Nat) (u : Used) (f : Flit) :
    v.slotFree c p u f = s.slotFree c p u f := by
  have hp : v.portState c p = s.portState c p := by unfold State.portState State.live; rw [hl]
  have hq : v.outFifo c p = s.outFifo c p := by simp only [State.outFifo, hr]
  simp only [State.slotFree, hp, hq]

/-- A cycle in which a router's candidate goes out: what the router and the neighbour are after it. -/
theorem State.routerCycle_sends {s : State} {c p : Nat} {f : Flit} {rest : List Flit} (hb : (s.router c).border = [])
    (hu : (s.router c).up = []) (hk : (s.router c).back = []) (ha : (s.router c).arr = []) (hi : (s.router c).inj = f :: rest)
    (hh : (s.router c).hold = 0) (ht : isBaseEp f.dest = true → c ∉ s.targets f.dest) :
    let g : Flit := { f with age := (s.timecode >>> 16).setWidth 16 }
    let n := s.router (neighbour c p)
    let t := s.routerCycle c []
    ((s.productive c g).find? fun q => s.slotFree c q [] g) = some p → crosses c p = false →
      (t.router c).waited = 0 ∧ (t.router c).cycle = (s.router c).cycle + 1 ∧
        (t.router c).inj = (Router.feed 16 { s.router c with inj := rest }).inj ∧
        t.router (neighbour c p) = if n.cycle ≤ (s.router c).cycle then { n with later := n.later ++ [(inSlot (opposite p) 0, g)] }
          else { n with arr := n.arr ++ [(inSlot (opposite p) 0, g)] } := by
  intro g n t hp hx
  obtain ⟨hp7, hne⟩ := State.productive_port (List.mem_of_find?_eq_some hp)
  obtain ⟨v, ⟨x, y, hv⟩, hrouter, hcycle⟩ := State.routerCycle_noArrivals hb hu hk ha
  have htime : v.timecode = s.timecode := by rw [hv]
  have hfind : ((v.productive c g).find? fun q => v.slotFree c q [] g) = some p := by
    rw [show v.productive c g = s.productive c g by rw [hv]; exact s.productive_setNet x y c g]
    simpa only [State.slotFree_congr (show v.flash = s.flash by rw [hv]) hrouter] using hp
  have hsend := State.sendCandidate_sends (s := v) (c := c) (p := p) (f := f) (rest := rest) (by rw [hrouter, hi]) (by rw [hrouter, hh])
    (by rw [hv]; exact ht) (by rw [htime]; exact hfind)
  rw [htime, State.sendOut_link _ hp7 hx] at hsend
  have hself : t.router c = { (s.router c).injected rest with
      cycle := ((s.router c).injected rest).cycle + 1, arr := ((s.router c).injected rest).later, later := [] } := by
    simp only [t, hcycle, State.endCycle, hsend, State.router_modRouter_same, State.router_modRouter_other _ _ hne.symm, hrouter,
      List.nil_append]
  have hfeed := Router.feed_eq 16 { s.router c with inj := rest, waited := 0, starving := false, hold := (s.router c).hold - 1 }
  refine ⟨?_, ?_, ?_, ?_⟩
  · rw [hself, Router.injected, hfeed]
  · rw [hself, Router.injected, hfeed]
  · rw [hself]
    exact Router.feed_inj_congr 16 rfl rfl rfl rfl
  · simp only [t, hcycle, State.endCycle, hsend, State.router_modRouter_other _ _ hne, State.router_modRouter_same, hrouter]
    rfl

/-! ## A flit for the router's core -/

/-- A core's interface takes a flit: its message holds a buffer from then on, and it waits in the ejection FIFO (R62, R70). -/
def Reasm.ejected (r : Reasm) (f : Flit) : Reasm := { r.hold f.uid f.cls with fifo := (r.hold f.uid f.cls).fifo ++ [f] }

/-- A core takes a well-formed flit of a message on its way. -/
theorem State.eject_core {s : State} {f : Flit} (hm : ∃ m ∈ s.transit, m.uid = f.uid) (hw : f.wellFormed = true) (hp : f.poison = false)
    (hd : f.dest < 12288) :
    s.eject f = s.modReasm f.dest (·.ejected f) := by
  have hany : (s.transit.any fun m => m.uid == f.uid) = true := by simpa using hm
  unfold State.eject
  simp only [hany, hw, hp, hd, Bool.not_true, Bool.false_eq_true, if_false, if_true]
  rfl

/-- What a reassembly holds for a message once it has a buffer (R62). -/
theorem Reasm.hold_bufs (r : Reasm) (uid cls : Nat) : (r.hold uid cls).fifo = r.fifo ∧
    ((∃ e ∈ r.bufs, e.uid = uid) → (r.hold uid cls).bufs = r.bufs) ∧
    ((∀ e ∈ r.bufs, e.uid ≠ uid) → (r.hold uid cls).bufs = r.bufs ++ [{ uid, cls, shared := decide (r.room cls = 0), got := [] }]) := by
  unfold Reasm.hold
  split
  · rename_i h
    have h : ∃ e ∈ r.bufs, e.uid = uid := by simpa using h
    refine ⟨rfl, fun _ => rfl, fun hn => ?_⟩
    obtain ⟨e, he, hu⟩ := h
    exact absurd hu (hn e he)
  · rename_i h
    have h : ∀ e ∈ r.bufs, e.uid ≠ uid := by simpa using h
    refine ⟨rfl, fun ⟨e, he, hu⟩ => absurd hu (h e he), fun _ => rfl⟩

@[simp] theorem State.reasmOf_modReasm_same (s : State) (ep : Nat) (f : Reasm → Reasm) : (s.modReasm ep f).reasmOf ep = f (s.reasmOf ep) :=
  SMap.getD_set_same _ _ _ _

/-- A flit for the router's own core that its endpoint takes is ejected (R58). -/
theorem State.place_ejects {s t : State} {c k ej defl : Nat} {u : Used} {keep : List (Nat × Flit)} {f : Flit} (hc : c < 12288)
    (hd : f.dest = c) (hej : ej < 2) (ha : accepts (t.reasmOf c) f = true) :
    s.place c (t, u, ej, keep, defl) (k, f) = (t.eject f, u, ej + 1, keep, defl) := by
  have hh : (s.targets c).contains c = true := by simp [State.targets, hc]
  have hb : isBaseEp c = false := by simp [isBaseEp]; omega
  unfold State.place
  simp only [hd, hh, hb, ha, hej, Bool.not_false, Bool.and_true, Bool.true_and, decide_true, if_true]

/-- A cycle that ends without a candidate changes routers only, and what has come for the next cycle are its arrivals (R48). -/
theorem State.endCycle_noCandidate {s : State} {c : Nat} (u : Used) (keep : List (Nat × Flit)) (hi : (s.router c).inj = []) :
    s.endCycle c u keep = { s with routers := (s.endCycle c u keep).routers } ∧
      ((s.endCycle c u keep).router c).arr = keep ++ (s.router c).later := by
  have hsend : s.sendCandidate c u = s.modRouter c fun r => { r with waited := 0, hold := r.hold - 1 } := by
    unfold State.sendCandidate
    simp only [hi]
  rw [State.endCycle, hsend, State.router_modRouter_same, State.router_modRouter_same]
  exact ⟨rfl, rfl⟩

/-- A cycle in which one flit has arrived, for the router's own core, which takes it. -/
theorem State.routerCycle_ejects {s : State} {c k : Nat} {f : Flit} (hc : c < 12288) (hb : (s.router c).border = [])
    (hu : (s.router c).up = []) (hk : (s.router c).back = []) (hl : (s.router c).later = []) (ha : (s.router c).arr = [(k, f)])
    (hi : (s.router c).inj = []) (hd : f.dest = c) (hp : f.poison = false) (hw : f.wellFormed = true)
    (hm : ∃ m ∈ s.transit, m.uid = f.uid) (hacc : accepts (s.reasmOf c) f = true) :
    let t := s.routerCycle c []
    (t.router c).arr = [] ∧ t.transit = s.transit ∧
      t.reasmOf c = (s.reasmOf c).ejected f := by
  obtain ⟨y, h⟩ := State.routerCycle_eq hb hu hk
  have hfold : (bySeniority (s.router c).arr).foldl ((s.openCycle c y).place c) (s.openCycle c y, [], 0, [], 0) =
      ((s.openCycle c y).eject f, [], 1, [], 0) := by
    rw [ha]
    exact State.place_ejects hc hd (by decide) hacc
  obtain ⟨z, hz⟩ := h _ _ _ _ _ hfold
  rw [State.eject_core (s := s.openCycle c y) hm hw hp (hd ▸ hc), hd] at hz
  have hopen : (s.openCycle c y).router c = { s.router c with arr := [] } :=
    State.router_modRouter_same { s with regions := y } c fun r => { r with arr := [] }
  obtain ⟨he, harr⟩ := State.endCycle_noCandidate (s := { (s.openCycle c y).modReasm c (·.ejected f) with regions := z }) (c := c) [] []
    ((congrArg Router.inj hopen).trans hi)
  rw [← hz] at he harr
  refine ⟨harr.trans ((congrArg Router.later hopen).trans hl), ?_, ?_⟩
  · rw [he]; rfl
  · rw [he]
    exact State.reasmOf_modReasm_same (s.openCycle c y) c (·.ejected f)

/-! ## Starvation -/

/-- Silencing a list of routers but one (R60). -/
theorem State.silence_eq (l : List Nat) (c : Nat) (s : State) :
    let t := l.foldl (fun s n => if n = c then s else s.modRouter n fun r => { r with hold := 16 }) s
    t = { s with routers := t.routers } ∧ ∀ n, t.router n = if n ∈ l ∧ n ≠ c then { s.router n with hold := 16 } else s.router n := by
  induction l generalizing s with
  | nil => exact ⟨rfl, fun n => rfl⟩
  | cons k l ih =>
    simp only [List.foldl_cons]
    by_cases hk : k = c
    · rw [if_pos hk]
      obtain ⟨he, hn⟩ := ih s
      refine ⟨he, fun n => (hn n).trans ?_⟩
      subst hk
      by_cases hc : n = k <;> simp [hc]
    · rw [if_neg hk]
      obtain ⟨he, hn⟩ := ih (s.modRouter k fun r => { r with hold := 16 })
      refine ⟨he, fun n => (hn n).trans ?_⟩
      by_cases hc : n = k
      · subst hc; simp [hk]
      · simp [hc, State.router_modRouter_other _ _ hc]

theorem exec_injectionStarvation {s : State} {c : Nat} (hc : c < 12288) : exec (.injectionStarvation c) s = .next (s.starve c) :=
  if_neg (by simp [hc])

/-- A candidate that has waited 256 cycles silences the other routers of its region (R60). -/
theorem State.starve_silences {s : State} {c : Nat} (hw : 256 ≤ (s.router c).waited) :
    s.starve c = { s with routers := (s.starve c).routers } ∧ (s.starve c).router c = { s.router c with starving := true, waited := 0 } ∧
      ∀ n ∈ regionCores (regionOf c), n ≠ c → (s.starve c).router n = { s.router n with hold := 16 } := by
  obtain ⟨he, hn⟩ := State.silence_eq (regionCores (regionOf c)) c s
  rw [State.starve, if_neg (Nat.not_lt.mpr hw)]
  refine ⟨?_, ?_, fun n hm hne => ?_⟩
  · rw [he]; rfl
  · rw [State.router_modRouter_same, hn, if_neg fun h => h.2 rfl]
  · rw [State.router_modRouter_other _ _ hne, hn, if_pos ⟨hm, hne⟩]

end Sys2Proof.Machine
end

section
/-!
PROOFS. Messages that are delivered, poisoned requests and the host's completions (R50, R51, R62, R316); and the statement on the network.
-/

namespace Sys2Proof.Machine

/-! ## Delivery -/

/-- Taking up the flits of a message changes its endpoint's reassembly at most (R62). -/
theorem State.collect_eq (s : State) (m : Msg) : s.collect m = { s with reasm := (s.collect m).reasm } := by
  have hfold : ∀ (l : List Flit) (u : State), ∃ x,
      l.foldl (fun s f => if f.wellFormed then s.modReasm m.dest (·.receive f) else s) u = { u with reasm := x } := by
    intro l
    induction l with
    | nil => exact fun u => ⟨u.reasm, rfl⟩
    | cons f l ih =>
      intro u
      simp only [List.foldl_cons]
      split
      · obtain ⟨x, hx⟩ := ih (u.modReasm m.dest (·.receive f))
        exact ⟨x, hx.trans rfl⟩
      · exact ih u
  unfold State.collect
  dsimp only
  split
  · obtain ⟨x, hx⟩ := hfold m.flits ((s.modReasm m.dest Reasm.drain).modReasm m.dest (·.hold m.uid m.cls))
    rw [hx]
    rfl
  · rfl

/-- A tag that becomes free may put a message of its sender's on its way (R53). -/
theorem State.releaseTag_netOnly (s : State) (ep tag : Nat) : NetOnly s (s.releaseTag ep tag) := by
  unfold State.releaseTag
  dsimp only
  split
  · rfl
  · rw [State.inject_routers]
    rfl

section Deliver

variable {s : State} {m : Msg} (hf : (s.transit.find? fun x => x.uid == m.uid) = some m)
include hf

/-- A message of no flits or of too many is discarded (R51). -/
theorem State.deliver_discards (hn : m.nf = 0 ∨ 9 < m.nf) : s.deliver m.uid = s.discard m.dest m.uid := by
  have h : (m.nf = 0 || 9 < m.nf || 13093 ≤ m.dest) = true := by
    rcases hn with hn | hn <;> simp [hn]
  unfold State.deliver
  simp only [hf]
  exact if_pos h

/-- The message that completed first at its endpoint arrives there, and every trace of it leaves the endpoint's interface (R62). -/
theorem State.deliver_arrives (h1 : 1 ≤ m.nf) (h9 : m.nf ≤ 9) (hd : m.dest < 13093)
    (hh : ((s.collect m).reasmOf m.dest).done.head? = some m.uid) :
    ∃ x, s.deliver m.uid = State.arrive { s with transit := s.transit.filter (fun x => x.uid != m.uid), reasm := x } m := by
  have h : (m.nf = 0 || 9 < m.nf || 13093 ≤ m.dest) = false := by
    simp only [Bool.or_eq_false_iff, decide_eq_false_iff_not]
    omega
  refine Exists.intro ?_ ?_
  case refine_2 =>
    unfold State.deliver
    simp only [hf]
    refine (if_neg (ne_true_of_eq_false h)).trans ((if_neg (by simp [hh])).trans ?_)
    rw [State.collect_eq]
    rfl

end Deliver

/-! ## Arrival -/

/-- What an endpoint is before it takes a message up: the tag of an answered request is free again (R53). -/
def State.tagged (s : State) (m : Msg) : State := if m.cls = 1 || m.cls = 2 then s.releaseTag m.dest m.tag else s

theorem State.tagged_netOnly (s : State) (m : Msg) : NetOnly s (s.tagged m) := by
  unfold State.tagged
  split
  · exact s.releaseTag_netOnly _ _
  · rfl

theorem State.tagged_request (s : State) {m : Msg} (h : m.cls = 0 ∨ m.cls = 3) : s.tagged m = s :=
  if_neg (by rcases h with h | h <;> simp [h])

section Arrive

variable {s : State} {m : Msg} (hb : m.badHeader = false)
include hb

/-- A poisoned request is answered and not performed (R50). -/
theorem State.arrive_poisoned (hp : m.poison = true) (hc : m.cls = 0 ∨ m.cls = 3) :
    s.arrive m = s.answer m.dest m.src 2 1 m.tag (s.poisonAnswer m.body) := by
  have ht := s.tagged_request hc
  have hc' : (m.poison && (m.cls = 0 || m.cls = 3)) = true := by rcases hc with hc | hc <;> simp [hp, hc]
  unfold State.arrive
  rw [State.tagged] at ht
  simp only [ht, hb, hc', Bool.false_eq_true, if_false, if_true]

variable (hp : m.poison = false)
include hp

/-- A message that is more than its own receipt stands in the inbox of its endpoint. -/
theorem State.arrive_inbox (hn : ∀ b, m.body ≠ .nack b) (hs : m.body.silent = false) :
    s.arrive m = { s.tagged m with inbox := (s.tagged m).inbox ++ [m] } := by
  generalize hu : s.tagged m = u
  rw [State.tagged] at hu
  unfold State.arrive
  simp only [hu, hb, hp, Bool.false_and, Bool.false_eq_true, if_false]
  split
  · rename_i h
    rw [hs] at h
    cases h
  · rfl

/-- A message that its endpoint refused for poison, and that no access waits for, is kept to be sent again (R50, log 50). -/
theorem State.arrive_nack {b : Body} (hm : m.body = .nack b) (hn : (s.tagged m).nackAnswer b = none) :
    s.arrive m = { s.tagged m with held := (s.tagged m).held ++ [{ cancel := false, msg := { m with
      src := m.dest, via := m.dest, dest := m.src, cls := b.cls, nf := b.flits, ticket := 0, cancel := false
      poison := false, body := b, sb := m.kept, kept := [] } }] } := by
  generalize hu : s.tagged m = u at hn
  rw [State.tagged] at hu
  unfold State.arrive
  simp only [hu, hb, hp, hm, hn, Bool.false_and, Bool.false_eq_true, if_false]

end Arrive

/-! ## Messages at their endpoints -/

/-- A delivery after which the message is not in the inbox ends there. -/
theorem exec_messageDelivery_done {s t : State} {uid : Nat} (hd : s.deliver uid = t) (hm : t.msg? uid = none) :
    exec (.messageDelivery uid) s = .next t := by
  change execMessageDelivery uid s = _
  simp only [execMessageDelivery, hd, hm]

/-- A message that stands last in an inbox which held none of its uid is found there. -/
theorem State.msg?_last {s t : State} {m : Msg} (hi : t.inbox = s.inbox ++ [m]) (hn : s.msg? m.uid = none) : t.msg? m.uid = some m := by
  rw [State.msg?, hi, List.find?_append, show s.inbox.find? (fun x => x.uid == m.uid) = none from hn]
  simp

theorem State.msg?_of_inbox {s t : State} (hi : t.inbox = s.inbox) (uid : Nat) : t.msg? uid = s.msg? uid := by
  rw [State.msg?, hi]; rfl

/-- The kinds of messages for which a core or a slice has a step of its own. -/
def Body.waits (b : Body) : Prop :=
  (∃ r, b = .mem r) ∨ (∃ w p a st pr, b = .win w p a st pr) ∨ (∃ w c k v pr, b = .qpush w c k v pr) ∨
    (∃ w r es, b = .logUpd w r es) ∨ (∃ c i k q x d r, b = .ans (.strand c i) k q x d r) ∨ ∃ w r d, b = .winAns w r d

/-- Such a message is neither a refusal nor a bare receipt, and waits in the inbox for its step. -/
theorem State.serve_waits {m : Msg} (h : m.body.waits) (s : State) :
    (∀ b, m.body ≠ .nack b) ∧ m.body.silent = false ∧ s.serve m = s := by
  rcases h with ⟨_, h⟩ | ⟨_, _, _, _, _, h⟩ | ⟨_, _, _, _, _, h⟩ | ⟨_, _, _, h⟩ | ⟨_, _, _, _, _, _, _, h⟩ | ⟨_, _, _, h⟩ <;>
    simp [State.serve, State.hbmServe, Body.silent, h]

/-- A message more is on its way than in any state with the same messages on their way. -/
theorem Mails.of_transit {s u t : State} {src dest cls ticket : Nat} {body : Body} (h : Mails u t src dest cls ticket body)
    (hu : u.transit = s.transit) : Mails s t src dest cls ticket body := by
  obtain ⟨m, ht, hm⟩ := h
  exact ⟨m, by rw [ht, hu], hm⟩

section Delivered

variable {s t : State} {m : Msg} (hd : s.deliver m.uid = t) (hi : t.inbox = s.inbox ++ [m]) (hn : s.msg? m.uid = none)
include hd hi hn

/-- A delivered message waits at an endpoint whose core is not dark. -/
theorem exec_messageDelivery_waits (hw : m.body.waits) (hh : m.dest ≠ epHost) (hk : (t.core m.dest).dark = false) :
    exec (.messageDelivery m.uid) s = .next t := by
  obtain ⟨-, -, hs⟩ := State.serve_waits hw t
  change execMessageDelivery m.uid s = _
  simp only [execMessageDelivery, hd, State.msg?_last hi hn, hk, hh, Bool.and_false, Bool.false_and, Bool.false_eq_true, if_false, hs]

/-- The host serves a request at once (R316). -/
theorem exec_messageDelivery_host {r : MemReq} (hh : m.dest = epHost) (hb : m.body = .mem r) :
    exec (.messageDelivery m.uid) s = .next (t.hostServe m r) := by
  have hc : decide (epHost < 12288) = false := rfl
  change execMessageDelivery m.uid s = _
  simp only [execMessageDelivery, hd, State.msg?_last hi hn, hh, hb, hc, Bool.false_and, Bool.false_eq_true, if_false, if_true]

end Delivered

/-! ## The host -/

/-- A strand's store to the host's memory is performed, counted until it completes, and answered (R316). -/
theorem State.hostServe_store {s : State} {m : Msg} {r : MemReq} {c i : Nat} (ho : r.op = .write) (hw : r.who = .strand c i) :
    s.hostServe m r = State.answer { s.consume m.uid with
      hostMem := s.hostMem.writeLine (128 * r.line) r.data r.mask
      hostOut := SMap.set s.hostOut (4 * c + i) (SMap.getD s.hostOut (4 * c + i) 0 + 1) }
      epHost m.src 2 1 m.tag (.ans r.who 0 0 false none r) := by
  unfold State.hostServe
  simp only [ho, hw]
  rfl

theorem SMap.get?_erase_other {α : Type} (m : SMap α) {k j : Nat} (h : j ≠ k) : SMap.get? (SMap.erase m k) j = SMap.get? m j := by
  induction m with
  | nil => rfl
  | cons e m ih =>
    obtain ⟨i, x⟩ := e
    by_cases hi : i = k
    · simpa [SMap.erase, SMap.get?, hi, Ne.symm h] using ih
    · simpa [SMap.erase, SMap.get?, hi] using congrArg (fun y => if i = j then some x else y) ih

/-- A completion takes one of the strand's stores from those that are out (R316). -/
theorem exec_hostCompletion {s : State} {c i : Nat} (hc : c < 12288) (hi : i < 4) : ∃ t, exec (.hostCompletion c i) s = .next t ∧
    t = { s with hostOut := t.hostOut } ∧ SMap.getD t.hostOut (4 * c + i) 0 = SMap.getD s.hostOut (4 * c + i) 0 - 1 ∧
    ∀ k, k ≠ 4 * c + i → SMap.getD t.hostOut k 0 = SMap.getD s.hostOut k 0 := by
  refine ⟨_, if_neg (by simp [hc, hi]), rfl, ?_, fun k hk => ?_⟩
  all_goals dsimp only; split
  · rename_i h
    simp only [SMap.getD, SMap.get?_erase_same, Option.getD_none]
    exact (Nat.sub_eq_zero_of_le h).symm
  · exact SMap.getD_set_same _ _ _ _
  · simp only [SMap.getD, SMap.get?_erase_other _ hk]
  · exact SMap.getD_set_other _ _ _ hk

/-! ## The statement -/

section Endpoint

variable {s u : State} {m : Msg} {x : SMap Reasm} (hn : s.msg? m.uid = none)
  (hu : u = { s with transit := s.transit.filter fun x => x.uid != m.uid, reasm := x }) (hx : s.deliver m.uid = u.arrive m)
  (hb : m.badHeader = false)
include hn hu hx hb

/-- A delivered message of the kinds that wait stands in its endpoint's inbox, and a request is no longer on its way. -/
theorem exec_messageDelivery_inbox (hp : m.poison = false) (hh : m.dest ≠ epHost) (hk : (s.core m.dest).dark = false) (hw : m.body.waits) :
    ∃ t, exec (.messageDelivery m.uid) s = .next t ∧ t.inbox = s.inbox ++ [m] ∧
      ((m.cls = 0 ∨ m.cls = 3) → t.transit = s.transit.filter fun x => x.uid != m.uid) := by
  obtain ⟨hnack, hsil, -⟩ := State.serve_waits hw s
  have htag := u.tagged_netOnly m
  have hin : (u.tagged m).inbox = s.inbox := by rw [NetOnly] at htag; rw [htag, hu]
  rw [State.arrive_inbox hb hp hnack hsil, hin] at hx
  refine ⟨_, exec_messageDelivery_waits hx rfl hn hw hh ?_, rfl, fun hc => by rw [u.tagged_request hc, hu]⟩
  exact (congrArg Core.dark ((htag.core m.dest).trans (by rw [hu]; rfl))).trans hk

/-- A poisoned request goes no further than its answer (R50). -/
theorem exec_messageDelivery_poisoned (hp : m.poison = true) (hc : m.cls = 0 ∨ m.cls = 3) :
    ∃ t, exec (.messageDelivery m.uid) s = .next t ∧ t.inbox = s.inbox ∧
      Mails { s with transit := s.transit.filter fun x => x.uid != m.uid } t m.dest m.src 2 0 (s.poisonAnswer m.body) := by
  have hans : u.poisonAnswer m.body = s.poisonAnswer m.body := by rw [hu]; rfl
  rw [State.arrive_poisoned hb hp hc, hans] at hx
  obtain ⟨hnet, hmail⟩ := u.answer_effect m.dest m.src 2 1 m.tag (s.poisonAnswer m.body)
  have hin : (u.answer m.dest m.src 2 1 m.tag (s.poisonAnswer m.body)).inbox = s.inbox := by rw [NetOnly] at hnet; rw [hnet, hu]
  exact ⟨_, exec_messageDelivery_done hx ((State.msg?_of_inbox hin _).trans hn), hin, hmail.of_transit (by rw [hu])⟩

/-- A refusal for poison that no access waits for leaves the refused message to be sent again (R50, log 50). -/
theorem exec_messageDelivery_kept {b : Body} (hp : m.poison = false) (hm : m.body = .nack b) (hna : s.nackAnswer b = none) :
    ∃ t, exec (.messageDelivery m.uid) s = .next t ∧ t.inbox = s.inbox ∧ ∃ h, t.held = s.held ++ [h] ∧ h.cancel = false ∧
      h.msg.src = m.dest ∧ h.msg.dest = m.src ∧ h.msg.ticket = 0 ∧ h.msg.cls = b.cls ∧ h.msg.body = b := by
  have htag := u.tagged_netOnly m
  rw [NetOnly] at htag
  have hin : (u.tagged m).inbox = s.inbox := by rw [htag, hu]
  have hheld : (u.tagged m).held = s.held := by rw [htag, hu]
  rw [State.arrive_nack hb hp hm (by rw [htag, hu]; exact hna), hheld] at hx
  exact ⟨_, exec_messageDelivery_done hx ((State.msg?_of_inbox hin _).trans hn), hin, _, rfl, rfl, rfl, rfl, rfl, rfl, rfl⟩

/-- A strand's store that is delivered to the host is performed there (R316). -/
theorem exec_messageDelivery_hostStore {r : MemReq} {c i : Nat} (hp : m.poison = false) (hh : m.dest = epHost) (hc : m.cls = 0)
    (hm : m.body = .mem r) (ho : r.op = .write) (hw : r.who = .strand c i) :
    ∃ t, exec (.messageDelivery m.uid) s = .next t ∧ t.hostMem = s.hostMem.writeLine (128 * r.line) r.data r.mask ∧
      SMap.getD t.hostOut (4 * c + i) 0 = SMap.getD s.hostOut (4 * c + i) 0 + 1 ∧
      Mails { s with transit := s.transit.filter fun x => x.uid != m.uid } t epHost m.src 2 0 (.ans r.who 0 0 false none r) := by
  obtain ⟨hnack, hsil, -⟩ := State.serve_waits (.inl ⟨r, hm⟩) s
  have hin : u.inbox = s.inbox := by rw [hu]
  rw [State.arrive_inbox hb hp hnack hsil, u.tagged_request (.inl hc), hin] at hx
  have he := exec_messageDelivery_host hx rfl hn hh hm
  rw [State.hostServe_store ho hw] at he
  refine ⟨_, he, ?_⟩
  generalize hv : State.answer _ _ _ _ _ _ _ = v
  obtain ⟨hnet, hmail⟩ := hv ▸ State.answer_effect _ _ _ _ _ _ _
  rw [NetOnly] at hnet
  refine ⟨by rw [hnet, hu], ?_, hmail.of_transit (by rw [hu]; rfl)⟩
  rw [hnet, hu]
  exact SMap.getD_set_same _ _ _ _

end Endpoint

/-- Settles O50: a cycle by `State.routerCycle_eq`, which leaves the candidate or one ejected flit; starvation by the list of the region's
routers; a delivery by `State.deliver_arrives` and what its endpoint does with the message. -/
theorem networkComplete : Obligations.NetworkComplete := by
  unfold Obligations.NetworkComplete
  refine ⟨?cycle, ?starvation, ?delivery, fun s c i hc hi => exec_hostCompletion hc hi⟩
  case cycle =>
    intro s c hc hr hl hd hb hu hk
    have he := exec_routerCycle hc hr hl hd
    refine ⟨?sends, ?ejects⟩
    case sends =>
      intro f rest p g n ha hi hh ht hp hx
      obtain ⟨hw, hcy, hinj, hn⟩ := State.routerCycle_sends hb hu hk ha hi hh ht hp hx
      refine ⟨_, he, hw, hcy, hinj, fun hcycle => ?_, fun hcycle => ?_⟩
      · rw [hn, if_pos (Nat.le_of_eq hcycle)]
      · rw [hn, if_neg (by simp only [n] at hcycle; omega)]
    case ejects =>
      intro f k hl ha hi hd hp hw hm hacc
      obtain ⟨harr, htr, hre⟩ := State.routerCycle_ejects hc hb hu hk hl ha hi hd hp hw hm hacc
      obtain ⟨hfifo, hheld, hnew⟩ := (s.reasmOf c).hold_bufs f.uid f.cls
      refine ⟨_, he, harr, htr, ?_⟩
      rw [hre]
      exact ⟨congrArg (· ++ [f]) hfifo, hheld, hnew⟩
  case starvation =>
    intro s c hc
    have he := exec_injectionStarvation (s := s) hc
    exact ⟨fun hw => by rw [he, State.starve, if_pos hw], fun hw => ⟨_, he, State.starve_silences hw⟩⟩
  case delivery =>
    intro s m hf hn left
    refine ⟨fun hnf => ⟨_, exec_messageDelivery_done (State.deliver_discards hf hnf) hn, rfl, rfl⟩, fun h1 h9 hd hh hb => ?_⟩
    obtain ⟨x, hx⟩ := State.deliver_arrives hf h1 h9 hd hh
    exact ⟨exec_messageDelivery_inbox hn rfl hx hb, exec_messageDelivery_poisoned hn rfl hx hb,
      fun b hp _ => exec_messageDelivery_kept hn rfl hx hb hp, fun r c i hp => exec_messageDelivery_hostStore hn rfl hx hb hp⟩

end Sys2Proof.Machine
end

section
/-!
SUPPORT. Clusters and regions: reading one after a change of it or of another, and what a request for a step changes (R387 to R389).
-/

namespace Sys2Proof.Machine

@[simp] theorem State.cluster_modCluster_same (s : State) (cl : Nat) (f : Cluster → Cluster) :
    (s.modCluster cl f).cluster cl = f (s.cluster cl) := SMap.getD_set_same _ _ _ _

theorem State.cluster_modCluster_other (s : State) {cl j : Nat} (f : Cluster → Cluster) (h : j ≠ cl) :
    (s.modCluster cl f).cluster j = s.cluster j := SMap.getD_set_other _ _ _ h

@[simp] theorem State.region_modRegion_same (s : State) (r : Nat) (f : Region → Region) :
    (s.modRegion r f).region r = f (s.region r) := SMap.getD_set_same _ _ _ _

theorem State.region_modRegion_other (s : State) {r j : Nat} (f : Region → Region) (h : j ≠ r) :
    (s.modRegion r f).region j = s.region j := SMap.getD_set_other _ _ _ h

@[simp] theorem State.cluster_aim (s : State) (cl r : Nat) : (s.aim r).cluster cl = s.cluster cl := rfl

/-- Two regions that differ in the target of the rail at most. -/
def Region.Same (g h : Region) : Prop := h = { g with vtgt := h.vtgt }

theorem Region.Same.trans {g h k : Region} (a : g.Same h) (b : h.Same k) : g.Same k := by
  rw [Region.Same] at *
  rw [b, a]

theorem Region.Same.mode_eq {g h : Region} (a : g.Same h) : h.mode = g.mode := by
  rw [Region.Same] at a
  rw [a]

theorem State.region_aim (s : State) (r j : Nat) : (s.region j).Same ((s.aim r).region j) := by
  by_cases h : j = r
  · subst h
    rw [State.aim, State.region_modRegion_same]
    rfl
  · rw [State.aim, State.region_modRegion_other _ _ h]
    rfl

/-- `t` differs from `s` in what the cluster `cl` asks for and in the targets of the rails at most. -/
structure Asks (cl : Nat) (s t : State) : Prop where
  only : t = { s with clusters := t.clusters, regions := t.regions }
  other : ∀ j, j ≠ cl → t.cluster j = s.cluster j
  self : t.cluster cl = { s.cluster cl with
    floordn := (t.cluster cl).floordn, want := (t.cluster cl).want, queued := (t.cluster cl).queued }
  rails : ∀ r, (s.region r).Same (t.region r)

theorem Asks.refl (cl : Nat) (s : State) : Asks cl s s := ⟨rfl, fun _ _ => rfl, rfl, fun _ => rfl⟩

/-- A request for a step changes what its cluster asks for (R387, R388). -/
theorem State.requestStep_asks (s : State) (cl w : Nat) : Asks cl s (s.requestStep cl w) := by
  have hmod : ∀ f : Cluster → Cluster,
      (f (s.cluster cl) = { s.cluster cl with
        floordn := (f (s.cluster cl)).floordn, want := (f (s.cluster cl)).want, queued := (f (s.cluster cl)).queued }) →
      Asks cl s (s.modCluster cl f) := fun f hf =>
    ⟨rfl, fun j hj => s.cluster_modCluster_other f hj, by rw [State.cluster_modCluster_same]; exact hf, fun _ => rfl⟩
  unfold State.requestStep
  dsimp only
  split
  · exact hmod _ rfl
  · split
    · exact hmod _ rfl
    · split
      · exact Asks.refl cl s
      · obtain ⟨-, ho, hs, -⟩ := hmod (fun k => { k with want := some w }) rfl
        exact ⟨rfl, ho, hs, State.region_aim (s.modCluster cl fun k => { k with want := some w }) (regionOfCluster cl)⟩

/-- A step that the cluster's floor allows is begun where no change is in progress (R388). -/
theorem State.requestStep_begins {s : State} {cl w : Nat} (hv : 550 ≤ (s.cluster cl).volts w) (hn : (s.cluster cl).want = none)
    (hw : w ≠ (s.cluster cl).step) : ((s.requestStep cl w).cluster cl).want = some w := by
  unfold State.requestStep
  simp only [Int.not_lt.mpr hv, hn, hw, Option.isSome_none, Bool.false_eq_true, if_false, State.cluster_aim, State.cluster_modCluster_same]

theorem State.recap_asks (s : State) (cl : Nat) : Asks cl s (s.recap cl) := by
  unfold State.recap
  dsimp only
  split
  · exact s.requestStep_asks cl _
  · exact Asks.refl cl s

/-- The cap of a cluster goes by its lease, its CLCFG and its region's MODE (R389, R391). -/
theorem State.stepCap_congr {s t : State} {cl : Nat} (hl : (t.cluster cl).lease = (s.cluster cl).lease)
    (hc : (t.cluster cl).clcfg = (s.cluster cl).clcfg)
    (hm : (t.region (regionOfCluster cl)).mode = (s.region (regionOfCluster cl)).mode) : t.stepCap cl = s.stepCap cl := by
  simp only [State.stepCap, hl, hc, hm]

end Sys2Proof.Machine
end

section
/-!
PROOFS. Governors, rails and the switching of regions (R68, R69, R387 to R389, R393, R394).
-/

namespace Sys2Proof.Machine

/-! ## The cluster's governor -/

section GovStep

variable {k : Cluster} {hi sr : Nat} (hg : k.clcfg.getLsbD 0 = true) (hb : k.bias = 0) (hs : k.step ≤ hi)
include hg hb hs

/-- At or above the upper threshold a governor asks for one step less, within its bounds (R389). -/
theorem govStep_down (hd : bits k.clcfg 24 8 ≤ sr) (hl : bits k.clcfg 7 3 < k.step) : govStep k hi sr = k.step - 1 := by
  unfold govStep
  simp only [hg, hb, hd, hl, decide_true, Bool.and_true, if_true]
  omega

/-- Between the thresholds it asks for the step that it has. -/
theorem govStep_stay (hd : sr < bits k.clcfg 24 8) (hu : bits k.clcfg 16 8 < sr) (hl : bits k.clcfg 7 3 ≤ k.step) :
    govStep k hi sr = k.step := by
  unfold govStep
  simp only [hg, hb, Nat.not_le.mpr hd, Nat.not_le.mpr hu, decide_false, Bool.false_and, Bool.false_eq_true, if_false, if_true]
  omega

omit hs in
/-- At or below the lower threshold it asks for one step more. -/
theorem govStep_up (hd : sr < bits k.clcfg 24 8) (hu : sr ≤ bits k.clcfg 16 8) (hl : bits k.clcfg 7 3 ≤ k.step) (hs : k.step < hi) :
    govStep k hi sr = k.step + 1 := by
  unfold govStep
  simp only [hg, hb, hu, hs, Nat.not_le.mpr hd, decide_false, decide_true, Bool.false_and, Bool.and_true, Bool.false_eq_true, if_false,
    if_true]
  omega

end GovStep

/-- What a governor's window does once SR is recorded (R389). -/
def State.govern (s : State) (cl want : Nat) : State :=
  if (s.cluster cl).want.isSome || want = (s.cluster cl).step || (s.cluster cl).leaseTick = some s.timecode.toNat then s
  else (s.requestStep cl want).modCluster cl fun k => if k.want.isSome then { k with winTick := some s.timecode.toNat } else k

theorem exec_clusterGovernorWindow {s : State} {cl cyc stl : Nat} (hc : cl < 1536) (hd : (s.cluster cl).dark = false)
    (ho : (s.region (regionOfCluster cl)).on = true) :
    let sr := if cyc = 0 then 0 else min 255 (256 * stl / cyc)
    exec (.clusterGovernorWindow cl cyc stl) s =
      .next ((s.modCluster cl fun k => { k with sr }).govern cl (govStep (s.cluster cl) (s.stepCap cl) sr)) := by
  intro sr
  refine (if_neg (by simp [hc])).trans ((if_neg (by simp [hd, ho])).trans ?_)
  unfold State.govern
  rw [State.cluster_modCluster_same]
  exact (apply_ite Host.Outcome.next _ _ _).symm

/-- A governor's window changes what its cluster asks for, and the tick in which it has asked. -/
theorem State.govern_effect (s : State) (cl want : Nat) : let t := s.govern cl want
    t = { s with clusters := t.clusters, regions := t.regions } ∧ (∀ j, j ≠ cl → t.cluster j = s.cluster j) ∧
      (t.cluster cl).sr = (s.cluster cl).sr ∧ (t.cluster cl).step = (s.cluster cl).step := by
  unfold State.govern
  dsimp only
  split
  · exact ⟨rfl, fun _ _ => rfl, rfl, rfl⟩
  · obtain ⟨ho, hn, hs, -⟩ := s.requestStep_asks cl want
    refine ⟨?_, fun j hj => by rw [State.cluster_modCluster_other _ _ hj, hn j hj], ?_, ?_⟩
    · rw [ho]; rfl
    all_goals
      rw [State.cluster_modCluster_same]
      split <;> rw [hs]

/-- A governor that asks for another step has it begun, where nothing is in progress and the floor allows it. -/
theorem State.govern_begins {s : State} {cl want : Nat} (hn : (s.cluster cl).want = none)
    (ht : (s.cluster cl).leaseTick ≠ some s.timecode.toNat) (hw : want ≠ (s.cluster cl).step) (hv : 550 ≤ (s.cluster cl).volts want) :
    ((s.govern cl want).cluster cl).want = some want := by
  have hb := State.requestStep_begins hv hn hw
  unfold State.govern
  rw [if_neg (by simp [hn, ht, hw]), State.cluster_modCluster_same, if_pos (by rw [hb]; rfl)]
  exact hb

/-- A governor that asks for the step it has changes nothing. -/
theorem State.govern_same (s : State) (cl : Nat) : s.govern cl (s.cluster cl).step = s := if_pos (by simp)

/-- A cluster that is dark, or whose region is off, has no windows (R383, R393). -/
theorem exec_clusterGovernorWindow_off {s : State} {cl : Nat} (hc : cl < 1536)
    (h : (s.cluster cl).dark = true ∨ (s.region (regionOfCluster cl)).on = false) (cyc stl : Nat) :
    exec (.clusterGovernorWindow cl cyc stl) s = .next s :=
  (if_neg (by simp [hc])).trans (if_pos (by rcases h with h | h <;> simp [h]))

/-! ## The cluster's steps -/

section StepChange

variable {s : State} {cl w : Nat} (hc : cl < 1536) (hw : (s.cluster cl).want = some w)
include hc hw

/-- A step up waits for the supply (R388). -/
theorem exec_clusterStepChange_waits (hu : (s.cluster cl).step < w) (hv : (s.clusterSupply cl : Int) < (s.cluster cl).volts w) :
    exec (.clusterStepChange cl) s = .next s := by
  change execClusterStepChange cl s = _
  simp only [execClusterStepChange, hc, hw, hu, hv, decide_true, Bool.not_true, Bool.false_eq_true, if_false, Bool.and_self, if_true]

/-- A cluster that runs at another step, with nothing in progress. -/
def Cluster.atStep (k : Cluster) (w : Nat) : Cluster := { k with step := w, want := none, queued := none }

/-- A cluster has changed its step; the rail's target and the fallback regulator follow. -/
def State.stepped (s : State) (cl w : Nat) : State :=
  ((s.modCluster cl (·.atStep w)).aim (regionOfCluster cl)).fallback cl

theorem exec_clusterStepChange (hq : (s.cluster cl).queued = none)
    (hv : w ≤ (s.cluster cl).step ∨ (s.cluster cl).volts w ≤ (s.clusterSupply cl : Int)) :
    exec (.clusterStepChange cl) s = .next (s.stepped cl w) := by
  have h : (decide ((s.cluster cl).step < w) && decide ((s.clusterSupply cl : Int) < (s.cluster cl).volts w)) = false := by
    rcases hv with h | h
    · simp [Nat.not_lt.mpr h]
    · simp [Int.not_lt.mpr h]
  change execClusterStepChange cl s = _
  simp only [execClusterStepChange, hc, hw, hq, h, decide_true, Bool.not_true, Bool.false_eq_true, if_false]
  rfl

end StepChange

/-- A cluster in MODE 2 at its cap or below goes over to its fallback regulator; nothing else changes (R392). -/
theorem State.fallback_effect (s : State) (cl : Nat) : let t := s.fallback cl
    t = { s with clusters := t.clusters } ∧ (∀ j, j ≠ cl → t.cluster j = s.cluster j) ∧
      t.cluster cl = { s.cluster cl with fb := (s.cluster cl).fb ||
        ((s.region (regionOfCluster cl)).mode == 2 && !(s.cluster cl).dark && decide ((s.cluster cl).step ≤ s.stepCap cl)) } := by
  unfold State.fallback
  dsimp only
  split
  · rename_i h
    simp only [Bool.and_eq_true, decide_eq_true_eq, Bool.not_eq_true'] at h
    obtain ⟨⟨⟨hm, hd⟩, hf⟩, hs⟩ := h
    refine ⟨rfl, fun j hj => s.cluster_modCluster_other _ hj, ?_⟩
    rw [State.cluster_modCluster_same]
    simp [hm, hd, hs]
  · rename_i h
    refine ⟨rfl, fun _ _ => rfl, ?_⟩
    have : ((s.cluster cl).fb || ((s.region (regionOfCluster cl)).mode == 2 && !(s.cluster cl).dark &&
        decide ((s.cluster cl).step ≤ s.stepCap cl))) = (s.cluster cl).fb := by
      cases hf : (s.cluster cl).fb
      · simpa [hf] using h
      · rfl
    rw [this]

/-- A cluster that has changed its step is as before but for the step and, in MODE 2, its supply (R388, R391, R392). -/
theorem State.stepped_effect (s : State) (cl w : Nat) : let t := s.stepped cl w
    t = { s with clusters := t.clusters, regions := t.regions } ∧
      t.cluster cl = { s.cluster cl with
        step := w, want := none, queued := none
        fb := (s.cluster cl).fb ||
          ((s.region (regionOfCluster cl)).mode == 2 && !(s.cluster cl).dark && decide (w ≤ s.stepCap cl)) } ∧
      ∀ j, j ≠ cl → t.cluster j = s.cluster j := by
  intro t
  obtain ⟨u, hu⟩ : ∃ u, u = (s.modCluster cl (·.atStep w)).aim (regionOfCluster cl) := ⟨_, rfl⟩
  have hmode : (u.region (regionOfCluster cl)).mode = (s.region (regionOfCluster cl)).mode := by
    rw [hu]
    exact (State.region_aim (s.modCluster cl (·.atStep w)) (regionOfCluster cl) (regionOfCluster cl)).mode_eq
  have hself : u.cluster cl = (s.cluster cl).atStep w := by
    rw [hu]
    exact s.cluster_modCluster_same cl (·.atStep w)
  have hcap : u.stepCap cl = s.stepCap cl := State.stepCap_congr (by rw [hself]; rfl) (by rw [hself]; rfl) hmode
  obtain ⟨ho, hn, hs⟩ := u.fallback_effect cl
  rw [hself, hmode, hcap] at hs
  have ht : t = u.fallback cl := by rw [hu]; rfl
  rw [ht]
  refine ⟨?_, hs, fun j hj => (hn j hj).trans ?_⟩
  · rw [ho, hu]; rfl
  · rw [hu]
    exact s.cluster_modCluster_other (·.atStep w) hj

/-! ## The network's governor -/

/-- A window of the network's governor ends: the rail has slewed, and the measures are cleared (R68, R386). -/
def Region.window (g : Region) : Region := { g.slew with routed := 0, defl := 0, qmax := 0, fmax := 0 }

theorem exec_netGovernorWindow {s : State} {r : Nat} (hr : r < 96) :
    exec (.netGovernorWindow r) s = .next (
      if netStep (s.region r) = (s.region r).nstep || (s.region r).wantStep.isSome then s.modRegion r Region.window
      else ((s.modRegion r Region.window).modRegion r fun g => { g with wantStep := some (netStep (s.region r)) }).aim r) :=
  (if_neg (by simp [hr])).trans (apply_ite Host.Outcome.next _ _ _).symm

/-- A region after its window: its counts are cleared, its step is as it was, and it asks for a step where it asked for none. -/
theorem State.netWindow_effect {s : State} {r : Nat} (hr : r < 96) : ∃ t, exec (.netGovernorWindow r) s = .next t ∧
    t = { s with regions := t.regions } ∧ (∀ j, j ≠ r → t.region j = s.region j) ∧
      ((s.region r).window.Same (t.region r) ∧ (netStep (s.region r) = (s.region r).nstep ∨ (s.region r).wantStep.isSome = true) ∨
        { (s.region r).window with wantStep := some (netStep (s.region r)) }.Same (t.region r) ∧
          netStep (s.region r) ≠ (s.region r).nstep ∧ (s.region r).wantStep = none) := by
  refine ⟨_, exec_netGovernorWindow hr, ?_⟩
  split
  · rename_i h
    refine ⟨rfl, fun j hj => s.region_modRegion_other _ hj, .inl ⟨?_, by simpa using h⟩⟩
    rw [State.region_modRegion_same]
    rfl
  · rename_i h
    have h : netStep (s.region r) ≠ (s.region r).nstep ∧ (s.region r).wantStep = none := by simpa using h
    refine ⟨rfl, fun j hj => ?_, .inr ⟨?_, h⟩⟩
    · rw [State.aim, State.region_modRegion_other _ _ hj, State.region_modRegion_other _ _ hj, State.region_modRegion_other _ _ hj]
    · have := State.region_aim ((s.modRegion r Region.window).modRegion r fun g => { g with wantStep := some (netStep (s.region r)) }) r r
      rw [State.region_modRegion_same, State.region_modRegion_same] at this
      exact this

end Sys2Proof.Machine
end

section
/-!
PROOFS. Phases that fail, the regions that are switched on, ramps and refreeze (R391 to R394).
-/

namespace Sys2Proof.Machine

/-! ## The network's steps -/

section NetStep

variable {s : State} {r w : Nat} (hr : r < 96) (hw : (s.region r).wantStep = some w)
include hr hw

/-- A step up of the network waits for the supply (R69). -/
theorem exec_netStepChange_waits (hu : (s.region r).nstep < w) (hv : (s.region r).supply < netVolts w) :
    exec (.netStepChange r) s = .next s := by
  change execNetStepChange r s = _
  simp only [execNetStepChange, hr, hw, hu, hv, decide_true, Bool.not_true, Bool.false_eq_true, if_false, Bool.and_self, if_true]

theorem exec_netStepChange (hv : w ≤ (s.region r).nstep ∨ netVolts w ≤ (s.region r).supply) :
    exec (.netStepChange r) s = .next ((s.modRegion r fun g => { g with nstep := w, wantStep := none }).aim r) := by
  have h : (decide ((s.region r).nstep < w) && decide ((s.region r).supply < netVolts w)) = false := by
    rcases hv with h | h <;> simp [Nat.not_lt.mpr h]
  change execNetStepChange r s = _
  simp only [execNetStepChange, hr, hw, h, decide_true, Bool.not_true, Bool.false_eq_true, if_false]

end NetStep

/-! ## Phases -/

/-- Telling a lease's holder changes no cluster, no region and no flash (R396). -/
theorem State.tellHolder_keeps (s : State) (l : Lease) (b : Nat) :
    (s.tellHolder l b).clusters = s.clusters ∧ (s.tellHolder l b).regions = s.regions ∧ (s.tellHolder l b).flash = s.flash := by
  unfold State.tellHolder
  dsimp only
  split
  · exact ⟨rfl, rfl, rfl⟩
  · split
    · exact ⟨rfl, rfl, rfl⟩
    · split <;> exact ⟨rfl, rfl, rfl⟩

theorem State.foldl_tellHolder_keeps (l : List Lease) (b : Nat) (s : State) : let t := l.foldl (fun s l => s.tellHolder l b) s
    t.clusters = s.clusters ∧ t.regions = s.regions ∧ t.flash = s.flash := by
  induction l generalizing s with
  | nil => exact ⟨rfl, rfl, rfl⟩
  | cons a l ih =>
    obtain ⟨h1, h2, h3⟩ := ih (s.tellHolder a b)
    obtain ⟨k1, k2, k3⟩ := s.tellHolder_keeps a b
    exact ⟨h1.trans k1, h2.trans k2, h3.trans k3⟩

theorem State.cluster_congr {s t : State} (hc : t.clusters = s.clusters) (hf : t.flash = s.flash) (cl : Nat) : t.cluster cl = s.cluster cl := by
  simp only [State.cluster, State.vtOf, hc, hf]

theorem State.region_congr {s t : State} (hr : t.regions = s.regions) (hf : t.flash = s.flash) (r : Nat) : t.region r = s.region r := by
  simp only [State.region, State.railReset, State.vtOf, hr, hf]

/-- What a change of MODE takes from a cluster beside its ACTIVE lease: the PAUSED ones, and in MODE 2 a step up (R391, R392). -/
def Cluster.capped (k : Cluster) (mode : Nat) : Cluster :=
  { k with
    paused := [], want := if mode = 2 then k.want.filter fun w => decide (w < k.step) else k.want
    queued := if mode = 2 then none else k.queued }

/-- A cluster whose leases a change of MODE ends, before its cap is applied. -/
def Cluster.modeEnded (k : Cluster) (mode : Nat) : Cluster :=
  { k.capped mode with leaseRow := if k.lease.isSome then some (min 4 (k.leaseRow.getD 4)) else k.leaseRow }

/-- A change of MODE at a cluster: its leases end, and then its cap and its fallback regulator apply. -/
theorem State.modeEnds_eq (s : State) (cl mode : Nat) : ∃ u : State, s.modeEnds cl mode = (u.recap cl).fallback cl ∧
    u.cluster cl = (s.cluster cl).modeEnded mode ∧ (∀ j, j ≠ cl → u.cluster j = s.cluster j) ∧ ∀ r, u.region r = s.region r := by
  obtain ⟨v, hv⟩ : ∃ v, (s.cluster cl).paused.foldl (fun s l => s.tellHolder l leaseLlost) (s.leaseDue cl 4) = v := ⟨_, rfl⟩
  obtain ⟨hc, hr, hf⟩ := State.foldl_tellHolder_keeps (s.cluster cl).paused leaseLlost (s.leaseDue cl 4)
  rw [hv] at hc hr hf
  have hcl := State.cluster_congr hc hf
  refine ⟨v.modCluster cl (·.capped mode), by rw [State.modeEnds, hv]; rfl, ?_, fun j hj => ?_, fun r => State.region_congr hr hf r⟩
  · rw [State.cluster_modCluster_same, hcl, State.leaseDue, State.cluster_modCluster_same, Cluster.modeEnded]
    split <;> rfl
  · rw [State.cluster_modCluster_other _ _ hj, hcl, State.leaseDue, State.cluster_modCluster_other _ _ hj]

/-- A request above the cap gives way to one for the cap, which begins where no change is in progress (R389). -/
theorem State.recap_begins {s : State} {cl : Nat} (hs : s.stepCap cl < (s.cluster cl).step) (hw : (s.cluster cl).want = none)
    (hv : 550 ≤ (s.cluster cl).volts (s.stepCap cl)) : ((s.recap cl).cluster cl).want = some (s.stepCap cl) := by
  have h : s.recap cl = s.requestStep cl (s.stepCap cl) := by
    unfold State.recap
    simp only [hs, decide_true, Bool.true_or, if_true]
  rw [h]
  exact State.requestStep_begins hv hw (Nat.ne_of_lt hs)

/-- What the cap and the fallback regulator leave of a cluster, of the others and of the regions (R389, R392). -/
theorem State.recap_fallback_effect (s : State) (cl : Nat) : let t := (s.recap cl).fallback cl
    let k := s.cluster cl
    let u := t.cluster cl
    (∀ j, j ≠ cl → t.cluster j = s.cluster j) ∧ (∀ r, (s.region r).Same (t.region r)) ∧
      u.paused = k.paused ∧ u.leaseRow = k.leaseRow ∧
      ((s.region (regionOfCluster cl)).mode = 2 → k.dark = false → k.step ≤ s.stepCap cl → u.fb = true) ∧
      (s.stepCap cl < k.step → k.want = none → 550 ≤ k.volts (s.stepCap cl) → u.want = some (s.stepCap cl)) := by
  intro t k u
  obtain ⟨-, hro, hrs, hrr⟩ := s.recap_asks cl
  have hcap : (s.recap cl).stepCap cl = s.stepCap cl := State.stepCap_congr (by rw [hrs]) (by rw [hrs]) (hrr _).mode_eq
  obtain ⟨hfo, hfn, hu⟩ := (s.recap cl).fallback_effect cl
  have hfr : ∀ r, t.region r = (s.recap cl).region r := fun r => by simp only [t]; rw [hfo]; rfl
  refine ⟨fun j hj => (hfn j hj).trans (hro j hj), fun r => by rw [hfr]; exact hrr r, ?_, ?_, fun hm hd hs => ?_, fun hs hw hv => ?_⟩
  · rw [show u = _ from hu, hrs]
  · rw [show u = _ from hu, hrs]
  · rw [show u = _ from hu, hcap, (hrr _).mode_eq, hm, hrs]
    simp only [show (s.cluster cl).dark = false from hd, show (s.cluster cl).step ≤ s.stepCap cl from hs, beq_self_eq_true,
      Bool.not_false, decide_true, Bool.and_self, Bool.or_true]
  · rw [show u = _ from hu]
    exact State.recap_begins hs hw hv

theorem Cluster.modeEnded_want {k : Cluster} (h : k.want = none) (mode : Nat) : (k.modeEnded mode).want = none := by
  simp only [Cluster.modeEnded, Cluster.capped, h, Option.filter_none, ite_self]

/-- What a change of MODE leaves of a cluster, of the others and of the regions (R391, R392). -/
theorem State.modeEnds_effect (s : State) (cl mode : Nat) : let t := s.modeEnds cl mode
    let k := s.cluster cl
    let u := t.cluster cl
    (∀ j, j ≠ cl → t.cluster j = s.cluster j) ∧ (∀ r, (s.region r).Same (t.region r)) ∧ u.paused = [] ∧
      (k.lease ≠ none → u.leaseRow = some (min 4 (k.leaseRow.getD 4))) ∧
      ((s.region (regionOfCluster cl)).mode = 2 → k.dark = false → k.step ≤ s.stepCap cl → u.fb = true) ∧
      (s.stepCap cl < k.step → k.want = none → 550 ≤ k.volts (s.stepCap cl) → u.want = some (s.stepCap cl)) := by
  obtain ⟨v, ht, hself, hother, hregion⟩ := s.modeEnds_eq cl mode
  have hcap : v.stepCap cl = s.stepCap cl := State.stepCap_congr (by rw [hself]; rfl) (by rw [hself]; rfl) (by rw [hregion])
  obtain ⟨hn, hr, hp, hrow, hfb, hstep⟩ := v.recap_fallback_effect cl
  rw [hself] at hp hrow hfb hstep
  rw [hcap] at hfb hstep
  rw [hregion] at hfb
  rw [ht]
  exact ⟨fun j hj => (hn j hj).trans (hother j hj), fun r => by rw [← hregion r]; exact hr r, hp,
    fun hl => hrow.trans (if_pos (Option.isSome_iff_ne_none.mpr hl)), hfb, fun hs hw hv => hstep hs (Cluster.modeEnded_want hw mode) hv⟩

/-- A change of MODE at each of a list of clusters leaves each as the change at that one does (R391). -/
theorem State.foldl_modeEnds (l : List Nat) (mode : Nat) (hnd : l.Nodup) (s : State) :
    let t := l.foldl (fun s cl => s.modeEnds cl mode) s
    (∀ r, (s.region r).Same (t.region r)) ∧ (∀ j, j ∉ l → t.cluster j = s.cluster j) ∧
      ∀ cl ∈ l, ∃ v : State, v.cluster cl = s.cluster cl ∧ (∀ r, (s.region r).Same (v.region r)) ∧
        t.cluster cl = (v.modeEnds cl mode).cluster cl := by
  induction l generalizing s with
  | nil => exact ⟨fun _ => rfl, fun _ _ => rfl, fun cl h => absurd h List.not_mem_nil⟩
  | cons a l ih =>
    obtain ⟨ha, hl⟩ := List.nodup_cons.mp hnd
    obtain ⟨hr, hn, hm⟩ := ih hl (s.modeEnds a mode)
    obtain ⟨hao, har, -⟩ := s.modeEnds_effect a mode
    refine ⟨fun r => (har r).trans (hr r), fun j hj => ?_, fun cl hcl => ?_⟩
    · obtain ⟨hja, hjl⟩ := not_or.mp fun h => hj (List.mem_cons.mpr h)
      exact (hn j hjl).trans (hao j hja)
    · by_cases hc : cl = a
      · subst hc
        exact ⟨s, rfl, fun _ => rfl, hn cl ha⟩
      · obtain ⟨v, hv, hvr, hvt⟩ := hm cl (List.mem_of_ne_of_mem hc hcl)
        exact ⟨v, hv.trans (hao cl hc), fun r => (har r).trans (hvr r), hvt⟩

theorem regionClusters_nodup (r : Nat) : (regionClusters r).Nodup :=
  List.Nodup.map_on (fun i hi j hj h => by rw [List.mem_range] at hi hj; omega) List.nodup_range

theorem regionOfCluster_of_mem {r cl : Nat} (h : cl ∈ regionClusters r) : regionOfCluster cl = r := by
  obtain ⟨i, hi, rfl⟩ := List.mem_map.mp h
  rw [List.mem_range] at hi
  have hx : r % 4 * 4 + i % 4 < 16 := by omega
  have hy : r / 4 % 3 * 4 + i / 4 < 12 := by omega
  have hxr : (r % 4 * 4 + i % 4) / 4 = r % 4 := by omega
  have hyr : (r / 4 % 3 * 4 + i / 4) / 4 = r / 4 % 3 := by omega
  rw [regionOfCluster]
  generalize r % 4 * 4 + i % 4 = x at hx hxr
  generalize r / 4 % 3 * 4 + i / 4 = y at hy hyr
  have h16 : (x + 16 * y + 192 * (r / 12)) % 16 = x := by omega
  have h12 : (x + 16 * y + 192 * (r / 12)) / 16 % 12 = y := by omega
  have h192 : (x + 16 * y + 192 * (r / 12)) / 192 = r / 12 := by omega
  rw [h16, h12, h192, hxr, hyr]
  omega

/-- The MODE of a region with `n` phases in service (R391). -/
def modeOf (n : Nat) : Nat := if 12 ≤ n then 0 else if 6 ≤ n then 1 else 2

/-- A region that has lost phases, before its clusters follow. -/
def State.phasesLost (s : State) (r lost : Nat) : State :=
  let g := s.region r
  let plive := g.plive - lost
  let s := s.modRegion r fun g => { g with plive, mode := modeOf plive }
  if modeOf plive = 2 && g.mode != 2 then s.modRegion r fun g =>
    { g with wantStep := if 5 < g.nstep then some 5 else g.wantStep.bind fun w => if g.nstep = 5 then none else some (min w 5) } else s

theorem State.phasesLost_effect (s : State) (r lost : Nat) : let t := s.phasesLost r lost
    (t.region r).plive = (s.region r).plive - lost ∧ (t.region r).mode = modeOf ((s.region r).plive - lost) ∧
      ∀ cl, t.cluster cl = s.cluster cl := by
  unfold State.phasesLost
  dsimp only
  split
  · rw [State.region_modRegion_same, State.region_modRegion_same]
    exact ⟨rfl, rfl, fun _ => rfl⟩
  · rw [State.region_modRegion_same]
    exact ⟨rfl, rfl, fun _ => rfl⟩

theorem exec_phaseLoss {s : State} {r lost : Nat} (hr : r < 96) : let mode := modeOf ((s.region r).plive - lost)
    exec (.phaseLoss r lost) s = if mode = (s.region r).mode then .next (s.phasesLost r lost)
      else .next (((regionClusters r).foldl (fun s cl => s.modeEnds cl mode) (s.phasesLost r lost)).aim r) :=
  if_neg (by simp [hr])

/-- The cap of a cluster whose region is in MODE 1 or 2 (R389, R391). -/
def Cluster.modeCap (k : Cluster) : Nat := min (match k.lease with | some l => l.lstep | none => min (bits k.clcfg 10 3) 4) 2

theorem State.stepCap_of_mode {s : State} {cl : Nat} (h : (s.region (regionOfCluster cl)).mode ≠ 0) :
    s.stepCap cl = (s.cluster cl).modeCap := if_pos (bne_iff_ne.mpr h)

/-- What lost phases leave of a region and, where its MODE changes to 1 or 2, of its clusters (R391, R392). -/
theorem State.phaseLoss_effect {s : State} {r lost : Nat} (hr : r < 96) :
    let g := s.region r
    let mode := modeOf (g.plive - lost)
    ∃ t, exec (.phaseLoss r lost) s = .next t ∧ (t.region r).plive = g.plive - lost ∧ (t.region r).mode = mode ∧
      (mode ≠ g.mode → ∀ cl ∈ regionClusters r, ∃ v : State, v.cluster cl = s.cluster cl ∧
        (v.region (regionOfCluster cl)).mode = mode ∧ t.cluster cl = (v.modeEnds cl mode).cluster cl) := by
  intro g mode
  obtain ⟨hp, hm, hc⟩ := s.phasesLost_effect r lost
  by_cases h : mode = g.mode
  · exact ⟨_, (exec_phaseLoss hr).trans (if_pos h), hp, hm, fun hne => absurd h hne⟩
  · obtain ⟨hrs, -, hmem⟩ := State.foldl_modeEnds (regionClusters r) mode (regionClusters_nodup r) (s.phasesLost r lost)
    have he := (exec_phaseLoss hr).trans (if_neg h)
    generalize (regionClusters r).foldl (fun s cl => s.modeEnds cl mode) (s.phasesLost r lost) = u at hrs hmem he
    have hsame := (hrs r).trans (u.region_aim r r)
    refine ⟨_, he, ?_, hsame.mode_eq.trans hm, fun _ cl hcl => ?_⟩
    · rw [Region.Same] at hsame
      rw [hsame]
      exact hp
    · obtain ⟨v, hv, hvr, ht⟩ := hmem cl hcl
      exact ⟨v, hv.trans (hc cl), by rw [regionOfCluster_of_mem hcl, (hvr r).mode_eq, hm], ht⟩

/-! ## Switching on -/

/-- A region is wanted where a valid context's box holds a cluster of it (R393). -/
theorem State.regionWanted_iff (s : State) (r : Nat) : s.regionWanted r = true ↔
    ∃ n, n < 256 ∧ s.ctxValid n = true ∧ ∃ c ∈ regionCores r, boxHasCluster (s.ctxBox n) (clusterOf c) = true := by
  simp [State.regionWanted]

section SwitchOn

variable {s : State} {r : Nat} (hr : r < 96)
include hr

theorem exec_regionSwitchOn (heavy : List Nat) : exec (.regionSwitchOn r heavy) s =
    .next (if (s.region r).ramp then s
      else if !s.regionWanted r then s.modRegion r fun g => { g with on := false }
      else if (s.region r).on then s
      else if (regionNeighbours r).any heavy.contains then
        s.modRegion r fun g =>
          { g with ramp := true, rampEnd := s.timecode.toNat + 20000, heavy := (regionNeighbours r).filter heavy.contains }
      else s.modRegion r fun g => { g with on := true }) := by
  simp only [apply_ite Host.Outcome.next]
  exact if_neg (by simp [hr])

/-- A ramp ends 20 µs after it began, and not before (R393). -/
theorem exec_rampEnd_due (h : (s.region r).ramp = true) (ht : (s.region r).rampEnd ≤ s.timecode.toNat) :
    exec (.rampEnd r) s = .next (s.modRegion r fun g => { g with ramp := false, on := true }) :=
  (if_neg (by simp [hr])).trans (if_pos (by simp [h, ht]))

theorem exec_rampEnd_waits (h : (s.region r).ramp = false ∨ s.timecode.toNat < (s.region r).rampEnd) :
    exec (.rampEnd r) s = .next s :=
  (if_neg (by simp [hr])).trans (if_neg (by rcases h with h | h <;> simp [h]))

end SwitchOn

/-! ## Refreeze -/

/-- Refreeze begins, and every ACTIVE lease is to end (R394). -/
theorem State.startRefreeze_rfz (s : State) : s.startRefreeze.rfz = true := by
  unfold State.startRefreeze
  split
  · assumption
  · have h : ∀ (l : SMap Cluster) (u : State), (l.foldl (fun s e => s.leaseDue e.1 3) u).rfz = u.rfz := by
      intro l
      induction l with
      | nil => exact fun _ => rfl
      | cons e l ih => exact fun u => ih (u.leaseDue e.1 3)
    exact h _ _

/-- Below the upper threshold refreeze goes on until MELT has come down to the lower one (R394). -/
theorem exec_meltPublish_below {s : State} {melt : BitVec 16} (h : melt.toNat < 0xF333) :
    exec (.meltPublish melt) s = .next { s with melt, rfz := s.rfz && decide (0x4CCD < melt.toNat) } := by
  refine congrArg Host.Outcome.next ((if_neg (Nat.not_le.mpr h)).trans ?_)
  by_cases hm : melt.toNat ≤ 0x4CCD
  · cases hr : s.rfz <;> simp [hm, Nat.not_lt.mpr hm]
  · simp [hm, Nat.not_le.mp hm]

end Sys2Proof.Machine
end

section
/-!
PROOFS. Clusters whose supply fails (R383, R392).
-/

namespace Sys2Proof.Machine

/-! ## Leases that are returned -/

/-- `t` differs from `s` in clusters and regions at most. -/
def PowerOnly (s t : State) : Prop := t = { s with clusters := t.clusters, regions := t.regions }

theorem PowerOnly.trans {s t u : State} (a : PowerOnly s t) (b : PowerOnly t u) : PowerOnly s u := by
  rw [PowerOnly] at *
  rw [b, a]

theorem State.modCluster_powerOnly (s : State) (cl : Nat) (f : Cluster → Cluster) : PowerOnly s (s.modCluster cl f) := rfl

theorem State.endLease_powerOnly (s : State) (cl : Nat) : PowerOnly s (s.endLease cl none) := by
  unfold State.endLease
  split
  · rfl
  · have he : PowerOnly s (s.leaseEvent cl) := by
      unfold State.leaseEvent
      dsimp only
      split <;> rfl
    exact (he.trans (State.modCluster_powerOnly _ _ _)).trans (State.recap_asks _ cl).only

/-- The return of leases concerns clusters and regions (R396). -/
theorem State.returnLeases_powerOnly (s : State) (pick : Lease → Bool) : PowerOnly s (s.returnLeases pick) := by
  unfold State.returnLeases
  generalize s.clusters = l
  induction l generalizing s with
  | nil => rfl
  | cons e l ih =>
    refine PowerOnly.trans ?_ (ih _)
    beta_reduce
    extract_lets u
    have hend : PowerOnly s u := by
      unfold u
      split
      · exact s.endLease_powerOnly e.1
      · rfl
    clear_value u
    split
    · exact hend.trans (u.modCluster_powerOnly _ _)
    · exact hend

/-! ## Dark cores -/

/-- Two cores with the same darkness, local store and nodes. -/
structure Core.SameStore (x y : Core) : Prop where
  dark : y.dark = x.dark
  ls : y.ls = x.ls
  nodes : y.nodes = x.nodes

theorem Core.SameStore.trans {x y z : Core} (a : x.SameStore y) (b : y.SameStore z) : x.SameStore z :=
  ⟨b.dark.trans a.dark, b.ls.trans a.ls, b.nodes.trans a.nodes⟩

/-- `t` has the logs, the bumps and the flash of `s`, and of each core the darkness, the local store and the nodes. -/
structure SameStores (s t : State) : Prop where
  logs : t.logs = s.logs
  bumps : t.bumps = s.bumps
  flash : t.flash = s.flash
  cores : ∀ k, (s.core k).SameStore (t.core k)

theorem SameStores.refl (s : State) : SameStores s s := ⟨rfl, rfl, rfl, fun _ => ⟨rfl, rfl, rfl⟩⟩

theorem SameStores.trans {s t u : State} (a : SameStores s t) (b : SameStores t u) : SameStores s u :=
  ⟨b.logs.trans a.logs, b.bumps.trans a.bumps, b.flash.trans a.flash, fun k => (a.cores k).trans (b.cores k)⟩

theorem SameStores.foldl {α : Type} {f : State → α → State} (hf : ∀ s a, SameStores s (f s a)) (l : List α) (s : State) :
    SameStores s (l.foldl f s) := by
  induction l generalizing s with
  | nil => exact SameStores.refl s
  | cons a l ih => exact (hf s a).trans (ih _)

theorem NetOnly.sameStores {s t : State} (h : NetOnly s t) : SameStores s t := by
  have hc := h.core
  rw [NetOnly] at h
  exact ⟨by rw [h], by rw [h], by rw [h], fun k => by rw [hc]; exact ⟨rfl, rfl, rfl⟩⟩

theorem State.modCore_sameStores (s : State) (c : Nat) {f : Core → Core} (hf : ∀ x : Core, x.SameStore (f x)) : SameStores s (s.modCore c f) := by
  refine ⟨rfl, rfl, rfl, fun k => ?_⟩
  by_cases hk : k = c
  · subst hk
    rw [State.core_modCore_same]
    exact hf _
  · rw [State.core_modCore_other _ _ hk]
    exact ⟨rfl, rfl, rfl⟩

theorem State.modStrand_sameStores (s : State) (c i : Nat) (f : Strand → Strand) : SameStores s (s.modStrand c i f) :=
  s.modCore_sameStores c (f := (·.setStrand i (f (s.strand c i)))) fun _ => ⟨rfl, rfl, rfl⟩

theorem State.withdrawSc_sameStores (s : State) (c i : Nat) (sent : Bool) : SameStores s (s.withdrawSc c i sent) := by
  unfold State.withdrawSc
  extract_lets cl u v
  have hu : SameStores s u := by
    unfold u
    split
    · split
      · exact SameStores.refl s
      · exact (s.modStrand_sameStores c i _).trans (State.request_effect _ _ _ _ _ _ _).1.sameStores
    · exact SameStores.refl s
  have hv : SameStores u v := by
    unfold v
    split
    · exact ⟨rfl, rfl, rfl, fun _ => ⟨rfl, rfl, rfl⟩⟩
    · exact SameStores.refl u
  exact (hu.trans hv).trans (v.modCore_sameStores c fun _ => ⟨rfl, rfl, rfl⟩)

theorem State.unstall_sameStores (s : State) (c i : Nat) : SameStores s (s.unstall c i) :=
  SameStores.foldl (fun s k => by
    split
    · exact SameStores.refl s
    · exact s.modCore_sameStores k fun _ => ⟨rfl, rfl, rfl⟩) _ s

theorem State.countEnded_sameStores (s : State) (k : Cocoon) : SameStores s (s.countEnded k) := by
  unfold State.countEnded
  split
  · exact SameStores.refl s
  · exact ⟨rfl, rfl, rfl, fun _ => ⟨rfl, rfl, rfl⟩⟩

theorem State.groupDone_sameStores (s : State) (ch gix : Nat) : SameStores s (s.groupDone ch gix) := by
  unfold State.groupDone
  dsimp only
  split
  · exact ⟨rfl, rfl, rfl, fun _ => ⟨rfl, rfl, rfl⟩⟩
  · exact SameStores.refl s

/-- A core whose supply is off has nothing in its local store (R383). -/
def Core.Out (x : Core) : Prop := x.dark = true ∧ x.ls = []

theorem Core.Out.of_same {x y : Core} (h : x.Out) (hs : x.SameStore y) : y.Out := ⟨hs.dark.trans h.1, hs.ls.trans h.2⟩

/-- A core that stops is dark and keeps its nodes; the stores of the others stay (R383). -/
theorem State.darkCore_effect {s : State} {c : Nat} (hl : s.logs = []) (hb : s.bumps = []) : let t := s.darkCore c
    t.logs = [] ∧ t.bumps = [] ∧ t.flash = s.flash ∧ (t.core c).Out ∧ (t.core c).nodes = (s.core c).nodes ∧
      ∀ k, k ≠ c → (s.core k).SameStore (t.core k) := by
  intro t
  have ht : s.darkCore c = t := rfl
  clear_value t
  unfold State.darkCore at ht
  extract_lets x lost sent u v w y z at ht
  have hu : SameStores s u := SameStores.foldl (fun s i => (s.withdrawSc_sameStores c i (sent i)).trans (State.unstall_sameStores _ c i)) _ s
  clear_value u
  have hv : SameStores s v := hu.trans (SameStores.foldl (fun s k => s.countEnded_sameStores k) _ u)
  clear_value v
  have hy : y.logs = [] ∧ y.bumps = [] ∧ y.flash = s.flash := by
    refine ⟨hv.logs.trans hl, ?_, hv.flash⟩
    change v.bumps.map _ = []
    rw [hv.bumps, hb]
    rfl
  have hself : y.core c = x.darkened := v.core_setCore_same c _
  have hother : ∀ k, k ≠ c → (s.core k).SameStore (y.core k) := fun k hk => by
    rw [show y.core k = v.core k from v.core_setCore_other _ hk]
    exact hv.cores k
  clear_value y
  obtain ⟨hyl, hyb, hyf⟩ := hy
  have hz : z = y := by
    unfold z
    rw [hyl]
    rfl
  rw [hz] at ht
  have hg : SameStores y t := by
    rw [← ht]
    exact SameStores.foldl (fun s ch => by
      split
      · exact s.groupDone_sameStores ch _
      · exact SameStores.refl s) _ y
  have hc := hg.cores c
  rw [hself] at hc
  exact ⟨hg.logs.trans hyl, hg.bumps.trans hyb, hg.flash.trans hyf, Core.Out.of_same ⟨rfl, rfl⟩ hc, hc.nodes,
    fun k hk => (hother k hk).trans (hg.cores k)⟩

/-- The live cores of a list are dark once each of them has stopped, and every core keeps its nodes. -/
theorem State.foldl_darkCore (l : List Nat) {s : State} (hl : s.logs = []) (hb : s.bumps = []) :
    let t := l.foldl (fun s c => if s.live c then s.darkCore c else s) s
    t.bumps = [] ∧ (∀ k, (t.core k).nodes = (s.core k).nodes) ∧
      ∀ k, ((s.core k).Out ∨ k ∈ l ∧ s.live k = true) → (t.core k).Out := by
  induction l generalizing s with
  | nil => exact ⟨hb, fun _ => rfl, fun k h => h.resolve_right fun h => absurd h.1 List.not_mem_nil⟩
  | cons c l ih =>
    rw [List.foldl_cons]
    by_cases hc : s.live c = true
    · rw [if_pos hc]
      obtain ⟨h1, h2, hf, hout, hnodes, hother⟩ := State.darkCore_effect (c := c) hl hb
      obtain ⟨hb', hn, ho⟩ := ih h1 h2
      refine ⟨hb', fun k => (hn k).trans ?_, fun k hk => ho k ?_⟩
      · by_cases h : k = c
        · rw [h, hnodes]
        · exact (hother k h).nodes
      · by_cases h : k = c
        · exact .inl (h ▸ hout)
        · rcases hk with hk | ⟨hm, hk⟩
          · exact .inl (hk.of_same (hother k h))
          · refine .inr ⟨List.mem_of_ne_of_mem h hm, ?_⟩
            rw [State.live, hf]
            exact hk
    · rw [if_neg hc]
      obtain ⟨hb', hn, ho⟩ := ih hl hb
      refine ⟨hb', hn, fun k hk => ho k (hk.imp_right fun ⟨hm, hlive⟩ => ⟨List.mem_of_ne_of_mem ?_ hm, hlive⟩)⟩
      rintro rfl
      exact hc hlive

/-- A cluster on its fallback regulator that fails goes dark with its live cores, where no launch has work there (R383, R392). -/
theorem State.fallbackFailure_effect {s : State} {cl : Nat} (hc : cl < 1536) (hf : (s.cluster cl).fb = true)
    (hd : (s.cluster cl).dark = false) (hk : ∀ c ∈ clusterCores cl, (s.core c).cocoons = []) (hl : s.logs = []) (hb : s.bumps = []) :
    ∃ t, exec (.fallbackFailure cl) s = .next t ∧ (t.cluster cl).dark = true ∧
      ∀ c ∈ clusterCores cl, s.live c = true → (t.core c).dark = true ∧ (t.core c).ls = [] ∧ (t.core c).nodes = (s.core c).nodes := by
  have hret := s.returnLeases_powerOnly fun l => clusterOf l.core == cl
  have he : exec (.fallbackFailure cl) s = execFallbackFailure cl s := rfl
  unfold execFallbackFailure at he
  rw [if_neg (by simp [hc]), if_neg (by simp [hf, hd])] at he
  dsimp only at he
  rw [foldl_eq_of_fixed (l := clusterCores cl) (a := ([] : List Nat)) fun c hm => by rw [hk c hm]; rfl] at he
  generalize s.returnLeases (fun l => clusterOf l.core == cl) = u at hret he
  have hus : u.logs = [] ∧ u.bumps = [] ∧ (∀ c, u.core c = s.core c) ∧ ∀ c, u.live c = s.live c := by
    rw [PowerOnly] at hret
    rw [hret]
    exact ⟨hl, hb, fun _ => rfl, fun _ => rfl⟩
  obtain ⟨hul, hub, hucore, hulive⟩ := hus
  obtain ⟨hvb, hnodes, hout⟩ := State.foldl_darkCore (clusterCores cl) hul hub
  generalize (clusterCores cl).foldl (fun s c => if s.live c then s.darkCore c else s) u = v at hvb hnodes hout he
  have hsettle : State.settleBumps { v with cluSeqrs := SMap.erase v.cluSeqrs cl } = { v with cluSeqrs := SMap.erase v.cluSeqrs cl } := by
    unfold State.settleBumps
    simp only [hvb, List.foldl_nil]
  refine ⟨_, he.trans (congrArg Host.Outcome.next (congrArg (State.modCluster · cl _) hsettle)), ?_, fun c hm hlive => ?_⟩
  · rw [State.cluster_modCluster_same]
  · obtain ⟨h1, h2⟩ := hout c (.inr ⟨hm, by rw [hulive]; exact hlive⟩)
    exact ⟨h1, h2, (hnodes c).trans (by rw [hucore])⟩

theorem exec_fallbackFailure_off {s : State} {cl : Nat} (hc : cl < 1536) (h : (s.cluster cl).fb = false ∨ (s.cluster cl).dark = true) :
    exec (.fallbackFailure cl) s = .next s :=
  (if_neg (by simp [hc])).trans (if_pos (by rcases h with h | h <;> simp [h]))

end Sys2Proof.Machine
end

section
/-!
PROOFS. Power: the statement, from the parts above.
-/

namespace Sys2Proof.Machine

/-! ## Clusters -/

/-- What a governor's window asks for in each of its cases (R389). -/
theorem clusterGovernorWindow_completes {s : State} {cl : Nat} (hc : cl < 1536) (hd : (s.cluster cl).dark = false)
    (hon : (s.region (regionOfCluster cl)).on = true) (cyc stl : Nat) :
    let k := s.cluster cl
    let hi := s.stepCap cl
    let lo := bits k.clcfg 7 3
    let sr := if cyc = 0 then 0 else min 255 (256 * stl / cyc)
    ∃ t, exec (.clusterGovernorWindow cl cyc stl) s = .next t ∧ t = { s with clusters := t.clusters, regions := t.regions } ∧
      (t.cluster cl).sr = sr ∧ (t.cluster cl).step = k.step ∧ (∀ j, j ≠ cl → t.cluster j = s.cluster j) ∧
      (k.want = none → k.leaseTick ≠ some s.timecode.toNat → k.clcfg.getLsbD 0 = true → k.bias = 0 → k.step ≤ hi →
        (bits k.clcfg 24 8 ≤ sr → lo < k.step → 550 ≤ k.volts (k.step - 1) → (t.cluster cl).want = some (k.step - 1)) ∧
        (sr < bits k.clcfg 24 8 → bits k.clcfg 16 8 < sr → lo ≤ k.step → (t.cluster cl).want = none) ∧
        (sr < bits k.clcfg 24 8 → sr ≤ bits k.clcfg 16 8 → lo ≤ k.step → k.step < hi → 550 ≤ k.volts (k.step + 1) →
          (t.cluster cl).want = some (k.step + 1))) := by
  intro k hi lo sr
  have he : exec (.clusterGovernorWindow cl cyc stl) s = .next ((s.modCluster cl fun k => { k with sr }).govern cl (govStep k hi sr)) :=
    exec_clusterGovernorWindow hc hd hon
  obtain ⟨u, hu⟩ : ∃ u, u = s.modCluster cl fun k => { k with sr } := ⟨_, rfl⟩
  have hself : u.cluster cl = { k with sr } := by rw [hu, State.cluster_modCluster_same]
  have htime : u.timecode = s.timecode := by rw [hu]; rfl
  rw [← hu] at he
  obtain ⟨ho, hn, hsr, hstep⟩ := u.govern_effect cl (govStep k hi sr)
  have hbegins := fun want => State.govern_begins (s := u) (cl := cl) (want := want)
  rw [hself, htime] at hbegins
  rw [hself] at hsr hstep
  refine ⟨_, he, ?_, hsr, hstep, fun j hj => ?_, fun hw ht hg hb hs => ⟨fun hd hl hv => ?_, fun hd hu' hl => ?_, fun hd hu' hl hs' hv => ?_⟩⟩
  · rw [ho, hu]; rfl
  · rw [hn j hj, hu, State.cluster_modCluster_other _ _ hj]
  · rw [govStep_down hg hb hs hd hl]
    exact hbegins _ hw ht (by simp only; omega) hv
  · have hsame := u.govern_same cl
    rw [hself] at hsame
    rw [govStep_stay hg hb hs hd hu' hl, hsame, hself]
    exact hw
  · rw [govStep_up hg hb hd hu' hl hs']
    exact hbegins _ hw ht (by simp only; omega) hv

/-! ## Regions -/

/-- What a window of the network's governor asks for, and the slew of its rail (R68, R69, R386, log 13). -/
theorem netGovernorWindow_completes {s : State} {r : Nat} (hr : r < 96) :
    let g := s.region r
    let d := if g.routed = 0 then 0 else 256 * g.defl / g.routed
    let smax := bits g.ngcfg 7 3
    ∃ t, exec (.netGovernorWindow r) s = .next t ∧ t = { s with regions := t.regions } ∧ (t.region r).routed = 0 ∧ (t.region r).defl = 0 ∧
      (t.region r).qmax = 0 ∧ (t.region r).fmax = 0 ∧ (t.region r).nstep = g.nstep ∧ (∀ j, j ≠ r → t.region j = s.region j) ∧
      (g.mode ≠ 2 → g.wantStep = none → g.ngcfg.getLsbD 0 = true → g.nstep < smax →
        (bits g.ngcfg 36 8 ≤ d ∨ bits g.ngcfg 23 5 ≤ g.qmax ∨ bits g.ngcfg 14 4 ≤ g.fmax) →
        (t.region r).wantStep = some (g.nstep + 1)) ∧
      ((g.wantStep.isSome = true ∨ netStep g = g.nstep) → (t.region r).wantStep = g.wantStep ∧
        (t.region r).vrail = if g.vrail < g.vtgt then min g.vtgt (g.vrail + 20) else max g.vtgt (g.vrail - 20)) := by
  intro g d smax
  have hup : g.mode ≠ 2 → g.ngcfg.getLsbD 0 = true → g.nstep < smax →
      (bits g.ngcfg 36 8 ≤ d ∨ bits g.ngcfg 23 5 ≤ g.qmax ∨ bits g.ngcfg 14 4 ≤ g.fmax) → netStep g = g.nstep + 1 := by
    intro hm hb hs hor
    have hcond : ((bits g.ngcfg 36 8 ≤ d || bits g.ngcfg 23 5 ≤ g.qmax || bits g.ngcfg 14 4 ≤ g.fmax) && decide (g.nstep < smax)) = true := by
      rw [Bool.and_eq_true, Bool.or_eq_true, Bool.or_eq_true]
      simpa [or_assoc] using ⟨hor, hs⟩
    unfold netStep
    simp only [hb, Bool.not_true, Bool.false_eq_true, if_false]
    rw [if_neg hm]
    exact if_pos hcond
  obtain ⟨t, he, ho, hn, hsame⟩ := State.netWindow_effect (s := s) hr
  refine ⟨t, he, ho, ?_⟩
  rcases hsame with ⟨hsame, hcase⟩ | ⟨hsame, hne, hnone⟩ <;> rw [Region.Same] at hsame <;> rw [hsame]
  · refine ⟨rfl, rfl, rfl, rfl, rfl, hn, fun hm hw hb hs hor => ?_, fun _ => ⟨rfl, rfl⟩⟩
    have hnext := hup hm hb hs hor
    rcases hcase with h | h
    · exact absurd (hnext.symm.trans h) (Nat.succ_ne_self _)
    · rw [hw] at h
      cases h
  · refine ⟨rfl, rfl, rfl, rfl, rfl, hn, fun hm _ hb hs hor => congrArg some (hup hm hb hs hor), fun h => ?_⟩
    rcases h with h | h
    · rw [hnone] at h
      cases h
    · exact absurd h hne

/-- A region is switched on, with a ramp beside a heavy neighbour, or gated (R393). -/
theorem regionSwitchOn_completes {s : State} {r : Nat} (hr : r < 96) (heavy : List Nat) :
    let g := s.region r
    let wanted := ∃ n, n < 256 ∧ s.ctxValid n = true ∧ ∃ c ∈ regionCores r, boxHasCluster (s.ctxBox n) (clusterOf c) = true
    ((g.ramp = true ∨ g.on = true ∧ wanted) → exec (.regionSwitchOn r heavy) s = .next s) ∧
      (g.ramp = false → ¬ wanted → exec (.regionSwitchOn r heavy) s = .next (s.modRegion r fun g => { g with on := false })) ∧
      (g.on = false → g.ramp = false → wanted →
        ((∃ j ∈ regionNeighbours r, j ∈ heavy) → ∃ t, exec (.regionSwitchOn r heavy) s = .next t ∧ t = { s with regions := t.regions } ∧
          (t.region r).ramp = true ∧ (t.region r).on = false ∧ (t.region r).rampEnd = s.timecode.toNat + 20000 ∧
          ∀ j, j ∈ (t.region r).heavy ↔ j ∈ regionNeighbours r ∧ j ∈ heavy) ∧
        ((∀ j ∈ regionNeighbours r, j ∉ heavy) →
          exec (.regionSwitchOn r heavy) s = .next (s.modRegion r fun g => { g with on := true }))) := by
  intro g wanted
  have hiff : s.regionWanted r = true ↔ wanted := s.regionWanted_iff r
  rw [exec_regionSwitchOn hr]
  refine ⟨fun h => ?_, fun hp hw => ?_, fun ho hp hw => ⟨fun hh => ?_, fun hh => ?_⟩⟩
  · by_cases hp : g.ramp = true
    · rw [if_pos hp]
    · obtain ⟨ho, hw⟩ := h.resolve_left hp
      rw [if_neg hp, if_neg (by simp [hiff.mpr hw]), if_pos ho]
  · rw [if_neg (ne_true_of_eq_false hp), if_pos (by simpa using fun h => hw (hiff.mp h))]
  · refine ⟨_, rfl, ?_⟩
    rw [if_neg (ne_true_of_eq_false hp), if_neg (by simp [hiff.mpr hw]), if_neg (ne_true_of_eq_false ho), if_pos (by simpa using hh),
      State.region_modRegion_same]
    exact ⟨rfl, rfl, ho, rfl, fun j => by simp⟩
  · rw [if_neg (ne_true_of_eq_false hp), if_neg (by simp [hiff.mpr hw]), if_neg (ne_true_of_eq_false ho), if_neg (by simpa using hh)]

/-- Settles O57: a cluster's window and step by `State.govern` and `State.stepped`, its failure by `State.foldl_darkCore`; a region's window by
`State.netWindow_effect`, lost phases by `State.foldl_modeEnds`, and the rest by the equations of the events. -/
theorem powerComplete : Obligations.PowerComplete := by
  unfold Obligations.PowerComplete
  refine ⟨?cluster, ?region, ?melt⟩
  case cluster =>
    intro s cl hc k hi lo
    refine ⟨fun h cyc stl => exec_clusterGovernorWindow_off hc h cyc stl, fun hd hon => clusterGovernorWindow_completes hc hd hon, ?step,
      exec_fallbackFailure_off hc, State.fallbackFailure_effect hc⟩
    case step =>
      intro w hw hq g mv
      refine ⟨exec_clusterStepChange_waits hc hw, fun hv => ⟨_, exec_clusterStepChange hc hw hq hv, State.stepped_effect s cl w⟩⟩
  case region =>
    intro s r hr g d smax
    refine ⟨netGovernorWindow_completes hr, ?step, ?phases, ?rest⟩
    case step =>
      intro w hw mv
      refine ⟨exec_netStepChange_waits hr hw, fun hv => ⟨_, exec_netStepChange hr hw hv, rfl, ?_⟩⟩
      have hsame := State.region_aim (s.modRegion r fun g => { g with nstep := w, wantStep := none }) r r
      rw [Region.Same, State.region_modRegion_same] at hsame
      rw [hsame]
      exact ⟨rfl, rfl⟩
    case phases =>
      intro lost live mode
      obtain ⟨t, he, hp, hm, hclusters⟩ := State.phaseLoss_effect (s := s) (lost := lost) hr
      refine ⟨t, he, hp, hm, fun hne h0 cl hcl => ?_⟩
      intro k u cap
      obtain ⟨v, hv, hvm, ht⟩ := hclusters hne cl hcl
      have hcap : v.stepCap cl = cap := (State.stepCap_of_mode (by rw [hvm]; exact h0)).trans (congrArg Cluster.modeCap hv)
      obtain ⟨-, -, hpaused, hrow, hfb, hstep⟩ := v.modeEnds_effect cl (modeOf ((s.region r).plive - lost))
      rw [← ht] at hpaused
      rw [← ht, hv] at hrow
      rw [← ht, hcap, hv] at hfb hstep
      exact ⟨hpaused, hrow, fun h2 => hfb (hvm.trans h2), hstep⟩
    case rest =>
      intro wanted
      exact ⟨regionSwitchOn_completes hr, exec_rampEnd_due hr, exec_rampEnd_waits hr⟩
  case melt =>
    intro s melt
    exact ⟨fun h => ⟨_, congrArg Host.Outcome.next (if_pos h), State.startRefreeze_rfz _⟩, exec_meltPublish_below⟩

end Sys2Proof.Machine
end

section
/-!
SUPPORT. Messages sent one after another, the requests that a slice takes, and the errors of its arrays that are not met (R31, R72, R75,
R114).
-/

namespace Sys2Proof.Machine

/-! ## Messages on their way -/

theorem NetOnly.refl (s : State) : NetOnly s s := rfl

theorem NetOnly.trans {s t u : State} (h : NetOnly s t) (g : NetOnly t u) : NetOnly s u := by
  rw [NetOnly, h] at g
  exact g

theorem State.sliceLive_congr {s t : State} (hf : t.flash = s.flash) (sl : Nat) : t.sliceLive sl = s.sliceLive sl := by
  simp only [State.sliceLive, State.live, hf]

theorem State.sliceList_congr {s t : State} (hf : t.flash = s.flash) : t.sliceList = s.sliceList := by
  have hl : t.sliceLive = s.sliceLive := funext (State.sliceLive_congr hf)
  simp only [State.sliceList, hf, hl]

/-- The home of a line goes by the map of what is live and by the page table's place (R32, R33). -/
theorem State.homeOf_congr {s t : State} (hf : t.flash = s.flash) (hp : t.ptcfg = s.ptcfg) (ln : Nat) : t.homeOf ln = s.homeOf ln := by
  have hfrom : ∀ k n, State.liveFrom t n k = State.liveFrom s n k := fun k => by
    induction k with
    | zero => exact fun n => rfl
    | succ k ih =>
      intro n
      simp only [State.liveFrom, State.sliceLive_congr hf, ih]
  have hshard : t.shardHome = s.shardHome := funext fun n => by
    unfold State.shardHome
    simp only [State.sliceLive_congr hf, hfrom]
  have hpt : t.inPt ln = s.inPt ln := by
    unfold State.inPt State.ptsh State.ptb
    rw [hp]
  unfold State.homeOf State.ptb State.ptsh
  rw [hpt, hshard, State.sliceList_congr hf, hp]

theorem NetOnly.homeOf {s t : State} (h : NetOnly s t) (ln : Nat) : t.homeOf ln = s.homeOf ln := by
  rw [NetOnly] at h
  exact State.homeOf_congr (by rw [h]) (by rw [h]) ln

theorem NetOnly.homeLine {s t : State} (h : NetOnly s t) (ln : Nat) : t.homeLine ln = s.homeLine ln := by
  rw [NetOnly] at h
  rw [h]
  rfl

theorem NetOnly.qbase {s t : State} (h : NetOnly s t) : t.qbase = s.qbase := by
  rw [NetOnly] at h
  rw [h]

theorem NetOnly.hbm {s t : State} (h : NetOnly s t) : t.hbm = s.hbm := by
  rw [NetOnly] at h
  rw [h]

theorem NetOnly.lineMeta {s t : State} (h : NetOnly s t) (ln : Nat) : t.lineMeta ln = s.lineMeta ln := by
  rw [NetOnly] at h
  rw [h]
  rfl

/-- A message of a body's class is one message more on its way. -/
theorem State.ask_effect (s : State) (src dest : Nat) (b : Body) :
    NetOnly s (s.ask src dest b) ∧ Mails s (s.ask src dest b) src dest b.cls 0 b := s.request_effect src dest b.cls b.flits 0 b

/-- `t` is `s` with messages behind those on their way, of these senders, destinations and bodies. -/
def SendsAll (s t : State) (l : List (Nat × Nat × Body)) : Prop :=
  NetOnly s t ∧ ∃ ns : List Msg, t.transit = s.transit ++ ns ∧ ns.map (fun n => (n.src, n.dest, n.body)) = l

theorem SendsAll.nil (s : State) : SendsAll s s [] := ⟨rfl, [], by simp, rfl⟩

theorem SendsAll.trans {s t u : State} {l k : List (Nat × Nat × Body)} (h : SendsAll s t l) (g : SendsAll t u k) :
    SendsAll s u (l ++ k) := by
  obtain ⟨hn, ns, ht, hl⟩ := h
  obtain ⟨gn, ms, gt, gl⟩ := g
  exact ⟨hn.trans gn, ns ++ ms, by rw [gt, ht, List.append_assoc], by rw [List.map_append, hl, gl]⟩

theorem State.ask_sends (s : State) (src dest : Nat) (b : Body) : SendsAll s (s.ask src dest b) [(src, dest, b)] := by
  obtain ⟨hn, m, ht, hs, hd, -, -, -, -, hb⟩ := s.ask_effect src dest b
  exact ⟨hn, [m], ht, by rw [List.map_singleton, hs, hd, hb]⟩

/-- The messages that a list has sent. -/
theorem foldl_sends {α : Type} {f : State → α → State} {g : α → Nat × Nat × Body} {s : State}
    (hf : ∀ t a, NetOnly s t → SendsAll t (f t a) [g a]) (l : List α) : SendsAll s (l.foldl f s) (l.map g) := by
  suffices ∀ t, NetOnly s t → SendsAll t (l.foldl f t) (l.map g) from this s rfl
  induction l with
  | nil => exact fun t _ => SendsAll.nil t
  | cons a l ih =>
    intro t ht
    have h := hf t a ht
    exact h.trans (ih (f t a) (ht.trans h.1))

/-! ## Errors that are not there to be met (R72) -/

theorem State.meetCorrected_of_clean {s : State} {e : EnvErr} (sl : Nat) (h : e ∉ s.env) : s.meetCorrected sl e = s :=
  if_neg (by simpa using h)

theorem State.meetHomeError_of_clean {s : State} {ln : Nat} (hb : EnvErr.homeBad ln ∉ s.env) (hc : EnvErr.homeCorr ln ∉ s.env) :
    s.meetHomeError ln = s := by
  unfold State.meetHomeError
  rw [State.meetCorrected_of_clean _ hc]
  exact if_neg (by simpa using hb)

theorem State.meetProxyError_of_clean {s : State} {sl ln : Nat} (hb : EnvErr.proxyBad sl ln ∉ s.env)
    (hc : EnvErr.proxyCorr sl ln ∉ s.env) : s.meetProxyError sl ln = s := by
  unfold State.meetProxyError
  rw [State.meetCorrected_of_clean _ hc]
  exact if_neg (by simpa using hb)

/-- A line whose poison does not begin is not counted (R87). -/
theorem State.countPoison_same (s : State) (ln : Nat) (b : Bool) : s.countPoison ln b b = s :=
  if_neg (by simp)

/-! ## Requests that a slice takes (R75, R114) -/

/-- A slice once a request has taken a transaction entry, with no ticket outstanding: the request has left the inbox. -/
def State.entered (s : State) (sl : Nat) (m : Msg) : State := (s.consume m.uid).modSlice sl id

theorem State.entryRule_accepts {s : State} {sl : Nat} {m : Msg} (hc : m.cancel = false) (ht : m.ticket = 0)
    (hu : s.entriesUsed sl < 128) (hn : (s.slice sl).next = (s.slice sl).serve) : s.entryRule sl m = (.accept, s.entered sl m) := by
  have hout : ticketsOut (s.slice sl).serve (s.slice sl).serve = 0 := by simp [ticketsOut]
  have hrule : ticketRule (decide (s.entriesUsed sl < 128)) (s.slice sl).next (s.slice sl).serve m.ticket m.cancel =
      (.accept, (s.slice sl).next, (s.slice sl).serve) := by simp [ticketRule, hc, ht, hu, hn, hout]
  unfold State.entryRule
  simp only [hrule]
  rfl

theorem State.msg?_uid {s : State} {uid : Nat} {m : Msg} (h : s.msg? uid = some m) : m.uid = uid := by
  simpa using List.find?_some h

/-- A request that has come to a slice, which is its line's home or not. -/
theorem State.sliceReq_eq {s : State} {uid sl : Nat} {m : Msg} {r : MemReq} {home : Bool} (hm : s.msg? uid = some m) (hb : m.body = .mem r)
    (hc : m.cancel = false) (hl : sl < 768) (hd : m.dest = epSlice sl) (hh : (sl == s.homeOf r.line) = home) :
    s.sliceReq uid home = some (m, r) := by
  have he : (epSlice sl == epSlice (s.homeOf r.line)) = home := by rw [← hh]; simp [epSlice]
  have hlo : 12288 ≤ epSlice sl := Nat.le_add_right _ _
  have hhi : epSlice sl < 13056 := by unfold epSlice; omega
  unfold State.sliceReq
  simp only [hm, hb, hc, hd, he]
  simp [hlo, hhi]

theorem epSlice_sub (sl : Nat) : epSlice sl - 12288 = sl := Nat.add_sub_cancel_left _ _

/-- Taking a message out of the inbox twice is taking it out once. -/
theorem State.consume_consume (s : State) (uid : Nat) : (s.consume uid).consume uid = s.consume uid := by
  simp [State.consume]

end Sys2Proof.Machine
end

section
/-!
SUPPORT. Lines of a memory: what a line reads as after it was written whole, and that a write of a line leaves the others alone (R30).
-/

namespace Sys2Proof.Machine

/-- A memory's byte after some bytes of a line were written, one by one. -/
theorem Memory.read_foldl_write {m : Memory} (hm : m.wf = true) (a k : Nat) (d : W1024) (mask : BitVec 128) (l : List Nat) :
    (l.foldl (fun m i => if mask.getLsbD i then m.write (a + i) (lineByte d i) else m) m).read (a + k) =
      if k ∈ l ∧ mask.getLsbD k = true then lineByte d k else m.read (a + k) := by
  induction l generalizing m with
  | nil => simp
  | cons i l ih =>
    rw [List.foldl_cons]
    by_cases hi : mask.getLsbD i = true
    · rw [if_pos hi, ih (Memory.wf_write _ _ hm)]
      by_cases hk : k = i
      · subst hk
        simp [hi, Memory.read_write_same _ _ hm]
      · simp [hk, Memory.read_write_other m (lineByte d i) (show a + k ≠ a + i by omega)]
    · rw [if_neg hi, ih hm]
      by_cases hk : k = i
      · subst hk
        simp [hi]
      · simp [hk]

theorem Memory.read_writeLine_other (m : Memory) {a k : Nat} (d : W1024) (mask : BitVec 128) (h : k < a ∨ a + 128 ≤ k) :
    (m.writeLine a d mask).read k = m.read k := by
  have hl : ∀ i ∈ List.range 128, k ≠ a + i := fun i hi => by
    have := List.mem_range.mp hi
    omega
  unfold Memory.writeLine
  generalize List.range 128 = l at hl
  induction l generalizing m with
  | nil => rfl
  | cons i l ih =>
    rw [List.foldl_cons, ih _ fun j hj => hl j (List.mem_cons_of_mem _ hj)]
    split
    · exact Memory.read_write_other m _ (hl i List.mem_cons_self)
    · rfl

/-- Bytes that are those of a number are its little-endian bytes. -/
theorem Memory.bytes_eq_leBytes {m : Memory} {a x n : Nat} (h : ∀ k, k < n → m.read (a + k) = BitVec.ofNat 8 (x / 2 ^ (8 * k))) :
    m.bytes a n = leBytes n x := by
  induction n generalizing a x with
  | zero => rfl
  | succ n ih =>
    rw [Memory.bytes, leBytes, ih (x := x / 256)]
    · rw [show m.read a = _ from h 0 (Nat.succ_pos n)]
      simp
    · intro k hk
      rw [Nat.add_assoc, Nat.add_comm 1 k, h (k + 1) (by omega), Nat.div_div_eq_div_mul, Nat.mul_succ, pow_add, Nat.mul_comm (2 ^ (8 * k))]
      rfl

/-- A line written whole reads as it was written. -/
theorem Memory.line_writeLine {m : Memory} (hm : m.wf = true) (a : Nat) (d : W1024) :
    (m.writeLine a d (BitVec.allOnes 128)).line a = d := by
  have hread : ∀ k, k < 128 → (m.writeLine a d (BitVec.allOnes 128)).read (a + k) = BitVec.ofNat 8 (d.toNat / 2 ^ (8 * k)) := by
    intro k hk
    have h := Memory.read_foldl_write hm a k d (BitVec.allOnes 128) (List.range 128)
    rw [if_pos ⟨List.mem_range.mpr hk, by rw [BitVec.getLsbD_allOnes]; exact decide_eq_true hk⟩] at h
    refine h.trans (BitVec.eq_of_toNat_eq ?_)
    simp [lineByte, BitVec.extractLsb', Nat.shiftRight_eq_div_pow]
  rw [Memory.line, Memory.num, Memory.bytes_eq_leBytes hread, leNat_leBytes, Nat.mod_eq_of_lt d.isLt,
    BitVec.ofNat_toNat, BitVec.setWidth_eq]

end Sys2Proof.Machine
end

section
/-!
PROOFS. What a home does with a request at a line that is there with nothing waiting: its line, its answer and what a write notifies
(R73, R74, R78, R80, R137).
-/

namespace Sys2Proof.Machine

@[simp] theorem State.homeLine_setHome_same (s : State) (ln : Nat) (h : HomeLine) : (s.setHome ln h).homeLine ln = h :=
  SMap.getD_set_same _ _ _ _

theorem State.homeLine_setHome_other (s : State) {ln k : Nat} (h : HomeLine) (hk : k ≠ ln) :
    (s.setHome ln h).homeLine k = s.homeLine k := SMap.getD_set_other _ _ _ hk

theorem State.homeOf_setHome (s : State) (ln k : Nat) (h : HomeLine) : (s.setHome ln h).homeOf k = s.homeOf k :=
  State.homeOf_congr (s := s) (t := s.setHome ln h) rfl rfl k

/-! ## Answers and notes -/

/-- An answer that its sender can tag is one message more on its way. -/
theorem State.post_effect (s : State) {a : Msg} (h : a.tag ≠ 256) : NetOnly s (s.post a) ∧ ∃ b : Msg,
    (s.post a).transit = s.transit ++ [b] ∧ b.src = a.src ∧ b.dest = a.dest ∧ b.cls = a.cls ∧ b.tag = a.tag ∧ b.ticket = a.ticket ∧
      b.cancel = false ∧ b.poison = false ∧ b.body = a.body := by
  unfold State.post State.sendVia
  rw [if_neg h, State.sendMsg_effect]
  exact ⟨rfl, _, rfl, rfl, rfl, rfl, rfl, rfl, rfl, rfl, rfl⟩

/-- What a write to a header line notifies is sent from the line's home (R359, R403). -/
theorem State.notify_sends (s : State) (ln : Nat) :
    SendsAll s (s.notify ln) ((s.notes ln).map fun n => (epSlice (s.homeOf ln), n.1, .hdrNote n.2)) := by
  unfold State.notify State.notes
  dsimp only
  generalize s.qbase.toNat / 128 = b
  by_cases hb : ln < b
  · rw [if_pos hb, if_pos hb]
    exact SendsAll.nil s
  have hq : ln - b < 64 ↔ ln < b + 64 := by omega
  have ho : ln - b < 72 ↔ ln < b + 72 := by omega
  simp only [if_neg hb, hq, ho]
  split
  · exact s.ask_sends _ _ _
  split
  · have h0 : 2 * (ln - b) - 64 = 64 + 2 * (ln - b - 64) := by omega
    have h1 : 2 * (ln - b) - 63 = 65 + 2 * (ln - b - 64) := by omega
    rw [h0, h1]
    exact (s.ask_sends _ _ _).trans (State.ask_sends _ _ _ _)
  · exact SendsAll.nil s

theorem State.notes_congr {s t : State} (h : t.qbase = s.qbase) (ln : Nat) : t.notes ln = s.notes ln := by
  unfold State.notes
  rw [h]

/-- A home's line and answer after an operation, with what a write notifies. -/
def State.answered (s : State) (ln : Nat) (h : HomeLine) (a : Msg) (writes : Bool) : State :=
  let t := (s.setHome ln h).post a
  if writes then t.notify ln else t

theorem State.answered_effect (s : State) (ln : Nat) (h : HomeLine) {a : Msg} (writes : Bool) (ha : a.tag ≠ 256) :
    NetOnly (s.setHome ln h) (s.answered ln h a writes) ∧ ∃ (b : Msg) (ns : List Msg),
      (s.answered ln h a writes).transit = s.transit ++ b :: ns ∧ b.src = a.src ∧ b.dest = a.dest ∧ b.cls = a.cls ∧ b.tag = a.tag ∧
      b.ticket = a.ticket ∧ b.cancel = false ∧ b.poison = false ∧ b.body = a.body ∧ ns.map (fun n => (n.src, n.dest, n.body)) =
        if writes then (s.notes ln).map fun n => (epSlice (s.homeOf ln), n.1, .hdrNote n.2) else [] := by
  obtain ⟨hn, b, ht, hb⟩ := (s.setHome ln h).post_effect ha
  cases writes with
  | false => exact ⟨hn, b, [], ht, by simpa using hb⟩
  | true =>
    obtain ⟨gn, ns, gt, gl⟩ := ((s.setHome ln h).post a).notify_sends ln
    have hnotes : ((s.setHome ln h).post a).notes ln = s.notes ln := State.notes_congr hn.qbase ln
    have hhome : ((s.setHome ln h).post a).homeOf ln = s.homeOf ln := (hn.homeOf ln).trans (s.homeOf_setHome ln ln h)
    rw [hnotes, hhome] at gl
    refine ⟨hn.trans gn, b, ns, gt.trans ?_, ?_⟩
    · rw [ht, List.append_assoc]
      rfl
    · simpa only [if_true, and_assoc] using And.intro hb gl

/-! ## The operation at the head of a line's queue -/

/-- The operations that change a line's data. -/
def MemOp.performs : MemOp → Bool
  | .write | .red _ | .amo _ | .entry _ _ => true
  | _ => false

section HomeOp

variable {s : State} {ln : Nat} {h : HomeLine} {o : HomeOp} {rest : List HomeOp} (hp : h.poison = false) (hup : h.up = none)
include hp hup

theorem State.homeOp_read (ho : o.req.op = .read) (hl : h.logPend = none) (hpx : o.req.px = none) :
    s.homeOp ln h o rest = s.answered ln { h with ops := rest } (mkAnswer (s.homeOf ln) o 0 h.seq (some h.data)) false := by
  unfold State.homeOp
  simp [hp, hup, ho, hl, hpx, State.answered]

/-- A read through a proxy enters the proxy's layer in the line's directory (R77). -/
theorem State.homeOp_readCopy {p : Nat} (ho : o.req.op = .read) (hl : h.logPend = none) (hpx : o.req.px = some p)
    (hL : h.st ≠ some .L) : s.homeOp ln h o rest =
      s.answered ln { h with v := h.v ||| ((1 : BitVec 16) <<< sliceZ p), ops := rest }
        (mkAnswer (s.homeOf ln) o 1 h.seq (some h.data)) false := by
  unfold State.homeOp
  simp [hp, hup, ho, hl, hpx, hL, State.answered]

theorem State.homeOp_grant {op : AmoOp} {ty : ETy} {p : Nat} (ho : o.req.op = .grant op ty) (hl : h.logPend = none)
    (hpx : o.req.px = some p) (hL : h.st ≠ some .L) (hv : h.v = 0) : s.homeOp ln h o rest =
      s.answered ln { h with up := some (op, ty), v := (1 : BitVec 16) <<< sliceZ p, st := some .M, ops := rest }
        (mkAnswer (s.homeOf ln) o 2 h.seq none) false := by
  unfold State.homeOp
  simp [hp, hup, ho, hl, hpx, hL, hv, State.answered]

theorem State.homeOp_lock {k : Nat} (ho : o.req.op = .lock k) (hv : h.v = 0) : s.homeOp ln h o rest =
      s.answered ln { h with busy := .locked k, ops := rest } (mkAnswer (s.homeOf ln) o 0 h.seq (some h.data)) false := by
  unfold State.homeOp
  simp [hp, hup, ho, hv, State.answered, MemOp.consults]

variable {h' : HomeLine} {kind : Nat} {d : Option W1024} (hf : s.performOp o.req h = (h', kind, d))
include hf

/-- An operation that changes a line without copies is performed and answered (R80). -/
theorem State.homeOp_performs (ho : o.req.op.performs = true) (hl : h.logPend = none ∨ o.req.op.consults = false) (hv : h.v = 0) :
    s.homeOp ln h o rest = s.answered ln { h' with ops := rest } (mkAnswer (s.homeOf ln) o kind h'.seq d) true := by
  have hlog : (h.logPend.isSome && o.req.op.consults) = false := by rcases hl with hl | hl <;> simp [hl]
  unfold State.homeOp
  simp only [hp, hup, hv, hf, Bool.and_assoc, hlog, Bool.false_and, Bool.and_false, Bool.false_eq_true, if_false, Option.isSome_none,
    bne_self_eq_false]
  cases hop : o.req.op <;> simp_all [State.answered, MemOp.performs]

/-- A write to a line with copies in its way waits for their invalidation (R78). -/
theorem State.homeOp_write_invalidates (ho : o.req.op = .write) (hl : h.logPend = none) (hv : h.v ≠ 0) : s.homeOp ln h o rest =
      (s.startInval ln { h' with ops := rest } [mkAnswer (s.homeOf ln) o kind h'.seq d]).notify ln := by
  have hv' : (h.v != 0) = true := bne_iff_ne.mpr hv
  unfold State.homeOp
  simp only [hp, hup, ho, hl, hv', hf, Option.isSome_none, Bool.and_false, Bool.false_and, Bool.false_eq_true, if_false, if_true]

end HomeOp

end Sys2Proof.Machine
end

section
/-!
PROOFS. A home at work on a request: what each operation makes of the line (R80), the answer that goes or the invalidations that keep it
back (R73, R82), and the requests that reach it.
-/

namespace Sys2Proof.Machine

/-! ## What an operation makes of a line (R80) -/

/-- A line with a write's bytes. -/
def HomeLine.stored (h : HomeLine) (r : MemReq) : HomeLine :=
  { h with data := merge h.data r.data r.mask, seq := h.seq + 1, st := written h.st, asid := r.asid }

theorem State.performOp_write (s : State) {h : HomeLine} {r : MemReq} (hp : h.poison = false) (ho : r.op = .write) :
    s.performOp r h = (h.stored r, 0, none) := by
  simp [State.performOp, HomeLine.stored, ho, hp]

/-- An element of a line after an atomic or a reduction, with the line's other parts. -/
def HomeLine.updated (h : HomeLine) (r : MemReq) (a : AmoReq) : HomeLine :=
  { h with data := elemUpdate (etyWidth a.ty) h.data r.off (amoNew a), seq := h.seq + 1, st := written h.st, asid := r.asid }

theorem State.performOp_amo (s : State) (h : HomeLine) {r : MemReq} {a : AmoReq} (ho : r.op = .amo a) :
    s.performOp r h = (h.updated r a, 0, some h.data) := by
  simp only [State.performOp, ho]
  rfl

theorem State.performOp_red (s : State) (h : HomeLine) {r : MemReq} {a : AmoReq} (ho : r.op = .red a) :
    s.performOp r h = (h.updated r a, 0, none) := by
  simp only [State.performOp, ho]
  rfl

/-- A line with a forwarded log entry applied (R137). -/
def HomeLine.applied (h : HomeLine) (r : MemReq) (t : Tensor) (e : LogEntry) : HomeLine :=
  { h with data := elemUpdate 32 h.data r.off (fun old => logApply t.fmt e.op old e.val.toNat), seq := h.seq + 1, st := written h.st
           asid := some t.asid }

theorem State.performOp_entry (s : State) (h : HomeLine) {r : MemReq} {k : Nat} {e : LogEntry} (ho : r.op = .entry k e) :
    s.performOp r h = (h.applied r (s.tensor (recTensor k)) e, 0, none) := by
  simp only [State.performOp, ho]
  rfl

/-! ## Handling a line's operations -/

/-- A line that waits, or that has no operation and is there, goes on with nothing. -/
theorem State.homeRun_ends {s : State} {ln : Nat} (h : (s.homeLine ln).busy ≠ .no ∨
    (s.homeLine ln).ops = [] ∧ (s.homeLine ln).st.isSome = true) (k : Nat) : s.homeRun ln k = s := by
  cases k with
  | zero => rfl
  | succ k =>
    rw [State.homeRun]
    rcases h with h | ⟨ho, hs⟩
    · exact if_pos (bne_iff_ne.mpr h)
    · simp only [ho, Option.isNone_eq_false_iff.mpr hs, Bool.false_eq_true, if_false, ite_self]

/-! ## Copies that are called back (R78) -/

theorem State.layerSlices_congr {s t : State} (hf : t.flash = s.flash) (v : BitVec 16) : t.layerSlices v = s.layerSlices v := by
  unfold State.layerSlices
  rw [State.sliceList_congr hf]

/-- Every live slice of the layers of a vector is sent the message. -/
theorem State.callCopies_sends (s : State) (ln : Nat) (v : BitVec 16) (body : Body) :
    SendsAll s (s.callCopies ln v body).1 ((s.layerSlices v).map fun sl => (epSlice (s.homeOf ln), epSlice sl, body)) :=
  foldl_sends (fun t sl h => by rw [← h.homeOf ln]; exact t.ask_sends _ _ _) _

/-- Where a slice is called, the line waits for as many acknowledgements as slices are called. -/
theorem State.startInval_waits {s : State} {ln : Nat} {h : HomeLine} (held : List Msg) (hne : s.layerSlices h.v ≠ []) :
    s.startInval ln h held = (s.callCopies ln h.v (.inval ln)).1.setHome ln
      { h with v := 0, busy := .inval (s.layerSlices h.v).length held } :=
  if_neg (by simpa [State.callCopies] using hne)

section HomeGo

variable {s : State} {ln : Nat} {h : HomeLine} {o : HomeOp} (hl : s.homeLine ln = h) (hb : h.busy = .no) (ho : h.ops = [o])
  (hs : h.st.isSome = true) (hbad : EnvErr.homeBad ln ∉ s.env) (hcorr : EnvErr.homeCorr ln ∉ s.env)
include hl hb ho hs hbad hcorr

theorem State.homeGo_runs : s.homeGo ln = (s.homeOp ln h o []).homeRun ln 5 := by
  unfold State.homeGo
  rw [hl, ho]
  change s.homeRun ln (5 + 1) = _
  rw [State.homeRun]
  simp only [hl, hb, ho, Option.isNone_eq_false_iff.mpr hs, State.meetHomeError_of_clean hbad hcorr, bne_self_eq_false,
    Bool.false_eq_true, if_false]

/-- The one operation of a line, which is answered: after it the line has none, or waits. -/
theorem State.homeGo_answers {h' : HomeLine} {a : Msg} {writes : Bool} (hop : s.homeOp ln h o [] = s.answered ln h' a writes)
    (ha : a.tag ≠ 256) (hend : h'.busy ≠ .no ∨ h'.ops = [] ∧ h'.st.isSome = true) : s.homeGo ln = s.answered ln h' a writes := by
  obtain ⟨hn, -⟩ := s.answered_effect ln h' writes ha
  have hline : (s.answered ln h' a writes).homeLine ln = h' := (hn.homeLine ln).trans (s.homeLine_setHome_same ln h')
  rw [State.homeGo_runs hl hb ho hs hbad hcorr, hop, State.homeRun_ends (by rw [hline]; exact hend)]

/-- The one operation of a line, whose answer waits for an invalidation (R78). -/
theorem State.homeGo_invalidates {h' : HomeLine} {a : Msg} (hop : s.homeOp ln h o [] = (s.startInval ln h' [a]).notify ln)
    (hne : s.layerSlices h'.v ≠ []) :
    (s.homeGo ln).homeLine ln = { h' with v := 0, busy := .inval (s.layerSlices h'.v).length [a] } ∧
      (s.homeGo ln).transit.length = s.transit.length + (s.layerSlices h'.v).length + (s.notes ln).length := by
  have hwait := State.startInval_waits (s := s) (ln := ln) (h := h') [a] hne
  obtain ⟨cn, cs, ct, cl⟩ := s.callCopies_sends ln h'.v (.inval ln)
  obtain ⟨gn, gs, gt, gl⟩ := (s.startInval ln h' [a]).notify_sends ln
  have hline : ((s.startInval ln h' [a]).notify ln).homeLine ln = { h' with v := 0, busy := .inval (s.layerSlices h'.v).length [a] } := by
    rw [gn.homeLine, hwait, State.homeLine_setHome_same]
  have hgo : s.homeGo ln = (s.startInval ln h' [a]).notify ln := by
    rw [State.homeGo_runs hl hb ho hs hbad hcorr, hop, State.homeRun_ends]
    rw [hline]
    exact .inl HBusy.noConfusion
  have hnotes : (s.startInval ln h' [a]).notes ln = s.notes ln := by
    rw [hwait]
    exact State.notes_congr cn.qbase ln
  have htransit : (s.startInval ln h' [a]).transit = s.transit ++ cs := by rw [hwait]; exact ct
  have hns := congrArg List.length gl
  have hcs := congrArg List.length cl
  simp only [List.length_map, hnotes] at hns hcs
  exact ⟨by rw [hgo, hline], by rw [hgo, gt, htransit, List.length_append, List.length_append, hns, hcs]⟩

end HomeGo

/-! ## Requests at a quiet line -/

/-- A request as its home's queue holds it. -/
def HomeOp.ofMsg (m : Msg) (r : MemReq) : HomeOp := { req := r, src := m.src, tag := m.tag }

/-- A quiet line with the one request that it has accepted. -/
def HomeLine.accepting (h : HomeLine) (o : HomeOp) (uid : Nat) : HomeLine := { h with ops := [o], stamp := uid }

/-- The home of a line that has accepted a request, before it handles it. -/
def State.accepting (s : State) (m : Msg) (r : MemReq) (h : HomeLine) : State :=
  (s.entered (s.homeOf r.line) m).setHome r.line (h.accepting (.ofMsg m r) s.uid)

section Accept

variable {s : State} {uid : Nat} {m : Msg} {r : MemReq} {h : HomeLine} (ht : HomeTakes s uid m r)
include ht

theorem HomeTakes.sliceReq : s.sliceReq uid true = some (m, r) := by
  obtain ⟨hm, hb, hc, -, -, hl, hd, -⟩ := ht
  exact State.sliceReq_eq hm hb hc hl hd (beq_self_eq_true _)

theorem State.atHome_accepts {f : MemOp → Bool} (hf : f r.op = true) : s.atHome uid f = .next (s.homeAccept m r) := by
  simp only [State.atHome, ht.sliceReq, hf, if_true]

theorem exec_homeWrite_accepts (ho : r.op = .write ∨ ∃ a, r.op = .amo a) : exec (.homeWrite uid) s = .next (s.homeAccept m r) := by
  change execHomeWrite uid s = _
  rcases ho with ho | ⟨a, ho⟩ <;> simp only [execHomeWrite, ht.sliceReq, ho]

variable (hq : HomeQuiet s r.line h)
include hq

theorem State.homeAccept_accepting : s.homeAccept m r = (s.accepting m r h).homeGo r.line := by
  obtain ⟨-, -, hc, hk, -, -, hd, hu, hn⟩ := ht
  obtain ⟨hl, -, -, ho, -⟩ := hq
  have hl' : (s.entered (s.homeOf r.line) m).homeLine r.line = h := hl
  unfold State.homeAccept
  simp only [hd, epSlice_sub, State.entryRule_accepts hc hk hu hn, hl', ho, List.nil_append]
  rfl

omit hq ht in
theorem mkAnswer_tag (sl : Nat) (o : HomeOp) (kind : Nat) (seq : W32) (d : Option W1024) : (mkAnswer sl o kind seq d).tag = o.tag := rfl

/-- A request whose operation is answered at once is done. -/
theorem homeDone_of_homeOp {h' : HomeLine} {kind : Nat} {seq : W32} {d : Option W1024} {writes : Bool} {body : Body}
    (hop : (s.accepting m r h).homeOp r.line (h.accepting (.ofMsg m r) s.uid) (.ofMsg m r) [] =
      (s.accepting m r h).answered r.line { h' with ops := [], stamp := s.uid }
        (mkAnswer ((s.accepting m r h).homeOf r.line) (.ofMsg m r) kind seq d) writes)
    (hbody : (mkAnswer (s.homeOf r.line) (.ofMsg m r) kind seq d).body = body) (ho : h'.ops = [])
    (hend : h'.busy ≠ .no ∨ h'.st.isSome = true) :
    HomeDone s (s.homeAccept m r) m r.line h' writes (if d.isSome then 1 else 2) body := by
  obtain ⟨-, -, -, -, htag, -, hd, -⟩ := id ht
  obtain ⟨hl, hs, hb, -, -, -, hbad, hcorr⟩ := id hq
  have hhome : (s.accepting m r h).homeOf r.line = s.homeOf r.line :=
    State.homeOf_congr (s := s) (t := s.accepting m r h) rfl rfl r.line
  have hnotes : (s.accepting m r h).notes r.line = s.notes r.line := State.notes_congr (s := s) (t := s.accepting m r h) rfl r.line
  have hans : (mkAnswer ((s.accepting m r h).homeOf r.line) (.ofMsg m r) kind seq d).tag ≠ 256 := by rw [mkAnswer_tag]; exact htag
  have hline : (s.accepting m r h).homeLine r.line = h.accepting (.ofMsg m r) s.uid := State.homeLine_setHome_same _ _ _
  have hgo := State.homeGo_answers hline hb rfl hs hbad hcorr hop hans (hend.imp_right fun h => ⟨rfl, h⟩)
  rw [State.homeAccept_accepting ht hq, hgo]
  obtain ⟨gn, b, ns, gt, gs, gd, gc, gtag, gk, -, gp, gb, gl⟩ := (s.accepting m r h).answered_effect r.line { h' with ops := [], stamp := s.uid } writes hans
  rw [hhome] at *
  generalize (s.accepting m r h).answered _ _ _ _ = t at *
  refine ⟨?_, ?_, fun k hk => ?_, b, ns, gt, gs.trans hd.symm, gd, gc, gtag, gk, gp, gb.trans hbody, ?_⟩
  · rw [NetOnly] at gn ⊢
    rw [gn]
    rfl
  · rw [gn.homeLine, State.homeLine_setHome_same, ← ho]
  · rw [gn.homeLine, State.homeLine_setHome_other _ _ hk]
    exact State.homeLine_setHome_other _ _ hk
  · rw [hd, gl, hnotes]

omit ht hq in
/-- The answer to an operation that is no part of the logs (R74). -/
theorem mkAnswer_ans (sl : Nat) {o : HomeOp} (kind : Nat) (seq : W32) (d : Option W1024) (ho : o.req.op = .read ∨ o.req.op = .write ∨
    (∃ a, o.req.op = .amo a) ∨ (∃ a, o.req.op = .red a) ∨ ∃ op ty, o.req.op = .grant op ty) :
    (mkAnswer sl o kind seq d).body = .ans o.req.who kind seq false d o.req := by
  unfold mkAnswer
  rcases ho with ho | ho | ⟨a, ho⟩ | ⟨a, ho⟩ | ⟨op, ty, ho⟩ <;> simp only [ho]

end Accept

theorem written_isSome (st : Option LineSt) : (written st).isSome = true := by
  unfold written
  split <;> rfl

/-- A write with copies in its way: the line waits for their invalidations with the answer kept back (R78). -/
theorem homeWrite_invalidates {s : State} {uid : Nat} {m : Msg} {r : MemReq} {h : HomeLine} (ht : HomeTakes s uid m r)
    (hq : HomeQuiet s r.line h) (ho : r.op = .write) (hl : h.logPend = none) (hv : h.v ≠ 0) (hne : s.layerSlices h.v ≠ []) :
    ∃ a : Msg, (s.homeAccept m r).homeLine r.line =
        { h with data := merge h.data r.data r.mask, seq := h.seq + 1, st := written h.st, asid := r.asid, v := 0
                 busy := .inval (s.layerSlices h.v).length [a], stamp := s.uid } ∧
      a.dest = m.src ∧ a.body = .ans r.who 0 (h.seq + 1) false none r ∧
      (s.homeAccept m r).transit.length = s.transit.length + (s.layerSlices h.v).length + (s.notes r.line).length := by
  obtain ⟨-, hs, hb, hops, hp, hup, hbad, hcorr⟩ := id hq
  have hline : (s.accepting m r h).homeLine r.line = h.accepting (.ofMsg m r) s.uid := State.homeLine_setHome_same _ _ _
  have hslices := State.layerSlices_congr (s := s) (t := s.accepting m r h) rfl h.v
  have hnotes := State.notes_congr (s := s) (t := s.accepting m r h) rfl r.line
  have hop := State.homeOp_write_invalidates (s := s.accepting m r h) (ln := r.line) (h := h.accepting (.ofMsg m r) s.uid)
    (o := .ofMsg m r) (rest := []) hp hup (State.performOp_write _ hp ho) ho hl hv
  obtain ⟨gl, gt⟩ := State.homeGo_invalidates hline hb rfl hs hbad hcorr hop (by rw [← hslices] at hne; exact hne)
  rw [State.homeAccept_accepting ht hq]
  have hans := mkAnswer_ans ((s.accepting m r h).homeOf r.line) (o := .ofMsg m r) 0 (h.seq + 1) none (.inr (.inl ho))
  refine ⟨mkAnswer ((s.accepting m r h).homeOf r.line) (.ofMsg m r) 0 (h.seq + 1) none, gl.trans ?_, rfl, hans, gt.trans ?_⟩
  · rw [← hslices]
    simp only [HomeLine.accepting, HomeLine.stored, HomeOp.ofMsg, hops]
  · rw [← hslices, ← hnotes]
    rfl

end Sys2Proof.Machine
end

section
/-!
PROOFS. The requests that a home completes at a line with nothing waiting, one by one (R73, R74, R80, R137).
-/

namespace Sys2Proof.Machine

section Quiet

variable {s : State} {uid : Nat} {m : Msg} {r : MemReq} {h : HomeLine} (ht : HomeTakes s uid m r) (hq : HomeQuiet s r.line h)
include ht hq

/-- A read is answered with the line (R74, R80). -/
theorem homeRead_done (ho : r.op = .read) (hl : h.logPend = none) (hpx : r.px = none) : ∃ t, exec (.homeRead uid) s = .next t ∧
    HomeDone s t m r.line h false 1 (.ans r.who 0 h.seq false (some h.data) r) := by
  obtain ⟨-, hs, -, hops, hp, hup, -, -⟩ := id hq
  have hop := State.homeOp_read (s := s.accepting m r h) (ln := r.line) (h := h.accepting (.ofMsg m r) s.uid) (o := .ofMsg m r)
    (rest := []) hp hup ho hl hpx
  exact ⟨_, State.atHome_accepts ht (f := MemOp.isRead) (by rw [ho]; rfl),
    homeDone_of_homeOp ht hq (h' := h) hop (mkAnswer_ans _ _ _ _ (.inl ho)) hops (.inr hs)⟩

/-- A read through a proxy is answered with the line, of which the proxy may keep a copy (R76, R77). -/
theorem homeRead_copies {p : Nat} (ho : r.op = .read) (hl : h.logPend = none) (hpx : r.px = some p) (hL : h.st ≠ some .L) :
    ∃ t, exec (.homeRead uid) s = .next t ∧ HomeDone s t m r.line { h with v := h.v ||| ((1 : BitVec 16) <<< sliceZ p) } false 1
      (.ans r.who 1 h.seq false (some h.data) r) := by
  obtain ⟨-, hs, -, hops, hp, hup, -, -⟩ := id hq
  have hop := State.homeOp_readCopy (s := s.accepting m r h) (ln := r.line) (h := h.accepting (.ofMsg m r) s.uid) (o := .ofMsg m r)
    (rest := []) hp hup ho hl hpx hL
  exact ⟨_, State.atHome_accepts ht (f := MemOp.isRead) (by rw [ho]; rfl),
    homeDone_of_homeOp ht hq (h' := { h with v := h.v ||| ((1 : BitVec 16) <<< sliceZ p) }) hop (mkAnswer_ans _ _ _ _ (.inl ho)) hops
      (.inr hs)⟩

/-- An operation that changes a line without copies is answered, with what it notifies. -/
theorem homeDone_of_performs {h' : HomeLine} {kind : Nat} {d : Option W1024} {body : Body} (ho : r.op.performs = true)
    (hl : h.logPend = none ∨ r.op.consults = false) (hv : h.v = 0)
    (hf : (s.accepting m r h).performOp r (h.accepting (.ofMsg m r) s.uid) = (h'.accepting (.ofMsg m r) s.uid, kind, d))
    (hbody : (mkAnswer (s.homeOf r.line) (.ofMsg m r) kind h'.seq d).body = body) (hops : h'.ops = []) (hs : h'.st.isSome = true) :
    HomeDone s (s.homeAccept m r) m r.line h' true (if d.isSome then 1 else 2) body := by
  obtain ⟨-, -, -, -, hp, hup, -, -⟩ := id hq
  have hop := State.homeOp_performs (s := s.accepting m r h) (ln := r.line) (h := h.accepting (.ofMsg m r) s.uid) (o := .ofMsg m r)
    (rest := []) hp hup hf ho hl hv
  exact homeDone_of_homeOp ht hq hop hbody hops (.inr hs)

/-- A reduction line is granted (R80, R81). -/
theorem homeGrant_done {op : AmoOp} {ty : ETy} {p : Nat} (ho : r.op = .grant op ty) (hpx : r.px = some p) (hl : h.logPend = none)
    (hv : h.v = 0) (hL : h.st ≠ some .L) : ∃ t, exec (.uGrantRequest uid) s = .next t ∧
      HomeDone s t m r.line { h with up := some (op, ty), v := (1 : BitVec 16) <<< sliceZ p, st := some .M } false 2
        (.ans r.who 2 h.seq false none r) := by
  obtain ⟨-, hs, -, hops, hp, hup, -, -⟩ := id hq
  have hop := State.homeOp_grant (s := s.accepting m r h) (ln := r.line) (h := h.accepting (.ofMsg m r) s.uid) (o := .ofMsg m r)
    (rest := []) hp hup ho hl hpx hL hv
  exact ⟨_, State.atHome_accepts ht (f := MemOp.isGrant) (by rw [ho]; rfl),
    homeDone_of_homeOp ht hq (h' := { h with up := some (op, ty), v := (1 : BitVec 16) <<< sliceZ p, st := some .M }) hop
      (mkAnswer_ans _ _ _ _ (.inr (.inr (.inr (.inr ⟨op, ty, ho⟩))))) hops (.inr rfl)⟩

/-- The storer's read holds the line (R137). -/
theorem homeLock_done {k : Nat} (ho : r.op = .lock k) (hv : h.v = 0) : ∃ t, exec (.lockingRead uid) s = .next t ∧
    HomeDone s t m r.line { h with busy := .locked k } false 1 (.lockAns k r.line (some h.data)) := by
  obtain ⟨-, -, -, hops, hp, hup, -, -⟩ := id hq
  have hop := State.homeOp_lock (s := s.accepting m r h) (ln := r.line) (h := h.accepting (.ofMsg m r) s.uid) (o := .ofMsg m r)
    (rest := []) hp hup ho hv
  have hbody : (mkAnswer (s.homeOf r.line) (.ofMsg m r) 0 h.seq (some h.data)).body = .lockAns k r.line (some h.data) := by
    simp [mkAnswer, HomeOp.ofMsg, ho]
  exact ⟨_, State.atHome_accepts ht (f := MemOp.isLock) (by rw [ho]; rfl),
    homeDone_of_homeOp ht hq (h' := { h with busy := .locked k }) hop hbody hops (.inl HBusy.noConfusion)⟩

/-- A write is merged into a line without copies (R80). -/
theorem homeWrite_done (ho : r.op = .write) (hl : h.logPend = none) (hv : h.v = 0) : ∃ t, exec (.homeWrite uid) s = .next t ∧
    HomeDone s t m r.line (h.stored r) true 2 (.ans r.who 0 (h.seq + 1) false none r) := by
  obtain ⟨-, -, -, hops, hp, -⟩ := id hq
  exact ⟨_, exec_homeWrite_accepts ht (.inl ho), homeDone_of_performs ht hq (h' := h.stored r) (by rw [ho]; rfl) (.inl hl) hv
    (State.performOp_write _ hp ho) (mkAnswer_ans _ _ _ _ (.inr (.inl ho))) hops (written_isSome h.st)⟩

/-- An AMO updates its element and is answered with the line of before (R80, R305). -/
theorem homeAmo_done {a : AmoReq} (ho : r.op = .amo a) (hl : h.logPend = none) (hv : h.v = 0) :
    ∃ t, exec (.homeWrite uid) s = .next t ∧
      HomeDone s t m r.line (h.updated r a) true 1 (.ans r.who 0 (h.seq + 1) false (some h.data) r) := by
  obtain ⟨-, -, -, hops, -⟩ := id hq
  exact ⟨_, exec_homeWrite_accepts ht (.inr ⟨a, ho⟩), homeDone_of_performs ht hq (h' := h.updated r a) (by rw [ho]; rfl) (.inl hl) hv
    (State.performOp_amo _ _ ho) (mkAnswer_ans _ _ _ _ (.inr (.inr (.inl ⟨a, ho⟩)))) hops (written_isSome h.st)⟩

theorem homeRed_done {a : AmoReq} (ho : r.op = .red a) (hl : h.logPend = none) (hv : h.v = 0) :
    ∃ t, exec (.homeRed uid) s = .next t ∧
      HomeDone s t m r.line (h.updated r a) true 2 (.ans r.who 0 (h.seq + 1) false none r) := by
  obtain ⟨-, -, -, hops, -⟩ := id hq
  exact ⟨_, State.atHome_accepts ht (f := MemOp.isRed) (by rw [ho]; rfl),
    homeDone_of_performs ht hq (h' := h.updated r a) (by rw [ho]; rfl) (.inl hl) hv (State.performOp_red _ _ ho)
      (mkAnswer_ans _ _ _ _ (.inr (.inr (.inr (.inl ⟨a, ho⟩))))) hops (written_isSome h.st)⟩

/-- A forwarded log entry is applied and acknowledged (R130, R137). -/
theorem homeEntry_done {k : Nat} {e : LogEntry} (ho : r.op = .entry k e) (hv : h.v = 0) :
    ∃ t, exec (.lineHomeLogEntry uid) s = .next t ∧
      HomeDone s t m r.line (h.applied r (s.tensor (recTensor k)) e) true 2 (.fwdAck k r.line) := by
  obtain ⟨-, -, -, hops, -⟩ := id hq
  have hbody : (mkAnswer (s.homeOf r.line) (.ofMsg m r) 0 (h.seq + 1) none).body = .fwdAck k r.line := by
    simp [mkAnswer, HomeOp.ofMsg, ho]
  exact ⟨_, State.atHome_accepts ht (f := MemOp.isEntry) (by rw [ho]; rfl),
    homeDone_of_performs ht hq (h' := h.applied r (s.tensor (recTensor k)) e) (by rw [ho]; rfl) (.inr (by rw [ho]; rfl)) hv
      (State.performOp_entry _ _ ho) hbody hops (written_isSome h.st)⟩

end Quiet

end Sys2Proof.Machine
end

section
/-!
PROOFS. What the HBM controllers do, and the ends of a home's waits: fills, write-backs, invalidations, recalls and partial flushes (R31,
R71, R72, R78, R82, R83).
-/

namespace Sys2Proof.Machine

/-! ## The HBM controllers (R31) -/

theorem State.lineMeta_setLineMeta_same (s : State) (ln : Nat) (x : LineMeta) : (s.setLineMeta ln x).lineMeta ln = x :=
  SMap.getD_set_same _ _ _ _

theorem State.lineMeta_setLineMeta_other (s : State) {ln k : Nat} (x : LineMeta) (h : k ≠ ln) :
    (s.setLineMeta ln x).lineMeta k = s.lineMeta k := SMap.getD_set_other _ _ _ h

/-- The state after a write to a line's HBM, whose message has been taken: HBM is `x`, and the line's metadata are those written. -/
def State.hbmStored (s : State) (uid ln : Nat) (x : Memory) (q : W32) (p : Bool) : State :=
  State.setLineMeta { s.consume uid with hbm := x } ln { s.lineMeta ln with seq := q, poison := p }

theorem State.hbmStored_effect (s : State) (uid ln : Nat) (x : Memory) (q : W32) (p : Bool) : let t := s.hbmStored uid ln x q p
    t = { s.consume uid with hbm := t.hbm, hmeta := t.hmeta } ∧ t.hbm = x ∧
      t.lineMeta ln = { s.lineMeta ln with seq := q, poison := p } ∧ ∀ k, k ≠ ln → t.lineMeta k = s.lineMeta k :=
  ⟨rfl, rfl, State.lineMeta_setLineMeta_same _ _ _, fun _ hk => State.lineMeta_setLineMeta_other _ _ hk⟩

section Hbm

variable {s u : State} {uid ln : Nat} {m : Msg} (hd : s.deliver uid = u) (hm : u.msg? uid = some m) (hlo : 12288 ≤ m.dest)
  (hh : m.dest ≠ epHost)
include hd hm hlo hh

/-- A message that is delivered at an endpoint of the base die other than the host's, or at a slice, is served there. -/
theorem exec_messageDelivery_serves : exec (.messageDelivery uid) s = .next (u.serve m) := by
  have hc : decide (m.dest < 12288) = false := decide_eq_false (Nat.not_lt.mpr hlo)
  change execMessageDelivery uid s = _
  simp only [execMessageDelivery, hd, hm, hc, hh, Bool.false_and, Bool.false_eq_true, if_false]

theorem exec_messageDelivery_hbmRd (hb : m.body = .hbmRd ln) (hbad : EnvErr.hbmBad ln ∉ u.env) (hcorr : EnvErr.hbmCorr ln ∉ u.env) :
    exec (.messageDelivery uid) s = .next ((u.consume uid).answer m.dest m.src 1 3 m.tag
      (.hbmData ln (u.hbm.line (128 * ln)) (u.lineMeta ln).seq (u.lineMeta ln).poison)) := by
  have hbad' : u.env.contains (.hbmBad ln) = false := by simpa using hbad
  have hcorr' : u.env.contains (.hbmCorr ln) = false := by simpa using hcorr
  rw [exec_messageDelivery_serves hd hm hlo hh, State.serve, hb, ← State.msg?_uid hm]
  change Host.Outcome.next (u.hbmServe m) = _
  rw [State.hbmServe, hb]
  have henv : (u.consume m.uid).env = u.env := rfl
  simp only [henv, hbad', hcorr', Bool.false_eq_true, if_false, Bool.or_false]
  rfl

theorem exec_messageDelivery_hbmWr {d : W1024} {q : W32} {p : Bool} (hb : m.body = .hbmWr ln d q p) :
    exec (.messageDelivery uid) s = .next
      ((u.hbmStored uid ln (u.hbm.writeLine (128 * ln) d (BitVec.allOnes 128)) q p).answer m.dest m.src 2 1 m.tag (.hbmWrote ln)) := by
  rw [exec_messageDelivery_serves hd hm hlo hh, State.serve, hb, ← State.msg?_uid hm]
  change Host.Outcome.next (u.hbmServe m) = _
  rw [State.hbmServe, hb]
  rfl

end Hbm

/-! ## Fills and write-backs (R71) -/

/-- A line as HBM sent it, with the operations that waited for it. -/
def HomeLine.filled (h : HomeLine) (d : W1024) (q : W32) : HomeLine :=
  { h with st := some .S, data := d, v := 0, up := none, poison := false, seq := q, logPend := none, asid := none, busy := .no }

/-- A line that HBM has sent is installed, and the read that waited is answered. -/
theorem State.hbmFill_answers {s : State} {ln : Nat} {h : HomeLine} {o : HomeOp} {b : Msg} {d : W1024} {q : W32} (hl : s.homeLine ln = h)
    (hf : h.busy = .fill) (hs : h.st = none) (hops : h.ops = [o]) (ho : o.req.op = .read) (hpx : o.req.px = none)
    (has : o.req.asid = none) (htag : o.tag ≠ 256) (hb : s.hbmAnswer ln = some b) (hbody : b.body = .hbmData ln d q false)
    (hway : (s.setMates ln).length < 12) (hlog : (s.lineMeta ln).logPend = none) (hbad : EnvErr.homeBad ln ∉ s.env)
    (hcorr : EnvErr.homeCorr ln ∉ s.env) : s.hbmFill ln = State.answered ((s.consume b.uid).setHome ln (h.filled d q)) ln
      { h.filled d q with ops := [] } (mkAnswer (s.homeOf ln) o 0 q (some d)) false := by
  have hfill : s.hbmFill ln = ((s.consume b.uid).setHome ln (h.filled d q)).homeGo ln := by
    have hline : (s.consume b.uid).homeLine ln = h := hl
    have hmeta : (s.consume b.uid).lineMeta ln = s.lineMeta ln := rfl
    unfold State.hbmFill
    simp only [hb, hbody, hl, hf, bne_self_eq_false, Bool.false_eq_true, if_false, hway, decide_true, Bool.or_true, if_true]
    unfold State.installLine
    have hcount : (s.consume b.uid).countPoison ln (s.lineMeta ln).poison false = s.consume b.uid := if_neg (by simp)
    simp only [hcount, hl, hs, hops, hmeta, hlog, Option.isSome_none, Bool.false_eq_true, if_false, List.head?_cons, Option.bind_some, has]
    simp only [State.chargeHbm, Option.bind_none, HomeLine.filled, hops]
  have hop := State.homeOp_read (s := (s.consume b.uid).setHome ln (h.filled d q)) (ln := ln) (h := h.filled d q) (o := o) (rest := [])
    rfl rfl ho rfl hpx
  have hhome : ((s.consume b.uid).setHome ln (h.filled d q)).homeOf ln = s.homeOf ln :=
    State.homeOf_congr (s := s) (t := (s.consume b.uid).setHome ln (h.filled d q)) rfl rfl ln
  rw [hhome] at hop
  have htag' : (mkAnswer (s.homeOf ln) o 0 q (some d)).tag ≠ 256 := by rw [mkAnswer_tag]; exact htag
  have hline : ((s.consume b.uid).setHome ln (h.filled d q)).homeLine ln = h.filled d q := State.homeLine_setHome_same _ _ _
  exact hfill.trans (State.homeGo_answers hline rfl hops rfl hbad hcorr hop htag' (.inr ⟨rfl, rfl⟩))

/-- A line that is not at its home and has no operation is no longer listed. -/
theorem State.homeGo_gone {s : State} {ln : Nat} (h : s.homeLine ln = .reset) : s.homeGo ln = { s with home := SMap.erase s.home ln } := by
  unfold State.homeGo
  rw [h]
  change s.homeRun ln (3 + 1) = _
  rw [State.homeRun]
  simp only [h]
  rfl

/-- A victim without a log whose data are written leaves its way (R71). -/
theorem State.writebackDone_leaves {s : State} {ln : Nat} {h : HomeLine} {b : Msg} (hl : s.homeLine ln = h) (hb : h.busy = .wb)
    (hops : h.ops = []) (hs : h.st = some .M) (has : h.asid = none)
    (hf : s.inbox.find? (fun m => m.body == .hbmWrote ln) = some b) :
    let u := ((s.consume b.uid).setLineMeta ln
      { s.lineMeta ln with logPend := h.logPend, poison := (s.lineMeta ln).poison || b.poison }).setHome ln .reset
    s.writebackDone ln = { u with home := SMap.erase u.home ln } := by
  intro u
  have hgo : s.writebackDone ln = u.homeGo ln := by
    unfold State.writebackDone
    simp only [hf, hl, hb, hs, has, hops, bne_self_eq_false, Bool.false_eq_true, if_false]
    rfl
  rw [hgo, State.homeGo_gone (State.homeLine_setHome_same _ _ _)]

/-! ## Acknowledgements (R78, R82) -/

section Ack

variable {s : State} {uid ln : Nat} {m : Msg} {p : UPart} {h : HomeLine} (hm : s.msg? uid = some m) (hb : m.body = .ack ln p)
  (hl : s.homeLine ln = h)
include hm hb

theorem exec_invalidationAck : exec (.invalidationAck uid) s = .next ((s.consume uid).copyAcked ln p) := by
  change execInvalidationAck uid s = _
  simp only [execInvalidationAck, hm, hb]

include hl

theorem exec_invalidationAck_more {n : Nat} {held : List Msg} (hi : h.busy = .inval n held) (hn : 1 < n) :
    exec (.invalidationAck uid) s = .next ((s.consume uid).setHome ln { h with busy := .inval (n - 1) held }) := by
  have hline : (s.consume uid).homeLine ln = h := hl
  rw [exec_invalidationAck hm hb, State.copyAcked]
  simp only [hline, hi, Nat.not_le.mpr hn, if_false]

theorem exec_invalidationAck_recall {n : Nat} {parts : List UPart} (hi : h.busy = .recall n parts) :
    exec (.invalidationAck uid) s = .next ((s.consume uid).setHome ln { h with busy := .recall (n - 1) (parts ++ [p]) }) := by
  have hline : (s.consume uid).homeLine ln = h := hl
  rw [exec_invalidationAck hm hb, State.copyAcked]
  simp only [hline, hi]

/-- The last acknowledgement lets the answer go that was kept back. -/
theorem exec_invalidationAck_last {a : Msg} (hi : h.busy = .inval 1 [a]) (ha : a.tag ≠ 256) (hops : h.ops = [])
    (hs : h.st.isSome = true) :
    exec (.invalidationAck uid) s = .next (((s.consume uid).setHome ln { h with busy := .no }).post a) := by
  have hline : (s.consume uid).homeLine ln = h := hl
  obtain ⟨hn, -⟩ := ((s.consume uid).setHome ln { h with busy := .no }).post_effect ha
  have hend : (((s.consume uid).setHome ln { h with busy := .no }).post a).homeLine ln = { h with busy := .no } :=
    (hn.homeLine ln).trans (State.homeLine_setHome_same _ _ _)
  rw [exec_invalidationAck hm hb, State.copyAcked]
  simp only [hline, hi, Nat.le_refl, if_true, List.foldl_cons, List.foldl_nil]
  rw [State.homeGo, State.homeRun_ends (.inr (by rw [hend]; exact ⟨hops, hs⟩))]

end Ack

/-! ## Copies folded in (R82, R83) -/

/-- A line with the partials of one reduction copy folded in. -/
def HomeLine.folded (h : HomeLine) (u : AmoOp × ETy) (p : UPart) : HomeLine :=
  { h with data := foldCopy u h.data p.touched p.part, seq := h.seq + 1, st := written h.st, asid := p.asid }

theorem HomeLine.fold_touched (h : HomeLine) (u : AmoOp × ETy) {p : UPart} (ht : p.touched ≠ 0) (hp : p.poison = false) :
    h.fold u p = h.folded u p := by
  rw [HomeLine.fold, if_neg ht, hp, Bool.or_false]
  rfl

theorem written_written (st : Option LineSt) : written (written st) = written st := by
  unfold written
  by_cases h : st = some .L <;> simp [h]

/-- The recalled copy of a line is folded in, and the line is no reduction line (R82). -/
theorem State.recallFold_folds {s : State} {ln : Nat} {h : HomeLine} {u : AmoOp × ETy} {p : UPart} (hl : s.homeLine ln = h)
    (hf : s.flying ln = []) (hb : h.busy = .recall 0 [p]) (ht : p.touched ≠ 0) (hp : p.poison = false) (hu : h.up = some u)
    (hops : h.ops = []) : s.recallFold ln = s.setHome ln { h.folded u p with up := none, v := 0, busy := .no } := by
  have hend : (s.setHome ln { h.folded u p with up := none, v := 0, busy := .no }).homeGo ln =
      s.setHome ln { h.folded u p with up := none, v := 0, busy := .no } :=
    State.homeRun_ends (.inr (by rw [State.homeLine_setHome_same]; exact ⟨hops, written_isSome h.st⟩)) _
  have hpoison : (h.folded u p).poison = h.poison := rfl
  have hst : written (h.folded u p).st = (h.folded u p).st := written_written h.st
  unfold State.recallFold
  simp only [hf, hl, hb, hu, List.isEmpty_nil, Bool.not_true, Bool.false_eq_true, if_false, List.foldr_cons, List.foldr_nil, insertPart,
    List.foldl_cons, List.foldl_nil, h.fold_touched u ht hp, hpoison, hst, State.countPoison_same]
  exact hend

/-- A partial flush is folded in at once, whatever the line waits for (R83). -/
theorem State.foldFlush_folds {s : State} {ln : Nat} {u : AmoOp × ETy} {p : UPart} (ht : p.touched ≠ 0) (hp : p.poison = false) :
    ∃ v up, s.foldFlush ln u p = s.setHome ln { (s.homeLine ln).folded u p with v, up, stamp := s.uid } := by
  have hpoison : ((s.homeLine ln).folded u p).poison = (s.homeLine ln).poison := rfl
  unfold State.foldFlush
  simp only [HomeLine.fold_touched _ u ht hp, hpoison, State.countPoison_same]
  exact ⟨_, _, rfl⟩

theorem exec_partialFlush {s : State} {uid : Nat} {m : Msg} {r : MemReq} {u : AmoOp × ETy} {p : UPart}
    (hr : s.sliceReq uid true = some (m, r)) (ho : r.op = .flush u p) (hk : m.ticket = 0) (hs : (s.homeLine r.line).st.isSome = true)
    (hb : (s.homeLine r.line).busy ≠ .fill) (hbad : EnvErr.homeBad r.line ∉ s.env) (hcorr : EnvErr.homeCorr r.line ∉ s.env) :
    exec (.partialFlush uid) s = .next (((s.consume uid).foldFlush r.line u p).answer m.dest m.src 2 1 m.tag
      (.ok ((((s.consume uid).foldFlush r.line u p).homeLine r.line).seq).toNat)) := by
  have hb' : ((s.homeLine r.line).busy != .fill) = true := bne_iff_ne.mpr hb
  change execPartialFlush uid s = _
  simp only [execPartialFlush, hr, ho, hs, if_true, State.meetHomeError_of_clean hbad hcorr, hb', hk, decide_true, Bool.and_self]

end Sys2Proof.Machine
end

section
/-!
PROOFS. Homes: the statement, from the parts above.
-/

namespace Sys2Proof.Machine

/-- Settles O38: a request at a quiet line by the operation it is (`homeDone_of_homeOp`, and `homeWrite_invalidates` where copies are in its
way); the HBM controllers by what they serve; the end of each wait by what it makes of the line. -/
theorem homesComplete : Obligations.HomesComplete := by
  unfold Obligations.HomesComplete
  refine ⟨?requests, fun s ln hln => ⟨?hbm, ?fill, ?writeback, ?ack, ?fold, ?flush⟩⟩
  case requests =>
    intro s uid m r h ht hq
    refine ⟨fun ho hl => ⟨homeRead_done ht hq ho hl, fun p => homeRead_copies ht hq ho hl⟩, fun ho hl => ⟨homeWrite_done ht hq ho hl, fun hv hne => ?_⟩,
      fun a => homeAmo_done ht hq, fun a => homeRed_done ht hq, fun op ty sl => homeGrant_done ht hq, fun k => homeLock_done ht hq,
      fun k e => homeEntry_done ht hq⟩
    obtain ⟨a, ha⟩ := homeWrite_invalidates ht hq ho hl hv hne
    exact ⟨_, a, exec_homeWrite_accepts ht (.inl ho), ha⟩
  case hbm =>
    intro uid m u hm hlo hh
    have hd : s.deliver uid = u := rfl
    clear_value u
    refine ⟨fun hb hbad hcorr => ⟨_, exec_messageDelivery_hbmRd hd hm hlo hh hb hbad hcorr, State.answer_effect _ _ _ _ _ _ _⟩,
      fun d q p hb hwf => ?_⟩
    have he := exec_messageDelivery_hbmWr hd hm hlo hh hb
    have hline := Memory.line_writeLine hwf (128 * ln) d
    have hother : ∀ a, a / 128 ≠ ln → (u.hbm.writeLine (128 * ln) d (BitVec.allOnes 128)).read a = u.hbm.read a :=
      fun a ha => Memory.read_writeLine_other _ _ _ (by omega)
    generalize u.hbm.writeLine (128 * ln) d (BitVec.allOnes 128) = x at he hline hother
    obtain ⟨hw, hx, hmeta, hmetas⟩ := u.hbmStored_effect uid ln x q p
    generalize u.hbmStored uid ln x q p = w at he hw hx hmeta hmetas
    obtain ⟨hn, hmail⟩ := w.answer_effect m.dest m.src 2 1 m.tag (.hbmWrote ln)
    generalize w.answer _ _ _ _ _ _ = t at he hn hmail
    refine ⟨t, he, ?_, ?_, fun a ha => ?_, ?_, fun k hk => ?_, hmail.of_transit (by rw [hw]; rfl)⟩
    · rw [NetOnly] at hn ⊢
      rw [hn, hw]
    · rw [hn.hbm, hx, hline]
    · rw [hn.hbm, hx, hother a ha]
    · rw [hn.lineMeta, hmeta]
    · rw [hn.lineMeta, hmetas k hk]
  case fill =>
    intro o b d q hf hs hops ho hol hpx has htag hb hbody hway hlog hbad hcorr
    have he := State.hbmFill_answers rfl hf hs hops ho hpx has htag hb hbody hway hlog hbad hcorr
    have hans : (mkAnswer (s.homeOf ln) o 0 q (some d)).tag ≠ 256 := by rw [mkAnswer_tag]; exact htag
    obtain ⟨hn, a, ns, ht, hsrc, hdest, hcls, -, htk, hcan, hpo, hbo, hns⟩ :=
      ((s.consume b.uid).setHome ln ((s.homeLine ln).filled d q)).answered_effect ln { (s.homeLine ln).filled d q with ops := [] } false hans
    generalize State.answered _ _ _ _ _ = t at he hn ht
    obtain rfl : ns = [] := by simpa using hns
    refine ⟨t, (if_pos (decide_eq_true hln)).trans (congrArg _ he), ?_, ?_, fun k hk => ?_, a, ht, hsrc, hdest, hcls, htk, hcan, hpo,
      hbo.trans (mkAnswer_ans _ _ _ _ (.inl ho))⟩
    · rw [NetOnly] at hn ⊢
      rw [hn]
      rfl
    · rw [hn.homeLine, State.homeLine_setHome_same]
      rfl
    · rw [hn.homeLine, State.homeLine_setHome_other _ _ hk]
      exact State.homeLine_setHome_other _ _ hk
  case writeback =>
    intro b hb hops hs has hf
    refine ⟨_, (if_pos (decide_eq_true hln)).trans (congrArg _ (State.writebackDone_leaves rfl hb hops hs has hf)), rfl, ?_, fun k hk => ?_,
      State.lineMeta_setLineMeta_same _ _ _, fun k hk => State.lineMeta_setLineMeta_other _ _ hk⟩
    · exact congrArg (·.getD HomeLine.reset) (SMap.get?_erase_same _ _)
    · exact (congrArg (·.getD HomeLine.reset) (SMap.get?_erase_other _ hk)).trans (State.homeLine_setHome_other _ _ hk)
  case ack =>
    intro uid m p hm hb
    refine ⟨fun n held hi hn => ⟨_, exec_invalidationAck_more hm hb rfl hi hn, rfl, State.homeLine_setHome_same _ _ _⟩,
      fun a hi ha hops hs => ?_, fun n parts hi => ⟨_, exec_invalidationAck_recall hm hb rfl hi, rfl, State.homeLine_setHome_same _ _ _⟩⟩
    have he := exec_invalidationAck_last hm hb rfl hi ha hops hs
    obtain ⟨hn, b, ht, -, hdest, -, htag, -, -, -, hbody⟩ := ((s.consume uid).setHome ln { s.homeLine ln with busy := .no }).post_effect ha
    generalize State.post _ _ = t at he hn ht
    refine ⟨t, he, ?_, ?_, b, ht, hdest, htag, hbody⟩
    · rw [NetOnly] at hn ⊢
      rw [hn]
      rfl
    · rw [hn.homeLine, State.homeLine_setHome_same]
  case fold =>
    intro u p hf hb ht hp hu hops hs
    exact ⟨_, (if_pos (decide_eq_true hln)).trans (congrArg _ (State.recallFold_folds rfl hf hb ht hp hu hops)), rfl,
      State.homeLine_setHome_same _ _ _⟩
  case flush =>
    intro uid m r p u hm hb hc hk hr ho hp ht hhome hd hs hbusy hbad hcorr
    subst hr
    have he := exec_partialFlush (State.sliceReq_eq hm hb hc hhome hd (beq_self_eq_true _)) ho hk hs hbusy hbad hcorr
    obtain ⟨v, up, hf⟩ := State.foldFlush_folds (s := s.consume uid) (ln := r.line) (u := u) ht hp
    generalize hg : (s.consume uid).foldFlush r.line u p = w at he hf
    have hline : w.homeLine r.line = { (s.homeLine r.line).folded u p with v, up, stamp := s.uid } := by
      rw [hf, State.homeLine_setHome_same]
      rfl
    obtain ⟨hn, hmail⟩ := w.answer_effect m.dest m.src 2 1 m.tag (.ok (w.homeLine r.line).seq.toNat)
    generalize w.answer _ _ _ _ _ _ = t at he hn hmail
    rw [hline] at hmail
    refine ⟨t, he, ?_, ?_, ?_, ?_, ?_, fun k hk => ?_, hmail.of_transit (by rw [hf]; rfl)⟩
    · rw [NetOnly] at hn ⊢
      rw [hn, hf]
      rfl
    · rw [hn.homeLine, hline]
      rfl
    · rw [hn.homeLine, hline]
      rfl
    · rw [hn.homeLine, hline]
      rfl
    · rw [hn.homeLine, hline]
      rfl
    · rw [hn.homeLine, hf, State.homeLine_setHome_other _ _ hk]
      rfl

end Sys2Proof.Machine
end

section
/-!
PROOFS. Proxies: a request of a core at a slice that is not its line's home, by what the slice holds of the line (R75, R76, R81, R82).
-/

namespace Sys2Proof.Machine

/-! ## Copies, and what a proxy passes on -/

@[simp] theorem State.proxyLine_setProxy (s : State) (sl ln : Nat) (p : ProxyLine) :
    (s.setProxy sl ln p).proxyLine sl ln = some p := SMap.get?_set_same _ _ _

@[simp] theorem State.proxyLine_dropProxy (s : State) (sl ln : Nat) : (s.dropProxy sl ln).proxyLine sl ln = none :=
  SMap.get?_erase_same _ _

theorem NetOnly.proxies {s t : State} (h : NetOnly s t) : t.proxies = s.proxies := by
  rw [NetOnly] at h
  rw [h]

theorem NetOnly.preqs {s t : State} (h : NetOnly s t) : t.preqs = s.preqs := by
  rw [NetOnly] at h
  rw [h]

/-- A proxy has passed a request on to its line's home, and changed its copies at most (R76). -/
def Relayed (s : State) (m : Msg) (ln : Nat) (t : State) : Prop :=
  NetOnly { s.consume m.uid with proxies := t.proxies } t ∧ Mails s t m.src (epSlice (s.homeOf ln)) m.cls 0 m.body

/-- A proxy has asked a line's home for what a request needs, which waits for the answer (R81). -/
def Asked (s : State) (sl ln : Nat) (m : Msg) (q : MemReq) (g : Option (AmoOp × ETy)) (t : State) : Prop :=
  NetOnly { s.consume m.uid with preqs := t.preqs, proxies := t.proxies, slices := t.slices } t ∧
    SMap.get? t.preqs (pkey sl ln) = some { grant := g, marked := false, waiting := [m] } ∧
    Mails s t (epSlice sl) (epSlice (s.homeOf ln)) 0 0 (.mem { q with px := some sl })

theorem State.forward_effect (s : State) {m : Msg} (ln : Nat) (hc : m.cancel = false) (hp : m.poison = false) :
    Relayed s m ln (s.forward m ln) ∧ (s.forward m ln).proxies = s.proxies := by
  have hh : (s.consume m.uid).homeOf ln = s.homeOf ln := State.homeOf_congr (s := s) (t := s.consume m.uid) rfl rfl ln
  unfold State.forward Relayed
  rw [State.sendMsg_effect]
  exact ⟨⟨rfl, _, rfl, rfl, rfl, rfl, rfl, hc, hp, rfl⟩, rfl⟩

/-- A request passed on over a copy that is given up. -/
theorem State.dropProxy_forward_effect (s : State) {m : Msg} (sl ln : Nat) (hc : m.cancel = false) (hp : m.poison = false) :
    Relayed s m ln ((s.dropProxy sl ln).forward m ln) ∧ ((s.dropProxy sl ln).forward m ln).proxyLine sl ln = none := by
  have hh : (s.dropProxy sl ln).homeOf ln = s.homeOf ln := State.homeOf_congr (s := s) (t := s.dropProxy sl ln) rfl rfl ln
  obtain ⟨⟨hn, hm⟩, hx⟩ := (s.dropProxy sl ln).forward_effect ln hc hp
  rw [hh] at hm
  refine ⟨⟨hn, hm⟩, ?_⟩
  rw [State.proxyLine, hx]
  exact s.proxyLine_dropProxy sl ln

/-- A proxy's answer from a copy, which it keeps with what the request has made of it. -/
theorem State.setProxy_answer_effect (s : State) (uid sl ln : Nat) (p : ProxyLine) (dest cls nf tag : Nat) (b : Body) :
    let t := ((s.consume uid).setProxy sl ln p).answer (epSlice sl) dest cls nf tag b
    NetOnly { s.consume uid with proxies := t.proxies } t ∧ t.proxyLine sl ln = some p ∧ Mails s t (epSlice sl) dest cls 0 b := by
  intro t
  obtain ⟨hn, hm⟩ := ((s.consume uid).setProxy sl ln p).answer_effect (epSlice sl) dest cls nf tag b
  refine ⟨hn.proxies ▸ hn, ?_, hm⟩
  rw [State.proxyLine, hn.proxies]
  exact State.proxyLine_setProxy _ _ _ _

/-! ## What a request does, by the copy that is there (R81, R82) -/

section Take

variable {s : State} {sl : Nat} {m : Msg} {r : MemReq} {p : ProxyLine}
  (hbad : EnvErr.proxyBad sl r.line ∉ s.env) (hcorr : EnvErr.proxyCorr sl r.line ∉ s.env)
include hbad hcorr

theorem State.proxyTake_read_shared (hr : r.op = .read) (hp : s.proxyLine sl r.line = some p) (hu : p.u = none) :
    s.proxyTake sl m r = ((s.consume m.uid).setProxy sl r.line { p with stamp := s.uid }).answer (epSlice sl) m.src 1 3 m.tag
      (.ans r.who 0 p.seq true (some p.data) r) := by
  unfold State.proxyTake
  simp only [State.meetProxyError_of_clean hbad hcorr, hr, hp, hu, Option.isSome_none, Bool.false_eq_true, if_false]

/-- A load, a store and an AMO of a line of which the slice has a reduction copy go to the home. -/
theorem State.proxyTake_reduction (ho : ∀ a, r.op ≠ .red a) (hp : s.proxyLine sl r.line = some p) (hu : p.u.isSome = true) :
    s.proxyTake sl m r = s.forward m r.line := by
  unfold State.proxyTake
  simp only [State.meetProxyError_of_clean hbad hcorr, hp]
  cases hop : r.op with
  | red a => exact absurd hop (ho a)
  | _ => exact if_pos hu

theorem State.proxyTake_read_none (hr : r.op = .read) (hp : s.proxyLine sl r.line = none)
    (hq : SMap.get? s.preqs (pkey sl r.line) = none) :
    s.proxyTake sl m r = (s.proxyWait sl r.line { grant := none, marked := false, waiting := [] } m).ask (epSlice sl)
      (epSlice (s.homeOf r.line)) (.mem { MemReq.plain .read r.line (.proxy sl) r.asid with px := some sl }) := by
  unfold State.proxyTake
  simp only [State.meetProxyError_of_clean hbad hcorr, hr, hp, hq]

theorem State.proxyTake_write_shared (hr : r.op = .write ∨ ∃ a, r.op = .amo a) (hp : s.proxyLine sl r.line = some p) (hu : p.u = none) :
    s.proxyTake sl m r = (s.dropProxy sl r.line).forward m r.line := by
  unfold State.proxyTake
  obtain hr | ⟨a, hr⟩ := hr <;>
    simp only [State.meetProxyError_of_clean hbad hcorr, hr, hp, hu, Option.isSome_none, Bool.false_eq_true, if_false]

theorem State.proxyTake_write_none (hr : r.op = .write ∨ ∃ a, r.op = .amo a) (hp : s.proxyLine sl r.line = none)
    (hq : SMap.get? s.preqs (pkey sl r.line) = none) : s.proxyTake sl m r = s.forward m r.line := by
  unfold State.proxyTake
  obtain hr | ⟨a, hr⟩ := hr <;> simp only [State.meetProxyError_of_clean hbad hcorr, hr, hp, hq]

theorem State.proxyTake_red_combines {a : AmoReq} (hr : r.op = .red a) (hp : s.proxyLine sl r.line = some p) (hu : p.u = some (a.op, a.ty)) :
    s.proxyTake sl m r = ((s.consume m.uid).setProxy sl r.line
      { combineCopy (a.op, a.ty) p r.off a.v with stamp := s.uid, asid := r.asid }).answer (epSlice sl) m.src 2 1 m.tag
        (.ans r.who 0 p.seq true none r) := by
  unfold State.proxyTake
  simp only [State.meetProxyError_of_clean hbad hcorr, hr, hp, hu, if_true]

theorem State.proxyTake_red_other {a : AmoReq} (hr : r.op = .red a) (hp : s.proxyLine sl r.line = some p) (hs : p.u.isSome = true)
    (hu : p.u ≠ some (a.op, a.ty)) : s.proxyTake sl m r = s.forward m r.line := by
  unfold State.proxyTake
  simp only [State.meetProxyError_of_clean hbad hcorr, hr, hp, if_neg hu, hs, if_true]

theorem State.proxyTake_red_none {a : AmoReq} (hr : r.op = .red a) (hp : s.proxyLine sl r.line = none)
    (hq : SMap.get? s.preqs (pkey sl r.line) = none) :
    s.proxyTake sl m r = (s.proxyWait sl r.line { grant := some (a.op, a.ty), marked := false, waiting := [] } m).ask (epSlice sl)
      (epSlice (s.homeOf r.line)) (.mem { MemReq.plain (.grant a.op a.ty) r.line (.proxy sl) r.asid with px := some sl }) := by
  unfold State.proxyTake
  simp only [State.meetProxyError_of_clean hbad hcorr, hr, hp, hq]

theorem State.proxyTake_red_shared {a : AmoReq} (hr : r.op = .red a) (hp : s.proxyLine sl r.line = some p) (hu : p.u = none) :
    s.proxyTake sl m r =
      ((s.dropProxy sl r.line).proxyWait sl r.line { grant := some (a.op, a.ty), marked := false, waiting := [] } m).ask (epSlice sl)
        (epSlice (s.homeOf r.line)) (.mem { MemReq.plain (.grant a.op a.ty) r.line (.proxy sl) r.asid with px := some sl }) := by
  unfold State.proxyTake
  simp only [State.meetProxyError_of_clean hbad hcorr, hr, hp, hu, reduceCtorEq, Option.isSome_none, Bool.false_eq_true, if_false]

end Take

/-- A request that waits while its proxy asks the home. -/
theorem State.proxyWait_ask_effect (s : State) (sl ln : Nat) (g : Option (AmoOp × ETy)) (m : Msg) (dest : Nat) (b : Body) :
    let t := (s.proxyWait sl ln { grant := g, marked := false, waiting := [] } m).ask (epSlice sl) dest b
    NetOnly { s.consume m.uid with preqs := t.preqs } t ∧
      SMap.get? t.preqs (pkey sl ln) = some { grant := g, marked := false, waiting := [m] } ∧ Mails s t (epSlice sl) dest b.cls 0 b := by
  intro t
  obtain ⟨hn, hm⟩ := (s.proxyWait sl ln { grant := g, marked := false, waiting := [] } m).ask_effect (epSlice sl) dest b
  refine ⟨hn.preqs ▸ hn, ?_, hm⟩
  rw [hn.preqs]
  exact SMap.get?_set_same _ _ _

end Sys2Proof.Machine
end

section
/-!
PROOFS. The requests that a proxy takes: which it serves at once, which take a transaction entry, and what the step of each comes to
(R75, R76, R81).
-/

namespace Sys2Proof.Machine

/-- A request that has a transaction entry, and waits for what its proxy asks of the home. -/
theorem State.entered_asks (s : State) {sl : Nat} {m : Msg} {q : MemReq} (g : Option (AmoOp × ETy))
    (c : SMap ProxyLine) (hq : (Body.mem { q with px := some sl }).cls = 0) :
    let t := ({ s.entered sl m with proxies := c }.proxyWait sl q.line { grant := g, marked := false, waiting := [] } m).ask (epSlice sl)
      (epSlice (s.homeOf q.line)) (.mem { q with px := some sl })
    Asked s sl q.line m q g t ∧ t.proxies = c := by
  intro t
  obtain ⟨hn, hw, hm⟩ := State.proxyWait_ask_effect { s.entered sl m with proxies := c } sl q.line g m (epSlice (s.homeOf q.line))
    (.mem { q with px := some sl })
  change NetOnly _ t at hn
  change SMap.get? t.preqs _ = _ at hw
  have hx : t.proxies = c := hn.proxies
  have hs : t.slices = (s.entered sl m).slices := by rw [NetOnly] at hn; rw [hn]; rfl
  have hc := s.consume_consume m.uid
  refine ⟨⟨?_, hw, ?_⟩, hx⟩
  · rw [hx, hs, ← hc]
    exact hn
  · rw [hq] at hm
    exact hm

namespace ProxyTakes

variable {s : State} {uid sl : Nat} {m : Msg} {r : MemReq} (h : ProxyTakes s uid m r sl)
include h

theorem sliceReq : s.sliceReq uid false = some (m, r) := by
  obtain ⟨hm, hb, hc, -, -, -, -, hl, hd, hne, -, -⟩ := h
  exact State.sliceReq_eq hm hb hc hl hd (by simpa using hne)

/-- A request that waits for nothing needs no entry. -/
theorem serves (hw : s.proxyHolds sl r = false) : s.proxyServe m r = s.proxyTake sl m r := by
  obtain ⟨-, -, -, -, ht, -, -, -, hd, -, hb, hc⟩ := h
  unfold State.proxyServe
  simp only [hd, epSlice_sub, State.meetProxyError_of_clean hb hc, ht, hw, decide_true, Bool.not_false, Bool.and_self, if_true]

/-- A request that waits takes a transaction entry. -/
theorem enters (hw : s.proxyHolds sl r = true) : s.proxyServe m r = (s.entered sl m).proxyTake sl m r := by
  obtain ⟨-, -, hcan, -, ht, hu, hn, -, hd, -, hb, hc⟩ := h
  unfold State.proxyServe
  simp only [hd, epSlice_sub, State.meetProxyError_of_clean hb hc, hw, Bool.not_true, Bool.and_false, Bool.false_eq_true, if_false,
    State.entryRule_accepts hcan ht hu hn]

theorem exec_proxyLoad (hr : r.op = .read) : exec (.proxyLoad uid) s = .next (s.proxyServe m r) := by
  change s.atProxy uid MemOp.isRead = _
  unfold State.atProxy
  rw [h.sliceReq]
  simp only [hr, MemOp.isRead, if_true]

theorem exec_proxyStore (hr : r.op = .write) : exec (.proxyStore uid) s = .next (s.proxyServe m r) := by
  change s.atProxy uid MemOp.isWrite = _
  unfold State.atProxy
  rw [h.sliceReq]
  simp only [hr, MemOp.isWrite, if_true]

theorem exec_proxyAmo {a : AmoReq} (hr : r.op = .amo a) : exec (.proxyAmo uid) s = .next (s.proxyServe m r) := by
  change s.atProxy uid MemOp.isAmo = _
  unfold State.atProxy
  rw [h.sliceReq]
  simp only [hr, MemOp.isAmo, if_true]

theorem exec_proxyRed {a : AmoReq} (hr : r.op = .red a) : exec (.proxyRed uid) s = .next (s.proxyServe m r) := by
  change s.atProxy uid MemOp.isRed = _
  unfold State.atProxy
  rw [h.sliceReq]
  simp only [hr, MemOp.isRed, if_true]

/-- The steps for a store and for an AMO. -/
theorem exec_proxyWrite {i : Instr} (hi : r.op = .write ∧ i = .proxyStore uid ∨ (∃ a, r.op = .amo a) ∧ i = .proxyAmo uid) :
    (r.op = .write ∨ ∃ a, r.op = .amo a) ∧ exec i s = .next (s.proxyServe m r) := by
  obtain ⟨hr, rfl⟩ | ⟨⟨a, hr⟩, rfl⟩ := hi
  · exact ⟨.inl hr, h.exec_proxyStore hr⟩
  · exact ⟨.inr ⟨a, hr⟩, h.exec_proxyAmo hr⟩

/-! ## Loads -/

theorem load_shared (hr : r.op = .read) {p : ProxyLine} (hp : s.proxyLine sl r.line = some p) (hu : p.u = none) :
    ∃ t, exec (.proxyLoad uid) s = .next t ∧ NetOnly { s.consume m.uid with proxies := t.proxies } t ∧
      t.proxyLine sl r.line = some { p with stamp := s.uid } ∧
      Mails s t (epSlice sl) m.src 1 0 (.ans r.who 0 p.seq true (some p.data) r) := by
  have hw : s.proxyHolds sl r = false := by simp [State.proxyHolds, hr, hp]
  have hx := h.exec_proxyLoad hr
  rw [h.serves hw] at hx
  obtain ⟨-, -, -, -, -, -, -, -, -, -, hb, hc⟩ := h
  rw [State.proxyTake_read_shared hb hc hr hp hu] at hx
  exact ⟨_, hx, s.setProxy_answer_effect _ _ _ _ _ _ _ _ _⟩

theorem load_reduction (hr : r.op = .read) {p : ProxyLine} (hp : s.proxyLine sl r.line = some p) (hu : p.u.isSome = true) :
    ∃ t, exec (.proxyLoad uid) s = .next t ∧ Relayed s m r.line t ∧ t.proxies = s.proxies := by
  have hw : s.proxyHolds sl r = false := by simp [State.proxyHolds, hr, hp]
  have hx := h.exec_proxyLoad hr
  rw [h.serves hw] at hx
  obtain ⟨-, -, hcan, hpoi, -, -, -, -, -, -, hb, hc⟩ := h
  rw [State.proxyTake_reduction hb hc (fun a => by simp [hr]) hp hu] at hx
  exact ⟨_, hx, s.forward_effect _ hcan hpoi⟩

theorem load_asks (hr : r.op = .read) (hp : s.proxyLine sl r.line = none) (hq : SMap.get? s.preqs (pkey sl r.line) = none) :
    ∃ t, exec (.proxyLoad uid) s = .next t ∧ Asked s sl r.line m (.plain .read r.line (.proxy sl) r.asid) none t ∧
      t.proxies = s.proxies := by
  have hw : s.proxyHolds sl r = true := by simp [State.proxyHolds, hr, hp]
  have hx := h.exec_proxyLoad hr
  have hh : (s.entered sl m).homeOf r.line = s.homeOf r.line := State.homeOf_congr (s := s) (t := s.entered sl m) rfl rfl _
  rw [h.enters hw] at hx
  obtain ⟨-, -, -, -, -, -, -, -, -, -, hb, hc⟩ := h
  rw [State.proxyTake_read_none (s := s.entered sl m) hb hc hr hp hq, hh] at hx
  have ha := s.entered_asks (sl := sl) (m := m) (q := .plain .read r.line (.proxy sl) r.asid) none s.proxies rfl
  exact ⟨_, hx, ha⟩

/-! ## Stores and AMOs -/

section Write

variable {i : Instr} (hi : r.op = .write ∧ i = .proxyStore uid ∨ (∃ a, r.op = .amo a) ∧ i = .proxyAmo uid)
include hi

theorem write_shared {p : ProxyLine} (hp : s.proxyLine sl r.line = some p) (hu : p.u = none) :
    ∃ t, exec i s = .next t ∧ Relayed s m r.line t ∧ t.proxyLine sl r.line = none := by
  obtain ⟨hr, hx⟩ := h.exec_proxyWrite hi
  have hw : s.proxyHolds sl r = false := by obtain hr | ⟨a, hr⟩ := hr <;> simp [State.proxyHolds, hr, hp]
  rw [h.serves hw] at hx
  obtain ⟨-, -, hcan, hpoi, -, -, -, -, -, -, hb, hc⟩ := h
  rw [State.proxyTake_write_shared hb hc hr hp hu] at hx
  exact ⟨_, hx, s.dropProxy_forward_effect _ _ hcan hpoi⟩

theorem write_reduction {p : ProxyLine} (hp : s.proxyLine sl r.line = some p) (hu : p.u.isSome = true) :
    ∃ t, exec i s = .next t ∧ Relayed s m r.line t ∧ t.proxies = s.proxies := by
  obtain ⟨hr, hx⟩ := h.exec_proxyWrite hi
  have hw : s.proxyHolds sl r = false := by obtain hr | ⟨a, hr⟩ := hr <;> simp [State.proxyHolds, hr, hp]
  have hred : ∀ a, r.op ≠ .red a := fun a => by obtain hr | ⟨a, hr⟩ := hr <;> simp [hr]
  rw [h.serves hw] at hx
  obtain ⟨-, -, hcan, hpoi, -, -, -, -, -, -, hb, hc⟩ := h
  rw [State.proxyTake_reduction hb hc hred hp hu] at hx
  exact ⟨_, hx, s.forward_effect _ hcan hpoi⟩

theorem write_none (hp : s.proxyLine sl r.line = none) (hq : SMap.get? s.preqs (pkey sl r.line) = none) :
    ∃ t, exec i s = .next t ∧ Relayed s m r.line t ∧ t.proxies = s.proxies := by
  obtain ⟨hr, hx⟩ := h.exec_proxyWrite hi
  have hw : s.proxyHolds sl r = false := by obtain hr | ⟨a, hr⟩ := hr <;> simp [State.proxyHolds, hr, hp, hq]
  rw [h.serves hw] at hx
  obtain ⟨-, -, hcan, hpoi, -, -, -, -, -, -, hb, hc⟩ := h
  rw [State.proxyTake_write_none hb hc hr hp hq] at hx
  exact ⟨_, hx, s.forward_effect _ hcan hpoi⟩

end Write

/-! ## REDs -/

section Red

variable {a : AmoReq} (hr : r.op = .red a)
include hr

theorem red_combines {p : ProxyLine} (hp : s.proxyLine sl r.line = some p) (hu : p.u = some (a.op, a.ty)) :
    ∃ t, exec (.proxyRed uid) s = .next t ∧ NetOnly { s.consume m.uid with proxies := t.proxies } t ∧
      t.proxyLine sl r.line = some { combineCopy (a.op, a.ty) p r.off a.v with stamp := s.uid, asid := r.asid } ∧
      Mails s t (epSlice sl) m.src 2 0 (.ans r.who 0 p.seq true none r) := by
  have hw : s.proxyHolds sl r = false := by simp [State.proxyHolds, hr, hp, hu]
  have hx := h.exec_proxyRed hr
  rw [h.serves hw] at hx
  obtain ⟨-, -, -, -, -, -, -, -, -, -, hb, hc⟩ := h
  rw [State.proxyTake_red_combines hb hc hr hp hu] at hx
  exact ⟨_, hx, s.setProxy_answer_effect _ _ _ _ _ _ _ _ _⟩

theorem red_other {p : ProxyLine} (hp : s.proxyLine sl r.line = some p) (hs : p.u.isSome = true) (hu : p.u ≠ some (a.op, a.ty)) :
    ∃ t, exec (.proxyRed uid) s = .next t ∧ Relayed s m r.line t ∧ t.proxies = s.proxies := by
  have hw : s.proxyHolds sl r = false := by simp [State.proxyHolds, hr, hp, hs]
  have hx := h.exec_proxyRed hr
  rw [h.serves hw] at hx
  obtain ⟨-, -, hcan, hpoi, -, -, -, -, -, -, hb, hc⟩ := h
  rw [State.proxyTake_red_other hb hc hr hp hs hu] at hx
  exact ⟨_, hx, s.forward_effect _ hcan hpoi⟩

theorem red_asks (hp : s.proxyLine sl r.line = none ∧ SMap.get? s.preqs (pkey sl r.line) = none ∨
      ∃ p, s.proxyLine sl r.line = some p ∧ p.u = none) :
    ∃ t, exec (.proxyRed uid) s = .next t ∧
      Asked s sl r.line m (.plain (.grant a.op a.ty) r.line (.proxy sl) r.asid) (some (a.op, a.ty)) t ∧
      t.proxyLine sl r.line = none := by
  have hw : s.proxyHolds sl r = true := by
    obtain ⟨hp, -⟩ | ⟨p, hp, hu⟩ := hp
    · simp [State.proxyHolds, hr, hp]
    · simp [State.proxyHolds, hr, hp, hu]
  have hx := h.exec_proxyRed hr
  have hh : (s.entered sl m).homeOf r.line = s.homeOf r.line := State.homeOf_congr (s := s) (t := s.entered sl m) rfl rfl _
  rw [h.enters hw] at hx
  obtain ⟨-, -, -, -, -, -, -, -, -, -, hb, hc⟩ := h
  obtain ⟨hp, hq⟩ | ⟨p, hp, hu⟩ := hp
  · rw [State.proxyTake_red_none (s := s.entered sl m) hb hc hr hp hq, hh] at hx
    obtain ⟨ha, hc⟩ := s.entered_asks (sl := sl) (m := m) (q := .plain (.grant a.op a.ty) r.line (.proxy sl) r.asid)
      (some (a.op, a.ty)) s.proxies rfl
    exact ⟨_, hx, ha, (congrArg (SMap.get? · (pkey sl r.line)) hc).trans hp⟩
  · rw [State.proxyTake_red_shared (s := s.entered sl m) hb hc hr hp hu, hh] at hx
    obtain ⟨ha, hc⟩ := s.entered_asks (sl := sl) (m := m) (q := .plain (.grant a.op a.ty) r.line (.proxy sl) r.asid)
      (some (a.op, a.ty)) (s.dropProxy sl r.line).proxies rfl
    exact ⟨_, hx, ha, (congrArg (SMap.get? · (pkey sl r.line)) hc).trans (s.proxyLine_dropProxy sl r.line)⟩

end Red

end ProxyTakes

end Sys2Proof.Machine
end

section
/-!
PROOFS. The home's answers to a proxy, and its calls for the copies that a proxy holds (R76, R81, R82), with the statement about proxies.
-/

namespace Sys2Proof.Machine

/-! ## Answers of the home -/

/-- A set with a way free, and with room for a reduction copy where one is wanted, gives nothing up. -/
theorem State.proxyRoom_of_free {s : State} {sl ln : Nat} {wantU : Bool} (h : (s.proxySet sl ln).length < 4)
    (hu : wantU = true → ((s.proxySet sl ln).filter fun e => e.2.u.isSome).length < 2) : s.proxyRoom sl ln wantU = s := by
  have hw : (wantU && decide (2 ≤ ((s.proxySet sl ln).filter fun e => e.2.u.isSome).length)) = false := by
    cases wantU with
    | false => rfl
    | true => simpa using hu rfl
  unfold State.proxyRoom
  simp only [hw, Bool.false_eq_true, if_false, if_neg (Nat.not_le.mpr h)]

/-- A proxy whose request of the home has been answered: nothing waits for it any more. -/
def State.gotAnswer (s : State) (sl ln : Nat) : State := { s with preqs := SMap.erase s.preqs (pkey sl ln) }

/-- A copy as a fill or a grant brings it. -/
def ProxyLine.fresh (u : Option (AmoOp × ETy)) (d : W1024) (seq : W32) (stamp : Nat) : ProxyLine :=
  { u, data := d, touched := 0, seq, poison := false, stamp, asid := none }

/-- What a fill makes of the copies: the slice keeps the line if the home grants it a copy that it has not called back since. -/
def State.filled (s : State) (sl ln kind : Nat) (seq : W32) (marked : Bool) (d : W1024) : State :=
  if kind = 1 ∧ marked = false then s.setProxy sl ln (.fresh none d seq s.uid) else s

theorem State.filled_only (s : State) (sl ln kind : Nat) (seq : W32) (marked : Bool) (d : W1024) :
    s.filled sl ln kind seq marked d = { s with proxies := (s.filled sl ln kind seq marked d).proxies } := by
  unfold State.filled
  split <;> rfl

theorem State.proxyLine_filled (s : State) (sl ln kind : Nat) (seq : W32) (marked : Bool) (d : W1024) :
    (s.filled sl ln kind seq marked d).proxyLine sl ln =
      if kind = 1 ∧ marked = false then some (.fresh none d seq s.uid) else s.proxyLine sl ln := by
  unfold State.filled
  split
  · exact State.proxyLine_setProxy _ _ _ _
  · rfl

section Answers

variable {s : State} {sl ln kind : Nat} {seq : W32} {w : Msg} {r : MemReq} {q : ProxyReq}
  (hq : SMap.get? s.preqs (pkey sl ln) = some q) (hw : q.waiting = [w]) (hb : w.body = .mem r)
  (hroom : (s.proxySet sl ln).length < 4)
include hq hw hb

include hroom in
/-- The fill goes to the core that waits. -/
theorem State.proxyFilled_data (d : W1024) :
    s.proxyFilled sl ln kind seq (some d) = ((s.gotAnswer sl ln).filled sl ln kind seq q.marked d).answer (epSlice sl) w.src 1 3 w.tag
      (.ans r.who kind seq false (some d) r) := by
  have hfree : (s.gotAnswer sl ln).proxyRoom sl ln false = s.gotAnswer sl ln :=
    State.proxyRoom_of_free (s := s.gotAnswer sl ln) hroom (by simp)
  unfold State.proxyFilled State.filled
  unfold State.gotAnswer at *
  rw [hq]
  dsimp only
  generalize ({ s with preqs := SMap.erase s.preqs (pkey sl ln) } : State) = u at *
  simp only [hw, hb, hfree, Option.isSome_some, if_true]
  split
  case h_1 hd =>
    cases hd
    cases hm : q.marked with
    | true => rfl
    | false => rfl
  case h_2 hk =>
    rw [if_neg fun h => hk d h.1 rfl]
    rfl

include hroom in
/-- With the grant, the RED that has waited is combined into the new copy. -/
theorem State.proxyGranted_combines {a : AmoReq} (hr : r.op = .red a) (hl : r.line = ln) (hg : q.grant = some (a.op, a.ty))
    (hm : q.marked = false) (hus : ((s.proxySet sl ln).filter fun e => e.2.u.isSome).length < 2)
    (hbad : EnvErr.proxyBad sl ln ∉ s.env) (hcorr : EnvErr.proxyCorr sl ln ∉ s.env) :
    s.proxyGranted sl ln 2 seq =
      ((((s.gotAnswer sl ln).setProxy sl ln (.fresh q.grant 0 seq s.uid)).consume w.uid).setProxy sl ln
        { combineCopy (a.op, a.ty) (.fresh q.grant 0 seq s.uid) r.off a.v with stamp := s.uid, asid := r.asid }).answer
          (epSlice sl) w.src 2 1 w.tag (.ans r.who 0 seq true none r) := by
  subst hl
  have hfree : (s.gotAnswer sl r.line).proxyRoom sl r.line true = s.gotAnswer sl r.line :=
    State.proxyRoom_of_free (s := s.gotAnswer sl r.line) hroom fun _ => hus
  have htake := State.proxyTake_red_combines (s := (s.gotAnswer sl r.line).setProxy sl r.line (.fresh q.grant 0 seq s.uid)) (m := w)
    hbad hcorr hr (State.proxyLine_setProxy _ _ _ _) hg
  refine Eq.trans ?_ htake
  unfold State.proxyGranted
  unfold State.gotAnswer at *
  rw [hq]
  dsimp only
  generalize hu : ({ s with preqs := SMap.erase s.preqs (pkey sl r.line) } : State) = u at *
  have huid : s.uid = u.uid := by rw [← hu]
  simp only [hm, hfree, Bool.not_false, Bool.and_true, decide_true, if_true, State.proxyGoOn, hw, List.foldl_cons, List.foldl_nil, hb, huid]
  rfl

/-- Without the grant, the RED that has waited goes to the home. -/
theorem State.proxyGranted_forwards {a : AmoReq} (hr : r.op = .red a) (hm : q.marked = true ∨ kind ≠ 2) :
    s.proxyGranted sl ln kind seq = (s.gotAnswer sl ln).forward w ln := by
  have hk : (decide (kind = 2) && !q.marked) = false := by
    obtain hm | hk := hm
    · simp [hm]
    · simp [hk]
  unfold State.proxyGranted
  simp only [hq, hk, Bool.false_eq_true, if_false, hw, List.foldl_cons, List.foldl_nil, hb, hr, if_true]
  rfl

end Answers

/-- The proxy's answer to the core that has waited for a fill, and what it keeps. -/
theorem State.filled_answer_effect (s : State) (uid sl ln kind : Nat) (seq : W32) (marked : Bool) (d : W1024)
    (dest nf tag : Nat) (b : Body) :
    let t := (((s.consume uid).gotAnswer sl ln).filled sl ln kind seq marked d).answer (epSlice sl) dest 1 nf tag b
    NetOnly { s.consume uid with preqs := t.preqs, proxies := t.proxies } t ∧ Mails s t (epSlice sl) dest 1 0 b ∧
      SMap.get? t.preqs (pkey sl ln) = none ∧
      t.proxyLine sl ln = if kind = 1 ∧ marked = false then some (.fresh none d seq s.uid) else s.proxyLine sl ln := by
  intro t
  have hline := ((s.consume uid).gotAnswer sl ln).proxyLine_filled sl ln kind seq marked d
  obtain ⟨u, hu⟩ : ∃ u, u = ((s.consume uid).gotAnswer sl ln).filled sl ln kind seq marked d := ⟨_, rfl⟩
  have honly : u = { (s.consume uid).gotAnswer sl ln with proxies := u.proxies } := by rw [hu]; exact State.filled_only _ _ _ _ _ _ _
  obtain ⟨hn, hm⟩ := u.answer_effect (epSlice sl) dest 1 nf tag b
  rw [← hu] at hline
  have ht : t = u.answer (epSlice sl) dest 1 nf tag b := by rw [hu]
  clear_value t
  rw [← ht] at hn hm
  have hpq : t.preqs = SMap.erase s.preqs (pkey sl ln) := hn.preqs.trans (by rw [honly]; rfl)
  refine ⟨?_, ?_, ?_, ?_⟩
  · rw [hn.proxies]
    rw [honly] at hn
    exact hn.preqs ▸ hn
  · rw [honly] at hm
    exact hm
  · rw [hpq]
    exact SMap.get?_erase_same _ _
  · rw [State.proxyLine, hn.proxies]
    exact hline

/-- The proxy's answer to the core whose RED has waited for a grant, and what it keeps. -/
theorem State.granted_answer_effect (s : State) (uid sl ln : Nat) (c d : ProxyLine) (u dest nf tag : Nat) (b : Body) :
    let t := (((((s.consume uid).gotAnswer sl ln).setProxy sl ln c).consume u).setProxy sl ln d).answer (epSlice sl) dest 2 nf tag b
    SMap.get? t.preqs (pkey sl ln) = none ∧ NetOnly { s with inbox := t.inbox, preqs := t.preqs, proxies := t.proxies } t ∧
      t.proxyLine sl ln = some d ∧ Mails s t (epSlice sl) dest 2 0 b := by
  intro t
  obtain ⟨hn, hline, hm⟩ := (((s.consume uid).gotAnswer sl ln).setProxy sl ln c).setProxy_answer_effect u sl ln d dest 2 nf tag b
  change NetOnly _ t at hn
  have hpq : t.preqs = SMap.erase s.preqs (pkey sl ln) := hn.preqs
  refine ⟨?_, ?_, hline, hm⟩
  · rw [hpq]
    exact SMap.get?_erase_same _ _
  · clear_value t
    rw [NetOnly] at hn ⊢
    rw [hn]
    rfl

/-! ## Calls of the home -/

/-- What a proxy gives up with a copy (R82); a shared copy, or none, gives nothing. -/
def ProxyLine.given (p : Option ProxyLine) (sl : Nat) : UPart :=
  match p.filter (·.u.isSome) with
  | some p => p.give sl
  | none => { sl, touched := 0, part := 0, poison := false, asid := none }

theorem ProxyLine.given_reduction {p : ProxyLine} (hu : p.u.isSome = true) (sl : Nat) : given (some p) sl = p.give sl := by
  unfold given
  rw [Option.filter, if_pos hu]

theorem ProxyLine.given_shared {p : Option ProxyLine} (hp : p = none ∨ ∃ x, p = some x ∧ x.u = none) (sl : Nat) :
    given p sl = { sl, touched := 0, part := 0, poison := false, asid := none } := by
  unfold given
  obtain rfl | ⟨x, rfl, hu⟩ := hp
  · rfl
  · rw [Option.filter, if_neg (by simp [hu])]

/-- What a proxy has asked of the homes, once a call for a line has marked what it has asked for that line (R81). -/
def State.markedPreqs (s : State) (sl ln : Nat) : SMap ProxyReq :=
  match SMap.get? s.preqs (pkey sl ln) with
  | some q => SMap.set s.preqs (pkey sl ln) { q with marked := true }
  | none => s.preqs

theorem State.markedPreqs_marks {s : State} {sl ln : Nat} {q : ProxyReq} (hq : SMap.get? s.preqs (pkey sl ln) = some q) :
    SMap.get? (s.markedPreqs sl ln) (pkey sl ln) = some { q with marked := true } := by
  unfold State.markedPreqs
  rw [hq]
  exact SMap.get?_set_same _ _ _

/-- A proxy that has been called for a line, before it answers. -/
def State.called (s : State) (uid sl ln : Nat) : State := { s.consume uid with preqs := s.markedPreqs sl ln }

/-- A proxy answers a call with what it gives up, and keeps nothing. -/
theorem State.proxyCalled_eq {s : State} {m : Msg} {sl ln : Nat} (hd : m.dest = epSlice sl)
    (hbad : EnvErr.proxyBad sl ln ∉ s.env) (hcorr : EnvErr.proxyCorr sl ln ∉ s.env) :
    let g := ProxyLine.given (s.proxyLine sl ln) sl
    let full := g.touched != 0 || g.poison
    s.proxyCalled m ln = ((s.called m.uid sl ln).answer (epSlice sl) m.src (if full then 1 else 2) (if full then 3 else 1) m.tag
      (.ack ln g)).dropProxy sl ln := by
  have hp : (s.consume m.uid).preqs = s.preqs := rfl
  have hclean : (s.called m.uid sl ln).meetProxyError sl ln = s.called m.uid sl ln :=
    State.meetProxyError_of_clean (s := s.called m.uid sl ln) hbad hcorr
  unfold State.called State.markedPreqs at *
  unfold State.proxyCalled
  cases hq : SMap.get? s.preqs (pkey sl ln) with
  | some q =>
    simp only [hd, epSlice_sub, hp, hq] at hclean ⊢
    rw [hclean]
    rfl
  | none =>
    simp only [hd, epSlice_sub, hp, hq] at hclean ⊢
    rw [show (s.consume m.uid).meetProxyError sl ln = s.consume m.uid from hclean]
    rfl

theorem State.proxyCalled_effect {s : State} {m : Msg} {sl ln : Nat} (hd : m.dest = epSlice sl)
    (hbad : EnvErr.proxyBad sl ln ∉ s.env) (hcorr : EnvErr.proxyCorr sl ln ∉ s.env) :
    let t := s.proxyCalled m ln
    let g := ProxyLine.given (s.proxyLine sl ln) sl
    NetOnly { s.consume m.uid with proxies := t.proxies, preqs := t.preqs } t ∧ t.proxyLine sl ln = none ∧
      t.preqs = s.markedPreqs sl ln ∧
      Mails s t (epSlice sl) m.src (if g.touched ≠ 0 ∨ g.poison = true then 1 else 2) 0 (.ack ln g) := by
  intro t g
  have ht : t = ((s.called m.uid sl ln).answer (epSlice sl) m.src (if g.touched != 0 || g.poison then 1 else 2)
      (if g.touched != 0 || g.poison then 3 else 1) m.tag (.ack ln g)).dropProxy sl ln := State.proxyCalled_eq hd hbad hcorr
  clear_value t g
  subst ht
  simp only [Bool.or_eq_true, bne_iff_ne]
  obtain ⟨hn, hm⟩ := (s.called m.uid sl ln).answer_effect (epSlice sl) m.src (if g.touched ≠ 0 ∨ g.poison = true then 1 else 2)
    (if g.touched ≠ 0 ∨ g.poison = true then 3 else 1) m.tag (.ack ln g)
  refine ⟨?_, State.proxyLine_dropProxy _ _ _, hn.preqs, hm⟩
  generalize (s.called m.uid sl ln).answer _ _ _ _ _ _ = u at hn
  rw [NetOnly] at hn ⊢
  rw [hn]
  rfl

/-- The step for an invalidation or a recall. -/
theorem exec_proxyCall {s : State} {uid ln : Nat} {m : Msg} {i : Instr} (hm : s.msg? uid = some m)
    (hi : m.body = .inval ln ∧ i = .proxyInvalidation uid ∨ m.body = .recall ln ∧ i = .proxyRecall uid) :
    exec i s = .next (s.proxyCalled m ln) := by
  obtain ⟨hb, rfl⟩ | ⟨hb, rfl⟩ := hi
  · change execProxyInvalidation uid s = _
    simp only [execProxyInvalidation, hm, hb]
  · change execProxyRecall uid s = _
    simp only [execProxyRecall, hm, hb]

/-- The steps for the home's answers. -/
theorem exec_proxyFillAnswer_data {s : State} {uid sl kind : Nat} {seq : W32} {px : Bool} {m : Msg} {data : Option W1024} {req : MemReq}
    (hm : s.msg? uid = some m) (hb : m.body = .ans (.proxy sl) kind seq px data req) (hr : req.op = .read) :
    exec (.proxyFillAnswer uid) s = .next ((s.consume uid).proxyFilled sl req.line kind seq data) := by
  change execProxyFillAnswer uid s = _
  simp only [execProxyFillAnswer, hm, hb, hr, MemOp.isRead, if_true]

theorem exec_proxyGrantAnswer_grant {s : State} {uid sl kind : Nat} {seq : W32} {px : Bool} {m : Msg} {data : Option W1024} {req : MemReq}
    {op : AmoOp} {ty : ETy} (hm : s.msg? uid = some m) (hb : m.body = .ans (.proxy sl) kind seq px data req)
    (hr : req.op = .grant op ty) :
    exec (.proxyGrantAnswer uid) s = .next ((s.consume uid).proxyGranted sl req.line kind seq) := by
  change execProxyGrantAnswer uid s = _
  simp only [execProxyGrantAnswer, hm, hb, hr, MemOp.isGrant, if_true]

/-! ## The statement -/

/-- Settles O39: a request by what its slice holds of the line, then the home's answers and its calls. -/
theorem proxiesComplete : Obligations.ProxiesComplete := by
  unfold Obligations.ProxiesComplete
  refine ⟨?_, ?_, ?_⟩
  · intro s uid sl m r h
    exact ⟨fun hr => ⟨fun p => h.load_shared hr, fun p => h.load_reduction hr, h.load_asks hr⟩,
      fun i hi => ⟨fun p => h.write_shared hi, fun p => h.write_reduction hi, h.write_none hi⟩,
      fun a hr => ⟨fun p => h.red_combines hr, fun p => h.red_other hr, h.red_asks hr⟩⟩
  · intro s uid sl kind seq px m w data req r q hm hb hq hw hwb hroom
    refine ⟨fun d hr hd => ?_, fun op ty a hr hred hl hbad hcorr => ⟨fun hk hmark hg hus => ?_, fun hno hc hp => ?_⟩⟩
    · subst hd
      have hx := exec_proxyFillAnswer_data hm hb hr
      rw [State.proxyFilled_data (s := s.consume uid) hq hw hwb hroom] at hx
      exact ⟨_, hx, State.filled_answer_effect _ _ _ _ _ _ _ _ _ _ _ _⟩
    · subst hk
      have hx := exec_proxyGrantAnswer_grant hm hb hr
      rw [State.proxyGranted_combines (s := s.consume uid) hq hw hwb hroom hred hl hg hmark hus (hl ▸ hbad) (hl ▸ hcorr)] at hx
      exact ⟨_, hx, State.granted_answer_effect _ _ _ _ _ _ _ _ _ _ _⟩
    · have hx := exec_proxyGrantAnswer_grant hm hb hr
      rw [State.proxyGranted_forwards (s := s.consume uid) hq hw hwb hred hno] at hx
      obtain ⟨⟨-, hmail⟩, hpx⟩ := ((s.consume uid).gotAnswer sl req.line).forward_effect req.line hc hp
      have hh : ((s.consume uid).gotAnswer sl req.line).homeOf req.line = s.homeOf req.line :=
        State.homeOf_congr (s := s) (t := (s.consume uid).gotAnswer sl req.line) rfl rfl _
      exact ⟨_, hx, hpx, hh ▸ hmail⟩
  · intro s uid sl ln m i hm hl hd hi hbad hcorr
    obtain ⟨hn, hp, hq, ha⟩ := State.proxyCalled_effect hd hbad hcorr
    refine ⟨_, exec_proxyCall hm hi, hn, hp, fun q hq' => ?_, fun hp' => ?_, fun p hp' hu => ?_⟩
    · rw [hq]
      exact State.markedPreqs_marks hq'
    · rw [ProxyLine.given_shared hp'] at ha
      exact ha
    · rw [hp', ProxyLine.given_reduction hu] at ha
      exact ha

end Sys2Proof.Machine
end

section
/-!
SUPPORT. Numbers in lines: what the bytes that were put there read as, and the loads of a size code (R208).
-/

namespace Sys2Proof.Machine

/-- Bit `i` of the bits that a byte mask selects is that of the byte it lies in. -/
theorem maskBits_getLsbD (mask : BitVec 128) {i : Nat} (hi : i < 1024) : (maskBits mask).getLsbD i = mask.getLsbD (i / 8) := by
  have hbyte : ∀ j, ((0xFF : W1024) <<< (8 * j)).getLsbD i = decide (j = i / 8) := fun j => by
    have h255 : (0xFF : W1024) = BitVec.ofNat 1024 (2 ^ 8 - 1) := rfl
    rw [BitVec.getLsbD_shiftLeft, h255, BitVec.getLsbD_ofNat, Nat.testBit_two_pow_sub_one]
    by_cases h : j = i / 8
    · subst h
      simp [hi]
      omega
    · simp [h]
      omega
  have hfold : ∀ (l : List Nat) (acc : W1024),
      (l.foldl (fun acc k => if mask.getLsbD k then acc ||| ((0xFF : W1024) <<< (8 * k)) else acc) acc).getLsbD i =
        (acc.getLsbD i || (decide (i / 8 ∈ l) && mask.getLsbD (i / 8))) := fun l => by
    induction l with
    | nil => simp
    | cons k l ih =>
      intro acc
      rw [List.foldl_cons, ih]
      by_cases hk : k = i / 8
      · subst hk
        cases hm : mask.getLsbD (i / 8) with
        | true => rw [if_pos rfl, BitVec.getLsbD_or, hbyte]; simp
        | false => simp
      · have hk' : ¬ i / 8 = k := fun e => hk e.symm
        cases hm : mask.getLsbD k with
        | true => rw [if_pos rfl, BitVec.getLsbD_or, hbyte]; simp [hk, hk']
        | false => simp [hk']
  unfold maskBits
  rw [hfold]
  simp
  omega

/-- The eight bytes at the foot of a line read as the number that was put there. -/
theorem lineNum_putNum_word (d : W1024) {x : Nat} (hx : x < 2 ^ 64) : lineNum (putNum d 0 8 x) 0 8 = x := by
  refine Nat.eq_of_testBit_eq fun i => ?_
  unfold lineNum
  rw [Nat.testBit_mod_two_pow]
  by_cases hi : i < 64
  · have hm : (byteMask 0 8).getLsbD (i / 8) = true := by
      simp only [byteMask, BitVec.getLsbD_shiftLeft, BitVec.getLsbD_ofNat, Nat.testBit_two_pow_sub_one]
      simp
      omega
    have hbits : (maskBits (byteMask 0 8)).getLsbD i = true := (maskBits_getLsbD _ (by omega)).trans hm
    have hlt : i < 1024 := by omega
    have hput : (putNum d 0 8 x).getLsbD i = x.testBit i := by
      simp only [putNum, merge, BitVec.getLsbD_or, BitVec.getLsbD_and, BitVec.getLsbD_not, hbits, Nat.mul_zero, BitVec.getLsbD_shiftLeft,
        BitVec.getLsbD_ofNat]
      simp [hlt]
    simp [hi, ← hput, BitVec.testBit_toNat]
  · have : x.testBit i = false := Nat.testBit_lt_two_pow (hx.trans_le (Nat.pow_le_pow_right (by decide) (by omega)))
    simp [hi, this]

theorem lineNum_lt (d : W1024) (i n : Nat) : lineNum d i n < 2 ^ (8 * n) := Nat.mod_lt _ (Nat.two_pow_pos _)

/-- A number at the foot of a line, under what stands above it. -/
theorem lineNum_ofNat_add {x : Nat} (hx : x < 2 ^ 64) (y : Nat) : lineNum (BitVec.ofNat 1024 (x + 2 ^ 64 * y)) 0 8 = x := by
  have hdvd : 2 ^ (8 * 8) ∣ 2 ^ 1024 := Nat.pow_dvd_pow 2 (by decide)
  rw [lineNum, Nat.mul_zero, BitVec.ushiftRight_zero, BitVec.toNat_ofNat, Nat.mod_mod_of_dvd _ hdvd]
  exact (Nat.add_mul_mod_self_left x (2 ^ 64) y).trans (Nat.mod_eq_of_lt hx)

/-- A scalar load sees of a number the bytes of its size (R208). -/
theorem loadExt_mod (sz : Fin 8) (x : Nat) : loadExt sz (x % 2 ^ (8 * szBytes sz)) = loadExt sz x := by
  have hext : ∀ w, ext64 true w (x % 2 ^ w) = ext64 true w x := fun w => by simp only [ext64, asInt, Nat.mod_mod]
  have hnum : ∀ k, x % 2 ^ k % 2 ^ k = x % 2 ^ k := fun k => Nat.mod_mod _ _
  match sz with
  | 0 => exact congrArg (BitVec.ofNat 64) (hnum 8)
  | 1 => exact congrArg (BitVec.ofNat 64) (hnum 16)
  | 2 => exact congrArg (BitVec.ofNat 64) (hnum 32)
  | 3 => exact BitVec.eq_of_toNat_eq (hnum 64)
  | 4 => exact hext 8
  | 5 => exact hext 16
  | 6 => exact hext 32
  | 7 => exact BitVec.eq_of_toNat_eq (hnum 64)

theorem szBytes_le (sz : Nat) : szBytes sz ≤ 8 := show 2 ^ (sz % 4) ≤ 2 ^ 3 from Nat.pow_le_pow_right (by decide) (by omega)

/-- A scalar load that is given the eight bytes at its place is given those of its size. -/
theorem loadExt_lineNum (d : W1024) (i : Nat) (sz : Fin 8) : loadExt sz (lineNum d i 8) = loadExt sz (lineNum d i (szBytes sz)) := by
  have hdvd : 2 ^ (8 * szBytes sz) ∣ 2 ^ (8 * 8) := Nat.pow_dvd_pow 2 (Nat.mul_le_mul_left 8 (szBytes_le sz))
  rw [← loadExt_mod sz (lineNum d i 8)]
  unfold lineNum
  rw [Nat.mod_mod_of_dvd _ hdvd]

end Sys2Proof.Machine
end

section
/-!
SUPPORT. What an access of a strand sends, and what a change of a strand leaves of what the access looks at (R107, R109, R211, R313).
-/

namespace Sys2Proof.Machine

/-! ## A change of a strand that leaves what it waits for -/

/-- Whether a strand waits for a change of a bank that some bytes lie in (R109). -/
def Wait.changes (w : Wait) (off n : Nat) : Bool :=
  match w with
  | .bmode b _ => decide (off / 8192 ≤ b) && decide (b ≤ (off + n - 1) / 8192)
  | _ => false

theorem Core.changing_eq (x : Core) (off n : Nat) :
    x.changing off n = (x.strands.toList.map Strand.wait).any fun w => w.changes off n := by
  rw [List.any_map]
  rfl

theorem Core.changing_setStrand (x : Core) {i : Nat} {u : Strand} (off n : Nat) (h : u.wait = (x.strand i).wait) :
    (x.setStrand i u).changing off n = x.changing off n := by
  have hw : (x.setStrand i u).strands.toList.map Strand.wait = x.strands.toList.map Strand.wait := by
    refine List.ext_getElem (by simp) fun j hj _ => ?_
    have hj4 : j < 4 := by simpa using hj
    by_cases hi : i = j
    · subst hi
      simp [Core.setStrand, h, Core.strand, hj4]
    · simp [Core.setStrand, hi]
  rw [Core.changing_eq, Core.changing_eq, hw]

section Strand

variable (s : State) (c i : Nat) {f : Strand → Strand} (hf : (f (s.strand c i)).wait = (s.strand c i).wait)

theorem State.l1Find_modStrand (f : Strand → Strand) (ln : Nat) : ((s.modStrand c i f).core c).l1Find ln = (s.core c).l1Find ln := by
  rw [State.core_modStrand]
  rfl

theorem State.filling_modStrand (f : Strand → Strand) (ln : Nat) : ((s.modStrand c i f).core c).filling ln = (s.core c).filling ln := by
  rw [State.core_modStrand]
  rfl

theorem State.writePending_modStrand (f : Strand → Strand) (ln : Nat) : (s.modStrand c i f).writePending c ln = s.writePending c ln := by
  unfold State.writePending
  rw [State.core_modStrand]
  rfl

include hf in
theorem State.lineHeld_modStrand (p : Piece) : ((s.modStrand c i f).core c).lineHeld p = (s.core c).lineHeld p := by
  have hl := s.l1Find_modStrand c i f p.place
  unfold Core.lineHeld
  rw [hl]
  unfold State.modStrand State.setStrand at *
  simp only [State.core_modCore_same, Core.changing_setStrand (s.core c) _ _ hf]

end Strand

/-! ## What a piece sends (R76, R211) -/

/-- Where a piece goes: to the core of its window, to the host port, or to a slice. -/
def State.pieceDest (s : State) (c : Nat) (p : Piece) : Nat :=
  if p.win then p.place else if p.host then epHost else epSlice (s.routeOf c p.place p.cached)

/-- What a piece asks for. -/
def Piece.body (p : Piece) (who : Who) (asid : BitVec 16) (prv : Bool) (op : MemOp) : Body :=
  if p.win then
    .win who p (match op with | .amo a => some a | _ => none) (op != .read && (match op with | .amo a => some a | _ => none).isNone) prv
  else .mem { op, line := p.place, off := p.off, mask := p.mask, data := p.data, who, asid := some asid, px := none }

theorem State.sendPiece_effect (s : State) (c : Nat) (who : Who) (asid : BitVec 16) (prv : Bool) (p : Piece) (op : MemOp) :
    NetOnly s (s.sendPiece c who asid prv p op) ∧ Mails s (s.sendPiece c who asid prv p op) c (s.pieceDest c p) 0 0
      (p.body who asid prv op) := by
  unfold State.sendPiece State.pieceDest Piece.body
  split
  · exact s.request_effect _ _ _ _ _ _
  · exact s.request_effect _ _ _ _ _ _

theorem State.routeOf_congr {s t : State} (hf : t.flash = s.flash) (hp : t.ptcfg = s.ptcfg) (c ln : Nat) (b : Bool) :
    t.routeOf c ln b = s.routeOf c ln b := by
  unfold State.routeOf
  simp only [State.homeOf_congr hf hp, State.sliceLive_congr hf]

theorem State.pieceDest_congr {s t : State} (hf : t.flash = s.flash) (hp : t.ptcfg = s.ptcfg) (c : Nat) (p : Piece) :
    t.pieceDest c p = s.pieceDest c p := by
  unfold State.pieceDest
  rw [State.routeOf_congr hf hp]

/-- A strand's piece has left, and the strand waits for its answer: `t` differs from `s` in the core and in the message. -/
def PieceSent (s t : State) (c i : Nat) (p : Piece) (op : MemOp) (u : Strand) : Prop :=
  Sends s t c (s.pieceDest c p) 0 (p.body (.strand c i) (u.asid.setWidth 16) u.prv op) ∧ t.strand c i = u

/-- The last step of an access that sends a piece: whatever has changed in the core but its strands. -/
theorem State.sendPiece_sent {s v : State} {c i : Nat} {p : Piece} {op : MemOp} {w : Wait} (hi : i < 4)
    (hv : v = { s with cores := v.cores }) (hs : v.strand c i = s.strand c i) :
    PieceSent s ((v.modStrand c i fun t => { t with wait := w }).sendPiece c (.strand c i) ((s.strand c i).asid.setWidth 16)
      (s.strand c i).prv p op) c i p op { s.strand c i with wait := w } := by
  obtain ⟨u, hu⟩ : ∃ u, u = v.modStrand c i fun t => { t with wait := w } := ⟨_, rfl⟩
  have hus : u.strand c i = { s.strand c i with wait := w } := by rw [hu, State.strand_modStrand_same _ _ _ hi, hs]
  have hueq : u = { s with cores := u.cores } := by
    rw [hu]
    unfold State.modStrand State.setStrand State.modCore State.setCore
    rw [hv]
  rw [← hu]
  obtain ⟨hn, m, hm⟩ := u.sendPiece_effect c (.strand c i) ((s.strand c i).asid.setWidth 16) (s.strand c i).prv p op
  have hd : u.pieceDest c p = s.pieceDest c p := State.pieceDest_congr (by rw [hueq]) (by rw [hueq]) c p
  have ht : u.transit = s.transit := by rw [hueq]
  rw [hd, ht] at hm
  refine ⟨⟨?_, m, hm⟩, (hn.strand c i).trans hus⟩
  generalize u.sendPiece _ _ _ _ _ _ = t at hn
  rw [NetOnly] at hn
  rw [hn, hueq]

end Sys2Proof.Machine
end

section
/-!
PROOFS. The steps of a strand's access: a piece that it sends, one that it must wait with, one that the first-level cache answers, and the
access's end (R107, R174, R211, R305, R313).
-/

namespace Sys2Proof.Machine

/-- Whether an access acquires at its end (R213): the first-level cache does not answer it. -/
def Access.acquires (a : Access) : Bool :=
  match a.last with
  | .load _ _ q => q.isSome
  | .vload _ _ q => q.isSome
  | _ => false

/-- A load's miss notes that a fill of the line is on its way (R107). -/
def State.noteFill (s : State) (c i : Nat) (p : Piece) : State :=
  if p.cached && !(s.core c).ways.isEmpty then
    s.modCore c fun x => { x with fills := { who := some i, line := p.place, id := 0 } :: x.fills }
  else s

/-- A store and an AMO call fills of their line off, and change or drop the first-level line (R107, R313). -/
def State.changeLine (s : State) (c : Nat) (p : Piece) (op : MemOp) : State :=
  if p.win || p.host then s
  else s.modCore c fun x => if op = .write then (x.noFill p.place).l1Write p.place p.data p.mask else (x.noFill p.place).l1Drop p.place

theorem State.noteFill_cores (s : State) (c i : Nat) (p : Piece) : s.noteFill c i p = { s with cores := (s.noteFill c i p).cores } := by
  unfold State.noteFill
  split <;> rfl

theorem State.strand_noteFill (s : State) (c i : Nat) (p : Piece) : (s.noteFill c i p).strand c i = s.strand c i := by
  unfold State.noteFill
  split
  · exact State.strand_modCore_keep _ _ _ _ fun _ => rfl
  · rfl

theorem State.changeLine_cores (s : State) (c : Nat) (p : Piece) (op : MemOp) :
    s.changeLine c p op = { s with cores := (s.changeLine c p op).cores } := by
  unfold State.changeLine
  split <;> rfl

theorem State.strand_changeLine (s : State) (c i : Nat) (p : Piece) (op : MemOp) :
    (s.changeLine c p op).strand c i = s.strand c i := by
  unfold State.changeLine
  split
  · rfl
  · exact State.strand_modCore_keep _ _ _ _ fun _ => by split <;> rfl

section Go

variable {s : State} {c i : Nat} {a : Access} {p : Piece} {rest : List Piece} (k : Nat) (ht : a.todo = p :: rest)
  (hheld : (s.core c).lineHeld p = false)
include ht hheld

/-- A load whose bank does not change its mode. -/
theorem State.accessGo_read (hop : a.op = .read) :
    s.accessGo c i a (k + 1) =
      match (if p.cached && !a.acquires then (s.core c).l1Find p.place else none) with
      | some h => (s.modCore c (·.l1Touch p.place)).accessGo c i { a with todo := rest, acc := fillLanes a.last.width a.acc p h.data } k
      | none =>
        if p.cached && (s.writePending c p.place || (s.core c).filling p.place) then
          s.modStrand c i fun t => { t with wait := .access { a with cur := none, todo := p :: rest } }
        else
          ((s.noteFill c i p).modStrand c i fun t => { t with wait := .access { a with cur := some p, todo := rest } }).sendPiece c
            (.strand c i) ((s.strand c i).asid.setWidth 16) (s.strand c i).prv p .read := by
  rw [State.accessGo, ht]
  simp only [hheld, hop, Bool.false_eq_true, if_false]
  rfl

/-- A load whose line the first-level cache holds takes its bytes from there. -/
theorem State.accessGo_hit {h : L1Line} (hop : a.op = .read) (hc : p.cached = true) (hq : a.acquires = false)
    (hl : (s.core c).l1Find p.place = some h) :
    s.accessGo c i a (k + 1) = (s.modCore c (·.l1Touch p.place)).accessGo c i
      { a with todo := rest, acc := fillLanes a.last.width a.acc p h.data } k := by
  rw [State.accessGo_read k ht hheld hop]
  simp only [hc, hq, hl, Bool.not_false, Bool.and_self, if_true]

/-- A load that may not or cannot be answered there sends its piece. -/
theorem State.accessGo_reads (hi : i < 4) (hop : a.op = .read) (hmiss : p.cached = true →
      (a.acquires = true ∨ (s.core c).l1Find p.place = none) ∧ s.writePending c p.place = false ∧ (s.core c).filling p.place = false) :
    PieceSent s (s.accessGo c i a (k + 1)) c i p .read
      { s.strand c i with wait := .access { a with cur := some p, todo := rest } } := by
  have hfind : (if p.cached && !a.acquires then (s.core c).l1Find p.place else none) = none := by
    cases hc : p.cached with
    | false => rfl
    | true =>
      obtain ⟨hq | hl, -, -⟩ := hmiss hc
      · simp [hq]
      · simp [hl]
  have hfree : (p.cached && (s.writePending c p.place || (s.core c).filling p.place)) = false := by
    cases hc : p.cached with
    | false => rfl
    | true =>
      obtain ⟨-, hw, hf⟩ := hmiss hc
      simp [hw, hf]
  rw [State.accessGo_read k ht hheld hop]
  simp only [hfind, hfree, Bool.false_eq_true, if_false]
  exact State.sendPiece_sent hi (s.noteFill_cores c i p) (s.strand_noteFill c i p)

/-- A store or an AMO sends its piece, unless it is a store that must wait behind another. -/
theorem State.accessGo_asks (hi : i < 4) (hop : a.op ≠ .read)
    (hb : ¬ (a.op = .write ∧ p.win = false ∧ p.host = false ∧ ((s.core c).l1Find p.place).isSome = true ∧
      s.writePending c p.place = true)) :
    PieceSent s (s.accessGo c i a (k + 1)) c i p a.op
      { s.strand c i with wait := .access { a with cur := some p, todo := rest } } := by
  have hpass : (decide (a.op = .write) && !p.win && !p.host && ((s.core c).l1Find p.place).isSome && s.writePending c p.place) = false := by
    rw [Bool.eq_false_iff]
    intro h
    simp only [Bool.and_eq_true, decide_eq_true_eq, Bool.not_eq_true'] at h
    obtain ⟨⟨⟨⟨ho, hw⟩, hh⟩, hl⟩, hp⟩ := h
    exact hb ⟨ho, hw, hh, hl, hp⟩
  have hgo : s.accessGo c i a (k + 1) =
      ((s.changeLine c p a.op).modStrand c i fun t => { t with wait := .access { a with cur := some p, todo := rest } }).sendPiece c
        (.strand c i) ((s.strand c i).asid.setWidth 16) (s.strand c i).prv p a.op := by
    rw [State.accessGo, ht]
    simp only [hheld, hpass, Bool.false_eq_true, if_false]
    rfl
  rw [hgo]
  exact State.sendPiece_sent hi (s.changeLine_cores c p a.op) (s.strand_changeLine c i p a.op)

/-- A store that hits a line to which another store is not performed waits with its piece (R314). -/
theorem State.accessGo_behind (hop : a.op = .write) (hw : p.win = false) (hh : p.host = false)
    (hl : ((s.core c).l1Find p.place).isSome = true) (hp : s.writePending c p.place = true) :
    s.accessGo c i a (k + 1) = s.modStrand c i fun t => { t with wait := .access { a with cur := none, todo := p :: rest } } := by
  rw [State.accessGo, ht]
  simp only [hheld, hop, hw, hh, hl, hp, Bool.false_eq_true, if_false, decide_true, Bool.not_false, Bool.and_self, if_true]

end Go

end Sys2Proof.Machine
end

section
/-!
PROOFS. Scalar accesses outside the local store, from their issue to the piece that they send: the one lane's check, what keeps the strand
from going on, and the count that rises (R38, R40, R174, R210, R211).
-/

namespace Sys2Proof.Machine

theorem Begins.turn {x : PxSpec} {pr : Bool} {p : Pred} {s : State} (h : Begins x pr p s) : s.cur.2 < 4 := h.1

/-! ## One lane -/

theorem State.checkLane_global {s : State} {a : W64} {n pa : Nat} {need : Need} {p : Page} (acc : AccTy) (h : GlobalOk s a n need p pa) :
    s.checkLane s.cur.1 s.cur.2 n acc need a = .ok (.mem pa p.loc (!p.loc && p.cp == 0)) := by
  obtain ⟨ha, hpt, va, hd, hp, hperm, rfl⟩ := h
  have hlocal : localOf s.cur.1 (s.strand s.cur.1 s.cur.2).stkb a n = none := by
    unfold localOf
    obtain hd | hd := hd <;> (rw [State.me] at hd; rw [hd])
  have htgt : s.target s.cur.1 (s.strand s.cur.1 s.cur.2).stkb a n need.prv = .ok (.glob va) := by
    unfold State.target
    obtain hd | hd := hd <;> (rw [State.me] at hd; rw [hd]; exact if_neg hpt)
  have hx : s.xlate s.cur.1 s.cur.2 va a acc need = .page p := by
    unfold State.xlate
    rw [State.myCore, State.me] at hp
    simp only [hp, hperm, if_true]
  simp [State.checkLane, ha, hlocal, htgt, hx]

theorem State.checkLane_window {s : State} {a : W64} {n k off : Nat} (acc : AccTy) (need : Need) (h : WindowOk s a n k off) :
    s.checkLane s.cur.1 s.cur.2 n acc need a = .ok (.win k off) := by
  obtain ⟨ha, hk, hl, hd⟩ := h
  rw [State.me] at hd
  have hlocal : localOf s.cur.1 (s.strand s.cur.1 s.cur.2).stkb a n = none := by
    unfold localOf
    rw [hd]
    exact if_neg hk
  have htgt : s.target s.cur.1 (s.strand s.cur.1 s.cur.2).stkb a n need.prv = .ok (.win k off) := by
    unfold State.target
    rw [hd]
    simp only [if_neg hk, hl, if_true]
  simp [State.checkLane, ha, hlocal, htgt]

theorem State.checkLanes_single {s : State} {c i n : Nat} {acc : AccTy} {need : Need} {a : W64} {sp : Spot}
    (h : s.checkLane c i n acc need a = .ok sp) : s.checkLanes c i n acc need [(0, a)] = .ok [((0, a), sp)] := by
  simp only [State.checkLanes, h]

theorem remotePieces_single {n d : Nat} {a : W64} {sp : Spot} (hs : sp.isLoc = false) :
    remotePieces n false (fun _ => d) [((0, a), sp)] = [mkPiece n d (0, a) sp] := by
  simp [remotePieces, hs]

theorem gatherLocal_remote (ls : Memory) (w n : Nat) (acc : W1024) {a : W64} {sp : Spot} (hs : sp.isLoc = false) :
    gatherLocal ls w n acc [((0, a), sp)] = acc := by
  cases sp with
  | loc off => cases hs
  | win k off => rfl
  | mem pa host cached => rfl

/-! ## What an access must wait for -/

/-- An access that does not wait: no bank under its line changes its mode, and a load that misses follows no store to its line. -/
theorem State.accessStalls_single {s : State} {q : Piece} {r acq : Bool} (h : s.accessStalls [q] r acq = false) :
    s.myCore.lineHeld q = false ∧ (r = true → q.win = false → q.host = false → q.cached = true →
      acq = true ∨ s.myCore.l1Find q.place = none → s.writePending s.cur.1 q.place = false) := by
  simp only [State.accessStalls, List.any_cons, List.any_nil, Bool.or_false, Bool.or_eq_false_iff] at h
  obtain ⟨⟨-, hheld⟩, hw⟩ := h
  refine ⟨hheld, fun hr hwin hh hc hq => ?_⟩
  have hq' : (acq || (s.myCore.l1Find q.place).isNone) = true := by
    obtain hq | hq := hq <;> simp [hq]
  simpa [hr, hwin, hh, hc, hq'] using hw

/-! ## The access begins -/

/-- An access of one piece that is not sent yet. -/
def Access.single (last : AccEnd) (amo : Option AmoReq) (q : Piece) : Access := { last, amo, cur := none, todo := [q], acc := 0 }

/-- An access whose one piece is on its way. -/
def Access.sent (last : AccEnd) (amo : Option AmoReq) (q : Piece) : Access := { last, amo, cur := some q, todo := [], acc := 0 }

/-- A strand whose loads or stores under way are one more (R174). -/
def Strand.counted (t : Strand) (last : AccEnd) : Strand :=
  if last = .store then { t with stc := t.stc + 1 } else { t with ldc := t.ldc + 1 }

theorem Strand.counted_wait (t : Strand) (last : AccEnd) : (t.counted last).wait = t.wait := by
  unfold Strand.counted
  split <;> rfl

theorem Strand.counted_asid (t : Strand) (last : AccEnd) : (t.counted last).asid = t.asid := by
  unfold Strand.counted
  split <;> rfl

theorem Strand.counted_prv (t : Strand) (last : AccEnd) : (t.counted last).prv = t.prv := by
  unfold Strand.counted
  split <;> rfl

/-- The strand that has sent a piece of its access, or waits with it. -/
def State.waiting (s : State) (b : Access) : Strand := { s.me.counted b.last with wait := .access b }

theorem State.startAccess_single (s : State) (last : AccEnd) (amo : Option AmoReq) (q : Piece) :
    s.startAccess (.single last amo q) = (s.modMe (·.counted last)).accessGo s.cur.1 s.cur.2 (.single last amo q) 2 := rfl

section Start

variable {s : State} {last : AccEnd} {amo : Option AmoReq} {q : Piece} (hi : s.cur.2 < 4)

/-- The piece of the strand whose turn it is has left. -/
def AccessSent (s t : State) (q : Piece) (op : MemOp) (b : Access) : Prop :=
  Sends s t s.cur.1 (s.pieceDest s.cur.1 q) 0 (q.body (.strand s.cur.1 s.cur.2) (s.me.asid.setWidth 16) s.me.prv op) ∧ t.me = s.waiting b

theorem PieceSent.accessSent {t : State} {op : MemOp} {b : Access} (hi : s.cur.2 < 4)
    (h : PieceSent (s.modMe (·.counted b.last)) t s.cur.1 s.cur.2 q op
      { (s.modMe (·.counted b.last)).strand s.cur.1 s.cur.2 with wait := .access b }) : AccessSent s t q op b := by
  have hme : (s.modMe (·.counted b.last)).strand s.cur.1 s.cur.2 = s.me.counted b.last := s.me_modMe _ hi
  rw [hme] at h
  obtain ⟨u, hu⟩ : ∃ u, u = s.waiting b := ⟨_, rfl⟩
  change PieceSent _ _ _ _ _ _ (s.waiting b) at h
  rw [← hu] at h
  obtain ⟨⟨ht, m, hm⟩, hs⟩ := h
  have ha : u.asid = s.me.asid := by rw [hu]; exact s.me.counted_asid b.last
  have hp : u.prv = s.me.prv := by rw [hu]; exact s.me.counted_prv b.last
  have hd : (s.modMe (·.counted b.last)).pieceDest s.cur.1 q = s.pieceDest s.cur.1 q :=
    State.pieceDest_congr (s := s) (t := s.modMe (·.counted b.last)) rfl rfl _ _
  rw [ha, hp, hd] at hm
  have hcur : t.cur = s.cur := by rw [ht]; rfl
  refine ⟨⟨?_, m, hm⟩, ?_⟩
  · rw [ht]
    rfl
  · rw [State.me, hcur, hs, hu]

include hi

/-- A load that the first-level cache may not or cannot answer sends its piece. -/
theorem State.startAccess_reads (hamo : amo = none) (hlast : ∃ d sz q, last = .load d sz q) (hheld : s.myCore.lineHeld q = false)
    (hmiss : q.cached = true → ((Access.single last amo q).acquires = true ∨ s.myCore.l1Find q.place = none) ∧
      s.writePending s.cur.1 q.place = false ∧ s.myCore.filling q.place = false) :
    AccessSent s (s.startAccess (.single last amo q)) q .read (.sent last amo q) := by
  obtain ⟨d, sz, acq, rfl⟩ := hlast
  subst hamo
  rw [State.startAccess_single]
  refine PieceSent.accessSent hi (State.accessGo_reads 1 (s := s.modMe (·.counted (.load d sz acq))) (c := s.cur.1) (i := s.cur.2)
    (a := .single (.load d sz acq) none q) (p := q) (rest := []) rfl ?_ hi rfl ?_)
  · exact (State.lineHeld_modStrand _ _ _ (Strand.counted_wait _ _) q).trans hheld
  · rw [State.modMe, State.l1Find_modStrand, State.filling_modStrand, State.writePending_modStrand]
    exact hmiss

/-- A store or an AMO sends its piece, unless it is a store that must wait behind another. -/
theorem State.startAccess_asks {op : MemOp} (hop : (Access.single last amo q).op = op) (hr : op ≠ .read)
    (hheld : s.myCore.lineHeld q = false)
    (hb : ¬ (op = .write ∧ q.win = false ∧ q.host = false ∧ (s.myCore.l1Find q.place).isSome = true ∧
      s.writePending s.cur.1 q.place = true)) :
    AccessSent s (s.startAccess (.single last amo q)) q op (.sent last amo q) := by
  subst hop
  rw [State.startAccess_single]
  refine PieceSent.accessSent hi (State.accessGo_asks 1 (s := s.modMe (·.counted last)) (c := s.cur.1) (i := s.cur.2)
    (a := .single last amo q) (p := q) (rest := []) rfl ?_ hi hr ?_)
  · exact (State.lineHeld_modStrand _ _ _ (Strand.counted_wait _ _) q).trans hheld
  · rw [State.modMe, State.l1Find_modStrand, State.writePending_modStrand]
    exact hb

/-- A store that must wait behind another keeps its piece; nothing but its strand has changed. -/
theorem State.startAccess_behind (hop : (Access.single last amo q).op = .write) (hheld : s.myCore.lineHeld q = false) (hw : q.win = false)
    (hh : q.host = false) (hl : (s.myCore.l1Find q.place).isSome = true) (hp : s.writePending s.cur.1 q.place = true) :
    OnlyStrand s.cur.1 s.cur.2 s (s.startAccess (.single last amo q)) ∧
      (s.startAccess (.single last amo q)).me = s.waiting (.single last amo q) := by
  have hgo := State.accessGo_behind 1 (s := s.modMe (·.counted last)) (c := s.cur.1) (i := s.cur.2) (a := .single last amo q) rfl
    ((State.lineHeld_modStrand _ _ _ (Strand.counted_wait _ _) q).trans hheld) hop hw hh
    (by rw [State.modMe, State.l1Find_modStrand]; exact hl) (by rw [State.modMe, State.writePending_modStrand]; exact hp)
  rw [State.startAccess_single, hgo]
  refine ⟨(s.modStrand_only _ _ _).trans (State.modStrand_only _ _ _ _), ?_⟩
  exact (State.modStrand_modStrand _ _ _ _ _ hi)

end Start

end Sys2Proof.Machine
end

section
/-!
PROOFS. How a strand's access ends: its destination is written, its count falls and its instruction retires (R107, R174, R211, R305).
-/

namespace Sys2Proof.Machine

/-! ## One strand gone on -/

/-- Where one strand only has changed, every other core is as it was. -/
theorem OnlyStrand.core_other {c i k : Nat} {s t : State} (h : OnlyStrand c i s t) (hk : k ≠ c) : t.core k = s.core k := by
  obtain ⟨-, hcore, hstrand⟩ := h
  have hs : (t.core k).strands = (s.core k).strands := Vector.ext fun j hj => by
    have := hstrand k j fun e => hk (congrArg Prod.fst e)
    simpa [State.strand, Core.strand, hj] using this
  rw [hcore k, hs]

/-- A core that differs from `k` in its strands at most. -/
def Core.But (x k : Core) : Prop := x = { k with strands := x.strands }

/-- A strand that has retired in a state that differs from `s` in its core at most has gone on from `s`. -/
theorem RetiresAt.goesOn {c i : Nat} {s w t : State} {u v : Strand} {k : Core} (h : RetiresAt c i w t u)
    (hother : ∀ j, j ≠ c → w.core j = s.core j) (hself : (w.core c).But k) (hstrand : ∀ j, j ≠ i → w.strand c j = s.strand c j)
    (hp : w.past c i u = s.past c i v) : GoesOn c i s t v k := by
  obtain ⟨ho, hs⟩ := h
  refine ⟨fun j hj => (ho.core_other hj).trans (hother j hj), fun j hj => ?_, ?_, hs.trans hp⟩
  · obtain ⟨-, -, h3⟩ := ho
    exact (h3 c j fun e => hj (congrArg Prod.snd e)).trans (hstrand j hj)
  · obtain ⟨-, h2, -⟩ := ho
    rw [h2 c, hself]

theorem State.joinOf_congr {s t : State} {c i : Nat} (hpc : (t.strand c i).pc = (s.strand c i).pc)
    (hj : (t.strand c i).join4 = (s.strand c i).join4) : t.joinOf c i = s.joinOf c i := by
  simp only [State.joinOf, hpc, hj]

theorem Strand.write_waits (t : Strand) (w : Wait) (d : Opd) (x : W64) :
    ({ t with wait := w } : Strand).write d x = { t.write d x with wait := w } := by
  cases d with
  | k n =>
    unfold Strand.write Strand.setK
    dsimp only
    split <;> rfl
  | _ => rfl

/-! ## The end of an access -/

/-- What the end of an access makes of its strand (R174, R211, R305). -/
def Strand.answered (t : Strand) (a : Access) : Strand :=
  match a.last with
  | .load d sz _ => ({ t with ldc := t.ldc - 1 }).write d (loadExt sz (lineNum a.acc 0 8))
  | .amo d tagged _ _ => ({ t with ldc := t.ldc - 1 }).write d (match a.amo with
    | some r => amoResult r tagged ((a.acc >>> 64).setWidth 32) (lineNum a.acc 0 8)
    | none => 0)
  | _ => { t with stc := t.stc - 1 }

/-- A scalar access that neither acquires nor holds a ticket. -/
def Access.plainEnd (a : Access) : Prop :=
  a.last = .store ∨ (∃ d sz, a.last = .load d sz none) ∨ ∃ d g, a.last = .amo d g none none

theorem Strand.answered_keeps {a : Access} (ha : a.plainEnd) (t : Strand) :
    (t.answered a).pc = t.pc ∧ (t.answered a).join4 = t.join4 ∧ (t.answered a).status = t.status ∧
      ∀ w, ({ t with wait := w } : Strand).answered a = { t.answered a with wait := w } := by
  have hwrite : ∀ d x, let f := fun t : Strand => ({ t with ldc := t.ldc - 1 }).write d x
      (f t).pc = t.pc ∧ (f t).join4 = t.join4 ∧ (f t).status = t.status ∧ ∀ w, f { t with wait := w } = { f t with wait := w } :=
    fun d x => ⟨Strand.write_pc _ _ _, Strand.write_join4 _ _ _, Strand.write_status _ _ _,
      fun w => Strand.write_waits { t with ldc := t.ldc - 1 } w _ _⟩
  unfold Strand.answered
  obtain h | ⟨d, sz, h⟩ | ⟨d, g, h⟩ := ha
  · rw [h]
    exact ⟨rfl, rfl, rfl, fun _ => rfl⟩
  · rw [h]
    exact hwrite _ _
  · rw [h]
    exact hwrite _ _

theorem State.accessDone_eq (s : State) (c i : Nat) {a : Access} (ha : a.plainEnd) :
    s.accessDone c i a = ((s.modStrand c i fun t => { t with wait := .no }).modStrand c i (·.answered a)).retireAt c i := by
  unfold State.accessDone Strand.answered
  obtain h | ⟨d, sz, h⟩ | ⟨d, g, h⟩ := ha
  · rw [h]
  · rw [h]
  · rw [h]
    rfl

/-- The access ends and its strand goes on. -/
theorem State.accessDone_retires (s : State) (c : Nat) {i : Nat} {a : Access} (ha : a.plainEnd) (hi : i < 4)
    (hu : ((s.strand c i).sstep && (s.strand c i).ie) = false) :
    RetiresAt c i s (s.accessDone c i a) ((s.strand c i).answered a) := by
  obtain ⟨w, hw⟩ : ∃ w, w = s.modStrand c i fun t => { t with wait := .no } := ⟨_, rfl⟩
  have hws : w.strand c i = { s.strand c i with wait := .no } := by rw [hw, State.strand_modStrand_same _ _ _ hi]
  have honly : OnlyStrand c i s w := by rw [hw]; exact s.modStrand_only _ _ _
  obtain ⟨hpc, hj, hst, -⟩ := Strand.answered_keeps ha (w.strand c i)
  have hoff : (((w.strand c i).answered a).sstep && ((w.strand c i).answered a).ie) = false :=
    Strand.unstepped_of_status (t := s.strand c i) (by rw [hst, hws]) hu
  obtain ⟨ho, hs⟩ := w.retireAt_after c i (·.answered a) hi hoff hpc hj
  rw [s.accessDone_eq c i ha, ← hw]
  refine ⟨honly.trans ho, hs.trans ?_⟩
  obtain ⟨-, -, -, hwait⟩ := Strand.answered_keeps ha (s.strand c i)
  have hjoin : w.joinOf c i = s.joinOf c i := State.joinOf_congr (by rw [hws]) (by rw [hws])
  rw [State.past, State.past, hjoin, hws, hwait]
  rfl

end Sys2Proof.Machine
end

section
/-!
PROOFS. LD, ST and AMO at their issue, with an access outside the local store (R76, R107, R211, R304, R305).
-/

namespace Sys2Proof.Machine

/-! ## The state that an access begins in -/

/-- A load begins in the view of the local store that it takes, which only counts the choices made (R298). -/
theorem State.lsView_draws (s : State) (c : Nat) : (s.lsView c).1 = { s with draws := (s.lsView c).1.draws } := by
  unfold State.lsView
  dsimp only
  split <;> rfl

/-- A change of the core that leaves each core as it is. -/
theorem State.core_modCore_id (s : State) (c k : Nat) : (s.modCore c fun x => x).core k = s.core k := by
  by_cases hk : k = c
  · subst hk
    exact State.core_modCore_same _ _ _
  · exact State.core_modCore_other _ _ hk

/-! ## The bodies of LD, ST and AMO -/

section Issue

variable {s : State} {a : W64} {n : Nat} {sp : Spot}

theorem exec_ld_remote {x : MemA} (hb : Begins .no false x.p s)
    (hl : s.checkLane s.cur.1 s.cur.2 (szBytes x.sz) .load (.load s.me.prv) (memAddr x s.me) = .ok sp) (hs : sp.isLoc = false)
    (hst : s.accessStalls [mkPiece (szBytes x.sz) 0 (0, memAddr x s.me) sp] true (memAcq x).isSome = false) (hc : s.me.ldc < 64) :
    exec (.ld x) s = .next ((s.lsView s.cur.1).1.startAccess
      (.single (.load x.d x.sz (memAcq x)) none (mkPiece (szBytes x.sz) 0 (0, memAddr x s.me) sp))) := by
  refine congrArg _ ((State.begin_body hb _).trans ?_)
  unfold State.loadLanes
  simp only [State.checkLanes_single hl, remotePieces_single hs, hst, Nat.not_le.mpr hc, decide_false, Bool.or_self,
    Bool.false_eq_true, if_false, gatherLocal_remote _ _ _ _ hs]
  rfl

theorem exec_st_remote {x : MemA} (hb : Begins .no false x.p s)
    (hl : s.checkLane s.cur.1 s.cur.2 (szBytes x.sz) .store (.store s.me.prv) (memAddr x s.me) = .ok sp) (hs : sp.isLoc = false)
    (hp : x.ord ≠ .p) (hr : x.ord = .rel → s.released s.cur.1 s.cur.2 x.scope = true)
    (hst : s.accessStalls [mkPiece (szBytes x.sz) (s.me.src 0 x.b).toNat (0, memAddr x s.me) sp] false false = false)
    (hc : s.me.stc < 64) :
    exec (.st x) s = .next ((s.modMyCore fun k => k).startAccess
      (.single .store none (mkPiece (szBytes x.sz) (s.me.src 0 x.b).toNat (0, memAddr x s.me) sp))) := by
  have hrel : (decide (x.ord = .rel) && !s.released s.cur.1 s.cur.2 x.scope) = false := by
    by_cases h : x.ord = .rel
    · simp [hr h]
    · simp [h]
  refine congrArg _ ((State.begin_body hb _).trans ?_)
  unfold State.storeLanes
  simp only [State.checkLanes_single hl, remotePieces_single hs, hrel, hst, Nat.not_le.mpr hc, decide_false, Bool.and_false, Bool.or_self,
    Bool.false_eq_true, if_false, if_neg hp, List.foldl_cons, List.foldl_nil]
  cases sp with
  | loc off => cases hs
  | win k off => rfl
  | mem pa host cached => rfl

theorem exec_amo_remote {x : Am} (hb : Begins .no false x.p s)
    (hl : s.checkLane s.cur.1 s.cur.2 (etyWidth x.ty / 8) .atomic (.amo s.me.prv) (amAddr x s.me) = .ok sp) (hs : sp.isLoc = false)
    (hh : (mkPiece (etyWidth x.ty / 8) 0 (0, amAddr x s.me) sp).host = false) (hsc : x.ord ≠ .sc)
    (hr : x.ord = .rel → s.released s.cur.1 s.cur.2 x.scope = true)
    (hst : s.accessStalls [mkPiece (etyWidth x.ty / 8) 0 (0, amAddr x s.me) sp] false false = false)
    (hpush : s.pushPending s.cur.1 s.cur.2 [((0, amAddr x s.me), sp)] (etyWidth x.ty / 8) = false) (hc : s.me.ldc < 64) :
    exec (.amo x) s = .next (s.startAccess (.single (.amo x.d x.tagged (if x.ord = .acq then some x.scope else none) none)
      (some (amReq x s.me)) (mkPiece (etyWidth x.ty / 8) 0 (0, amAddr x s.me) sp))) := by
  have hrel : (decide (x.ord = .rel) && !s.released s.cur.1 s.cur.2 x.scope) = false := by
    by_cases h : x.ord = .rel
    · simp [hr h]
    · simp [h]
  refine congrArg _ ((State.begin_body hb _).trans ?_)
  simp only [State.checkLanes_single hl, remotePieces_single hs, List.any_cons, List.any_nil, hh, hsc, hrel, hst, hpush,
    Nat.not_le.mpr hc, decide_false, Bool.false_and, Bool.or_self, Bool.or_false, Bool.false_eq_true, if_false, decide_eq_true_eq]
  cases sp with
  | loc off => cases hs
  | win k off => rfl
  | mem pa host cached => rfl

end Issue

end Sys2Proof.Machine
end

section
/-!
PROOFS. Accesses at their issue, continued: a load that the first-level cache answers, and an AMO to a page of the host's memory (R107,
R304, R306).
-/

namespace Sys2Proof.Machine

/-! ## From the end of an access to the state in which it began -/

/-- An access that ends in a state which differs from `s` in its core at most, where its strand is not stepped. -/
theorem State.accessDone_goesOn {s w : State} {c i : Nat} {a : Access} {u : Strand} {k : Core} (ha : a.plainEnd) (hi : i < 4)
    (hw : w = { s with cores := w.cores }) (hother : ∀ j, j ≠ c → w.core j = s.core j) (hself : (w.core c).But k)
    (hstrand : ∀ j, j ≠ i → w.strand c j = s.strand c j) (hpc : (w.strand c i).pc = (s.strand c i).pc)
    (hj : (w.strand c i).join4 = (s.strand c i).join4) (hu : ((w.strand c i).sstep && (w.strand c i).ie) = false)
    (hans : (w.strand c i).answered a = u) :
    w.accessDone c i a = { s with cores := (w.accessDone c i a).cores } ∧ GoesOn c i s (w.accessDone c i a) u k := by
  have h := w.accessDone_retires c ha hi hu
  have hp : w.past c i ((w.strand c i).answered a) = s.past c i u := by
    rw [State.past, State.past, State.joinOf_congr hpc hj, hans]
  refine ⟨?_, h.goesOn hother hself hstrand hp⟩
  obtain ⟨⟨ht, -, -⟩, -⟩ := h
  rw [ht, hw]

/-- What a load gathers in its lane is what it takes. -/
theorem lineNum_fillLanes {q : Piece} {off : Nat} (acc d : W1024) (hq : q.lanes = [(0, off)]) :
    lineNum (fillLanes 8 acc q d) 0 8 = lineNum d off 8 := by
  unfold fillLanes
  rw [hq]
  exact lineNum_putNum_word acc (lineNum_lt d off 8)

/-! ## A load that the first-level cache answers -/

theorem State.startAccess_hit {s : State} {d : Opd} {sz off : Nat} {q : Piece} {h : L1Line} (hi : s.cur.2 < 4) (hu : Unstepped s)
    (hheld : s.myCore.lineHeld q = false) (hc : q.cached = true) (hl : s.myCore.l1Find q.place = some h) (hq : q.lanes = [(0, off)]) :
    CompletesIn s (s.startAccess (.single (.load d sz none) none q)) (s.me.write d (loadExt sz (lineNum h.data off 8)))
      (s.myCore.l1Touch q.place) := by
  obtain ⟨v, hv⟩ : ∃ v, v = s.modMe (·.counted (.load d sz none)) := ⟨_, rfl⟩
  obtain ⟨w, hw⟩ : ∃ w, w = v.modCore s.cur.1 (·.l1Touch q.place) := ⟨_, rfl⟩
  have hme : v.strand s.cur.1 s.cur.2 = { s.me with ldc := s.me.ldc + 1 } := by rw [hv]; exact s.me_modMe _ hi
  have hws : ∀ j, w.strand s.cur.1 j = v.strand s.cur.1 j := fun j => by
    rw [hw]; exact State.strand_modCore_keep _ _ _ _ fun _ => rfl
  have hvheld : (v.core s.cur.1).lineHeld q = false := by
    rw [hv]; exact (State.lineHeld_modStrand _ _ _ (Strand.counted_wait _ _) q).trans hheld
  have hvl : (v.core s.cur.1).l1Find q.place = some h := by
    rw [hv]; exact (State.l1Find_modStrand _ _ _ _ _).trans hl
  have hgo : s.startAccess (.single (.load d sz none) none q) = w.accessDone s.cur.1 s.cur.2
      { last := .load d sz none, amo := none, cur := none, todo := [], acc := fillLanes 8 0 q h.data } := by
    rw [State.startAccess_single, ← hv, State.accessGo_hit 1 (rest := []) rfl hvheld rfl hc rfl hvl, ← hw]
    rfl
  rw [hgo]
  refine State.accessDone_goesOn (.inr (.inl ⟨d, sz, rfl⟩)) hi ?_ (fun j hj => ?_) ?_ (fun j hj => ?_) ?_ ?_ ?_ ?_
  · rw [hw, hv]
    rfl
  · rw [hw, hv, State.core_modCore_other _ _ hj]
    exact (s.modStrand_only s.cur.1 s.cur.2 _).core_other hj
  · rw [hw, hv, State.core_modCore_same, State.modMe, State.core_modStrand]
    rfl
  · rw [hws, hv]
    exact s.strand_modStrand_other _ fun e => hj (congrArg Prod.snd e)
  · rw [hws, hme]
    rfl
  · rw [hws, hme]
    rfl
  · rw [hws, hme]
    exact hu
  · rw [hws, hme]
    simp only [Strand.answered, lineNum_fillLanes _ _ hq, Nat.add_sub_cancel]

/-! ## AMO to a page with LOC = 1 (R304) -/

/-- What a strand that gives up its ticket keeps: `t` has it without the ticket, and its core as resident as before. -/
def Unticketed (c i : Nat) (s t : State) : Prop :=
  t.cur = s.cur ∧ t.strand c i = { s.strand c i with scNo := none } ∧ (t.core c).res = (s.core c).res

/-- The strand's ticket, where it has one, goes back to the device sequencer. -/
theorem State.endTicket_unticketed (s : State) (c : Nat) {i : Nat} (hi : i < 4) (k : ScTicket) :
    Unticketed c i s ((s.modStrand c i fun t => { t with scNo := none }).endTicket k) := by
  obtain ⟨u, hu⟩ : ∃ u, u = s.modStrand c i fun t => { t with scNo := none } := ⟨_, rfl⟩
  obtain ⟨hn, -⟩ := u.request_effect k.core epDevSeqr 0 1 0 (.scDone k)
  rw [← hu]
  refine ⟨?_, (hn.strand c i).trans (by rw [hu, State.strand_modStrand_same _ _ _ hi]), ?_⟩
  · change (u.request k.core epDevSeqr 0 1 0 (.scDone k)).cur = s.cur
    rw [NetOnly] at hn
    rw [hn, hu]
    rfl
  · exact (congrArg Core.res (hn.core c)).trans (by rw [hu, State.core_modStrand])

/-- A strand leaves the queue of its cluster's sequencer, where the cluster has one. -/
def State.leaveCluster (s : State) (c i : Nat) : State :=
  if (SMap.get? s.cluSeqrs (clusterOf c)).isSome then
    { s with cluSeqrs := SMap.set s.cluSeqrs (clusterOf c) ((SMap.getD s.cluSeqrs (clusterOf c) .reset).withdraw c i false) }
  else s

/-- What is left of giving a ticket up: the strand leaves the queues of its cluster and its core. -/
def State.leaveSc (s : State) (c i : Nat) : State :=
  (s.leaveCluster c i).modCore c fun x => { x with scq := x.scq.filter (fun q => q != (c, i) || false) }

theorem State.leaveCluster_keeps (s : State) (c i : Nat) : (s.leaveCluster c i).cores = s.cores ∧ (s.leaveCluster c i).cur = s.cur := by
  unfold State.leaveCluster
  split <;> exact ⟨rfl, rfl⟩

theorem State.leaveSc_unticketed {s u : State} {c i : Nat} (h : Unticketed c i s u) : Unticketed c i s (u.leaveSc c i) := by
  obtain ⟨hcur, hs, hres⟩ := h
  obtain ⟨hcores, hvcur⟩ := u.leaveCluster_keeps c i
  have hcore : (u.leaveCluster c i).core c = u.core c := by rw [State.core, State.core, hcores]
  have hstrand : (u.leaveCluster c i).strand c i = u.strand c i := congrArg (Core.strand · i) hcore
  have hkeep : (u.leaveSc c i).strand c i = (u.leaveCluster c i).strand c i := State.strand_modCore_keep _ _ _ _ fun _ => rfl
  have hr : ((u.leaveSc c i).core c).res = (u.core c).res := by
    rw [State.leaveSc, State.core_modCore_same, hcore]
  have hc : (u.leaveSc c i).cur = u.cur := hvcur
  exact ⟨hc.trans hcur, (hkeep.trans hstrand).trans hs, hr.trans hres⟩

theorem State.withdrawSc_unticketed (s : State) (c : Nat) {i : Nat} (hi : i < 4) : Unticketed c i s (s.withdrawSc c i false) := by
  cases hn : (s.strand c i).scNo with
  | some n =>
    have he : s.withdrawSc c i false = ((s.modStrand c i fun t => { t with scNo := none }).endTicket ⟨c, i, n⟩).leaveSc c i := by
      unfold State.withdrawSc
      rw [hn]
      rfl
    rw [he]
    exact State.leaveSc_unticketed (s.endTicket_unticketed c hi _)
  | none =>
    have he : s.withdrawSc c i false = s.leaveSc c i := by
      unfold State.withdrawSc
      rw [hn]
      rfl
    have hsame : Unticketed c i s s := ⟨rfl, by rw [← hn], rfl⟩
    rw [he]
    exact State.leaveSc_unticketed hsame

theorem exec_amo_host {x : Am} {s : State} {p : Page} {pa : Nat} (hb : Begins .no false x.p s)
    (hg : GlobalOk s (amAddr x s.me) (etyWidth x.ty / 8) (.amo s.me.prv) p pa) (hloc : p.loc = true) (hres : s.myCore.res = true)
    (hw : s.me.window = false) : ∃ t, exec (.amo x) s = .next t ∧
      t.me = ({ s.me with scNo := if x.ord = MOrd.sc then none else s.me.scNo }).enter { num := 9, bad := amAddr x s.me } s.me.pc := by
  have hi := hb.turn
  have hx : exec (.amo x) s = .next
      ((if x.ord = MOrd.sc then s.withdrawSc s.cur.1 s.cur.2 false else s).raiseAcc cProtection (amAddr x s.me)) := by
    have hspot : Spot.isLoc (.mem pa true (!true && p.cp == 0)) = false := rfl
    have hlane := State.checkLane_global .atomic hg
    rw [hloc] at hlane
    refine congrArg _ ((State.begin_body hb _).trans ?_)
    simp only [State.checkLanes_single hlane, remotePieces_single hspot, List.any_cons, mkPiece, Bool.true_or, if_true]
  refine ⟨_, hx, ?_⟩
  by_cases hsc : x.ord = MOrd.sc
  · obtain ⟨hcur, hs, hr⟩ := s.withdrawSc_unticketed s.cur.1 hi
    rw [if_pos hsc, if_pos hsc]
    obtain ⟨u, hu⟩ : ∃ u, u = s.withdrawSc s.cur.1 s.cur.2 false := ⟨_, rfl⟩
    rw [← hu] at hcur hs hr ⊢
    have hme : u.me = { s.me with scNo := none } := by rw [State.me, hcur, hs]; rfl
    obtain ⟨-, hm⟩ := State.traps_of_raiseAcc (s := u) (num := cProtection) (bad := amAddr x s.me) (by rw [hcur]; exact hi)
      (by rw [State.myCore, hcur, hr]; exact hres) (by rw [hme]; exact hw)
    rw [hm, hme]
    rfl
  · rw [if_neg hsc, if_neg hsc]
    obtain ⟨-, hm⟩ := State.traps_of_raiseAcc (num := cProtection) (bad := amAddr x s.me) hi hres hw
    exact hm

end Sys2Proof.Machine
end

section
/-!
PROOFS. Accesses at their issue: what each sends, or why it waits, for a place in GLOBAL, in STACK or in the window of another core (R76,
R107, R210, R211, R305, R313).
-/

namespace Sys2Proof.Machine

/-! ## Pieces -/

/-- The piece of a scalar access to GLOBAL or STACK. -/
abbrev globalPiece (n d : Nat) (a : W64) (p : Page) (pa : Nat) : Piece := mkPiece n d (0, a) (.mem pa p.loc (!p.loc && p.cp == 0))

theorem globalPiece_cached {n d : Nat} {a : W64} {p : Page} {pa : Nat} :
    (globalPiece n d a p pa).cached = true ↔ p.loc = false ∧ p.cp = 0 := by
  simp [globalPiece, mkPiece]

theorem memAcq_isSome {x : MemA} : (memAcq x).isSome = true ↔ memAcq x ≠ none := Option.isSome_iff_ne_none

/-! ## LD -/

section Accesses

variable {s : State} {sp : Spot}

/-- A load that the first-level cache does not answer sends its piece. -/
theorem exec_ld_sends {x : MemA} (hb : Begins .no false x.p s)
    (hl : s.checkLane s.cur.1 s.cur.2 (szBytes x.sz) .load (.load s.me.prv) (memAddr x s.me) = .ok sp) (hs : sp.isLoc = false)
    (hst : s.accessStalls [mkPiece (szBytes x.sz) 0 (0, memAddr x s.me) sp] true (memAcq x).isSome = false) (hc : s.me.ldc < 64)
    (hmiss : (mkPiece (szBytes x.sz) 0 (0, memAddr x s.me) sp).cached = true →
      (mkPiece (szBytes x.sz) 0 (0, memAddr x s.me) sp).host = false ∧
      ((memAcq x).isSome = true ∨ s.myCore.l1Find (mkPiece (szBytes x.sz) 0 (0, memAddr x s.me) sp).place = none) ∧
      s.myCore.filling (mkPiece (szBytes x.sz) 0 (0, memAddr x s.me) sp).place = false) :
    ∃ t, exec (.ld x) s = .next t ∧ AccessSent (s.lsView s.cur.1).1 t (mkPiece (szBytes x.sz) 0 (0, memAddr x s.me) sp) .read
      (.sent (.load x.d x.sz (memAcq x)) none (mkPiece (szBytes x.sz) 0 (0, memAddr x s.me) sp)) := by
  refine ⟨_, exec_ld_remote hb hl hs hst hc, ?_⟩
  obtain ⟨q, hq⟩ : ∃ q, q = mkPiece (szBytes x.sz) 0 (0, memAddr x s.me) sp := ⟨_, rfl⟩
  have hwin : q.cached = true → q.win = false := by
    rw [hq]
    cases sp with
    | loc off => cases hs
    | win k off => exact fun h => absurd h (by simp [mkPiece])
    | mem pa host cached => exact fun _ => rfl
  rw [← hq] at hst hmiss ⊢
  obtain ⟨hheld, hpend⟩ := State.accessStalls_single hst
  have hi := hb.turn
  rw [s.lsView_draws s.cur.1]
  refine State.startAccess_reads (s := { s with draws := (s.lsView s.cur.1).1.draws }) hi rfl ⟨_, _, _, rfl⟩ hheld fun hcached => ?_
  obtain ⟨hhost, hq', hf⟩ := hmiss hcached
  exact ⟨hq', hpend rfl (hwin hcached) hhost hcached hq', hf⟩

/-- A load that it answers completes. -/
theorem exec_ld_hit {x : MemA} {p : Page} {pa : Nat} {h : L1Line} (hb : Begins .no false x.p s) (hu : Unstepped s)
    (hg : GlobalOk s (memAddr x s.me) (szBytes x.sz) (.load s.me.prv) p pa)
    (hst : s.accessStalls [globalPiece (szBytes x.sz) 0 (memAddr x s.me) p pa] true (memAcq x).isSome = false) (hc : s.me.ldc < 64)
    (hloc : p.loc = false) (hcp : p.cp = 0) (hq : memAcq x = none) (hl : s.myCore.l1Find (pa / 128) = some h) :
    ∃ t, exec (.ld x) s = .next t ∧ CompletesIn (s.lsView s.cur.1).1 t
      (s.me.write x.d (loadExt x.sz (lineNum h.data (pa % 128) (szBytes x.sz)))) (s.myCore.l1Touch (pa / 128)) := by
  refine ⟨_, exec_ld_remote hb (State.checkLane_global .load hg) rfl hst hc, ?_⟩
  obtain ⟨hheld, -⟩ := State.accessStalls_single hst
  have hi := hb.turn
  rw [s.lsView_draws s.cur.1, hq, ← loadExt_lineNum]
  exact State.startAccess_hit (s := { s with draws := (s.lsView s.cur.1).1.draws })
    (q := globalPiece (szBytes x.sz) 0 (memAddr x s.me) p pa) hi hu hheld (globalPiece_cached.mpr ⟨hloc, hcp⟩) hl rfl

/-! ## ST -/

/-- A store to another place begins in a state whose cores are as they were. -/
theorem State.strand_idle (s : State) (k i : Nat) : (s.modMyCore fun x => x).strand k i = s.strand k i :=
  congrArg (Core.strand · i) (s.core_modCore_id s.cur.1 k)

theorem State.idle_only (s : State) (c i : Nat) : OnlyStrand c i s (s.modMyCore fun x => x) :=
  ⟨rfl, fun k => by rw [State.modMyCore, s.core_modCore_id s.cur.1 k], fun _ _ _ => s.strand_idle _ _⟩

theorem State.writePending_idle (s : State) (c ln : Nat) : (s.modMyCore fun x => x).writePending c ln = s.writePending c ln := by
  unfold State.writePending
  rw [State.modMyCore, s.core_modCore_id s.cur.1 c]
  rfl

theorem AccessSent.of_idle {t : State} {q : Piece} {op : MemOp} {b : Access} (h : AccessSent (s.modMyCore fun x => x) t q op b) :
    AccessSent s t q op b := by
  obtain ⟨⟨ht, hm⟩, hw⟩ := h
  have hme : (s.modMyCore fun x => x).me = s.me := s.strand_idle _ _
  have hd : (s.modMyCore fun x => x).pieceDest s.cur.1 q = s.pieceDest s.cur.1 q :=
    State.pieceDest_congr (s := s) (t := s.modMyCore fun x => x) rfl rfl _ _
  rw [hme] at hm
  change ∃ m : Msg, _ ∧ _ ∧ m.dest = (s.modMyCore fun x => x).pieceDest s.cur.1 q ∧ _ at hm
  rw [hd] at hm
  refine ⟨⟨ht, hm⟩, ?_⟩
  rw [hw, State.waiting, State.waiting, hme]

/-- A store that need not wait behind another sends its piece. -/
theorem exec_st_sends {x : MemA} {q : Piece} (hb : Begins .no false x.p s)
    (hl : s.checkLane s.cur.1 s.cur.2 (szBytes x.sz) .store (.store s.me.prv) (memAddr x s.me) = .ok sp) (hs : sp.isLoc = false)
    (hp : x.ord ≠ .p) (hr : x.ord = .rel → s.released s.cur.1 s.cur.2 x.scope = true)
    (hq : q = mkPiece (szBytes x.sz) (s.me.src 0 x.b).toNat (0, memAddr x s.me) sp)
    (hst : s.accessStalls [q] false false = false) (hc : s.me.stc < 64)
    (hb' : ¬ (q.win = false ∧ q.host = false ∧ (s.myCore.l1Find q.place).isSome = true ∧ s.writePending s.cur.1 q.place = true)) :
    ∃ t, exec (.st x) s = .next t ∧ AccessSent s t q .write (.sent .store none q) := by
  subst hq
  refine ⟨_, exec_st_remote hb hl hs hp hr hst hc, ?_⟩
  obtain ⟨hheld, -⟩ := State.accessStalls_single hst
  have hi := hb.turn
  have hcore : (s.modMyCore fun k => k).myCore = s.myCore := s.core_modCore_id _ _
  refine AccessSent.of_idle (State.startAccess_asks (s := s.modMyCore fun k => k) hi rfl (by simp) ?_ fun ⟨_, hw, hh, hl, hp⟩ => ?_)
  · rw [hcore]
    exact hheld
  · rw [hcore] at hl
    exact hb' ⟨hw, hh, hl, (s.writePending_idle _ _).symm.trans hp⟩

/-- A store that hits a line to which another is not performed waits with its piece. -/
theorem exec_st_behind {x : MemA} {p : Page} {pa : Nat} (hb : Begins .no false x.p s)
    (hg : GlobalOk s (memAddr x s.me) (szBytes x.sz) (.store s.me.prv) p pa)
    (hp : x.ord ≠ .p) (hr : x.ord = .rel → s.released s.cur.1 s.cur.2 x.scope = true)
    (hst : s.accessStalls [globalPiece (szBytes x.sz) (s.me.src 0 x.b).toNat (memAddr x s.me) p pa] false false = false)
    (hc : s.me.stc < 64) (hloc : p.loc = false) (hl : (s.myCore.l1Find (pa / 128)).isSome = true)
    (hpend : s.writePending s.cur.1 (pa / 128) = true) :
    ∃ t, exec (.st x) s = .next t ∧ OnlyStrand s.cur.1 s.cur.2 s t ∧
      t.me = s.waiting (.single .store none (globalPiece (szBytes x.sz) (s.me.src 0 x.b).toNat (memAddr x s.me) p pa)) := by
  refine ⟨_, exec_st_remote hb (State.checkLane_global .store hg) rfl hp hr hst hc, ?_⟩
  obtain ⟨hheld, -⟩ := State.accessStalls_single hst
  have hi := hb.turn
  have hcore : (s.modMyCore fun k => k).myCore = s.myCore := s.core_modCore_id _ _
  have hme : (s.modMyCore fun x => x).me = s.me := s.strand_idle _ _
  obtain ⟨ho, hm⟩ := State.startAccess_behind (s := s.modMyCore fun k => k) (last := .store) (amo := none)
    (q := globalPiece (szBytes x.sz) (s.me.src 0 x.b).toNat (memAddr x s.me) p pa) hi rfl (by rw [hcore]; exact hheld) rfl hloc
    (by rw [hcore]; exact hl) ((s.writePending_idle _ _).trans hpend)
  refine ⟨(s.idle_only _ _).trans ho, hm.trans ?_⟩
  rw [State.waiting, State.waiting, hme]

/-! ## AMO -/

theorem exec_amo_sends {x : Am} {q : Piece} (hb : Begins .no false x.p s)
    (hl : s.checkLane s.cur.1 s.cur.2 (etyWidth x.ty / 8) .atomic (.amo s.me.prv) (amAddr x s.me) = .ok sp) (hs : sp.isLoc = false)
    (hq : q = mkPiece (etyWidth x.ty / 8) 0 (0, amAddr x s.me) sp) (hh : q.host = false) (hsc : x.ord ≠ .sc)
    (hr : x.ord = .rel → s.released s.cur.1 s.cur.2 x.scope = true) (hst : s.accessStalls [q] false false = false)
    (hpush : s.pushPending s.cur.1 s.cur.2 [((0, amAddr x s.me), sp)] (etyWidth x.ty / 8) = false) (hc : s.me.ldc < 64) :
    ∃ t, exec (.amo x) s = .next t ∧ AccessSent s t q (.amo (amReq x s.me))
      (.sent (.amo x.d x.tagged (if x.ord = .acq then some x.scope else none) none) (some (amReq x s.me)) q) := by
  subst hq
  refine ⟨_, exec_amo_remote hb hl hs hh hsc hr hst hpush hc, ?_⟩
  obtain ⟨hheld, -⟩ := State.accessStalls_single hst
  exact State.startAccess_asks hb.turn rfl (by simp) hheld (fun h => by simp at h)

end Accesses

end Sys2Proof.Machine
end

section
/-!
PROOFS. The answers to a strand's access, with its only piece on its way: what a load, a store and an AMO make of them, and what a refusal
leaves (R107, R174, R211, R305).
-/

namespace Sys2Proof.Machine

/-- An answer has arrived for the one piece that a strand's access has on its way. -/
structure ReplyTo (s : State) (uid c i : Nat) (a : Access) (p : Piece) (r : Reply) : Prop where
  strand : ∃ m, s.msg? uid = some m ∧ m.body.strandOf = some (c, i) ∧ m.body.reply m.src = some r
  lt : i < 4
  wait : (s.strand c i).wait = .access a
  cur : a.cur = some p
  todo : a.todo = []
  win : p.win = r.win
  place : p.place = r.place

/-- The two messages that answer a strand's access: that of a slice or of the host port, and that of another core. -/
theorem Body.reply_cases {b : Body} {c i src cause off : Nat} {p : Piece} {line : W1024}
    (h : (∃ kind seq px data req, b = .ans (.strand c i) kind seq px data req ∧ p.win = false ∧ p.place = req.line ∧ off = p.off ∧
        line = data.getD 0 ∧ cause = if kind = 4 then 12 else 0) ∨
      (∃ reason, b = .winAns (.strand c i) reason line ∧ p.win = true ∧ p.place = src ∧ off = 0 ∧
        cause = if reason = 0 then 0 else reasonCause reason)) :
    ∃ r, b.strandOf = some (c, i) ∧ b.reply src = some r ∧ p.win = r.win ∧ p.place = r.place ∧ r.cause = cause ∧ r.data = line ∧
      off = if p.win then 0 else p.off := by
  obtain ⟨kind, seq, px, data, req, rfl, hw, hp, ho, rfl, rfl⟩ | ⟨reason, rfl, hw, hp, ho, rfl⟩ := h
  · exact ⟨_, rfl, rfl, hw, hp, rfl, rfl, by rw [hw]; exact ho⟩
  · exact ⟨_, rfl, rfl, hw, hp, rfl, rfl, by rw [hw]; exact ho⟩

namespace ReplyTo

variable {s : State} {uid c i : Nat} {a : Access} {p : Piece} {r : Reply} (h : ReplyTo s uid c i a p r)
include h

theorem strandReply {f : AccEnd → Bool} (hf : f a.last = true) :
    s.strandReply uid f = .next ((s.consume uid).accessReply c i a p r) := by
  obtain ⟨⟨m, hm, hs, hr⟩, -, hw, hc, -, hwin, hplace⟩ := h
  unfold State.strandReply
  simp only [hm, hs, hr, hw, hc, hf, hwin, hplace, beq_self_eq_true, Bool.and_self, if_true]

theorem exec_loadResponse {d : Opd} {sz : Nat} {q : Option Scope} (hl : a.last = .load d sz q) :
    exec (.loadResponse uid) s = .next ((s.consume uid).accessReply c i a p r) := by
  have hgo : execLoadResponse uid s = s.strandReply uid fun e => match e with | .load _ _ _ | .vload _ _ _ | .decl => true | _ => false := by
    obtain ⟨⟨m, hm, hs, -⟩, -⟩ := h
    unfold execLoadResponse
    rw [hm, Option.map_some]
    cases hb : m.body with
    | ans who kind seq px data req =>
      rw [hb] at hs
      cases who with
      | pref c st n keep => cases hs
      | _ => rfl
    | _ => rfl
  exact hgo.trans (h.strandReply (by rw [hl]))

theorem exec_storeAnswer (hl : a.last = .store) :
    exec (.storeAnswer uid) s = .next ((s.consume uid).accessReply c i a p r) := by
  change execStoreAnswer uid s = _
  unfold execStoreAnswer
  exact h.strandReply (by rw [hl])

theorem exec_amoAnswer {d : Opd} {g : Bool} {q : Option Scope} {n : Option Nat} (hl : a.last = .amo d g q n) :
    exec (.amoAnswer uid) s = .next ((s.consume uid).accessReply c i a p r) := by
  change execAmoAnswer uid s = _
  unfold execAmoAnswer
  exact h.strandReply (by rw [hl])

end ReplyTo

/-! ## Answers that complete an access -/

/-- The core when a load of a strand has been answered: the fill is over, and the line enters the first-level cache unless the fill was
called off (R107). -/
def Core.loaded (x : Core) (i place : Nat) (d : W1024) : Core :=
  let y := { x with fills := x.fills.filter (·.who != some i) }
  if x.fills.any fun f => f.who == some i && f.line == place then y.l1Put place d else y

theorem Core.l1Put_strands (x : Core) (ln : Nat) (d : W1024) : (x.l1Put ln d).strands = x.strands := by
  unfold Core.l1Put
  dsimp only
  split
  · rfl
  · split <;> rfl

theorem Core.loaded_strands (x : Core) (i place : Nat) (d : W1024) : (x.loaded i place d).strands = x.strands := by
  unfold Core.loaded
  dsimp only
  split
  · exact Core.l1Put_strands _ _ _
  · rfl

theorem lineNum_etyWidth_lt (d : W1024) (off : Nat) (ty : ETy) : lineNum d off (etyWidth ty / 8) < 2 ^ 64 := by
  have hw : 8 * (etyWidth ty / 8) ≤ 64 := by cases ty <;> decide
  exact lt_of_lt_of_le (lineNum_lt d off (etyWidth ty / 8)) (Nat.pow_le_pow_right Nat.two_pos hw)

section Done

variable {s : State} {c i : Nat} {a : Access} {p : Piece} {r : Reply} (hi : i < 4) (hcause : r.cause = 0) (htodo : a.todo = [])
  (hu : ((s.strand c i).sstep && (s.strand c i).ie) = false)
include hi hcause htodo hu

theorem State.accessReply_load {d : Opd} {sz off : Nat} (hl : a.last = .load d sz none) (hp : p.lanes = [(0, off)]) :
    s.accessReply c i a p r = { s with cores := (s.accessReply c i a p r).cores } ∧
      GoesOn c i s (s.accessReply c i a p r)
        (({ s.strand c i with ldc := (s.strand c i).ldc - 1 }).write d (loadExt sz (lineNum r.data off 8)))
        ((s.core c).loaded i p.place r.data) := by
  obtain ⟨w, hw⟩ : ∃ w, w = s.modCore c (·.loaded i p.place r.data) := ⟨_, rfl⟩
  have hws : ∀ j, w.strand c j = s.strand c j := fun j => by
    rw [hw]; exact State.strand_modCore_keep _ _ _ _ fun x => x.loaded_strands _ _ _
  have hgo : s.accessReply c i a p r = w.accessDone c i { a with cur := none, acc := fillLanes 8 a.acc p r.data } := by
    unfold State.accessReply
    simp only [hcause, hl, bne_self_eq_false, Bool.false_eq_true, if_false, htodo]
    rw [hw]
    rfl
  rw [hgo]
  refine State.accessDone_goesOn (.inr (.inl ⟨d, sz, hl⟩)) hi (by rw [hw]; rfl) (fun j hj => by rw [hw, State.core_modCore_other _ _ hj])
    (by rw [hw, State.core_modCore_same]; rfl) (fun j _ => hws j) (by rw [hws]) (by rw [hws]) (by rw [hws]; exact hu) ?_
  rw [hws]
  simp only [Strand.answered, hl, lineNum_fillLanes _ _ hp]

theorem State.accessReply_store (hl : a.last = .store) :
    s.accessReply c i a p r = { s with cores := (s.accessReply c i a p r).cores } ∧
      GoesOn c i s (s.accessReply c i a p r) { s.strand c i with stc := (s.strand c i).stc - 1 } (s.core c) := by
  have hgo : s.accessReply c i a p r = s.accessDone c i { a with cur := none } := by
    unfold State.accessReply
    simp only [hcause, hl, bne_self_eq_false, Bool.false_eq_true, if_false, htodo]
    rfl
  rw [hgo]
  refine State.accessDone_goesOn (.inl hl) hi rfl (fun _ _ => rfl) rfl (fun _ _ => rfl) rfl rfl hu ?_
  simp only [Strand.answered, hl]

theorem State.accessReply_amo {d : Opd} {q : AmoReq} (hl : a.last = .amo d false none none) (hq : a.amo = some q) :
    s.accessReply c i a p r = { s with cores := (s.accessReply c i a p r).cores } ∧
      GoesOn c i s (s.accessReply c i a p r) (({ s.strand c i with ldc := (s.strand c i).ldc - 1 }).write d
        (ext64 (etySigned q.ty) (etyWidth q.ty) (lineNum r.data (if p.win then 0 else p.off) (etyWidth q.ty / 8)))) (s.core c) := by
  have hgo : s.accessReply c i a p r = s.accessDone c i { a with
      cur := none
      acc := BitVec.ofNat 1024 (lineNum r.data (if p.win then 0 else p.off) (etyWidth q.ty / 8) + 2 ^ 64 * r.seq.toNat) } := by
    unfold State.accessReply
    simp only [hcause, hl, hq, bne_self_eq_false, Bool.false_eq_true, if_false, htodo]
    rfl
  rw [hgo]
  refine State.accessDone_goesOn (.inr (.inr ⟨d, false, hl⟩)) hi rfl (fun _ _ => rfl) rfl (fun _ _ => rfl) rfl rfl hu ?_
  simp only [Strand.answered, hl, hq, amoResult, Bool.false_eq_true, if_false]
  rw [lineNum_ofNat_add (lineNum_etyWidth_lt _ _ _)]

end Done

/-! ## Answers that refuse an access -/

/-- A strand whose access has been refused: it no longer waits, and its loads or stores under way are one fewer (R174). -/
def Strand.refused (t : Strand) (last : AccEnd) : Strand :=
  match last with
  | .store => { t with stc := t.stc - 1, wait := .no }
  | .decl | .spawn _ | .suspend => { t with wait := .no }
  | _ => { t with ldc := t.ldc - 1, wait := .no }

theorem Strand.refused_keeps (t : Strand) (last : AccEnd) : (t.refused last).pc = t.pc ∧ (t.refused last).window = t.window := by
  cases last <;> exact ⟨rfl, rfl⟩

/-- A core whose strand waits for no fill any more. -/
def State.endFills (s : State) (c i : Nat) : State := s.modCore c fun k => { k with fills := k.fills.filter (·.who != some i) }

/-- A refused access that holds no ticket traps at its instruction, with nothing written (R211, R215). -/
theorem State.accessReply_refused {s : State} {c i : Nat} {a : Access} {p : Piece} {r : Reply} (hi : i < 4) (hcause : r.cause ≠ 0)
    {last : AccEnd} (hl : a.last = last) (hticket : ∀ d g q n, last ≠ .amo d g q (some n)) 
    (hres : (s.core c).res = true) (hw : (s.strand c i).window = false) :
    OnlyStrand c i (s.endFills c i) (s.accessReply c i a p r) ∧
      (s.accessReply c i a p r).strand c i =
        ((s.strand c i).refused last).enter { num := r.cause, bad := p.addr } (s.strand c i).pc := by
  subst hl
  obtain ⟨v, hv⟩ : ∃ v, v = (s.endFills c i).modStrand c i (·.refused a.last) := ⟨_, rfl⟩
  have hs : (s.endFills c i).strand c i = s.strand c i := State.strand_modCore_keep _ _ _ _ fun _ => rfl
  have hvs : v.strand c i = (s.strand c i).refused a.last := by rw [hv, State.strand_modStrand_same _ _ _ hi, hs]
  have hvres : (v.core c).res = true := by
    rw [hv, State.core_modStrand, State.endFills, State.core_modCore_same]
    exact hres
  obtain ⟨hpc, hwin⟩ := (s.strand c i).refused_keeps a.last
  have hgo : s.accessReply c i a p r = v.raiseAt c i r.cause p.addr .access := by
    unfold State.accessReply State.accessFail
    rw [if_pos (bne_iff_ne.mpr hcause), hv]
    cases hl : a.last with
    | amo d g q n =>
      cases n with
      | some n => exact absurd hl (hticket d g q n)
      | none => rfl
    | _ => rfl
  rw [hgo, State.raiseAt_eq_enter hvres (.inl (by rw [hvs, hwin, hw])), hvs, hpc]
  refine ⟨?_, ?_⟩
  · rw [hv]
    exact ((s.endFills c i).modStrand_only _ _ _).trans (State.modStrand_only _ _ _ _)
  · rw [State.strand_modStrand_same _ _ _ hi, hvs]

end Sys2Proof.Machine
end

section
/-!
PROOFS. Accesses to GLOBAL, STACK and WINDOW: the statement, from the parts above.
-/

namespace Sys2Proof.Machine

/-- A load of GLOBAL or STACK that is sent, as the statement says it. -/
theorem exec_ld_global {x : MemA} {s : State} {p : Page} {pa : Nat} (hb : Begins .no false x.p s) (hc : s.me.ldc < 64)
    (hg : GlobalOk s (memAddr x s.me) (szBytes x.sz) (.load s.me.prv) p pa)
    (hst : s.accessStalls [globalPiece (szBytes x.sz) 0 (memAddr x s.me) p pa] true (memAcq x).isSome = false)
    (hmiss : p.loc = true ∨ p.cp ≠ 0 ∨
      (memAcq x ≠ none ∨ s.myCore.l1Find (pa / 128) = none) ∧ s.myCore.filling (pa / 128) = false) :
    ∃ t, exec (.ld x) s = .next t ∧ AccessSent (s.lsView s.cur.1).1 t (globalPiece (szBytes x.sz) 0 (memAddr x s.me) p pa) .read
      (.sent (.load x.d x.sz (memAcq x)) none (globalPiece (szBytes x.sz) 0 (memAddr x s.me) p pa)) := by
  refine exec_ld_sends hb (State.checkLane_global .load hg) rfl hst hc fun hcached => ?_
  obtain ⟨hloc, hcp⟩ := globalPiece_cached.mp hcached
  obtain hl | hl | ⟨hq, hf⟩ := hmiss
  · rw [hloc] at hl
    cases hl
  · exact absurd hcp hl
  · exact ⟨hloc, hq.imp memAcq_isSome.mpr id, hf⟩

/-- A message and a strand's wait as the statement says them, where the piece goes to a slice or to the host port. -/
theorem AccessSent.global {s v t : State} {n d pa : Nat} {a : W64} {p : Page} {op : MemOp} {b : Access}
    (h : AccessSent v t (globalPiece n d a p pa) op b) {k : Nat} (hv : v = { s with draws := k }) :
    Sends v t s.cur.1 (if p.loc then epHost else epSlice (s.routeOf s.cur.1 (pa / 128) (globalPiece n d a p pa).cached)) 0
        (.mem { op, line := pa / 128, off := pa % 128, mask := (globalPiece n d a p pa).mask, data := (globalPiece n d a p pa).data
                who := .strand s.cur.1 s.cur.2, asid := some (s.me.asid.setWidth 16), px := none }) ∧
      t.me = { s.me.counted b.last with wait := .access b } := by
  have hroute : v.routeOf s.cur.1 (pa / 128) (globalPiece n d a p pa).cached =
      s.routeOf s.cur.1 (pa / 128) (globalPiece n d a p pa).cached :=
    State.routeOf_congr (by rw [hv]) (by rw [hv]) _ _ _
  rw [← hroute]
  subst hv
  exact h

/-- The same where the piece goes to the local store of another core. -/
theorem AccessSent.window {s v t : State} {n d k off : Nat} {a : W64} {op : MemOp} {b : Access} {amo : Option AmoReq} {store : Bool}
    (h : AccessSent v t (mkPiece n d (0, a) (.win k off)) op b) {j : Nat} (hv : v = { s with draws := j })
    (hop : op = .read ∧ amo = none ∧ store = false ∨ op = .write ∧ amo = none ∧ store = true ∨
      ∃ r, op = .amo r ∧ amo = some r ∧ store = false) :
    Sends v t s.cur.1 k 0 (.win (.strand s.cur.1 s.cur.2) (mkPiece n d (0, a) (.win k off)) amo store s.me.prv) ∧
      t.me = { s.me.counted b.last with wait := .access b } := by
  subst hv
  obtain ⟨rfl, rfl, rfl⟩ | ⟨rfl, rfl, rfl⟩ | ⟨r, rfl, rfl, rfl⟩ := hop <;> exact h

/-- Settles O21: an access at its issue by what the check of its one lane finds and what the first-level cache holds; an answer by what it
says and what the access is. -/
theorem globalAccessesComplete : Obligations.GlobalAccessesComplete := by
  unfold Obligations.GlobalAccessesComplete
  refine ⟨fun s p pa => ⟨fun x => ⟨?_, ?_⟩, ?_⟩, fun s k off => ⟨fun x => ?_, ?_⟩, ?_⟩
  · intro hb hu hc hg hst
    refine ⟨fun h hloc hcp hq hl => exec_ld_hit hb hu hg hst hc hloc hcp hq hl, fun hmiss => ?_⟩
    obtain ⟨t, hx, hsent⟩ := exec_ld_global hb hc hg hst hmiss
    obtain ⟨hsends, hme⟩ := hsent.global (s.lsView_draws s.cur.1)
    exact ⟨t, _, hx, hsends, hme, rfl, rfl, rfl⟩
  · intro hb hp hr hc hg q hst behind
    refine ⟨fun hno => ?_, fun ⟨hloc, hl, hpend⟩ => ?_⟩
    · obtain ⟨t, hx, hsent⟩ := exec_st_sends hb (State.checkLane_global .store hg) rfl hp hr rfl hst hc
        fun ⟨_, hh, hl, hpend⟩ => hno ⟨hh, hl, hpend⟩
      obtain ⟨hsends, hme⟩ := hsent.global (s := s) (k := s.draws) rfl
      exact ⟨t, _, hx, hsends, hme, rfl, rfl⟩
    · obtain ⟨t, hx, ho, hme⟩ := exec_st_behind hb hg hp hr hst hc hloc hl hpend
      exact ⟨t, _, hx, ho, hme, rfl, rfl, rfl⟩
  · intro x hb hg q
    refine ⟨fun hloc hres hw => exec_amo_host hb hg hloc hres hw, fun hloc hsc hr hc hst => ?_⟩
    obtain ⟨t, hx, hsent⟩ := exec_amo_sends hb (State.checkLane_global .atomic hg) rfl rfl hloc hsc hr hst rfl hc
    obtain ⟨hsends, hme⟩ := hsent.global (s := s) (k := s.draws) rfl
    exact ⟨t, _, hx, hsends, hme, rfl⟩
  · intro n q hb hwin
    refine ⟨fun hc hst => ?_, ?_⟩
    · obtain ⟨t, hx, hsent⟩ := exec_ld_sends hb (State.checkLane_window .load _ hwin) rfl hst hc fun h => absurd h (by simp [mkPiece])
      obtain ⟨hsends, hme⟩ := hsent.window (s.lsView_draws s.cur.1) (.inl ⟨rfl, rfl, rfl⟩)
      exact ⟨t, _, hx, hsends, hme, rfl, rfl, rfl⟩
    · intro hp hr hc r hst
      obtain ⟨t, hx, hsent⟩ := exec_st_sends hb (State.checkLane_window .store _ hwin) rfl hp hr rfl hst hc
        fun ⟨h, _⟩ => absurd h (by simp [mkPiece])
      obtain ⟨hsends, hme⟩ := hsent.window (s := s) (j := s.draws) rfl (.inr (.inl ⟨rfl, rfl, rfl⟩))
      exact ⟨t, _, hx, hsends, hme, rfl, rfl, rfl⟩
  · intro x hb hsc hr hc n q hwin hst hpush
    obtain ⟨t, hx, hsent⟩ := exec_amo_sends hb (State.checkLane_window .atomic _ hwin) rfl rfl rfl hsc hr hst hpush hc
    obtain ⟨hsends, hme⟩ := hsent.window (s := s) (j := s.draws) rfl (.inr (.inr ⟨_, rfl, rfl, rfl⟩))
    exact ⟨t, _, hx, hsends, hme, rfl, rfl⟩
  · intro s uid c i cause off m a p line hm hi hwait hcur htodo hbody hlanes hstep
    obtain ⟨r, hs, hr, hwin, hplace, rfl, rfl, rfl⟩ := Body.reply_cases hbody
    have h : ReplyTo s uid c i a p r := ⟨⟨m, hm, hs, hr⟩, hi, hwait, hcur, htodo, hwin, hplace⟩
    refine ⟨fun d sz hc hl => ?_, fun hc hl => ?_, fun d q hc hl hq => ?_,
      fun hc hres hw => ⟨fun hl => ?_, fun d sz q hl => ?_, fun d b q hl => ?_⟩⟩
    · exact ⟨_, h.exec_loadResponse hl, State.accessReply_load (s := s.consume uid) hi hc htodo hstep hl hlanes⟩
    · exact ⟨_, h.exec_storeAnswer hl, State.accessReply_store (s := s.consume uid) hi hc htodo hstep hl⟩
    · exact ⟨_, h.exec_amoAnswer hl, State.accessReply_amo (s := s.consume uid) hi hc htodo hstep hl hq⟩
    · exact ⟨_, h.exec_storeAnswer hl, State.accessReply_refused (s := s.consume uid) hi hc hl (by simp) hres hw⟩
    · exact ⟨_, h.exec_loadResponse hl, State.accessReply_refused (s := s.consume uid) hi hc hl (by simp) hres hw⟩
    · exact ⟨_, h.exec_amoAnswer hl, State.accessReply_refused (s := s.consume uid) hi hc hl (by simp) hres hw⟩

end Sys2Proof.Machine
end

section
/-!
SUPPORT. An instruction under way in its own core: the strand and the core as far as they have changed, and what retiring makes of them
(R185, R194).
-/

namespace Sys2Proof.Machine

/-- Core `c` of `w` is `k` but for its strands, strand `i` there is `u`, and no other core and no other strand of it differs from `s`. -/
def CoreIs (c i : Nat) (s w : State) (u : Strand) (k : Core) : Prop :=
  (∀ j, j ≠ c → w.core j = s.core j) ∧ (∀ j, j ≠ i → w.strand c j = s.strand c j) ∧ (w.core c).But k ∧ w.strand c i = u

namespace CoreIs

variable {c i : Nat} {s w t : State} {u : Strand} {k : Core}

theorem refl (c i : Nat) (s : State) : CoreIs c i s s (s.strand c i) (s.core c) := ⟨fun _ _ => rfl, fun _ _ => rfl, rfl, rfl⟩

theorem of_cores (h : CoreIs c i s w u k) (ht : t.cores = w.cores) : CoreIs c i s t u k := by
  have hc : ∀ j, t.core j = w.core j := fun j => by rw [State.core, State.core, ht]
  have hs : ∀ j, t.strand c j = w.strand c j := fun j => by rw [State.strand, State.strand, hc]
  obtain ⟨hother, hstrand, hself, hu⟩ := h
  exact ⟨fun j hj => (hc j).trans (hother j hj), fun j hj => (hs j).trans (hstrand j hj), by rw [hc]; exact hself, (hs i).trans hu⟩

theorem netOnly (h : CoreIs c i s w u k) (hn : NetOnly w t) : CoreIs c i s t u k := h.of_cores (by rw [hn])

theorem modStrand (h : CoreIs c i s w u k) (hi : i < 4) (f : Strand → Strand) : CoreIs c i s (w.modStrand c i f) (f u) k := by
  obtain ⟨hother, hstrand, hself, hu⟩ := h
  refine ⟨fun j hj => ?_, fun j hj => ?_, ?_, ?_⟩
  · exact ((w.modStrand_only c i f).core_other hj).trans (hother j hj)
  · exact (w.strand_modStrand_other f fun e => hj (congrArg Prod.snd e)).trans (hstrand j hj)
  · rw [State.core_modStrand, hself]
    rfl
  · rw [State.strand_modStrand_same _ _ _ hi, hu]

/-- The core's other parts are those of `k`. -/
theorem core (h : CoreIs c i s w u k) : w.core c = { k with strands := (w.core c).strands } := h.2.2.1

theorem strand (h : CoreIs c i s w u k) : w.strand c i = u := h.2.2.2

theorem tile (h : CoreIs c i s w u k) (n : Nat) : w.tile c n = k.tile n := by
  rw [State.tile, h.core]; rfl

theorem modCore_of (h : CoreIs c i s w u k) {f : Core → Core} {k' : Core} (hk : f (w.core c) = { k' with strands := (w.core c).strands }) :
    CoreIs c i s (w.modCore c f) u k' := by
  obtain ⟨hother, hstrand, hself, hu⟩ := h
  have hs : ∀ j, (w.modCore c f).strand c j = w.strand c j := fun j => by
    rw [State.strand, State.core_modCore_same, hk]
    rfl
  refine ⟨fun j hj => (w.core_modCore_other f hj).trans (hother j hj), fun j hj => (hs j).trans (hstrand j hj), ?_, (hs i).trans hu⟩
  rw [State.core_modCore_same, hk]
  rfl

theorem modCore (h : CoreIs c i s w u k) {f : Core → Core} {k' : Core} (hf : ∀ z, f { k with strands := z } = { k' with strands := z }) :
    CoreIs c i s (w.modCore c f) u k' :=
  h.modCore_of (by rw [h.core]; exact hf _)

/-- The strand retires where no STEP follows. -/
theorem retireAt (h : CoreIs c i s w u k) (hi : i < 4) (hu : (u.sstep && u.ie) = false) (hpc : u.pc = (s.strand c i).pc)
    (hj : u.join4 = (s.strand c i).join4) : OnlyStrand c i w (w.retireAt c i) ∧ GoesOn c i s (w.retireAt c i) u k := by
  obtain ⟨hother, hstrand, hself, hw⟩ := h
  have hr := w.retireAt_retires c hi (by rw [hw]; exact hu)
  have hjoin : w.joinOf c i = s.joinOf c i := State.joinOf_congr (by rw [hw, hpc]) (by rw [hw, hj])
  exact ⟨hr.1, hr.goesOn hother hself hstrand (by rw [State.past, State.past, hw, hjoin])⟩

end CoreIs

/-- An instruction that has changed its core to `k` and its strand to `u` completes. -/
theorem State.retire_completesIn {s w : State} {u : Strand} {k : Core} (hi : s.cur.2 < 4) (hs : Unstepped s)
    (hw : w = { s with cores := w.cores }) (h : CoreIs s.cur.1 s.cur.2 s w u k) (hpc : u.pc = s.me.pc) (hj : u.join4 = s.me.join4)
    (hst : u.status = s.me.status) : CompletesIn s w.retire u k := by
  obtain ⟨ho, hg⟩ := h.retireAt hi (Strand.unstepped_of_status hst hs) hpc hj
  have hr : w.retire = w.retireAt s.cur.1 s.cur.2 := by rw [State.retire, hw]
  rw [hr]
  refine ⟨?_, hg⟩
  rw [ho.1, hw]

/-- An instruction that has changed nothing of its core but its strand completes. -/
theorem State.retire_completes {s : State} (hi : s.cur.2 < 4) (hs : Unstepped s) : Completes s s.retire s.me := s.retireAt_retires _ hi hs

/-- An instruction that changes its core, and its strands there not, completes. -/
theorem State.modMyCore_completesIn {s : State} {f : Core → Core} {k : Core} (hi : s.cur.2 < 4) (hs : Unstepped s)
    (hf : f s.myCore = { k with strands := s.myCore.strands }) : CompletesIn s (s.modMyCore f).retire s.me k :=
  State.retire_completesIn (w := s.modMyCore f) hi hs rfl ((CoreIs.refl _ _ _).modCore_of hf) rfl rfl rfl

theorem CompletesIn.core {s t : State} {u : Strand} {k : Core} (h : CompletesIn s t u k) :
    t.myCore = { k with strands := t.myCore.strands } := by
  obtain ⟨ht, -, -, hk, -⟩ := h
  rw [State.myCore, show t.cur = s.cur by rw [ht]]
  exact hk

theorem CompletesIn.tile {s t : State} {u : Strand} {k : Core} (h : CompletesIn s t u k) (n : Nat) : t.myCore.tile n = k.tile n := by
  rw [h.core]; rfl

theorem CompletesIn.slot {s t : State} {u : Strand} {k : Core} (h : CompletesIn s t u k) (o : Nat) : t.myCore.slot o = k.slot o := by
  rw [h.core]; rfl

theorem CompletesIn.group {s t : State} {u : Strand} {k : Core} (h : CompletesIn s t u k) (n : Nat) : t.myCore.group n = k.group n := by
  rw [h.core]; rfl

theorem CompletesIn.tiles {s t : State} {u : Strand} {k : Core} (h : CompletesIn s t u k) : t.myCore.tiles = k.tiles := by
  rw [h.core]

theorem CompletesIn.slots {s t : State} {u : Strand} {k : Core} (h : CompletesIn s t u k) : t.myCore.slots = k.slots := by
  rw [h.core]

theorem CompletesIn.groups {s t : State} {u : Strand} {k : Core} (h : CompletesIn s t u k) : t.myCore.groups = k.groups := by
  rw [h.core]

theorem CompletesIn.streams {s t : State} {u : Strand} {k : Core} (h : CompletesIn s t u k) : t.myCore.streams = k.streams := by
  rw [h.core]

end Sys2Proof.Machine
end

section
/-!
PROOFS. QFREE, WAIT, FENCE and GRPSET at their issue (R98, R223, R235 to R237).
-/

namespace Sys2Proof.Machine

theorem exec_qfree {s : State} {d : Opd} {p : Pred} (hb : Begins .no false p s) :
    exec (.qfree d p) s = .next (s.finish fun t => t.write d t.qfree) :=
  congrArg Host.Outcome.next (State.begin_body hb fun _ => s.finish fun t => t.write d t.qfree)

theorem exec_qfreeAddr {s : State} {d : Opd} {p : Pred} (hb : Begins .no false p s) :
    exec (.qfreeAddr d p) s = .next (s.finish fun t => t.write d t.qaddr) :=
  congrArg Host.Outcome.next (State.begin_body hb fun _ => s.finish fun t => t.write d t.qaddr)

theorem exec_wait {s : State} {l sc c t : BitVec 7} {p : Pred} (hb : Begins .no false p s) :
    exec (.wait l sc c t p) s = .next (
      let ok := fun (n : Nat) (f : BitVec 7) => decide (64 ≤ f.toNat) || decide (n ≤ f.toNat)
      if ok s.me.ldc l && ok s.me.stc sc && ok s.me.cpc c && ok s.me.tlc t then s.retire else s.stall) :=
  congrArg _ (State.begin_body hb _)

/-- The forwarded entries that a FENCE waits for (R237). -/
def State.fenceDue (s : State) (earlier : BitVec 7) : List (Nat × LogEntry) :=
  if earlier.getLsbD 5 then s.forwardsDue (s.forwarding s.cur.1 fun _ => true) else []

theorem exec_fence {s : State} {scope : Scope} {later earlier : BitVec 7} {p : Pred} (hb : Begins .no false p s) :
    exec (.fence scope later earlier p) s = .next (
      if ((List.range 7).all fun j => !earlier.getLsbD j || s.pathQuiet s.cur.1 s.cur.2 j) && (s.fenceDue earlier).isEmpty then
        if later.getLsbD 0 && (earlier >>> 1 != 0 || scope == .dev || scope == .sys) then (s.modMyCore (·.l1Clear)).retire else s.retire
      else if earlier.getLsbD 5 then s.stall.block (.forwards (s.fenceDue earlier))
      else s.stall) :=
  congrArg _ (State.begin_body hb _)

theorem fenceQuiet_iff (s : State) (earlier : BitVec 7) :
    (((List.range 7).all fun j => !earlier.getLsbD j || s.pathQuiet s.cur.1 s.cur.2 j) && (s.fenceDue earlier).isEmpty) = true ↔
      s.fenceDue earlier = [] ∧ ∀ j, j < 7 → earlier.getLsbD j = true → s.pathQuiet s.cur.1 s.cur.2 j = true := by
  simp only [Bool.and_eq_true, List.all_eq_true, List.mem_range, Bool.or_eq_true, Bool.not_eq_true', List.isEmpty_iff]
  rw [and_comm]
  refine and_congr_right fun _ => forall₂_congr fun j _ => ?_
  cases earlier.getLsbD j <;> simp

/-- FENCE whose earlier paths are quiet retires, with the first-level cache empty where it orders later loads (R237). -/
theorem exec_fence_quiet {s : State} {scope : Scope} {later earlier : BitVec 7} {p : Pred} (hb : Begins .no false p s) (hu : Unstepped s)
    (hq : s.fenceDue earlier = [] ∧ ∀ j, j < 7 → earlier.getLsbD j = true → s.pathQuiet s.cur.1 s.cur.2 j = true) :
    ∃ t, exec (.fence scope later earlier p) s = .next t ∧ CompletesIn s t s.me
      (if later.getLsbD 0 = true ∧ (earlier >>> 1 ≠ 0 ∨ scope = .dev ∨ scope = .sys) then { s.myCore with l1 := [], fills := [] }
       else s.myCore) := by
  refine ⟨_, exec_fence hb, ?_⟩
  rw [if_pos ((fenceQuiet_iff s earlier).mpr hq)]
  by_cases h : later.getLsbD 0 = true ∧ (earlier >>> 1 ≠ 0 ∨ scope = .dev ∨ scope = .sys)
  · rw [if_pos h, if_pos (by simpa [or_assoc] using h)]
    exact State.modMyCore_completesIn hb.turn hu rfl
  · rw [if_neg h, if_neg (by simpa [or_assoc] using h)]
    exact State.retire_completesIn hb.turn hu rfl (CoreIs.refl _ _ _) rfl rfl rfl

theorem State.stall_only (s : State) : OnlyStrand s.cur.1 s.cur.2 s s.stall := s.modStrand_only _ _ fun t => { t with midway := true }

/-- FENCE with an earlier path that is not quiet waits, and notes the forwarded entries where it names path G (R237). -/
theorem exec_fence_waits {s : State} {scope : Scope} {later earlier : BitVec 7} {p : Pred} (hb : Begins .no false p s)
    (hq : ¬ (s.fenceDue earlier = [] ∧ ∀ j, j < 7 → earlier.getLsbD j = true → s.pathQuiet s.cur.1 s.cur.2 j = true)) :
    ∃ t, exec (.fence scope later earlier p) s = .next t ∧ OnlyStrand s.cur.1 s.cur.2 s t ∧
      t.me = { s.me with midway := true, wait := if earlier.getLsbD 5 then .forwards (s.fenceDue earlier) else s.me.wait } := by
  refine ⟨_, exec_fence hb, ?_⟩
  rw [if_neg (mt (fenceQuiet_iff s earlier).mp hq)]
  split
  · obtain ⟨ho, hme⟩ := s.stall.blocks_of_block (.forwards (s.fenceDue earlier)) hb.turn
    exact ⟨(s.stall_only).trans ho, hme.trans (by rw [State.stall, s.me_modMe _ hb.turn])⟩
  · exact ⟨s.stall_only, s.me_modMe _ hb.turn⟩

section Grpset

variable {s : State} {n : Fin 16} {a : Opd} {p : Pred} (hb : Begins .no false p s) (hc : s.groupCheck (s.me.src 0 a) = none)
include hb hc

theorem exec_grpset : exec (.grpset n a p) s = .next (
    if (s.myCore.group n).draining then s.block (.grpset n (s.me.src 0 a))
    else (s.modMyCore (·.writeGroup n (s.me.src 0 a))).retire) :=
  congrArg _ ((State.begin_body hb _).trans (by simp only [hc]))

theorem exec_grpset_writes (hu : Unstepped s) (hd : (s.myCore.group n).draining = false) :
    ∃ t, exec (.grpset n a p) s = .next t ∧ CompletesIn s t s.me (s.myCore.writeGroup n (s.me.src 0 a)) := by
  refine ⟨_, exec_grpset hb hc, ?_⟩
  rw [hd]
  exact State.modMyCore_completesIn hb.turn hu rfl

end Grpset

@[simp] theorem Core.group_setGroup_same (x : Core) (n : Nat) (g : Group) : (x.setGroup n g).group n = g := SMap.getD_set_same _ _ _ _

theorem Core.group_setGroup_other (x : Core) {n k : Nat} (g : Group) (h : k ≠ n) : (x.setGroup n g).group k = x.group k :=
  SMap.getD_set_other _ _ _ h

/-- Settles O27: QFREE writes one register, WAIT and FENCE retire or wait by their condition, GRPSET by what is in flight. -/
theorem waitsComplete : Obligations.WaitsComplete := by
  unfold Obligations.WaitsComplete
  intro p s hb hu
  refine ⟨fun d => ⟨?_, ?_⟩, fun l sc c t => ⟨fun h => ?_, fun h => ?_⟩,
    fun scope later earlier => ⟨exec_fence_quiet hb hu, exec_fence_waits hb⟩, fun n a hc => ⟨fun hd => ?_, fun hd => ?_⟩⟩
  · exact ⟨_, exec_qfree hb, s.finish_write _ d _ hb.turn hu rfl⟩
  · exact ⟨_, exec_qfreeAddr hb, s.finish_write _ d _ hb.turn hu rfl⟩
  · refine ⟨_, exec_wait hb, ?_⟩
    rw [if_pos (by simpa [and_assoc] using h)]
    exact State.retire_completes hb.turn hu
  · rw [exec_wait hb, if_neg (by simpa [and_assoc] using h)]
  · obtain ⟨t, hx, hcomp⟩ := exec_grpset_writes hb hc hu hd
    exact ⟨t, hx, by rw [hcomp.groups]; exact hcomp, (hcomp.group n).trans (Core.group_setGroup_same _ _ _),
      fun k hk => (hcomp.group k).trans (Core.group_setGroup_other _ _ hk)⟩
  · refine ⟨_, exec_grpset hb hc, ?_⟩
    rw [hd]
    exact State.blocks_of_block _ hb.turn

end Sys2Proof.Machine
end

section
/-!
SUPPORT. Fields of words, of slots and of tile-table entries: what is read back after a write (R89, R117, R122).
-/

namespace Sys2Proof.Machine

/-! ## Fields of words -/

theorem bits_testBit (w : W64) (lo n k : Nat) : (bits w lo n).testBit k = (decide (k < n) && w.getLsbD (lo + k)) := by
  rw [bits, Nat.testBit_mod_two_pow, BitVec.testBit_toNat, BitVec.getLsbD_ushiftRight]

theorem bits_congr {v w : W64} {lo n : Nat} (h : ∀ j, lo ≤ j → j < lo + n → v.getLsbD j = w.getLsbD j) : bits v lo n = bits w lo n := by
  refine Nat.eq_of_testBit_eq fun k => ?_
  rw [bits_testBit, bits_testBit]
  by_cases hk : k < n
  · rw [h (lo + k) (by omega) (by omega)]
  · simp [hk]

theorem putBits_getLsbD (w : W64) (lo n x j : Nat) (hj : j < 64) :
    (putBits w lo n x).getLsbD j = if lo ≤ j ∧ j < lo + n then x.testBit (j - lo) else w.getLsbD j := by
  have hm : ∀ m : Nat, (BitVec.ofNat 64 m <<< lo).getLsbD j = (decide (lo ≤ j) && m.testBit (j - lo)) := fun m => by
    rw [BitVec.getLsbD_shiftLeft, BitVec.getLsbD_ofNat]
    by_cases h : lo ≤ j
    · simp [hj, show j - lo < 64 by omega, Nat.not_lt.mpr h, h]
    · simp [Nat.not_le.mp h, h]
  rw [putBits, BitVec.getLsbD_or, BitVec.getLsbD_and, BitVec.getLsbD_not, hm, hm, Nat.testBit_two_pow_sub_one, Nat.testBit_mod_two_pow]
  by_cases h : lo ≤ j
  · by_cases h' : j < lo + n
    · simp [h, h', hj, show j - lo < n by omega]
    · simp [h, h', hj, show ¬ j - lo < n by omega]
  · simp [h, hj]

/-- A field reads as it was put. -/
theorem bits_putBits_same (w : W64) (lo n x : Nat) (h : lo + n ≤ 64) : bits (putBits w lo n x) lo n = x % 2 ^ n := by
  refine Nat.eq_of_testBit_eq fun k => ?_
  rw [bits_testBit, Nat.testBit_mod_two_pow]
  by_cases hk : k < n
  · rw [putBits_getLsbD _ _ _ _ _ (by omega), if_pos (by omega), Nat.add_sub_cancel_left]
  · simp [hk]

/-- A field that meets no bit of the one that was put reads as before. -/
theorem bits_putBits_other (w : W64) (lo n x : Nat) {lo' n' : Nat} (h : lo' + n' ≤ lo ∨ lo + n ≤ lo') (h64 : lo' + n' ≤ 64) :
    bits (putBits w lo n x) lo' n' = bits w lo' n' :=
  bits_congr fun j hj hj' => by rw [putBits_getLsbD _ _ _ _ _ (by omega), if_neg (by omega)]

theorem setBit_getLsbD (w : W64) (i j : Nat) (b : Bool) (hj : j < 64) : (setBit w i b).getLsbD j = if j = i then b else w.getLsbD j := by
  have h1 : ((1 : W64) <<< i).getLsbD j = decide (j = i) := by
    have h0 : (1 : W64).getLsbD (j - i) = decide (j - i = 0) := by rw [show (1 : W64) = 1#64 from rfl, BitVec.getLsbD_one]; simp
    rw [BitVec.getLsbD_shiftLeft, h0]
    by_cases h : j < i
    · simp [h, Nat.ne_of_lt h]
    · simp [hj, h, show j - i = 0 ↔ j = i by omega]
  cases b
  · rw [setBit, if_neg Bool.false_ne_true, BitVec.getLsbD_and, BitVec.getLsbD_not, h1]
    by_cases h : j = i <;> simp [h, hj]
  · rw [setBit, if_pos rfl, BitVec.getLsbD_or, h1]
    by_cases h : j = i <;> simp [h]

theorem bits_setBit_other (w : W64) (i : Nat) (b : Bool) {lo n : Nat} (h : i < lo ∨ lo + n ≤ i) (h64 : lo + n ≤ 64) :
    bits (setBit w i b) lo n = bits w lo n :=
  bits_congr fun j hj hj' => by rw [setBit_getLsbD _ _ _ _ (by omega), if_neg (by omega)]

/-! ## Numbers in bytes -/

theorem leNat_lt (l : List Byte) : leNat l < 2 ^ (8 * l.length) := by
  induction l with
  | nil => exact Nat.one_pos
  | cons b l ih =>
    have hb : b.toNat < 256 := b.isLt
    rw [leNat, List.length_cons, Nat.mul_succ, Nat.pow_add]
    omega

theorem Memory.bytes_length (m : Memory) (a n : Nat) : (m.bytes a n).length = n := by
  induction n generalizing a with
  | zero => rfl
  | succ n ih => rw [Memory.bytes, List.length_cons, ih]

theorem Memory.num_lt (m : Memory) (a n : Nat) : m.num a n < 2 ^ (8 * n) := by
  have h := leNat_lt (m.bytes a n)
  rwa [Memory.bytes_length] at h

/-! ## Bytes of slots -/

theorem Slot.num_testBit (o : Slot) (a n k : Nat) : (o.num a n).testBit k = (decide (k < 8 * n) && o.data.getLsbD (8 * a + k)) := by
  rw [Slot.num, Nat.testBit_mod_two_pow, BitVec.testBit_toNat, BitVec.getLsbD_ushiftRight]

theorem Slot.put_getLsbD (o : Slot) (a n x j : Nat) (hj : j < 32768) :
    (o.put a n x).data.getLsbD j = if 8 * a ≤ j ∧ j < 8 * (a + n) then x.testBit (j - 8 * a) else o.data.getLsbD j := by
  have hm : ∀ m : Nat, (BitVec.ofNat 32768 m <<< (8 * a)).getLsbD j = (decide (8 * a ≤ j) && m.testBit (j - 8 * a)) := fun m => by
    rw [BitVec.getLsbD_shiftLeft, BitVec.getLsbD_ofNat]
    by_cases h : 8 * a ≤ j
    · simp [hj, show j - 8 * a < 32768 by omega, Nat.not_lt.mpr h, h]
    · simp [Nat.not_le.mp h, h]
  simp only [Slot.put]
  rw [BitVec.getLsbD_or, BitVec.getLsbD_and, BitVec.getLsbD_and, BitVec.getLsbD_not, hm, hm, Nat.testBit_two_pow_sub_one]
  by_cases h : 8 * a ≤ j
  · by_cases h' : j < 8 * (a + n)
    · simp [h, h', hj, show j - 8 * a < 8 * n by omega]
    · simp [h, h', hj, show ¬ j - 8 * a < 8 * n by omega]
  · simp [h, hj]

theorem Slot.num_put_same (o : Slot) (a n x : Nat) (h : a + n ≤ 4096) : (o.put a n x).num a n = x % 2 ^ (8 * n) := by
  refine Nat.eq_of_testBit_eq fun k => ?_
  rw [Slot.num_testBit, Nat.testBit_mod_two_pow]
  by_cases hk : k < 8 * n
  · rw [Slot.put_getLsbD _ _ _ _ _ (by omega), if_pos (by omega), Nat.add_sub_cancel_left]
  · simp [hk]

theorem Slot.num_put_other (o : Slot) (a n x : Nat) {b m : Nat} (h : b + m ≤ a ∨ a + n ≤ b) : (o.put a n x).num b m = o.num b m := by
  refine Nat.eq_of_testBit_eq fun k => ?_
  rw [Slot.num_testBit, Slot.num_testBit]
  by_cases hk : k < 8 * m
  · by_cases hj : 8 * b + k < 32768
    · rw [Slot.put_getLsbD _ _ _ _ _ hj, if_neg (by omega)]
    · rw [BitVec.getLsbD_of_ge _ _ (by omega), BitVec.getLsbD_of_ge _ _ (by omega)]
  · simp [hk]

/-- Rows that are put one behind another into a slot read as they were put. -/
theorem Slot.num_foldl_put (o : Slot) (n : Nat) (g : Nat → Nat) {rows r : Nat} (hr : r < rows) (h : rows * n ≤ 4096) :
    ((List.range rows).foldl (fun k i => k.put (i * n) n (g i)) o).num (r * n) n = g r % 2 ^ (8 * n) := by
  induction rows with
  | zero => exact absurd hr (Nat.not_lt_zero r)
  | succ m ih =>
    rw [Nat.add_mul, Nat.one_mul] at h
    rw [List.range_succ, List.foldl_append]
    by_cases hm : r = m
    · subst hm
      exact Slot.num_put_same _ _ _ _ h
    · have hle : r * n + n ≤ m * n := by
        rw [← Nat.succ_mul]
        exact Nat.mul_le_mul_right n (by omega)
      exact (Slot.num_put_other _ _ _ _ (.inl hle)).trans (ih (by omega) (by omega))

/-! ## Entries of the containers of a core -/

@[simp] theorem Core.tile_setTile_same (x : Core) (n : Nat) (e : Tile) : (x.setTile n e).tile n = e := SMap.getD_set_same _ _ _ _

theorem Core.tile_setTile_other (x : Core) {n k : Nat} (e : Tile) (h : k ≠ n) : (x.setTile n e).tile k = x.tile k :=
  SMap.getD_set_other _ _ _ h

@[simp] theorem Core.tile_modTile_same (x : Core) (n : Nat) (f : Tile → Tile) : (x.modTile n f).tile n = f (x.tile n) :=
  Core.tile_setTile_same _ _ _

theorem Core.tile_modTile_other (x : Core) {n k : Nat} (f : Tile → Tile) (h : k ≠ n) : (x.modTile n f).tile k = x.tile k :=
  Core.tile_setTile_other _ _ h

@[simp] theorem State.tile_modTile_same (s : State) (c n : Nat) (f : Tile → Tile) : (s.modTile c n f).tile c n = f (s.tile c n) := by
  rw [State.tile, State.modTile, State.core_modCore_same, Core.tile_modTile_same]
  rfl

theorem State.tile_modTile_other (s : State) (c : Nat) {n k : Nat} (f : Tile → Tile) (h : k ≠ n) :
    (s.modTile c n f).tile c k = s.tile c k := by
  rw [State.tile, State.modTile, State.core_modCore_same, Core.tile_modTile_other _ _ h]
  rfl

@[simp] theorem Core.slot_setSlot_same (x : Core) (o : Nat) (e : Slot) : (x.setSlot o e).slot o = e := SMap.getD_set_same _ _ _ _

theorem Core.slot_setSlot_other (x : Core) {o k : Nat} (e : Slot) (h : k ≠ o) : (x.setSlot o e).slot k = x.slot k :=
  SMap.getD_set_other _ _ _ h

@[simp] theorem Tile.state_setState (e : Tile) {st : Nat} (h : st < 4) : (e.setState st).state = st :=
  (bits_putBits_same _ _ _ _ (by decide)).trans (Nat.mod_eq_of_lt h)

/-- One change of each of `n` neighbouring entries. -/
def Core.modTiles (x : Core) (b n : Nat) (f : Tile → Tile) : Core := (List.range n).foldl (fun x j => x.modTile (b + j) f) x
def State.modTiles (s : State) (c b n : Nat) (f : Tile → Tile) : State := (List.range n).foldl (fun s j => s.modTile c (b + j) f) s

theorem Core.modTiles_succ (x : Core) (b n : Nat) (f : Tile → Tile) : x.modTiles b (n + 1) f = (x.modTiles b n f).modTile (b + n) f := by
  rw [Core.modTiles, List.range_succ, List.foldl_append]
  rfl

theorem State.modTiles_succ (s : State) (c b n : Nat) (f : Tile → Tile) :
    s.modTiles c b (n + 1) f = (s.modTiles c b n f).modTile c (b + n) f := by
  rw [State.modTiles, List.range_succ, List.foldl_append]
  rfl

theorem Core.tile_modTiles (x : Core) (b n : Nat) (f : Tile → Tile) (m : Nat) :
    (x.modTiles b n f).tile m = if b ≤ m ∧ m < b + n then f (x.tile m) else x.tile m := by
  induction n with
  | zero => rw [if_neg (by omega)]; rfl
  | succ n ih =>
    rw [Core.modTiles_succ]
    by_cases hm : m = b + n
    · subst hm
      rw [if_neg (by omega)] at ih
      rw [if_pos (by omega), Core.tile_modTile_same, ih]
    · rw [Core.tile_modTile_other _ _ hm, ih]
      exact if_congr (by omega) rfl rfl

theorem Core.modTiles_eq (x : Core) (b n : Nat) (f : Tile → Tile) : x.modTiles b n f = { x with tiles := (x.modTiles b n f).tiles } := by
  induction n with
  | zero => rfl
  | succ n ih => rw [Core.modTiles_succ, ih]; rfl

theorem Core.modTiles_streams (x : Core) (b n : Nat) (f : Tile → Tile) : (x.modTiles b n f).streams = x.streams := by
  rw [Core.modTiles_eq]

theorem State.modTiles_eq (s : State) (c b n : Nat) (f : Tile → Tile) : s.modTiles c b n f = { s with cores := (s.modTiles c b n f).cores } := by
  induction n with
  | zero => rfl
  | succ n ih => rw [State.modTiles_succ, ih]; rfl

theorem State.modTiles_cur (s : State) (c b n : Nat) (f : Tile → Tile) : (s.modTiles c b n f).cur = s.cur := by
  rw [State.modTiles_eq]

/-- Changing entries of the core whose turn it is, as an instruction's fold over them says it. -/
theorem State.foldl_myTile (s : State) (b n : Nat) (f : Tile → Tile) :
    (List.range n).foldl (fun s j => s.modTile s.cur.1 (b + j) f) s = s.modTiles s.cur.1 b n f := by
  induction n with
  | zero => rfl
  | succ n ih => rw [List.range_succ, List.foldl_append, ih, State.modTiles_succ, List.foldl_cons, State.modTiles_cur]; rfl

theorem CoreIs.modTiles {c i : Nat} {s w : State} {u : Strand} {k : Core} (h : CoreIs c i s w u k) (b n : Nat) (f : Tile → Tile) :
    CoreIs c i s (w.modTiles c b n f) u (k.modTiles b n f) := by
  induction n with
  | zero => exact h
  | succ n ih => rw [State.modTiles_succ, Core.modTiles_succ]; exact ih.modCore fun _ => rfl

end Sys2Proof.Machine
end

section
/-!
PROOFS. OCLAIM, OFILL and ORELS at their issue, and the end of an OFILL (R124, R233).
-/

namespace Sys2Proof.Machine

/-! ## OCLAIM -/

/-- A strand waits for a slot no more, or waits for it behind those that wait already (R124). -/
def Core.unclaimed (x : Core) (o i : Nat) : Core := { x with slotWait := x.slotWait.filter (· != (o, i)) }
def Core.claiming (x : Core) (o i : Nat) : Core :=
  if x.slotWait.contains (o, i) then x else { x with slotWait := x.slotWait ++ [(o, i)] }

theorem Core.claiming_slotWait (x : Core) (o i : Nat) : (o, i) ∈ (x.claiming o i).slotWait := by
  unfold Core.claiming
  split
  · exact List.contains_iff_mem.mp ‹_›
  · exact List.mem_append_right _ List.mem_cons_self

theorem Core.claiming_eq (x : Core) (o i : Nat) : x.claiming o i = { x with slotWait := (x.claiming o i).slotWait } := by
  unfold Core.claiming
  split <;> rfl

section Oclaim

variable {s : State} {o : Fin 16} {n : Fin 64} {p : Pred} (hb : Begins .no false p s) (hst : (s.myCore.tile n).state = 0)
  (hr : (s.myCore.tile n).refilling = false) (hl : (s.myCore.tile n).loc = true) (hs : (s.myCore.tile n).slotNo = o.val)
include hb hst hr hl hs

theorem exec_oclaim_own (hu : Unstepped s) (h : (s.myCore.slot o).bound = some n.val) :
    ∃ t, exec (.oclaim o n p) s = .next t ∧ CompletesIn s t s.me (s.myCore.unclaimed o s.cur.2) := by
  refine ⟨(s.modMyCore fun _ => s.myCore.unclaimed o s.cur.2).retire, ?_, State.modMyCore_completesIn hb.turn hu rfl⟩
  show execOclaim o n p s = _
  unfold execOclaim
  rw [State.begin_body hb]
  simp only [hr, hst, hl, hs, h, bne_self_eq_false, Bool.not_true, Bool.or_self, Bool.false_eq_true, if_false, if_true]
  rfl

/-- A slot that another entry holds is waited for. -/
theorem exec_oclaim_other {b : Nat} (h : (s.myCore.slot o).bound = some b) (hne : b ≠ n.val) :
    ∃ t, exec (.oclaim o n p) s = .next t ∧ CoreIs s.cur.1 s.cur.2 s t { s.me with midway := true } (s.myCore.claiming o s.cur.2) ∧
      t.cur = s.cur := by
  refine ⟨(s.modMyCore fun _ => s.myCore.claiming o s.cur.2).stall, ?_, ?_, rfl⟩
  swap
  · refine ((CoreIs.refl s.cur.1 s.cur.2 s).modCore_of ?_).modStrand hb.turn fun t => { t with midway := true }
    rw [Core.claiming_eq]
    rfl
  show execOclaim o n p s = _
  unfold execOclaim
  rw [State.begin_body hb]
  simp only [hr, hst, hl, hs, h, if_neg hne, bne_self_eq_false, Bool.not_true, Bool.or_self, Bool.false_eq_true, if_false]
  rfl

/-- A free slot is bound where no other strand waits for it. -/
theorem exec_oclaim_free (hu : Unstepped s) (h : (s.myCore.slot o).bound = none) (hw : ∀ j, (o.val, j) ∈ s.myCore.slotWait → j = s.cur.2) :
    ∃ t, exec (.oclaim o n p) s = .next t ∧ CompletesIn s t s.me
      ((s.myCore.unclaimed o s.cur.2).setSlot o { s.myCore.slot o with bound := some n.val }) := by
  have hfirst : ((s.myCore.slotWait.find? (·.1 == o.val)).map (·.2)).getD s.cur.2 = s.cur.2 := by
    cases hf : s.myCore.slotWait.find? (·.1 == o.val) with
    | none => rfl
    | some e =>
      obtain ⟨k, j⟩ := e
      obtain rfl : k = o.val := by simpa using List.find?_some hf
      exact hw j (List.mem_of_find?_eq_some hf)
  refine ⟨(s.modMyCore fun _ => (s.myCore.unclaimed o s.cur.2).setSlot o { s.myCore.slot o with bound := some n.val }).retire, ?_,
    State.modMyCore_completesIn hb.turn hu rfl⟩
  show execOclaim o n p s = _
  unfold execOclaim
  rw [State.begin_body hb]
  simp only [hr, hst, hl, hs, h, hfirst, bne_self_eq_false, Bool.not_true, Bool.or_self, Bool.false_eq_true, if_false, if_true]
  rfl

end Oclaim

/-! ## OFILL -/

/-- What an OFILL leaves of its entry (R124). -/
def Tile.ofilling (e f : Tile) (i : Nat) : Tile :=
  { e.setState 1 with job := .ofill f.off f.lpitch f.rows f.rowBytes f.residue i }

theorem exec_ofill {s : State} {n src : Fin 64} {p : Pred} (hb : Begins .no false p s) (hsrc : (s.myCore.tile src).state = 2)
    (hst : (s.myCore.tile n).state = 0) (hl : (s.myCore.tile n).loc = true)
    (hbound : (s.myCore.slot (s.myCore.tile n).slotNo).bound = some n.val) (hloc : (s.myCore.tile src).loc = false)
    (hety : (s.myCore.tile src).ety = (s.myCore.tile n).ety) (hrows : (s.myCore.tile src).rows = (s.myCore.tile n).rows)
    (hcols : (s.myCore.tile src).cols = (s.myCore.tile n).cols) (ht : s.me.tlc < 64) (hu : Unstepped s) :
    ∃ t, exec (.ofill n src p) s = .next t ∧ CompletesIn s t { s.me with tlc := s.me.tlc + 1 }
      (s.myCore.modTile n (·.ofilling (s.myCore.tile src) s.cur.2)) := by
  refine ⟨((s.modMe fun t => { t with tlc := t.tlc + 1 }).modTile s.cur.1 n (·.ofilling (s.myCore.tile src) s.cur.2)).retire, ?_,
    State.retire_completesIn hb.turn hu rfl
      (((CoreIs.refl s.cur.1 s.cur.2 s).modStrand hb.turn fun t => { t with tlc := t.tlc + 1 }).modCore fun _ => rfl) rfl rfl rfl⟩
  have hsame : ((s.myCore.tile src).loc || (s.myCore.tile src).ety != (s.myCore.tile n).ety ||
      (s.myCore.tile src).rows != (s.myCore.tile n).rows || (s.myCore.tile src).cols != (s.myCore.tile n).cols) = false := by
    simp [hloc, hety, hrows, hcols]
  show execOfill n src p s = _
  unfold execOfill
  rw [State.begin_body hb]
  simp only [hsrc, hst, hl, hbound, hsame, decide_eq_false (Nat.not_le.mpr ht), bne_self_eq_false, Bool.not_true,
    Bool.or_self, Bool.false_eq_true, if_false, show (2 : Nat) ≠ 1 by decide]
  rfl

/-! ## OFILL_COMPLETE -/

theorem State.slotClean_eq (s : State) (c n : Nat) : s.slotClean c n = { s with env := (s.slotClean c n).env } := by
  unfold State.slotClean
  dsimp only
  split <;> rfl

/-- The slot once an OFILL has put the rows of its source into it, and where they have scales, those (R124). -/
def Core.ofilled (x : Core) (o off lpitch rows rowBytes : Nat) (residue : Bool) : Slot :=
  let k := (List.range rows).foldl (fun (k : Slot) i => k.put (i * rowBytes) rowBytes (x.ls.num (off + i * lpitch) rowBytes)) (x.slot o)
  if residue then { k with scales := putScales k.scales 0 rows (x.ls.num (off + rows * lpitch) (4 * rows)) } else k

theorem Core.num_ofilled (x : Core) (o off lpitch : Nat) {rows rowBytes r : Nat} (residue : Bool) (h : rows * rowBytes ≤ 4096)
    (hr : r < rows) : (x.ofilled o off lpitch rows rowBytes residue).num (r * rowBytes) rowBytes = x.ls.num (off + r * lpitch) rowBytes := by
  have hrow := (x.slot o).num_foldl_put rowBytes (fun i => x.ls.num (off + i * lpitch) rowBytes) hr h
  rw [Nat.mod_eq_of_lt (Memory.num_lt _ _ _)] at hrow
  unfold Core.ofilled
  cases residue <;> exact hrow

theorem exec_ofillComplete {s : State} {c n off lpitch rows rowBytes o : Nat} {residue : Bool} (hc : c < 12288) (hn : n < 64)
    (hj : (s.tile c n).job = .ofill off lpitch rows rowBytes residue o) :
    exec (.ofillComplete c n) s = .next ((((s.slotClean c n).modCore c (·.setSlot (s.tile c n).slotNo
      ((s.core c).ofilled (s.tile c n).slotNo off lpitch rows rowBytes residue))).modTile c n fun e =>
        { e.setState 2 with w4 := (s.slotClean c n).timecode, job := .none }).tlcDown c o) := by
  show execOfillComplete c n s = _
  unfold execOfillComplete
  simp only [hc, hn, decide_true, Bool.and_self, Bool.not_true, Bool.false_eq_true, if_false, hj]
  rfl

/-- The end of an OFILL changes its core's slot and entry and its strand's count, and no other core. -/
theorem ofillComplete_leaves {s : State} {c n off lpitch rows rowBytes o : Nat} {residue : Bool} (hc : c < 12288) (hn : n < 64) (ho : o < 4)
    (hj : (s.tile c n).job = .ofill off lpitch rows rowBytes residue o) : ∃ t, exec (.ofillComplete c n) s = .next t ∧
      CoreIs c o s t { s.strand c o with tlc := (s.strand c o).tlc - 1 }
        (((s.core c).setSlot (s.tile c n).slotNo ((s.core c).ofilled (s.tile c n).slotNo off lpitch rows rowBytes residue)).modTile n
          fun e => { e.setState 2 with w4 := s.timecode, job := .none }) := by
  refine ⟨_, exec_ofillComplete hc hn hj, ?_⟩
  have hclean : CoreIs c o s (s.slotClean c n) (s.strand c o) (s.core c) := (CoreIs.refl c o s).of_cores (by rw [State.slotClean_eq])
  have htime : (s.slotClean c n).timecode = s.timecode := by rw [State.slotClean_eq]
  rw [htime]
  exact ((hclean.modCore fun _ => rfl).modCore fun _ => rfl).modStrand ho _

/-! ## ORELS -/

/-- What releasing leaves of an entry without a log (R120, R234). -/
def Tile.emptied (e : Tile) : Tile :=
  let e := (e.setState 0).setLog []
  { e with
    logged := none, logDirty := false, next := 1, serve := 1, job := .none, unsub := false, promoted := false, refilling := false
    w3 := if e.unsub then setBit e.w3 22 false else e.w3 }

theorem State.tileEmpty_of_unlogged {s : State} {c n : Nat} (h : (s.tile c n).logged = none) :
    s.tileEmpty c n = s.modTile c n Tile.emptied := by
  unfold State.tileEmpty
  simp only [h]
  rfl

theorem Tile.state_emptied (e : Tile) : e.emptied.state = 0 := by
  have h : bits ((e.setState 0).setLog []).w3 0 2 = 0 :=
    (bits_putBits_other _ _ _ _ (.inl (by decide)) (by decide)).trans (bits_putBits_same _ _ _ _ (by decide))
  unfold Tile.emptied Tile.state
  dsimp only
  split
  · exact (bits_setBit_other _ _ _ (.inr (by decide)) (by decide)).trans h
  · exact h

theorem exec_orels_free {s : State} {o : Fin 16} {p : Pred} (hb : Begins .no false p s) (hu : Unstepped s)
    (h : (s.myCore.slot o).bound = none) : ∃ t, exec (.orels o p) s = .next t ∧ Completes s t s.me := by
  refine ⟨s.retire, ?_, State.retire_completes hb.turn hu⟩
  show execOrels o p s = _
  unfold execOrels
  rw [State.begin_body hb]
  simp only [h]

theorem exec_orels_bound {s : State} {o : Fin 16} {n : Nat} {p : Pred} (hb : Begins .no false p s) (hu : Unstepped s)
    (h : (s.myCore.slot o).bound = some n) (hst : (s.myCore.tile n).state = 0 ∨ (s.myCore.tile n).state = 2)
    (hlog : (s.myCore.tile n).logged = none) (hmx : ∀ m ∈ s.myCore.mxq, m.kind.readsSlot o = false ∨ m.phase = .past) :
    ∃ t, exec (.orels o p) s = .next t ∧ CompletesIn s t s.me
      ((s.myCore.modTile n Tile.emptied).setSlot o { s.myCore.slot o with bound := none }) := by
  refine ⟨((s.modTile s.cur.1 n Tile.emptied).modMyCore fun x => x.setSlot o { x.slot o with bound := none }).retire, ?_,
    State.retire_completesIn hb.turn hu rfl (((CoreIs.refl s.cur.1 s.cur.2 s).modCore fun _ => rfl).modCore fun _ => rfl) rfl rfl rfl⟩
  have hany : (s.myCore.mxq.any fun m => m.kind.readsSlot o && m.phase != .past) = false := by
    refine List.any_eq_false.mpr fun m hm => ?_
    obtain h | h := hmx m hm <;> simp [h]
  show execOrels o p s = _
  unfold execOrels
  rw [State.begin_body hb]
  simp only [h, hany, Bool.or_eq_true, Bool.false_eq_true, if_false]
  rw [if_neg (by obtain h | h := hst <;> simp [h]), State.tileEmpty_of_unlogged hlog]

end Sys2Proof.Machine
end

section
/-!
PROOFS. SUBS and UNSUBS at their issue (R101, R102, R234).
-/

namespace Sys2Proof.Machine

/-! ## SUBS -/

/-- What SUBS leaves of an entry of its ring (R234). -/
def Tile.subscribed (i : Nat) (e : Tile) : Tile := { e with w3 := setBit (putBits e.w3 20 2 i) 22 true, unsub := false }

theorem Tile.subscribed_fields (e : Tile) {i : Nat} (hi : i < 4) :
    (e.subscribed i).strm = true ∧ (e.subscribed i).own = i ∧ (e.subscribed i).state = e.state := by
  refine ⟨?_, ?_, ?_⟩
  · exact (setBit_getLsbD _ _ _ _ (by decide)).trans (if_pos rfl)
  · exact (bits_setBit_other _ _ _ (.inr (by decide)) (by decide)).trans
      ((bits_putBits_same _ _ _ _ (by decide)).trans (Nat.mod_eq_of_lt hi))
  · exact (bits_setBit_other _ _ _ (.inr (by decide)) (by decide)).trans (bits_putBits_other _ _ _ _ (.inl (by decide)) (by decide))

/-- An EMPTY entry that is not being refilled and has the shape of another (R234). -/
def Tile.ringsWith (f e : Tile) : Prop :=
  f.state = 0 ∧ f.refilling = false ∧ f.rows ≠ 0 ∧ f.cols ≠ 0 ∧ f.rows = e.rows ∧ f.cols = e.cols ∧
    f.lpitch = e.lpitch ∧ f.ety = e.ety

/-- The stream that SUBS registers (R101, R234). -/
def State.streamOf (s : State) (base : Opd) (n : Fin 64) (rn1 : Fin 16) (h : Shape) : Stream :=
  { tf := n, rn := rn1.val + 1, base := s.me.src 0 base, shape := h, next := 0, origin := s.cur.2, priv := s.me.prv,
    asid := s.me.asid.setWidth 16, ending := false, pushing := false }

theorem exec_subs {s : State} {base shp : Opd} {n : Fin 64} {rn1 : Fin 16} {sid : Fin 4} {p : Pred} {off : Nat}
    (hb : Begins .no false p s) (hrange : n.val + rn1.val + 1 ≤ 64) (hfree : SMap.get? s.myCore.streams sid = none)
    (hplace : s.myCore.shapePlace s.me.stkb (s.me.src 0 shp) s.me.prv = .ok off) (hok : (s.myCore.shapeAt off).2 = false)
    (hdst : ∀ d ∈ (s.myCore.shapeAt off).1.dims, d.2.2 = 0)
    (hring : ∀ j, j ≤ rn1.val → (s.myCore.tile (n.val + j)).ringsWith (s.myCore.tile n)) :
    exec (.subs base shp n rn1 sid p) s = .next
      ((s.modTiles s.cur.1 n (rn1.val + 1) (·.subscribed s.cur.2)).modMyCore fun x =>
        { x with streams := SMap.set x.streams sid (s.streamOf base n rn1 (s.myCore.shapeAt off).1) }).retire := by
  obtain ⟨h, hh⟩ : ∃ h, s.myCore.shapeAt off = (h, false) := ⟨_, Prod.ext rfl hok⟩
  rw [hh] at hdst
  have hdims : (h.dims.any fun d => d.2.2 != 0) = false := List.any_eq_false.mpr fun d hd => by simp [hdst d hd]
  have hrefill : (((List.range (rn1.val + 1)).map fun j => s.myCore.tile (n.val + j)).any (·.refilling)) = false := by
    simp only [List.any_map, List.any_eq_false, List.mem_range, Function.comp_apply]
    intro j hj
    obtain ⟨-, hr, -⟩ := hring j (by omega)
    simp [hr]
  have hshape : (((List.range (rn1.val + 1)).map fun j => s.myCore.tile (n.val + j)).any fun e => e.state != 0 || e.rows = 0 || e.cols = 0 ||
      e.rows != (s.myCore.tile n).rows || e.cols != (s.myCore.tile n).cols || e.lpitch != (s.myCore.tile n).lpitch ||
      e.ety != (s.myCore.tile n).ety) = false := by
    simp only [List.any_map, List.any_eq_false, List.mem_range, Function.comp_apply]
    intro j hj
    obtain ⟨h0, -, h1, h2, h3, h4, h5, h6⟩ := hring j (by omega)
    rw [h3] at h1
    rw [h4] at h2
    simp [h0, h1, h2, h3, h4, h5, h6]
  show execSubs base shp n rn1 sid p s = _
  unfold execSubs
  rw [State.begin_body hb]
  simp only [hrefill, hshape, hfree, hplace, hh, hdims, Option.isSome_none, Bool.or_self, Bool.false_eq_true, if_false,
    show ¬ 64 < n.val + (rn1.val + 1) by omega]
  rw [← State.foldl_myTile]
  rfl

/-- SUBS completes with its stream registered and the entries of its ring marked. -/
theorem exec_subs_completes {s : State} {base shp : Opd} {n : Fin 64} {rn1 : Fin 16} {sid : Fin 4} {p : Pred} {off : Nat}
    (hb : Begins .no false p s) (hu : Unstepped s) (hrange : n.val + rn1.val + 1 ≤ 64) (hfree : SMap.get? s.myCore.streams sid = none)
    (hplace : s.myCore.shapePlace s.me.stkb (s.me.src 0 shp) s.me.prv = .ok off) (hok : (s.myCore.shapeAt off).2 = false)
    (hdst : ∀ d ∈ (s.myCore.shapeAt off).1.dims, d.2.2 = 0)
    (hring : ∀ j, j ≤ rn1.val → (s.myCore.tile (n.val + j)).ringsWith (s.myCore.tile n)) :
    ∃ t, exec (.subs base shp n rn1 sid p) s = .next t ∧ CompletesIn s t s.me
      { s.myCore.modTiles n (rn1.val + 1) (·.subscribed s.cur.2) with
        streams := SMap.set s.myCore.streams sid (s.streamOf base n rn1 (s.myCore.shapeAt off).1) } := by
  refine ⟨_, exec_subs hb hrange hfree hplace hok hdst hring, ?_⟩
  have hw := s.modTiles_eq s.cur.1 n (rn1.val + 1) (·.subscribed s.cur.2)
  have hcur := s.modTiles_cur s.cur.1 n (rn1.val + 1) (·.subscribed s.cur.2)
  refine State.retire_completesIn hb.turn hu ?_ ?_ rfl rfl rfl
  · rw [State.modMyCore, hw]
    rfl
  · rw [State.modMyCore, hcur]
    rw [← Core.modTiles_streams s.myCore n (rn1.val + 1) (·.subscribed s.cur.2)]
    exact ((CoreIs.refl s.cur.1 s.cur.2 s).modTiles n (rn1.val + 1) (·.subscribed s.cur.2)).modCore fun _ => rfl

/-! ## UNSUBS -/

/-- What the end of a stream leaves of an entry of its ring (R234). -/
def Tile.unsubscribed (e : Tile) : Tile :=
  if e.state = 0 then { e with w3 := setBit e.w3 22 false } else { e with unsub := true }

/-- The streams of a core once one has been stopped: its id is free, or while a push is in progress it ends (R234). -/
def Stream.stopped (k : Stream) (m : SMap Stream) (sid : Nat) : SMap Stream :=
  if k.pushing then SMap.set m sid { k with ending := true } else SMap.erase m sid

theorem Stream.get?_stopped (k : Stream) (m : SMap Stream) (sid : Nat) :
    SMap.get? (k.stopped m sid) sid = if k.pushing then some { k with ending := true } else none := by
  unfold Stream.stopped
  split
  · exact SMap.get?_set_same _ _ _
  · exact SMap.get?_erase_same _ _

theorem State.streamStop_none {s : State} {c sid : Nat} (h : SMap.get? (s.core c).streams sid = none) : s.streamStop c sid = s := by
  unfold State.streamStop
  simp only [h]

theorem State.streamStop_ending {s : State} {c sid : Nat} {k : Stream} (h : SMap.get? (s.core c).streams sid = some k)
    (he : k.ending = true) : s.streamStop c sid = s := by
  unfold State.streamStop
  simp only [h, he, if_true]

theorem State.streamStop_stops {s : State} {c sid : Nat} {k : Stream} (h : SMap.get? (s.core c).streams sid = some k)
    (he : k.ending = false) : s.streamStop c sid =
      (s.modTiles c k.tf k.rn Tile.unsubscribed).modCore c fun x =>
        { x with streams := k.stopped x.streams sid } := by
  unfold State.streamStop
  simp only [h, he, Bool.false_eq_true, if_false]
  rfl

theorem exec_unsubs {s : State} {sid : Fin 4} {p : Pred} (hb : Begins .no false p s) :
    exec (.unsubs sid p) s = .next (s.streamStop s.cur.1 sid).retire := by
  show execUnsubs sid p s = _
  unfold execUnsubs
  rw [State.begin_body hb]

/-- UNSUBS of a stream that goes on stops it. -/
theorem exec_unsubs_stops {s : State} {sid : Fin 4} {p : Pred} {k : Stream} (hb : Begins .no false p s) (hu : Unstepped s)
    (hk : SMap.get? s.myCore.streams sid = some k) (he : k.ending = false) :
    ∃ t, exec (.unsubs sid p) s = .next t ∧ CompletesIn s t s.me
      { s.myCore.modTiles k.tf k.rn Tile.unsubscribed with streams := k.stopped s.myCore.streams sid } := by
  refine ⟨_, exec_unsubs hb, ?_⟩
  rw [State.streamStop_stops hk he]
  have hw := s.modTiles_eq s.cur.1 k.tf k.rn Tile.unsubscribed
  refine State.retire_completesIn hb.turn hu ?_ ?_ rfl rfl rfl
  · rw [hw]
    rfl
  · rw [← Core.modTiles_streams s.myCore k.tf k.rn Tile.unsubscribed]
    exact ((CoreIs.refl s.cur.1 s.cur.2 s).modTiles k.tf k.rn Tile.unsubscribed).modCore fun _ => rfl

/-- UNSUBS of an id without a stream, or of a stream that ends already, does nothing. -/
theorem exec_unsubs_idle {s : State} {sid : Fin 4} {p : Pred} (hb : Begins .no false p s) (hu : Unstepped s)
    (hk : ∀ k, SMap.get? s.myCore.streams sid = some k → k.ending = true) :
    ∃ t, exec (.unsubs sid p) s = .next t ∧ Completes s t s.me ∧ CompletesIn s t s.me s.myCore := by
  have hstop : s.streamStop s.cur.1 sid = s := by
    cases h : SMap.get? s.myCore.streams sid with
    | none => exact State.streamStop_none h
    | some k => exact State.streamStop_ending h (hk k h)
  refine ⟨_, exec_unsubs hb, ?_⟩
  rw [hstop]
  exact ⟨State.retire_completes hb.turn hu, State.retire_completesIn hb.turn hu rfl (CoreIs.refl _ _ _) rfl rfl rfl⟩

end Sys2Proof.Machine
end

section
/-!
PROOFS. Operand slots and streams: the statement, from the parts above.
-/

namespace Sys2Proof.Machine

theorem Tile.ofilling_fields (e f : Tile) (i : Nat) :
    (e.ofilling f i).state = 1 ∧ (e.ofilling f i).job = .ofill f.off f.lpitch f.rows f.rowBytes f.residue i :=
  ⟨e.state_setState (by decide), rfl⟩

/-- Settles O31: OCLAIM by who holds the slot, OFILL and ORELS by the entry that they change, SUBS and UNSUBS by the ring's entries, and the
end of an OFILL by the rows that it puts into the slot. -/
theorem slotsAndStreamsComplete : Obligations.SlotsAndStreamsComplete := by
  unfold Obligations.SlotsAndStreamsComplete
  refine ⟨fun p s hb hu => ⟨?_, ?_, ?_, ?_, ?_⟩, ?_⟩
  · intro o n hst hr hl hs
    refine ⟨exec_oclaim_own hb hst hr hl hs hu, fun h hw => ?_, fun b h hne => ?_⟩
    · obtain ⟨t, hx, hc⟩ := exec_oclaim_free hb hst hr hl hs hu h hw
      exact ⟨t, hx, by rw [hc.slots]; exact hc, (hc.slot o).trans (Core.slot_setSlot_same _ _ _),
        fun j hj => (hc.slot j).trans (Core.slot_setSlot_other _ _ hj)⟩
    · obtain ⟨t, hx, hc, hcur⟩ := exec_oclaim_other hb hst hr hl hs h hne
      refine ⟨t, hx, ?_⟩
      rw [State.me, State.myCore, hcur, hc.core]
      refine ⟨hc.strand, ?_, Core.claiming_slotWait _ _ _⟩
      rw [Core.claiming_eq]
  · intro n src hne hsrc hst hl hbound hloc hety hrows hcols ht
    obtain ⟨t, hx, hc⟩ := exec_ofill hb hsrc hst hl hbound hloc hety hrows hcols ht hu
    have htile := (hc.tile n).trans (Core.tile_modTile_same _ _ _)
    obtain ⟨hstate, hjob⟩ := (s.myCore.tile n).ofilling_fields (s.myCore.tile src) s.cur.2
    exact ⟨t, hx, by rw [hc.tiles]; exact hc, by rw [htile]; exact hstate, by rw [htile]; exact hjob,
      fun j hj => (hc.tile j).trans (Core.tile_modTile_other _ _ hj)⟩
  · refine fun o => ⟨exec_orels_free hb hu, fun n h hst hlog hmx => ?_⟩
    obtain ⟨t, hx, hc⟩ := exec_orels_bound hb hu h hst hlog hmx
    have htile := (hc.tile n).trans (Core.tile_modTile_same _ _ _)
    have hslot := (hc.slot o).trans (Core.slot_setSlot_same _ _ _)
    exact ⟨t, hx, by rw [hc.tiles, hc.slots]; exact hc, by rw [htile]; exact Tile.state_emptied _, by rw [hslot], by rw [hslot],
      fun j hj => (hc.slot j).trans (Core.slot_setSlot_other _ _ hj), fun j hj => (hc.tile j).trans (Core.tile_modTile_other _ _ hj)⟩
  · intro base shp n rn1 sid off e hrange hfree hplace hok hdst hring
    obtain ⟨t, hx, hc⟩ := exec_subs_completes hb hu hrange hfree hplace hok hdst hring
    have htile : ∀ j, t.myCore.tile j = _ := fun j => (hc.tile j).trans (s.myCore.tile_modTiles n (rn1.val + 1) (·.subscribed s.cur.2) j)
    refine ⟨t, s.streamOf base n rn1 (s.myCore.shapeAt off).1, hx, ?_, ?_, rfl, rfl, rfl, rfl, rfl, rfl, rfl, rfl, fun j hj => ?_, fun j hj => ?_⟩
    · rw [hc.tiles, hc.streams]
      rw [Core.modTiles_eq] at hc ⊢
      exact hc
    · rw [hc.streams]
      exact SMap.get?_set_same _ _ _
    · obtain ⟨hstrm, hown, hstate⟩ := (s.myCore.tile (n.val + j)).subscribed_fields hb.turn
      obtain ⟨h0, -⟩ := hring j hj
      rw [htile, if_pos (by omega)]
      exact ⟨hstrm, hown, hstate.trans h0⟩
    · rw [htile, if_neg (by omega)]
  · refine fun sid => ⟨fun h => ?_, fun k h => ?_⟩
    · obtain ⟨t, hx, hc, -⟩ := exec_unsubs_idle (sid := sid) hb hu (by simp [h])
      exact ⟨t, hx, hc⟩
    · cases he : k.ending with
      | true =>
        obtain ⟨t, hx, -, hc⟩ := exec_unsubs_idle (sid := sid) hb hu fun k' hk' => by rwa [← Option.some.inj (h.symm.trans hk')]
        exact ⟨t, hx, by rw [hc.tiles, hc.streams]; exact hc, fun _ => ⟨hc.tiles, hc.streams⟩, fun h => absurd h (by decide)⟩
      | false =>
        obtain ⟨t, hx, hc⟩ := exec_unsubs_stops hb hu h he
        refine ⟨t, hx, ?_, fun h => absurd h (by decide), fun _ => ?_⟩
        · rw [hc.tiles, hc.streams]
          rw [Core.modTiles_eq] at hc ⊢
          exact hc
        · rw [hc.streams]
          exact k.get?_stopped _ _
  · intro c n off lpitch rows rowBytes o residue s hc hn ho hj
    obtain ⟨t, hx, hk⟩ := ofillComplete_leaves hc hn ho hj
    have hcore := hk.core
    have htile : t.tile c n = { (s.tile c n).setState 2 with w4 := s.timecode, job := .none } :=
      (hk.tile n).trans (Core.tile_modTile_same _ _ _)
    have hslot : (t.core c).slot (s.tile c n).slotNo = (s.core c).ofilled (s.tile c n).slotNo off lpitch rows rowBytes residue := by
      rw [hcore]
      exact Core.slot_setSlot_same _ _ _
    exact ⟨t, hx, by rw [htile]; exact Tile.state_setState _ (by decide), by rw [htile], by rw [htile], by rw [hk.strand], by rw [hcore]; rfl,
      fun hfit r hr => by rw [hslot]; exact Core.num_ofilled _ _ _ _ _ hfit hr,
      fun j hj => (hk.tile j).trans (Core.tile_modTile_other _ _ hj), hk.1⟩

end Sys2Proof.Machine
end

section
/-!
SUPPORT. What the engines share: the requests that they send, the translations that they make, and the lines that a fill reads (R38, R92,
R94, R96).
-/

namespace Sys2Proof.Machine

/-! ## Requests -/

/-- A message with its sender's tag is one message more on its way; a data message of a fill keeps its header. -/
theorem State.requestMsg_effect (s : State) (m : Msg) : NetOnly s (s.requestMsg m) ∧ ∃ b : Msg,
    (s.requestMsg m).transit = s.transit ++ [b] ∧ b.src = m.src ∧ b.dest = m.dest ∧ b.cls = m.cls ∧ b.ticket = m.ticket ∧
      b.cancel = m.cancel ∧ b.poison = m.poison ∧ b.body = m.body ∧ b.sb = m.sb ∧
      ∀ c n k mask d, m.body = .fillData c n k mask d → b.hdr = m.hdr := by
  have hhdr : ∀ (v : State) (tag : Nat) c n k mask d, m.body = .fillData c n k mask d → v.header { m with tag } = m.hdr := by
    intro v tag c n k mask d h
    unfold State.header
    simp only [h]
  unfold State.requestMsg
  rw [State.sendMsg_effect]
  split
  · exact ⟨rfl, _, rfl, rfl, rfl, rfl, rfl, rfl, rfl, rfl, rfl, hhdr _ _⟩
  · exact ⟨rfl, _, rfl, rfl, rfl, rfl, rfl, rfl, rfl, rfl, rfl, hhdr _ _⟩

/-- Where an engine's request for a line goes (R30, R76, R428). -/
def State.engineDest (s : State) (c ln : Nat) (p : Page) (direct : Bool) : Nat :=
  if p.loc then epHost else epSlice (if direct then s.homeOf ln else s.routeOf c ln (p.cp == 0))

theorem State.engineDest_congr {s t : State} (hf : t.flash = s.flash) (hp : t.ptcfg = s.ptcfg) (c ln : Nat) (p : Page) (direct : Bool) :
    t.engineDest c ln p direct = s.engineDest c ln p direct := by
  simp only [State.engineDest, State.homeOf_congr hf hp, State.routeOf_congr hf hp]

/-- The request that an engine makes of a line (R92, R94). -/
def engineRequest (pa : Nat) (op : MemOp) (mask : BitVec 128) (data : W1024) (who : Who) (asid : BitVec 16) : MemReq :=
  { op, line := pa / 128, off := pa % 128, mask, data, who, asid := some asid, px := none }

theorem State.engineReq_effect (s : State) (c src : Nat) (who : Who) (asid : BitVec 16) (pa : Nat) (p : Page) (direct : Bool) (op : MemOp)
    (mask : BitVec 128) (data : W1024) (sb : List W32) : let t := s.engineReq c src who asid pa p direct op mask data sb
    NetOnly s t ∧ ∃ b : Msg, t.transit = s.transit ++ [b] ∧ b.src = src ∧ b.dest = s.engineDest c (pa / 128) p direct ∧ b.cls = 0 ∧
      b.ticket = 0 ∧ b.cancel = false ∧ b.poison = false ∧ b.body = .mem (engineRequest pa op mask data who asid) ∧ b.sb = sb := by
  obtain ⟨hn, b, ht, h1, h2, h3, h4, h5, h6, h7, h8, -⟩ := s.requestMsg_effect
    { uid := 0, src, via := src, dest := s.engineDest c (pa / 128) p direct, cls := 0, tag := 0, nf := if op = .read then 1 else 3
      ticket := 0, cancel := false, poison := false, sb, body := .mem (engineRequest pa op mask data who asid) }
  exact ⟨hn, b, ht, h1, h2, h3, h4, h5, h6, h7, h8⟩

theorem State.engineReq_mails (s : State) (c src : Nat) (who : Who) (asid : BitVec 16) (pa : Nat) (p : Page) (direct : Bool) (op : MemOp)
    (mask : BitVec 128) (data : W1024) (sb : List W32) : let t := s.engineReq c src who asid pa p direct op mask data sb
    NetOnly s t ∧ Mails s t src (s.engineDest c (pa / 128) p direct) 0 0 (.mem (engineRequest pa op mask data who asid)) := by
  obtain ⟨hn, b, ht, h1, h2, h3, h4, h5, h6, h7, -⟩ := s.engineReq_effect c src who asid pa p direct op mask data sb
  exact ⟨hn, b, ht, h1, h2, h3, h4, h5, h6, h7⟩

/-- A message more on its way than in a state with the same messages on their way. -/
theorem Mails.congr {s t v w : State} {src dest cls ticket : Nat} {body : Body} (h : Mails s t src dest cls ticket body)
    (hs : v.transit = s.transit) (ht : w.transit = t.transit) : Mails v w src dest cls ticket body := by
  obtain ⟨b, hb, h⟩ := h
  exact ⟨b, by rw [ht, hb, hs], h⟩

/-! ## Translation -/

/-- An engine's access to a page that the TLBs hold and that permits it (R38, R94). -/
theorem State.engineXlate_ok {s : State} {c : Nat} {e : EngAcc} {p : Page} (hpt : s.ptsh ≠ 0) (hf : (s.core c).tlbFind e.asid e.va = some p)
    (hp : p.permits e.need = true) : s.engineXlate c e = .ok (pageAddr p e.va) p := by
  unfold State.engineXlate
  rw [if_neg hpt, hf]
  exact if_pos hp

/-! ## The lines of a fill -/

/-- The next line of a fill is read (R92, R96). -/
theorem State.fillGo_reads {s : State} {c n k o va : Nat} {rest : List Nat} {sid : Option Nat} {prv : Bool} {q : TileLine} {pg : Page}
    (hj : (s.tile c n).job = .fill (k :: rest) 0 sid o prv) (hq : (s.tile c n).lines[k]? = some q) (hva : tileVa q.home = some va)
    (hpt : s.ptsh ≠ 0) (hf : (s.core c).tlbFind (s.tile c n).asid va = some pg) (hp : pg.permits (.load prv) = true) :
    s.fillGo c n = (s.modTile c n fun e => { e with job := .fill (k :: rest) 1 sid o prv }).engineReq c (readerOf c sid)
      (.tile c n (s.tile c n).fseq k) (s.tile c n).asid (pageAddr pg va) pg sid.isSome .read 0 0 := by
  unfold State.fillGo
  simp only [hj, hq, hva]
  rw [State.engineXlate_ok hpt hf hp]

theorem State.fillGo_ends {s : State} {c n o : Nat} {sid : Option Nat} {prv : Bool} (hj : (s.tile c n).job = .fill [] 0 sid o prv) :
    s.fillGo c n = s.fillDone c n := by
  unfold State.fillGo
  simp only [hj]

/-- The lines of a fill are read from the first on (R92). -/
theorem State.fillReads_reads {s : State} {c n k o va : Nat} {rest : List Nat} {sid : Option Nat} {prv : Bool} {q : TileLine} {pg : Page}
    (ho : (s.tile c n).fillOrder = k :: rest) (hq : (s.tile c n).lines[k]? = some q) (hva : tileVa q.home = some va)
    (hpt : s.ptsh ≠ 0) (hf : (s.core c).tlbFind (s.tile c n).asid va = some pg) (hp : pg.permits (.load prv) = true) :
    s.fillReads c n sid o prv = ((s.modTile c n fun e => { e with job := .fill e.fillOrder 0 sid o prv, sbuf := 0 }).modTile c n
      fun e => { e with job := .fill (k :: rest) 1 sid o prv }).engineReq c (readerOf c sid)
        (.tile c n (s.tile c n).fseq k) (s.tile c n).asid (pageAddr pg va) pg sid.isSome .read 0 0 := by
  have htile := s.tile_modTile_same c n fun e => { e with job := .fill e.fillOrder 0 sid o prv, sbuf := 0 }
  have hcore : ((s.modTile c n fun e => { e with job := .fill e.fillOrder 0 sid o prv, sbuf := 0 }).core c).tlbFind (s.tile c n).asid va =
      some pg := by
    rw [State.modTile, State.core_modCore_same]
    exact hf
  have h := State.fillGo_reads (s := s.modTile c n fun e => { e with job := .fill e.fillOrder 0 sid o prv, sbuf := 0 }) (c := c) (n := n)
    (k := k) (rest := rest) (sid := sid) (o := o) (prv := prv) (q := q) (va := va) (pg := pg)
    (by rw [htile, ← ho]) (by rw [htile]; exact hq) hva hpt (by rw [htile]; exact hcore) hp
  rw [htile] at h
  exact h

end Sys2Proof.Machine
end

section
/-!
PROOFS. The data of a copy that arrive, and the last acknowledgement of a copy (R88, R89, R99).
-/

namespace Sys2Proof.Machine

theorem State.consume_core (s : State) (uid c : Nat) : (s.consume uid).core c = s.core c := rfl

/-- The bytes of a line read as they were written where the mask says, and as before elsewhere. -/
theorem Memory.read_writeLine {m : Memory} (hm : m.wf = true) (a : Nat) (d : W1024) (mask : BitVec 128) {j : Nat} (hj : j < 128) :
    (m.writeLine a d mask).read (a + j) = if mask.getLsbD j then lineByte d j else m.read (a + j) := by
  unfold Memory.writeLine
  rw [Memory.read_foldl_write hm]
  simp only [List.mem_range, hj, true_and]

/-! ## Data that arrive -/

section Arrive

variable {s : State} {uid c off : Nat} {m : Msg} {who : Who} {mask : BitVec 128} {data : W1024} (hm : s.msg? uid = some m)
  (hb : m.body = .copyWr who c off mask data) (hi : s.imaging c = false)
include hm hb hi

theorem copyDestWrite_writes (hls : (s.core c).ls.wf = true) (hk : s.copyRefusal c off mask (s.copyPrv who) = 0) :
    ∃ t, exec (.copyDestWrite uid) s = .next t ∧ Mails s t m.dest m.src 2 0 (.copyAck who none 0 0) ∧
      NetOnly { s.consume uid with cores := t.cores } t ∧ (∀ k, k ≠ c → t.core k = s.core k) ∧
      (∀ j, j < 128 → (t.core c).ls.read (off + j) =
        if mask.getLsbD j then data.extractLsb' (8 * j) 8 else (s.core c).ls.read (off + j)) ∧
      ∀ a, a < off ∨ off + 128 ≤ a → (t.core c).ls.read a = (s.core c).ls.read a := by
  obtain ⟨hn, hc, hother, hmail⟩ := (s.consume uid).answer_modCore c (fun x => { x with ls := x.ls.writeLine off data mask })
    m.dest m.src 2 1 m.tag (.copyAck who none 0 0)
  have hmem := congrArg Core.ls hc
  simp only [State.consume_core] at hmem
  refine ⟨_, ?_, hmail, hn, hother, fun j hj => ?_, fun a ha => ?_⟩
  · show execCopyDestWrite uid s = _
    unfold execCopyDestWrite
    simp only [hm, hb, hi, hk, Bool.false_eq_true, if_false, if_true]
  · rw [hmem]
    exact Memory.read_writeLine hls off data mask hj
  · rw [hmem]
    exact Memory.read_writeLine_other _ data mask ha

theorem copyDestWrite_refuses (hk : s.copyRefusal c off mask (s.copyPrv who) ≠ 0) :
    ∃ t, exec (.copyDestWrite uid) s = .next t ∧ NetOnly (s.consume uid) t ∧
      Mails s t m.dest m.src 2 0 (.copyAck who none (s.copyRefusal c off mask (s.copyPrv who)) 0) := by
  obtain ⟨hn, hmail⟩ := (s.consume uid).answer_effect m.dest m.src 2 1 m.tag
    (.copyAck who none (s.copyRefusal c off mask (s.copyPrv who)) 0)
  refine ⟨_, ?_, hn, hmail⟩
  show execCopyDestWrite uid s = _
  unfold execCopyDestWrite
  simp only [hm, hb, hi, hk, Bool.false_eq_true, if_false]

end Arrive

/-! ## Groups that nothing waits for -/

theorem State.groupGo_of_draining {s : State} {c n : Nat} (h : ((s.core c).group n).draining = true) : s.groupGo c n = s := if_pos h

/-- Where no GRPSET waits in a core, the end of what is in flight moves none. -/
theorem State.groupGo_of_none {s : State} {c n : Nat} (h : ∀ i, i < 4 → ∀ k d, (s.strand c i).wait ≠ .grpset k d) : s.groupGo c n = s := by
  unfold State.groupGo
  split
  · rfl
  · refine foldl_eq_of_fixed fun i hi => ?_
    split
    · exact absurd ‹_› (h i (List.mem_range.mp hi) _ _)
    · rfl

/-! ## The last acknowledgement -/

@[simp] theorem Core.copyId_setCopyId_same (x : Core) (id : Nat) (e : CopyId) : (x.setCopyId id e).copyId id = e := SMap.getD_set_same _ _ _ _

theorem Core.copyId_setCopyId_other (x : Core) {id k : Nat} (e : CopyId) (h : k ≠ id) : (x.setCopyId id e).copyId k = x.copyId k :=
  SMap.getD_set_other _ _ _ h

theorem CoreIs.setCopyId {c i : Nat} {s w : State} {u : Strand} {k : Core} (h : CoreIs c i s w u k) (id : Nat) (e : CopyId) :
    CoreIs c i s (w.modCore c (·.setCopyId id e)) u (k.setCopyId id e) := h.modCore fun _ => rfl

/-- The record of a copy that is DONE (R88, R89). -/
def CopyId.done (e : CopyId) (now : W64) : CopyId :=
  { e with w0 := putBits (putBits e.w0 0 2 2) 16 8 0, w1 := 0, w3 := now, copy := none, reported := false }

theorem CopyId.done_state (e : CopyId) (now : W64) : bits (e.done now).w0 0 2 = 2 :=
  (bits_putBits_other _ _ _ _ (.inl (by decide)) (by decide)).trans (bits_putBits_same _ _ _ _ (by decide))

/-- The record of a copy that has one more element written (R89). -/
def CopyId.advanced (e : CopyId) (k : Copy) : CopyId :=
  { e with w0 := putBits e.w0 24 40 (bits e.w0 24 40 + 1)
           copy := some { k with out := 0, acked := k.acked || false, elem := k.elem + 1 } }

/-- A copy whose last unit has been acknowledged is DONE (R88, R89). -/
theorem State.copyGo_ends {s : State} {c id : Nat} {k : Copy} (h : ((s.core c).copyId id).copy = some k) (hst : k.stopped = false)
    (ho : k.out = 0) (hu : k.units ≤ k.elem) : s.copyGo c id =
      (s.modStrand c k.strand fun t => { t with cpc := t.cpc - 1 }).modCore c (·.setCopyId id (((s.core c).copyId id).done s.timecode)) := by
  unfold State.copyGo
  simp only [h, hst, ho, bne_self_eq_false, Bool.or_self, Bool.false_eq_true, if_false, if_pos hu]
  unfold State.copyEnd
  simp only [h]
  rfl

theorem SMap.set_set {α : Type} (m : SMap α) (k : Nat) (x y : α) : SMap.set (SMap.set m k x) k y = SMap.set m k y := by
  induction m with
  | nil => simp [SMap.set]
  | cons e m ih =>
    obtain ⟨j, z⟩ := e
    simp only [SMap.set]
    split
    · simp [SMap.set]
    · split
      · simp [SMap.set]
      · simp [SMap.set, *]

theorem Core.setCopyId_setCopyId (x : Core) (id : Nat) (e f : CopyId) : (x.setCopyId id e).setCopyId id f = x.setCopyId id f := by
  simp only [Core.setCopyId, SMap.set_set]

/-- Two changes of one core are one. -/
theorem State.modCore_modCore (s : State) (c : Nat) (f g : Core → Core) : (s.modCore c f).modCore c g = s.modCore c fun x => g (f x) := by
  rw [State.modCore, State.core_modCore_same]
  simp only [State.modCore, State.setCore, SMap.set_set]

theorem State.modCore_congr {s : State} {c : Nat} {f g : Core → Core} (h : f (s.core c) = g (s.core c)) : s.modCore c f = s.modCore c g := by
  rw [State.modCore, State.modCore, h]

/-- The one acknowledgement that a copy of kind L2R waits for lets it go on to its next element (R91). -/
theorem State.copyWrote_next {s : State} {c id : Nat} {k : Copy} (h : ((s.core c).copyId id).copy = some k) (hkind : k.kind = 2)
    (ho : k.out = 1) (hkill : k.killed = false) (hf : k.failed = none) : s.copyWrote c id none 0 0 =
      (s.modCore c (·.setCopyId id (((s.core c).copyId id).advanced k))).copyGo c id := by
  unfold State.copyWrote
  simp only [h, hkind, ho, hkill, hf, State.core_modCore_same, Core.copyId_setCopyId_same, State.modCore_modCore, Core.setCopyId_setCopyId,
    bne_self_eq_false, Bool.false_eq_true, if_false, if_true, Nat.sub_self, show ¬ (2 : Nat) = 5 by decide]
  refine congrArg (State.copyGo · c id) (State.modCore_congr ?_)
  simp only [CopyId.advanced, Copy.unitElems, hkind, hkill, hf, Option.isSome_none, show ¬ (2 : Nat) = 6 by decide, if_false]

/-- The last acknowledgement of a copy makes its record DONE and takes it off its strand's count (R88, R89). -/
theorem State.copyWrote_last {s : State} {c id : Nat} {k : Copy} (h : ((s.core c).copyId id).copy = some k) (hkind : k.kind = 2)
    (ho : k.out = 1) (hst : k.stopped = false) (hkill : k.killed = false) (hf : k.failed = none) (hlast : k.elem + 1 = k.shape.count)
    (h4 : k.strand < 4) : ∃ t, s.copyWrote c id none 0 0 = t ∧ t = { s with cores := t.cores } ∧
      CoreIs c k.strand s t { s.strand c k.strand with cpc := (s.strand c k.strand).cpc - 1 }
        ((s.core c).setCopyId id ((((s.core c).copyId id).advanced k).done s.timecode)) := by
  have hnext := (CoreIs.refl c k.strand s).setCopyId id (((s.core c).copyId id).advanced k)
  have hcopy : ((s.modCore c (·.setCopyId id (((s.core c).copyId id).advanced k))).core c).copyId id = ((s.core c).copyId id).advanced k := by
    rw [State.core_modCore_same, Core.copyId_setCopyId_same]
  have hdone := State.copyGo_ends (s := s.modCore c (·.setCopyId id (((s.core c).copyId id).advanced k))) (c := c) (id := id)
    (k := { k with out := 0, acked := k.acked || false, elem := k.elem + 1 }) (by rw [hcopy]; rfl) hst rfl
    (by rw [Copy.units, if_neg (by rw [hkind]; decide)]; exact Nat.le_of_eq hlast.symm)
  have hend := (hnext.modStrand h4 fun t => { t with cpc := t.cpc - 1 }).setCopyId id ((((s.core c).copyId id).advanced k).done s.timecode)
  rw [Core.setCopyId_setCopyId] at hend
  rw [hcopy] at hdone
  exact ⟨_, (State.copyWrote_next h hkind ho hkill hf).trans hdone, rfl, hend⟩

theorem exec_copyWriteAck {s : State} {uid c id : Nat} {m : Msg} {k : Copy} (hm : s.msg? uid = some m)
    (hb : m.body = .copyAck (.copy c id) none 0 0) (h : ((s.core c).copyId id).copy = some k) :
    exec (.copyWriteAck uid) s = .next (((s.consume uid).copyWrote c id none 0 0).groupGo c k.grp) := by
  show execCopyWriteAck uid s = _
  unfold execCopyWriteAck
  simp only [hm, hb, h, Option.map_some]

theorem copyWriteAck_last {s : State} {uid c id : Nat} {m : Msg} {k : Copy} (hm : s.msg? uid = some m)
    (hb : m.body = .copyAck (.copy c id) none 0 0) (h : ((s.core c).copyId id).copy = some k) (hkind : k.kind = 2) (ho : k.out = 1)
    (hst : k.stopped = false) (hkill : k.killed = false) (hf : k.failed = none) (hlast : k.elem + 1 = k.shape.count) (h4 : k.strand < 4)
    (hw : ∀ i, i < 4 → ∀ n d, (s.strand c i).wait ≠ .grpset n d) :
    ∃ t, exec (.copyWriteAck uid) s = .next t ∧ t = { s.consume uid with cores := t.cores } ∧
      CoreIs c k.strand (s.consume uid) t { s.strand c k.strand with cpc := (s.strand c k.strand).cpc - 1 }
        ((s.core c).setCopyId id ((((s.core c).copyId id).advanced k).done s.timecode)) := by
  obtain ⟨t, ht, hcores, hend⟩ := State.copyWrote_last (s := s.consume uid) h hkind ho hst hkill hf hlast h4
  refine ⟨t, ?_, hcores, hend⟩
  have hgo : t.groupGo c k.grp = t := State.groupGo_of_none fun i hi n d => by
    by_cases hk : i = k.strand
    · rw [hk, hend.strand]
      exact hw _ h4 n d
    · rw [hend.2.1 i hk]
      exact hw i hi n d
  rw [exec_copyWriteAck hm hb h, ht, hgo]

end Sys2Proof.Machine
end

section
/-!
PROOFS. A contribution that reaches the owner of its group: it is refused, told to wait its turn, or combined (R99, R100).
-/

namespace Sys2Proof.Machine

/-! ## Numbers that a write leaves -/

theorem Memory.bytes_congr {m k : Memory} {a n : Nat} (h : ∀ b, a ≤ b → b < a + n → m.read b = k.read b) : m.bytes a n = k.bytes a n := by
  induction n generalizing a with
  | zero => rfl
  | succ n ih => rw [Memory.bytes, Memory.bytes, h a (Nat.le_refl _) (by omega), ih fun b hb hb' => h b (by omega) (by omega)]

/-- A number that a write does not meet reads as before. -/
theorem Memory.num_writeNum_other (m : Memory) {a b n k : Nat} (x : Nat) (h : b + k ≤ a ∨ a + n ≤ b) :
    (m.writeNum a n x).num b k = m.num b k :=
  congrArg leNat (Memory.bytes_congr fun _ _ _ => Memory.read_writeNum_other m n x (by omega))

/-! ## The elements of a contribution -/

/-- Element `e` of a line once a contribution is combined into it. -/
def combined (op : AmoOp × ETy) (mask : BitVec 128) (data : W1024) (e old : Nat) : Nat :=
  if mask.getLsbD (4 * e) then amoNew { op := op.1, ty := op.2, v := BitVec.ofNat 64 (lineNum data (4 * e) 4), c := 0 } old % 2 ^ 32 else old

/-- The first `n` elements of a contribution are combined, each with what its place held. -/
theorem Memory.num_combine {m : Memory} (hm : m.wf = true) (op : AmoOp × ETy) (off : Nat) (mask : BitVec 128) (data : W1024) (n e : Nat) :
    let t := (List.range n).foldl (fun ls e =>
      if mask.getLsbD (4 * e) then
        ls.writeNum (off + 4 * e) 4
          (amoNew { op := op.1, ty := op.2, v := BitVec.ofNat 64 (lineNum data (4 * e) 4), c := 0 } (ls.num (off + 4 * e) 4))
      else ls) m
    t.wf = true ∧ t.num (off + 4 * e) 4 =
      if e < n then combined op mask data e (m.num (off + 4 * e) 4) else m.num (off + 4 * e) 4 := by
  induction n with
  | zero => exact ⟨hm, rfl⟩
  | succ n ih =>
    obtain ⟨hwf, hnum⟩ := ih
    rw [List.range_succ, List.foldl_append, List.foldl_cons, List.foldl_nil]
    by_cases hk : mask.getLsbD (4 * n) = true
    · simp only [if_pos hk]
      refine ⟨Memory.wf_writeNum _ _ _ hwf, ?_⟩
      by_cases he : e = n
      · subst he
        rw [if_neg (by omega)] at hnum
        rw [Memory.num_writeNum _ _ _ hwf, hnum, if_pos (Nat.lt_succ_self e), combined, if_pos hk]
      · rw [Memory.num_writeNum_other _ _ (by omega), hnum]
        exact if_congr (by omega) rfl rfl
    · simp only [if_neg hk]
      refine ⟨hwf, ?_⟩
      by_cases he : e = n
      · subst he
        rw [if_neg (by omega)] at hnum
        rw [hnum, if_pos (Nat.lt_succ_self e), combined, if_neg hk]
      · rw [hnum]
        exact if_congr (by omega) rfl rfl

theorem Memory.num_combineLine {m : Memory} (hm : m.wf = true) (op : AmoOp × ETy) (off : Nat) (mask : BitVec 128) (data : W1024) {e : Nat}
    (he : e < 32) : (combineLine op m off mask data).num (off + 4 * e) 4 = combined op mask data e (m.num (off + 4 * e) 4) :=
  (Memory.num_combine hm op off mask data 32 e).2.trans (if_pos he)

/-! ## Its steps -/

theorem SMap.mem_of_get? {α : Type} {m : SMap α} {k : Nat} {x : α} (h : SMap.get? m k = some x) : (k, x) ∈ m := by
  induction m with
  | nil => cases h
  | cons e m ih =>
    obtain ⟨j, y⟩ := e
    unfold SMap.get? at h
    split at h
    · rename_i hj
      cases h
      rw [hj]
      exact List.mem_cons_self
    · exact List.mem_cons_of_mem _ (ih h)

/-- A group with a line that a member has contributed to and the next has not drains. -/
theorem Group.draining_of_line (g : Group) (key : Nat) {k : Nat} (hk : k ≠ 0) :
    ({ g with lines := SMap.set g.lines key k } : Group).draining = true := by
  have hany : (SMap.set g.lines key k).any (·.2 != 0) = true :=
    List.any_eq_true.mpr ⟨(key, k), SMap.mem_of_get? (SMap.get?_set_same _ _ _), by simpa using hk⟩
  simp only [Group.draining, hany, Bool.or_true]

section Redc

variable {s : State} {uid c n midx off : Nat} {m : Msg} {who : Who} {mask : BitVec 128} {data : W1024} (hm : s.msg? uid = some m)
  (hb : m.body = .redc who c n midx off mask data) (hcan : m.cancel = false) (ht : m.ticket = 0) (hi : s.imaging c = false)
include hm hb hcan hi

/-- A contribution whose MIDX is not its sender's is refused with APERTURE. -/
theorem redcContribution_refuses
    (h : bits ((s.core c).group n).desc 48 3 ≠ 2 ∨ memberIx ((s.core c).group n).desc m.src ≠ some midx) :
    ∃ t, exec (.redcContribution uid) s = .next t ∧ NetOnly (s.consume uid) t ∧ Mails s t c m.src 2 0 (.copyAck who none 8 0) := by
  obtain ⟨hn, hmail⟩ := (s.consume uid).answer_effect c m.src 2 1 m.tag (.copyAck who none cAperture 0)
  refine ⟨_, ?_, hn, hmail⟩
  have hc : (bits ((s.core c).group n).desc 48 3 != 2 || memberIx ((s.core c).group n).desc m.src != some midx) = true := by
    simpa using h
  show execRedcContribution uid s = _
  unfold execRedcContribution
  simp only [hm, hb, hcan, hi, hc, Bool.or_self, Bool.false_eq_true, if_false, if_true]

variable (hkind : bits ((s.core c).group n).desc 48 3 = 2) (hix : memberIx ((s.core c).group n).desc m.src = some midx)
  (hk : s.copyRefusal c (off / 128 * 128) mask (s.copyPrv who) = 0)
include ht hkind hix hk

/-- A contribution that comes before an earlier member's is sent back with its ticket. -/
theorem redcContribution_retries (hat : midx ≠ SMap.getD ((s.core c).group n).lines (off / 128) 0) :
    ∃ t, exec (.redcContribution uid) s = .next t ∧ NetOnly (s.consume uid) t ∧ Mails s t m.dest m.src 2 (midx + 1) (.retry m.body) := by
  obtain ⟨hn, hmail⟩ := (s.consume uid).refuse_retry_effect m (midx + 1) hcan
  refine ⟨_, ?_, hn, hmail⟩
  have ht' : (midx != SMap.getD ((s.core c).group n).lines (off / 128) 0) = true := bne_iff_ne.mpr hat
  show execRedcContribution uid s = _
  unfold execRedcContribution
  simp only [hm, hb, hcan, hi, hkind, hix, hk, ht, ht', bne_self_eq_false, Bool.or_self, Bool.false_eq_true, if_false, if_true,
    decide_true, Bool.and_self, Bool.true_or]

/-- A contribution in its turn is combined into its line. -/
theorem redcContribution_combines (hat : midx = SMap.getD ((s.core c).group n).lines (off / 128) 0)
    (hlast : midx + 1 < (boxMembers ((s.core c).group n).desc).length) (hls : (s.core c).ls.wf = true) :
    ∃ t, exec (.redcContribution uid) s = .next t ∧ Mails s t c m.src 2 0 (.copyAck who (some ((s.core c).group n).gen) 0 0) ∧
      SMap.getD ((t.core c).group n).lines (off / 128) 0 = midx + 1 ∧
      ∀ e, e < 32 → (t.core c).ls.num (off / 128 * 128 + 4 * e) 4 =
        combined (groupOp ((s.core c).group n).desc) mask data e ((s.core c).ls.num (off / 128 * 128 + 4 * e) 4) := by
  obtain ⟨-, hcore, -, hmail⟩ := (s.consume uid).answer_modCore c (fun x =>
    { x.setGroup n { (s.core c).group n with lines := SMap.set ((s.core c).group n).lines (off / 128) (midx + 1) } with
      ls := combineLine (groupOp ((s.core c).group n).desc) x.ls (off / 128 * 128) mask data }) c m.src 2 1 m.tag
    (.copyAck who (some ((s.core c).group n).gen) 0 0)
  have hgroup := (congrArg (Core.group · n) hcore).trans (Core.group_setGroup_same (s.core c) n _)
  refine ⟨_, ?_, hmail, ?_, fun e he => ?_⟩
  · show execRedcContribution uid s = _
    unfold execRedcContribution
    simp only [hm, hb, hcan, hi, hkind, hix, hk, ht, ← hat, bne_self_eq_false, Bool.or_self, Bool.false_eq_true, if_false,
      if_neg (Nat.ne_of_lt hlast), if_neg (Nat.succ_ne_zero midx), Bool.and_false, decide_true, Bool.false_and]
    refine congrArg Host.Outcome.next (State.groupGo_of_draining ?_)
    rw [hgroup]
    exact Group.draining_of_line _ _ (Nat.succ_ne_zero midx)
  · rw [hgroup]
    exact SMap.getD_set_same _ _ _ _
  · rw [hcore]
    exact Memory.num_combineLine hls _ _ _ _ he

end Redc

end Sys2Proof.Machine
end

section
/-!
PROOFS. The data of a fill, at its reader and at its core, and the lines of a ring entry at their storer (R94, R96, R102, R120).
-/

namespace Sys2Proof.Machine

theorem NetOnly.tile {s t : State} (h : NetOnly s t) (c n : Nat) : t.tile c n = s.tile c n := by
  rw [State.tile, h.core]
  rfl

/-! ## The reader -/

/-- SSEQ stands in the highest bits of a data header (R92, R96). -/
theorem dataHeader_sseq (sseq midx cid lidx off : Nat) {kind : Nat} (hk : kind < 8) :
    bits (dataHeader sseq midx cid kind lidx off) 52 12 = sseq % 4096 := by
  unfold bits dataHeader
  rw [BitVec.toNat_ushiftRight, BitVec.toNat_ofNat, Nat.shiftRight_eq_div_pow]
  omega

/-- The reader sends a line of data on to the core, under the sequence that it was asked for (R96). -/
theorem State.fillRead_sends {s : State} {m : Msg} {c n k o sq kind : Nat} {rest : List Nat} {sid : Option Nat} {prv : Bool}
    {p : TileLine} {d : W1024} (hk : kind ≠ 4) (hj : (s.tile c n).job = .fill (k :: rest) 1 sid o prv)
    (hp : (s.tile c n).lines[k]? = some p) (hsc : p.scale = false) : ∃ t, s.fillRead m c n sq k kind (some d) = t ∧ NetOnly s t ∧
      ∃ b : Msg, t.transit = s.transit ++ [b] ∧ b.src = m.dest ∧ b.dest = c ∧ b.cls = 0 ∧ b.ticket = 0 ∧ b.cancel = false ∧
        b.poison = false ∧ b.body = .fillData c n k p.mask d ∧ b.sb = (s.tile c n).sbWords (s.tile c n).sbuf k ∧
        bits b.hdr 52 12 = sq % 4096 := by
  obtain ⟨hn, b, ht, h1, h2, h3, h4, h5, h6, h7, h8, h9⟩ := s.requestMsg_effect
    { uid := 0, src := m.dest, via := m.dest, dest := c, cls := 0, tag := 0, nf := 3, ticket := 0, cancel := false, poison := false
      hdr := dataHeader sq 0 n 3 k p.place, sb := (s.tile c n).sbWords (s.tile c n).sbuf k, body := .fillData c n k p.mask d }
  refine ⟨_, ?_, hn, b, ht, h1, h2, h3, h4, h5, h6, h7, h8, ?_⟩
  · unfold State.fillRead
    simp only [hj, hp, hsc, hk, bne_self_eq_false, Bool.false_eq_true, if_false]
  · rw [h9 c n k p.mask d rfl]
    exact dataHeader_sseq _ _ _ _ _ (by decide)

theorem fillDataMessage_reads {s : State} {uid c n k o sq kind : Nat} {m : Msg} {seq : W32} {rest : List Nat} {sid : Option Nat} {px prv : Bool}
    {d : W1024} {req : MemReq} {p : TileLine} (hm : s.msg? uid = some m) (hb : m.body = .ans (.tile c n sq k) kind seq px (some d) req)
    (hop : req.op = .read) (hk : kind ≠ 4) (hj : (s.tile c n).job = .fill (k :: rest) 1 sid o prv)
    (hp : (s.tile c n).lines[k]? = some p) (hsc : p.scale = false) :
    ∃ t, exec (.fillDataMessage uid) s = .next t ∧ NetOnly (s.consume uid) t ∧ Mails s t m.dest c 0 0 (.fillData c n k p.mask d) ∧
      ∀ b ∈ t.transit, b ∉ s.transit → bits b.hdr 52 12 = sq % 4096 ∧ b.sb = (s.tile c n).sbWords (s.tile c n).sbuf k := by
  obtain ⟨t, hx, hn, b, ht, h1, h2, h3, h4, h5, h6, h7, h8, h9⟩ :=
    State.fillRead_sends (s := s.consume uid) (m := m) (sq := sq) (d := d) hk hj hp hsc
  refine ⟨t, ?_, hn, ⟨b, ht, h1, h2, h3, h4, h5, h6, h7⟩, fun a ha hnew => ?_⟩
  · show execFillDataMessage uid s = _
    unfold execFillDataMessage
    simp only [hm, hb, hop, bne_self_eq_false, Bool.false_eq_true, if_false, hx]
  · rw [ht] at ha
    obtain ha | ha := List.mem_append.mp ha
    · exact absurd ha hnew
    · rw [List.mem_singleton.mp ha]
      exact ⟨h9, h8⟩

/-! ## The core: the last line -/

/-- The pieces of a line in the local store, each as its home has it (R96). -/
def TileLine.writeTo (p : TileLine) (ls : Memory) (data : W1024) : Memory :=
  p.parts.foldl (fun ls q => ls.writeNum q.place q.n (lineNum data (q.home % 128) q.n)) ls

theorem Core.writeLine_local (x : Core) {e : Tile} (p : TileLine) (data : W1024) (hl : e.loc = false) :
    x.writeLine e p data = { x with ls := p.writeTo x.ls data } := by
  unfold Core.writeLine TileLine.writeTo
  generalize p.parts = l
  induction l generalizing x with
  | nil => rfl
  | cons q l ih =>
    rw [List.foldl_cons, List.foldl_cons, ih]
    simp only [Core.writePiece, hl, Bool.false_eq_true, if_false]

theorem Core.putSb_plain (x : Core) {e : Tile} (k : Nat) (sb : List W32) (hr : e.residue = false) : x.putSb e k sb = x := by
  unfold Core.putSb
  rw [if_pos (by rw [hr]; rfl)]

/-- What the end of a fill leaves of an entry (R120). -/
def Tile.filled (e : Tile) (now : W64) : Tile :=
  { (e.setState 2).setLog [] with
    w4 := now, job := .none, promoted := false, refilling := false, logDirty := e.logged.isSome && !e.log.isEmpty }

theorem Tile.state_filled (e : Tile) (now : W64) : (e.filled now).state = 2 :=
  (bits_putBits_other _ _ _ _ (.inl (by decide)) (by decide)).trans (e.state_setState (by decide))

/-- A fill of a tile without a log, in the local store, that no stream pushes is done. -/
theorem State.fillDone_plain {s : State} {c n o out : Nat} {l : List Nat} {prv : Bool} (hj : (s.tile c n).job = .fill l out none o prv)
    (hl : (s.tile c n).loc = false) (hlog : (s.tile c n).logged = none) :
    s.fillDone c n = (s.modTile c n (·.filled s.timecode)).tlcDown c o := by
  have hclean : s.slotClean c n = s := by
    unfold State.slotClean
    rw [if_pos (by rw [hl]; rfl)]
  unfold State.fillDone
  simp only [hlog, hclean, hj, TileJob.stream, TileJob.origin]
  refine congrArg (State.tlcDown · c o) (State.modCore_congr ?_)
  refine congrArg (Core.setTile (s.core c) n) ?_
  simp only [Tile.filled, show ((s.core c).tile n).logged = none from hlog, Option.isSome_none, Bool.false_and]

/-- A core once a line of a fill is written and the fill goes on as `j`. -/
def Core.withLine (x : Core) (n : Nat) (j : TileJob) (p : TileLine) (data : W1024) : Core :=
  { x.modTile n fun e => { e with job := j } with ls := p.writeTo x.ls data }

theorem Core.tile_withLine (x : Core) (n : Nat) (j : TileJob) (p : TileLine) (data : W1024) :
    (x.withLine n j p data).tile n = { x.tile n with job := j } := x.tile_modTile_same n fun e => { e with job := j }

theorem Core.tile_withLine_other (x : Core) {n i : Nat} (j : TileJob) (p : TileLine) (data : W1024) (h : i ≠ n) :
    (x.withLine n j p data).tile i = x.tile i := x.tile_modTile_other (fun e => { e with job := j }) h

section Write

variable {s : State} {uid c n k : Nat} {m : Msg} {mask : BitVec 128} {data : W1024} (hm : s.msg? uid = some m)
  (hb : m.body = .fillData c n k mask data) (hd : m.dest < 12288)

include hm hb hd in
theorem exec_fillDataMessage_writes : exec (.fillDataMessage uid) s = .next (s.fillWrite m c n k data) := by
  show execFillDataMessage uid s = _
  unfold execFillDataMessage
  simp only [hm, hb, if_pos hd]

/-- The answer that a core gives for a line of a fill. -/
def State.lineAnswered (s : State) (m : Msg) (c n k : Nat) : State :=
  (s.consume m.uid).answer c m.src 2 1 m.tag (.fillAck c n (bits m.hdr 52 12) k false)

theorem State.lineAnswered_effect (s : State) (m : Msg) (c n k : Nat) : ∃ w, s.lineAnswered m c n k = w ∧ NetOnly (s.consume m.uid) w ∧
    Mails s w c m.src 2 0 (.fillAck c n (bits m.hdr 52 12) k false) := ⟨_, rfl, (s.consume m.uid).answer_effect _ _ _ _ _ _⟩

theorem State.fillWrite_line {rest : List Nat} {sid : Option Nat} {o : Nat} {prv : Bool} {p : TileLine}
    (hseq : bits m.hdr 52 12 = (s.tile c n).fseq) (hj : (s.tile c n).job = .fill (k :: rest) 1 sid o prv)
    (hp : (s.tile c n).lines[k]? = some p) (hl : (s.tile c n).loc = false) (hr : (s.tile c n).residue = false) :
    s.fillWrite m c n k data = ((s.lineAnswered m c n k).modCore c (·.withLine n (.fill rest 0 sid o prv) p data)).fillGo c n := by
  unfold State.fillWrite
  simp only [hj, hseq, hp, bne_self_eq_false, Bool.false_eq_true, if_false, Core.writeLine_local _ _ _ hl, Core.putSb_plain _ _ _ hr]
  rw [State.modTile, State.modCore_modCore, State.lineAnswered, hseq]
  rfl

/-- The last line of a fill is written, and its fill is done. -/
theorem State.fillWrite_last {o : Nat} {prv : Bool} {p : TileLine} (hseq : bits m.hdr 52 12 = (s.tile c n).fseq)
    (hj : (s.tile c n).job = .fill [k] 1 none o prv) (hp : (s.tile c n).lines[k]? = some p) (hl : (s.tile c n).loc = false)
    (hr : (s.tile c n).residue = false) (hlog : (s.tile c n).logged = none) :
    s.fillWrite m c n k data = (((s.lineAnswered m c n k).modCore c (·.withLine n (.fill [] 0 none o prv) p data)).modTile c n
      (·.filled s.timecode)).tlcDown c o := by
  obtain ⟨w, hw, hn, -⟩ := s.lineAnswered_effect m c n k
  have htile : (w.modCore c (·.withLine n (.fill [] 0 none o prv) p data)).tile c n = { s.tile c n with job := .fill [] 0 none o prv } := by
    rw [State.tile, State.core_modCore_same, Core.tile_withLine, hn.core]
    rfl
  have htime : (w.modCore c (·.withLine n (.fill [] 0 none o prv) p data)).timecode = s.timecode := by
    rw [show (w.modCore c _).timecode = w.timecode from rfl, hn]
    rfl
  rw [State.fillWrite_line hseq hj hp hl hr, hw, State.fillGo_ends (by rw [htile]),
    State.fillDone_plain (by rw [htile]) (by rw [htile]; exact hl) (by rw [htile]; exact hlog), htime]

include hm hb hd in
/-- The last line of a fill is written, and its entry is READY. -/
theorem fillDataMessage_last {o : Nat} {prv : Bool} {p : TileLine} (hseq : bits m.hdr 52 12 = (s.tile c n).fseq)
    (hj : (s.tile c n).job = .fill [k] 1 none o prv) (hp : (s.tile c n).lines[k]? = some p) (hl : (s.tile c n).loc = false)
    (hr : (s.tile c n).residue = false) (hlog : (s.tile c n).logged = none) (ho : o < 4) :
    ∃ t, exec (.fillDataMessage uid) s = .next t ∧ Mails s t c m.src 2 0 (.fillAck c n (s.tile c n).fseq k false) ∧
      CoreIs c o s t { s.strand c o with tlc := (s.strand c o).tlc - 1 }
        (((s.core c).withLine n (.fill [] 0 none o prv) p data).modTile n (·.filled s.timecode)) := by
  obtain ⟨w, hw, hn, hmail⟩ := s.lineAnswered_effect m c n k
  have hx := exec_fillDataMessage_writes hm hb hd
  rw [State.fillWrite_last hseq hj hp hl hr hlog, hw] at hx
  rw [hseq] at hmail
  refine ⟨_, hx, hmail.congr rfl rfl, ?_⟩
  have h0 : CoreIs c o s (s.consume m.uid) (s.strand c o) (s.core c) := (CoreIs.refl c o s).of_cores rfl
  exact (((h0.netOnly hn).modCore (f := (·.withLine n (.fill [] 0 none o prv) p data)) fun _ => rfl).modCore
    (f := (·.modTile n (·.filled s.timecode))) fun _ => rfl).modStrand ho _

/-! ## The core: a line of another fill -/

/-- The stores of a core and the mismatches that its entries report are those of another. -/
def SameLines (c : Nat) (s t : State) : Prop :=
  (t.core c).ls = (s.core c).ls ∧ (t.core c).slots = (s.core c).slots ∧ ∀ n, (t.tile c n).mismatch = (s.tile c n).mismatch

theorem SameLines.trans {c : Nat} {s t u : State} (h : SameLines c s t) (g : SameLines c t u) : SameLines c s u := by
  obtain ⟨h1, h2, h3⟩ := h
  obtain ⟨g1, g2, g3⟩ := g
  exact ⟨g1.trans h1, g2.trans h2, fun n => (g3 n).trans (h3 n)⟩

theorem SameLines.modCore {c : Nat} (s : State) {f : Core → Core} (hl : (f (s.core c)).ls = (s.core c).ls)
    (hs : (f (s.core c)).slots = (s.core c).slots) (ht : ∀ n, ((f (s.core c)).tile n).mismatch = (s.tile c n).mismatch) :
    SameLines c s (s.modCore c f) := by
  refine ⟨?_, ?_, fun n => ?_⟩
  · rw [State.core_modCore_same, hl]
  · rw [State.core_modCore_same, hs]
  · rw [State.tile, State.core_modCore_same, ht]

theorem State.streamStop_sameLines (s : State) (c sid : Nat) : SameLines c s (s.streamStop c sid) := by
  cases h : SMap.get? (s.core c).streams sid with
  | none =>
    rw [State.streamStop_none h]
    exact ⟨rfl, rfl, fun _ => rfl⟩
  | some k =>
    cases he : k.ending with
    | true =>
      rw [State.streamStop_ending h he]
      exact ⟨rfl, rfl, fun _ => rfl⟩
    | false =>
      have hcore := CoreIs.modTiles (CoreIs.refl c 0 s) k.tf k.rn Tile.unsubscribed
      rw [State.streamStop_stops h he]
      refine SameLines.trans (t := s.modTiles c k.tf k.rn Tile.unsubscribed) ⟨?_, ?_, fun n => ?_⟩ (SameLines.modCore _ rfl rfl fun _ => rfl)
      · rw [hcore.core, Core.modTiles_eq]
      · rw [hcore.core, Core.modTiles_eq]
      · rw [hcore.tile, Core.tile_modTiles, apply_ite Tile.mismatch]
        unfold Tile.unsubscribed
        split
        · split <;> rfl
        · rfl

theorem State.pushEnded_sameLines (s : State) (c sid : Nat) : SameLines c s (s.pushEnded c sid) := by
  unfold State.pushEnded
  split
  · exact ⟨rfl, rfl, fun _ => rfl⟩
  · exact SameLines.modCore s rfl rfl fun _ => rfl

/-- A line of another fill is not written: the fill is abandoned, and SCALE_MISMATCH is to be reported (R96). -/
theorem State.tileMismatch_abandons {s : State} {c n o : Nat} {l : List Nat} {sid : Option Nat} {prv : Bool}
    (hj : (s.tile c n).job = .fill l 1 sid o prv) : ∃ t, s.tileMismatch c n = t ∧ (t.core c).ls = (s.core c).ls ∧
      (t.core c).slots = (s.core c).slots ∧ (t.tile c n).mismatch = some o ∧ (t.tile c n).job = .ending 1 0 (tlcOf sid o) false := by
  obtain ⟨u, hu⟩ : ∃ u, (s.modTile c n fun e => { e with mismatch := some o }).pendBit c o 2 = u := ⟨_, rfl⟩
  have hucore : u.core c = { (s.core c).modTile n fun e => { e with mismatch := some o } with strands := (u.core c).strands } := by
    rw [← hu, State.pendBit, State.core_modStrand, State.modTile, State.core_modCore_same]
  have hut : u.tile c n = { s.tile c n with mismatch := some o } := by
    rw [State.tile, hucore]
    exact (s.core c).tile_modTile_same n fun e => { e with mismatch := some o }
  obtain ⟨v, hv, hls, hslots, hmis⟩ : ∃ v, s.tileMismatch c n = v.tileStop c n 1 0 (tlcOf sid o) ∧ SameLines c u v := by
    unfold State.tileMismatch
    cases sid with
    | none =>
      simp only [hj, hu]
      exact ⟨u, rfl, rfl, rfl, fun _ => rfl⟩
    | some k =>
      simp only [hj, hu]
      exact ⟨_, rfl, (u.streamStop_sameLines c k).trans (State.pushEnded_sameLines _ c k)⟩
  refine ⟨_, hv, ?_⟩
  unfold State.tileStop
  rw [if_neg (by decide), State.tile_modTile_same, State.modTile, State.core_modCore_same]
  refine ⟨hls.trans ?_, hslots.trans ?_, (hmis n).trans ?_, rfl⟩
  · rw [hucore]
    rfl
  · rw [hucore]
    rfl
  · rw [hut]

include hm hb hd in
theorem fillDataMessage_mismatch {j o : Nat} {rest : List Nat} {sid : Option Nat} {prv : Bool} (hseq : bits m.hdr 52 12 ≠ (s.tile c n).fseq)
    (hj : (s.tile c n).job = .fill (j :: rest) 1 sid o prv) : ∃ t, exec (.fillDataMessage uid) s = .next t ∧
      (t.core c).ls = (s.core c).ls ∧ (t.core c).slots = (s.core c).slots ∧ (t.tile c n).mismatch = some o ∧
      (t.tile c n).job = .ending 1 0 (tlcOf sid o) false := by
  obtain ⟨w, hw, hn, -⟩ := s.lineAnswered_effect m c n k
  obtain ⟨t, ht, hls, hslots, hmis⟩ := State.tileMismatch_abandons (s := w) (c := c) (n := n) (by rw [hn.tile]; exact hj)
  refine ⟨t, ?_, by rw [hls, hn.core]; rfl, by rw [hslots, hn.core]; rfl, hmis⟩
  rw [exec_fillDataMessage_writes hm hb hd, ← ht, ← hw]
  unfold State.fillWrite
  simp only [hj, if_pos (bne_iff_ne.mpr hseq)]
  rfl

end Write

/-! ## The storer -/

/-- The storer of a ring entry's line writes it at its home once its address is translated (R102, R428). -/
theorem fillDataMessage_stores {s : State} {uid c n k o va : Nat} {m : Msg} {mask : BitVec 128} {data : W1024} {rest : List Nat} {prv : Bool}
    {p : TileLine} {pg : Page} (hm : s.msg? uid = some m) (hb : m.body = .fillData c n k mask data) (hd : 12288 ≤ m.dest)
    (hj : (s.tile c n).job = .drain (k :: rest) 1 true o prv) (hp : (s.tile c n).lines[k]? = some p) (hva : tileVa p.home = some va)
    (hpt : s.ptsh ≠ 0) (hf : (s.core c).tlbFind (s.tile c n).asid va = some pg) (hpm : pg.permits (.store prv) = true) :
    ∃ t, exec (.fillDataMessage uid) s = .next t ∧ NetOnly (s.consume uid) t ∧ ∃ b ∈ t.transit, b.src = m.dest ∧
      b.dest = s.engineDest c (pageAddr pg va / 128) pg true ∧ b.sb = m.sb ∧
      b.body = .mem (engineRequest (pageAddr pg va / 128 * 128) .write mask data (.tile c n (s.tile c n).fseq k) (s.tile c n).asid) := by
  obtain ⟨w, hw, hn⟩ : ∃ w, (s.consume m.uid).answer m.dest m.src 2 1 m.tag (.ok 0) = w ∧ NetOnly (s.consume m.uid) w :=
    ⟨_, rfl, ((s.consume m.uid).answer_effect _ _ _ _ _ _).1⟩
  obtain ⟨hn', b, ht, h1, h2, -, -, -, -, h7, h8⟩ := w.engineReq_effect c m.dest (.tile c n (s.tile c n).fseq k) (s.tile c n).asid
    (pageAddr pg va / 128 * 128) pg true .write mask data m.sb
  have hx : s.drainXlate c n o prv true p = .ok (pageAddr pg va) pg := by
    unfold State.drainXlate
    simp only [hva]
    exact State.engineXlate_ok hpt hf hpm
  refine ⟨_, ?_, (State.msg?_uid hm ▸ hn).trans hn', b, ?_, h1, ?_, h8, h7⟩
  · show execFillDataMessage uid s = _
    unfold execFillDataMessage
    simp only [hm, hb, if_neg (Nat.not_lt.mpr hd)]
    unfold State.ringStore
    simp only [hj, if_true, hp, hx, hw]
  · rw [ht]
    exact List.mem_append_right _ (List.mem_singleton.mpr rfl)
  · rw [h2, Nat.mul_div_cancel _ (by decide)]
    exact State.engineDest_congr (by rw [hn]; rfl) (by rw [hn]; rfl) _ _ _ _

end Sys2Proof.Machine
end


section
/-!
PROOFS. Fills and pushes that begin, and drains that end (R92, R96, R102, R120, R133).
-/

namespace Sys2Proof.Machine

theorem Core.setTile_setTile (x : Core) (n : Nat) (e f : Tile) : (x.setTile n e).setTile n f = x.setTile n f := by
  simp only [Core.setTile, SMap.set_set]

/-- Two changes of one entry are one. -/
theorem State.core_modTile_modTile (s : State) (c n : Nat) (f g : Tile → Tile) :
    ((s.modTile c n f).modTile c n g).core c = (s.core c).setTile n (g (f (s.tile c n))) := by
  rw [State.modTile, State.core_modCore_same, State.modTile, State.core_modCore_same, Core.modTile, Core.tile_modTile_same, Core.modTile,
    Core.setTile_setTile]
  rfl

/-- An entry whose next line is under way, with no scales read yet (R96). -/
def Tile.reading (e : Tile) (todo : List Nat) (sid : Option Nat) (o : Nat) (prv : Bool) : Tile :=
  { e with job := .fill todo 1 sid o prv, sbuf := 0 }

/-- The first read of a fill (R92, R96): what becomes of the entry, and the message. -/
theorem State.fillReads_first {s : State} {c n k o va : Nat} {rest : List Nat} {sid : Option Nat} {prv : Bool} {q : TileLine} {pg : Page}
    (ho : (s.tile c n).fillOrder = k :: rest) (hq : (s.tile c n).lines[k]? = some q) (hva : tileVa q.home = some va)
    (hpt : s.ptsh ≠ 0) (hf : (s.core c).tlbFind (s.tile c n).asid va = some pg) (hp : pg.permits (.load prv) = true) :
    ∃ t, s.fillReads c n sid o prv = t ∧ t.core c = (s.core c).setTile n ((s.tile c n).reading (k :: rest) sid o prv) ∧
      Mails s t (readerOf c sid) (s.engineDest c (pageAddr pg va / 128) pg sid.isSome) 0 0
        (.mem (engineRequest (pageAddr pg va) .read 0 0 (.tile c n (s.tile c n).fseq k) (s.tile c n).asid)) := by
  have h := State.fillReads_reads (o := o) (sid := sid) ho hq hva hpt hf hp
  have hcore := s.core_modTile_modTile c n (fun e => { e with job := .fill e.fillOrder 0 sid o prv, sbuf := 0 })
    fun e => { e with job := .fill (k :: rest) 1 sid o prv }
  generalize hw : (s.modTile c n fun e => { e with job := .fill e.fillOrder 0 sid o prv, sbuf := 0 }).modTile c n
    (fun e => { e with job := .fill (k :: rest) 1 sid o prv }) = w at h hcore
  obtain ⟨hn, hmail⟩ := w.engineReq_mails c (readerOf c sid) (.tile c n (s.tile c n).fseq k) (s.tile c n).asid
    (pageAddr pg va) pg sid.isSome .read 0 0 []
  have hdest : w.engineDest c (pageAddr pg va / 128) pg sid.isSome = s.engineDest c (pageAddr pg va / 128) pg sid.isSome := by
    exact State.engineDest_congr (by rw [← hw]; rfl) (by rw [← hw]; rfl) _ _ _ _
  rw [hdest] at hmail
  exact ⟨_, h, (hn.core c).trans hcore, hmail.of_transit (by rw [← hw]; rfl)⟩

/-- A logged tile that is resident is read from its first line on (R120, R133). -/
theorem openGrant_reads {s : State} {uid r c n k o va : Nat} {m : Msg} {rest : List Nat} {sid : Option Nat} {prv : Bool} {q : TileLine}
    {pg : Page} (hm : s.msg? uid = some m) (hb : m.body = .openAns r c n) (hpo : m.poison = false)
    (hj : (s.tile c n).job = .opening sid o prv) (ho : (s.tile c n).fillOrder = k :: rest) (hq : (s.tile c n).lines[k]? = some q)
    (hva : tileVa q.home = some va) (hpt : s.ptsh ≠ 0) (hf : (s.core c).tlbFind (s.tile c n).asid va = some pg)
    (hp : pg.permits (.load prv) = true) : ∃ t, exec (.openGrant uid) s = .next t ∧
      t.tile c n = (s.tile c n).reading (k :: rest) sid o prv ∧
      Mails s t (readerOf c sid) (s.engineDest c (pageAddr pg va / 128) pg sid.isSome) 0 0
        (.mem (engineRequest (pageAddr pg va) .read 0 0 (.tile c n (s.tile c n).fseq k) (s.tile c n).asid)) := by
  have hsame : (s.consume uid).tile c n = s.tile c n := rfl
  have hdest : (s.consume uid).engineDest c (pageAddr pg va / 128) pg sid.isSome = s.engineDest c (pageAddr pg va / 128) pg sid.isSome :=
    State.engineDest_congr (s := s) (t := s.consume uid) rfl rfl _ _ _ _
  obtain ⟨t, ht, hcore, hmail⟩ := State.fillReads_first (s := s.consume uid) (sid := sid) (o := o) (prv := prv) ho hq hva hpt hf hp
  rw [hsame] at hcore hmail
  rw [hdest] at hmail
  refine ⟨t, ?_, ?_, hmail.of_transit rfl⟩
  · show execOpenGrant uid s = _
    unfold execOpenGrant
    simp only [hm, hb, hsame, hj, hpo, Bool.false_eq_true, if_false, ht]
  · rw [State.tile, hcore, Core.tile_setTile_same]

/-- The last acknowledgement of a drain leaves its entry EMPTY (R120). -/
theorem drainComplete_empties {s : State} {c n o : Nat} {ring prv : Bool} (hc : c < 12288) (hn : n < 64) (ho : o < 4)
    (hj : (s.tile c n).job = .drain [] 0 ring o prv) (hlog : (s.tile c n).logged = none) :
    ∃ t, exec (.drainComplete c n) s = .next t ∧ t = { s with cores := t.cores } ∧
      CoreIs c o s t { s.strand c o with tlc := (s.strand c o).tlc - 1 } ((s.core c).modTile n Tile.emptied) := by
  refine ⟨(s.modTile c n Tile.emptied).tlcDown c o, ?_, rfl,
    ((CoreIs.refl c o s).modCore (f := (·.modTile n Tile.emptied)) fun _ => rfl).modStrand ho _⟩
  show execDrainComplete c n s = _
  unfold execDrainComplete
  simp only [hc, hn, decide_true, Bool.and_self, Bool.not_true, Bool.false_eq_true, if_false, hj, State.tileEmpty_of_unlogged hlog]

/-! ## Pushes -/

/-- An entry that a push gives its home (R102), and that then begins its fill (R120). -/
def Tile.homed (e : Tile) (addr : W64) : Tile := { e with w0 := addr &&& 0xFFFFFFFFFFFFFF }
def Tile.begun (e : Tile) (sid : Nat) (k : Stream) : Tile :=
  { e with
    w3 := putBits (putBits e.w3 0 2 1) 8 12 (e.fseq + 1), asid := k.asid, pc := 0, job := .opening (some sid) k.origin k.priv }

theorem Tile.begun_fields (e : Tile) (sid : Nat) (k : Stream) : (e.begun sid k).state = 1 ∧ (e.begun sid k).fseq = (e.fseq + 1) % 4096 :=
  ⟨(bits_putBits_other _ _ _ _ (.inl (by decide)) (by decide)).trans (bits_putBits_same _ _ _ _ (by decide)),
    bits_putBits_same _ _ _ _ (by decide)⟩

/-- A core in which the next push of a stream is under way (R102). -/
def Core.pushing (x : Core) (sid : Nat) (k : Stream) : Core :=
  { x with streams := SMap.set x.streams sid { k with pushing := true, next := k.next + 1 } }

/-- A push of an unlogged tile reads its first line at once (R102, R120). -/
theorem State.fillBegin_first {s : State} {c n sid j va : Nat} {rest : List Nat} {k : Stream} {q : TileLine} {pg : Page}
    (hlog : s.loggedTile k.asid (s.tile c n) = .ok none) (ho : (s.tile c n).fillOrder = j :: rest) (hq : (s.tile c n).lines[j]? = some q)
    (hva : tileVa q.home = some va) (hpt : s.ptsh ≠ 0) (hf : (s.core c).tlbFind k.asid va = some pg) (hp : pg.permits (.load k.priv) = true) :
    ∃ t, s.fillBegin c n (some sid) k.origin k.priv k.asid 0 = t ∧ t.transit.length = s.transit.length + 1 ∧
      t.core c = (s.core c).setTile n (((s.tile c n).begun sid k).reading (j :: rest) (some sid) k.origin k.priv) := by
  obtain ⟨v, hv⟩ : ∃ v, s.modTile c n (·.begun sid k) = v := ⟨_, rfl⟩
  have htile : v.tile c n = (s.tile c n).begun sid k := by rw [← hv, State.tile_modTile_same]
  have hcore : v.core c = (s.core c).modTile n (·.begun sid k) := by rw [← hv, State.modTile, State.core_modCore_same]
  obtain ⟨t, ht, hcore', b, hb, -⟩ := State.fillReads_first (s := v) (c := c) (n := n) (k := j) (sid := some sid) (o := k.origin)
    (prv := k.priv) (q := q) (va := va) (pg := pg) (rest := rest) (by rw [htile]; exact ho) (by rw [htile]; exact hq) hva
    (by rw [← hv]; exact hpt) (by rw [htile, hcore]; exact hf) hp
  have hlog' : v.loggedTile k.asid (v.tile c n) = .ok none := by
    rw [htile, ← hv]
    exact hlog
  refine ⟨t, ?_, ?_, ?_⟩
  · have hv' : (s.modTile c n fun e => { e with
        w3 := putBits (putBits e.w3 0 2 1) 8 12 (e.fseq + 1), asid := k.asid, pc := 0, job := .opening (some sid) k.origin k.priv }) = v := hv
    unfold State.fillBegin
    simp only [hv', hlog', ht]
  · rw [hb, List.length_append, ← hv]
    rfl
  · rw [hcore', hcore, htile, Core.modTile, Core.setTile_setTile]

/-- A push of a stream begins (R102): the entry takes its home and is FILLING, and its first line is read. -/
theorem loaderPushStart_begins {s : State} {c sid n j va : Nat} {rest : List Nat} {k : Stream} {q : TileLine} {pg : Page} {e : Tile}
    (hc : c < 12288) (hsid : sid < 4) (hk : SMap.get? (s.core c).streams sid = some k) (hpre : (s.core c).preempt = none)
    (hi : s.imaging c = false) (hpush : k.pushing = false) (hend : k.ending = false) (hnext : k.next < k.shape.count)
    (hn : k.tf + k.next % k.rn = n) (he : (s.tile c n).homed (k.shape.src k.base k.next) = e)
    (hst : (s.tile c n).state = 0) (hcause : s.pushCause c e k (k.shape.src k.base k.next) = none) (hlog : s.loggedTile k.asid e = .ok none)
    (ho : e.fillOrder = j :: rest) (hq : e.lines[j]? = some q) (hva : tileVa q.home = some va) (hpt : s.ptsh ≠ 0)
    (hf : (s.core c).tlbFind k.asid va = some pg) (hp : pg.permits (.load k.priv) = true) :
    ∃ t, exec (.loaderPushStart c sid) s = .next t ∧ t.transit.length = s.transit.length + 1 ∧
      t.core c = ((s.core c).pushing sid k).setTile n ((e.begun sid k).reading (j :: rest) (some sid) k.origin k.priv) := by
  obtain ⟨v, hv⟩ : ∃ v, (s.modCore c (·.pushing sid k)).modTile c n (·.homed (k.shape.src k.base k.next)) = v := ⟨_, rfl⟩
  have hcore : v.core c = ((s.core c).pushing sid k).setTile n e := by
    rw [← hv, ← he, State.modTile, State.core_modCore_same, State.core_modCore_same]
    rfl
  have htile : v.tile c n = e := by rw [State.tile, hcore, Core.tile_setTile_same]
  have hcause' : v.pushCause c (v.tile c n) k (k.shape.src k.base k.next) = none := by
    rw [htile, ← hcause, State.pushCause, hcore]
    rfl
  obtain ⟨t, ht, hlen, hcore'⟩ := State.fillBegin_first (s := v) (c := c) (n := n) (sid := sid) (k := k) (q := q) (va := va) (pg := pg)
    (rest := rest) (j := j) (by rw [htile, ← hv]; exact hlog) (by rw [htile]; exact ho) (by rw [htile]; exact hq) hva (by rw [← hv]; exact hpt)
    (by rw [hcore]; exact hf) hp
  refine ⟨t, ?_, ?_, ?_⟩
  · have hgoes : ((s.core c).preempt.isSome || s.imaging c || k.pushing || k.ending || decide (k.shape.count ≤ k.next) ||
        (s.tile c n).state != 0) = false := by simp [hpre, hi, hpush, hend, hst, hnext]
    have hv' : ((s.modCore c fun x => { x with streams := SMap.set x.streams sid { k with pushing := true, next := k.next + 1 } }).modTile
        c n fun e => { e with w0 := k.shape.src k.base k.next &&& 0xFFFFFFFFFFFFFF }) = v := hv
    show execLoaderPushStart c sid s = _
    unfold execLoaderPushStart
    simp only [hc, hsid, hk, hn, hgoes, decide_true, Bool.and_self, Bool.not_true, Bool.false_eq_true, if_false, hv', hcause', ht]
  · rw [hlen, ← hv]
    rfl
  · rw [hcore', hcore, htile, Core.setTile_setTile]

end Sys2Proof.Machine
end

section
/-!
PROOFS. A GRPSET that has waited too long (R98), and the tickets of the sequencers (R306, R307).
-/

namespace Sys2Proof.Machine

/-! ## GRPSET -/

/-- A run over numbers that changes a state at one of them. -/
theorem foldl_range_one {f : State → Nat → State} {s t : State} {i n : Nat} (hi : i < n) (hs : ∀ j, j < n → j ≠ i → f s j = s)
    (h : f s i = t) (ht : ∀ j, j < n → j ≠ i → f t j = t) : (List.range n).foldl f s = t := by
  induction n with
  | zero => exact absurd hi (Nat.not_lt_zero i)
  | succ n ih =>
    rw [List.range_succ, List.foldl_append, List.foldl_cons, List.foldl_nil]
    by_cases hin : i = n
    · rw [foldl_eq_of_fixed fun j hj => hs j (by have := List.mem_range.mp hj; omega) (by have := List.mem_range.mp hj; omega), ← hin, h]
    · rw [ih (by omega) (fun j hj => hs j (by omega)) (fun j hj => ht j (by omega)), ht n (by omega) (Ne.symm hin)]

/-- The one GRPSET that waits for an entry with nothing in flight writes it and retires (R98). -/
theorem State.groupGo_one {s : State} {c i n : Nat} {d : W64} (hi : i < 4) (hw : (s.strand c i).wait = .grpset n d)
    (hd : ((s.core c).group n).draining = false) (hone : ∀ j, j < 4 → j ≠ i → ∀ k e, (s.strand c j).wait ≠ .grpset k e)
    (hu : ((s.strand c i).sstep && (s.strand c i).ie) = false) :
    ∃ t, s.groupGo c n = t ∧ t = { s with cores := t.cores } ∧ GoesOn c i s t (s.strand c i) ((s.core c).writeGroup n d) := by
  have hcore : CoreIs c i s (s.modCore c (·.writeGroup n d)) (s.strand c i) ((s.core c).writeGroup n d) :=
    (CoreIs.refl c i s).modCore fun _ => rfl
  obtain ⟨hstrand, hgo⟩ := hcore.retireAt hi hu rfl rfl
  have hstay : ∀ (t : State) j, j < 4 → j ≠ i → t.strand c j = s.strand c j → (match (t.strand c j).wait with
      | .grpset k d => if k = n && !((t.core c).group n).draining then (t.modCore c (·.writeGroup n d)).retireAt c j else t
      | _ => t) = t := fun t j hj hji ht => by
    rw [ht]
    split
    · exact absurd ‹_› (hone j hj hji _ _)
    · rfl
  refine ⟨(s.modCore c (·.writeGroup n d)).retireAt c i, ?_, hstrand.1, hgo⟩
  unfold State.groupGo
  rw [if_neg (by rw [hd]; decide)]
  refine foldl_range_one hi (fun j hj hji => ?_) ?_ fun j hj hji => ?_
  · exact hstay s j hj hji rfl
  · simp only [hw, hd, Bool.not_false, Bool.and_true, decide_true, if_true]
  · exact hstay _ j hj hji (hgo.2.1 j hji)

section Timeout

variable {s : State} {c i n : Nat} {d : W64} (hc : c < 12288) (hi : i < 4) (hw : (s.strand c i).wait = .grpset n d)
include hc hi hw

theorem grpsetTimeout_raises (hd : ((s.core c).group n).draining = true) (hres : (s.core c).res = true) :
    ∃ t, exec (.grpsetTimeout c i) s = .next t ∧ OnlyStrand c i s t ∧
      t.strand c i = ({ s.strand c i with wait := .no }).enter { num := 18, bad := 0 } (s.strand c i).pc := by
  have hsame : (s.modStrand c i fun t => { t with wait := .no }).strand c i = { s.strand c i with wait := .no } :=
    s.strand_modStrand_same c _ hi
  have hraise : (s.modStrand c i fun t => { t with wait := .no }).raiseAt c i cGroupBusy 0 .instr =
      (s.modStrand c i fun t => { t with wait := .no }).modStrand c i (·.enter { num := cGroupBusy, bad := 0 } (s.strand c i).pc) := by
    rw [State.raiseAt_eq_enter (by rw [State.core_modStrand]; exact hres) (.inr rfl), hsame]
  refine ⟨_, ?_, (s.modStrand_only c i fun t => { t with wait := .no }).trans
    (State.modStrand_only _ c i (·.enter { num := cGroupBusy, bad := 0 } (s.strand c i).pc)), ?_⟩
  · show execGrpsetTimeout c i s = _
    unfold execGrpsetTimeout
    simp only [hc, hi, hw, hd, decide_true, Bool.and_self, Bool.not_true, Bool.false_eq_true, if_false, if_true, hraise]
  · rw [State.strand_modStrand_same _ _ _ hi, hsame]
    rfl

theorem grpsetTimeout_completes (hd : ((s.core c).group n).draining = false)
    (hone : ∀ j, j < 4 → j ≠ i → ∀ k e, (s.strand c j).wait ≠ .grpset k e) (hu : ((s.strand c i).sstep && (s.strand c i).ie) = false) :
    ∃ t, exec (.grpsetTimeout c i) s = .next t ∧ t = { s with cores := t.cores } ∧
      GoesOn c i s t (s.strand c i) ((s.core c).writeGroup n d) := by
  obtain ⟨t, ht, h⟩ := State.groupGo_one hi hw hd hone hu
  refine ⟨t, ?_, h⟩
  show execGrpsetTimeout c i s = _
  unfold execGrpsetTimeout
  simp only [hc, hi, hw, hd, decide_true, Bool.and_self, Bool.not_true, Bool.false_eq_true, if_false, ht]

end Timeout

/-! ## Sequencers -/

/-- The device's sequencer tells the first in line that it holds the ticket (R306). -/
theorem scTicketGrant_device {s : State} {k : ScTicket} {rest : List ScTicket} (hh : s.devSeqr.holder = none)
    (hq : s.devSeqr.queue = k :: rest) : ∃ t, exec (.scTicketGrant 0) s = .next t ∧
      NetOnly { s with devSeqr := { s.devSeqr with queue := rest, holder := some k } } t ∧ Mails s t epDevSeqr k.core 0 0 (.scGrant k) := by
  obtain ⟨hn, hmail⟩ := State.request_effect { s with devSeqr := { s.devSeqr with queue := rest, holder := some k } } epDevSeqr k.core 0 1 0
    (.scGrant k)
  refine ⟨_, ?_, hn, hmail.of_transit rfl⟩
  show execScTicketGrant 0 s = _
  unfold execScTicketGrant
  rw [if_neg (by decide), if_pos rfl]
  simp only [hh, hq]

/-- A core's sequencer gives its ticket to the first in line (R307). -/
theorem scTicketGrant_core {s : State} {c : Nat} {k : Nat × Nat} {rest : List (Nat × Nat)} (hc : c < 12288)
    (hq : (s.core c).scq = k :: rest) (hk : k.2 < 4) (hw : (s.strand k.1 k.2).wait = .sc (2048 + c) false) :
    ∃ t, exec (.scTicketGrant (2048 + c)) s = .next t ∧ OnlyStrand k.1 k.2 s t ∧
      t.strand k.1 k.2 = { s.strand k.1 k.2 with wait := .sc (2048 + c) true } := by
  refine ⟨s.granted (2048 + c) k, ?_, s.modStrand_only _ _ fun t => { t with wait := .sc (2048 + c) true }, s.strand_modStrand_same _ _ hk⟩
  show execScTicketGrant (2048 + c) s = _
  unfold execScTicketGrant
  rw [if_neg (by simp; omega), if_neg (by omega), if_neg (by omega), Nat.add_sub_cancel_left]
  simp only [hq, hw, if_true]

/-- A cluster's sequencer takes a request into its queue (R307). -/
theorem clusterSequencerIntake_queues {s : State} {cl : Nat} {k : Nat × Nat} {rest : List (Nat × Nat)} (hc : cl < 1536)
    (hq : (SMap.getD s.cluSeqrs cl .reset).intake = k :: rest) :
    exec (.clusterSequencerIntake cl) s = .next { s with cluSeqrs := SMap.set s.cluSeqrs cl { SMap.getD s.cluSeqrs cl .reset with
      intake := rest, queue := (SMap.getD s.cluSeqrs cl .reset).queue ++ [k] } } := by
  show execClusterSequencerIntake cl s = _
  unfold execClusterSequencerIntake
  rw [if_neg (by simp [hc])]
  simp only [hq]

theorem scTicketGrant_cluster {s : State} {cl : Nat} {k : Nat × Nat} {rest : List (Nat × Nat)} (hc : cl < 1536)
    (hd : (s.cluster cl).dark = false) (hh : (SMap.getD s.cluSeqrs cl .reset).holder = none)
    (hq : (SMap.getD s.cluSeqrs cl .reset).queue = k :: rest) (hk : k.2 < 4) : ∃ t, exec (.scTicketGrant (1 + cl)) s = .next t ∧
      t = { s with
        cores := t.cores
        cluSeqrs := SMap.set s.cluSeqrs cl { SMap.getD s.cluSeqrs cl .reset with queue := rest, holder := some k } } ∧
      t.strand k.1 k.2 = { s.strand k.1 k.2 with wait := .sc (1 + cl) true } := by
  have hgrant : (SMap.getD s.cluSeqrs cl .reset).grant = some (k, { SMap.getD s.cluSeqrs cl .reset with queue := rest, holder := some k }) := by
    unfold Seqr.grant
    simp only [hh, hq]
  refine ⟨State.granted { s with
      cluSeqrs := SMap.set s.cluSeqrs cl { SMap.getD s.cluSeqrs cl .reset with queue := rest, holder := some k } } (1 + cl) k, ?_, rfl,
    State.strand_modStrand_same _ k.1 (fun t => { t with wait := .sc (1 + cl) true }) hk⟩
  show execScTicketGrant (1 + cl) s = _
  unfold execScTicketGrant
  rw [if_neg (by simp; omega), if_neg (by omega), if_pos (by omega), Nat.add_sub_cancel_left, if_neg (by rw [hd]; decide), hgrant]

end Sys2Proof.Machine
end

section
/-!
PROOFS. The engines: the statement, from the parts above.
-/

namespace Sys2Proof.Machine

/-- Settles O43: each engine's step from the rule of its own above. -/
theorem enginesComplete : Obligations.EnginesComplete := by
  unfold Obligations.EnginesComplete
  refine ⟨fun s uid m hm => ⟨?_, ?_, ?_, ?_, ?_, ?_, ?_⟩, ?_, ?_, ?_, fun s => ⟨?_, ?_, fun cl hcl => ⟨?_, ?_⟩⟩⟩
  · exact fun who c off mask data hb hls hi => ⟨copyDestWrite_writes hm hb hi hls,
      fun k hk hne => hk ▸ copyDestWrite_refuses hm hb hi (hk ▸ hne)⟩
  · intro c id cp hb hcopy hkind hout hst hkill hfail hlast h4 hwait
    obtain ⟨t, hx, hcores, h⟩ := copyWriteAck_last hm hb hcopy hkind hout hst hkill hfail hlast h4 hwait
    have hid : ∀ k, (t.core c).copyId k = ((s.core c).setCopyId id _).copyId k := fun k => by rw [h.core]; rfl
    refine ⟨t, hx, hcores, ?_, ?_, ?_, h.strand, fun k hk => (hid k).trans (Core.copyId_setCopyId_other _ _ hk)⟩
    · rw [hid, Core.copyId_setCopyId_same]
      exact CopyId.done_state _ _
    · rw [hid, Core.copyId_setCopyId_same]
      rfl
    · rw [hid, Core.copyId_setCopyId_same]
      rfl
  · intro who c n midx off mask data hb hcan ht hi
    refine ⟨redcContribution_refuses hm hb hcan hi, fun hkind hix hk hls =>
      ⟨redcContribution_retries hm hb hcan ht hi hkind hix hk, fun hat hlast => ?_⟩⟩
    obtain ⟨t, hx, hmail, hline, hnum⟩ := redcContribution_combines hm hb hcan ht hi hkind hix hk hat (hat ▸ hlast) hls
    exact ⟨t, hx, hmail, hline.trans (congrArg (· + 1) hat), hnum⟩
  · intro c n k rest sid o prv sq kind seq px d req p hb hop hk hj hp hsc
    exact fillDataMessage_reads hm hb hop hk hj hp hsc
  · refine fun c n k mask data hb hd => ⟨fun o prv p hseq hj hp hl hr hlog ho => ?_, fun j rest sid o prv hseq hj => ?_⟩
    · obtain ⟨t, hx, hmail, h⟩ := fillDataMessage_last hm hb hd hseq hj hp hl hr hlog ho
      have htile := (h.tile n).trans ((Core.tile_modTile_same _ _ _).trans (congrArg (Tile.filled · s.timecode) (Core.tile_withLine _ _ _ _ _)))
      refine ⟨t, hx, ?_, ?_, ?_, ?_, hmail, ?_, fun j hj => ?_⟩
      · rw [htile]
        exact Tile.state_filled _ _
      · rw [htile]
        rfl
      · rw [htile]
        rfl
      · rw [h.core]
        rfl
      · rw [h.strand]
      · exact (h.tile j).trans ((Core.tile_modTile_other _ _ hj).trans (Core.tile_withLine_other _ _ _ _ hj))
    · exact fillDataMessage_mismatch hm hb hd hseq hj
  · intro c n k rest o prv p va pg mask data hb hd hj hp hva hpt hf hpm
    obtain ⟨t, hx, hn, b, hmem, h1, h2, h3, h4⟩ := fillDataMessage_stores hm hb hd hj hp hva hpt hf hpm
    refine ⟨t, hx, hn, b, hmem, h1, h2, h3, ?_⟩
    rw [h4, engineRequest, Nat.mul_div_cancel _ (by decide), Nat.mul_mod_left]
  · intro r c n k rest sid o prv q va pg hb hpo e ln hj ho hq hva hpt hf hp
    exact openGrant_reads hm hb hpo hj ho hq hva hpt hf hp
  · intro s c n o ring prv hc hn ho hj hlog
    obtain ⟨t, hx, hcores, h⟩ := drainComplete_empties hc hn ho hj hlog
    have htile := (h.tile n).trans (Core.tile_modTile_same _ _ _)
    refine ⟨t, hx, hcores, ?_, ?_, ?_, ?_, ?_, ?_, ?_, fun j hj => (h.tile j).trans (Core.tile_modTile_other _ _ hj)⟩
    · rw [htile]
      exact Tile.state_emptied _
    · rw [htile]
      rfl
    · rw [htile]
      rfl
    · rw [htile]
      rfl
    · rw [htile]
      rfl
    · rw [h.core]
      rfl
    · rw [h.strand]
  · intro s c sid j rest k q va pg hc hsid hk hpre hi hpush hend hnext n e hst hcause hlog ho hq hva hpt hf hp
    obtain ⟨t, hx, hlen, hcore⟩ := loaderPushStart_begins hc hsid hk hpre hi hpush hend hnext rfl (e := e) rfl hst hcause hlog ho hq hva hpt
      hf hp
    have htile : t.tile c n = (e.begun sid k).reading (j :: rest) (some sid) k.origin k.priv := by
      rw [State.tile, hcore, Core.tile_setTile_same]
    obtain ⟨hstate, hfseq⟩ := e.begun_fields sid k
    refine ⟨t, hx, ?_, ?_, ?_, ?_, ?_, ?_, hlen, fun i hne => ?_⟩
    · rw [htile]
      exact hstate
    · rw [htile]
      rfl
    · rw [htile]
      exact hfseq
    · rw [htile]
      rfl
    · rw [hcore]
      exact SMap.get?_set_same _ _ _
    · rw [hcore]
      rfl
    · rw [State.tile, hcore, Core.tile_setTile_other _ _ hne]
      rfl
  · exact fun s c i n d hc hi hw => ⟨grpsetTimeout_raises hc hi hw, grpsetTimeout_completes hc hi hw⟩
  · exact fun k rest hh hq => scTicketGrant_device hh hq
  · exact fun c k rest hc hq hk hw => scTicketGrant_core hc hq hk hw
  · exact fun k rest hq => ⟨_, clusterSequencerIntake_queues hcl hq, rfl⟩
  · exact fun k rest hd hh hq hk => scTicketGrant_cluster hcl hd hh hq hk

end Sys2Proof.Machine
end

section
/-!
SUPPORT. The elements of a copy: the bytes that they have in the local store, and the lines of a reduction (R91, R99, R100).
-/

namespace Sys2Proof.Machine

/-! ## Elements -/

/-- A number is read byte by byte, the lowest first. -/
theorem Memory.num_eq_foldr (m : Memory) (a n : Nat) :
    (List.range n).foldr (fun j v => (m.read (a + j)).toNat + 256 * v) 0 = m.num a n := by
  induction n generalizing a with
  | zero => rfl
  | succ n ih =>
    have hnext : (fun j v => (m.read (a + (j + 1))).toNat + 256 * v) = fun j v => (m.read (a + 1 + j)).toNat + 256 * v :=
      funext fun j => by rw [Nat.add_comm j 1, Nat.add_assoc]
    rw [List.range_succ_eq_map, List.foldr_cons, List.foldr_map, hnext, ih]
    rfl

/-- The value of an element in a core whose local store is as it was at issue, or whose copy writes none of it (R91). -/
theorem State.elemValue_eq {s : State} {c : Nat} {k : Copy} (n : Nat) (h : ∀ a, k.overlaps c a = true → k.old = (s.core c).ls) :
    s.elemValue c k n = (s.core c).ls.num ((k.shape.src k.src n).toNat % 2 ^ 19) k.shape.esz := by
  rw [← Memory.num_eq_foldr]
  unfold State.elemValue
  dsimp only
  congr 1
  funext j v
  split
  · rw [h _ (Bool.and_eq_true_iff.mp ‹_›).1]
  · rfl

/-- A copy to or from its home writes no element by its own core's number (R91). -/
theorem Copy.not_overlaps {k : Copy} (h : k.kind ≤ 1) (c a : Nat) : k.overlaps c a = false := by
  have hown : ∀ n, k.ownDest c n = none := fun n => by
    unfold Copy.ownDest
    split
    · omega
    · omega
    · omega
    · rfl
  unfold Copy.overlaps
  simp only [hown, List.any_eq_false, Bool.false_eq_true, not_false_eq_true, implies_true]

/-! ## Lines of a reduction -/

/-- Number `n` joins the numbers with its line, or begins a line of its own. -/
def joinLine (line : Nat → Nat) (l : List (Nat × List Nat)) (n : Nat) : List (Nat × List Nat) :=
  if l.any (·.1 == line n) then l.map fun e => if e.1 = line n then (e.1, e.2 ++ [n]) else e else l ++ [(line n, [n])]

/-- The first line has every number that lies in it. -/
theorem foldl_joinLine_head (line : Nat → Nat) (n : Nat) : ∃ l, (List.range (n + 1)).foldl (joinLine line) [] =
    (line 0, (List.range (n + 1)).filter fun j => line j == line 0) :: l := by
  induction n with
  | zero => exact ⟨[], by simp [joinLine]⟩
  | succ n ih =>
    obtain ⟨l, hl⟩ := ih
    rw [List.range_succ, List.foldl_append, hl, List.filter_append, List.foldl_cons, List.foldl_nil, joinLine]
    by_cases h : line (n + 1) = line 0
    · simp [h]
    · have h' : ¬ line 0 = line (n + 1) := Ne.symm h
      split
      · simp [h, h']
      · simp [h]

theorem redcLines_head {k : Copy} (h : k.shape.count ≠ 0) : ∃ l, redcLines k = ((k.shape.dst k.dst 0).toNat / 128,
    (List.range k.shape.count).filter fun n => (k.shape.dst k.dst n).toNat / 128 == (k.shape.dst k.dst 0).toNat / 128) :: l := by
  obtain ⟨n, hn⟩ := Nat.exists_eq_succ_of_ne_zero h
  obtain ⟨l, hl⟩ := foldl_joinLine_head (fun n => (k.shape.dst k.dst n).toNat / 128) n
  refine ⟨l, ?_⟩
  rw [hn]
  unfold redcLines
  rw [hn]
  exact hl

/-- Masks and data of a line's elements, gathered together or each by itself. -/
theorem foldl_gather (bytes : Nat → BitVec 128) (value : Nat → W1024) (l : List Nat) :
    l.foldl (fun (a : BitVec 128 × W1024) n => (a.1 ||| bytes n, merge a.2 (value n) (bytes n))) (0, 0) =
      (l.foldl (fun e n => e ||| bytes n) 0, l.foldl (fun v n => merge v (value n) (bytes n)) 0) :=
  Prod.ext (List.foldl_hom Prod.fst (g₂ := fun e n => e ||| bytes n) fun _ _ => rfl).symm
    (List.foldl_hom Prod.snd (g₂ := fun v n => merge v (value n) (bytes n)) fun _ _ => rfl).symm

/-! ## Messages to many -/

/-- One message to each member of a list. -/
theorem foldl_mails {f : State → Nat → State} {src : Nat} {body : Nat → Body}
    (hf : ∀ t d, NetOnly t (f t d) ∧ Mails t (f t d) src d 0 0 (body d)) (l : List Nat) (s : State) :
    NetOnly s (l.foldl f s) ∧ (l.foldl f s).transit.length = s.transit.length + l.length ∧
      (∀ b ∈ s.transit, b ∈ (l.foldl f s).transit) ∧
      ∀ d ∈ l, ∃ b ∈ (l.foldl f s).transit, b.src = src ∧ b.dest = d ∧ b.cls = 0 ∧ b.body = body d := by
  induction l generalizing s with
  | nil => exact ⟨rfl, rfl, fun _ h => h, fun _ h => absurd h List.not_mem_nil⟩
  | cons d l ih =>
    obtain ⟨hn, b, hb, hsrc, hdest, hcls, -, -, -, hbody⟩ := hf s d
    obtain ⟨hn', hlen, hkeep, hsent⟩ := ih (f s d)
    have hmem : b ∈ (f s d).transit := hb ▸ List.mem_append_right _ List.mem_cons_self
    refine ⟨hn.trans hn', ?_, fun a ha => hkeep a (hb ▸ List.mem_append_left _ ha), fun e he => ?_⟩
    · rw [List.foldl_cons, hlen, hb, List.length_append, List.length_cons, List.length_cons, List.length_nil]
      omega
    · obtain rfl | he := List.mem_cons.mp he
      · exact ⟨b, hkeep b hmem, hsrc, hdest, hcls, hbody⟩
      · exact hsent e he

end Sys2Proof.Machine
end

section
/-!
PROOFS. CPY at its issue, and CPYQ (R88 to R92, R99, R100, R231, R232).
-/

namespace Sys2Proof.Machine

/-! ## The record of a copy -/

/-- Word 0 of the record of a copy that is issued, in a state of its own (R89). -/
def State.copyWord (s : State) (kind : Nat) (x : Cp) (st : Nat) : W64 :=
  BitVec.ofNat 64 (st + 8 * kind + 64 * s.cur.2 + 256 * if kind = 5 then (s.myCore.group x.grp).gen.toNat else 0)

/-- The copy that an instruction issues, with some acknowledgements outstanding (R88 to R91). -/
def State.copyOf (s : State) (kind : Nat) (x : Cp) (h : Shape) (out : Nat) : Copy :=
  { kind, strand := s.cur.2, priv := s.me.prv, asid := s.me.asid.setWidth 16, stkb := s.me.stkb, pc := s.me.pc, src := s.me.src 0 x.src
    dst := s.me.src 0 x.dst, shape := h, elem := 0, out, box := if kind = 5 then (s.myCore.group x.grp).desc else 0, grp := x.grp
    midx := x.midx.toNat, walking := false, stopped := false, killed := false, failed := none, acked := false
    old := if 2 ≤ kind then s.myCore.ls else [] }

/-- The record of that copy, which is ACTIVE (R89). -/
def State.copyRecord (s : State) (kind : Nat) (x : Cp) (h : Shape) (out : Nat) : CopyId :=
  { w0 := s.copyWord kind x 1, w1 := 0, w2 := s.timecode, w3 := 0, reported := false, copy := some (s.copyOf kind x h out) }

/-- The state in which a copy has begun and has sent nothing (R88). -/
def State.copyBegun (s : State) (kind : Nat) (x : Cp) (h : Shape) : State :=
  (s.modMyCore (·.setCopyId x.id (s.copyRecord kind x h 0))).modMe fun t => { t with cpc := t.cpc + 1 }

/-! ## Its issue -/

section Issue

variable {s : State} {kind off : Nat} {x : Cp} (hfree : (s.myCore.copyId x.id).copy = none) (hcpc : s.me.cpc < 64)
  (hcast : kind = 5 → s.myCore.grpWaits x.grp = false ∧ bits (s.myCore.group x.grp).desc 48 3 = 1)
  (hplace : s.myCore.shapePlace s.me.stkb (s.me.src 0 x.shp) s.me.prv = .ok off) (hok : (s.myCore.shapeAt off).2 = false)
  (hch : s.myCore.changing off 256 = false)
  (hstall : s.copyStalls kind (s.myCore.shapeAt off).1 (s.me.src 0 x.src) (s.me.src 0 x.dst) = false)
  (hcheck : s.copyChecks kind (if kind = 5 then (s.myCore.group x.grp).desc else 0) (s.myCore.shapeAt off).1 (s.me.src 0 x.src)
    (s.me.src 0 x.dst) = none)
include hfree hcpc hcast hplace hok hch hstall hcheck

/-- A CPY that passes its checks (R93) is DONE where its shape has no elements, and else begins. -/
theorem State.copyIssue_checked : s.copyIssue kind x = if (s.myCore.shapeAt off).1.count = 0 then
      (s.modMyCore (·.setCopyId x.id
        { w0 := s.copyWord kind x 2, w1 := 0, w2 := s.timecode, w3 := s.timecode, reported := false, copy := none })).retire
    else ((s.copyBegun kind x (s.myCore.shapeAt off).1).copyGo s.cur.1 x.id).retire := by
  have hhold : ((s.myCore.copyId x.id).copy.isSome || decide (64 ≤ s.me.cpc) || (decide (kind = 5) && s.myCore.grpWaits x.grp)) = false := by
    by_cases hk : kind = 5
    · simp [hfree, hcpc, (hcast hk).1]
    · simp [hfree, hcpc, hk]
  have hdesc : (if (decide (kind = 5) && decide (bits (s.myCore.group x.grp).desc 48 3 = 1)) = true then (s.myCore.group x.grp).desc else 0) =
      if kind = 5 then (s.myCore.group x.grp).desc else 0 := by
    by_cases hk : kind = 5
    · simp [hk, (hcast hk).2]
    · simp [hk]
  have hmode : (decide (kind = 5) && bits (s.myCore.group x.grp).desc 48 3 != 1) = false := by
    by_cases hk : kind = 5
    · simp [hk, (hcast hk).2]
    · simp [hk]
  obtain ⟨h, hh⟩ : ∃ h, s.myCore.shapeAt off = (h, false) := ⟨_, Prod.ext rfl hok⟩
  rw [hh] at hstall hcheck ⊢
  unfold State.copyIssue
  simp only [hhold, hplace, hh, hch, hstall, hdesc, hcheck, hmode, Bool.or_self, Bool.false_eq_true, if_false]
  rfl

end Issue

/-- The five CPY instructions, each with its kind (R231). -/
theorem exec_cpy {s : State} {x : Cp} {kind : Nat} {ins : Instr} (hb : Begins .no false x.p s)
    (hm : (kind, ins) ∈ [(0, Instr.cpyG2l x), (1, .cpyL2g x), (2, .cpyL2r x), (5, .cpyMcast x), (6, .cpyRedc x)]) :
    exec ins s = .next (s.copyIssue kind x) := by
  simp only [List.mem_cons, Prod.mk.injEq, List.not_mem_nil, or_false] at hm
  obtain ⟨rfl, rfl⟩ | ⟨rfl, rfl⟩ | ⟨rfl, rfl⟩ | ⟨rfl, rfl⟩ | ⟨rfl, rfl⟩ := hm
  · exact congrArg Host.Outcome.next (State.begin_body hb fun _ => s.copyIssue 0 x)
  · exact congrArg Host.Outcome.next (State.begin_body hb fun _ => s.copyIssue 1 x)
  · exact congrArg Host.Outcome.next (State.begin_body hb fun _ => s.copyIssue 2 x)
  · exact congrArg Host.Outcome.next (State.begin_body hb fun _ => s.copyIssue 5 x)
  · exact congrArg Host.Outcome.next (State.begin_body hb fun _ => s.copyIssue 6 x)

/-! ## Its first element -/

theorem CoreIs.modCopy {c i id : Nat} {s w : State} {u : Strand} {k : Core} {e : CopyId} (h : CoreIs c i s w u (k.setCopyId id e))
    (f : Copy → Copy) : CoreIs c i s (w.modCore c (·.modCopy id f)) u (k.setCopyId id { e with copy := e.copy.map f }) := by
  have hmod : (w.core c).modCopy id f = (w.core c).setCopyId id { e with copy := e.copy.map f } := by
    have he : (w.core c).copyId id = e := by
      rw [h.core]
      exact Core.copyId_setCopyId_same k id e
    simp only [Core.modCopy, he]
  refine h.modCore_of (f := (·.modCopy id f)) ?_
  rw [hmod, h.core]
  exact congrArg (fun y : Core => { y with strands := (w.core c).strands }) (Core.setCopyId_setCopyId k id e _)

/-- A copy that has sent its element waits for some acknowledgements (R91). -/
def State.copySent (s : State) (c id out : Nat) : State :=
  { s with draws := s.draws + 1 }.modCore c (·.modCopy id fun k => { k with out, walking := false })

section Begun

variable (s : State) (kind : Nat) (x : Cp) (h : Shape) (hi : s.cur.2 < 4)
include hi

theorem State.copyBegun_core : CoreIs s.cur.1 s.cur.2 s (s.copyBegun kind x h) { s.me with cpc := s.me.cpc + 1 }
    (s.myCore.setCopyId x.id (s.copyRecord kind x h 0)) :=
  ((CoreIs.refl s.cur.1 s.cur.2 s).setCopyId x.id (s.copyRecord kind x h 0)).modStrand hi fun t => { t with cpc := t.cpc + 1 }

theorem State.copyBegun_copy : (((s.copyBegun kind x h).core s.cur.1).copyId x.id).copy = some (s.copyOf kind x h 0) := by
  rw [(s.copyBegun_core kind x h hi).core]
  exact congrArg CopyId.copy (Core.copyId_setCopyId_same s.myCore x.id _)

theorem State.copyBegun_sent (out : Nat) : CoreIs s.cur.1 s.cur.2 s ((s.copyBegun kind x h).copySent s.cur.1 x.id out)
    { s.me with cpc := s.me.cpc + 1 } (s.myCore.setCopyId x.id (s.copyRecord kind x h out)) :=
  CoreIs.modCopy ((s.copyBegun_core kind x h hi).of_cores (t := { s.copyBegun kind x h with draws := (s.copyBegun kind x h).draws + 1 }) rfl)
    fun k => { k with out, walking := false }

/-- An element has the bytes that its place in the local store has at issue (R91). -/
theorem State.copyBegun_elemValue (n : Nat) : (s.copyBegun kind x h).elemValue s.cur.1 (s.copyOf kind x h 0) n =
    s.myCore.ls.num ((h.src (s.me.src 0 x.src) n).toNat % 2 ^ 19) h.esz := by
  have hls : ((s.copyBegun kind x h).core s.cur.1).ls = s.myCore.ls := by
    rw [(s.copyBegun_core kind x h hi).core]
    rfl
  rw [State.elemValue_eq n fun a ha => ?_, hls]
  · rfl
  · by_cases hk : 2 ≤ kind
    · rw [hls]
      exact if_pos hk
    · rw [Copy.not_overlaps (k := s.copyOf kind x h 0) (show kind ≤ 1 by omega)] at ha
      cases ha

end Begun

/-- What the issue of a copy leaves (R88, R89). -/
def CopyBegins (s : State) (kind : Nat) (x : Cp) (h : Shape) (t : State) : Prop :=
  t.me = s.past s.cur.1 s.cur.2 { s.me with cpc := s.me.cpc + 1 } ∧ t.myCore.ls = s.myCore.ls ∧ t.hbm = s.hbm ∧
    ∃ e cp, t.myCore.copyId x.id = e ∧ e.w0 = s.copyWord kind x 1 ∧ e.w1 = 0 ∧ e.w2 = s.timecode ∧ e.w3 = 0 ∧ e.copy = some cp ∧
      cp.kind = kind ∧ cp.strand = s.cur.2 ∧ cp.src = s.me.src 0 x.src ∧ cp.dst = s.me.src 0 x.dst ∧ cp.shape = h ∧ cp.elem = 0

/-- A copy whose element has been sent goes on with its strand's next instruction. -/
theorem State.copySent_retires {s w : State} {kind : Nat} {x : Cp} {h : Shape} {out : Nat} {k : Core} (hi : s.cur.2 < 4) (hu : Unstepped s)
    (hcur : w.cur = s.cur) (hhbm : w.hbm = s.hbm) (hw : CoreIs s.cur.1 s.cur.2 s w { s.me with cpc := s.me.cpc + 1 } k)
    (hls : k.ls = s.myCore.ls) (hid : k.copyId x.id = s.copyRecord kind x h out) :
    CopyBegins s kind x h w.retire ∧ w.retire.transit = w.transit ∧ w.retire.myCore.groups = k.groups := by
  obtain ⟨⟨ht, -⟩, -, -, hcore, hstrand⟩ := hw.retireAt hi (Strand.unstepped_of_status rfl hu) rfl rfl
  have hr : w.retire = w.retireAt s.cur.1 s.cur.2 := by rw [State.retire, hcur]
  have hcur' : w.retire.cur = s.cur := by rw [hr, ht]; exact hcur
  rw [← hr] at ht hcore hstrand
  refine ⟨⟨?_, ?_, ?_, s.copyRecord kind x h out, s.copyOf kind x h out, ?_, rfl, rfl, rfl, rfl, rfl, rfl, rfl, rfl, rfl, rfl, rfl⟩, ?_, ?_⟩
  · rw [State.me, hcur']
    exact hstrand
  · rw [State.myCore, hcur', hcore]
    exact hls
  · rw [ht]
    exact hhbm
  · rw [State.myCore, hcur', hcore]
    exact hid
  · rw [ht]
  · rw [State.myCore, hcur', hcore]

end Sys2Proof.Machine
end

section
/-!
PROOFS. The first element of a copy, on its way to the home, to a core, to a box, or as a contribution (R91, R92, R99, R100).
-/

namespace Sys2Proof.Machine

/-! ## What a copy sends -/

/-- A copy's data are sent to a core. -/
def State.copyTo (s : State) (c id off : Nat) (mask : BitVec 128) (data : W1024) (d : Nat) : State :=
  s.request c d 0 3 0 (.copyWr (.copy c id) d off mask data)

theorem State.copyTo_effect (s : State) (c id off : Nat) (mask : BitVec 128) (data : W1024) (d : Nat) :
    NetOnly s (s.copyTo c id off mask data d) ∧ Mails s (s.copyTo c id off mask data d) c d 0 0 (.copyWr (.copy c id) d off mask data) :=
  State.request_effect s c d 0 3 0 _

section Go

variable {s : State} {c id : Nat} {k : Copy} (hk : ((s.core c).copyId id).copy = some k) (hst : k.stopped = false) (ho : k.out = 0)
  (hu : ¬ k.units ≤ k.elem)
include hk hst ho hu

/-- An element whose address is on a page that the TLBs hold and that permits the access is read from its home or written there. -/
theorem State.copyGo_home {va v : Nat} {pg : Page} (hv : s.elemValue c k k.elem = v) (hkind : k.kind ≤ 1)
    (hva : decodeAddr k.stkb (if k.kind = 0 then k.shape.src k.src k.elem else k.shape.dst k.dst k.elem) = some (.glob va) ∨
      decodeAddr k.stkb (if k.kind = 0 then k.shape.src k.src k.elem else k.shape.dst k.dst k.elem) = some (.stack va))
    (hpt : s.ptsh ≠ 0) (hf : (s.core c).tlbFind k.asid va = some pg)
    (hp : pg.permits (if k.kind = 0 then .load k.priv else .store k.priv) = true) :
    s.copyGo c id = (s.copySent c id 1).engineReq c c (.copy c id) k.asid (pageAddr pg va) pg false (if k.kind = 0 then .read else .write)
      (if k.kind = 0 then 0 else byteMask (pageAddr pg va % 128) k.shape.esz)
      (if k.kind = 0 then 0 else BitVec.ofNat 1024 v <<< (8 * (pageAddr pg va % 128))) := by
  have hx : ∀ bad : W64, s.engineXlate c
      { who := .copy id, strand := k.strand, asid := k.asid, va, bad, acc := .copy
        need := if k.kind = 0 then .load k.priv else .store k.priv, pc := k.pc } = .ok (pageAddr pg va) pg :=
    fun bad => State.engineXlate_ok hpt hf hp
  have hgo : s.copyGo c id = if k.kind = 0 then (s.copySent c id 1).engineReq c c (.copy c id) k.asid (pageAddr pg va) pg false .read 0 0
      else (s.copySent c id 1).engineReq c c (.copy c id) k.asid (pageAddr pg va) pg false .write
        (byteMask (pageAddr pg va % 128) k.shape.esz) (BitVec.ofNat 1024 v <<< (8 * (pageAddr pg va % 128))) := by
    unfold State.copyGo
    obtain hva | hva := hva
    · simp only [hk, hst, ho, hu, bne_self_eq_false, Bool.or_self, Bool.false_eq_true, if_false, if_pos hkind, hva, hx, hv]
      rfl
    · simp only [hk, hst, ho, hu, bne_self_eq_false, Bool.or_self, Bool.false_eq_true, if_false, if_pos hkind, hva, hx, hv]
      rfl
  rw [hgo]
  by_cases h0 : k.kind = 0
  · simp only [h0, if_true]
  · simp only [h0, if_false]

/-- An element of an L2R copy goes to the core of its window (R91). -/
theorem State.copyGo_core {d a v : Nat} (hv : s.elemValue c k k.elem = v) (hkind : k.kind = 2)
    (ha : decodeAddr k.stkb (k.shape.dst k.dst k.elem) = some (.win d a)) :
    s.copyGo c id = (s.copySent c id 1).request c d 0 3 0 (.copyWr (.copy c id) d (a / 128 * 128)
      (byteMask ((k.shape.dst k.dst k.elem).toNat % 128) k.shape.esz)
      (BitVec.ofNat 1024 v <<< (8 * ((k.shape.dst k.dst k.elem).toNat % 128)))) := by
  unfold State.copyGo
  simp only [hk, hst, ho, hu, bne_self_eq_false, Bool.or_self, Bool.false_eq_true, if_false, hkind, ha, hv, show ¬ (2 : Nat) ≤ 1 by decide,
    show ¬ (2 : Nat) = 6 by decide, show ¬ (2 : Nat) = 0 by decide]
  rfl

/-- An element of a multicast goes to every member of the box, and the group entry counts them (R99). -/
theorem State.copyGo_box {a v : Nat} (hv : s.elemValue c k k.elem = v) (hkind : k.kind = 5)
    (ha : decodeAddr k.stkb (k.shape.dst k.dst k.elem) = some (.loc a)) :
    s.copyGo c id = (boxMembers k.box).foldl (·.copyTo c id (a / 128 * 128) (byteMask ((k.shape.dst k.dst k.elem).toNat % 128) k.shape.esz)
        (BitVec.ofNat 1024 v <<< (8 * ((k.shape.dst k.dst k.elem).toNat % 128))))
      ((s.copySent c id (boxMembers k.box).length).modCore c fun x =>
        x.setGroup k.grp { x.group k.grp with drain := (x.group k.grp).drain + (boxMembers k.box).length }) := by
  unfold State.copyGo
  simp only [hk, hst, ho, hu, bne_self_eq_false, Bool.or_self, Bool.false_eq_true, if_false, hkind, ha, hv, show ¬ (5 : Nat) ≤ 1 by decide,
    show ¬ (5 : Nat) = 6 by decide, show ¬ (5 : Nat) = 0 by decide]
  rfl

/-- A reduction sends the elements of its line as one contribution (R100). -/
theorem State.copyGo_contributes {d a ln : Nat} {ns : List Nat} {v : Nat → Nat} (hv : ∀ n, s.elemValue c k n = v n)
    (hkind : k.kind = 6) (hl : (redcLines k)[k.elem]? = some (ln, ns))
    (ha : decodeAddr k.stkb (BitVec.ofNat 64 (ln * 128)) = some (.win d a)) :
    s.copyGo c id = (s.copySent c id 1).request c d 0 3 0 (.redc (.copy c id) d k.grp k.midx a
      (ns.foldl (fun e n => e ||| byteMask ((k.shape.dst k.dst n).toNat % 128) k.shape.esz) 0)
      (ns.foldl (fun d n => merge d (BitVec.ofNat 1024 (v n) <<< (8 * ((k.shape.dst k.dst n).toNat % 128)))
        (byteMask ((k.shape.dst k.dst n).toNat % 128) k.shape.esz)) 0)) := by
  unfold State.copyGo
  simp only [hk, hst, ho, hu, bne_self_eq_false, Bool.or_self, Bool.false_eq_true, if_false, hkind, hl, ha, hv, show ¬ (6 : Nat) ≤ 1 by decide,
    if_true, Option.getD_some, elemRow, Nat.mod_mod]
  rw [foldl_gather]
  rfl

end Go

/-! ## Its issue -/

/-- Element `n` of a copy as a line has it from a byte on, as the local store has it at issue (R91). -/
def State.copyElem (s : State) (x : Cp) (h : Shape) (n byte : Nat) : W1024 :=
  BitVec.ofNat 1024 (s.myCore.ls.num ((h.src (s.me.src 0 x.src) n).toNat % 2 ^ 19) h.esz) <<< (8 * (byte % 128))

section Sent

variable {s : State} {kind : Nat} {x : Cp} {h : Shape} (hi : s.cur.2 < 4) (hu : Unstepped s)
include hi hu

/-- A copy that has sent what its core keeps no count of. -/
theorem State.copySent_begins {w : State} {out : Nat} (hn : NetOnly ((s.copyBegun kind x h).copySent s.cur.1 x.id out) w) :
    CopyBegins s kind x h w.retire ∧ w.retire.transit = w.transit := by
  obtain ⟨hbegins, htransit, -⟩ := State.copySent_retires hi hu (by rw [hn]; rfl) (by rw [hn]; rfl)
    ((s.copyBegun_sent kind x h hi out).netOnly hn) rfl (Core.copyId_setCopyId_same _ _ _)
  exact ⟨hbegins, htransit⟩

/-- A copy that has sent one message goes on with its strand's next instruction. -/
theorem State.copyBegun_mails {w : State} {out dest : Nat} {body : Body} (hw : (s.copyBegun kind x h).copyGo s.cur.1 x.id = w)
    (hs : NetOnly ((s.copyBegun kind x h).copySent s.cur.1 x.id out) w ∧
      Mails ((s.copyBegun kind x h).copySent s.cur.1 x.id out) w s.cur.1 dest 0 0 body) :
    ∃ t, ((s.copyBegun kind x h).copyGo s.cur.1 x.id).retire = t ∧ CopyBegins s kind x h t ∧ Mails s t s.cur.1 dest 0 0 body := by
  obtain ⟨hn, hmail⟩ := hs
  obtain ⟨hbegins, htransit⟩ := State.copySent_begins hi hu hn
  exact ⟨_, congrArg State.retire hw, hbegins, hmail.congr rfl htransit⟩

variable (hc : h.count ≠ 0)
include hc

omit hi hu in
theorem State.copyOf_unfinished (s : State) (kind : Nat) (x : Cp) : ¬ (s.copyOf kind x h 0).units ≤ (s.copyOf kind x h 0).elem := by
  unfold Copy.units
  split
  · obtain ⟨l, hl⟩ := redcLines_head (k := s.copyOf kind x h 0) hc
    rw [hl]
    exact Nat.not_succ_le_zero _
  · exact fun hle => hc (Nat.le_zero.mp hle)

/-- The first element of a copy from its home or to it (R92). -/
theorem State.copyBegun_home {va : Nat} {pg : Page} (hkind : kind ≤ 1)
    (hva : decodeAddr s.me.stkb (if kind = 0 then h.src (s.me.src 0 x.src) 0 else h.dst (s.me.src 0 x.dst) 0) = some (.glob va) ∨
      decodeAddr s.me.stkb (if kind = 0 then h.src (s.me.src 0 x.src) 0 else h.dst (s.me.src 0 x.dst) 0) = some (.stack va))
    (hpt : s.ptsh ≠ 0) (hf : s.myCore.tlbFind (s.me.asid.setWidth 16) va = some pg)
    (hp : pg.permits (if kind = 0 then .load s.me.prv else .store s.me.prv) = true) :
    ∃ t, ((s.copyBegun kind x h).copyGo s.cur.1 x.id).retire = t ∧ CopyBegins s kind x h t ∧
      Mails s t s.cur.1 (s.engineDest s.cur.1 (pageAddr pg va / 128) pg false) 0 0
        (.mem (engineRequest (pageAddr pg va) (if kind = 0 then .read else .write)
          (if kind = 0 then 0 else byteMask (pageAddr pg va % 128) h.esz)
          (if kind = 0 then 0 else
            s.copyElem x h 0 (pageAddr pg va))
          (.copy s.cur.1 x.id) (s.me.asid.setWidth 16))) := by
  have hcore := (s.copyBegun_core kind x h hi).core
  have hgo := State.copyGo_home (s.copyBegun_copy kind x h hi) rfl rfl (State.copyOf_unfinished hc s kind x) (va := va) (pg := pg)
    (s.copyBegun_elemValue kind x h hi 0) hkind hva hpt (by rw [hcore]; exact hf) hp
  have hdest : ((s.copyBegun kind x h).copySent s.cur.1 x.id 1).engineDest s.cur.1 (pageAddr pg va / 128) pg false =
      s.engineDest s.cur.1 (pageAddr pg va / 128) pg false :=
    State.engineDest_congr (s := s) (t := (s.copyBegun kind x h).copySent s.cur.1 x.id 1) rfl rfl _ _ _ _
  have hs := ((s.copyBegun kind x h).copySent s.cur.1 x.id 1).engineReq_mails s.cur.1 s.cur.1 (.copy s.cur.1 x.id)
    (s.me.asid.setWidth 16) (pageAddr pg va) pg false (if kind = 0 then .read else .write)
    (if kind = 0 then 0 else byteMask (pageAddr pg va % 128) h.esz)
    (if kind = 0 then 0 else
      s.copyElem x h 0 (pageAddr pg va)) []
  rw [hdest] at hs
  exact State.copyBegun_mails hi hu hgo hs

/-- The first element of a copy to another core (R91). -/
theorem State.copyBegun_window {d a : Nat} (hkind : kind = 2) (ha : decodeAddr s.me.stkb (h.dst (s.me.src 0 x.dst) 0) = some (.win d a)) :
    ∃ t, ((s.copyBegun kind x h).copyGo s.cur.1 x.id).retire = t ∧ CopyBegins s kind x h t ∧
      Mails s t s.cur.1 d 0 0 (.copyWr (.copy s.cur.1 x.id) d (a / 128 * 128)
        (byteMask ((h.dst (s.me.src 0 x.dst) 0).toNat % 128) h.esz)
        (s.copyElem x h 0 (h.dst (s.me.src 0 x.dst) 0).toNat)) :=
  State.copyBegun_mails hi hu (State.copyGo_core (s.copyBegun_copy kind x h hi) rfl rfl (State.copyOf_unfinished hc s kind x)
    (s.copyBegun_elemValue kind x h hi 0) hkind ha) (State.request_effect _ _ _ _ _ _ _)

/-- The first line of a reduction, as one contribution (R100). -/
theorem State.copyBegun_contributes {d a : Nat} (hkind : kind = 6)
    (ha : decodeAddr s.me.stkb (BitVec.ofNat 64 ((h.dst (s.me.src 0 x.dst) 0).toNat / 128 * 128)) = some (.win d a)) :
    let place := fun n => (h.dst (s.me.src 0 x.dst) n).toNat
    let line := (List.range h.count).filter fun n => place n / 128 == place 0 / 128
    ∃ t, ((s.copyBegun kind x h).copyGo s.cur.1 x.id).retire = t ∧ CopyBegins s kind x h t ∧
      Mails s t s.cur.1 d 0 0 (.redc (.copy s.cur.1 x.id) d x.grp x.midx.toNat a
        (line.foldl (fun e n => e ||| byteMask (place n % 128) h.esz) 0)
        (line.foldl (fun v n => merge v (s.copyElem x h n (place n)) (byteMask (place n % 128) h.esz)) 0)) := by
  obtain ⟨l, hl⟩ := redcLines_head (k := s.copyOf kind x h 0) hc
  exact State.copyBegun_mails hi hu (State.copyGo_contributes (s.copyBegun_copy kind x h hi) rfl rfl (State.copyOf_unfinished hc s kind x)
    (s.copyBegun_elemValue kind x h hi) hkind (by rw [hl]; rfl) ha) (State.request_effect _ _ _ _ _ _ _)

/-- The first element of a multicast, to every member of the box (R99). -/
theorem State.copyBegun_box {a : Nat} (hkind : kind = 5) (ha : decodeAddr s.me.stkb (h.dst (s.me.src 0 x.dst) 0) = some (.loc a)) :
    let g := s.myCore.group x.grp
    ∃ t, ((s.copyBegun kind x h).copyGo s.cur.1 x.id).retire = t ∧ CopyBegins s kind x h t ∧
      (t.myCore.group x.grp).drain = g.drain + (boxMembers g.desc).length ∧
      t.transit.length = s.transit.length + (boxMembers g.desc).length ∧
      ∀ d ∈ boxMembers g.desc, ∃ b ∈ t.transit, b.src = s.cur.1 ∧ b.dest = d ∧ b.cls = 0 ∧
        b.body = .copyWr (.copy s.cur.1 x.id) d (a / 128 * 128) (byteMask ((h.dst (s.me.src 0 x.dst) 0).toNat % 128) h.esz)
          (s.copyElem x h 0 (h.dst (s.me.src 0 x.dst) 0).toNat) := by
  intro g
  have hbox : (s.copyOf kind x h 0).box = g.desc := if_pos hkind
  have hgo := State.copyGo_box (s.copyBegun_copy kind x h hi) rfl rfl (State.copyOf_unfinished hc s kind x)
    (s.copyBegun_elemValue kind x h hi 0) hkind ha
  rw [hbox] at hgo
  obtain ⟨v, hv⟩ : ∃ v, v = ((s.copyBegun kind x h).copySent s.cur.1 x.id (boxMembers g.desc).length).modCore s.cur.1 (fun y =>
    y.setGroup x.grp { y.group x.grp with drain := (y.group x.grp).drain + (boxMembers g.desc).length }) := ⟨_, rfl⟩
  have hcore : CoreIs s.cur.1 s.cur.2 s v { s.me with cpc := s.me.cpc + 1 }
      ((s.myCore.setCopyId x.id (s.copyRecord kind x h (boxMembers g.desc).length)).setGroup x.grp
        { g with drain := g.drain + (boxMembers g.desc).length }) := by
    rw [hv]
    exact (s.copyBegun_sent kind x h hi (boxMembers g.desc).length).modCore fun _ => rfl
  obtain ⟨hn, hlen, -, hsent⟩ := foldl_mails (f := fun t d => t.copyTo s.cur.1 x.id (a / 128 * 128)
      (byteMask ((h.dst (s.me.src 0 x.dst) 0).toNat % 128) h.esz) (s.copyElem x h 0 (h.dst (s.me.src 0 x.dst) 0).toNat) d)
    (fun t d => t.copyTo_effect s.cur.1 x.id _ _ _ d) (boxMembers g.desc) v
  have hw : (s.copyBegun kind x h).copyGo s.cur.1 x.id = (boxMembers g.desc).foldl (fun t d => t.copyTo s.cur.1 x.id (a / 128 * 128)
      (byteMask ((h.dst (s.me.src 0 x.dst) 0).toNat % 128) h.esz) (s.copyElem x h 0 (h.dst (s.me.src 0 x.dst) 0).toNat) d) v := by
    rw [hv]
    exact hgo
  obtain ⟨hbegins, htransit, hgroups⟩ := State.copySent_retires (h := h) (out := (boxMembers g.desc).length) hi hu
    (by rw [hn, hv]; rfl) (by rw [hn, hv]; rfl) (hcore.netOnly hn) rfl (Core.copyId_setCopyId_same s.myCore x.id _)
  refine ⟨_, congrArg State.retire hw, hbegins, ?_, ?_, fun d hd => ?_⟩
  · rw [Core.group, hgroups]
    exact congrArg Group.drain (Core.group_setGroup_same (s.myCore.setCopyId x.id _) x.grp _)
  · rw [htransit, hlen, hv]
    rfl
  · rw [htransit]
    exact hsent d hd

end Sent

end Sys2Proof.Machine
end

section
/-!
PROOFS. CPYQ (R89, R232), and the statement about copies, from the parts above.
-/

namespace Sys2Proof.Machine

/-- A word of a completion record (R89). -/
def CopyId.word (e : CopyId) (word : Fin 4) : W64 := if word = 0 then e.w0 else if word = 1 then e.w1 else if word = 2 then e.w2 else e.w3

section Cpyq

variable {s : State} {d : Opd} {clr : Bool} {word : Fin 4} {id : Fin 64} {p : Pred} (hb : Begins .no false p s)
include hb

theorem exec_cpyq : exec (.cpyq d clr word id p) s = .next (
    let t := s.modMe (·.write d ((s.myCore.copyId id).word word))
    if clr && decide (2 ≤ bits (s.myCore.copyId id).w0 0 2) then (t.modMyCore (·.setCopyId id .reset)).retire else t.retire) := by
  show execCpyq d clr word id p s = _
  unfold execCpyq
  rw [State.begin_body hb]
  dsimp only
  rw [apply_ite State.retire]
  match word with
  | 0 | 1 | 2 | 3 => rfl

variable (hu : Unstepped s)
include hu

theorem cpyq_frees (hclr : clr = true) (hst : 2 ≤ bits (s.myCore.copyId id).w0 0 2) :
    ∃ t, exec (.cpyq d clr word id p) s = .next t ∧
      CompletesIn s t (s.me.write d ((s.myCore.copyId id).word word)) (s.myCore.setCopyId id .reset) := by
  refine ⟨_, (exec_cpyq hb).trans (congrArg _ (if_pos (by simp [hclr, hst]))), ?_⟩
  exact State.retire_completesIn hb.turn hu rfl
    (((CoreIs.refl s.cur.1 s.cur.2 s).modStrand hb.turn (·.write d ((s.myCore.copyId id).word word))).setCopyId id .reset)
    (Strand.write_pc _ _ _) (Strand.write_join4 _ _ _) (Strand.write_status _ _ _)

theorem cpyq_reads (h : clr = false ∨ bits (s.myCore.copyId id).w0 0 2 < 2) :
    ∃ t, exec (.cpyq d clr word id p) s = .next t ∧ Completes s t (s.me.write d ((s.myCore.copyId id).word word)) := by
  refine ⟨_, (exec_cpyq hb).trans (congrArg _ (if_neg ?_)), s.finish_write (·.write d ((s.myCore.copyId id).word word)) d _ hb.turn hu rfl⟩
  obtain h | h := h
  · simp [h]
  · simp [Nat.not_le.mpr h]

end Cpyq

/-- Settles O42: a copy by its kind, from the record that its issue makes and the message that its first element takes; and CPYQ. -/
theorem copiesComplete : Obligations.CopiesComplete := by
  unfold Obligations.CopiesComplete
  refine ⟨fun x s off hb hu => ?_, fun s d clr word id p hb hu => ⟨fun hclr hst => cpyq_frees hb hu hclr hst, cpyq_reads hb hu⟩⟩
  rintro ⟨kind, ins⟩ hm _ c k src dst h g w0 asid who data hfree hcpc hcast hplace hok hch hstall hcheck
  have hx : exec ins s = .next (s.copyIssue kind x) := exec_cpy hb hm
  rw [State.copyIssue_checked hfree hcpc hcast hplace hok hch hstall hcheck] at hx
  refine ⟨fun hcount => ?_, fun hcount => ?_⟩
  · rw [if_pos hcount] at hx
    exact ⟨_, hx, State.modMyCore_completesIn hb.turn hu rfl⟩
  · rw [if_neg hcount] at hx
    refine ⟨?_, ?_, ?_, ?_⟩
    · rintro va pa pg hkind hva hpt hf hp rfl
      obtain ⟨t, ht, h⟩ := State.copyBegun_home hb.turn hu hcount hkind hva hpt hf hp
      exact ⟨t, ht ▸ hx, h⟩
    · intro d a hkind ha
      obtain ⟨t, ht, h⟩ := State.copyBegun_window hb.turn hu hcount hkind ha
      exact ⟨t, ht ▸ hx, h⟩
    · intro a hkind ha
      obtain ⟨t, ht, h⟩ := State.copyBegun_box hb.turn hu hcount hkind ha
      exact ⟨t, ht ▸ hx, h⟩
    · intro d a hkind ha
      obtain ⟨t, ht, h⟩ := State.copyBegun_contributes hb.turn hu hcount hkind ha
      exact ⟨t, ht ▸ hx, h⟩

end Sys2Proof.Machine
end

section
/-!
PROOFS. BMODE at its issue, and the end of a bank's change of mode (R104, R109, R220).
-/

namespace Sys2Proof.Machine

/-! ## Modes of banks -/

theorem putMode_eq_putBits (w : W64) (i : Nat) {m : Nat} (hm : m < 4) : putMode w i m = putBits w (2 * i) 2 m := by
  unfold putMode putBits
  rw [Nat.mod_eq_of_lt (show m < 2 ^ 2 from hm)]
  rfl

/-- A bank's mode is a field of the word of its half of the banks. -/
theorem Core.mode_eq_bits (x : Core) (b : Nat) : x.mode b = if b < 32 then bits x.bkmd0 (2 * b) 2 else bits x.bkmd1 (2 * (b - 32)) 2 := rfl

theorem Core.setMode_eq (x : Core) (b m : Nat) : x.setMode b m = { x with bkmd0 := (x.setMode b m).bkmd0, bkmd1 := (x.setMode b m).bkmd1 } := by
  unfold Core.setMode
  split <;> rfl

theorem Core.mode_setMode_same (x : Core) {b m : Nat} (hb : b < 64) (hm : m < 4) : (x.setMode b m).mode b = m := by
  rw [Core.mode_eq_bits, Core.setMode]
  split
  · simp only [putMode_eq_putBits _ _ hm]
    exact (bits_putBits_same _ _ _ _ (by omega)).trans (Nat.mod_eq_of_lt hm)
  · simp only [putMode_eq_putBits _ _ hm]
    exact (bits_putBits_same _ _ _ _ (by omega)).trans (Nat.mod_eq_of_lt hm)

theorem Core.mode_setMode_other (x : Core) {b k m : Nat} (hk64 : k < 64) (hm : m < 4) (hk : k ≠ b) : (x.setMode b m).mode k = x.mode k := by
  rw [Core.mode_eq_bits, Core.mode_eq_bits, Core.setMode]
  by_cases hb : b < 32
  · rw [if_pos hb]
    by_cases h : k < 32
    · simp only [if_pos h, putMode_eq_putBits _ _ hm]
      exact bits_putBits_other _ _ _ _ (by omega) (by omega)
    · simp only [if_neg h]
  · rw [if_neg hb]
    by_cases h : k < 32
    · simp only [if_pos h]
    · simp only [if_neg h, putMode_eq_putBits _ _ hm]
      exact bits_putBits_other _ _ _ _ (by omega) (by omega)

/-! ## Bytes that are cleared -/

/-- A byte that was cleared reads as 0, and every other byte as before. -/
theorem Memory.read_zero (m : Memory) (a n k : Nat) : (m.zero a n).read k = if a ≤ k ∧ k < a + n then 0 else m.read k := by
  unfold Memory.zero Memory.read SMap.getD
  induction m with
  | nil => simp [SMap.get?]
  | cons e m ih =>
    obtain ⟨j, y⟩ := e
    by_cases hj : a ≤ j ∧ j < a + n
    · rw [List.filter_cons_of_neg (by simpa using hj), ih]
      by_cases hk : j = k
      · rw [if_pos (hk ▸ hj), if_pos (hk ▸ hj)]
      · rw [SMap.get?, if_neg hk]
    · rw [List.filter_cons_of_pos (by simp; omega), SMap.get?, SMap.get?]
      by_cases hk : j = k
      · rw [if_pos hk, if_pos hk, if_neg (hk ▸ hj)]
      · rw [if_neg hk, if_neg hk, ih]

/-! ## BMODE -/

theorem exec_bmode_blocks {mode : Fin 3} {bank : Fin 64} {p : Pred} {s : State} (hb : Begins .no false p s)
    (htile : s.myCore.tileInBank bank = false)
    (hfifo : ¬ (s.myCore.mode bank = 2 ↔ mode.val = 2) →
      (s.myCore.fifo bank).count = 0 ∧ (s.myCore.fifo bank).next = (s.myCore.fifo bank).serve)
    (hres : bank.val = 63 → s.myCore.res = false) : exec (.bmode mode bank p) s = .next (s.block (.bmode bank mode)) := by
  have hqueue : ((s.myCore.mode bank == 2) != (mode.val == 2) &&
      !((s.myCore.fifo bank).count = 0 && (s.myCore.fifo bank).next = (s.myCore.fifo bank).serve)) = false := by
    by_cases hmode : s.myCore.mode bank = 2 ↔ mode.val = 2
    · simp [show (s.myCore.mode bank == 2) = (mode.val == 2) from Bool.eq_iff_iff.mpr (by simpa using hmode)]
    · obtain ⟨hcount, hnext⟩ := hfifo hmode
      simp [hcount, hnext]
  have hlast : (decide (bank.val = 63) && s.myCore.res) = false := by
    by_cases h : bank.val = 63
    · simp [hres h]
    · simp [h]
  change execBmode mode bank p s = _
  rw [execBmode, State.begin_body hb]
  dsimp only
  rw [htile, hqueue, hlast]
  rfl

/-! ## The end of a change of mode -/

/-- The first number with a value under `f`, of those below `n`. -/
theorem findSome?_range_first {α : Type} {f : Nat → Option α} {n i : Nat} {a : α} (hi : i < n) (hf : f i = some a)
    (hlow : ∀ j, j < i → f j = none) : (List.range n).findSome? f = some a := by
  obtain ⟨k, rfl⟩ := Nat.exists_eq_add_of_lt hi
  rw [Nat.add_assoc, List.range_add, List.findSome?_append, List.findSome?_eq_none_iff.mpr fun j hj => hlow j (List.mem_range.mp hj),
    Nat.add_comm k 1, List.range_add]
  simp [hf]

/-- The bank cleared, in its new mode (R109). -/
def Core.bankChanged (x : Core) (bank m : Nat) : Core :=
  ({ x with
    ls := x.ls.zero (8192 * bank) 8192, fifos := SMap.erase x.fifos bank
    l1 := x.l1.filter (·.way != bank) }).setMode bank m

theorem Core.bankChanged_eq (x : Core) (bank m : Nat) : x.bankChanged bank m = { x with
    ls := x.ls.zero (8192 * bank) 8192, bkmd0 := (x.bankChanged bank m).bkmd0, bkmd1 := (x.bankChanged bank m).bkmd1
    fifos := SMap.erase x.fifos bank, l1 := x.l1.filter (·.way != bank) } := by
  rw [Core.bankChanged, Core.setMode_eq]

/-- What every part of a core holds after a bank's change. -/
theorem Core.bankChanged_parts (x : Core) {bank m : Nat} (hbank : bank < 64) (hm : m < 4) : let y := x.bankChanged bank m
    y.mode bank = m ∧ (∀ b, b < 64 → b ≠ bank → y.mode b = x.mode b) ∧ (∀ a, y.ls.read a = if a / 8192 = bank then 0 else x.ls.read a) ∧
      y.fifo bank = .reset ∧ ∀ e ∈ y.l1, e.way ≠ bank := by
  intro y
  refine ⟨Core.mode_setMode_same _ hbank hm, fun b h hb => Core.mode_setMode_other _ h hm hb, fun a => ?_, ?_, ?_⟩
  · rw [show y.ls = x.ls.zero (8192 * bank) 8192 from congrArg _ (x.bankChanged_eq bank m), Memory.read_zero]
    by_cases h : a / 8192 = bank
    · rw [if_pos h, if_pos (by omega)]
    · rw [if_neg h, if_neg (by omega)]
  · have hf : y.fifos = SMap.erase x.fifos bank := congrArg _ (x.bankChanged_eq bank m)
    rw [Core.fifo, hf, SMap.getD, SMap.get?_erase_same]
    rfl
  · have hl : y.l1 = x.l1.filter (·.way != bank) := congrArg _ (x.bankChanged_eq bank m)
    rw [hl]
    exact fun e he => bne_iff_ne.mp (List.mem_filter.mp he).2

/-- The first strand that waits for a change of the bank, and the mode that it waits for. -/
def Core.bmodeWaiter (x : Core) (bank : Nat) : Option (Nat × Nat) := (List.range 4).findSome? fun i => match (x.strand i).wait with
  | .bmode b m => if b = bank then some (i, m) else none
  | _ => none

theorem Core.bmodeWaiter_eq {x : Core} {i bank m : Nat} (hi : i < 4) (hw : (x.strand i).wait = .bmode bank m)
    (hfirst : ∀ j, j < i → ∀ n, (x.strand j).wait ≠ .bmode bank n) : x.bmodeWaiter bank = some (i, m) := by
  refine findSome?_range_first hi ?_ fun j hj => ?_
  · rw [hw]
    simp
  · split
    · rename_i b n h
      exact if_neg fun (e : b = bank) => hfirst j hj n (e ▸ h)
    · rfl

/-- Whether a copy of the core reaches the bank. -/
def Core.copiesReach (x : Core) (c bank : Nat) : Bool :=
  x.copies.any fun e => match e.2.copy with | some k => k.inBank c bank | none => false

theorem Core.copiesReach_eq_false {x : Core} {c bank : Nat} (h : ∀ e ∈ x.copies, ∀ k, e.2.copy = some k → k.inBank c bank = false) :
    x.copiesReach c bank = false := by
  unfold Core.copiesReach
  rw [List.any_eq_false]
  intro e he
  split
  · rename_i k hk; simp [h e he k hk]
  · simp

/-- The first strand that waits for the bank retires in the core with the bank changed, once no copy and no write needs the bank. -/
theorem exec_bmodeComplete {c i bank m : Nat} {s : State} (hc : c < 12288) (hbank : bank < 64)
    (hw : (s.core c).bmodeWaiter bank = some (i, m)) (hcopies : (s.core c).copiesReach c bank = false)
    (hwrites : ∀ e ∈ (s.core c).l1, e.way = bank → s.writePending c e.line = false) :
    exec (.bmodeComplete c bank) s = .next ((s.modCore c (·.bankChanged bank m)).retireAt c i) := by
  have hnowrite : ((s.core c).l1.any fun e => e.way == bank && s.writePending c e.line) = false := by
    rw [List.any_eq_false]
    intro e he
    by_cases h : e.way = bank
    · simp [hwrites e he h]
    · simp [h]
  have he : exec (.bmodeComplete c bank) s = if !(decide (c < 12288) && decide (bank < 64)) then .fault .noSuchPlace
      else match (s.core c).bmodeWaiter bank with
      | none => .next s
      | some (i, m) =>
        if (s.core c).copiesReach c bank ||
            ((s.core c).mode bank == 1 && (s.core c).l1.any fun e => e.way == bank && s.writePending c e.line) then .next s
        else .next ((s.modCore c (·.bankChanged bank m)).retireAt c i) := rfl
  rw [he, hw, hcopies, hnowrite]
  simp [hc, hbank]

/-- Settles O26: BMODE blocks; at the end the bank is cleared and takes its mode, and the strand goes on. -/
theorem bmodeCompletes : Obligations.BmodeCompletes := by
  unfold Obligations.BmodeCompletes
  refine ⟨fun mode bank p s hb htile hfifo hres => ⟨_, exec_bmode_blocks hb htile hfifo hres, State.blocks_of_block _ hb.turn⟩, ?_⟩
  intro c i bank m s hc hi hbank hm hw hfirst _ hcopies hwrites hu
  refine ⟨_, exec_bmodeComplete hc hbank (Core.bmodeWaiter_eq hi hw hfirst) (Core.copiesReach_eq_false hcopies) hwrites, ?_⟩
  obtain ⟨ho, hg⟩ := ((CoreIs.refl c i s).modCore_of (f := (·.bankChanged bank m)) (k' := (s.core c).bankChanged bank m)
    (by rw [Core.bankChanged_eq])).retireAt hi hu rfl rfl
  obtain ⟨hmode, hmodes, hread, hfifo, hl1⟩ := (s.core c).bankChanged_parts hbank (show m < 4 by omega)
  obtain ⟨t, ht⟩ : ∃ t, t = (s.modCore c (·.bankChanged bank m)).retireAt c i := ⟨_, rfl⟩
  rw [← ht] at ho hg ⊢
  have hcore : t.core c = { (s.core c).bankChanged bank m with strands := (t.core c).strands } := hg.2.2.1
  refine ⟨ho.1, ?_, fun b hb hne => ?_, fun a => ?_, ?_, ?_, ?_⟩
  · rw [hcore]; exact hmode
  · rw [hcore]; exact hmodes b hb hne
  · rw [hcore]; exact hread a
  · obtain ⟨hother, hstrand, -, hself⟩ := hg
    refine ⟨hother, hstrand, ?_, hself⟩
    rw [hcore, Core.bankChanged_eq]
  · rw [hcore]; exact hfifo
  · rw [hcore]; exact hl1

end Sys2Proof.Machine
end

section
/-!
PROOFS. QPUSH and QPOP at their issue, and a push that arrives at a queue with room (R111 to R113, R116, R221, R222).
-/

namespace Sys2Proof.Machine

/-! ## A message sent by an instruction that completes -/

/-- One message more on its way, outside the cores and those of before. -/
theorem Sends.of_mails {s v w t : State} {src dest cls : Nat} {body : Body} (hv : v = { s with cores := v.cores }) (hn : NetOnly v w)
    (hm : Mails v w src dest cls 0 body) (ht : t = { w with cores := t.cores }) : Sends s t src dest cls body := by
  obtain ⟨m, htr, hmsg⟩ := hm
  refine ⟨?_, m, ?_, hmsg⟩
  · rw [ht, hn, hv]
  · rw [ht]
    exact htr.trans (by rw [hv])

/-- An instruction that has changed its core to `k` and its strand to `u`, and has then sent a message, completes. -/
theorem State.retire_completesSending {s v w : State} {u : Strand} {k : Core} {dest cls : Nat} {body : Body} (hi : s.cur.2 < 4)
    (hs : Unstepped s) (hv : v = { s with cores := v.cores }) (hk : CoreIs s.cur.1 s.cur.2 s v u k) (hn : NetOnly v w)
    (hm : Mails v w s.cur.1 dest cls 0 body) (hpc : u.pc = s.me.pc) (hj : u.join4 = s.me.join4) (hst : u.status = s.me.status) :
    CompletesSending s w.retire u k dest cls body := by
  obtain ⟨ho, hg⟩ := (hk.netOnly hn).retireAt hi (Strand.unstepped_of_status hst hs) hpc hj
  have hr : w.retire = w.retireAt s.cur.1 s.cur.2 := by rw [State.retire, hn, hv]
  rw [hr]
  exact ⟨Sends.of_mails hv hn hm ho.1, hg⟩

/-! ## QPUSH -/

/-- The journal entry of a push to a bank of core `c` (R221, R375). -/
def State.pushEntry (s : State) (x : MemA) (c off : Nat) : Journal :=
  { st := .sent, strand := s.cur.2, addr := memAddr x s.me, opk := 1, reason := 0
    piece := some (queuePiece c (off / 8192) (memAddr x s.me)), heldRed := none, order := s.myCore.nextOrder }

/-- The strand and its core as a push leaves them. -/
def State.pushing (s : State) (x : MemA) (c off j : Nat) : State :=
  (s.modMyCore (·.setJent j (s.pushEntry x c off))).modMe fun t => { t with rsc := t.rsc + 1 }

theorem exec_qpush {x : MemA} {s : State} {c off j : Nat} (hb : Begins .no false x.p s)
    (hat : decodeAddr s.me.stkb (memAddr x s.me) = some (.loc off) ∧ c = s.cur.1 ∨
      decodeAddr s.me.stkb (memAddr x s.me) = some (.win c off) ∧ s.live c = true)
    (hrel : x.ord = .rel → s.released s.cur.1 s.cur.2 x.scope = true) (hrsc : s.me.rsc < 64) (hj : s.myCore.freeJent = some j) :
    exec (.qpush x) s = .next ((s.pushing x c off j).request s.cur.1 c 0 2 0
      (.qpush (.journal s.cur.1 j) c (off / 8192) ((s.me.readV (vNo x.b)).setWidth 512) s.me.prv)).retire := by
  have hgo : ((x.ord = .rel && !s.released s.cur.1 s.cur.2 x.scope) || decide (64 ≤ s.me.rsc)) = false := by
    rw [decide_eq_false (show ¬ 64 ≤ s.me.rsc by omega), Bool.or_false]
    by_cases h : x.ord = .rel
    · simp [hrel h]
    · simp [h]
  change execQpush x s = _
  rw [execQpush, State.begin_body hb]
  dsimp only
  rw [hgo, hj]
  obtain ⟨ha, rfl⟩ | ⟨ha, hlive⟩ := hat
  · rw [ha]
    rfl
  · rw [ha]
    exact congrArg _ (if_pos hlive)

theorem qpush_completes {x : MemA} {s : State} {c off j : Nat} (hb : Begins .no false x.p s) (hu : Unstepped s) (body : Body) :
    CompletesSending s ((s.pushing x c off j).request s.cur.1 c 0 2 0 body).retire { s.me with rsc := s.me.rsc + 1 }
      (s.myCore.setJent j (s.pushEntry x c off)) c 0 body := by
  obtain ⟨hn, hm⟩ := (s.pushing x c off j).request_effect s.cur.1 c 0 2 0 body
  have hk : CoreIs s.cur.1 s.cur.2 s (s.pushing x c off j) { s.me with rsc := s.me.rsc + 1 } (s.myCore.setJent j (s.pushEntry x c off)) :=
    ((CoreIs.refl s.cur.1 s.cur.2 s).modCore_of rfl).modStrand hb.turn fun t => { t with rsc := t.rsc + 1 }
  exact State.retire_completesSending hb.turn hu rfl hk hn hm rfl rfl rfl

/-! ## QPOP -/

/-- A queue once the entry at HEAD is taken (R113). -/
def Fifo.popped (f : Fifo) : Fifo := { f with head := (f.head + 1) % 128, count := f.count - 1 }

section Pop

variable {x : MemA} {s : State} {off : Nat} (hb : Begins .no false x.p s)
  (ha : decodeAddr s.me.stkb (memAddr x s.me) = some (.loc off))
include hb ha

theorem exec_qpop_changing (hch : s.myCore.changing off 1 = true) : exec (.qpop x) s = .next s.stall := by
  change execQpop x s = _
  rw [execQpop, State.begin_body hb]
  simp only [ha, hch, if_true]

theorem exec_qpop (hch : s.myCore.changing off 1 = false) (hmode : s.myCore.mode (off / 8192) = 2)
    (hprv : off / 8192 = 63 → s.myCore.res = true → s.me.prv = true) : let f := s.myCore.fifo (off / 8192)
    let t := (s.modMyCore fun k => { k with fifos := SMap.set k.fifos (off / 8192) f.popped }).modMe
      (·.writeV x.d (BitVec.ofNat 1024 (s.myCore.ls.num (8192 * (off / 8192) + 64 * f.head) 64)))
    exec (.qpop x) s = .next (if f.count = 0 then s.stall else (match memAcq x with | some sc => t.acquire s.cur.1 sc | none => t).retire) := by
  have hlast : (decide (off / 8192 = 63) && s.myCore.res && !s.me.prv) = false := by
    by_cases h : off / 8192 = 63
    · cases hr : s.myCore.res
      · simp
      · simp [hprv h hr]
    · simp [h]
  change execQpop x s = _
  rw [execQpop, State.begin_body hb]
  simp only [ha, hch, hmode, hlast, bne_self_eq_false, Bool.false_eq_true, if_false]
  rfl

end Pop

/-- The acquire of a pop leaves its core as `Core.acquired` says (R213). -/
theorem CoreIs.acquire {c i : Nat} {s w : State} {u : Strand} {k : Core} (h : CoreIs c i s w u k) (q : Option Scope) :
    CoreIs c i s (match q with | some sc => w.acquire c sc | none => w) u (k.acquired q) := by
  match q with
  | none | some .core | some .clu | some .dom => exact h
  | some .dev | some .sys => exact h.modCore fun _ => rfl

theorem State.acquire_cores (w : State) (c : Nat) (q : Option Scope) : let t := match q with | some sc => w.acquire c sc | none => w
    t = { w with cores := t.cores } := by
  match q with
  | none | some .core | some .clu | some .dom | some .dev | some .sys => rfl

theorem qpop_completes {x : MemA} {s : State} (hb : Begins .no false x.p s) (hu : Unstepped s) (b : Nat) (f : Fifo) (d : W1024) :
    let t := (s.modMyCore fun k => { k with fifos := SMap.set k.fifos b f }).modMe (·.writeV x.d d)
    CompletesIn s (match memAcq x with | some sc => t.acquire s.cur.1 sc | none => t).retire (s.me.writeV x.d d)
      { s.myCore.acquired (memAcq x) with fifos := SMap.set s.myCore.fifos b f } := by
  intro t
  have hk : CoreIs s.cur.1 s.cur.2 s t (s.me.writeV x.d d) { s.myCore with fifos := SMap.set s.myCore.fifos b f } :=
    ((CoreIs.refl s.cur.1 s.cur.2 s).modCore_of rfl).modStrand hb.turn (·.writeV x.d d)
  have hacq : ({ s.myCore with fifos := SMap.set s.myCore.fifos b f } : Core).acquired (memAcq x) =
      { s.myCore.acquired (memAcq x) with fifos := SMap.set s.myCore.fifos b f } := by
    unfold Core.acquired
    split <;> rfl
  have hw := hk.acquire (memAcq x)
  rw [hacq] at hw
  exact State.retire_completesIn hb.turn hu (State.acquire_cores t s.cur.1 (memAcq x)) hw (Strand.writeV_pc _ _ _) (Strand.writeV_join4 _ _ _)
    (Strand.writeV_status _ _ _)

/-! ## Pushes that arrive -/

@[simp] theorem Core.fifo_setFifo_same (x : Core) (b : Nat) (f : Fifo) : (x.setFifo b f).fifo b = f := SMap.getD_set_same _ _ _ _

/-- A queue after 64 bytes have gone in at TAIL (R113). -/
def Fifo.pushed (f : Fifo) : Fifo := { f with tail := (f.tail + 1) % 128, count := f.count + 1 }

theorem Core.fifo_fifoPush_same (x : Core) (b : Nat) (data : BitVec 512) : (x.fifoPush b data).fifo b = (x.fifo b).pushed :=
  SMap.getD_set_same _ _ _ _

theorem Core.num_fifoPush {x : Core} (b : Nat) (data : BitVec 512) (hls : x.ls.wf = true) :
    (x.fifoPush b data).ls.num (8192 * b + 64 * (x.fifo b).tail) 64 = data.toNat := Memory.num_writeNum_bitVec _ data rfl hls

theorem Core.read_fifoPush_other (x : Core) {b a : Nat} (data : BitVec 512)
    (h : a < 8192 * b + 64 * (x.fifo b).tail ∨ 8192 * b + 64 * (x.fifo b).tail + 64 ≤ a) : (x.fifoPush b data).ls.read a = x.ls.read a :=
  Memory.read_writeNum_other _ _ _ h

/-- A fresh push at a queue with room and no ticket outstanding is taken and acknowledged with what is free behind it (R112 to R114). -/
theorem exec_qpushArrival {s : State} {uid c b : Nat} {m : Msg} {who : Who} {data : BitVec 512} {prv : Bool} (hm : s.msg? uid = some m)
    (hb : m.body = .qpush who c b data prv) (hcan : m.cancel = false) (ht : m.ticket = 0) (hd : (s.core c).dark = false)
    (hch : (s.core c).changing (8192 * b) 1 = false) (him : s.imaging c = false) (hmode : (s.core c).mode b = 2)
    (hprv : b = 63 → (s.core c).res = true → prv = true) (hroom : ((s.core c).fifo b).count < 127)
    (hserve : ((s.core c).fifo b).next = ((s.core c).fifo b).serve) : let f := (s.core c).fifo b
    exec (.qpushArrival uid) s = .next (((s.consume uid).modCore c fun x => (x.setFifo b f).fifoPush b data).answer c m.src 2 1 m.tag
      (.qack who 0 (126 - f.count) 0)) := by
  intro f
  have hrule : ticketRule (decide (f.count < 127)) f.next f.serve m.ticket false = (.accept, f.next, f.serve) := by
    have hout : ticketsOut f.next f.serve = 0 := by simp [ticketsOut, show f.next = f.serve from hserve]
    simp [ticketRule, ht, hout, show f.count < 127 from hroom]
  have hlast : (decide (b = 63) && (s.core c).res && !prv) = false := by
    by_cases h : b = 63
    · cases hr : (s.core c).res
      · simp
      · simp [hprv h hr]
    · simp [h]
  change execQpushArrival uid s = _
  simp only [execQpushArrival, hm, hb, hcan, hch, him, hd, hmode, hlast, Bool.or_self, Bool.false_eq_true, if_false, bne_self_eq_false]
  rw [hrule]
  rw [← State.modCore_modCore (s.consume uid) c (·.setFifo b f) (·.fifoPush b data)]
  rfl

/-- Settles O28: QPUSH sends its 64 bytes with a journal entry, a push that arrives goes in at TAIL, and QPOP takes the entry at HEAD. -/
theorem queuesComplete : Obligations.QueuesComplete := by
  unfold Obligations.QueuesComplete
  refine ⟨fun x s c off j hb hu hat hrel hrsc hj => ⟨_, exec_qpush hb hat hrel hrsc hj, qpush_completes hb hu _⟩, ?_, ?_⟩
  · intro x s off b f hb hu ha
    refine ⟨exec_qpop_changing hb ha, fun hch hmode hprv => ?_⟩
    have hx := exec_qpop hb ha hch hmode hprv
    refine ⟨fun h => hx.trans (congrArg _ (if_pos h)), fun h => ⟨_, hx.trans (congrArg _ (if_neg h)), qpop_completes hb hu _ _ _⟩⟩
  · intro s uid c b m who data prv x f hm hb hcan ht hd hch him hmode hprv hroom hserve hls
    refine ⟨_, exec_qpushArrival hm hb hcan ht hd hch him hmode hprv hroom hserve, ?_⟩
    obtain ⟨v, hv⟩ : ∃ v, v = (s.consume uid).modCore c fun x => (x.setFifo b f).fifoPush b data := ⟨_, rfl⟩
    obtain ⟨hn, hmail⟩ := v.answer_effect c m.src 2 1 m.tag (.qack who 0 (126 - f.count) 0)
    have hcore : v.core c = (x.setFifo b f).fifoPush b data := by rw [hv, State.core_modCore_same]; rfl
    rw [← hv, State.msg?_uid hm]
    refine ⟨Sends.of_mails (by rw [hv]; rfl) hn hmail rfl, ?_, ?_, fun a h => ?_, fun k hk => ?_⟩
    · have h := (x.setFifo b f).num_fifoPush b data hls
      rw [Core.fifo_setFifo_same] at h
      rw [hn.core, hcore]
      exact h
    · rw [hn.core, hcore, Core.fifo_fifoPush_same, Core.fifo_setFifo_same]
      rfl
    · rw [hn.core, hcore]
      exact (x.setFifo b f).read_fifoPush_other data (by rw [Core.fifo_setFifo_same]; exact h)
    · rw [hn.core, hv, State.core_modCore_other _ _ hk]
      rfl

end Sys2Proof.Machine
end

section
/-!
PROOFS. TDEF, TSTAT and TREL (R117, R119, R120, R224 to R226), and the waits of an entry that is being refilled (R139).
-/

namespace Sys2Proof.Machine

/-! ## TDEF -/

/-- An entry that a definition has written (R119). -/
def Tile.defined (e : Tile) (w0 w1 w2 : W64) : Tile :=
  let e := { e with w0, w1, w2 }
  { e.setLog [] with w3 := putBits (e.setLog []).w3 23 8 0, failAddr := 0 }

theorem Tile.state_defined (e : Tile) (w0 w1 w2 : W64) : (e.defined w0 w1 w2).state = e.state :=
  (bits_putBits_other _ _ _ _ (.inl (by decide)) (by decide)).trans (bits_putBits_other _ _ _ _ (.inl (by decide)) (by decide))

theorem Tile.defined_words (e : Tile) (w0 w1 w2 : W64) : (e.defined w0 w1 w2).w0 = w0 ∧ (e.defined w0 w1 w2).w1 = w1 ∧
    (e.defined w0 w1 w2).w2 = w2 ∧ (e.defined w0 w1 w2).w4 = e.w4 := ⟨rfl, rfl, rfl, rfl⟩

theorem Core.reserved_eq_false {x : Core} {a n : Nat} {prv : Bool} (h : x.res = true → prv = false → a + n ≤ 516096) :
    x.reserved a n prv = false := by
  unfold Core.reserved
  cases hr : x.res
  · simp
  · cases hp : prv
    · simp [h hr hp]
    · simp

/-- Bytes `8 k` to `8 k + 7` of an entry's definition in the local store (R224). -/
def State.definition (s : State) (o k : Nat) : W64 := BitVec.ofNat 64 (s.myCore.ls.num (o + 8 * k) 8)

theorem exec_tdef {p : Pred} {s : State} {n : Fin 64} {a : Opd} {off : W32} {o : Nat} (hb : Begins .no false p s)
    (ha : decodeAddr s.me.stkb (s.me.src 0 a + off.signExtend 64) = some (.loc o)) (hal : (s.me.src 0 a + off.signExtend 64).toNat % 8 = 0)
    (ho : o + 24 ≤ 524288) (hch : s.myCore.changing o 24 = false) (hscr : s.myCore.notScr o 24 = none)
    (hres : s.myCore.res = true → s.me.prv = false → o + 24 ≤ 516096)
    (hc : s.defineCause n (s.definition o 0) (s.definition o 1) (s.definition o 2) = none) (hr : (s.myCore.tile n).refilling = false) :
    exec (.tdef n a off p) s = .next ((s.modMyCore (·.modTile n
      (·.defined (s.definition o 0) (s.definition o 1) (s.definition o 2)))).retire) := by
  show execTdef n a off p s = _
  unfold execTdef
  rw [State.begin_body hb]
  simp only [ha, hal, hch, hscr, Core.reserved_eq_false hres, bne_self_eq_false, Bool.false_eq_true, if_false,
    if_neg (show ¬ 524288 < o + 24 by omega)]
  unfold State.definition at hc
  unfold State.tileDefine
  simp only [hc, hr, Bool.false_eq_true, if_false]
  rfl

/-! ## TSTAT -/

theorem exec_tstat {p : Pred} {s : State} {d : Opd} {n : Fin 64} (hb : Begins .no false p s) :
    exec (.tstat d n p) s = .next (s.finish fun t => t.write d (s.myCore.tile n).w3) :=
  congrArg Host.Outcome.next (State.begin_body hb fun _ => s.finish fun t => t.write d (s.myCore.tile n).w3)

theorem exec_tstatTime {p : Pred} {s : State} {d : Opd} {n : Fin 64} (hb : Begins .no false p s) :
    exec (.tstatTime d n p) s = .next (s.finish fun t => t.write d (s.myCore.tile n).w4) :=
  congrArg Host.Outcome.next (State.begin_body hb fun _ => s.finish fun t => t.write d (s.myCore.tile n).w4)

/-! ## TREL, and what waits -/

theorem exec_trel {p : Pred} {s : State} {n : Fin 64} (hb : Begins .no false p s) (hst : (s.myCore.tile n).state = 2)
    (hr : (s.myCore.tile n).refilling = false) (hd : (s.myCore.tile n).logDirty = false) (hlog : (s.myCore.tile n).logged = none) :
    exec (.trel n p) s = .next ((s.modMyCore (·.modTile n Tile.emptied)).retire) := by
  show execTrel n p s = _
  unfold execTrel
  rw [State.begin_body hb]
  simp only [hst, hr, hd, bne_self_eq_false, Bool.false_eq_true, if_false, State.tileEmpty_of_unlogged (s := s) (c := s.cur.1) hlog]
  rfl

theorem Tile.emptied_words (e : Tile) : e.emptied.w0 = e.w0 ∧ e.emptied.w1 = e.w1 ∧ e.emptied.w2 = e.w2 := ⟨rfl, rfl, rfl⟩

/-- An instruction that starts or ends work on an entry waits while the entry is being refilled (R139). -/
theorem exec_tile_refilling {p : Pred} {s : State} {n : Fin 64} (hb : Begins .no false p s) (hr : (s.myCore.tile n).refilling = true) :
    ∀ i ∈ [Instr.tfill n p, .tdrain n p, .trel n p], exec i s = .next s.stall := by
  intro i hi
  simp only [List.mem_cons, List.not_mem_nil, or_false] at hi
  obtain rfl | rfl | rfl := hi
  · exact congrArg _ ((State.begin_body hb _).trans (if_pos hr))
  · exact congrArg _ ((State.begin_body hb _).trans (if_pos hr))
  · exact congrArg _ ((State.begin_body hb _).trans (if_pos hr))

/-- An instruction that changes one entry leaves every other one. -/
theorem State.modTile_completesIn {s : State} {n : Nat} (f : Tile → Tile) (hi : s.cur.2 < 4) (hu : Unstepped s) :
    let t := (s.modMyCore (·.modTile n f)).retire
    CompletesIn s t s.me { s.myCore with tiles := t.myCore.tiles } ∧ t.myCore.tile n = f (s.myCore.tile n) ∧
      ∀ k, k ≠ n → t.myCore.tile k = s.myCore.tile k := by
  intro t
  have h : CompletesIn s t s.me (s.myCore.modTile n f) := State.modMyCore_completesIn hi hu rfl
  refine ⟨?_, (h.tile n).trans (Core.tile_modTile_same _ _ _), fun k hk => (h.tile k).trans (Core.tile_modTile_other _ _ hk)⟩
  rw [h.tiles]
  exact h

end Sys2Proof.Machine
end

section
/-!
PROOFS. Fills and drains at their issue, with the first line read or written (R92, R96, R102, R120, R225); and the statement on tiles.
-/

namespace Sys2Proof.Machine

/-- An instruction that has changed its core to `k` and its strand to `u`, and other parts of the device, goes on to the next slot. -/
theorem State.retire_leaves {s w : State} {u : Strand} {k : Core} (hi : s.cur.2 < 4) (hu : Unstepped s) (hcur : w.cur = s.cur)
    (hw : CoreIs s.cur.1 s.cur.2 s w u k) (hpc : u.pc = s.me.pc) (hj : u.join4 = s.me.join4) (hst : u.status = s.me.status) :
    w.retire.me = s.past s.cur.1 s.cur.2 u ∧ w.retire.myCore = { k with strands := w.retire.myCore.strands } ∧
      w.retire = { w with cores := w.retire.cores } := by
  obtain ⟨⟨ht, -⟩, -, -, hcore, hstrand⟩ := hw.retireAt hi (Strand.unstepped_of_status hst hu) hpc hj
  have hr : w.retire = w.retireAt s.cur.1 s.cur.2 := by rw [State.retire, hcur]
  rw [← hr] at ht hcore hstrand
  have hcur' : w.retire.cur = s.cur := by rw [ht]; exact hcur
  refine ⟨?_, ?_, ht⟩
  · rw [State.me, hcur']
    exact hstrand
  · rw [State.myCore, hcur']
    exact hcore

/-- What the issue of a fill or a drain leaves: one line's message on its way, the entry in its new state with the strand as its owner,
and the strand's count one higher. -/
def TileBegins (s : State) (n dest state : Nat) (job : TileJob) (fseq : Nat) (t : State) : Prop :=
  ∃ m, t.transit = s.transit ++ [m] ∧ m.dest = dest ∧ t.me = s.past s.cur.1 s.cur.2 { s.me with tlc := s.me.tlc + 1 } ∧
    (t.myCore.tile n).state = state ∧ (t.myCore.tile n).fseq = fseq ∧ (t.myCore.tile n).own = s.cur.2 ∧ (t.myCore.tile n).job = job ∧
    t.myCore.ls = s.myCore.ls ∧ t.hbm = s.hbm

/-- The work on an entry under way before its instruction retires: the core is `k` but for its strands, the entry there is `e`, and one
message more is on its way. -/
theorem TileBegins.of_coreIs {s w : State} {k : Core} {n dest : Nat} {e : Tile} (hi : s.cur.2 < 4) (hu : Unstepped s)
    (hcur : w.cur = s.cur) (hhbm : w.hbm = s.hbm) (hw : CoreIs s.cur.1 s.cur.2 s w { s.me with tlc := s.me.tlc + 1 } k)
    (he : k.tile n = e) (hls : k.ls = s.myCore.ls) (hown : e.own = s.cur.2) (hm : ∃ m, w.transit = s.transit ++ [m] ∧ m.dest = dest) :
    TileBegins s n dest e.state e.job e.fseq w.retire := by
  obtain ⟨hme, hcore, ht⟩ := State.retire_leaves hi hu hcur hw rfl rfl rfl
  obtain ⟨m, hm, hdest⟩ := hm
  have htile : w.retire.myCore.tile n = e := by rw [hcore]; exact he
  refine ⟨m, ?_, hdest, hme, by rw [htile], by rw [htile], by rw [htile]; exact hown, by rw [htile], ?_, ?_⟩
  · rw [ht]; exact hm
  · rw [hcore]; exact hls
  · rw [ht]; exact hhbm

/-- A change of an entry that has been set in its core already. -/
theorem CoreIs.modTile {c i n : Nat} {s w : State} {u : Strand} {k : Core} {e : Tile} (h : CoreIs c i s w u (k.setTile n e))
    (f : Tile → Tile) : CoreIs c i s (w.modTile c n f) u (k.setTile n (f e)) := by
  refine h.modCore fun z => ?_
  simp only [Core.modTile, Core.setTile, Core.tile, SMap.set_set, SMap.getD_set_same]

/-- An entry that belongs to strand `i` (R117). -/
def Tile.owned (e : Tile) (i : Nat) : Tile := { e with w3 := putBits e.w3 20 2 i }

/-- The strand counts one tile operation more, and owns the entry (R117, R174). -/
def State.counting (s : State) (n : Nat) : State :=
  (s.modMe fun t => { t with tlc := t.tlc + 1 }).modTile s.cur.1 n (·.owned s.cur.2)

theorem State.counting_core {s : State} (hi : s.cur.2 < 4) (n : Nat) : CoreIs s.cur.1 s.cur.2 s (s.counting n)
    { s.me with tlc := s.me.tlc + 1 } (s.myCore.setTile n ((s.myCore.tile n).owned s.cur.2)) :=
  ((CoreIs.refl s.cur.1 s.cur.2 s).modStrand hi fun t => { t with tlc := t.tlc + 1 }).modCore fun _ => rfl

/-- The privilege, the address space and the PC are those of the strand as it was. -/
theorem State.counting_keeps {s : State} (hi : s.cur.2 < 4) (n : Nat) :
    (s.counting n).me.prv = s.me.prv ∧ (s.counting n).me.asid = s.me.asid ∧ (s.counting n).me.pc = s.me.pc := by
  have hme : (s.counting n).me = { s.me with tlc := s.me.tlc + 1 } := (State.counting_core hi n).strand
  rw [hme]
  exact ⟨rfl, rfl, rfl⟩

theorem CoreIs.tile_setTile {c i n : Nat} {s w : State} {u : Strand} {k : Core} {e : Tile} (h : CoreIs c i s w u (k.setTile n e)) :
    w.tile c n = e := (h.tile n).trans (Core.tile_setTile_same _ _ _)

/-! ## TFILL -/

/-- An entry whose fill has begun, with no line read yet (R120). -/
def Tile.opened (e : Tile) (sid : Option Nat) (o : Nat) (prv : Bool) (asid : BitVec 16) (pc : W64) : Tile :=
  { e with w3 := putBits (putBits e.w3 0 2 1) 8 12 (e.fseq + 1), asid, pc, job := .opening sid o prv }

theorem Tile.opened_fields (e : Tile) {i : Nat} (hi : i < 4) (prv : Bool) (asid : BitVec 16) (pc : W64) :
    let f := (e.owned i).opened none i prv asid pc
    f.state = 1 ∧ f.fseq = (e.fseq + 1) % 4096 ∧ f.own = i := by
  refine ⟨?_, ?_, ?_⟩
  · exact (bits_putBits_other _ _ _ _ (.inl (by decide)) (by decide)).trans (bits_putBits_same _ _ _ _ (by decide))
  · refine (bits_putBits_same _ _ _ _ (by decide)).trans ?_
    rw [show (e.owned i).fseq = e.fseq from bits_putBits_other _ _ _ _ (.inl (by decide)) (by decide)]
    rfl
  · refine (bits_putBits_other _ _ _ _ (.inr (by decide)) (by decide)).trans ?_
    refine (bits_putBits_other _ _ _ _ (.inr (by decide)) (by decide)).trans ((bits_putBits_same _ _ _ _ (by decide)).trans ?_)
    exact Nat.mod_eq_of_lt hi

/-- Neither the owner nor the beginning of a fill changes which lines the entry has. -/
theorem Tile.opened_lines (e : Tile) (i : Nat) (sid : Option Nat) (o : Nat) (prv : Bool) (asid : BitVec 16) (pc : W64) :
    let f := (e.owned i).opened sid o prv asid pc
    f.lines = e.lines ∧ f.fillOrder = e.fillOrder ∧ f.asid = asid := ⟨rfl, rfl, rfl⟩

theorem State.fillBegin_unlogged {s : State} {c n o : Nat} {sid : Option Nat} {prv : Bool} {asid : BitVec 16} {pc : W64}
    (h : s.loggedTile asid (s.tile c n) = .ok none) :
    s.fillBegin c n sid o prv asid pc = (s.modTile c n (·.opened sid o prv asid pc)).fillReads c n sid o prv := by
  obtain ⟨v, hv⟩ : ∃ v, v = s.modTile c n (·.opened sid o prv asid pc) := ⟨_, rfl⟩
  have hlog : v.loggedTile asid (v.tile c n) = .ok none := by
    rw [hv, State.tile_modTile_same]
    exact h
  have hb : s.fillBegin c n sid o prv asid pc = match v.loggedTile asid (v.tile c n) with
      | .error _ => v.tileFault c n cShapeFormat 0
      | .ok none => v.fillReads c n sid o prv
      | .ok (some l) => (v.modTile c n fun e => { e with logged := some l }).ask c (epSlice (v.logHome (recOf l))) (.open_ (recOf l) c n) := by
    rw [hv]
    rfl
  rw [hb, hlog, hv]

theorem exec_tfill {p : Pred} {s : State} {n : Fin 64} (hb : Begins .no false p s) (hr : (s.myCore.tile n).refilling = false)
    (hch : (s.myCore.tile n).loc = false → s.myCore.changing (s.myCore.tile n).off (s.myCore.tile n).span = false)
    (hc : s.fillCause n = none) (htlc : s.me.tlc < 64) : exec (.tfill n p) s = .next (s.fillFor n).retire := by
  have hhold : ((s.myCore.tile n).state = 0 && (s.myCore.tile n).home != 0 && !(s.myCore.tile n).loc &&
      s.myCore.changing (s.myCore.tile n).off (s.myCore.tile n).span) = false := by
    cases hl : (s.myCore.tile n).loc
    · rw [hch hl, Bool.and_false]
    · simp
  show execTfill n p s = _
  unfold execTfill
  rw [State.begin_body hb]
  simp only [hr, hhold, hc, Bool.false_eq_true, if_false, if_neg (show ¬ 64 ≤ s.me.tlc by omega)]

theorem State.fillFor_eq {s : State} {n : Nat} (hi : s.cur.2 < 4)
    (hlog : s.loggedTile (s.me.asid.setWidth 16) (s.myCore.tile n) = .ok none) :
    s.fillFor n = ((s.counting n).modTile s.cur.1 n (·.opened none s.cur.2 s.me.prv (s.me.asid.setWidth 16) s.me.pc)).fillReads
      s.cur.1 n none s.cur.2 s.me.prv := by
  obtain ⟨hprv, hasid, hpc⟩ := State.counting_keeps hi n
  have hfor : s.fillFor n = (s.counting n).fillBegin s.cur.1 n none s.cur.2 (s.counting n).me.prv
    ((s.counting n).me.asid.setWidth 16) (s.counting n).me.pc := rfl
  rw [hfor, hprv, hasid, hpc, State.fillBegin_unlogged]
  rw [(State.counting_core hi n).tile_setTile]
  exact hlog

/-- A fill of an entry that is not logged reads its first line (R92, R120). -/
theorem State.fillFor_begins {s : State} {n k va : Nat} {rest : List Nat} {q : TileLine} {pg : Page} (hi : s.cur.2 < 4)
    (hu : Unstepped s) (hlog : s.loggedTile (s.me.asid.setWidth 16) (s.myCore.tile n) = .ok none) (hpt : s.ptsh ≠ 0)
    (ho : (s.myCore.tile n).fillOrder = k :: rest) (hq : (s.myCore.tile n).lines[k]? = some q) (hva : tileVa q.home = some va)
    (hf : s.myCore.tlbFind (s.me.asid.setWidth 16) va = some pg) (hp : pg.permits (.load s.me.prv) = true) :
    TileBegins s n (s.engineDest s.cur.1 (pageAddr pg va / 128) pg false) 1 (.fill (k :: rest) 1 none s.cur.2 s.me.prv)
      (((s.myCore.tile n).fseq + 1) % 4096) (s.fillFor n).retire := by
  obtain ⟨e, he⟩ : ∃ e, e = ((s.myCore.tile n).owned s.cur.2).opened none s.cur.2 s.me.prv (s.me.asid.setWidth 16) s.me.pc := ⟨_, rfl⟩
  obtain ⟨v, hv⟩ : ∃ v, v = (s.counting n).modTile s.cur.1 n (·.opened none s.cur.2 s.me.prv (s.me.asid.setWidth 16) s.me.pc) := ⟨_, rfl⟩
  have hcore : CoreIs s.cur.1 s.cur.2 s v { s.me with tlc := s.me.tlc + 1 } (s.myCore.setTile n e) := by
    rw [hv, he]
    exact (State.counting_core hi n).modTile _
  obtain ⟨hlines, horder, hasid⟩ := (s.myCore.tile n).opened_lines s.cur.2 none s.cur.2 s.me.prv (s.me.asid.setWidth 16) s.me.pc
  rw [← he] at hlines horder hasid
  have hreads := State.fillReads_reads (s := v) (c := s.cur.1) (n := n) (k := k) (rest := rest) (sid := none) (o := s.cur.2)
    (prv := s.me.prv) (q := q) (va := va) (pg := pg) (by rw [hcore.tile_setTile, horder, ho]) (by rw [hcore.tile_setTile, hlines, hq])
    hva (by rw [hv]; exact hpt) (by rw [hcore.tile_setTile, hasid, hcore.core]; exact hf) hp
  obtain ⟨w, hw⟩ : ∃ w, w = (v.modTile s.cur.1 n fun e => { e with job := .fill e.fillOrder 0 none s.cur.2 s.me.prv, sbuf := 0 }).modTile
    s.cur.1 n fun e => { e with job := .fill (k :: rest) 1 none s.cur.2 s.me.prv } := ⟨_, rfl⟩
  have hwcore : CoreIs s.cur.1 s.cur.2 s w { s.me with tlc := s.me.tlc + 1 }
      (s.myCore.setTile n (e.reading (k :: rest) none s.cur.2 s.me.prv)) := by
    rw [hw]
    exact (hcore.modTile _).modTile _
  obtain ⟨hstate, hseq, hown⟩ := (s.myCore.tile n).opened_fields hi s.me.prv (s.me.asid.setWidth 16) s.me.pc
  rw [← he] at hstate hseq hown
  rw [State.fillFor_eq hi hlog, ← hv, hreads, ← hw]
  obtain ⟨hn, m, hm, -, hdest, -⟩ := w.engineReq_mails s.cur.1 (readerOf s.cur.1 none)
    (.tile s.cur.1 n (v.tile s.cur.1 n).fseq k) (v.tile s.cur.1 n).asid (pageAddr pg va) pg false .read 0 0 []
  have hb := TileBegins.of_coreIs hi hu (by rw [hn, hw, hv]; rfl) (by rw [hn, hw, hv]; rfl) (hwcore.netOnly hn)
    (Core.tile_setTile_same _ _ _) rfl hown
    ⟨m, hm.trans (by rw [hw, hv]; rfl), hdest.trans (State.engineDest_congr (t := w) (s := s) (by rw [hw, hv]; rfl) (by rw [hw, hv]; rfl) _ _ _ _)⟩
  rw [show (e.reading (k :: rest) none s.cur.2 s.me.prv).state = 1 from hstate,
    show (e.reading (k :: rest) none s.cur.2 s.me.prv).fseq = _ from hseq] at hb
  exact hb

/-! ## TDRAIN -/

/-- An entry whose drain has begun, with no line written yet (R102, R120). -/
def Tile.closing (e : Tile) (o : Nat) (prv : Bool) (asid : BitVec 16) (pc : W64) : Tile :=
  { e.setState 3 with asid, pc := if e.strm then 0 else pc, job := .drain (List.range e.lines.length) 0 e.strm o prv }

theorem Tile.strm_owned (e : Tile) (i : Nat) : (e.owned i).strm = e.strm := (putBits_getLsbD _ _ _ _ _ (by decide)).trans (if_neg (by decide))

theorem Tile.closing_fields (e : Tile) {i : Nat} (hi : i < 4) (prv : Bool) (asid : BitVec 16) (pc : W64) :
    let f := (e.owned i).closing i prv asid pc
    f.state = 3 ∧ f.own = i ∧ f.job = .drain (List.range e.lines.length) 0 e.strm i prv := by
  refine ⟨bits_putBits_same _ _ _ _ (by decide), ?_, ?_⟩
  · refine (bits_putBits_other _ _ _ _ (.inr (by decide)) (by decide)).trans ((bits_putBits_same _ _ _ _ (by decide)).trans ?_)
    exact Nat.mod_eq_of_lt hi
  · rw [← e.strm_owned i]
    rfl

theorem Tile.closing_lines (e : Tile) (i o : Nat) (prv : Bool) (asid : BitVec 16) (pc : W64) :
    let f := (e.owned i).closing o prv asid pc
    f.lines = e.lines ∧ f.asid = asid := ⟨rfl, rfl⟩

/-- `t` differs from `s` in the slots of core `c` and in the list of errors at most. -/
def SlotsOnly (c : Nat) (s t : State) : Prop :=
  t = { s with cores := t.cores, env := t.env } ∧ (∀ k, k ≠ c → t.core k = s.core k) ∧
    t.core c = { s.core c with slots := (t.core c).slots }

theorem SlotsOnly.refl (c : Nat) (s : State) : SlotsOnly c s s := ⟨rfl, fun _ _ => rfl, rfl⟩

theorem SlotsOnly.trans {c : Nat} {s t u : State} (h : SlotsOnly c s t) (g : SlotsOnly c t u) : SlotsOnly c s u := by
  obtain ⟨ht, hother, hcore⟩ := h
  obtain ⟨hu, gother, gcore⟩ := g
  refine ⟨by rw [hu, ht], fun k hk => (gother k hk).trans (hother k hk), ?_⟩
  rw [gcore, hcore]

theorem SlotsOnly.setSlot (s : State) (c o : Nat) (f : Core → Slot) (env : List EnvErr) :
    SlotsOnly c s { s.modCore c fun x => x.setSlot o (f x) with env } := by
  refine ⟨rfl, fun k hk => (s.core_modCore_other (fun x => x.setSlot o (f x)) hk :), ?_⟩
  have h := s.core_modCore_same c fun x => x.setSlot o (f x)
  exact h.trans (by rw [show State.core { s.modCore c fun x => x.setSlot o (f x) with env } c = _ from h]; rfl)

theorem State.zeroSlot_slotsOnly (s : State) (c o : Nat) (ws : List Nat) : SlotsOnly c s (s.zeroSlot c o ws) := by
  unfold State.zeroSlot
  split
  · exact .refl c s
  · exact .setSlot s c o _ _

theorem State.zeroScales_slotsOnly (s : State) (c o : Nat) (ws : List Nat) : SlotsOnly c s (s.zeroScales c o ws) := by
  unfold State.zeroScales
  split
  · exact .refl c s
  · exact .setSlot s c o _ _

/-- The words that the drain pipe finds bad are zeroed in the core's slots (R122, R159). -/
theorem State.zeroDrained_slotsOnly (s : State) (c : Nat) (e : Tile) : SlotsOnly c s (s.zeroDrained c e) := by
  unfold State.zeroDrained
  split
  · exact .refl c s
  · dsimp only
    split
    · exact (s.zeroSlot_slotsOnly _ _ _).trans (State.zeroScales_slotsOnly _ _ _ _)
    · exact s.zeroSlot_slotsOnly _ _ _

theorem CoreIs.slotsOnly {c i : Nat} {s w t : State} {u : Strand} {k : Core} (h : CoreIs c i s w u k) (hs : SlotsOnly c w t) :
    CoreIs c i s t u { k with slots := (t.core c).slots } := by
  obtain ⟨hother, hstrand, hself, hu⟩ := h
  obtain ⟨-, gother, gcore⟩ := hs
  have hstrands : ∀ j, t.strand c j = w.strand c j := fun j => by rw [State.strand, gcore]; rfl
  refine ⟨fun j hj => (gother j hj).trans (hother j hj), fun j hj => (hstrands j).trans (hstrand j hj), ?_, (hstrands i).trans hu⟩
  rw [gcore, hself]
  rfl

/-- The first line of a ring entry goes to its storer, in a data message of KIND 4 (R96, R102). -/
theorem State.drainGo_ring {s : State} {c n k o : Nat} {rest : List Nat} {prv : Bool} {q : TileLine}
    (hj : (s.tile c n).job = .drain (k :: rest) 0 true o prv) (hq : (s.tile c n).lines[k]? = some q) :
    ∃ m : Msg, m.dest = epHbm (c % 16) ∧ s.drainGo c n =
      ((s.zeroDrained c (s.tile c n)).modTile c n fun e => { e with job := .drain (k :: rest) 1 true o prv }).requestMsg m := by
  unfold State.drainGo
  simp only [hj, hq, if_true]
  exact ⟨_, rfl, rfl⟩

/-- The first line of a drain is written at its home (R96). -/
theorem State.drainGo_home {s : State} {c n k o va : Nat} {rest : List Nat} {prv : Bool} {q : TileLine} {pg : Page}
    (hj : (s.tile c n).job = .drain (k :: rest) 0 false o prv) (hq : (s.tile c n).lines[k]? = some q) (hva : tileVa q.home = some va)
    (hpt : s.ptsh ≠ 0) (hf : (s.core c).tlbFind (s.tile c n).asid va = some pg) (hp : pg.permits (.store prv) = true) :
    ∃ data sb, s.drainGo c n =
      ((s.zeroDrained c (s.tile c n)).modTile c n fun e => { e with job := .drain (k :: rest) 1 false o prv }).engineReq c c
        (.tile c n (s.tile c n).fseq k) (s.tile c n).asid (pageAddr pg va / 128 * 128) pg false .write q.mask data sb := by
  have hx : s.drainXlate c n o prv false q = .ok (pageAddr pg va) pg := by
    unfold State.drainXlate
    simp only [hva]
    exact State.engineXlate_ok hpt hf hp
  unfold State.drainGo
  simp only [hj, hq, hx, Bool.false_eq_true, if_false]
  exact ⟨_, _, rfl⟩

theorem exec_tdrain {p : Pred} {s : State} {n : Fin 64} (hb : Begins .no false p s) (hr : (s.myCore.tile n).refilling = false)
    (hst : (s.myCore.tile n).state = 2) (hh : (s.myCore.tile n).home ≠ 0) (htlc : s.me.tlc < 64)
    (hc : s.tileChecks n (s.myCore.tile n) = none) : exec (.tdrain n p) s = .next (s.drainFor n).retire := by
  show execTdrain n p s = _
  unfold execTdrain State.drainChecked
  rw [State.begin_body hb]
  simp only [hr, hst, hc, bne_self_eq_false, Bool.false_eq_true, if_false, Bool.false_or, beq_iff_eq, hh, decide_eq_true_eq,
    if_neg (show ¬ 64 ≤ s.me.tlc by omega)]

theorem State.drainBegin_eq (s : State) (c n o : Nat) (prv : Bool) (asid : BitVec 16) (pc : W64) :
    s.drainBegin c n o prv asid pc = (s.modTile c n (·.closing o prv asid pc)).drainGo c n := rfl

theorem State.drainFor_eq {s : State} (hi : s.cur.2 < 4) (n : Nat) :
    s.drainFor n = ((s.counting n).modTile s.cur.1 n (·.closing s.cur.2 s.me.prv (s.me.asid.setWidth 16) s.me.pc)).drainGo s.cur.1 n := by
  obtain ⟨hprv, hasid, hpc⟩ := State.counting_keeps hi n
  have hfor : s.drainFor n = (s.counting n).drainBegin s.cur.1 n s.cur.2 (s.counting n).me.prv
    ((s.counting n).me.asid.setWidth 16) (s.counting n).me.pc := rfl
  rw [hfor, hprv, hasid, hpc, State.drainBegin_eq]

/-- The drain of an entry that has begun: its owner, its state, and the lines of `all` still to go. -/
theorem TileBegins.of_drain {s v w : State} {n dest k : Nat} {rest : List Nat} {ring : Bool} {e : Tile} (hi : s.cur.2 < 4) (hu : Unstepped s)
    (hv : v = (s.counting n).modTile s.cur.1 n (·.closing s.cur.2 s.me.prv (s.me.asid.setWidth 16) s.me.pc))
    (he : e = ((s.myCore.tile n).owned s.cur.2).closing s.cur.2 s.me.prv (s.me.asid.setWidth 16) s.me.pc)
    (hn : NetOnly ((v.zeroDrained s.cur.1 e).modTile s.cur.1 n fun f => { f with job := .drain (k :: rest) 1 ring s.cur.2 s.me.prv }) w)
    (hm : ∃ m, w.transit = v.transit ++ [m] ∧ m.dest = dest) :
    TileBegins s n dest 3 (.drain (k :: rest) 1 ring s.cur.2 s.me.prv) e.fseq w.retire := by
  have hcore : CoreIs s.cur.1 s.cur.2 s v { s.me with tlc := s.me.tlc + 1 } (s.myCore.setTile n e) := by
    rw [hv, he]
    exact (State.counting_core hi n).modTile _
  obtain ⟨hstate, hown, -⟩ := (s.myCore.tile n).closing_fields hi s.me.prv (s.me.asid.setWidth 16) s.me.pc
  rw [← he] at hstate hown
  have hz := v.zeroDrained_slotsOnly s.cur.1 e
  have hzcore := hcore.slotsOnly hz
  have hzs : v.zeroDrained s.cur.1 e = { s with cores := (v.zeroDrained s.cur.1 e).cores, env := (v.zeroDrained s.cur.1 e).env } := by
    rw [hz.1, hv]
    rfl
  have hset : ∀ (x : Core) (l : SMap Slot), { x.setTile n e with slots := l } = ({ x with slots := l } : Core).setTile n e := fun _ _ => rfl
  rw [hset] at hzcore
  have hw := (hzcore.modTile fun f => { f with job := .drain (k :: rest) 1 ring s.cur.2 s.me.prv }).netOnly hn
  have hb := TileBegins.of_coreIs hi hu (by rw [hn, hzs]; rfl) (by rw [hn, hzs]; rfl) hw (Core.tile_setTile_same _ _ _) rfl hown
    (dest := dest) (by obtain ⟨m, ht, hd⟩ := hm; exact ⟨m, ht.trans (by rw [hv]; rfl), hd⟩)
  rw [← hstate]
  exact hb

/-- The first of the lines that a drain of an entry with a line writes (R96). -/
theorem range_length_of_first {α : Type} {l : List α} {a : α} (h : l[0]? = some a) :
    List.range l.length = 0 :: (List.range (l.length - 1)).map (· + 1) := by
  cases l with
  | nil => simp at h
  | cons x l => exact List.range_succ_eq_map

/-- A drain writes its first line, or hands it to the storer of the ring (R96, R102, R120). -/
theorem State.drainFor_begins {s : State} {n dest : Nat} {q : TileLine} (hi : s.cur.2 < 4) (hu : Unstepped s)
    (hq : (s.myCore.tile n).lines[0]? = some q) (hpt : s.ptsh ≠ 0)
    (hd : (s.myCore.tile n).strm = true ∧ dest = epHbm (s.cur.1 % 16) ∨ ∃ va pg, (s.myCore.tile n).strm = false ∧
      tileVa q.home = some va ∧ s.myCore.tlbFind (s.me.asid.setWidth 16) va = some pg ∧ pg.permits (.store s.me.prv) = true ∧
      dest = s.engineDest s.cur.1 (pageAddr pg va / 128) pg false) :
    ∃ fseq, TileBegins s n dest 3 (.drain (List.range (s.myCore.tile n).lines.length) 1 (s.myCore.tile n).strm s.cur.2 s.me.prv) fseq
      (s.drainFor n).retire := by
  obtain ⟨e, he⟩ : ∃ e, e = ((s.myCore.tile n).owned s.cur.2).closing s.cur.2 s.me.prv (s.me.asid.setWidth 16) s.me.pc := ⟨_, rfl⟩
  obtain ⟨v, hv⟩ : ∃ v, v = (s.counting n).modTile s.cur.1 n (·.closing s.cur.2 s.me.prv (s.me.asid.setWidth 16) s.me.pc) := ⟨_, rfl⟩
  have hcore : CoreIs s.cur.1 s.cur.2 s v { s.me with tlc := s.me.tlc + 1 } (s.myCore.setTile n e) := by
    rw [hv, he]
    exact (State.counting_core hi n).modTile _
  have htile : v.tile s.cur.1 n = e := hcore.tile_setTile
  obtain ⟨hlines, hasid⟩ := (s.myCore.tile n).closing_lines s.cur.2 s.cur.2 s.me.prv (s.me.asid.setWidth 16) s.me.pc
  rw [← he] at hlines hasid
  obtain ⟨-, -, hjob⟩ := (s.myCore.tile n).closing_fields hi s.me.prv (s.me.asid.setWidth 16) s.me.pc
  rw [← he, range_length_of_first hq] at hjob
  rw [State.drainFor_eq hi, ← hv, range_length_of_first hq]
  have hz := v.zeroDrained_slotsOnly s.cur.1 e
  have hsent : ∀ f, ((v.zeroDrained s.cur.1 e).modTile s.cur.1 n f).transit = v.transit := fun f => by
    rw [State.modTile, State.modCore_transit, hz.1]
  refine ⟨e.fseq, ?_⟩
  obtain ⟨hring, rfl⟩ | ⟨va, pg, hring, hva, hf, hp, rfl⟩ := hd
  · rw [hring] at hjob ⊢
    obtain ⟨m, hm, hgo⟩ := State.drainGo_ring (s := v) (by rw [htile, hjob]) (by rw [htile, hlines, hq])
    rw [hgo, htile]
    obtain ⟨hn, b, ht, -, hdest, -⟩ := ((v.zeroDrained s.cur.1 e).modTile s.cur.1 n fun f =>
      { f with job := .drain (0 :: (List.range ((s.myCore.tile n).lines.length - 1)).map (· + 1)) 1 true s.cur.2 s.me.prv }).requestMsg_effect m
    exact TileBegins.of_drain hi hu hv he hn ⟨b, ht.trans (congrArg (· ++ [b]) (hsent _)), hdest.trans hm⟩
  · rw [hring] at hjob ⊢
    obtain ⟨data, sb, hgo⟩ := State.drainGo_home (s := v) (by rw [htile, hjob]) (by rw [htile, hlines, hq]) hva
      (by rw [hv]; exact hpt) (by rw [htile, hasid, hcore.core]; exact hf) hp
    rw [hgo, htile]
    obtain ⟨hn, b, ht, -, hdest, -⟩ := ((v.zeroDrained s.cur.1 e).modTile s.cur.1 n fun f =>
      { f with job := .drain (0 :: (List.range ((s.myCore.tile n).lines.length - 1)).map (· + 1)) 1 false s.cur.2 s.me.prv }).engineReq_mails
        s.cur.1 s.cur.1 (.tile s.cur.1 n e.fseq 0) e.asid (pageAddr pg va / 128 * 128) pg false .write q.mask data sb
    refine TileBegins.of_drain hi hu hv he hn ⟨b, ht.trans (congrArg (· ++ [b]) (hsent _)), ?_⟩
    rw [hdest, Nat.mul_div_cancel _ (by decide)]
    refine State.engineDest_congr ?_ ?_ _ _ _ _
    · rw [State.modTile, State.modCore_flash, hz.1, hv]
      rfl
    · rw [State.modTile, State.modCore_ptcfg, hz.1, hv]
      rfl

/-- Settles O29: TDEF writes its entry, TSTAT reads it, TFILL and TDRAIN begin with their first line, TREL empties the entry, and each
of the last three waits while the entry is being refilled. -/
theorem tilesComplete : Obligations.TilesComplete := by
  unfold Obligations.TilesComplete
  intro p s n hb hu e
  refine ⟨exec_tile_refilling hb, fun d => ⟨?_, ?_⟩, ?_, ?_, ?_⟩
  · exact ⟨_, exec_tstat hb, s.finish_write _ d _ hb.turn hu rfl⟩
  · exact ⟨_, exec_tstatTime hb, s.finish_write _ d _ hb.turn hu rfl⟩
  · intro a off o b w ha hal ho hch hscr hres hc hr
    obtain ⟨hcomp, htile, hother⟩ := State.modTile_completesIn (n := n.val)
      (·.defined (s.definition o 0) (s.definition o 1) (s.definition o 2)) hb.turn hu
    obtain ⟨h0, h1, h2, h4⟩ := e.defined_words (s.definition o 0) (s.definition o 1) (s.definition o 2)
    exact ⟨_, exec_tdef hb ha hal ho hch hscr hres hc hr, hcomp, (congrArg Tile.w0 htile).trans h0, (congrArg Tile.w1 htile).trans h1,
      (congrArg Tile.w2 htile).trans h2, (congrArg Tile.w4 htile).trans h4, (congrArg Tile.state htile).trans (e.state_defined _ _ _), hother⟩
  · intro q q0 va va0 k rest pg asid dst all htlc hlog hpt hr
    have hdst : ∀ va, dst va = s.engineDest s.cur.1 (pageAddr pg va / 128) pg false := fun va => by
      rw [State.engineDest, if_neg Bool.false_ne_true]
    refine ⟨fun ho hq hva hf hc hch hp => ?_, fun hq hst hh hc hstrm => ?_⟩
    · obtain ⟨m, hm, hdest, hme, hstate, hseq, hown, hjob, hls, hhbm⟩ := State.fillFor_begins hb.turn hu hlog hpt ho hq hva hf hp
      exact ⟨_, m, exec_tfill hb hr hch hc htlc, hm, hdest.trans (hdst va).symm, hme, hstate, hseq, hown, hjob, hls, hhbm⟩
    · obtain ⟨-, m, hm, hdest, hme, hstate, -, hown, hjob, hls, hhbm⟩ := State.drainFor_begins hb.turn hu hq hpt
        (dest := if e.strm then epHbm (s.cur.1 % 16) else dst va0) (by
          by_cases h : e.strm = true
          · exact .inl ⟨h, if_pos h⟩
          · obtain ⟨hva, hf, hp⟩ := hstrm (Bool.eq_false_iff.mpr h)
            exact .inr ⟨va0, pg, Bool.eq_false_iff.mpr h, hva, hf, hp, (if_neg h).trans (hdst va0)⟩)
      exact ⟨_, m, exec_tdrain hb hr hst hh htlc hc, hm, hdest, hme, hstate, hown, hjob, hls, hhbm⟩
  · intro hst hr hd hlog
    obtain ⟨hcomp, htile, hother⟩ := State.modTile_completesIn (n := n.val) Tile.emptied hb.turn hu
    obtain ⟨h0, h1, h2⟩ := e.emptied_words
    exact ⟨_, exec_trel hb hst hr hd hlog, hcomp, (congrArg Tile.state htile).trans e.state_emptied, (congrArg Tile.w0 htile).trans h0,
      (congrArg Tile.w1 htile).trans h1, (congrArg Tile.w2 htile).trans h2, hother⟩

end Sys2Proof.Machine
end

section
/-!
PROOFS. Refused messages, resends, cancels and abandoned tickets (R114, R115).
-/

namespace Sys2Proof.Machine

/-! ## NEXT and SERVE of a resource -/

@[simp] theorem State.slice_modSlice_same (s : State) (n : Nat) (f : Slice → Slice) : (s.modSlice n f).slice n = f (s.slice n) :=
  SMap.getD_set_same _ _ _ _

@[simp] theorem State.pool_setPool_same (s : State) (n : Nat) (x : Pool) : (s.setPool n x).pool n = x := SMap.getD_set_same _ _ _ _

@[simp] theorem State.logRec_modLogRec_same (s : State) (n : Nat) (f : LogRec → LogRec) :
    (s.modLogRec n f).logRec n = f (s.logRec n) := SMap.getD_set_same _ _ _ _

/-- The kinds of resource are 0 to 5. -/
theorem resource_kinds {res : Nat} (h : res % 8 < 6) :
    res % 8 = 0 ∨ res % 8 = 1 ∨ res % 8 = 2 ∨ res % 8 = 3 ∨ res % 8 = 4 ∨ res % 8 = 5 := by omega

/-- A resource that passes its ticket at SERVE keeps NEXT (R114). -/
theorem State.tickets_serveOn (s : State) {res : Nat} (h : res % 8 < 6) :
    ((s.serveOn res).tickets res).1 = (s.tickets res).1 ∧ ((s.serveOn res).tickets res).2 = nextTicket (s.tickets res).2 := by
  obtain h | h | h | h | h | h := resource_kinds h <;> simp [State.tickets, State.serveOn, h]

theorem State.serveOn_transit (s : State) (res : Nat) : (s.serveOn res).transit = s.transit := by
  unfold State.serveOn
  dsimp only
  split <;> rfl

/-- What is on its way holds no NEXT and no SERVE. -/
theorem NetOnly.tickets {s t : State} (h : NetOnly s t) (res : Nat) : t.tickets res = s.tickets res := by
  rw [NetOnly] at h
  rw [h]
  rfl

/-- The resource of a message is one of the six kinds. -/
theorem State.resource_kind {s : State} {ep res : Nat} {b : Body} (h : s.resource ep b = some res) : res % 8 < 6 := by
  unfold State.resource at h
  split at h
  case h_1 =>
    split at h
    · have hres := Option.some.inj h
      omega
    · cases h
  case h_7 =>
    obtain ⟨k, -, rfl⟩ := Option.map_eq_some_iff.mp h
    omega
  case h_8 => cases h
  all_goals cases h; omega

/-! ## Refusals -/

/-- A refusal, of a message or of a cancel, goes back with the ticket that it gives (R114). -/
theorem State.refuse_retry_sends (s : State) (m : Msg) (k : Nat) : NetOnly s (s.refuse m (.retry k)) ∧
    ∃ b : Msg, (s.refuse m (.retry k)).transit = s.transit ++ [b] ∧ b.dest = m.src ∧ b.ticket = k ∧ b.body = .retry m.body := by
  simp only [State.refuse]
  rw [State.sendMsg_effect]
  exact ⟨rfl, _, rfl, rfl, rfl, rfl⟩

/-- The message that a sender's interface keeps when it comes back refused (R115). -/
def Msg.keptAs (m : Msg) (b : Body) : Msg :=
  { m with src := m.dest, via := m.dest, dest := m.src, cls := b.cls, nf := b.flits, cancel := false, body := b, sb := m.kept, kept := [] }

/-- Whether the sender of a refused message gives it up (R115). -/
def State.givesUp (s : State) (m : Msg) (b : Body) : Bool :=
  !m.cancel && !b.isAmo && (match b.who with | some w => s.whoDead w | none => false)

theorem State.givesUp_eq_false {s : State} {m : Msg} {b : Body} (h : ∀ w, b.who = some w → s.whoDead w = false) :
    s.givesUp m b = false := by
  unfold State.givesUp
  split
  next w hw => rw [h w hw, Bool.and_false]
  next => exact Bool.and_false _

theorem State.givesUp_eq_true {s : State} {m : Msg} {b : Body} {w : Who} (hc : m.cancel = false) (ha : b.isAmo = false)
    (hw : b.who = some w) (hd : s.whoDead w = true) : s.givesUp m b = true := by
  simp only [State.givesUp, hc, ha, hw, hd, Bool.not_false, Bool.and_self]

/-- A sender after it has given up a refused message (R115). -/
def State.withoutRefused (s : State) (b : Body) : State :=
  match b.who with
  | some (.journal c j) => s.modCore c fun x => { x with journal := SMap.erase x.journal j }
  | some (.copy c id) => s.copyWrote c id none 0 0
  | some (.tile c t _ _) => match (s.tile c t).job with
    | .ending out next o k => s.tileStop c t (out - 1) next o k
    | _ => s
  | _ => s

/-- What a sender's interface does with a refused message: without a ticket, one that is given up is gone (R115). -/
theorem execNackRetryReceived_eq {s : State} {uid : Nat} {m : Msg} {b : Body} {dead : Bool} (hm : s.msg? uid = some m)
    (hb : m.body = .retry b) (hd : (s.consume uid).givesUp m b = dead) : exec (.nackRetryReceived uid) s =
      let u := if !dead then s.consume uid else (s.consume uid).withoutRefused b
      if (dead || m.cancel) && decide (m.ticket = 0) then .next u
      else .next { u with held := u.held ++ [{ msg := m.keptAs b, cancel := dead || m.cancel }] } := by
  change execNackRetryReceived uid s = _
  rw [execNackRetryReceived, hm, ← hd]
  dsimp only
  rw [hb]
  rfl

theorem execNackRetryReceived_of_live {s : State} {uid : Nat} {m : Msg} {b : Body} (hm : s.msg? uid = some m) (hb : m.body = .retry b)
    (hc : m.cancel = false) (hd : (s.consume uid).givesUp m b = false) : exec (.nackRetryReceived uid) s =
      .next { s.consume uid with held := s.held ++ [{ msg := m.keptAs b, cancel := false }] } := by
  rw [execNackRetryReceived_eq hm hb hd, hc]
  rfl

/-- A strand, a fetch and a prefetch keep nothing of a message that they have given up. -/
theorem State.withoutRefused_eq (s : State) {b : Body} {w : Who} {c i : Nat} (hbw : b.who = some w)
    (hw : w = .strand c i ∨ (∃ n, w = .fetch c i n) ∨ ∃ n k, w = .pref c i n k) : s.withoutRefused b = s := by
  rw [State.withoutRefused, hbw]
  obtain rfl | ⟨n, rfl⟩ | ⟨n, k, rfl⟩ := hw <;> rfl

theorem execNackRetryReceived_of_dead {s : State} {uid : Nat} {m : Msg} {b : Body} {w : Who} {c i : Nat} (hm : s.msg? uid = some m)
    (hb : m.body = .retry b) (hbw : b.who = some w) (hw : w = .strand c i ∨ (∃ n, w = .fetch c i n) ∨ ∃ n k, w = .pref c i n k)
    (hd : (s.consume uid).givesUp m b = true) : exec (.nackRetryReceived uid) s =
      if m.ticket = 0 then .next (s.consume uid)
      else .next { s.consume uid with held := s.held ++ [{ msg := m.keptAs b, cancel := true }] } := by
  rw [execNackRetryReceived_eq hm hb hd, State.withoutRefused_eq _ hbw hw]
  simp only [Bool.not_true, Bool.false_eq_true, if_false, Bool.true_or, Bool.true_and, decide_eq_true_eq]
  rfl

/-! ## Resends -/

/-- A message that is kept is sent as it was, or as the cancel of its ticket. -/
theorem State.resend_sends (s : State) (h : Held) : NetOnly { s with held := (s.resend h).held } (s.resend h) ∧
    (s.resend h).held = s.held.filter (· != h) ∧ ∃ b : Msg, (s.resend h).transit = s.transit ++ [b] ∧ b.src = h.msg.src ∧
      b.dest = h.msg.dest ∧ b.cls = h.msg.cls ∧ b.ticket = h.msg.ticket ∧ b.cancel = h.cancel ∧ b.body = h.msg.body := by
  obtain ⟨hn, b, ht, h1, h2, h3, h4, h5, -, h7, -⟩ :=
    ({ s with held := s.held.filter (· != h) } : State).requestMsg_effect { h.msg with cancel := h.cancel }
  have hheld : (s.resend h).held = s.held.filter (· != h) := congrArg State.held hn
  refine ⟨?_, hheld, b, ht, h1, h2, h3, h4, h5, h7⟩
  rw [hheld]
  exact hn

/-! ## Cancels -/

theorem execTicketCancel_of_resource {s : State} {uid res : Nat} {m : Msg} (hm : s.msg? uid = some m) (hc : m.cancel = true)
    (hi : s.imaging m.dest = false) (hr : s.resource m.dest m.body = some res) : exec (.ticketCancel uid) s =
      if m.ticket = (s.tickets res).2 then .next (((s.consume uid).serveOn res).refuse m .cancelled)
      else .next ((s.consume uid).refuse m (.retry m.ticket)) := by
  change execTicketCancel uid s = _
  simp only [execTicketCancel, hm, hc, hi, Bool.not_true, Bool.or_self, Bool.false_eq_true, if_false]
  split
  next b hb => rw [hb] at hr; cases hr
  next b hb =>
    split
    next hb => rw [hb] at hr; cases hr
    next => simp only [hr]

theorem execTicketCancel_of_redc {s : State} {uid c n midx off : Nat} {who : Who} {mask : BitVec 128} {d : W1024} {m : Msg}
    (hm : s.msg? uid = some m) (hc : m.cancel = true) (hi : s.imaging m.dest = false) (hb : m.body = .redc who c n midx off mask d) :
    exec (.ticketCancel uid) s = .next ((s.consume uid).redcCancel m c n (off / 128)) := by
  change execTicketCancel uid s = _
  simp only [execTicketCancel, hm, hc, hi, hb, Bool.not_true, Bool.or_self, Bool.false_eq_true, if_false]

/-- The group of a reduction entry whose line has taken the share of one member more, or is done (R114). -/
def Group.passed (g : Group) (line : Nat) : Group :=
  let next := if SMap.getD g.lines line 0 + 1 = (boxMembers g.desc).length then 0 else SMap.getD g.lines line 0 + 1
  { g with lines := if next = 0 then SMap.erase g.lines line else SMap.set g.lines line next }

theorem Group.passed_lines (g : Group) (line : Nat) : SMap.getD (g.passed line).lines line 0 =
    if SMap.getD g.lines line 0 + 1 = (boxMembers g.desc).length then 0 else SMap.getD g.lines line 0 + 1 := by
  simp only [Group.passed]
  split_ifs with h
  · rw [SMap.getD, SMap.get?_erase_same]; rfl
  all_goals simp_all

theorem State.redcCancel_eq (s : State) (m : Msg) (c n line : Nat) : s.redcCancel m c n line =
    if m.ticket = SMap.getD ((s.core c).group n).lines line 0 + 1 then
      (s.modCore c fun x => x.setGroup n (((s.core c).group n).passed line)).refuse m .cancelled
    else s.refuse m (.retry m.ticket) := rfl

/-! ## TicketsComplete -/

/-- Settles O51, clause by clause: what a refusal leaves in `held`, what is sent of it, and where SERVE stands after a cancel and after an
abandoned ticket. -/
theorem ticketsComplete : Obligations.TicketsComplete := by
  unfold Obligations.TicketsComplete
  refine ⟨?_, ?_, ?_, ?_, ?_⟩
  · intro s uid m b hm hb hc hlive
    exact ⟨_, execNackRetryReceived_of_live hm hb hc (State.givesUp_eq_false hlive), rfl, _, rfl, rfl, rfl, rfl, rfl, rfl, rfl, rfl,
      rfl, rfl⟩
  · intro s uid m b w c i hm hb hc ha hbw hw hd
    have hexec := execNackRetryReceived_of_dead hm hb hbw hw (State.givesUp_eq_true (s := s.consume uid) hc ha hbw hd)
    exact ⟨fun h0 => hexec.trans (if_pos h0), fun h0 => ⟨_, _, hexec.trans (if_neg h0), rfl, rfl, rfl, rfl, rfl, rfl⟩⟩
  · intro s uid h hh huid huniq
    refine ⟨fun hne hs => ⟨_, ?_, s.resend_sends h⟩, fun h0 => ⟨_, ?_, s.resend_sends h⟩⟩
    · have hf : (s.held.find? fun h => h.msg.uid == uid && h.msg.ticket != 0 && !s.inSave h) = some h :=
        find?_eq_some_of_unique hh (by simp [huid, hne, hs]) fun k hk hp => huniq k hk (by simp at hp; exact hp.1.1)
      change execTicketRetryResend uid s = _
      rw [execTicketRetryResend, hf]
    · have hf : (s.held.find? fun h => h.msg.uid == uid && h.msg.ticket == 0) = some h :=
        find?_eq_some_of_unique hh (by simp [huid, h0]) fun k hk hp => huniq k hk (by simp at hp; exact hp.1)
      change execFreshResend uid s = _
      rw [execFreshResend, hf]
  · intro s uid m hm hc hi refused
    refine ⟨fun res hr => ⟨fun ht => ?_, fun ht => ?_⟩, ?_⟩
    · obtain ⟨hn, hmail⟩ := ((s.consume uid).serveOn res).answer_effect m.dest m.src 2 1 m.tag (.okCancel m.body)
      obtain ⟨h1, h2⟩ := (s.consume uid).tickets_serveOn (State.resource_kind hr)
      rw [← hn.tickets] at h1 h2
      exact ⟨_, (execTicketCancel_of_resource hm hc hi hr).trans (if_pos ht), h1, h2,
        hmail.congr ((s.consume uid).serveOn_transit res).symm rfl⟩
    · exact ⟨_, (execTicketCancel_of_resource hm hc hi hr).trans (if_neg ht), (s.consume uid).refuse_retry_sends m m.ticket⟩
    intro who c n midx off mask d hb g took
    have hexec := (execTicketCancel_of_redc hm hc hi hb).trans (congrArg _ ((s.consume uid).redcCancel_eq m c n (off / 128)))
    refine ⟨fun ht => ?_, fun ht => ⟨_, hexec.trans (congrArg _ (if_neg ht)), (s.consume uid).refuse_retry_sends m m.ticket⟩⟩
    obtain ⟨v, hv⟩ : ∃ v, v = (s.consume uid).modCore c fun x => x.setGroup n (g.passed (off / 128)) := ⟨_, rfl⟩
    obtain ⟨hn, hmail⟩ := v.answer_effect m.dest m.src 2 1 m.tag (.okCancel m.body)
    have hg : ((v.refuse m .cancelled).core c).group n = g.passed (off / 128) := by
      rw [State.refuse, hn.core, hv, State.core_modCore_same, Core.group_setGroup_same]
    refine ⟨v.refuse m .cancelled, ?_, hmail.congr (by rw [hv]; rfl) rfl, ?_⟩
    · rw [hv]
      exact hexec.trans (congrArg _ (if_pos ht))
    · rw [hg, Group.passed_lines]
  · intro s res hout
    have hexec : exec (.ticketAbandon res) s =
        if ticketsOut (s.tickets res).1 (s.tickets res).2 = 0 || s.ticketHeld res || (res % 8 == 1 && s.imaging (res / 512)) then .next s
        else .next (s.serveOn res) := rfl
    refine ⟨fun hh => by simp [hexec, hh], fun hh hk hi => ⟨_, ?_, s.tickets_serveOn hk⟩⟩
    have himg : (res % 8 == 1 && s.imaging (res / 512)) = false := by simpa using hi
    simp [hexec, hh, hout, himg]

end Sys2Proof.Machine
end

section
/-!
SUPPORT. The lines that engines hold: a line that is written, and a line that is asked for (R14 to R16, R31, R428).
-/

namespace Sys2Proof.Machine

/-- `t` differs from `s` in the lines of engines and in what is on its way at most. -/
def DevOnly (s t : State) : Prop := t = { s with dev := t.dev, tags := t.tags, transit := t.transit, uid := t.uid, routers := t.routers }

theorem DevOnly.trans {s t u : State} (a : DevOnly s t) (b : DevOnly t u) : DevOnly s u := by
  rw [DevOnly] at *
  rw [b, a]

theorem NetOnly.devOnly {s t : State} (h : NetOnly s t) : DevOnly s t := by
  rw [NetOnly] at h
  rw [DevOnly, h]

theorem DevOnly.core {s t : State} (h : DevOnly s t) (c : Nat) : t.core c = s.core c := by
  rw [DevOnly] at h
  rw [h]
  rfl

theorem DevOnly.strand {s t : State} (h : DevOnly s t) (c i : Nat) : t.strand c i = s.strand c i :=
  congrArg (Core.strand · i) (h.core c)

theorem NetOnly.devLine {s t : State} (h : NetOnly s t) (ep : Nat) (loc : Bool) (ln : Nat) : t.devLine ep loc ln = s.devLine ep loc ln := by
  rw [NetOnly] at h
  rw [h]
  rfl

theorem DevOnly.devHome {s t : State} (h : DevOnly s t) (l : DevAt) : t.devHome l = s.devHome l := by
  have hh : t.homeOf l.1 = s.homeOf l.1 := by
    rw [DevOnly] at h
    exact State.homeOf_congr (by rw [h]) (by rw [h]) l.1
  rw [State.devHome, State.devHome, hh]

theorem State.setDev_devOnly (s : State) (ep : Nat) (loc : Bool) (ln : Nat) (d : DevLine) : DevOnly s (s.setDev ep loc ln d) := rfl

/-- An engine's line is kept unless a slice or a core has no more to do with it. -/
theorem State.devLine_setDev (s : State) (ep : Nat) (loc : Bool) (ln : Nat) {d : DevLine}
    (h : ep < 13056 → d.fresh = true ∨ d.want = true ∨ d.busy = true ∨ d.todo ≠ 0) :
    (s.setDev ep loc ln d).devLine ep loc ln = d := by
  have hidle : (decide (ep < 13056) && !d.fresh && !d.want && !d.busy && d.todo == 0) = false := by
    by_cases he : ep < 13056
    · rcases h he with h | h | h | h
      · simp [h]
      · simp [h]
      · simp [h]
      · exact Bool.and_eq_false_iff.mpr (Or.inr (beq_eq_false_iff_ne.mpr h))
    · simp [he]
  have hset : s.setDev ep loc ln d = { s with dev := SMap.set s.dev (devKey ep loc ln) d } := by
    rw [State.setDev, hidle]
    rfl
  rw [hset]
  exact SMap.getD_set_same _ _ _ _

/-- The next access of an engine to a line: none while one is on its way, else a read that is asked for, else the write of what has been
changed. -/
theorem State.devGo_of_busy {s : State} {ep : Nat} {l : DevAt} (h : (s.devLine ep l.2 l.1).busy = true) : s.devGo ep l = s := by
  rw [State.devGo]
  exact if_pos h

theorem State.devGo_of_want {s : State} {ep : Nat} {l : DevAt} {d : DevLine} (hd : s.devLine ep l.2 l.1 = d) (hb : d.busy = false)
    (hw : d.want = true) : s.devGo ep l =
      (s.setDev ep l.2 l.1 { d with want := false, busy := true }).ask ep (s.devHome l) (.mem (.dev .read ep l d)) := by
  rw [State.devGo, hd]
  simp only [hb, hw, Bool.false_eq_true, if_false, if_true]

theorem State.devGo_of_todo {s : State} {ep : Nat} {l : DevAt} {d : DevLine} (hd : s.devLine ep l.2 l.1 = d) (hb : d.busy = false)
    (hw : d.want = false) (ht : d.todo ≠ 0) : s.devGo ep l =
      (s.setDev ep l.2 l.1 { d with todo := 0, busy := true }).ask ep (s.devHome l) (.mem (.dev .write ep l d)) := by
  rw [State.devGo, hd]
  simp only [hb, hw, Bool.false_eq_true, if_false, bne_iff_ne, ne_eq, ht, not_false_eq_true, if_true]

theorem State.devGo_devOnly (s : State) (ep : Nat) (l : DevAt) : DevOnly s (s.devGo ep l) := by
  unfold State.devGo
  dsimp only
  split_ifs
  · rfl
  · exact (s.setDev_devOnly _ _ _ _).trans (State.ask_effect _ _ _ _).1.devOnly
  · exact (s.setDev_devOnly _ _ _ _).trans (State.ask_effect _ _ _ _).1.devOnly
  · rfl

theorem State.devPut_devOnly (s : State) (ep : Nat) (l : DevAt) (x : W1024) (mask : BitVec 128) (asid : Option (BitVec 16)) :
    DevOnly s (s.devPut ep l x mask asid) := (s.setDev_devOnly _ _ _ _).trans (State.devGo_devOnly _ _ _)

theorem State.devPutNum_devOnly (s : State) (ep : Nat) (l : DevAt) (i n x : Nat) (asid : Option (BitVec 16)) :
    DevOnly s (s.devPutNum ep l i n x asid) := s.devPut_devOnly _ _ _ _ _

theorem State.devAsk_devOnly (s : State) (ep : Nat) (asid : Option (BitVec 16)) (l : DevAt) : DevOnly s (s.devAsk ep asid l) :=
  (s.setDev_devOnly _ _ _ _).trans (State.devGo_devOnly _ _ _)

theorem State.devWant_devOnly (s : State) (ep : Nat) (asid : Option (BitVec 16)) (l : DevAt) : DevOnly s (s.devWant ep asid [l]) := by
  simp only [State.devWant, List.foldl_cons, List.foldl_nil]
  split
  · rfl
  · exact s.devAsk_devOnly _ _ _

theorem State.devHave_single (s : State) (ep : Nat) (l : DevAt) : s.devHave ep [l] = (s.devLine ep l.2 l.1).fresh := by
  simp [State.devHave]

/-! ## A line that is asked for -/

/-- A line that is neither read nor being read is asked for at its home. -/
theorem State.devWant_reads {s : State} {ep : Nat} {l : DevAt} (asid : Option (BitVec 16)) (hf : (s.devLine ep l.2 l.1).fresh = false)
    (hb : (s.devLine ep l.2 l.1).busy = false) (hw : (s.devLine ep l.2 l.1).want = false) : DevReads (s.devWant ep asid [l]) ep l := by
  obtain ⟨d, hd⟩ : ∃ d, d = { s.devLine ep l.2 l.1 with want := true, asid } := ⟨_, rfl⟩
  have hwant : s.devWant ep asid [l] = (s.setDev ep l.2 l.1 d).devGo ep l := by
    rw [hd]
    exact if_neg (by simp [hf, hb, hw])
  obtain ⟨u, hu⟩ : ∃ u, u = s.setDev ep l.2 l.1 d := ⟨_, rfl⟩
  have hline : u.devLine ep l.2 l.1 = d := hu ▸ s.devLine_setDev ep l.2 l.1 fun _ => Or.inr (Or.inl (by rw [hd]))
  rw [hwant, ← hu, State.devGo_of_want hline (by rw [hd]; exact hb) (by rw [hd])]
  obtain ⟨hn, m, ht, hsrc, hdest, -, -, -, -, hbody⟩ :=
    (u.setDev ep l.2 l.1 { d with want := false, busy := true }).ask_effect ep (u.devHome l) (.mem (.dev .read ep l d))
  refine ⟨?_, m, ?_, hsrc, ?_, _, hbody, rfl, rfl, rfl⟩
  · rw [hn.devLine, State.devLine_setDev _ _ _ _ fun _ => Or.inr (Or.inr (Or.inl rfl))]
  · rw [ht]
    exact List.mem_append_right _ List.mem_cons_self
  · exact hdest.trans (((State.setDev_devOnly _ _ _ _ _).trans hn.devOnly).devHome l).symm

/-! ## A line that is written -/

/-- A write of some bytes of a line is on its way. -/
def WritesLine (t : State) (ep dest : Nat) (l : DevAt) (asid : Option (BitVec 16)) (data : W1024) (mask : BitVec 128) : Prop :=
  ∃ m ∈ t.transit, m.src = ep ∧ m.dest = dest ∧ ∃ r, m.body = .mem r ∧ r.op = .write ∧ r.line = l.1 ∧ r.who = .dev ep l.2 ∧
    r.asid = asid ∧ r.data = data ∧ r.mask = mask

/-- What is changed in a line goes to its home where no access is on its way and no read is asked for. -/
theorem State.devPut_writes {s : State} {ep : Nat} {l : DevAt} {d : DevLine} (hd : s.devLine ep l.2 l.1 = d) (hb : d.busy = false)
    (hw : d.want = false) (x : W1024) {mask : BitVec 128} (asid : Option (BitVec 16)) (hm : d.todo ||| mask ≠ 0) :
    let t := s.devPut ep l x mask asid
    (t.devLine ep l.2 l.1).busy = true ∧ (t.devLine ep l.2 l.1).data = merge d.data x mask ∧
      WritesLine t ep (s.devHome l) l asid (merge d.data x mask) (d.todo ||| mask) := by
  obtain ⟨e, he⟩ : ∃ e, e = { d with data := merge d.data x mask, todo := d.todo ||| mask, asid } := ⟨_, rfl⟩
  have hput : s.devPut ep l x mask asid = (s.setDev ep l.2 l.1 e).devGo ep l := by rw [State.devPut, hd, he]
  obtain ⟨u, hu⟩ : ∃ u, u = s.setDev ep l.2 l.1 e := ⟨_, rfl⟩
  have hline : u.devLine ep l.2 l.1 = e := hu ▸ s.devLine_setDev ep l.2 l.1 fun _ => Or.inr (Or.inr (Or.inr (by rw [he]; exact hm)))
  have hhome : u.devHome l = s.devHome l := hu ▸ (s.setDev_devOnly _ _ _ _).devHome l
  rw [hput, ← hu, State.devGo_of_todo hline (by rw [he]; exact hb) (by rw [he]; exact hw) (by rw [he]; exact hm), hhome]
  obtain ⟨hn, m, ht, hsrc, hdest, -, -, -, -, hbody⟩ :=
    (u.setDev ep l.2 l.1 { e with todo := 0, busy := true }).ask_effect ep (s.devHome l) (.mem (.dev .write ep l e))
  have hset : ((u.setDev ep l.2 l.1 { e with todo := 0, busy := true }).ask ep (s.devHome l) (.mem (.dev .write ep l e))).devLine ep l.2 l.1 =
      { e with todo := 0, busy := true } := (hn.devLine _ _ _).trans (State.devLine_setDev _ _ _ _ fun _ => Or.inr (Or.inr (Or.inl rfl)))
  intro t
  refine ⟨congrArg DevLine.busy hset, (congrArg DevLine.data hset).trans (by rw [he]), m, ?_, hsrc, hdest, _, hbody,
    rfl, rfl, rfl, ?_, ?_, ?_⟩
  · rw [ht]
    exact List.mem_append_right _ List.mem_cons_self
  all_goals rw [he]; rfl

/-- Bytes of a line of the launch queues' that are changed are written, or wait for the access that is on its way. -/
theorem State.devPutNum_writes (s : State) (l : DevAt) {i n : Nat} (x : Nat) (h : byteMask i n ≠ 0) :
    DevWrites s (s.devPutNum epLaunch l i n x) epLaunch l i n x := by
  obtain ⟨d, hd⟩ : ∃ d, s.devLine epLaunch l.2 l.1 = d := ⟨_, rfl⟩
  obtain ⟨data, hdata⟩ : ∃ v, v = BitVec.ofNat 1024 x <<< (8 * i) := ⟨_, rfl⟩
  have hput : s.devPutNum epLaunch l i n x = s.devPut epLaunch l data (byteMask i n) none := by rw [hdata]; rfl
  have htodo : d.todo ||| byteMask i n ≠ 0 := fun h0 => h (BitVec.or_eq_zero_iff.mp h0).2
  rw [DevWrites, hput, hd, ← hdata]
  obtain ⟨e, he⟩ : ∃ e, e = { d with data := merge d.data data (byteMask i n), todo := d.todo ||| byteMask i n, asid := none } :=
    ⟨_, rfl⟩
  obtain ⟨u, hu⟩ : ∃ u, u = s.setDev epLaunch l.2 l.1 e := ⟨_, rfl⟩
  have hgo : s.devPut epLaunch l data (byteMask i n) none = u.devGo epLaunch l := by rw [State.devPut, hd, hu, he]
  have hline : u.devLine epLaunch l.2 l.1 = e := hu ▸ s.devLine_setDev epLaunch l.2 l.1 fun h => absurd h (by decide)
  by_cases hb : d.busy = true
  · have hsame : u.devGo epLaunch l = u := State.devGo_of_busy (by rw [hline, he]; exact hb)
    rw [hgo, hsame, hline]
    exact ⟨by rw [he], fun _ => ⟨by rw [he]; exact hb, by rw [he]⟩, fun hf => absurd (hf.symm.trans hb) (by simp)⟩
  · have hb : d.busy = false := by simpa using hb
    by_cases hw : d.want = true
    · refine ⟨?_, fun hf => absurd (hf.symm.trans hb) (by simp), fun _ hf => absurd (hf.symm.trans hw) (by simp)⟩
      rw [hgo, State.devGo_of_want hline (by rw [he]; exact hb) (by rw [he]; exact hw)]
      obtain ⟨hn, -⟩ := (u.setDev epLaunch l.2 l.1 { e with want := false, busy := true }).ask_effect epLaunch (u.devHome l)
        (.mem (.dev .read epLaunch l e))
      rw [hn.devLine, State.devLine_setDev _ _ _ _ fun h => absurd h (by decide), he]
    · obtain ⟨hbusy, hd', m, hm, hsrc, hdest, r, hbody, hop, hln, hwho, -, hrd, hrm⟩ :=
        State.devPut_writes hd hb (by simpa using hw) data none htodo
      exact ⟨hd', fun hf => absurd (hf.symm.trans hb) (by simp), fun _ _ => ⟨hbusy, m, hm, hsrc, hdest, r, hbody, hop, hln, hwho,
        hrd.trans hd'.symm, hrm⟩⟩

end Sys2Proof.Machine
end

section
/-!
SUPPORT. What the engines of a core leave of its strands (R88, R94, R120, R377): of a strand they change its counts, its outstanding
fault and PENDING_ASYNC bits 0 to 2; and nothing of the launches and contexts. One lemma for each function that their work goes through.
-/

namespace Sys2Proof.Machine

/-- A strand but for what engines, walks and the device sequencer set in it. -/
def Strand.rest (t : Strand) : Strand :=
  { t with fault := none, wait := .no, scNo := none, cpc := 0, tlc := 0, pend := t.pend &&& ~~~7, behind := t.behind &&& ~~~7 }

/-- `t` comes of `s` by the work of engines. -/
structure Works (s t : State) : Prop where
  contexts : t.contexts = s.contexts
  queues : t.queues = s.queues
  killBusy : t.killBusy = s.killBusy
  killCtx : t.killCtx = s.killCtx
  res : ∀ c, (t.core c).res = (s.core c).res
  rest : ∀ c i, (t.strand c i).rest = (s.strand c i).rest

/-- A strand slot that a core does not have reads as the reset one. -/
theorem Core.strand_of_ge (x : Core) {i : Nat} (h : ¬ i < 4) : x.strand i = .reset := by
  simp [Core.strand, h]

/-- What a change of one strand leaves of it is left of every strand. -/
theorem State.strand_modStrand_keep {α : Type} (g : Strand → α) (s : State) (c i : Nat) {f : Strand → Strand}
    (h : g (f (s.strand c i)) = g (s.strand c i)) (k j : Nat) : g ((s.modStrand c i f).strand k j) = g (s.strand k j) := by
  by_cases he : (k, j) = (c, i)
  · obtain ⟨rfl, rfl⟩ := Prod.mk.inj he
    by_cases hj : j < 4
    · rw [State.strand_modStrand_same _ _ _ hj, h]
    · rw [State.strand, State.strand, Core.strand_of_ge _ hj, Core.strand_of_ge _ hj]
  · rw [State.strand_modStrand_other _ _ he]

namespace Works

variable {s₀ s t : State}

theorem refl (s : State) : Works s s := ⟨rfl, rfl, rfl, rfl, fun _ => rfl, fun _ _ => rfl⟩

theorem trans {u : State} (a : Works s t) (b : Works t u) : Works s u :=
  ⟨b.contexts.trans a.contexts, b.queues.trans a.queues, b.killBusy.trans a.killBusy, b.killCtx.trans a.killCtx,
    fun c => (b.res c).trans (a.res c), fun c i => (b.rest c i).trans (a.rest c i)⟩

theorem of_same (hc : t.cores = s.cores) (h1 : t.contexts = s.contexts) (h2 : t.queues = s.queues) (h3 : t.killBusy = s.killBusy)
    (h4 : t.killCtx = s.killCtx) : Works s t := by
  have hcore : ∀ c, t.core c = s.core c := fun c => by rw [State.core, State.core, hc]
  exact ⟨h1, h2, h3, h4, fun c => by rw [hcore], fun c i => by rw [State.strand, State.strand, hcore]⟩

theorem of_net (h : Works s₀ s) (hn : NetOnly s t) : Works s₀ t := by
  rw [NetOnly] at hn
  refine h.trans (of_same ?_ ?_ ?_ ?_ ?_) <;> rw [hn]

theorem request (h : Works s₀ s) (src dest cls nf ticket : Nat) (b : Body) : Works s₀ (s.request src dest cls nf ticket b) :=
  h.of_net (s.request_effect _ _ _ _ _ _).1

theorem ask (h : Works s₀ s) (src dest : Nat) (b : Body) : Works s₀ (s.ask src dest b) := h.of_net (s.ask_effect _ _ _).1

theorem foldl {α : Type} {f : State → α → State} (hf : ∀ s a, Works s₀ s → Works s₀ (f s a)) (l : List α) (h : Works s₀ s) :
    Works s₀ (l.foldl f s) :=
  List.foldlRecOn l f h fun s hs a _ => hf s a hs

theorem modCore (h : Works s₀ s) (c : Nat) {f : Core → Core} (hs : (f (s.core c)).strands = (s.core c).strands)
    (hr : (f (s.core c)).res = (s.core c).res) : Works s₀ (s.modCore c f) := by
  refine h.trans ⟨rfl, rfl, rfl, rfl, fun k => ?_, fun k i => ?_⟩ <;> by_cases hk : k = c
  · subst hk
    rw [State.core_modCore_same, hr]
  · rw [State.core_modCore_other _ _ hk]
  · subst hk
    rw [State.strand, State.core_modCore_same, Core.strand, hs]
    rfl
  · rw [State.strand, State.core_modCore_other _ _ hk]
    rfl

theorem modStrand (h : Works s₀ s) (c i : Nat) {f : Strand → Strand} (hf : (f (s.strand c i)).rest = (s.strand c i).rest) :
    Works s₀ (s.modStrand c i f) :=
  h.trans ⟨rfl, rfl, rfl, rfl, fun k => by rw [State.core_modStrand], s.strand_modStrand_keep Strand.rest c i hf⟩

theorem modTile (h : Works s₀ s) (c e : Nat) (f : Tile → Tile) : Works s₀ (s.modTile c e f) := h.modCore c rfl rfl

/-- A pending bit below 3 counts among what engines set. -/
theorem pendBit (h : Works s₀ s) (c i : Nat) {b : Nat} (hb : b < 3) : Works s₀ (s.pendBit c i b) := by
  refine h.modStrand c i ?_
  have hlow : (1 : W64) <<< b &&& ~~~7 = 0 ∧ (1 : BitVec 8) <<< b &&& ~~~7 = 0 := by
    obtain rfl | rfl | rfl : b = 0 ∨ b = 1 ∨ b = 2 := by omega
    all_goals decide
  have hp : setBit (s.strand c i).pend b true &&& ~~~7 = (s.strand c i).pend &&& ~~~7 := by
    rw [setBit, if_pos rfl, BitVec.and_or_distrib_right, hlow.1]
    exact BitVec.or_zero
  have hq : ((s.strand c i).behind ||| ((1 : BitVec 8) <<< b)) &&& ~~~7 = (s.strand c i).behind &&& ~~~7 := by
    rw [BitVec.and_or_distrib_right, hlow.2]
    exact BitVec.or_zero
  simp only [Strand.rest, hp, hq]

theorem tlcDown (h : Works s₀ s) (c i : Nat) : Works s₀ (s.tlcDown c i) := h.modStrand c i rfl

theorem sendClose (h : Works s₀ s) (c r : Nat) (es : List LogEntry) : Works s₀ (s.sendClose c r es) :=
  foldl (fun _ _ hs => hs.ask _ _ _) _ h

theorem tileEmpty (h : Works s₀ s) (c e : Nat) : Works s₀ (s.tileEmpty c e) := by
  unfold State.tileEmpty
  refine modTile ?_ c e _
  split
  · exact h.sendClose _ _ _
  · exact h

theorem tileStop (h : Works s₀ s) (c e out next origin : Nat) (killed : Bool) : Works s₀ (s.tileStop c e out next origin killed) := by
  unfold State.tileStop
  split
  · refine tlcDown ?_ c origin
    split
    · exact h.tileEmpty c e
    · exact h.modTile c e _
  · exact h.modTile c e _

theorem streamStop (h : Works s₀ s) (c sid : Nat) : Works s₀ (s.streamStop c sid) := by
  unfold State.streamStop
  split
  · exact h
  · split
    · exact h
    · exact modCore (foldl (fun _ _ hs => hs.modTile _ _ _) _ h) c rfl rfl

theorem pushEnded (h : Works s₀ s) (c sid : Nat) : Works s₀ (s.pushEnded c sid) := by
  unfold State.pushEnded
  split
  · exact h
  · exact h.modCore c rfl rfl

/-- The push of a job's stream, where it has one, is over. -/
theorem streamGivenUp (h : Works s₀ s) (c : Nat) (sid : Option Nat) :
    Works s₀ (match sid with | some k => (s.streamStop c k).pushEnded c k | none => s) := by
  cases sid with
  | none => exact h
  | some k => exact (h.streamStop c k).pushEnded c k

theorem tileFault (h : Works s₀ s) (c e num : Nat) (bad : W64) : Works s₀ (s.tileFault c e num bad) := by
  have hp := fun f => (h.modTile c e f).pendBit c (s.tile c e).job.origin (show 1 < 3 by decide)
  unfold State.tileFault
  dsimp only
  split
  · exact ((hp _).streamGivenUp c _).tileStop c e _ _ _ _
  · exact ((hp _).streamGivenUp c _).tileStop c e _ _ _ _
  · exact (hp _).tileStop c e _ _ _ _
  · exact hp _

theorem startWalk (h : Works s₀ s) (c : Nat) (w : Walk) : Works s₀ (s.startWalk c w) :=
  foldl (fun _ _ hs => hs.ask _ _ _) _ (h.modCore c rfl rfl)

theorem sendFault (h : Works s₀ s) (c : Nat) (svc addr : W64) (asid : BitVec 16) (kind acc src : Nat) (pc : W64) :
    Works s₀ (s.sendFault c svc addr asid kind acc src pc) := request (h.modCore c rfl rfl) _ _ _ _ _ _

theorem engineFault (h : Works s₀ s) (c : Nat) (e : EngAcc) (kind : Nat) (ht : s.engineFault c e kind = .waits t) : Works s₀ t := by
  unfold State.engineFault at ht
  extract_lets u svc at ht
  clear_value svc
  split at ht
  · cases ht
    exact h
  · split at ht
    · cases ht
    · cases ht
      exact modStrand (h.sendFault _ _ _ _ _ _ _ _) _ _ rfl

theorem engineXlate (h : Works s₀ s) (c : Nat) (e : EngAcc) (ht : s.engineXlate c e = .waits t) : Works s₀ t := by
  unfold State.engineXlate at ht
  split at ht
  · cases ht
  · split at ht
    · split at ht
      · cases ht
      · exact h.engineFault c e _ ht
    · split at ht
      · cases ht
        exact h
      · cases ht
        exact h.startWalk c _

theorem engineReq (h : Works s₀ s) (c src : Nat) (who : Who) (asid : BitVec 16) (pa : Nat) (p : Page) (direct : Bool) (op : MemOp)
    (mask : BitVec 128) (data : W1024) (sb : List W32) : Works s₀ (s.engineReq c src who asid pa p direct op mask data sb) :=
  h.of_net (s.engineReq_mails c src who asid pa p direct op mask data sb).1

/-! ## Fills and drains -/

theorem slotClean (h : Works s₀ s) (c e : Nat) : Works s₀ (s.slotClean c e) := by
  unfold State.slotClean
  dsimp only
  split
  · exact h
  · exact h.trans (of_same rfl rfl rfl rfl rfl)

/-- The entries of a log change the local store of a core alone. -/
theorem applied_keeps (e : Tile) (tc : Nat) (fmt : ETy) (l : List LogEntry) (x : Core) :
    (l.foldl (fun x k => x.applyEntry e tc fmt k) x).strands = x.strands ∧ (l.foldl (fun x k => x.applyEntry e tc fmt k) x).res = x.res :=
  List.foldlRecOn (motive := fun y : Core => y.strands = x.strands ∧ y.res = x.res) l _ ⟨rfl, rfl⟩ fun _ hy _ _ => hy

theorem fillDone (h : Works s₀ s) (c e : Nat) : Works s₀ (s.fillDone c e) := by
  unfold State.fillDone
  extract_lets k u v
  have hu : Works s₀ u := by
    unfold u
    split
    next l _ =>
      obtain ⟨h1, h2⟩ := applied_keeps k (s.tensor l.1).tc (s.tensor l.1).fmt k.log (s.core c)
      exact h.modCore c h1 h2
    next => exact h
  have hv : Works s₀ v := (hu.slotClean c e).modTile c e _
  split
  · exact hv.pushEnded c _
  · exact hv.tlcDown c _

theorem fillGo (h : Works s₀ s) (c e : Nat) : Works s₀ (s.fillGo c e) := by
  unfold State.fillGo
  dsimp only
  split
  · exact h.fillDone c e
  · split
    · exact h
    · split
      · exact h.tileFault c e _ _
      · split
        next ht => exact h.engineXlate c _ ht
        next => exact h.tileFault c e _ _
        next => exact (h.modTile c e _).engineReq _ _ _ _ _ _ _ _ _ _ _
  · exact h

theorem zeroSlot (h : Works s₀ s) (c o : Nat) (ws : List Nat) : Works s₀ (s.zeroSlot c o ws) := by
  unfold State.zeroSlot
  split
  · exact h
  · refine (h.modCore c (f := fun x => x.setSlot o { x.slot o with data := zeroWords (x.slot o).data ws }) rfl rfl).trans ?_
    exact of_same rfl rfl rfl rfl rfl

theorem zeroScales (h : Works s₀ s) (c o : Nat) (ws : List Nat) : Works s₀ (s.zeroScales c o ws) := by
  unfold State.zeroScales
  split
  · exact h
  · refine (h.modCore c (f := fun x => x.setSlot o
      { x.slot o with scales := ws.foldl (fun v w => v.setIfInBounds w 0) (x.slot o).scales }) rfl rfl).trans ?_
    exact of_same rfl rfl rfl rfl rfl

theorem zeroDrained (h : Works s₀ s) (c : Nat) (e : Tile) : Works s₀ (s.zeroDrained c e) := by
  unfold State.zeroDrained
  split
  · exact h
  · dsimp only
    split
    · exact (h.zeroSlot _ _ _).zeroScales _ _ _
    · exact h.zeroSlot _ _ _

theorem drainXlate (h : Works s₀ s) (c e o : Nat) (priv ring : Bool) (p : TileLine) (ht : s.drainXlate c e o priv ring p = .waits t) :
    Works s₀ t := by
  unfold State.drainXlate at ht
  dsimp only at ht
  split at ht
  · cases ht
  · exact h.engineXlate c _ ht

theorem drainGo (h : Works s₀ s) (c e : Nat) : Works s₀ (s.drainGo c e) := by
  unfold State.drainGo
  dsimp only
  split
  · split
    · exact h
    · split
      · exact ((h.zeroDrained c _).modTile c e _).of_net (State.requestMsg_effect _ _).1
      · split
        next ht => exact h.drainXlate c e _ _ _ _ ht
        next => exact h.tileFault c e _ _
        next => exact ((h.zeroDrained c _).modTile c e _).engineReq _ _ _ _ _ _ _ _ _ _ _
  · exact h

/-! ## Copies -/

theorem copyEnd (h : Works s₀ s) (c id st cause : Nat) (bad : W64) : Works s₀ (s.copyEnd c id st cause bad) := by
  unfold State.copyEnd
  dsimp only
  split
  · exact h
  · split
    · exact ((h.modStrand c _ rfl).modCore c rfl rfl).pendBit c _ (by decide)
    · exact (h.modStrand c _ rfl).modCore c rfl rfl

theorem copyFault (h : Works s₀ s) (c id num : Nat) (bad : W64) : Works s₀ (s.copyFault c id num bad) := by
  unfold State.copyFault
  split
  · exact h
  · split
    · exact h
    · split
      · exact h.copyEnd c id _ _ _
      · exact h.modCore c rfl rfl

theorem copySent (h : Works s₀ s) (c id n : Nat) (f : Nat → Copy → Copy) :
    Works s₀ (({ s with draws := s.draws + 1 } : State).modCore c (·.modCopy id (f n))) :=
  modCore (s := { s with draws := s.draws + 1 }) (h.trans (of_same rfl rfl rfl rfl rfl)) c rfl rfl

theorem copyGo (h : Works s₀ s) (c id : Nat) : Works s₀ (s.copyGo c id) := by
  have hsent := fun n => h.copySent c id n fun m k => { k with out := m, walking := false }
  unfold State.copyGo
  dsimp only
  split
  · exact h
  · split
    · exact h
    · split
      · exact h.copyEnd c id _ _ _
      · split
        · split
          next ht => exact (h.engineXlate c _ ht).modCore c rfl rfl
          next => exact h.copyFault c id _ _
          next =>
            split
            · exact (hsent 1).engineReq _ _ _ _ _ _ _ _ _ _ _
            · exact (hsent 1).engineReq _ _ _ _ _ _ _ _ _ _ _
        · split
          · split
            · exact (hsent 1).request _ _ _ _ _ _
            · exact h.copyFault c id _ _
          · split
            · exact (hsent 1).request _ _ _ _ _ _
            · exact foldl (fun _ _ hs => hs.request _ _ _ _ _ _) _ ((hsent _).modCore c rfl rfl)
            · exact h.copyFault c id _ _

/-- The engines of a core that go on when a fault has been answered (R377). -/
theorem enginesGo (h : Works s₀ s) (c : Nat) : Works s₀ (s.enginesGo c) := by
  unfold State.enginesGo
  refine foldl (fun s e hs => ?_) _ (foldl (fun s e hs => ?_) _ h)
  · split
    · exact hs.fillGo c _
    · exact hs.drainGo c _
    · exact hs
  · split
    · split
      · exact hs.copyGo c _
      · exact hs
    · exact hs

/-! ## What a strand waits for elsewhere -/

theorem endTicket (h : Works s₀ s) (k : ScTicket) : Works s₀ (s.endTicket k) := h.request _ _ _ _ _ _

theorem withdrawSc (h : Works s₀ s) (c i : Nat) (sent : Bool) : Works s₀ (s.withdrawSc c i sent) := by
  unfold State.withdrawSc
  extract_lets cl u v
  have hu : Works s₀ u := by
    unfold u
    split
    · split
      · exact h
      · exact (h.modStrand c i rfl).endTicket _
    · exact h
  have hv : Works s₀ v := by
    unfold v
    split
    · exact hu.trans (of_same rfl rfl rfl rfl rfl)
    · exact hu
  exact hv.modCore c rfl rfl

theorem unstall (h : Works s₀ s) (c i : Nat) : Works s₀ (s.unstall c i) :=
  foldl (fun s k hs => by
    split
    · exact hs
    · exact hs.modCore k rfl rfl) _ h

/-- An instruction that can restart gives up what it waits for (R308, R377, R379). -/
theorem withdraw (h : Works s₀ s) (c i : Nat) : Works s₀ (s.withdraw c i) := by
  unfold State.withdraw
  extract_lets u v w
  have hu : Works s₀ u := h.trans (of_same rfl rfl rfl rfl rfl)
  clear_value u
  have hv : Works s₀ v := (hu.withdrawSc c i false).unstall c i
  clear_value v
  have hw : Works s₀ w := hv.modCore c rfl rfl
  clear_value w
  split
  · exact enginesGo (hw.modStrand c i rfl) c
  · exact hw.modStrand c i rfl

end Works

end Sys2Proof.Machine
end

section
/-!
PROOFS. An asynchronous cause that is taken at a strand's boundary: PENDING_ASYNC bits 3 to 7 (R374, R375, R379).
-/

namespace Sys2Proof.Machine

/-! ## Which bit is due -/

/-- Bits that are cleared one by one where nothing stands behind them. -/
theorem foldl_setBit_getLsbD (f : Nat → Bool) (l : List Nat) (p : W64) {j : Nat} (hj : j < 64) :
    (l.foldl (fun p b => if f b then p else setBit p b false) p).getLsbD j = (p.getLsbD j && l.all fun b => f b || b != j) := by
  induction l generalizing p with
  | nil => simp
  | cons b l ih =>
    rw [List.foldl_cons, ih, List.all_cons]
    by_cases hf : f b = true
    · simp [hf]
    · rw [if_neg hf, setBit_getLsbD _ _ _ _ hj, Bool.eq_false_iff.mpr hf, Bool.false_or]
      by_cases hb : j = b
      · simp [hb]
      · have hbj : (b != j) = true := bne_iff_ne.mpr fun e => hb e.symm
        simp [hb, hbj]

theorem State.pendBacked_getLsbD (s : State) (c i : Nat) {j : Nat} (hj : j < 64) : (s.pendBacked c i).getLsbD j =
    ((s.strand c i).pend.getLsbD j && (List.range 8).all fun b => s.backed c i b || b != j) := foldl_setBit_getLsbD _ _ _ hj

/-- A bit of 3 to 7 that an event stands behind. -/
theorem State.backed_of_behind {s : State} {c i b : Nat} (hb : 3 ≤ b) (h : (s.strand c i).behind.getLsbD b = true) :
    s.backed c i b = true := by
  obtain ⟨k, rfl⟩ : ∃ k, b = k + 3 := ⟨b - 3, by omega⟩
  exact h

/-- The bit that is due stays due where no other bit is set beside it. -/
theorem Strand.dueBit_of_fewer {t : Strand} {p : W64} {b : Nat} (h : t.dueBit = some b) (hb : p.getLsbD b = true)
    (hp : ∀ j, j < 8 → p.getLsbD j = true → t.pend.getLsbD j = true) : ({ t with pend := p } : Strand).dueBit = some b := by
  unfold Strand.dueBit at h ⊢
  by_cases h6 : (t.pend.getLsbD 6 && t.preResume) = true
  · rw [if_pos h6] at h
    cases h
    exact if_pos (by simp_all)
  · rw [if_neg h6] at h
    split at h
    case isFalse => cases h
    case isTrue hie =>
      obtain ⟨-, hmem, hfirst⟩ := List.find?_range_eq_some.mp h
      have hn6 : ¬(p.getLsbD 6 && t.preResume) = true := fun hc => h6 (by
        rw [Bool.and_eq_true] at hc ⊢
        exact ⟨hp 6 (by decide) hc.1, hc.2⟩)
      refine (if_neg hn6).trans ((if_pos hie).trans (List.find?_range_eq_some.mpr ⟨hb, hmem, fun j hj => ?_⟩))
      have hj8 : j < 8 := hj.trans (List.mem_range.mp hmem)
      have hno := hfirst j hj
      cases hpj : p.getLsbD j
      · rfl
      · simp [hp j hj8 hpj] at hno

/-! ## What a bit delivers -/

/-- The cause that a bit of 3 to 7 delivers (R374). -/
def asyncNum (b : Nat) (preResume : Bool) : Nat :=
  if b = 3 then 35 else if b = 4 then 36 else if b = 5 then 37 else if b = 7 then 39 else if preResume then 40 else 38

def Strand.bitDropped (t : Strand) (b : Nat) : Strand :=
  { t with pend := setBit t.pend b false, behind := t.behind &&& ~~~((1 : BitVec 8) <<< b) }

/-- A strand whose bit is being delivered: that of a pre-emption asked for before RESUME was stays (R374). -/
def Strand.bitTaken (t : Strand) (b : Nat) : Strand :=
  if b == 6 && t.preResume && t.preempting then t else t.bitDropped b

def State.asyncCause (s : State) (c b : Nat) (preResume : Bool) : Cause :=
  { num := asyncNum b preResume, bad := if b = 7 then (s.core c).faultOvf else 0, async := true }

/-- A strand with PENDING_ASYNC as its boundary finds it. -/
def Strand.settledAt (p : W64) (t : Strand) : Strand := { t with pend := p }

/-- What a bit of 3 to 7 gives, and the strand without it. -/
theorem State.deliverBit_eq {s : State} {c i b : Nat} (hi : i < 4) (h3 : 3 ≤ b) (h8 : b < 8) : ∃ v,
    s.deliverBit c i b = (v, some (s.asyncCause c b (s.strand c i).preResume)) ∧ v.strand c i = (s.strand c i).bitTaken b ∧
      (v.core c).res = (s.core c).res := by
  have hdrop : ∀ f : Strand → Strand, ((s.modStrand c i f).core c).res = (s.core c).res := fun f => by rw [State.core_modStrand]
  obtain rfl | rfl | rfl | rfl | rfl : b = 3 ∨ b = 4 ∨ b = 5 ∨ b = 6 ∨ b = 7 := by omega
  case inr.inr.inr.inl =>
    by_cases h : ((s.strand c i).preResume && (s.strand c i).preempting) = true
    · have ht : (s.strand c i).bitTaken 6 = s.strand c i := if_pos (by simpa using h)
      refine ⟨s, ?_, ht.symm, rfl⟩
      unfold State.deliverBit
      simp only [h, if_true, State.asyncCause, asyncNum]
      rfl
    · have ht : (s.strand c i).bitTaken 6 = (s.strand c i).bitDropped 6 := if_neg (by simpa using h)
      refine ⟨s.modStrand c i (·.bitDropped 6), ?_, (State.strand_modStrand_same _ _ _ hi).trans ht.symm, hdrop _⟩
      unfold State.deliverBit
      simp only [h, State.asyncCause, asyncNum]
      rfl
  all_goals exact ⟨_, rfl, State.strand_modStrand_same _ _ _ hi, hdrop _⟩

/-! ## The delivery -/

/-- The strand once its cause is taken: without a handler, the save engine takes it or a restored strand goes on (R379). -/
def State.asyncTaken (s : State) (c i : Nat) (x : Cause) (pc : W64) (noHandler : Bool) : State :=
  if noHandler then s.modStrand c i fun t => if t.preResume then { t with preResume := false } else { t with saved := true, epc := t.pc }
  else (s.modStrand c i fun t => { t with preResume := false }).takeTrap c i x pc .instr

theorem State.asyncDeliver_eq {s v : State} {c i b : Nat} {x : Cause}
    (hgo : ((s.strand c i).run != .running || (s.strand c i).saved || !s.restarts c i) = false)
    (hdue : ((s.strand c i).settledAt (s.pendBacked c i)).dueBit = some b)
    (hv : (s.modStrand c i (Strand.settledAt (s.pendBacked c i))).deliverBit c i b = (v, some x)) :
    s.asyncDeliver c i = some ((v.withdraw c i).asyncTaken c i x (s.strand c i).pc (decide (b = 6) && !(s.core c).res)) := by
  unfold State.asyncDeliver
  refine (if_neg (by rw [hgo]; exact Bool.false_ne_true)).trans ?_
  dsimp only
  split
  next hn => exact absurd (hn.symm.trans hdue) (by simp)
  next k hk =>
    cases (Option.some.inj (hk.symm.trans hdue))
    rw [show (s.modStrand c i fun t => { t with pend := s.pendBacked c i }).deliverBit c i b = (v, some x) from hv]
    exact (apply_ite some _ _ _).symm

/-- The strand as a delivery leaves it before it enters a handler: the bit is taken, and the rest is what engines leave. -/
structure Delivers (s w : State) (c i b : Nat) : Prop where
  res : (w.core c).res = (s.core c).res
  rest : ∃ p, (w.strand c i).rest = (((s.strand c i).settledAt p).bitTaken b).rest ∧ p.getLsbD b = true

theorem exec_asyncDelivery {s : State} {c i b : Nat} (hc : c < 12288) (hi : i < 4) (hup : s.coreUp c = true)
    (hf : (s.core c).fenced = false) (hrun : (s.strand c i).run = RunState.running) (hsaved : (s.strand c i).saved = false)
    (hwait : (s.strand c i).wait = .no) (hdue : (s.strand c i).dueBit = some b) (h3 : 3 ≤ b) (h8 : b < 8)
    (hb : (s.strand c i).behind.getLsbD b = true) : ∃ w, Delivers s w c i b ∧ exec (.asyncDelivery c i) s =
      .next (w.asyncTaken c i (s.asyncCause c b (s.strand c i).preResume) (s.strand c i).pc (b = 6 && !(s.core c).res)) := by
  obtain ⟨p, hp⟩ : ∃ p, p = s.pendBacked c i := ⟨_, rfl⟩
  have hpend : (s.strand c i).pend.getLsbD b = true := by
    unfold Strand.dueBit at hdue
    split at hdue
    next h6 =>
      cases hdue
      exact (Bool.and_eq_true_iff.mp h6).1
    next =>
      split at hdue
      · exact (List.find?_range_eq_some.mp hdue).1
      · cases hdue
  have hpb : p.getLsbD b = true := by
    rw [hp, State.pendBacked_getLsbD _ _ _ (by omega), hpend, Bool.true_and, List.all_eq_true]
    intro k _
    by_cases hk : k = b
    · rw [hk, State.backed_of_behind h3 hb, Bool.true_or]
    · simp [hk]
  have hless : ∀ j, j < 8 → p.getLsbD j = true → (s.strand c i).pend.getLsbD j = true := fun j hj h => by
    rw [hp, State.pendBacked_getLsbD _ _ _ (by omega)] at h
    exact (Bool.and_eq_true_iff.mp h).1
  have hdue' : ((s.strand c i).settledAt p).dueBit = some b := Strand.dueBit_of_fewer hdue hpb hless
  obtain ⟨u, hu⟩ : ∃ u, u = s.modStrand c i (Strand.settledAt p) := ⟨_, rfl⟩
  have hus : u.strand c i = (s.strand c i).settledAt p := hu ▸ State.strand_modStrand_same _ _ _ hi
  have huc : (u.core c).res = (s.core c).res ∧ (u.core c).faultOvf = (s.core c).faultOvf := by
    rw [hu, State.core_modStrand]
    exact ⟨rfl, rfl⟩
  obtain ⟨v, hv, hvs, hvr⟩ := State.deliverBit_eq (s := u) (c := c) hi h3 h8
  have hcause : u.asyncCause c b (u.strand c i).preResume = s.asyncCause c b (s.strand c i).preResume := by
    rw [State.asyncCause, State.asyncCause, huc.2, hus]
    rfl
  rw [hcause] at hv
  have hw := (Works.refl v).withdraw c i
  refine ⟨v.withdraw c i, ⟨(hw.res c).trans (hvr.trans huc.1), p, (hw.rest c i).trans (by rw [hvs, hus]), hpb⟩, ?_⟩
  have hgo : ((s.strand c i).run != .running || (s.strand c i).saved || !s.restarts c i) = false := by
    have hr : s.restarts c i = true := by
      rw [State.restarts, hwait]
      rfl
    simp [hrun, hsaved, hr]
  have hexec : exec (.asyncDelivery c i) s = .next ((s.asyncDeliver c i).getD s) :=
    (if_neg (by simp [hc]; omega)).trans (if_neg (by simp [hup, hf]))
  rw [hexec, State.asyncDeliver_eq hgo (hp ▸ hdue') (by rw [← hp, ← hu]; exact hv)]
  rfl

/-- A delivery leaves the strand its PC, its registers and its state, but for the bit. -/
theorem Delivers.strand {s w : State} {c i b : Nat} (h : Delivers s w c i b) (h3 : 3 ≤ b) (h8 : b < 8) :
    (w.strand c i).pc = (s.strand c i).pc ∧ (w.strand c i).g = (s.strand c i).g ∧ (w.strand c i).preResume = (s.strand c i).preResume ∧
      (w.strand c i).saved = (s.strand c i).saved ∧
      (w.strand c i).pend.getLsbD b = (b == 6 && (s.strand c i).preResume && (s.strand c i).preempting) := by
  obtain ⟨p, hrest, hp⟩ := h.rest
  generalize w.strand c i = t at hrest ⊢
  generalize s.strand c i = u at hrest ⊢
  have hkeep : ((u.settledAt p).bitTaken b).pc = u.pc ∧ ((u.settledAt p).bitTaken b).g = u.g ∧
      ((u.settledAt p).bitTaken b).preResume = u.preResume ∧ ((u.settledAt p).bitTaken b).saved = u.saved := by
    unfold Strand.bitTaken
    split <;> exact ⟨rfl, rfl, rfl, rfl⟩
  have hbit : ((u.settledAt p).bitTaken b).pend.getLsbD b = (b == 6 && u.preResume && u.preempting) := by
    unfold Strand.bitTaken
    split
    next hk => exact hp.trans hk.symm
    next hk =>
      refine (setBit_getLsbD _ _ _ _ (by omega)).trans ((if_pos rfl).trans ?_)
      exact (Bool.eq_false_iff.mpr hk).symm
  have hhigh : ∀ q : W64, (q &&& ~~~7).getLsbD b = q.getLsbD b := fun q => by
    have hmask : (~~~7 : W64).getLsbD b = true := by
      obtain rfl | rfl | rfl | rfl | rfl : b = 3 ∨ b = 4 ∨ b = 5 ∨ b = 6 ∨ b = 7 := by omega
      all_goals decide
    rw [BitVec.getLsbD_and, hmask, Bool.and_true]
  obtain ⟨hpc, hg, hpre, hsv⟩ := hkeep
  have hpend := congrArg (fun t : Strand => t.pend.getLsbD b) hrest
  refine ⟨(congrArg Strand.pc hrest).trans hpc, (congrArg Strand.g hrest).trans hg, (congrArg Strand.preResume hrest).trans hpre,
    (congrArg Strand.saved hrest).trans hsv, ?_⟩
  exact ((hhigh _).symm.trans (hpend.trans (hhigh _))).trans hbit

/-- CAUSE of an asynchronous cause with no more to tell. -/
theorem State.asyncCause_word (s : State) (c b : Nat) (pre : Bool) : (s.asyncCause c b pre).word = BitVec.ofNat 64 (asyncNum b pre + 256) := by
  have hnum : asyncNum b pre % 256 = asyncNum b pre := by
    unfold asyncNum
    split_ifs <;> rfl
  simp only [Cause.word, State.asyncCause, hnum]
  rfl

theorem Strand.enter_ie (t : Strand) (x : Cause) (pc : W64) : (t.enter x pc).ie = false := by
  unfold Strand.enter Strand.ie
  rw [setBit_getLsbD _ _ _ _ (by decide), if_neg (by decide), setBit_getLsbD _ _ _ _ (by decide), if_neg (by decide),
    setBit_getLsbD _ _ _ _ (by decide), if_pos rfl]

/-- An asynchronous cause is taken at a boundary: the strand enters its handler, or with RES = 0 the save engine has it or the restored
strand goes on (R374, R379). -/
theorem asyncDelivery_effect {s : State} {c i b : Nat} (hc : c < 12288) (hi : i < 4) (hup : s.coreUp c = true)
    (hf : (s.core c).fenced = false) (hrun : (s.strand c i).run = RunState.running) (hsaved : (s.strand c i).saved = false)
    (hwait : (s.strand c i).wait = .no) (hdue : (s.strand c i).dueBit = some b) (h3 : 3 ≤ b) (h8 : b < 8)
    (hb : (s.strand c i).behind.getLsbD b = true) :
    let u := s.strand c i
    ((s.core c).res = true → ∃ t, exec (.asyncDelivery c i) s = .next t ∧ (t.strand c i).pc = 0x7E000 ∧
      (t.strand c i).cause = BitVec.ofNat 64 (asyncNum b u.preResume + 256) ∧ (t.strand c i).epc = u.pc ∧ (t.strand c i).prv = true ∧
      (t.strand c i).badaddr = (if b = 7 then (s.core c).faultOvf else 0) ∧ (t.strand c i).ie = false ∧
      (t.strand c i).pend.getLsbD b = (b == 6 && u.preResume && u.preempting) ∧ (t.strand c i).preResume = false ∧
      (t.strand c i).g = u.g) ∧
    ((s.core c).res = false → b = 6 → ∃ t, exec (.asyncDelivery c i) s = .next t ∧
      (u.preResume = false → (t.strand c i).saved = true ∧ (t.strand c i).epc = u.pc) ∧
      (u.preResume = true → (t.strand c i).saved = false ∧ (t.strand c i).preResume = false ∧ (t.strand c i).pc = u.pc) ∧
      (t.strand c i).g = u.g) := by
  intro u
  obtain ⟨w, hw, hexec⟩ := exec_asyncDelivery hc hi hup hf hrun hsaved hwait hdue h3 h8 hb
  rw [show s.strand c i = u from rfl] at hexec
  obtain ⟨hpc, hg, hpre, hsv, hbit⟩ := hw.strand h3 h8
  refine ⟨fun hres => ?_, fun hres hb6 => ?_⟩
  · obtain ⟨x, hx⟩ : ∃ x, x = s.asyncCause c b u.preResume := ⟨_, rfl⟩
    obtain ⟨v, hv⟩ : ∃ v, v = w.modStrand c i fun t => { t with preResume := false } := ⟨_, rfl⟩
    have hvs : v.strand c i = { w.strand c i with preResume := false } := hv ▸ State.strand_modStrand_same _ _ _ hi
    have hvr : (v.core c).res = true := by rw [hv, State.core_modStrand]; exact hw.res.trans hres
    have ht : w.asyncTaken c i x u.pc (decide (b = 6) && !(s.core c).res) = v.modStrand c i (·.enter x u.pc) := by
      rw [hres, Bool.not_true, Bool.and_false, State.asyncTaken, if_neg Bool.false_ne_true, ← hv, State.takeTrap,
        if_neg (by rw [hx]; simp [State.asyncCause]), if_pos hvr]
    have hs : (v.modStrand c i (·.enter x u.pc)).strand c i = ({ w.strand c i with preResume := false } : Strand).enter x u.pc := by
      rw [State.strand_modStrand_same _ _ _ hi, hvs]
    rw [← hx] at hexec
    refine ⟨v.modStrand c i (·.enter x u.pc), hexec.trans (congrArg _ ht), ?_⟩
    rw [hs]
    refine ⟨rfl, (hx ▸ s.asyncCause_word c b _ : x.word = _), rfl, ?_, by rw [hx]; rfl, ?_, hbit, rfl, hg⟩
    · exact (setBit_getLsbD _ _ _ _ (by decide)).trans (if_pos rfl)
    · exact Strand.enter_ie _ _ _
  · have ht : ∀ x, w.asyncTaken c i x u.pc (decide (b = 6) && !(s.core c).res) = w.modStrand c i fun t =>
        if t.preResume then { t with preResume := false } else { t with saved := true, epc := t.pc } := fun x => by
      rw [hres, hb6]
      rfl
    refine ⟨_, hexec.trans (congrArg _ (ht _)), ?_⟩
    rw [State.strand_modStrand_same _ _ _ hi, hpre]
    cases (s.strand c i).preResume
    · exact ⟨fun _ => ⟨rfl, hpc⟩, fun h => Bool.noConfusion h, hg⟩
    · exact ⟨fun h => Bool.noConfusion h, fun _ => ⟨hsv.trans hsaved, rfl, hpc⟩, hg⟩

end Sys2Proof.Machine
end

section
/-!
SUPPORT. What the end of strands' work leaves of launches, contexts and the other strands (R95, R363, R370, R381, R401).
-/

namespace Sys2Proof.Machine

/-- `t` comes of `s` by the end of strands and of cocoons that wait: each launch is still there, contexts are as before, and a strand has
its cocoon or none. -/
structure Ends (s t : State) : Prop where
  contexts : t.contexts = s.contexts
  killBusy : t.killBusy = s.killBusy
  killCtx : t.killCtx = s.killCtx
  launch : ∀ q, (t.queue q).launch.isSome = (s.queue q).launch.isSome
  cocoon : ∀ c i, (t.strand c i).cocoon = (s.strand c i).cocoon ∨ (t.strand c i).cocoon = none

theorem State.queue_modQueue_other (s : State) {q k : Nat} (f : Queue → Queue) (h : k ≠ q) : (s.modQueue q f).queue k = s.queue k :=
  SMap.getD_set_other _ _ _ h

namespace Ends

variable {s₀ s t : State}

theorem refl (s : State) : Ends s s := ⟨rfl, rfl, rfl, fun _ => rfl, fun _ _ => .inl rfl⟩

theorem trans {u : State} (a : Ends s t) (b : Ends t u) : Ends s u :=
  ⟨b.contexts.trans a.contexts, b.killBusy.trans a.killBusy, b.killCtx.trans a.killCtx, fun q => (b.launch q).trans (a.launch q),
    fun c i => (b.cocoon c i).elim (fun h => (a.cocoon c i).imp h.trans h.trans) .inr⟩

theorem works (h : Ends s₀ s) (hw : Works s t) : Ends s₀ t :=
  h.trans ⟨hw.contexts, hw.killBusy, hw.killCtx, fun q => by rw [State.queue, State.queue, hw.queues],
    fun c i => .inl (show (t.strand c i).rest.cocoon = (s.strand c i).rest.cocoon by rw [hw.rest])⟩

theorem of_same (h : Ends s₀ s) (hc : t.cores = s.cores) (h1 : t.contexts = s.contexts) (h2 : t.queues = s.queues)
    (h3 : t.killBusy = s.killBusy) (h4 : t.killCtx = s.killCtx) : Ends s₀ t := h.works (.of_same hc h1 h2 h3 h4)

theorem foldl {α : Type} {f : State → α → State} (hf : ∀ s a, Ends s₀ s → Ends s₀ (f s a)) (l : List α) (h : Ends s₀ s) :
    Ends s₀ (l.foldl f s) := List.foldlRecOn l f h fun s hs a _ => hf s a hs

theorem modQueue (h : Ends s₀ s) (q : Nat) {f : Queue → Queue} (hf : (f (s.queue q)).launch.isSome = (s.queue q).launch.isSome) :
    Ends s₀ (s.modQueue q f) := by
  refine h.trans ⟨rfl, rfl, rfl, fun k => ?_, fun _ _ => .inl rfl⟩
  by_cases hk : k = q
  · rw [hk, State.queue_modQueue_same, hf]
  · rw [State.queue_modQueue_other _ _ hk]

theorem modLaunch (h : Ends s₀ s) (q : Nat) (f : Launch → Launch) : Ends s₀ (s.modLaunch q f) := h.modQueue q (Option.isSome_map ..)

theorem countEnded (h : Ends s₀ s) (k : Cocoon) : Ends s₀ (s.countEnded k) := by
  unfold State.countEnded
  split
  · exact h
  · exact h.modQueue _ (Option.isSome_map ..)

/-- A strand that loses its cocoon, with the rest of the state as it was. -/
theorem modStrand (h : Ends s₀ s) (c i : Nat) {f : Strand → Strand} (hf : (f (s.strand c i)).cocoon = none) :
    Ends s₀ (s.modStrand c i f) := by
  refine h.trans ⟨rfl, rfl, rfl, fun _ => rfl, fun k j => ?_⟩
  by_cases he : (k, j) = (c, i)
  · obtain ⟨rfl, rfl⟩ := Prod.mk.inj he
    by_cases hj : j < 4
    · exact .inr (by rw [State.strand_modStrand_same _ _ _ hj, hf])
    · exact .inl (by rw [State.strand, State.strand, Core.strand_of_ge _ hj, Core.strand_of_ge _ hj])
  · exact .inl (by rw [State.strand_modStrand_other _ _ he])

theorem modCore (h : Ends s₀ s) (c : Nat) {f : Core → Core} (hs : (f (s.core c)).strands = (s.core c).strands)
    (hr : (f (s.core c)).res = (s.core c).res) : Ends s₀ (s.modCore c f) := h.works ((Works.refl s).modCore c hs hr)

end Ends

/-- The tiles of a strand that is killed end by the work of their engines. -/
theorem Works.killTiles {s₀ s : State} (h : Works s₀ s) (c i : Nat) (gone : Nat → Nat) : Works s₀ (s.killTiles c i gone) := by
  unfold State.killTiles
  refine foldl (fun s e hs => ?_) (s.core c).tiles h
  split
  iterate 4
    split
    · exact hs.tileStop _ _ _ _ _ _
    · exact hs
  exact hs

theorem State.park_cores (s : State) (c i : Nat) : (s.park c i).cores = s.cores := by
  unfold State.park
  split <;> rfl

/-- A strand slot is parked at most. -/
theorem Ends.park {s₀ s : State} (h : Ends s₀ s) (c i : Nat) : Ends s₀ (s.park c i) := by
  unfold State.park
  split
  · exact h
  · exact h.of_same rfl rfl rfl rfl rfl

/-- A strand that is killed has no cocoon any more; what else its end changes is the work of engines (R95, R381). -/
theorem State.killStrand_cocoon (s : State) (c : Nat) {i : Nat} (hi : i < 4) :
    Ends s (s.killStrand c i) ∧ ((s.killStrand c i).strand c i).cocoon = none := by
  obtain ⟨e, he⟩ : ∃ e, s.killStrand c i = e := ⟨_, rfl⟩
  rw [he]
  unfold State.killStrand at he
  extract_lets x t sent mine gone u v held w y z a b at he
  have hu : Works s u := .of_same rfl rfl rfl rfl rfl
  clear_value u
  have hv : Works s v := (hu.withdrawSc c i sent).unstall c i
  clear_value v
  have hw : Works s w := hv.killTiles c i _
  clear_value w
  have hy : Works s y := hw.modCore c rfl rfl
  clear_value y
  have hz : Works s z := Works.foldl (fun s e hs => by
    split
    · exact (hs.streamStop c e.1).pushEnded c e.1
    · exact hs) _ hy
  clear_value z
  have ha : Ends s a := by
    unfold a
    split
    · exact ((Ends.refl s).works hz).countEnded _
    · exact (Ends.refl s).works hz
  clear_value a
  have hb : Ends s b := ha.modStrand c i rfl
  have hnone : (b.strand c i).cocoon = none := by
    unfold b
    rw [State.strand_modStrand_same _ _ _ hi]
  clear_value b
  rw [← he]
  split
  · refine ⟨hb.park c i, ?_⟩
    rw [State.strand, State.core, State.park_cores]
    exact hnone
  · exact ⟨hb, hnone⟩

namespace Ends

variable {s₀ s t : State}

theorem killStrand (h : Ends s₀ s) (c : Nat) {i : Nat} (hi : i < 4) : Ends s₀ (s.killStrand c i) := h.trans (s.killStrand_cocoon c hi).1

theorem dropPlaced (h : Ends s₀ s) (c q : Nat) : Ends s₀ (s.dropPlaced c q) := by
  unfold State.dropPlaced
  extract_lets x mine u
  have hu : Ends s₀ u := foldl (fun _ k hs => hs.countEnded k) _ h
  clear_value u
  split
  · exact hu
  · exact hu.modCore c rfl rfl

theorem killCore (h : Ends s₀ s) (c q : Nat) : Ends s₀ (s.killCore c q) := by
  refine List.foldlRecOn (List.range 4) _ (h.dropPlaced c q) fun s hs i hi => ?_
  split
  · exact hs.killStrand c (List.mem_range.mp hi)
  · exact hs

theorem dropImages (h : Ends s₀ s) (q : Nat) : Ends s₀ (s.dropImages q) := by
  unfold State.dropImages
  extract_lets mine u
  have hu : Ends s₀ u := foldl (fun s m hs => by
    split
    · exact hs.countEnded _
    · exact hs) _ h
  exact hu.of_same rfl rfl rfl rfl rfl

theorem killLaunch (h : Ends s₀ s) (q : Nat) : Ends s₀ (s.killLaunch q) := by
  have hu := h.dropImages q
  unfold State.killLaunch
  generalize s.dropImages q = u at hu ⊢
  refine foldl (fun v e hs => ?_) u.cores hu
  exact hs.killCore e.1 q

theorem endLaunch (h : Ends s₀ s) (q stat cause : Nat) : Ends s₀ (s.endLaunch q stat cause) := by
  unfold State.endLaunch
  exact (h.modQueue q (Option.isSome_map ..)).killLaunch q

end Ends

end Sys2Proof.Machine
end

section
/-!
PROOFS. The watchdog: its three steps and the end of a launch that it has stopped (R370).
-/

namespace Sys2Proof.Machine

/-! ## A launch whose queue keeps it -/

/-- A launch that is changed has the phase of the change. -/
theorem State.modLaunch_phase {s : State} {q : Nat} {f : Launch → Launch} {p : LPhase} (h : (s.queue q).launch.isSome = true)
    (hf : ∀ l, (f l).phase = p) : (((s.modLaunch q f).queue q).launch.map (·.phase)) = some p := by
  obtain ⟨l, hl⟩ := Option.isSome_iff_exists.mp h
  rw [State.modLaunch, State.queue_modQueue_same, hl]
  exact congrArg some (hf l)

/-- `t` differs from `s` in its cores at most. -/
def CoresOnly (s t : State) : Prop := t = { s with cores := t.cores }

theorem CoresOnly.trans {s t u : State} (a : CoresOnly s t) (b : CoresOnly t u) : CoresOnly s u := by
  rw [CoresOnly] at *
  rw [b, a]

theorem CoresOnly.foldl {α : Type} {s₀ s : State} {f : State → α → State} (hf : ∀ s a, CoresOnly s (f s a)) (l : List α)
    (h : CoresOnly s₀ s) : CoresOnly s₀ (l.foldl f s) := List.foldlRecOn l f h fun s hs a _ => hs.trans (hf s a)

theorem CoresOnly.queue {s t : State} (h : CoresOnly s t) (q : Nat) : t.queue q = s.queue q := by
  rw [CoresOnly] at h
  rw [h]
  rfl

theorem CoresOnly.context {s t : State} (h : CoresOnly s t) (n : Nat) : t.context n = s.context n := by
  rw [CoresOnly] at h
  rw [h]
  rfl

theorem State.askPreempt_coresOnly (s : State) (n : Nat) : CoresOnly s (s.askPreempt n) := by
  unfold State.askPreempt
  exact CoresOnly.foldl (f := fun (s : State) c => s.modCore c (·.askPreempt n)) (fun _ _ => rfl) _ rfl

theorem State.stopClock_launch (s : State) (n q : Nat) : ((s.stopClock n).queue q).launch.isSome = (s.queue q).launch.isSome := by
  obtain ⟨f, hf, hmap⟩ : ∃ f : Queue → Queue, (∀ x, (f x).launch.isSome = x.launch.isSome) ∧
      (s.stopClock n).queues = s.queues.map fun e => (e.1, f e.2) :=
    ⟨fun x => { x with launch := x.launch.map fun l =>
      if l.ctx = n && l.phase = .running then { l with sched := l.sched + (s.timecode.toNat - l.phaseTicks) } else l },
      fun _ => Option.isSome_map .., rfl⟩
  rw [State.queue, State.queue, hmap, SMap.getD, SMap.getD, SMap.get?_map]
  cases SMap.get? s.queues q with
  | none => rfl
  | some x => exact hf x

/-- A context that leaves its cores holds none, and its launches are still there (R366, R367). -/
theorem State.deschedule_effect (s : State) (n st : Nat) : ((s.deschedule n st).context n).onCores = false ∧
    ∀ q, ((s.deschedule n st).queue q).launch.isSome = (s.queue q).launch.isSome := by
  obtain ⟨u, hu⟩ : ∃ u, u = if (s.context n).onCores then s.stopClock n else s := ⟨_, rfl⟩
  obtain ⟨v, hv⟩ : ∃ v, v = u.modContext n fun x => { x with st, onCores := false } := ⟨_, rfl⟩
  have hd : s.deschedule n st = v.askPreempt n := by rw [hv, hu]; rfl
  have ho := v.askPreempt_coresOnly n
  rw [hd]
  refine ⟨?_, fun q => ?_⟩
  · rw [ho.context, hv]
    exact congrArg Context.onCores (SMap.getD_set_same _ _ _ _)
  · have hq : (v.queue q) = u.queue q := by rw [hv]; rfl
    rw [ho.queue, hq, hu]
    split
    · exact s.stopClock_launch n q
    · rfl

/-! ## Fencing -/

theorem State.fence_core_same (s : State) (c : Nat) : ((s.fence c).core c).fenced = true := by
  obtain ⟨f, hf, hfence⟩ : ∃ f : Core → Core, (∀ x, (f x).fenced = true) ∧ (s.fence c).core c = (s.modCore c f).core c :=
    ⟨fun x => { x with
      fenced := true, preempt := none, ctx := none
      strands := x.strands.map fun t => { t with run := if t.run = .halted then .halted else .fenced } }, fun _ => rfl, rfl⟩
  rw [hfence, State.core_modCore_same, hf]

theorem State.fence_core_other (s : State) {c k : Nat} (h : k ≠ c) : (s.fence c).core k = s.core k := SMap.getD_set_other _ _ _ h

theorem State.fence_queues (s : State) (c : Nat) : (s.fence c).queues = s.queues := rfl

/-- The cores of a list are fenced, and no other core changes (R370). -/
theorem State.foldl_fence (l : List Nat) (s : State) : let t := l.foldl (fun s c => s.fence c) s
    t.queues = s.queues ∧ (∀ k, k ∈ l ∨ (s.core k).fenced = true → (t.core k).fenced = true) ∧
      ∀ k, k ∉ l → t.core k = s.core k := by
  induction l generalizing s with
  | nil => exact ⟨rfl, fun k h => h.resolve_left List.not_mem_nil, fun _ _ => rfl⟩
  | cons c l ih =>
    obtain ⟨hq, hin, hout⟩ := ih (s.fence c)
    refine ⟨hq.trans (s.fence_queues c), fun k h => hin k ?_, fun k h => ?_⟩
    · by_cases hk : k = c
      · exact .inr (hk ▸ s.fence_core_same c)
      · rw [s.fence_core_other hk]
        exact h.imp_left fun h => (List.mem_cons.mp h).resolve_left hk
    · rw [List.mem_cons, not_or] at h
      exact (hout k h.2).trans (s.fence_core_other h.1)

theorem State.fenceRest_queue (s : State) (n q : Nat) : (s.fenceRest n).queue q = s.queue q := by
  rw [State.queue, State.queue, State.fenceRest, (State.foldl_fence (s.killing n) s).1]

/-! ## W1 -/

section Watch

variable {s : State} {q : Nat} {l : Launch} (hq : q < 64) (hl : (s.queue q).launch = some l)
include hq hl

/-- Whether W1 has come for a launch that still works (R370). -/
def State.watchDue (s : State) (q : Nat) (l : Launch) : Prop :=
  l.phase = LPhase.running ∧ l.stat = 0 ∧ hdrWatch (s.queueHdr q) 0 ≠ 0 ∧ s.finished q l = false

theorem exec_watchdogW1_early (ht : s.scheduled l < hdrWatch (s.queueHdr q) 0) :
    exec (.watchdogW1 q) s = .next s := by
  refine (if_neg (by simp [hq])).trans ?_
  dsimp only
  rw [hl]
  exact if_pos (by simp [ht])

/-- W1 takes the launch off its cores (R370). -/
theorem watchdogW1_effect (h : s.watchDue q l) (ht : hdrWatch (s.queueHdr q) 0 ≤ s.scheduled l)
    (h1 : hdrWatch (s.queueHdr q) 1 ≠ 0) : ∃ t, exec (.watchdogW1 q) s = .next t ∧
      ((t.queue q).launch.map (·.phase)) = some LPhase.preempting ∧ (t.context l.ctx).onCores = false := by
  obtain ⟨hp, hst, h0, hfin⟩ := h
  obtain ⟨hoff, hkeep⟩ := s.deschedule_effect l.ctx 0
  obtain ⟨u, hu⟩ : ∃ u, u = s.deschedule l.ctx 0 := ⟨_, rfl⟩
  rw [← hu] at hoff hkeep
  obtain ⟨v, hv⟩ : ∃ v, v = u.modLaunch q fun l => { l with phase := .preempting, phaseTicks := s.timecode.toNat } := ⟨_, rfl⟩
  have hphase : ((v.queue q).launch.map (·.phase)) = some LPhase.preempting :=
    hv ▸ State.modLaunch_phase (by rw [hkeep, hl]; rfl) fun _ => rfl
  have hon : (v.context l.ctx).onCores = false := by rw [hv]; exact hoff
  obtain ⟨w, hw⟩ : ∃ w, w = v.cores.foldl (fun s e => [0, 1, 2, 3].foldl (fun s i =>
    if ((s.strand e.1 i).cocoon.bind (·.queue)) == some q then s.pendBit e.1 i 5 else s) s) v := ⟨_, rfl⟩
  have ho : CoresOnly v w := by
    rw [hw]
    refine CoresOnly.foldl (fun s e => ?_) v.cores rfl
    refine CoresOnly.foldl (fun s i => ?_) [0, 1, 2, 3] rfl
    split <;> rfl
  refine ⟨w, ?_, by rw [ho.queue]; exact hphase, by rw [ho.context]; exact hon⟩
  refine (if_neg (by simp [hq])).trans ?_
  dsimp only
  rw [hl]
  refine (if_neg (by simp [hp, hst, h0, hfin, Nat.not_lt.mpr ht])).trans ?_
  rw [hw, hv, hu]
  refine congrArg Host.Outcome.next (if_neg ?_)
  simp [h1]

/-! ## W2 -/

theorem exec_watchdogW2_early (ht : s.timecode.toNat - l.phaseTicks < hdrWatch (s.queueHdr q) 1) :
    exec (.watchdogW2 q) s = .next s := by
  refine (if_neg (by simp [hq])).trans ?_
  rw [hl]
  exact if_pos (by simp [ht])

omit hq in
/-- A launch whose kill is forced is there still, and is being killed (R370). -/
theorem State.forceKill_phase : (((s.forceKill q l).queue q).launch.map (·.phase)) = some LPhase.killing := by
  obtain ⟨u, hu⟩ : ∃ u, u = s.endLaunch q 2 0 := ⟨_, rfl⟩
  have hk : (u.queue q).launch.isSome = true := by
    rw [hu, ((Ends.refl s).endLaunch q 2 0).launch, hl]
    rfl
  obtain ⟨v, hv⟩ : ∃ v, v = u.modLaunch q fun l => { l with phase := .killing, phaseTicks := s.timecode.toNat } := ⟨_, rfl⟩
  have hphase : ((v.queue q).launch.map (·.phase)) = some LPhase.killing := hv ▸ State.modLaunch_phase hk fun _ => rfl
  have hf : s.forceKill q l = if hdrWatch (v.queueHdr q) 2 = 0 then v.fenceRest l.ctx else v := by rw [hv, hu]; rfl
  rw [hf]
  split
  · rw [State.fenceRest_queue]
    exact hphase
  · exact hphase

/-- W2 forces the kill where a core has not saved in time (R370). -/
theorem watchdogW2_effect (hp : l.phase = LPhase.preempting) (hst : l.stat = 0)
    (ht : hdrWatch (s.queueHdr q) 1 ≤ s.timecode.toNat - l.phaseTicks) (hcore : ∃ e ∈ s.cores, e.2.preempt = some l.ctx) :
    ∃ t, exec (.watchdogW2 q) s = .next t ∧ ((t.queue q).launch.map (·.phase)) = some LPhase.killing := by
  refine ⟨s.forceKill q l, ?_, State.forceKill_phase hl⟩
  have hany : (s.cores.any fun e => e.2.preempt == some l.ctx) = true := by simpa using hcore
  refine (if_neg (by simp [hq])).trans ?_
  rw [hl]
  exact if_neg (by simp [hp, hst, hany, Nat.not_lt.mpr ht])

/-! ## W3 -/

theorem exec_watchdogW3 (hp : l.phase = LPhase.killing) : exec (.watchdogW3 q) s =
    if s.timecode.toNat - l.phaseTicks < hdrWatch (s.queueHdr q) 2 then .next s else .next (s.fenceRest l.ctx) := by
  refine (if_neg (by simp [hq])).trans ?_
  rw [hl]
  simp only [hp, bne_self_eq_false, Bool.false_or, decide_eq_true_eq]

/-! ## The end -/

omit hq hl in
/-- A launch that is closed is there until its record has been written; no image changes (R364). -/
theorem State.closeLaunch_effect (s : State) (q : Nat) (l : Launch) : let t := s.closeLaunch q l
    (t.queue q).launch = some { l with phase := .closing } ∧ t.strandImages = s.strandImages ∧ t.migrated = s.migrated := by
  obtain ⟨u, hu⟩ : ∃ u, u = ((s.devPutNum epLaunch (s.recordAt q l.num) 104 8 l.num).devPutNum epLaunch (s.recordAt q l.num) 112 8
    s.timecode.toNat).devPutNum epLaunch (s.recordAt q l.num) 120 8 (l.stat + 2 ^ 8 * l.cause + 2 ^ 32 * (l.ended % 2 ^ 32)) := ⟨_, rfl⟩
  have hdev : DevOnly s u := hu ▸ ((s.devPutNum_devOnly _ _ _ _ _ _).trans (State.devPutNum_devOnly _ _ _ _ _ _ _)).trans
    (State.devPutNum_devOnly _ _ _ _ _ _ _)
  obtain ⟨v, hv⟩ : ∃ v, v = if l.phase = .taken then u else u.returnLeases fun k => k.ctx == some l.ctx := ⟨_, rfl⟩
  have hkeep : v.strandImages = s.strandImages ∧ v.migrated = s.migrated := by
    rw [DevOnly] at hdev
    rw [hv]
    split
    · rw [hdev]; exact ⟨rfl, rfl⟩
    · have hp := u.returnLeases_powerOnly fun k => k.ctx == some l.ctx
      rw [PowerOnly] at hp
      rw [hp, hdev]; exact ⟨rfl, rfl⟩
  obtain ⟨w, hw⟩ : ∃ w, w = v.modQueue q fun x => { x with launch := some { l with phase := .closing } } := ⟨_, rfl⟩
  have hclose : s.closeLaunch q l =
      if (w.context l.ctx).st = 1 && !w.runsLaunch l.ctx then w.modContext l.ctx fun x => { x with st := 0 } else w := by
    rw [hw, hv, hu]
    rfl
  have hwq : (w.queue q).launch = some { l with phase := .closing } := by rw [hw, State.queue_modQueue_same]
  have hwi : w.strandImages = v.strandImages ∧ w.migrated = v.migrated := by rw [hw]; exact ⟨rfl, rfl⟩
  intro t
  have ht : (t.queue q).launch = (w.queue q).launch ∧ t.strandImages = w.strandImages ∧ t.migrated = w.migrated := by
    rw [show t = _ from hclose]
    split <;> exact ⟨rfl, rfl, rfl⟩
  exact ⟨ht.1.trans hwq, ht.2.1.trans (hwi.1.trans hkeep.1), ht.2.2.trans (hwi.2.trans hkeep.2)⟩

/-- The launch that a watchdog has stopped ends with STAT WATCHDOG once its cores have saved, and leaves no image to be restored (R370). -/
theorem launchEnd_effect (hp : l.phase = LPhase.preempting) (hst : l.stat = 0) (hcore : ∀ e ∈ s.cores, e.2.preempt ≠ some l.ctx) :
    ∃ t, exec (.launchEnd q) s = .next t ∧ ((t.queue q).launch.map (·.phase)) = some LPhase.closing ∧
      ((t.queue q).launch.map (·.stat)) = some 2 ∧ ∀ m ∈ t.strandImages ++ t.migrated, m.strand.cocoon.bind (·.queue) ≠ some q := by
  obtain ⟨u, hu⟩ : ∃ u, u = s.leaveImages q l := ⟨_, rfl⟩
  have hdrop : Ends s (s.cores.foldl (fun s e => s.dropPlaced e.1 q) s) := by
    refine Ends.foldl (fun v e hs => ?_) s.cores (Ends.refl s)
    exact hs.dropPlaced e.1 q
  obtain ⟨k, hk⟩ : ∃ k, (u.queue q).launch = some k := by
    refine Option.isSome_iff_exists.mp ?_
    rw [hu]
    refine (hdrop.launch q).trans ?_
    rw [hl]
    rfl
  have hnone : ∀ m ∈ u.strandImages ++ u.migrated, m.strand.cocoon.bind (·.queue) ≠ some q := fun m hm => by
    rw [hu, List.mem_append] at hm
    have hother : (m.strand.cocoon.bind (·.queue) != some q) = true :=
      hm.elim (fun h => (List.mem_filter.mp h).2) fun h => (List.mem_filter.mp h).2
    exact bne_iff_ne.mp hother
  obtain ⟨h1, h2, h3⟩ := u.closeLaunch_effect q { k with stat := 2 }
  have hany : (s.cores.any fun e => e.2.preempt == some l.ctx) = false := by
    simpa only [List.any_eq_false, beq_iff_eq] using hcore
  have hexec : exec (.launchEnd q) s = .next (u.closeLaunch q { k with stat := 2 }) := by
    refine (if_neg (by simp [hq])).trans ?_
    rw [hl]
    refine (if_neg (by rw [hp]; decide)).trans ((if_neg (by rw [hp]; decide)).trans ((if_pos (by rw [hp, hst]; rfl)).trans ?_))
    refine (if_neg (by rw [hany]; decide)).trans ?_
    dsimp only
    rw [← hu, hk]
  refine ⟨_, hexec, ?_, ?_, ?_⟩
  · rw [h1]; rfl
  · rw [h1]; rfl
  · rw [h2, h3]
    exact hnone

end Watch

end Sys2Proof.Machine
end

section
/-!
PROOFS. The save of a core: its beginning, a line of an image, and its end (R125, R379, R380).
-/

namespace Sys2Proof.Machine

/-! ## The lines of an image -/

theorem mem_span {a b k : Nat} : k ∈ span a b ↔ a ≤ k ∧ k < b := by
  simp only [span, List.mem_map, List.mem_range]
  exact ⟨fun ⟨i, hi, he⟩ => by omega, fun h => ⟨k - a, by omega, by omega⟩⟩

/-- A mask that is put together bit by bit has the bits that its test picks. -/
theorem testBit_mask (pick : Nat → Prop) [DecidablePred pick] (n : Nat) :
    (List.range n).foldl (fun m a => if pick a then m + 2 ^ a else m) 0 < 2 ^ n ∧
      ∀ a, a < n → ((List.range n).foldl (fun m a => if pick a then m + 2 ^ a else m) 0).testBit a = decide (pick a) := by
  induction n with
  | zero => exact ⟨Nat.one_pos, fun a h => absurd h (Nat.not_lt_zero a)⟩
  | succ n ih =>
    obtain ⟨hlt, hbit⟩ := ih
    rw [List.range_succ, List.foldl_append, List.foldl_cons, List.foldl_nil]
    generalize (List.range n).foldl (fun m a => if pick a then m + 2 ^ a else m) 0 = m at hlt hbit ⊢
    have hpow : 2 ^ (n + 1) = 2 ^ n + 2 ^ n := by rw [pow_succ]; omega
    refine ⟨by split <;> omega, fun a ha => ?_⟩
    by_cases han : a = n
    · subst han
      by_cases hp : pick a
      · rw [if_pos hp, Nat.add_comm, Nat.testBit_two_pow_add_eq, Nat.testBit_lt_two_pow hlt, decide_eq_true hp]
        rfl
      · rw [if_neg hp, Nat.testBit_lt_two_pow hlt, decide_eq_false hp]
    · have hlt' : a < n := by omega
      split
      · rw [Nat.add_comm, Nat.testBit_two_pow_add_gt hlt', hbit a hlt']
      · exact hbit a hlt'

/-- The lines of a strand image of its slot, its words, its vectors and its origin. -/
theorem mem_strandLines {mask : Nat} {migrates : Option Nat} {k : Nat} (h : k < 10 ∨ 16 ≤ k ∧ k < 48 ∨ k = 112) :
    k ∈ strandLines mask migrates := by
  simp only [strandLines, List.mem_append, List.mem_range, List.mem_singleton, mem_span]
  tauto

/-- The lines of an accumulator that the mask of a strand image has. -/
theorem mem_strandLines_acc {mask : Nat} {migrates : Option Nat} {a k : Nat} (ha : a < 8) (hk : k < 8) (hm : mask.testBit a = true) :
    48 + 8 * a + k ∈ strandLines mask migrates := by
  have hdiv : (48 + 8 * a + k - 48) / 8 = a := by omega
  have hmem : 48 + 8 * a + k ∈ (span 48 112).filter fun k => mask.testBit ((k - 48) / 8) :=
    List.mem_filter.mpr ⟨mem_span.mpr (by omega), by rw [hdiv]; exact hm⟩
  exact List.mem_append_left _ (List.mem_append_left _ (List.mem_append_right _ hmem))

/-- The lines of a core image of its banks, its words and slots, and its copy records. -/
theorem mem_coreLines {banks mask msgs k : Nat} (hb : 63 ≤ banks)
    (h : 512 ≤ k ∧ k < 512 + 64 * 63 ∨ 4608 ≤ k ∧ k < 5216 ∨ 5280 ≤ k ∧ k < 5312) : k ∈ coreLines banks mask msgs := by
  simp only [coreLines, List.mem_append, mem_span]
  rcases h with h | h | h
  · exact .inl (.inl (.inl (by omega)))
  · exact .inl (.inl (.inr h))
  · exact .inr (by omega)

theorem mem_coreLines_acc {banks mask msgs a k : Nat} (ha : a < 8) (hk : k < 8) (hm : mask.testBit a = true) :
    5216 + 8 * a + k ∈ coreLines banks mask msgs := by
  have hdiv : (5216 + 8 * a + k - 5216) / 8 = a := by omega
  have hmem : 5216 + 8 * a + k ∈ (span 5216 5280).filter fun k => mask.testBit ((k - 5216) / 8) :=
    List.mem_filter.mpr ⟨mem_span.mpr (by omega), by rw [hdiv]; exact hm⟩
  exact List.mem_append_left _ (List.mem_append_right _ hmem)

theorem Core.imageBanks_ge (x : Core) : 63 ≤ x.imageBanks := by
  unfold Core.imageBanks
  split <;> decide

theorem State.mem_strandsOf {s : State} {c n i : Nat} : i ∈ s.strandsOf c n ↔ i < 4 ∧ (s.strand c i).ofCtx n = true := by
  have hrange : i ∈ [0, 1, 2, 3] ↔ i < 4 := by
    simp only [List.mem_cons, List.not_mem_nil, or_false]
    omega
  rw [State.strandsOf, List.mem_filter, hrange]

/-! ## The beginning -/

/-- The lines that a save is to write, with the messages of the core's interface and journal as `img` has them (R379). -/
def State.saveLines (s : State) (c n : Nat) (img : CoreImage) : List (Nat × Nat) :=
  ((s.strandsOf c n).flatMap fun i => (strandLines ((s.core c).accMask i)
      (if s.leaving n c then some (img.spill.filter (·.1.strand == i)).length else none)).map fun k => (i, k)) ++
    if s.leaving n c then [] else (coreLines (s.core c).imageBanks
      ((List.range 8).foldl (fun m a => if ((s.core c).accOf a).owner.isNone then m + 2 ^ a else m) 0) img.messages).map fun k => (4, k)

theorem State.saveBegin_saves (s : State) (c n : Nat) : ∃ img, SMap.get? (s.saveBegin c n).saves c =
    some { ctx := n, back := false, one := none, left := s.saveLines c n img, got := [], img := some img, pends := [] } := by
  have hset : ∀ (v : State) (x : Save), SMap.get? (v.setSave c x).saves c = some x := fun _ _ => SMap.get?_set_same _ _ _
  unfold State.saveBegin
  extract_lets u migrates x img strands owned core w
  clear_value img
  exact ⟨img, hset _ _⟩

section Lines

variable {s : State} {c n i k : Nat} (img : CoreImage)

theorem State.mem_saveLines (hi : i < 4) (hn : (s.strand c i).ofCtx n = true) (hk : k < 10 ∨ 16 ≤ k ∧ k < 48 ∨ k = 112) :
    (i, k) ∈ s.saveLines c n img :=
  List.mem_append_left _ (List.mem_flatMap.mpr ⟨i, State.mem_strandsOf.mpr ⟨hi, hn⟩, List.mem_map.mpr ⟨k, mem_strandLines hk, rfl⟩⟩)

theorem State.mem_saveLines_acc {a : Nat} (hi : i < 4) (hn : (s.strand c i).ofCtx n = true) (ha : a < 8)
    (ho : ((s.core c).accOf a).owner = some i) (hk : k < 8) : (i, 48 + 8 * a + k) ∈ s.saveLines c n img := by
  have hm : ((s.core c).accMask i).testBit a = true :=
    ((testBit_mask (fun a => ((s.core c).accOf a).owner = some i) 8).2 a ha).trans (decide_eq_true ho)
  exact List.mem_append_left _ (List.mem_flatMap.mpr ⟨i, State.mem_strandsOf.mpr ⟨hi, hn⟩,
    List.mem_map.mpr ⟨_, mem_strandLines_acc ha hk hm, rfl⟩⟩)

theorem State.mem_saveLines_core (hl : s.leaving n c = false)
    (hk : 512 ≤ k ∧ k < 512 + 64 * 63 ∨ 4608 ≤ k ∧ k < 5216 ∨ 5280 ≤ k ∧ k < 5312) : (4, k) ∈ s.saveLines c n img := by
  refine List.mem_append_right _ ?_
  rw [hl, if_neg Bool.false_ne_true]
  exact List.mem_map.mpr ⟨k, mem_coreLines (Core.imageBanks_ge _) hk, rfl⟩

theorem State.mem_saveLines_free {a : Nat} (hl : s.leaving n c = false) (ha : a < 8) (ho : ((s.core c).accOf a).owner = none) (hk : k < 8) :
    (4, 5216 + 8 * a + k) ∈ s.saveLines c n img := by
  refine List.mem_append_right _ ?_
  rw [hl, if_neg Bool.false_ne_true]
  refine List.mem_map.mpr ⟨_, mem_coreLines_acc ha hk ?_, rfl⟩
  exact ((testBit_mask (fun a => ((s.core c).accOf a).owner.isNone = true) 8).2 a ha).trans (decide_eq_true (by rw [ho]; rfl))

theorem State.not_mem_saveLines (hl : s.leaving n c = true) : (4, k) ∉ s.saveLines c n img := by
  rw [State.saveLines, hl, if_pos rfl, List.append_nil]
  intro h
  obtain ⟨i, hi, hik⟩ := List.mem_flatMap.mp h
  obtain ⟨j, -, hj⟩ := List.mem_map.mp hik
  have hlt := (State.mem_strandsOf.mp hi).1
  have : i = 4 := congrArg Prod.fst hj
  omega

end Lines

section Begin

variable {s : State} {c n : Nat} (hc : c < 12288) (hn : n < 256) (hsave : SMap.get? s.saves c = none)
  (hpre : (s.core c).preempt = some n) (hq : s.enginesQuiet c n = true) (ho : (s.core c).openLogs = [])
include hc hn hsave hpre hq ho

theorem exec_preemption_begin : exec (.preemption n c) s =
    if !(s.cores.all fun e => e.2.preempt != some n || (SMap.get? s.saves e.1).any (!·.back) || s.saveReady e.1 n) then .next s
    else if !s.runsLaunch n && (s.strandsOf c n).isEmpty then .next (s.leaveCore c n)
    else .next (s.saveBegin c n) := by
  refine (if_neg (by simp [hc, hn])).trans ?_
  rw [hsave]
  refine (if_neg (by simp [hpre, hq])).trans ?_
  rw [ho]

/-- Cores that save together wait for one another (R379). -/
theorem exec_preemption_waits (h : ∃ e ∈ s.cores, e.2.preempt = some n ∧ SMap.get? s.saves e.1 = none ∧ s.saveReady e.1 n = false) :
    exec (.preemption n c) s = .next s := by
  obtain ⟨e, he, hp, hs, hr⟩ := h
  rw [exec_preemption_begin hc hn hsave hpre hq ho]
  refine if_pos ?_
  rw [Bool.not_eq_true', List.all_eq_false]
  exact ⟨e, he, by simp [hp, hs, hr]⟩

theorem exec_preemption_ready (h : ∀ e ∈ s.cores, e.2.preempt = some n → s.saveReady e.1 n = true) : exec (.preemption n c) s =
    if !s.runsLaunch n && (s.strandsOf c n).isEmpty then .next (s.leaveCore c n) else .next (s.saveBegin c n) := by
  rw [exec_preemption_begin hc hn hsave hpre hq ho]
  refine if_neg ?_
  rw [Bool.not_eq_true', Bool.not_eq_false, List.all_eq_true]
  intro e he
  by_cases hp : e.2.preempt = some n
  · simp [h e he hp]
  · simp [hp]

end Begin

/-- A context that runs no launch leaves a core empty, without an image (R125, R368). -/
theorem State.leaveCore_effect (s : State) (c n : Nat) : (s.leaveCore c n).core c = (s.core c).emptied n ∧
    (s.leaveCore c n).strandImages = s.strandImages ∧ (s.leaveCore c n).coreImages = s.coreImages :=
  ⟨(s.cancelTickets c).core_modCore_same c (·.emptied n), rfl, rfl⟩

/-! ## A line -/

/-- An engine that works on no line holds none. -/
theorem State.devLine_of_quiet {s : State} {c ln : Nat} {loc : Bool} (h : s.devQuiet c = true) (hln : ln < 2 ^ 33) :
    s.devLine c loc ln = .reset := by
  rcases SMap.getD_mem_or s.dev (devKey c loc ln) .reset with hr | hm
  · exact hr
  · have hne := List.all_eq_true.mp h _ hm
    have hloc : loc.toNat ≤ 1 := Bool.toNat_le loc
    have hkey : devKey c loc ln / 2 ^ 34 = c := by
      rw [devKey]
      omega
    exact absurd hkey (bne_iff_ne.mp hne)

theorem lineMask_ne_zero (u k : Nat) (migrates : Bool) : lineMask u k migrates ≠ 0 := by
  unfold lineMask
  split <;> decide

section Line

variable {s : State} {c n : Nat} {v : Save} (hc : c < 12288) (hn : n < 256) (hv : SMap.get? s.saves c = some v) (hback : v.back = false)
  (hctx : v.ctx = n)
include hc hn hv hback hctx

theorem exec_preemption_goes : exec (.preemption n c) s = .next (s.saveLine c v) := by
  refine (if_neg (by simp [hc, hn])).trans ?_
  rw [hv]
  exact congrArg Host.Outcome.next (if_neg (by simp [hback, hctx]))

/-- A line is written once the one before it has been (R379). -/
theorem exec_preemption_held {u k : Nat} {rest : List (Nat × Nat)} (hl : v.left = (u, k) :: rest) (hq : s.devQuiet c = false) :
    exec (.preemption n c) s = .next s := by
  rw [exec_preemption_goes hc hn hv hback hctx, State.saveLine, hl]
  exact congrArg Host.Outcome.next (if_pos (by rw [hq]; rfl))

/-- A line of an image is written at its home (R379, R380). -/
theorem preemption_line {u k pa : Nat} {rest : List (Nat × Nat)} {p : Page} {asid : BitVec 16} (hl : v.left = (u, k) :: rest)
    (hq : s.devQuiet c = true) (hat : s.imageAt c v u k = some (.ok pa p, asid)) (hpa : pa < 2 ^ 40) :
    ∃ t, exec (.preemption n c) s = .next t ∧
      (∃ w, SMap.get? t.saves c = some w ∧ w.left = rest ∧ w.img = v.img ∧ w.back = false ∧ w.ctx = n) ∧
      ∃ m ∈ t.transit, m.src = c ∧ m.dest = (if p.loc then epHost else epSlice (s.homeOf (pa / 128))) ∧ ∃ r, m.body = .mem r ∧
        r.op = .write ∧ r.line = pa / 128 ∧ r.asid = some asid ∧ r.mask = lineMask u k (s.leaving n c) ∧
        r.data = merge 0 (if u < 4 then s.strandLine c u n k else s.coreLine c k) (lineMask u k (s.leaving n c)) := by
  obtain ⟨d, hd⟩ : ∃ d, d = if u < 4 then s.strandLine c u n k else s.coreLine c k := ⟨_, rfl⟩
  obtain ⟨mask, hm⟩ : ∃ m, m = lineMask u k (s.leaving n c) := ⟨_, rfl⟩
  have hreset := State.devLine_of_quiet (loc := p.loc) hq (show pa / 128 < 2 ^ 33 by omega)
  obtain ⟨-, -, m, hmem, hsrc, hdest, r, hbody, hop, hln, -, has, hdata, hmask⟩ :=
    State.devPut_writes (s := s) (ep := c) (l := (pa / 128, p.loc)) (d := .reset) hreset rfl rfl d (mask := mask) (some asid)
      (by rw [hm]; exact (BitVec.zero_or).symm ▸ lineMask_ne_zero _ _ _)
  have hgo : ∃ w : Save, s.saveLine c v = (s.devPut c (pa / 128, p.loc) d mask (some asid)).setSave c w ∧ w.left = rest ∧
      w.img = v.img ∧ w.back = false ∧ w.ctx = n := by
    refine ⟨{ v with left := rest, pends := if u < 4 && k = 8 then (u, (s.strand c u).pend) :: v.pends.filter (·.1 != u) else v.pends },
      ?_, rfl, rfl, hback, hctx⟩
    rw [State.saveLine, hl]
    refine (if_neg (by rw [hq]; decide)).trans ?_
    rw [hat, hd, hm, ← hctx]
  obtain ⟨w, hw, hleft, himg, hwb, hwc⟩ := hgo
  refine ⟨_, exec_preemption_goes hc hn hv hback hctx, ?_⟩
  rw [hw, ← hd, ← hm]
  refine ⟨⟨w, SMap.get?_set_same _ _ _, hleft, himg, hwb, hwc⟩, m, hmem, hsrc, hdest, r, hbody, hop, hln, has, ?_, hdata⟩
  exact hmask.trans BitVec.zero_or

/-! ## The end -/

omit hc hn hv hback hctx in
theorem State.foldl_park (l : List Nat) (c : Nat) (s : State) :
    let t := l.foldl (fun s i => if (s.strand c i).run = .idle then s.park c i else s) s
    t = { s with parked := t.parked } := by
  refine List.foldlRecOn (motive := fun t : State => t = { s with parked := t.parked }) l _ rfl fun t ht i _ => ?_
  split
  · rw [State.park]
    split
    · exact ht
    · rw [ht]
  · exact ht

omit hc hn hv hback hctx in
theorem Core.emptied_strand (x : Core) {n i : Nat} (hi : i < 4) (h : (x.strand i).ofCtx n = true) :
    ((x.emptied n).strand i).cocoon = none := by
  have hmap : (x.emptied n).strand i =
      if (x.strand i).ofCtx n then { Strand.reset with gen := (x.strand i).gen, asid := (x.strand i).asid
                                                       run := if (x.strand i).run = .fenced then .fenced else .idle } else x.strand i := by
    simp [Core.strand, Core.emptied, hi]
  rw [hmap, if_pos h]
  rfl

omit hc hn hv hback hctx in
/-- The end of a save: the core is empty, and what it held is in its images (R125, R379). -/
theorem State.saveCore_effect (s : State) (c n : Nat) (img : CoreImage) : let t := s.saveCore c n img
    t.core c = (s.core c).emptied n ∧ (s.leaving n c = false → img ∈ t.coreImages) ∧
      ∀ i, i < 4 → (s.strand c i).ofCtx n = true → s.strandImage c i n (s.leaving n c) img ∈ t.strandImages ++ t.migrated := by
  obtain ⟨images, himages⟩ : ∃ l, l = (s.strandsOf c n).map fun i => s.strandImage c i n (s.leaving n c) img := ⟨_, rfl⟩
  obtain ⟨u, hu⟩ : ∃ u : State, u = { ((s.pauseLeases c n).modCore c (·.emptied n)).cleanCore c with saves := SMap.erase s.saves c } :=
    ⟨_, rfl⟩
  have huc : u.core c = (s.core c).emptied n := by
    have hp : (s.pauseLeases c n).core c = s.core c := by
      unfold State.pauseLeases
      split
      · split <;> rfl
      · rfl
    have hclean : u.core c = ((s.pauseLeases c n).modCore c (·.emptied n)).core c := by rw [hu]; rfl
    rw [hclean, State.core_modCore_same, hp]
  obtain ⟨w, hw⟩ : ∃ w : State, w = if s.leaving n c then { u with migrated := u.migrated ++ images }
    else { u with strandImages := u.strandImages ++ images, coreImages := u.coreImages.filter (fun m => m.ctx != n || m.core != c) ++ [img] } :=
    ⟨_, rfl⟩
  have hmem : ∀ i, i < 4 → (s.strand c i).ofCtx n = true → s.strandImage c i n (s.leaving n c) img ∈ images := fun i hi h => by
    rw [himages]
    exact List.mem_map.mpr ⟨i, State.mem_strandsOf.mpr ⟨hi, h⟩, rfl⟩
  have hwc : w.core c = u.core c := by
    rw [hw]
    split <;> rfl
  have hsave : s.saveCore c n img = (s.strandsOf c n).foldl (fun s i => if (s.strand c i).run = .idle then s.park c i else s) w := by
    rw [hw, hu, himages]
    rfl
  have hpark := State.foldl_park (s.strandsOf c n) c w
  intro t
  have ht : t = { w with parked := t.parked } := by
    rw [show t = _ from hsave]
    exact hpark
  clear_value t
  rw [ht]
  refine ⟨hwc.trans huc, fun hl => ?_, fun i hi h => ?_⟩
  · change img ∈ w.coreImages
    rw [hw, hl]
    exact List.mem_append_right _ List.mem_cons_self
  · change _ ∈ w.strandImages ++ w.migrated
    rw [hw]
    split
    · exact List.mem_append_right _ (List.mem_append_right _ (hmem i hi h))
    · exact List.mem_append_left _ (List.mem_append_right _ (hmem i hi h))

/-- A save ends once every strand's pending bits have been written as they are (R379). -/
theorem exec_preemption_ends {img : CoreImage} (hl : v.left = []) (hq : s.devQuiet c = true) (himg : v.img = some img)
    (hp : ∀ i, i < 4 → (s.strand c i).ofCtx n = true → (i, (s.strand c i).pend) ∈ v.pends) :
    exec (.preemption n c) s = .next (s.saveCore c n img) := by
  have hlate : ((s.strandsOf c n).filter fun i => !v.pends.contains (i, (s.strand c i).pend)) = [] := by
    rw [List.filter_eq_nil_iff]
    intro i hi
    obtain ⟨h4, ho⟩ := State.mem_strandsOf.mp hi
    simp [hp i h4 ho]
  rw [exec_preemption_goes hc hn hv hback hctx, State.saveLine, hl]
  dsimp only
  rw [hctx, hlate]
  refine congrArg Host.Outcome.next ((if_neg (by decide)).trans ((if_pos hq).trans ?_))
  rw [himg]

end Line

end Sys2Proof.Machine
end

section
/-!
PROOFS. The restoring of a core: its beginning, a line of an image, and its end (R125, R375, R379, R380).
-/

namespace Sys2Proof.Machine

/-! ## The beginning -/

theorem testBit_255 {a : Nat} (h : a < 8) : Nat.testBit 255 a = true := by
  interval_cases a <;> rfl

/-- A restore reads the accumulators of an image too. -/
theorem mem_strandLines_all {k : Nat} (h : k < 10 ∨ 16 ≤ k ∧ k < 113) : k ∈ strandLines 255 none := by
  by_cases hk : k < 10 ∨ 16 ≤ k ∧ k < 48 ∨ k = 112
  · exact mem_strandLines hk
  · have hsum : 48 + 8 * ((k - 48) / 8) + (k - 48) % 8 = k := by omega
    exact hsum ▸ mem_strandLines_acc (by omega) (by omega) (testBit_255 (by omega))

theorem mem_coreLines_all {banks k : Nat} (hb : 63 ≤ banks) (h : 512 ≤ k ∧ k < 512 + 64 * 63 ∨ 4608 ≤ k ∧ k < 5312) :
    k ∈ coreLines banks 255 0 := by
  by_cases hk : 512 ≤ k ∧ k < 512 + 64 * 63 ∨ 4608 ≤ k ∧ k < 5216 ∨ 5280 ≤ k ∧ k < 5312
  · exact mem_coreLines hb hk
  · have hsum : 5216 + 8 * ((k - 5216) / 8) + (k - 5216) % 8 = k := by omega
    exact hsum ▸ mem_coreLines_acc (by omega) (by omega) (testBit_255 (by omega))

/-- The lines that a restore is to read (R379). -/
def State.restoreLines (s : State) (c n : Nat) : List (Nat × Nat) :=
  (if s.coreImages.any fun m => m.core == c && m.ctx == n then (coreLines (s.core c).imageBanks 255 0).map fun k => (4, k) else []) ++
    ((s.strandImages.filter fun m => m.core == c && m.ctx == n).map (·.slot)).flatMap fun i => (strandLines 255 none).map fun k => (i, k)

theorem State.restoreBegin_saves (s : State) (c n : Nat) : SMap.get? (s.restoreBegin c n).saves c =
    some { ctx := n, back := true, one := none, left := s.restoreLines c n, got := [], img := none, pends := [] } := by
  have hset : ∀ (v : State) (x : Save), SMap.get? (v.setSave c x).saves c = some x := fun _ _ => SMap.get?_set_same _ _ _
  exact hset _ _

theorem State.mem_restoreLines {s : State} {c n k : Nat} {m : StrandImage} (hm : m ∈ s.strandImages)
    (hmine : (m.core == c && m.ctx == n) = true) (hk : k < 10 ∨ 16 ≤ k ∧ k < 113) : (m.slot, k) ∈ s.restoreLines c n := by
  refine List.mem_append_right _ (List.mem_flatMap.mpr ⟨m.slot, List.mem_map.mpr ⟨m, List.mem_filter.mpr ⟨hm, hmine⟩, rfl⟩, ?_⟩)
  exact List.mem_map.mpr ⟨k, mem_strandLines_all hk, rfl⟩

theorem State.mem_restoreLines_core {s : State} {c n k : Nat} (h : ∃ m ∈ s.coreImages, (m.core == c && m.ctx == n) = true)
    (hk : 512 ≤ k ∧ k < 512 + 64 * 63 ∨ 4608 ≤ k ∧ k < 5312) : (4, k) ∈ s.restoreLines c n := by
  refine List.mem_append_left _ ?_
  rw [if_pos (List.any_eq_true.mpr h)]
  exact List.mem_map.mpr ⟨k, mem_coreLines_all (Core.imageBanks_ge _) hk, rfl⟩

/-- A context that holds its cores restores there what is due, where it may. -/
theorem exec_resumeRestore_begin {s : State} {c n : Nat} (hc : c < 12288) (hn : n < 256) (hsave : SMap.get? s.saves c = none)
    (hon : (s.context n).onCores = true) (hup : s.levelsUp n = true) : exec (.resumeRestore n c) s =
      if !s.imagesDue c n || !s.mayRestore c n then .next s else .next (s.restoreBegin c n) := by
  have hturn : s.onTurn n = some s := by rw [State.onTurn, if_pos hon, if_pos hup]
  refine (if_neg (by simp [hc, hn])).trans ?_
  rw [hsave]
  dsimp only
  rw [hturn]

section Back

variable {s : State} {c n : Nat} {v : Save} (hc : c < 12288) (hn : n < 256) (hv : SMap.get? s.saves c = some v) (hback : v.back = true)
  (hctx : v.ctx = n)
include hc hn hv hback hctx

theorem exec_resumeRestore_goes : exec (.resumeRestore n c) s = .next (s.restoreLine c v) := by
  refine (if_neg (by simp [hc, hn])).trans ?_
  rw [hv]
  exact congrArg Host.Outcome.next (if_pos (by simp [hback, hctx]))

/-! ## A line -/

/-- A line of an image is asked for at its home, and kept with the save once it has come (R379). -/
theorem resumeRestore_line {u k pa : Nat} {rest : List (Nat × Nat)} {p : Page} {asid : BitVec 16} (hl : v.left = (u, k) :: rest)
    (hat : s.imageAt c v u k = some (.ok pa p, asid)) :
    let d := s.devLine c p.loc (pa / 128)
    (d.fresh = false → d.busy = false → d.want = false →
      ∃ t, exec (.resumeRestore n c) s = .next t ∧ DevReads t c (pa / 128, p.loc)) ∧
    (d.fresh = true → ∃ t w, exec (.resumeRestore n c) s = .next t ∧ SMap.get? t.saves c = some w ∧ w.left = rest ∧
      w.line u k = s.devData c (pa / 128, p.loc)) := by
  obtain ⟨at_, hat_⟩ : ∃ l : DevAt, l = (pa / 128, p.loc) := ⟨_, rfl⟩
  have hgo : exec (.resumeRestore n c) s = .next (if s.devHave c [at_] then
      (s.devUsed c [at_]).setSave c { v with left := rest, got := ((u, k), s.devData c at_) :: v.got } else s.devWant c (some asid) [at_]) := by
    rw [exec_resumeRestore_goes hc hn hv hback hctx, State.restoreLine, hl, hat_]
    dsimp only
    rw [hat]
  intro d
  have hd : d = s.devLine c at_.2 at_.1 := by rw [hat_]
  rw [hgo, ← hat_, State.devHave_single, ← hd]
  refine ⟨fun hf hb hw => ⟨_, congrArg _ (if_neg (by rw [hf]; decide)), ?_⟩,
    fun hf => ⟨_, _, congrArg _ (if_pos hf), SMap.get?_set_same _ _ _, rfl, ?_⟩⟩
  · rw [hd] at hf hb hw
    exact State.devWant_reads (some asid) hf hb hw
  · simp [Save.line]

/-! ## The end -/

theorem exec_resumeRestore_ends (hl : v.left = []) (ho : v.one = none) : exec (.resumeRestore n c) s = .next (s.restoreEnd c n v) := by
  rw [exec_resumeRestore_goes hc hn hv hback hctx, State.restoreLine, hl]
  dsimp only
  rw [ho, hctx]

end Back

/-- A core with the accumulators of an image's strand, and the strand in its slot. -/
def Core.withStrand (x : Core) (i : Nat) (t : Strand) (m : StrandImage) (v : Save) : Core :=
  let x := if x.res && t.run == RunState.running then
      { x with ls := (List.range 8).foldl (fun ls k => ls.writeLine (slotAt i + 128 * k) (v.line i k) (byteMask 0 128)) x.ls }
    else x
  let x := (v.owned i).foldl (fun x a => x.setAcc a { words := accOfLines fun k => v.line i (48 + 8 * a + k), owner := some i }) x
  { x.setStrand i t with ctx := some m.ctx }

theorem Core.accOf_foldl_setAcc (g : Nat → Acc) {a : Nat} (l : List Nat) (x : Core) (h : a ∈ l ∨ x.accOf a = g a) :
    (l.foldl (fun x a => x.setAcc a (g a)) x).accOf a = g a := by
  induction l generalizing x with
  | nil => exact h.resolve_left List.not_mem_nil
  | cons b l ih =>
    refine ih _ ?_
    by_cases hab : a = b
    · exact .inr (hab ▸ SMap.getD_set_same _ _ _ _)
    · refine h.imp (fun h => (List.mem_cons.mp h).resolve_left hab) fun h => ?_
      exact (SMap.getD_set_other _ _ _ hab).trans h

theorem Core.withStrand_accOf (x : Core) (i : Nat) (t : Strand) (m : StrandImage) (v : Save) {a : Nat} (ha : a ∈ v.owned i) :
    (x.withStrand i t m v).accOf a = { words := accOfLines fun k => v.line i (48 + 8 * a + k), owner := some i } :=
  Core.accOf_foldl_setAcc (fun a => { words := accOfLines fun k => v.line i (48 + 8 * a + k), owner := some i }) (v.owned i) _ (.inl ha)

theorem Core.withStrand_strand (x : Core) {i : Nat} (hi : i < 4) (t : Strand) (m : StrandImage) (v : Save) :
    (x.withStrand i t m v).strand i = t := Core.strand_setStrand_same _ _ hi

/-- A strand image in its slot, where no pre-emption is asked for and no lease is PAUSED (R379, R396). -/
theorem State.restoreStrand_effect (s : State) (c i : Nat) (m : StrandImage) (v : Save) (hp : (s.core c).preempt = none)
    (hl : (s.cluster (clusterOf m.core)).paused = []) : let t := s.restoreStrand c i m v
    t.core c = (s.core c).withStrand i (s.restored c i m v) m v ∧ t.parked = s.parked.filter (· != (c, i)) ∧
      t.strandImages = s.strandImages ∧ t.saves = s.saves := by
  obtain ⟨r, hr⟩ : ∃ r, r = s.restored c i m v := ⟨_, rfl⟩
  obtain ⟨u, hu⟩ : ∃ u, u = s.modCore c fun x => x.withStrand i r m v := ⟨_, rfl⟩
  obtain ⟨w, hw⟩ : ∃ w, w = (v.owned i).foldl (fun s a => s.accWritten c a fun _ => true) u := ⟨_, rfl⟩
  have henv : w = { u with env := w.env } := by
    rw [hw]
    exact List.foldlRecOn (motive := fun t : State => t = { u with env := t.env }) (v.owned i) _ rfl fun t ht a _ => by rw [ht]; rfl
  obtain ⟨y, hy⟩ : ∃ y : State, y = { w with parked := w.parked.filter (· != (c, i)) } := ⟨_, rfl⟩
  have hrest : s.restoreStrand c i m v = y.resumeLease m.core m.slot c i (some m.ctx) := by
    have ht : (if (s.core c).preempt = some m.ctx then (s.restored c i m v).askPreempt else s.restored c i m v) = r := by
      rw [hp, hr]
      exact if_neg (by simp)
    rw [State.restoreStrand, ht, hy, hw, hu]
    rfl
  have hlease : y.resumeLease m.core m.slot c i (some m.ctx) = y := by
    have hcl : y.cluster (clusterOf m.core) = s.cluster (clusterOf m.core) := by rw [hy, henv, hu]; rfl
    unfold State.resumeLease
    dsimp only
    rw [hcl, hl]
    rfl
  intro t
  rw [show t = y from hrest.trans hlease, ← hr]
  have hyc : y.core c = u.core c := by rw [hy, henv]; rfl
  refine ⟨hyc.trans (by rw [hu, State.core_modCore_same]), ?_, ?_, ?_⟩ <;> rw [hy, henv, hu] <;> rfl

/-- The images of a strand have been read: the strand is in its slot, and its image is gone (R379). -/
theorem State.restoreEnd_strand {s : State} {c n : Nat} {v : Save} {m : StrandImage}
    (hs : (s.strandImages.filter fun m => m.core == c && m.ctx == n) = [m])
    (hnone : (s.coreImages.find? fun m => m.core == c && m.ctx == n) = none)
    (hi : m.slot < 4) (hp : (s.core c).preempt = none) (hl : (s.cluster (clusterOf m.core)).paused = []) : let t := s.restoreEnd c n v
    t.strand c m.slot = s.restored c m.slot m v ∧ (c, m.slot) ∉ t.parked ∧ m ∉ t.strandImages ∧ SMap.get? t.saves c = none ∧
      ∀ a ∈ v.owned m.slot, (t.core c).accOf a = { words := accOfLines fun k => v.line m.slot (48 + 8 * a + k), owner := some m.slot } := by
  obtain ⟨u, hu⟩ : ∃ u : State, u = { s with
    saves := SMap.erase s.saves c
    coreImages := s.coreImages.filter fun m => m.core != c || m.ctx != n
    strandImages := s.strandImages.filter fun m => m.core != c || m.ctx != n } := ⟨_, rfl⟩
  have hend : s.restoreEnd c n v = u.restoreStrand c m.slot m v := by
    unfold State.restoreEnd
    dsimp only
    rw [hnone, hs, hu]
    rfl
  have hmine : (m.core == c && m.ctx == n) = true := by
    have hm : m ∈ s.strandImages.filter fun m => m.core == c && m.ctx == n := hs ▸ List.mem_singleton_self m
    exact (List.mem_filter.mp hm).2
  obtain ⟨h1, h2, h3, h4⟩ := u.restoreStrand_effect c m.slot m v (by rw [hu]; exact hp) (by rw [hu]; exact hl)
  have hr : u.restored c m.slot m v = s.restored c m.slot m v := by rw [hu]; rfl
  have huc : u.core c = s.core c := by rw [hu]; rfl
  rw [hr, huc] at h1
  intro t
  rw [show t = _ from hend]
  refine ⟨?_, ?_, ?_, ?_, fun a ha => ?_⟩
  · rw [State.strand, h1, Core.withStrand_strand _ hi]
  · rw [h2]
    simp
  · rw [h3, hu]
    intro hm
    have hother := (List.mem_filter.mp hm).2
    simp_all
  · rw [h4, hu]
    exact SMap.get?_erase_same _ _
  · rw [h1, Core.withStrand_accOf _ _ _ _ _ ha]

/-! ## A core image -/

/-- An entry for each number below n. -/
theorem SMap.getD_range_map {α : Type} (f : Nat → α) (d : α) {n k : Nat} (h : k < n) :
    SMap.getD ((List.range n).map fun i => (i, f i)) k d = f k := by
  have hget : ∀ l : List Nat, k ∈ l → SMap.get? (l.map fun i => (i, f i)) k = some (f k) := fun l => by
    induction l with
    | nil => exact fun h => absurd h List.not_mem_nil
    | cons i l ih =>
      intro h
      by_cases hik : i = k
      · simp [SMap.get?, hik]
      · rw [List.map_cons, SMap.get?, if_neg hik]
        exact ih ((List.mem_cons.mp h).resolve_left (Ne.symm hik))
  rw [SMap.getD, hget _ (List.mem_range.mpr h)]
  rfl

theorem State.placeRefused_effect (s : State) (c : Nat) (l : List Journal) :
    (∃ j, (s.placeRefused c l).core c = { s.core c with journal := j }) ∧ (s.placeRefused c l).coreImages = s.coreImages := by
  unfold State.placeRefused
  refine List.foldlRecOn (motive := fun t : State => (∃ j, t.core c = { s.core c with journal := j }) ∧ t.coreImages = s.coreImages) l _
    ⟨⟨_, rfl⟩, rfl⟩ fun t ht e _ => ?_
  obtain ⟨⟨j, hj⟩, himg⟩ := ht
  refine ⟨?_, himg⟩
  rw [State.core_modCore_same, hj]
  split
  · exact ⟨_, rfl⟩
  · exact ⟨j, rfl⟩

theorem Core.accOf_journal (x : Core) (j : SMap Journal) (a : Nat) : ({ x with journal := j } : Core).accOf a = x.accOf a := rfl
theorem Core.copyId_journal (x : Core) (j : SMap Journal) (id : Nat) : ({ x with journal := j } : Core).copyId id = x.copyId id := rfl
theorem Core.group_journal (x : Core) (j : SMap Journal) (n : Nat) : ({ x with journal := j } : Core).group n = x.group n := rfl

/-- With no buffer to come back the cores and the images stay. -/
theorem State.unspillNet_nil (s : State) {m : CoreImage} (c : Nat) (h : m.bufs = []) :
    (s.unspillNet m).core c = s.core c ∧ (s.unspillNet m).coreImages = s.coreImages := by
  rw [State.unspillNet, h]
  exact ⟨rfl, rfl⟩

theorem State.restoreRest_nil (s : State) {m : CoreImage} (v : Save) (hs : m.spill = []) (hr : m.refill = []) :
    s.restoreRest m v = s.placeRefused m.core (v.refused 4 0xA5800) := by
  unfold State.restoreRest
  rw [hs, hr]
  rfl

/-- A core image that holds no message and no refill has been read: the core holds what was read, and the image is gone (R379). -/
theorem State.restoreEnd_core {s : State} {c n : Nat} {v : Save} {m : CoreImage}
    (hs : (s.strandImages.filter fun m => m.core == c && m.ctx == n) = [])
    (hm : (s.coreImages.find? fun m => m.core == c && m.ctx == n) = some m)
    (hspill : m.spill = []) (hrefill : m.refill = []) (hbufs : m.bufs = []) : let t := s.restoreEnd c n v
    (∃ j, t.core c = { (s.core c).fromImage m v with journal := j }) ∧ ∀ k ∈ t.coreImages, ¬(k.core = c ∧ k.ctx = n) := by
  obtain ⟨u, hu⟩ : ∃ u : State, u = { s with
    saves := SMap.erase s.saves c
    coreImages := s.coreImages.filter fun m => m.core != c || m.ctx != n
    strandImages := s.strandImages.filter fun m => m.core != c || m.ctx != n } := ⟨_, rfl⟩
  have hmc : m.core = c := by
    have h := List.find?_some hm
    simp only [Bool.and_eq_true, beq_iff_eq] at h
    exact h.1
  obtain ⟨w, hw⟩ : ∃ w, w = u.restoreCore m v := ⟨_, rfl⟩
  have hcore : w.core c = (s.core c).fromImage m v ∧ w.coreImages = u.coreImages := by
    have huc : u.core c = s.core c := by rw [hu]; rfl
    obtain ⟨h1, h2⟩ := ((u.modCore c fun x => x.fromImage m v).cleanCore c).unspillNet_nil c hbufs
    rw [hw, State.restoreCore, hmc, h1, h2, ← huc]
    exact ⟨u.core_modCore_same c fun x => x.fromImage m v, rfl⟩
  have hend : s.restoreEnd c n v = w.placeRefused c (v.refused 4 0xA5800) := by
    unfold State.restoreEnd
    dsimp only
    rw [hm, hs, ← hu]
    exact ((u.restoreCore m v).restoreRest_nil v hspill hrefill).trans (by rw [hmc, hw])
  obtain ⟨⟨j, hj⟩, himg⟩ := w.placeRefused_effect c (v.refused 4 0xA5800)
  intro t
  rw [show t = _ from hend]
  refine ⟨⟨j, by rw [hj, hcore.1]⟩, fun k hk => ?_⟩
  rw [himg, hcore.2, hu] at hk
  have hother := (List.mem_filter.mp hk).2
  simp only [Bool.or_eq_true, bne_iff_ne] at hother
  tauto

/-- What a core image leaves in a core (R380). -/
theorem Core.fromImage_state (x : Core) (m : CoreImage) (v : Save) :
    (x.fromImage m v).bkmd0 = v.word 4 0x90000 ∧ (x.fromImage m v).ctx = some m.ctx ∧ (x.fromImage m v).l1 = [] ∧
      (x.fromImage m v).streams = m.streams := ⟨rfl, rfl, rfl, rfl⟩

theorem Core.fromImage_accOf (x : Core) (m : CoreImage) (v : Save) {a : Nat} (ha : a < 8) :
    (x.fromImage m v).accOf a = { words := accOfLines fun k => v.line 4 (5216 + 8 * a + k), owner := none } :=
  SMap.getD_range_map (fun a => ({ words := accOfLines fun k => v.line 4 (5216 + 8 * a + k), owner := none } : Acc)) _ ha

/-- The copy id of a core image, and its group entry (R380). -/
def CoreImage.copyOf (m : CoreImage) (v : Save) (id : Nat) : CopyId :=
  let w := fun k => v.word 4 (0xA5000 + 32 * id + 8 * k)
  { SMap.getD m.copies id CopyId.reset with w0 := w 0, w1 := w 1, w2 := w 2, w3 := w 3 }

def CoreImage.groupOf (m : CoreImage) (v : Save) (n : Nat) : Group :=
  let w := fun k => v.word 4 (0x90000 + 8 * k)
  { SMap.getD m.groups n Group.reset with
    desc := w (402 + 2 * n), gen := (w (403 + 2 * n)).setWidth 8, drain := bits (w (403 + 2 * n)) 8 32 }

theorem Core.fromImage_copyId (x : Core) (m : CoreImage) (v : Save) {id : Nat} (h : id < 64) :
    (x.fromImage m v).copyId id = m.copyOf v id := SMap.getD_range_map (m.copyOf v) _ h

theorem Core.fromImage_group (x : Core) (m : CoreImage) (v : Save) {n : Nat} (h : n < 16) : (x.fromImage m v).group n = m.groupOf v n :=
  SMap.getD_range_map (m.groupOf v) _ h

end Sys2Proof.Machine
end

section
/-!
PROOFS. The kill of a context, and the restart of a halted strand (R125, R140, R356, R399, R401).
-/

namespace Sys2Proof.Machine

/-! ## The strands of a context end -/

/-- A strand that works for no context, or for another, does so after the end of strands. -/
theorem Ends.ofCtx {s t : State} (h : Ends s t) {c i n : Nat} (hs : (s.strand c i).ofCtx n = false) : (t.strand c i).ofCtx n = false := by
  unfold Strand.ofCtx at *
  rcases h.cocoon c i with hc | hc
  · rw [hc]
    exact hs
  · rw [hc]
    rfl

/-- Steps that end strands, each of which brings about what no later one undoes, bring it about for every element. -/
theorem Ends.foldl_each {α : Type} {f : State → α → State} {P : α → State → Prop}
    (hP : ∀ a s t, Ends s t → P a s → P a t) (l : List α) (hf : ∀ s, ∀ a ∈ l, Ends s (f s a) ∧ P a (f s a)) (s : State) : Ends s (l.foldl f s) ∧ ∀ a ∈ l, P a (l.foldl f s) := by
  induction l generalizing s with
  | nil => exact ⟨Ends.refl s, fun _ h => absurd h List.not_mem_nil⟩
  | cons a l ih =>
    obtain ⟨h1, h2⟩ := hf s a List.mem_cons_self
    obtain ⟨he, ha⟩ := ih (fun s b hb => hf s b (List.mem_cons_of_mem _ hb)) (f s a)
    refine ⟨h1.trans he, fun b hb => ?_⟩
    rcases List.mem_cons.mp hb with rfl | hb
    · exact hP b _ _ he h2
    · exact ha b hb

/-- The strands of a context on a core end (R401). -/
def State.killCtxOn (s : State) (n c : Nat) : State :=
  [0, 1, 2, 3].foldl (fun s i => if (s.strand c i).ofCtx n then s.killStrand c i else s) s

theorem State.killCtxOn_effect (s : State) (n c : Nat) :
    Ends s (s.killCtxOn n c) ∧ ∀ i, i < 4 → ((s.killCtxOn n c).strand c i).ofCtx n = false := by
  obtain ⟨he, ha⟩ := Ends.foldl_each (P := fun i (t : State) => (t.strand c i).ofCtx n = false)
    (f := fun s i => if (s.strand c i).ofCtx n then s.killStrand c i else s) (fun _ _ _ h => h.ofCtx) [0, 1, 2, 3] (fun s i hi => by
      have hi4 : i < 4 := by
        simp only [List.mem_cons, List.not_mem_nil, or_false] at hi
        omega
      split
      next =>
        obtain ⟨hk, hnone⟩ := s.killStrand_cocoon c hi4
        exact ⟨hk, by rw [Strand.ofCtx, hnone]; rfl⟩
      next h => exact ⟨Ends.refl s, by simpa using h⟩) s
  refine ⟨he, fun i hi => ha i ?_⟩
  simp only [List.mem_cons, List.not_mem_nil, or_false]
  omega

theorem Core.strand_reset_cocoon (i : Nat) : (Core.reset.strand i).cocoon = none := by
  by_cases hi : i < 4
  · interval_cases i <;> rfl
  · rw [Core.strand_of_ge _ hi]
    rfl

/-- No strand of any core works for a context any more. -/
theorem State.foldl_killCtxOn (s : State) (n : Nat) : let t := s.cores.foldl (fun s e => s.killCtxOn n e.1) s
    Ends s t ∧ ∀ c i, i < 4 → (t.strand c i).ofCtx n = false := by
  have hstep : ∀ (u : State), ∀ e ∈ s.cores,
      Ends u (u.killCtxOn n e.1) ∧ ∀ i, i < 4 → ((u.killCtxOn n e.1).strand e.1 i).ofCtx n = false :=
    fun u e _ => u.killCtxOn_effect n e.1
  have hkeep : ∀ (e : Nat × Core) (u v : State), Ends u v → (∀ i, i < 4 → (u.strand e.1 i).ofCtx n = false) →
      ∀ i, i < 4 → (v.strand e.1 i).ofCtx n = false := fun _ _ _ h hs i hi => h.ofCtx (hs i hi)
  obtain ⟨he, ha⟩ := Ends.foldl_each hkeep s.cores hstep s
  refine ⟨he, fun c i hi => ?_⟩
  rcases SMap.getD_mem_or s.cores c .reset with hr | hm
  · refine he.ofCtx ?_
    rw [State.strand, State.core, hr, Strand.ofCtx, Core.strand_reset_cocoon]
    rfl
  · exact ha _ hm i hi

/-! ## The write of KILLCTX -/

/-- The launches of a context end, but for those whose work has ended. -/
def State.endLaunches (s : State) (n : Nat) : State :=
  (s.launchesOf n).foldl (fun s e =>
    if e.2.phase = .taken || e.2.phase = .closing || s.finished e.1 e.2 then s else s.endLaunch e.1 7 0) s

theorem State.endLaunches_ends (s : State) (n : Nat) : Ends s (s.endLaunches n) := by
  refine Ends.foldl (fun s e hs => ?_) (s.launchesOf n) (Ends.refl s)
  split
  · exact hs
  · exact hs.endLaunch _ _ _

theorem killctx_begin {s : State} {n : Nat} (hn : n < 256) (hb : s.bar2 = true) (hk : s.killBusy = false) :
    ∃ t, exec (.killctx n) s = .next t ∧ (t.context n).onCores = false ∧ (t.context n).st = 3 ∧ t.killBusy = true ∧ t.killCtx = n ∧
      ∀ c i, i < 4 → (t.strand c i).ofCtx n = false := by
  obtain ⟨u, hu⟩ : ∃ u : State, u = { s with killBusy := true, killCtx := n } := ⟨_, rfl⟩
  obtain ⟨v, hv⟩ : ∃ v, v = u.endLaunches n := ⟨_, rfl⟩
  obtain ⟨w, hw⟩ : ∃ w, w = v.cores.foldl (fun s e => s.killCtxOn n e.1) v := ⟨_, rfl⟩
  obtain ⟨y, hy⟩ : ∃ y, y = w.returnLeases fun l => l.ctx == some n := ⟨_, rfl⟩
  obtain ⟨z, hz⟩ : ∃ z, z = y.modContext n fun x => { x with st := 3, onCores := false } := ⟨_, rfl⟩
  have hexec : exec (.killctx n) s = .next (z.devAsk epLaunch none (y.ctxAt n)) := by
    refine (if_neg (by simp [hn])).trans ((if_neg (by simp [hb])).trans ((if_neg (by simp [hk])).trans ?_))
    rw [hz, hy, hw, hv, hu]
    rfl
  obtain ⟨hends, hnone⟩ := v.foldl_killCtxOn n
  rw [← hw] at hends hnone
  have hall : Ends u w := (hv ▸ u.endLaunches_ends n : Ends u v).trans hends
  have hpow : PowerOnly w y := hy ▸ w.returnLeases_powerOnly _
  have hdev := z.devAsk_devOnly epLaunch none (y.ctxAt n)
  have hkept : y.cores = w.cores ∧ y.killBusy = w.killBusy ∧ y.killCtx = w.killCtx := by
    rw [PowerOnly] at hpow
    rw [hpow]
    exact ⟨rfl, rfl, rfl⟩
  have hzy : z.cores = y.cores ∧ z.killBusy = y.killBusy ∧ z.killCtx = y.killCtx := by rw [hz]; exact ⟨rfl, rfl, rfl⟩
  have hctx : z.context n = { y.context n with st := 3, onCores := false } := by rw [hz]; exact SMap.getD_set_same _ _ _ _
  have ht : (z.devAsk epLaunch none (y.ctxAt n)).context n = z.context n ∧ (z.devAsk epLaunch none (y.ctxAt n)).killBusy = z.killBusy ∧
      (z.devAsk epLaunch none (y.ctxAt n)).killCtx = z.killCtx := by
    rw [DevOnly] at hdev
    rw [hdev]
    exact ⟨rfl, rfl, rfl⟩
  refine ⟨_, hexec, ?_, ?_, ?_, ?_, fun c i hi => ?_⟩
  · rw [ht.1, hctx]
  · rw [ht.1, hctx]
  · rw [ht.2.1, hzy.2.1, hkept.2.1, hall.killBusy, hu]
  · rw [ht.2.2, hzy.2.2, hkept.2.2, hall.killCtx, hu]
  · rw [hdev.strand, State.strand, State.core, hzy.1, hkept.1]
    exact hnone c i hi

/-! ## The kill goes on -/

section Go

variable {s : State} {n : Nat} (hn : n < 256) (hb : s.bar2 = true) (hk : s.killBusy = true)
include hn hb hk

theorem exec_killctx_busy : exec (.killctx n) s = .next (s.killGo s.killCtx) :=
  (if_neg (by simp [hn])).trans ((if_neg (by simp [hb])).trans (if_pos hk))

/-- The kill waits for the context's descriptor (R401). -/
theorem killctx_reads (h : s.devHave epLaunch [s.ctxAt s.killCtx] = false) :
    ∃ t, exec (.killctx n) s = .next t ∧ t.contexts = s.contexts ∧ t.killBusy = true := by
  have hw := s.devWant_devOnly epLaunch none (s.ctxAt s.killCtx)
  have hgo : s.killGo s.killCtx = s.devWant epLaunch none [s.ctxAt s.killCtx] := if_pos (by rw [h]; rfl)
  refine ⟨_, (exec_killctx_busy hn hb hk).trans (congrArg _ hgo), ?_, ?_⟩ <;> rw [DevOnly] at hw <;> rw [hw]
  exact hk

theorem exec_killctx_goes {u : State} (h : s.devHave epLaunch [s.ctxAt s.killCtx] = true)
    (hu : s.killTensors (s.ctxAsid s.killCtx) = u) : exec (.killctx n) s =
    .next (if !u.killDone s.killCtx then u
      else if u.ctxValid s.killCtx then u.devPutNum epLaunch (s.ctxAt s.killCtx) 6 2 (u.ctxFlags s.killCtx / 2 * 2)
      else if u.devIdle epLaunch (s.ctxAt s.killCtx) then (u.devUsed epLaunch [s.ctxAt s.killCtx]).endKill s.killCtx
      else u) := by
  rw [exec_killctx_busy hn hb hk, ← hu]
  exact congrArg Host.Outcome.next (if_neg (by rw [h]; decide))

end Go

/-! ## The end of a kill -/

/-- A core that a context has left is empty (R125). -/
def Core.Left (x : Core) : Prop := x.ctx = none ∧ x.tiles = [] ∧ x.l1 = [] ∧ x.bkmd0 = 0

theorem Core.emptied_left (x : Core) (n : Nat) : (x.emptied n).Left := ⟨rfl, rfl, rfl, rfl⟩

/-- The core is emptied where a context holds its state. -/
def State.emptyOn (s : State) (n : Nat) (e : Nat × Core) : State :=
  if e.2.ctx = some n then (s.modCore e.1 (·.emptied n)).cleanCore e.1 else s

/-- `t` differs from `s` in cores and in what of their arrays is in error at most, and no core that was left has anything again. -/
def Empties (s t : State) : Prop := t = { s with cores := t.cores, env := t.env } ∧ ∀ c, (s.core c).Left → (t.core c).Left

theorem Empties.refl (s : State) : Empties s s := ⟨rfl, fun _ h => h⟩

theorem Empties.trans {s t u : State} (a : Empties s t) (b : Empties t u) : Empties s u :=
  ⟨by rw [b.1, a.1], fun c h => b.2 c (a.2 c h)⟩

theorem State.emptyOn_effect (s : State) (n : Nat) (e : Nat × Core) :
    Empties s (s.emptyOn n e) ∧ (e.2.ctx = some n → ((s.emptyOn n e).core e.1).Left) := by
  unfold State.emptyOn
  split
  next =>
    have hcore : ∀ k, (((s.modCore e.1 (·.emptied n)).cleanCore e.1).core k) = (s.modCore e.1 (·.emptied n)).core k := fun _ => rfl
    have hleft : (((s.modCore e.1 (·.emptied n)).cleanCore e.1).core e.1).Left := by
      rw [hcore, State.core_modCore_same]
      exact Core.emptied_left _ n
    refine ⟨⟨rfl, fun k h => ?_⟩, fun _ => hleft⟩
    by_cases hk : k = e.1
    · rw [hk]
      exact hleft
    · rw [hcore, State.core_modCore_other _ _ hk]
      exact h
  next h => exact ⟨Empties.refl s, fun he => absurd he h⟩

theorem State.foldl_emptyOn (n : Nat) (l : SMap Core) (s : State) : Empties s (l.foldl (fun s e => s.emptyOn n e) s) ∧
    ∀ e ∈ l, e.2.ctx = some n → ((l.foldl (fun s e => s.emptyOn n e) s).core e.1).Left := by
  induction l generalizing s with
  | nil => exact ⟨Empties.refl s, fun _ h => absurd h List.not_mem_nil⟩
  | cons a l ih =>
    obtain ⟨h1, h2⟩ := s.emptyOn_effect n a
    obtain ⟨he, hl⟩ := ih (s.emptyOn n a)
    refine ⟨h1.trans he, fun b hb hctx => ?_⟩
    rcases List.mem_cons.mp hb with rfl | hb
    · exact he.2 _ (h2 hctx)
    · exact hl b hb hctx

/-- `t` differs from `s` in its logged tensors and their logs at most. -/
def TensorsOnly (s t : State) : Prop := t = { s with tensors := t.tensors, logs := t.logs }

theorem State.freeTensors_only (s : State) (asid : BitVec 16) : TensorsOnly s (s.freeTensors asid) := by
  refine List.foldlRecOn (motive := TensorsOnly s) s.tensors _ rfl fun t ht e _ => ?_
  split
  · rw [TensorsOnly] at ht ⊢
    rw [ht]
    rfl
  · exact ht

theorem State.gateRegions_only (s : State) : s.gateRegions = { s with regions := s.gateRegions.regions } := by
  unfold State.gateRegions
  refine List.foldlRecOn (motive := fun t : State => t = { s with regions := t.regions }) s.regions _ rfl fun t ht e _ => ?_
  split
  · rw [ht]
    rfl
  · exact ht

/-- The group of a resize is no longer held, where one was under way (R369). -/
def State.groupLet (s : State) (n : Nat) : State :=
  match s.resizeGroup n with
  | some k => if (s.context n).resize = 0 then s else s.modGroup k fun g => { g with held := false }
  | none => s

theorem State.groupLet_only (s : State) (n : Nat) : s.groupLet n = { s with barGroups := (s.groupLet n).barGroups } := by
  unfold State.groupLet
  split
  · split <;> rfl
  · rfl

/-- What the end of a kill clears beside the cores (R399, R401). -/
def State.killOff (s : State) (n : Nat) : State :=
  { s.modContext n fun x => { x with st := 0, onCores := false, resize := 0 } with
    killBusy := false
    msix := s.msix ++ [64]
    saves := s.saves.filter fun e => e.2.ctx != n
    coreImages := s.coreImages.filter fun m => m.ctx != n
    strandImages := s.strandImages.filter fun m => m.ctx != n
    migrated := s.migrated.filter fun m => m.ctx != n }

theorem State.endKill_effect (s : State) (n : Nat) : let t := s.endKill n
    t.killBusy = false ∧ (t.context n).st = 0 ∧ t.msix = s.msix ++ [64] ∧ (∀ m ∈ t.strandImages ++ t.migrated, m.ctx ≠ n) ∧
      (∀ m ∈ t.coreImages, m.ctx ≠ n) ∧ ∀ c, (s.core c).ctx = some n → (t.core c).Left := by
  obtain ⟨u, hu⟩ : ∃ u, u = s.freeTensors (s.ctxAsid n) := ⟨_, rfl⟩
  obtain ⟨v, hv⟩ : ∃ v, v = u.cores.foldl (fun s e => s.emptyOn n e) u := ⟨_, rfl⟩
  have hfree : TensorsOnly s u := hu ▸ s.freeTensors_only _
  obtain ⟨hempty, hleft⟩ := State.foldl_emptyOn n u.cores u
  rw [← hv] at hempty hleft
  have huc : u.cores = s.cores ∧ u.msix = s.msix := by
    rw [TensorsOnly] at hfree
    rw [hfree]
    exact ⟨rfl, rfl⟩
  have hvm : v.msix = u.msix := by rw [hempty.1]
  have hcores : ∀ c, (s.core c).ctx = some n → (v.core c).Left := fun c hc => by
    rcases SMap.getD_mem_or s.cores c .reset with hr | hm
    · rw [State.core, hr] at hc
      cases hc
    · exact hleft (c, s.core c) (huc.1.symm ▸ hm) hc
  obtain ⟨w, hw⟩ : ∃ w, w = v.groupLet n := ⟨_, rfl⟩
  have hwv : w.cores = v.cores ∧ w.msix = v.msix := by
    have h := v.groupLet_only n
    rw [← hw] at h
    rw [h]
    exact ⟨rfl, rfl⟩
  obtain ⟨y, hy⟩ : ∃ y, y = w.killOff n := ⟨_, rfl⟩
  have hend : s.endKill n = y.gateRegions := by
    rw [hy, hw, hv, hu]
    rfl
  have hgate := y.gateRegions_only
  have hyn : y.killBusy = false ∧ (y.context n).st = 0 ∧ y.msix = w.msix ++ [64] ∧
      (∀ m ∈ y.strandImages ++ y.migrated, m.ctx ≠ n) ∧ (∀ m ∈ y.coreImages, m.ctx ≠ n) ∧ y.cores = w.cores := by
    rw [hy]
    refine ⟨rfl, congrArg Context.st (SMap.getD_set_same _ _ _ _), rfl, fun m hm => ?_, fun m hm => ?_, rfl⟩
    · have h : (m.ctx != n) = true := (List.mem_append.mp hm).elim (fun h => (List.mem_filter.mp h).2) fun h => (List.mem_filter.mp h).2
      exact bne_iff_ne.mp h
    · exact bne_iff_ne.mp (List.mem_filter.mp hm).2
  intro t
  have ht : t = { y with regions := t.regions } := by
    rw [show t = _ from hend]
    exact hgate
  clear_value t
  obtain ⟨h1, h2, h3, h4, h5, h6⟩ := hyn
  rw [ht]
  refine ⟨h1, h2, h3.trans (by rw [hwv.2, hvm, huc.2]), h4, h5, fun c hc => ?_⟩
  have hcore : y.core c = v.core c := by rw [State.core, State.core, h6, hwv.1]
  exact (congrArg Core.Left hcore).mpr (hcores c hc)

/-! ## The restart of a halted strand (R356) -/

theorem exec_restart {s : State} {c i : Nat} (hc : c < 12288) (hi : i < 4) (hb : s.bar2 = true) (hf : (s.core c).fenced = false)
    (hd : (s.core c).dark = false) : exec (.restart c i) s =
      if (s.strand c i).run ≠ RunState.halted then .next s
      else if (s.strand c i).ended then .next ((s.modStrand c i fun t => { t with run := .idle, ended := false }).park c i)
      else .next (s.modStrand c i fun t => { t with run := .running }) := by
  refine (if_neg (by simp [hc]; omega)).trans ?_
  rw [hb, hf, hd]
  simp only [Bool.not_true, Bool.false_or, Bool.or_false, bne_iff_ne]

theorem State.mem_parked_park (s : State) (c i : Nat) : (c, i) ∈ (s.park c i).parked := by
  unfold State.park
  split
  next h => exact List.contains_iff_mem.mp h
  next => exact List.mem_append_right _ List.mem_cons_self

end Sys2Proof.Machine
end

section
/-!
PROOFS. The ends of turns: watchdog, asynchronous causes, save, restore, kill and restart.
-/

namespace Sys2Proof.Machine

/-- Settles O56, clause by clause: each step by the lemma that says what it leaves. -/
theorem turnsEndComplete : Obligations.TurnsEndComplete := by
  unfold Obligations.TurnsEndComplete
  refine ⟨?_, ?_, ?_, ?_, ?_, ?_⟩
  case refine_1 =>
    intro s q l hq hl w
    refine ⟨fun hp hst h0 hf => ⟨exec_watchdogW1_early hq hl, watchdogW1_effect hq hl ⟨hp, hst, h0, hf⟩⟩,
      fun _ _ => exec_watchdogW2_early hq hl, watchdogW2_effect hq hl, launchEnd_effect hq hl, fun hp ht => ?_, fun hp ht => ?_⟩
    · exact (exec_watchdogW3 hq hl hp).trans (if_pos ht)
    · obtain ⟨-, hin, hout⟩ := State.foldl_fence (s.killing l.ctx) s
      exact ⟨_, (exec_watchdogW3 hq hl hp).trans (if_neg (Nat.not_lt.mpr ht)), fun c hc => hin c (.inl hc), hout⟩
  case refine_2 =>
    intro s c i b hc hi hup hf u hrun hsaved hwait hdue h3 h8 hb
    exact asyncDelivery_effect hc hi hup hf hrun hsaved hwait hdue h3 h8 hb
  case refine_3 =>
    intro s c n hc hn x leaving
    refine ⟨fun hsave hpre hq ho => ⟨exec_preemption_waits hc hn hsave hpre hq ho,
        fun hready => ⟨fun hrun hnone => ?_, fun hwork => ?_⟩⟩,
      fun v hv hback hctx => ⟨fun u k rest hl => ⟨exec_preemption_held hc hn hv hback hctx hl, fun pa p asid hq hat hpa => ?_⟩,
        fun img hl hq himg hp => ?_⟩⟩
    · obtain ⟨hcore, hstr, himg⟩ := s.leaveCore_effect c n
      refine ⟨_, (exec_preemption_ready hc hn hsave hpre hq ho hready).trans (if_pos (by rw [hrun, hnone]; rfl)),
        ?_, ?_, ?_, ?_, hstr, himg⟩
      all_goals rw [hcore]; rfl
    · obtain ⟨img, hv⟩ := s.saveBegin_saves c n
      have hgo : ¬(!s.runsLaunch n && (s.strandsOf c n).isEmpty) = true := by
        rcases hwork with h | h <;> simp [h]
      refine ⟨_, _, (exec_preemption_ready hc hn hsave hpre hq ho hready).trans (if_neg hgo), hv, rfl, rfl, fun i hi hof k hk => ?_,
        fun i a k hi hof ha ho hk => ?_, fun hlv => ⟨fun k hk => ?_, fun a k ha ho hk => ?_⟩, fun hlv k => ?_⟩
      · exact State.mem_saveLines img hi hof hk
      · exact State.mem_saveLines_acc img hi hof ha ho hk
      · exact State.mem_saveLines_core img hlv hk
      · exact State.mem_saveLines_free img hlv ha ho hk
      · exact State.not_mem_saveLines img hlv
    · exact preemption_line hc hn hv hback hctx hl hq hat hpa
    · obtain ⟨hcore, hsaved, himages⟩ := s.saveCore_effect c n img
      refine ⟨_, exec_preemption_ends hc hn hv hback hctx hl hq himg hp, ?_, ?_, ?_, ?_, ?_, hsaved,
        fun i hi hof => ⟨?_, _, himages i hi hof, ?_⟩⟩
      iterate 5 rw [hcore]; rfl
      · rw [State.strand, hcore]
        exact Core.emptied_strand _ hi hof
      · exact ⟨rfl, rfl, rfl, rfl, rfl⟩
  case refine_4 =>
    intro s c n hc hn here mine
    refine ⟨fun hsave hon hup => ⟨fun h => ?_, fun hdue hmay => ?_⟩, fun v hv hback hctx => ⟨fun u k rest p pa asid hl hat => ?_,
      fun m hl hone hs hnone hslot hpre hlease => ?_, fun m hl hone hs hm hspill hrefill hbufs _ => ?_⟩⟩
    · rw [exec_resumeRestore_begin hc hn hsave hon hup]
      exact if_pos (by rcases h with h | h <;> simp [h])
    · refine ⟨_, _, (exec_resumeRestore_begin hc hn hsave hon hup).trans (if_neg (by simp [hdue, hmay])), s.restoreBegin_saves c n, rfl, rfl,
        rfl, rfl, fun m hm hmine k hk => State.mem_restoreLines hm hmine hk, fun h k hk => State.mem_restoreLines_core h hk⟩
    · exact resumeRestore_line hc hn hv hback hctx hl hat
    · exact ⟨_, exec_resumeRestore_ends hc hn hv hback hctx hl hone, State.restoreEnd_strand hs hnone hslot hpre hlease⟩
    · obtain ⟨⟨j, hcore⟩, hgone⟩ := State.restoreEnd_core hs hm hspill hrefill hbufs
      have hmn : m.ctx = n := by
        have h := List.find?_some hm
        simp only [here, Bool.and_eq_true, beq_iff_eq] at h
        exact h.2
      obtain ⟨h1, h2, h3, h4⟩ := (s.core c).fromImage_state m v
      refine ⟨_, exec_resumeRestore_ends hc hn hv hback hctx hl hone, ?_, ?_, ?_, ?_, fun a ha => ?_, fun id hid => ?_,
        fun g hg => ?_, hgone⟩
      all_goals rw [hcore]
      · exact h1
      · exact h2.trans (by rw [hmn])
      · exact h3
      · exact h4
      · rw [Core.accOf_journal, Core.fromImage_accOf _ m v ha]
      · rw [Core.copyId_journal, Core.fromImage_copyId _ m v hid]
        rfl
      · rw [Core.group_journal, Core.fromImage_group _ m v hg]
        rfl
  case refine_5 =>
    intro s n hn
    refine ⟨fun hb => ?_, fun hb hk => killctx_begin hn hb hk, fun hb hk => ?_⟩
    · exact (if_neg (by simp [hn])).trans (if_pos (by rw [hb]; rfl))
    intro k d u
    refine ⟨killctx_reads hn hb hk, fun hd => ?_⟩
    have hexec := exec_killctx_goes (u := u) hn hb hk hd rfl
    clear_value u
    refine ⟨fun hdone => ?_, fun hdone hval => ?_, fun hdone hval hidle => ?_⟩
    · rw [hexec, if_pos (by rw [hdone]; rfl)]
    · refine ⟨u.devPutNum epLaunch d 6 2 (u.ctxFlags k / 2 * 2), ?_, ?_, u.devPutNum_writes d _ (by decide)⟩
      · rw [hexec, if_neg (by rw [hdone]; decide), if_pos hval]
      · have hdev := u.devPutNum_devOnly epLaunch d 6 2 (u.ctxFlags k / 2 * 2) none
        rw [DevOnly] at hdev
        rw [hdev]
    · obtain ⟨h1, h2, h3, h4, h5, h6⟩ := (u.devUsed epLaunch [d]).endKill_effect k
      refine ⟨_, ?_, h1, h2, h3, h4, h5, h6⟩
      rw [hexec, if_neg (by rw [hdone]; decide), if_neg (by rw [hval]; decide), if_pos hidle]
  case refine_6 =>
    intro s c i hc hi hb hf hd
    have hexec := exec_restart hc hi hb hf hd
    refine ⟨fun hrun => hexec.trans (if_pos hrun), fun hrun he => ?_, fun hrun he => ?_⟩
    · refine ⟨_, hexec.trans ((if_neg (not_not.mpr hrun)).trans (if_neg (by rw [he]; decide))), s.modStrand_only c i _, ?_⟩
      exact State.strand_modStrand_same _ _ _ hi
    · refine ⟨_, hexec.trans ((if_neg (not_not.mpr hrun)).trans (if_pos he)), ?_, State.mem_parked_park _ c i⟩
      rw [State.strand, State.core, State.park_cores]
      exact State.strand_modStrand_same _ _ _ hi

end Sys2Proof.Machine
end
